-- ==== Sys2Proof/Word.lean ====
section
/-! DEFINITION. The word types of the device (R4, R31, R42) and their plainest arithmetic. -/
namespace Sys2Proof

abbrev Byte := BitVec 8
abbrev Half := BitVec 16
abbrev Word := BitVec 32
abbrev DWord := BitVec 64

/-- A set of the 32 lanes of a group: bit i stands for lane i (R44, R54). -/
abbrev Mask := BitVec 32

/-- A lane number of a group (R17). -/
abbrev Lane := Fin 32

/-- One 32-bit value per lane: a vector register (R31). -/
abbrev Lanes := Vector (BitVec 32) 32

/-- One 64-bit value per lane: what a latch can hold (R49). -/
abbrev WLanes := Vector (BitVec 64) 32

end Sys2Proof
end

