-- ==== Sys2Proof/Syntax.lean ====
section
/-! DEFINITION. The instructions and events of the device: one constructor per row of spec/opcode_table.json (R51). The
first 266 rows are encoded instruction words (R35, R42), their arguments the fields of the word in the table's order; the
last 74 are the steps the device or its host takes outside a group's program, their arguments what the outside world
brings (which unit, which register, which value). -/
namespace Sys2Proof

/-- The member of a checked pair that a group belongs to (R21, R375); a group of a plain stage is `lead`. -/
inductive Role | lead | trail
deriving DecidableEq, Repr

/-- A unit with a power state (R263): a core by its local index 0 to 5, a matrix engine 0 or 1, the copy engine. -/
inductive UnitKind | core (i : Fin 6) | matrix (i : Fin 2) | copy
deriving DecidableEq, Repr

structure UnitId where
  cluster : Fin 32
  kind    : UnitKind
deriving DecidableEq, Repr

/-- An engine that runs tasks (R138). -/
inductive EngineId | matrix (c : Fin 32) (i : Fin 2) | copy (c : Fin 32)
deriving DecidableEq, Repr

/-- Which place table a host write names (R309). -/
inductive PlaceKind | cluster | slice | bank
deriving DecidableEq, Repr

/-- A host write to BAR0 (R299): the function (0 the PF), the byte offset, 4 or 8 bytes, and whether the request arrived in
the selective IDE stream of the configuration record (R302). -/
structure HostWrite where
  func   : Fin 17
  off    : Nat
  size   : Nat
  val    : BitVec 64
  secure : Bool
deriving DecidableEq, Repr

/-- What the boot sequence meets outside the die (R342 to R344): the signing key offered, the firmware image and its signature, the
configuration record with its signature, and whether memory training succeeds. -/
structure BootInput where
  key      : List (BitVec 8)
  firmware : List (BitVec 8)
  fwSig    : List (BitVec 8)
  record   : List (BitVec 8)
  train    : Bool
deriving DecidableEq, Repr

/-- Where an uncorrectable error is met outside a group's own instruction (R366); in a checked pair, whether both members meet it alike. -/
inductive EccSite
  | storage (pa : Nat)                       -- an L2 line, a bank or main memory with no requester
  | heddleTag (pa : Nat)                     -- a heddle tag met with no requester
  | heddleRequest (w : Nat) (g : Fin 16) (pa : Nat) -- a heddle tag read for a request of a group
  | laneRead (both : Bool)                   -- a register, latch or predicate read by the issuing group
  | fetch (both : Bool)                      -- the code read for the issuing group's next instruction
  | loadData (w : Nat) (g : Fin 16) (both : Bool) -- the data of the group's oldest long-latency result
  | stateBlock (w : Nat) (g : Fin 16) (both : Bool) -- a state block or row during spill, reload or migration
  | commitBuffer (w : Nat) (g : Fin 16)      -- an entry of a commit buffer
deriving DecidableEq, Repr

/-- One constructor per row of the opcode table. -/
inductive Instr where
  | iadd (b : BitVec 7) (a : BitVec 7) (n : Bool) (d : BitVec 7)
  | isub (b : BitVec 7) (a : BitVec 7) (n : Bool) (d : BitVec 7)
  | imul (b : BitVec 7) (a : BitVec 7) (n : Bool) (d : BitVec 7)
  | imulh (b : BitVec 7) (a : BitVec 7) (n : Bool) (d : BitVec 7)
  | imulhu (b : BitVec 7) (a : BitVec 7) (n : Bool) (d : BitVec 7)
  | iadds (b : BitVec 7) (a : BitVec 7) (n : Bool) (d : BitVec 7)
  | isubs (b : BitVec 7) (a : BitVec 7) (n : Bool) (d : BitVec 7)
  | iabsd (b : BitVec 7) (a : BitVec 7) (n : Bool) (d : BitVec 7)
  | iaddi (i : BitVec 7) (a : BitVec 7) (n : Bool) (d : BitVec 7)
  | imuli (i : BitVec 7) (a : BitVec 7) (n : Bool) (d : BitVec 7)
  | andi (i : BitVec 7) (a : BitVec 7) (n : Bool) (d : BitVec 7)
  | ori (i : BitVec 7) (a : BitVec 7) (n : Bool) (d : BitVec 7)
  | xori (i : BitVec 7) (a : BitVec 7) (n : Bool) (d : BitVec 7)
  | shli (i : BitVec 7) (a : BitVec 7) (n : Bool) (d : BitVec 7)
  | shri (i : BitVec 7) (a : BitVec 7) (n : Bool) (d : BitVec 7)
  | sari (i : BitVec 7) (a : BitVec 7) (n : Bool) (d : BitVec 7)
  | and (b : BitVec 7) (a : BitVec 7) (n : Bool) (d : BitVec 7)
  | or (b : BitVec 7) (a : BitVec 7) (n : Bool) (d : BitVec 7)
  | xor (b : BitVec 7) (a : BitVec 7) (n : Bool) (d : BitVec 7)
  | andn (b : BitVec 7) (a : BitVec 7) (n : Bool) (d : BitVec 7)
  | orn (b : BitVec 7) (a : BitVec 7) (n : Bool) (d : BitVec 7)
  | xnor (b : BitVec 7) (a : BitVec 7) (n : Bool) (d : BitVec 7)
  | shl (b : BitVec 7) (a : BitVec 7) (n : Bool) (d : BitVec 7)
  | shr (b : BitVec 7) (a : BitVec 7) (n : Bool) (d : BitVec 7)
  | sar (b : BitVec 7) (a : BitVec 7) (n : Bool) (d : BitVec 7)
  | rotl (b : BitVec 7) (a : BitVec 7) (n : Bool) (d : BitVec 7)
  | imin (b : BitVec 7) (a : BitVec 7) (n : Bool) (d : BitVec 7)
  | imax (b : BitVec 7) (a : BitVec 7) (n : Bool) (d : BitVec 7)
  | umin (b : BitVec 7) (a : BitVec 7) (n : Bool) (d : BitVec 7)
  | umax (b : BitVec 7) (a : BitVec 7) (n : Bool) (d : BitVec 7)
  | iaddc (b : BitVec 7) (a : BitVec 7) (n : Bool) (d : BitVec 7)
  | isubb (b : BitVec 7) (a : BitVec 7) (n : Bool) (d : BitVec 7)
  | iabs (a : BitVec 7) (n : Bool) (d : BitVec 7)
  | ineg (a : BitVec 7) (n : Bool) (d : BitVec 7)
  | not (a : BitVec 7) (n : Bool) (d : BitVec 7)
  | popc (a : BitVec 7) (n : Bool) (d : BitVec 7)
  | clz (a : BitVec 7) (n : Bool) (d : BitVec 7)
  | ctz (a : BitVec 7) (n : Bool) (d : BitVec 7)
  | brev (a : BitVec 7) (n : Bool) (d : BitVec 7)
  | bswap (a : BitVec 7) (n : Bool) (d : BitVec 7)
  | bfx (b : BitVec 7) (a : BitVec 7) (n : Bool) (d : BitVec 7)
  | bfxu (b : BitVec 7) (a : BitVec 7) (n : Bool) (d : BitVec 7)
  | bfi (b : BitVec 7) (a : BitVec 7) (n : Bool) (d : BitVec 7)
  | fshl (b : BitVec 7) (a : BitVec 7) (n : Bool) (d : BitVec 7)
  | fshr (b : BitVec 7) (a : BitVec 7) (n : Bool) (d : BitVec 7)
  | lea (b : BitVec 7) (a : BitVec 7) (n : Bool) (d : BitVec 7)
  | sel (b : BitVec 7) (a : BitVec 7) (n : Bool) (d : BitVec 7)
  | imad (b : BitVec 7) (a : BitVec 7) (n : Bool) (d : BitVec 7)
  | mov (a : BitVec 7) (n : Bool) (d : BitVec 7)
  | sprd (a : BitVec 7) (n : Bool) (d : BitVec 7)
  | spwr (b : BitVec 7) (a : BitVec 7)
  | rdlane (b : BitVec 7) (a : BitVec 7) (n : Bool) (d : BitVec 7)
  | wrlane (b : BitVec 7) (a : BitVec 7) (n : Bool) (d : BitVec 7)
  | rfl (a : BitVec 7) (n : Bool) (d : BitVec 7)
  | movp (a : BitVec 7) (n : Bool) (d : BitVec 7)
  | ptom (a : BitVec 7) (n : Bool) (d : BitVec 7)
  | movi (i : BitVec 17) (n : Bool) (d : BitVec 7)
  | eq (b : BitVec 7) (a : BitVec 7) (g : Bool) (x : Bool) (p : BitVec 6)
  | ne (b : BitVec 7) (a : BitVec 7) (g : Bool) (x : Bool) (p : BitVec 6)
  | lt (b : BitVec 7) (a : BitVec 7) (g : Bool) (x : Bool) (p : BitVec 6)
  | le (b : BitVec 7) (a : BitVec 7) (g : Bool) (x : Bool) (p : BitVec 6)
  | ltu (b : BitVec 7) (a : BitVec 7) (g : Bool) (x : Bool) (p : BitVec 6)
  | leu (b : BitVec 7) (a : BitVec 7) (g : Bool) (x : Bool) (p : BitVec 6)
  | tst (b : BitVec 7) (a : BitVec 7) (g : Bool) (x : Bool) (p : BitVec 6)
  | tstz (b : BitVec 7) (a : BitVec 7) (g : Bool) (x : Bool) (p : BitVec 6)
  | feq (b : BitVec 7) (a : BitVec 7) (g : Bool) (x : Bool) (p : BitVec 6)
  | fne (b : BitVec 7) (a : BitVec 7) (g : Bool) (x : Bool) (p : BitVec 6)
  | flt (b : BitVec 7) (a : BitVec 7) (g : Bool) (x : Bool) (p : BitVec 6)
  | fle (b : BitVec 7) (a : BitVec 7) (g : Bool) (x : Bool) (p : BitVec 6)
  | fgt (b : BitVec 7) (a : BitVec 7) (g : Bool) (x : Bool) (p : BitVec 6)
  | fge (b : BitVec 7) (a : BitVec 7) (g : Bool) (x : Bool) (p : BitVec 6)
  | funord (b : BitVec 7) (a : BitVec 7) (g : Bool) (x : Bool) (p : BitVec 6)
  | ford (b : BitVec 7) (a : BitVec 7) (g : Bool) (x : Bool) (p : BitVec 6)
  | pand (b : BitVec 7) (a : BitVec 7) (g : Bool) (x : Bool) (p : BitVec 6)
  | por (b : BitVec 7) (a : BitVec 7) (g : Bool) (x : Bool) (p : BitVec 6)
  | pxor (b : BitVec 7) (a : BitVec 7) (g : Bool) (x : Bool) (p : BitVec 6)
  | pandn (b : BitVec 7) (a : BitVec 7) (g : Bool) (x : Bool) (p : BitVec 6)
  | pnot (a : BitVec 7) (g : Bool) (x : Bool) (p : BitVec 6)
  | pmov (a : BitVec 7) (g : Bool) (x : Bool) (p : BitVec 6)
  | pclr (g : Bool) (x : Bool) (p : BitVec 6)
  | pset (g : Bool) (x : Bool) (p : BitVec 6)
  | eqImm (i : BitVec 7) (a : BitVec 7) (g : Bool) (x : Bool) (p : BitVec 6)
  | neImm (i : BitVec 7) (a : BitVec 7) (g : Bool) (x : Bool) (p : BitVec 6)
  | ltImm (i : BitVec 7) (a : BitVec 7) (g : Bool) (x : Bool) (p : BitVec 6)
  | leImm (i : BitVec 7) (a : BitVec 7) (g : Bool) (x : Bool) (p : BitVec 6)
  | ltuImm (i : BitVec 7) (a : BitVec 7) (g : Bool) (x : Bool) (p : BitVec 6)
  | leuImm (i : BitVec 7) (a : BitVec 7) (g : Bool) (x : Bool) (p : BitVec 6)
  | tstImm (i : BitVec 7) (a : BitVec 7) (g : Bool) (x : Bool) (p : BitVec 6)
  | tstzImm (i : BitVec 7) (a : BitVec 7) (g : Bool) (x : Bool) (p : BitVec 6)
  | fadd (b : BitVec 7) (a : BitVec 7) (n : Bool) (d : BitVec 7)
  | fsub (b : BitVec 7) (a : BitVec 7) (n : Bool) (d : BitVec 7)
  | fmul (b : BitVec 7) (a : BitVec 7) (n : Bool) (d : BitVec 7)
  | fmin (b : BitVec 7) (a : BitVec 7) (n : Bool) (d : BitVec 7)
  | fmax (b : BitVec 7) (a : BitVec 7) (n : Bool) (d : BitVec 7)
  | fminn (b : BitVec 7) (a : BitVec 7) (n : Bool) (d : BitVec 7)
  | fmaxn (b : BitVec 7) (a : BitVec 7) (n : Bool) (d : BitVec 7)
  | fcpsgn (b : BitVec 7) (a : BitVec 7) (n : Bool) (d : BitVec 7)
  | ffma (b : BitVec 7) (a : BitVec 7) (n : Bool) (d : BitVec 7)
  | ffms (b : BitVec 7) (a : BitVec 7) (n : Bool) (d : BitVec 7)
  | fnma (b : BitVec 7) (a : BitVec 7) (n : Bool) (d : BitVec 7)
  | fnms (b : BitVec 7) (a : BitVec 7) (n : Bool) (d : BitVec 7)
  | hfma2 (b : BitVec 7) (a : BitVec 7) (n : Bool) (d : BitVec 7)
  | bfma2 (b : BitVec 7) (a : BitVec 7) (n : Bool) (d : BitVec 7)
  | idp4 (b : BitVec 7) (a : BitVec 7) (n : Bool) (d : BitVec 7)
  | hdp2 (b : BitVec 7) (a : BitVec 7) (n : Bool) (d : BitVec 7)
  | hadd2 (b : BitVec 7) (a : BitVec 7) (n : Bool) (d : BitVec 7)
  | hsub2 (b : BitVec 7) (a : BitVec 7) (n : Bool) (d : BitVec 7)
  | hmul2 (b : BitVec 7) (a : BitVec 7) (n : Bool) (d : BitVec 7)
  | hmax2 (b : BitVec 7) (a : BitVec 7) (n : Bool) (d : BitVec 7)
  | badd2 (b : BitVec 7) (a : BitVec 7) (n : Bool) (d : BitVec 7)
  | bsub2 (b : BitVec 7) (a : BitVec 7) (n : Bool) (d : BitVec 7)
  | bmul2 (b : BitVec 7) (a : BitVec 7) (n : Bool) (d : BitVec 7)
  | bmax2 (b : BitVec 7) (a : BitVec 7) (n : Bool) (d : BitVec 7)
  | frcp (a : BitVec 7) (n : Bool) (d : BitVec 7)
  | frsq (a : BitVec 7) (n : Bool) (d : BitVec 7)
  | fsqrt (a : BitVec 7) (n : Bool) (d : BitVec 7)
  | flg2 (a : BitVec 7) (n : Bool) (d : BitVec 7)
  | fex2 (a : BitVec 7) (n : Bool) (d : BitVec 7)
  | fsin (a : BitVec 7) (n : Bool) (d : BitVec 7)
  | fcos (a : BitVec 7) (n : Bool) (d : BitVec 7)
  | ftanh (a : BitVec 7) (n : Bool) (d : BitVec 7)
  | cvt (r : BitVec 2) (s : BitVec 4) (f : BitVec 4) (a : BitVec 7) (n : Bool) (d : BitVec 7)
  | pk2h (b : BitVec 7) (a : BitVec 7) (n : Bool) (d : BitVec 7)
  | pk2bf (b : BitVec 7) (a : BitVec 7) (n : Bool) (d : BitVec 7)
  | upkhl (a : BitVec 7) (n : Bool) (d : BitVec 7)
  | upkhh (a : BitVec 7) (n : Bool) (d : BitVec 7)
  | upkbl (a : BitVec 7) (n : Bool) (d : BitVec 7)
  | upkbh (a : BitVec 7) (n : Bool) (d : BitVec 7)
  | perm8 (b : BitVec 7) (a : BitVec 7) (n : Bool) (d : BitVec 7)
  | frndn (a : BitVec 7) (n : Bool) (d : BitVec 7)
  | frndz (a : BitVec 7) (n : Bool) (d : BitVec 7)
  | frndd (a : BitVec 7) (n : Bool) (d : BitVec 7)
  | frndu (a : BitVec 7) (n : Bool) (d : BitVec 7)
  | ffrac (a : BitVec 7) (n : Bool) (d : BitVec 7)
  | fclass (a : BitVec 7) (n : Bool) (d : BitVec 7)
  | fgetexp (a : BitVec 7) (n : Bool) (d : BitVec 7)
  | fldexp (b : BitVec 7) (a : BitVec 7) (n : Bool) (d : BitVec 7)
  | scacc (b : BitVec 7) (a : BitVec 7) (n : Bool) (d : BitVec 7)
  | scacc2 (b : BitVec 7) (a : BitVec 7) (n : Bool) (d : BitVec 7)
  | scmul (b : BitVec 7) (a : BitVec 7) (n : Bool) (d : BitVec 7)
  | scaci (b : BitVec 7) (a : BitVec 7) (n : Bool) (d : BitVec 7)
  | scaci2 (b : BitVec 7) (a : BitVec 7) (n : Bool) (d : BitVec 7)
  | shfop (k : BitVec 3) (o : BitVec 4) (m : BitVec 3) (a : BitVec 7) (n : Bool) (d : BitVec 7)
  | perm (b : BitVec 7) (a : BitVec 7) (n : Bool) (d : BitVec 7)
  | permt (b : BitVec 7) (a : BitVec 7) (n : Bool) (d : BitVec 7)
  | perms (b : BitVec 7) (a : BitVec 7) (n : Bool) (d : BitVec 7)
  | compact (b : BitVec 7) (a : BitVec 7) (n : Bool) (d : BitVec 7)
  | vall (a : BitVec 7) (g : Bool) (x : Bool) (p : BitVec 6)
  | vany (a : BitVec 7) (g : Bool) (x : Bool) (p : BitVec 6)
  | veq (a : BitVec 7) (g : Bool) (x : Bool) (p : BitVec 6)
  | vfirst (a : BitVec 7) (g : Bool) (x : Bool) (p : BitVec 6)
  | vlast (a : BitVec 7) (g : Bool) (x : Bool) (p : BitVec 6)
  | matchLanes (a : BitVec 7) (n : Bool) (d : BitVec 7)
  | tfirst (a : BitVec 7) (n : Bool) (d : BitVec 7)
  | tpop (a : BitVec 7) (n : Bool) (d : BitVec 7)
  | setpart (i : BitVec 7) (a : BitVec 7)
  | getpart (n : Bool) (d : BitVec 7)
  | tileid (n : Bool) (d : BitVec 7)
  | tlane (n : Bool) (d : BitVec 7)
  | ldg (z : BitVec 3) (o : BitVec 2) (s : BitVec 2) (l : BitVec 2) (a : BitVec 7) (n : Bool) (d : BitVec 7)
  | ldgPf (z : BitVec 3) (s : BitVec 2) (l : BitVec 2) (a : BitVec 7)
  | stg (z : BitVec 3) (o : BitVec 2) (s : BitVec 2) (l : BitVec 2) (a : BitVec 7) (d : BitVec 7)
  | atgAdd (o : BitVec 2) (s : BitVec 2) (l : BitVec 2) (a : BitVec 7) (d : BitVec 7)
  | atgSub (o : BitVec 2) (s : BitVec 2) (l : BitVec 2) (a : BitVec 7) (d : BitVec 7)
  | atgMin (o : BitVec 2) (s : BitVec 2) (l : BitVec 2) (a : BitVec 7) (d : BitVec 7)
  | atgMax (o : BitVec 2) (s : BitVec 2) (l : BitVec 2) (a : BitVec 7) (d : BitVec 7)
  | atgUmin (o : BitVec 2) (s : BitVec 2) (l : BitVec 2) (a : BitVec 7) (d : BitVec 7)
  | atgUmax (o : BitVec 2) (s : BitVec 2) (l : BitVec 2) (a : BitVec 7) (d : BitVec 7)
  | atgAnd (o : BitVec 2) (s : BitVec 2) (l : BitVec 2) (a : BitVec 7) (d : BitVec 7)
  | atgOr (o : BitVec 2) (s : BitVec 2) (l : BitVec 2) (a : BitVec 7) (d : BitVec 7)
  | atgXor (o : BitVec 2) (s : BitVec 2) (l : BitVec 2) (a : BitVec 7) (d : BitVec 7)
  | atgXchg (o : BitVec 2) (s : BitVec 2) (l : BitVec 2) (a : BitVec 7) (d : BitVec 7)
  | atgCas (o : BitVec 2) (s : BitVec 2) (l : BitVec 2) (a : BitVec 7) (d : BitVec 7)
  | atgFadd (o : BitVec 2) (s : BitVec 2) (l : BitVec 2) (a : BitVec 7) (d : BitVec 7)
  | atgFmin (o : BitVec 2) (s : BitVec 2) (l : BitVec 2) (a : BitVec 7) (d : BitVec 7)
  | atgFmax (o : BitVec 2) (s : BitVec 2) (l : BitVec 2) (a : BitVec 7) (d : BitVec 7)
  | atgInc (o : BitVec 2) (s : BitVec 2) (l : BitVec 2) (a : BitVec 7) (d : BitVec 7)
  | atgDec (o : BitVec 2) (s : BitVec 2) (l : BitVec 2) (a : BitVec 7) (d : BitVec 7)
  | ldl (i : BitVec 7) (z : BitVec 3) (a : BitVec 7) (n : Bool) (d : BitVec 7)
  | stl (i : BitVec 7) (z : BitVec 3) (a : BitVec 7) (d : BitVec 7)
  | atlAdd (o : BitVec 2) (s : BitVec 2) (a : BitVec 7) (d : BitVec 7)
  | atlSub (o : BitVec 2) (s : BitVec 2) (a : BitVec 7) (d : BitVec 7)
  | atlMin (o : BitVec 2) (s : BitVec 2) (a : BitVec 7) (d : BitVec 7)
  | atlMax (o : BitVec 2) (s : BitVec 2) (a : BitVec 7) (d : BitVec 7)
  | atlUmin (o : BitVec 2) (s : BitVec 2) (a : BitVec 7) (d : BitVec 7)
  | atlUmax (o : BitVec 2) (s : BitVec 2) (a : BitVec 7) (d : BitVec 7)
  | atlAnd (o : BitVec 2) (s : BitVec 2) (a : BitVec 7) (d : BitVec 7)
  | atlOr (o : BitVec 2) (s : BitVec 2) (a : BitVec 7) (d : BitVec 7)
  | atlXor (o : BitVec 2) (s : BitVec 2) (a : BitVec 7) (d : BitVec 7)
  | atlXchg (o : BitVec 2) (s : BitVec 2) (a : BitVec 7) (d : BitVec 7)
  | atlCas (o : BitVec 2) (s : BitVec 2) (a : BitVec 7) (d : BitVec 7)
  | atlFadd (o : BitVec 2) (s : BitVec 2) (a : BitVec 7) (d : BitVec 7)
  | atlFmin (o : BitVec 2) (s : BitVec 2) (a : BitVec 7) (d : BitVec 7)
  | atlFmax (o : BitVec 2) (s : BitVec 2) (a : BitVec 7) (d : BitVec 7)
  | atlInc (o : BitVec 2) (s : BitVec 2) (a : BitVec 7) (d : BitVec 7)
  | atlDec (o : BitVec 2) (s : BitVec 2) (a : BitVec 7) (d : BitVec 7)
  | scrAdd (o : BitVec 2) (s : BitVec 2) (a : BitVec 7) (d : BitVec 7)
  | scrFadd (o : BitVec 2) (s : BitVec 2) (a : BitVec 7) (d : BitVec 7)
  | scrMin (o : BitVec 2) (s : BitVec 2) (a : BitVec 7) (d : BitVec 7)
  | scrMax (o : BitVec 2) (s : BitVec 2) (a : BitVec 7) (d : BitVec 7)
  | scrAnd (o : BitVec 2) (s : BitVec 2) (a : BitVec 7) (d : BitVec 7)
  | scrOr (o : BitVec 2) (s : BitVec 2) (a : BitVec 7) (d : BitVec 7)
  | scrXor (o : BitVec 2) (s : BitVec 2) (a : BitVec 7) (d : BitVec 7)
  | scrFmax (o : BitVec 2) (s : BitVec 2) (a : BitVec 7) (d : BitVec 7)
  | scrXchg (o : BitVec 2) (s : BitVec 2) (a : BitVec 7) (d : BitVec 7)
  | scrCas (o : BitVec 2) (s : BitVec 2) (a : BitVec 7) (d : BitVec 7)
  | scrLd (o : BitVec 2) (s : BitVec 2) (a : BitVec 7) (d : BitVec 7)
  | scrSt (o : BitVec 2) (s : BitVec 2) (a : BitVec 7) (d : BitVec 7)
  | fence (o : BitVec 2) (s : BitVec 2)
  | xfence (b : BitVec 4) (a : BitVec 4) (o : BitVec 2) (s : BitVec 2)
  | drainst
  | cinv
  | cflush
  | tkick (b : BitVec 7) (a : BitVec 7)
  | tcancel (a : BitVec 7)
  | tstat (a : BitVec 7) (n : Bool) (d : BitVec 7)
  | binit (b : BitVec 7) (a : BitVec 7)
  | barrive (b : BitVec 7) (a : BitVec 7) (n : Bool) (d : BitVec 7)
  | bexpect (b : BitVec 7) (a : BitVec 7)
  | bwait (b : BitVec 7) (a : BitVec 7) (n : Bool) (d : BitVec 7)
  | btest (a : BitVec 7) (n : Bool) (d : BitVec 7)
  | binval (a : BitVec 7)
  | qpush (b : BitVec 7) (a : BitVec 7)
  | qpop (b : BitVec 7) (d : BitVec 7)
  | qres (a : BitVec 7) (d : BitVec 7)
  | qcommit (b : BitVec 7) (a : BitVec 7)
  | qlen (a : BitVec 7) (d : BitVec 7)
  | ordw (a : BitVec 7) (d : BitVec 7)
  | ordp (a : BitVec 7) (d : BitVec 7)
  | ordr (a : BitVec 7) (d : BitVec 7)
  | bra (i : BitVec 17) (l : Bool) (g : Bool) (p : BitVec 6)
  | call (i : BitVec 17) (l : Bool) (g : Bool) (p : BitVec 6)
  | jmps (a : BitVec 7)
  | calls (a : BitVec 7)
  | ret (a : BitVec 7)
  | exit
  | knot
  | bar (b : BitVec 7) (a : BitVec 7)
  | yield
  | nop
  | migShuttle (i : BitVec 7) (d : BitVec 7)
  | migBeam (i : BitVec 7) (d : BitVec 7)
  | trap (a : BitVec 7)
  | rett
  | rettEnd
  | qry (a : BitVec 7) (d : BitVec 7)
  | ckpt
  | brk
  | selv (y : Bool) (n : BitVec 2) (c : BitVec 7) (b : BitVec 7) (a : BitVec 7)
  | xp (p : BitVec 25)
  | mov16 (b : BitVec 6) (d : BitVec 5)
  | iadd16 (b : BitVec 6) (d : BitVec 5)
  | isub16 (b : BitVec 6) (d : BitVec 5)
  | imul16 (b : BitVec 6) (d : BitVec 5)
  | and16 (b : BitVec 6) (d : BitVec 5)
  | or16 (b : BitVec 6) (d : BitVec 5)
  | xor16 (b : BitVec 6) (d : BitVec 5)
  | shl16 (b : BitVec 6) (d : BitVec 5)
  | shr16 (b : BitVec 6) (d : BitVec 5)
  | sar16 (b : BitVec 6) (d : BitVec 5)
  | imin16 (b : BitVec 6) (d : BitVec 5)
  | imax16 (b : BitVec 6) (d : BitVec 5)
  | fadd16 (b : BitVec 6) (d : BitVec 5)
  | fmul16 (b : BitVec 6) (d : BitVec 5)
  | fmax16 (b : BitVec 6) (d : BitVec 5)
  | fmac (b : BitVec 6) (d : BitVec 5)
  | powerOnReset (b : BootInput)
  | registerWrite (q : HostWrite)
  | partitionEnable (p : Fin 8) (sec : Bool)
  | partitionDisable (p : Fin 8) (sec : Bool)
  | tenantEnable (p : Fin 8) (t : Fin 9) (sec : Bool)
  | tenantDisable (p : Fin 8) (t : Fin 9) (sec : Bool)
  | reside (p : Fin 8) (t : Fin 9) (sec : Bool)
  | release (p : Fin 8) (t : Fin 9) (sec : Bool)
  | preempt (p : Fin 8) (t : Fin 9) (sec : Bool)
  | contextReset (p : Fin 8) (t : Fin 9) (sec : Bool)
  | resume (p : Fin 8) (t : Fin 9) (sec : Bool)
  | ctxcmdInvalid (p : Fin 8) (t : Fin 9) (code : BitVec 32) (sec : Bool)
  | contextDrained (p : Fin 8) (t : Fin 9)
  | drainDeadline (p : Fin 8) (t : Fin 9)
  | placeTableWrite (k : PlaceKind) (n : Nat) (v : BitVec 32)
  | clsuspSet (c : Fin 32)
  | clsuspClear (c : Fin 32)
  | clusterSuspended (c : Fin 32)
  | invalidateAll (tn : BitVec 8)
  | invalidateTenant (tn : BitVec 8)
  | invalidateRange (tn : BitVec 8)
  | invalidationComplete
  | bindingEnable (n : Fin 256) (sec : Bool)
  | bindingDisable (n : Fin 256) (sec : Bool)
  | mbdataWrite (f : Fin 17) (slot : Fin 16) (off : Fin 64) (bytes : List (BitVec 8))
  | heldMessageEntry (f : Fin 17) (slot : Fin 16)
  | apertureRead (f : Fin 17) (off : Nat) (len : Nat)
  | apertureWrite (f : Fin 17) (off : Nat) (bytes : List (BitVec 8))
  | apertureAtomic (f : Fin 17) (off : Nat)
  | precopy (f : Fin 16)
  | stop (f : Fin 16)
  | stopComplete (f : Fin 16)
  | snap (f : Fin 16)
  | snapComplete (f : Fin 16)
  | save (f : Fin 16)
  | run (f : Fin 16)
  | load (f : Fin 16) (k : Nat)
  | winackWrite (f : Fin 16) (n : BitVec 32)
  | qryMaskWrite (f : Fin 16) (leaf : Fin 16) (v : BitVec 32)
  | attestDevice (f : Fin 17)
  | attestTenant (f : Fin 17)
  | attestReportDone (f : Fin 17)
  | domainRingEnable (d : Fin 64) (v : BitVec 32) (sec : Bool)
  | chargeTick
  | periodBoundary
  | bandwidthPeriod
  | cohortLaunch (c : Fin 32)
  | wakeStart (c : Fin 32)
  | wakeComplete (u : UnitId)
  | idleToG1 (u : UnitId)
  | g1ToG2 (u : UnitId)
  | enterG3 (u : UnitId)
  | workgroupRetire (w : Nat)
  | ticketPass (k : Nat)
  | ordwGrant (k : Nat)
  | taskStart (e : EngineId)
  | taskComplete (e : EngineId) (soft : BitVec 4)
  | sliceEnd (c : Fin 32)
  | groupHalt (w : Nat) (g : Fin 16)
  | sliceResume (c : Fin 32)
  | migGrant (w : Nat) (core : Nat)
  | migDeadline (w : Nat)
  | migMove (w : Nat)
  | homeRequest (k : Nat)
  | l1Eviction (core : Nat) (line : Nat)
  | translationWalkComplete (k : Nat)
  | compareTimeout (w : Nat) (g : Fin 16)
  | sspDecision (k : Fin 16)
  | pairRelease (k : Fin 16)
  | selfTestComplete (k : Fin 16) (failLead failTrail : Bool)
  | uncorrectableEcc (e : EccSite)
  | correctedError
  | longLatencyResult (w : Nat) (g : Fin 16) (r : Role)
  | secureStreamKeyed
deriving DecidableEq, Repr

end Sys2Proof
end

