-- ==== Sys2Proof/WellFormed.lean ====
section
/-! DEFINITION. Which field values an instruction word may hold (R52 and the encoding clauses of each chapter). A word whose
fields fail these checks raises cause 0x01 when it is executed. What depends on the prefix word (R38 to R40) is checked at
issue, because the prefix is a word of its own. -/
namespace Sys2Proof

/-- SZ codes 5 to 7 are illegal (R36, R52). -/
def sizeOk (z : BitVec 3) : Bool := decide (z.toNat < 5)

/-- The ordering field is plain or the one ordered form the instruction has (R217). -/
def plainOr (k : Nat) (o : BitVec 2) : Bool := o.toNat == 0 || o.toNat == k

/-- R47: W fields beyond NW are zero and a named W field is not a latch code. -/
def selvOk (n : BitVec 2) (a b c : BitVec 7) : Bool :=
  (if 1 ≤ n.toNat then decide (a.toNat < 120) else a == 0) &&
  (if 2 ≤ n.toNat then decide (b.toNat < 120) else b == 0) &&
  (if 3 ≤ n.toNat then decide (c.toNat < 120) else c == 0)

/-- The encoding checks of every instruction word. Rows that are no instruction words have none. -/
def Instr.wf : Instr → Bool
  | .iadd _ _ _ _ => true
  | .isub _ _ _ _ => true
  | .imul _ _ _ _ => true
  | .imulh _ _ _ _ => true
  | .imulhu _ _ _ _ => true
  | .iadds _ _ _ _ => true
  | .isubs _ _ _ _ => true
  | .iabsd _ _ _ _ => true
  | .iaddi _ _ _ _ => true
  | .imuli _ _ _ _ => true
  | .andi _ _ _ _ => true
  | .ori _ _ _ _ => true
  | .xori _ _ _ _ => true
  | .shli _ _ _ _ => true
  | .shri _ _ _ _ => true
  | .sari _ _ _ _ => true
  | .and _ _ _ _ => true
  | .or _ _ _ _ => true
  | .xor _ _ _ _ => true
  | .andn _ _ _ _ => true
  | .orn _ _ _ _ => true
  | .xnor _ _ _ _ => true
  | .shl _ _ _ _ => true
  | .shr _ _ _ _ => true
  | .sar _ _ _ _ => true
  | .rotl _ _ _ _ => true
  | .imin _ _ _ _ => true
  | .imax _ _ _ _ => true
  | .umin _ _ _ _ => true
  | .umax _ _ _ _ => true
  | .iaddc _ _ _ _ => true
  | .isubb _ _ _ _ => true
  | .iabs _ _ _ => true
  | .ineg _ _ _ => true
  | .not _ _ _ => true
  | .popc _ _ _ => true
  | .clz _ _ _ => true
  | .ctz _ _ _ => true
  | .brev _ _ _ => true
  | .bswap _ _ _ => true
  | .bfx _ _ _ _ => true
  | .bfxu _ _ _ _ => true
  | .bfi _ _ _ _ => true
  | .fshl _ _ _ _ => true
  | .fshr _ _ _ _ => true
  | .lea _ _ _ _ => true
  | .sel _ _ _ _ => true
  | .imad _ _ _ _ => true
  | .mov _ _ _ => true
  | .sprd _ _ _ => true
  | .spwr _ _ => true
  | .rdlane _ _ _ _ => true
  | .wrlane _ _ _ _ => true
  | .rfl _ _ _ => true
  | .movp _ _ _ => true
  | .ptom _ _ _ => true
  | .movi _ _ _ => true
  | .eq _ _ _ _ _ => true
  | .ne _ _ _ _ _ => true
  | .lt _ _ _ _ _ => true
  | .le _ _ _ _ _ => true
  | .ltu _ _ _ _ _ => true
  | .leu _ _ _ _ _ => true
  | .tst _ _ _ _ _ => true
  | .tstz _ _ _ _ _ => true
  | .feq _ _ _ _ _ => true
  | .fne _ _ _ _ _ => true
  | .flt _ _ _ _ _ => true
  | .fle _ _ _ _ _ => true
  | .fgt _ _ _ _ _ => true
  | .fge _ _ _ _ _ => true
  | .funord _ _ _ _ _ => true
  | .ford _ _ _ _ _ => true
  | .pand _ _ _ _ _ => true
  | .por _ _ _ _ _ => true
  | .pxor _ _ _ _ _ => true
  | .pandn _ _ _ _ _ => true
  | .pnot _ _ _ _ => true
  | .pmov _ _ _ _ => true
  | .pclr _ _ _ => true
  | .pset _ _ _ => true
  | .eqImm _ _ _ _ _ => true
  | .neImm _ _ _ _ _ => true
  | .ltImm _ _ _ _ _ => true
  | .leImm _ _ _ _ _ => true
  | .ltuImm _ _ _ _ _ => true
  | .leuImm _ _ _ _ _ => true
  | .tstImm _ _ _ _ _ => true
  | .tstzImm _ _ _ _ _ => true
  | .fadd _ _ _ _ => true
  | .fsub _ _ _ _ => true
  | .fmul _ _ _ _ => true
  | .fmin _ _ _ _ => true
  | .fmax _ _ _ _ => true
  | .fminn _ _ _ _ => true
  | .fmaxn _ _ _ _ => true
  | .fcpsgn _ _ _ _ => true
  | .ffma _ _ _ _ => true
  | .ffms _ _ _ _ => true
  | .fnma _ _ _ _ => true
  | .fnms _ _ _ _ => true
  | .hfma2 _ _ _ _ => true
  | .bfma2 _ _ _ _ => true
  | .idp4 _ _ _ _ => true
  | .hdp2 _ _ _ _ => true
  | .hadd2 _ _ _ _ => true
  | .hsub2 _ _ _ _ => true
  | .hmul2 _ _ _ _ => true
  | .hmax2 _ _ _ _ => true
  | .badd2 _ _ _ _ => true
  | .bsub2 _ _ _ _ => true
  | .bmul2 _ _ _ _ => true
  | .bmax2 _ _ _ _ => true
  | .frcp _ _ _ => true
  | .frsq _ _ _ => true
  | .fsqrt _ _ _ => true
  | .flg2 _ _ _ => true
  | .fex2 _ _ _ => true
  | .fsin _ _ _ => true
  | .fcos _ _ _ => true
  | .ftanh _ _ _ => true
  | .cvt _ _ _ _ _ _ => true
  | .pk2h _ _ _ _ => true
  | .pk2bf _ _ _ _ => true
  | .upkhl _ _ _ => true
  | .upkhh _ _ _ => true
  | .upkbl _ _ _ => true
  | .upkbh _ _ _ => true
  | .perm8 _ _ _ _ => true
  | .frndn _ _ _ => true
  | .frndz _ _ _ => true
  | .frndd _ _ _ => true
  | .frndu _ _ _ => true
  | .ffrac _ _ _ => true
  | .fclass _ _ _ => true
  | .fgetexp _ _ _ => true
  | .fldexp _ _ _ _ => true
  | .scacc _ _ _ _ => true
  | .scacc2 _ _ _ _ => true
  | .scmul _ _ _ _ => true
  | .scaci _ _ _ _ => true
  | .scaci2 _ _ _ _ => true
  | .shfop k o m _ _ _ => decide (k.toNat < 5) && decide (o.toNat < 13) && decide (m.toNat < 4)
  | .perm _ _ _ _ => true
  | .permt _ _ _ _ => true
  | .perms _ _ _ _ => true
  | .compact _ _ _ _ => true
  | .vall _ _ _ _ => true
  | .vany _ _ _ _ => true
  | .veq _ _ _ _ => true
  | .vfirst _ _ _ _ => true
  | .vlast _ _ _ _ => true
  | .matchLanes _ _ _ => true
  | .tfirst _ _ _ => true
  | .tpop _ _ _ => true
  | .setpart _ _ => true
  | .getpart _ _ => true
  | .tileid _ _ => true
  | .tlane _ _ => true
  | .ldg z o _ _ _ _ _ => sizeOk z && plainOr 1 o
  | .ldgPf z _ l _ => sizeOk z && l != 1
  | .stg z o _ _ _ _ => sizeOk z && plainOr 2 o
  | .atgAdd _ _ l _ _ => l != 3
  | .atgSub _ _ l _ _ => l != 3
  | .atgMin _ _ l _ _ => l != 3
  | .atgMax _ _ l _ _ => l != 3
  | .atgUmin _ _ l _ _ => l != 3
  | .atgUmax _ _ l _ _ => l != 3
  | .atgAnd _ _ l _ _ => l != 3
  | .atgOr _ _ l _ _ => l != 3
  | .atgXor _ _ l _ _ => l != 3
  | .atgXchg _ _ l _ _ => l != 3
  | .atgCas _ _ l _ _ => l != 3
  | .atgFadd _ _ l _ _ => l != 3
  | .atgFmin _ _ l _ _ => l != 3
  | .atgFmax _ _ l _ _ => l != 3
  | .atgInc _ _ l _ _ => l != 3
  | .atgDec _ _ l _ _ => l != 3
  | .ldl _ z _ _ _ => sizeOk z
  | .stl _ z _ _ => sizeOk z
  | .atlAdd _ s _ _ => decide (s.toNat < 2)
  | .atlSub _ s _ _ => decide (s.toNat < 2)
  | .atlMin _ s _ _ => decide (s.toNat < 2)
  | .atlMax _ s _ _ => decide (s.toNat < 2)
  | .atlUmin _ s _ _ => decide (s.toNat < 2)
  | .atlUmax _ s _ _ => decide (s.toNat < 2)
  | .atlAnd _ s _ _ => decide (s.toNat < 2)
  | .atlOr _ s _ _ => decide (s.toNat < 2)
  | .atlXor _ s _ _ => decide (s.toNat < 2)
  | .atlXchg _ s _ _ => decide (s.toNat < 2)
  | .atlCas _ s _ _ => decide (s.toNat < 2)
  | .atlFadd _ s _ _ => decide (s.toNat < 2)
  | .atlFmin _ s _ _ => decide (s.toNat < 2)
  | .atlFmax _ s _ _ => decide (s.toNat < 2)
  | .atlInc _ s _ _ => decide (s.toNat < 2)
  | .atlDec _ s _ _ => decide (s.toNat < 2)
  | .scrAdd _ _ _ _ => true
  | .scrFadd _ _ _ _ => true
  | .scrMin _ _ _ _ => true
  | .scrMax _ _ _ _ => true
  | .scrAnd _ _ _ _ => true
  | .scrOr _ _ _ _ => true
  | .scrXor _ _ _ _ => true
  | .scrFmax _ _ _ _ => true
  | .scrXchg _ _ _ _ => true
  | .scrCas _ _ _ _ => true
  | .scrLd o _ _ _ => plainOr 1 o
  | .scrSt o _ _ _ => plainOr 2 o
  | .fence _ _ => true
  | .xfence b a _ _ => b != 0 && a != 0
  | .drainst => true
  | .cinv => true
  | .cflush => true
  | .tkick _ _ => true
  | .tcancel _ => true
  | .tstat _ _ _ => true
  | .binit _ _ => true
  | .barrive _ _ _ _ => true
  | .bexpect _ _ => true
  | .bwait _ _ _ _ => true
  | .btest _ _ _ => true
  | .binval _ => true
  | .qpush _ _ => true
  | .qpop _ _ => true
  | .qres _ _ => true
  | .qcommit _ _ => true
  | .qlen _ _ => true
  | .ordw _ _ => true
  | .ordp _ _ => true
  | .ordr _ _ => true
  | .bra _ _ _ _ => true
  | .call _ _ _ _ => true
  | .jmps _ => true
  | .calls _ => true
  | .ret _ => true
  | .exit => true
  | .knot => true
  | .bar b _ => decide (b.toNat < 16)
  | .yield => true
  | .nop => true
  | .migShuttle _ _ => true
  | .migBeam _ _ => true
  | .trap _ => true
  | .rett => true
  | .rettEnd => true
  | .qry _ _ => true
  | .ckpt => true
  | .brk => true
  | .selv _ n c b a => selvOk n a b c
  | .xp _ => true
  | .mov16 _ _ => true
  | .iadd16 _ _ => true
  | .isub16 _ _ => true
  | .imul16 _ _ => true
  | .and16 _ _ => true
  | .or16 _ _ => true
  | .xor16 _ _ => true
  | .shl16 _ _ => true
  | .shr16 _ _ => true
  | .sar16 _ _ => true
  | .imin16 _ _ => true
  | .imax16 _ _ => true
  | .fadd16 _ _ => true
  | .fmul16 _ _ => true
  | .fmax16 _ _ => true
  | .fmac _ _ => true
  | .powerOnReset _ => true
  | .registerWrite _ => true
  | .partitionEnable _ _ => true
  | .partitionDisable _ _ => true
  | .tenantEnable _ _ _ => true
  | .tenantDisable _ _ _ => true
  | .reside _ _ _ => true
  | .release _ _ _ => true
  | .preempt _ _ _ => true
  | .contextReset _ _ _ => true
  | .resume _ _ _ => true
  | .ctxcmdInvalid _ _ _ _ => true
  | .contextDrained _ _ => true
  | .drainDeadline _ _ => true
  | .placeTableWrite _ _ _ => true
  | .clsuspSet _ => true
  | .clsuspClear _ => true
  | .clusterSuspended _ => true
  | .invalidateAll _ => true
  | .invalidateTenant _ => true
  | .invalidateRange _ => true
  | .invalidationComplete => true
  | .bindingEnable _ _ => true
  | .bindingDisable _ _ => true
  | .mbdataWrite _ _ _ _ => true
  | .heldMessageEntry _ _ => true
  | .apertureRead _ _ _ => true
  | .apertureWrite _ _ _ => true
  | .apertureAtomic _ _ => true
  | .precopy _ => true
  | .stop _ => true
  | .stopComplete _ => true
  | .snap _ => true
  | .snapComplete _ => true
  | .save _ => true
  | .run _ => true
  | .load _ _ => true
  | .winackWrite _ _ => true
  | .qryMaskWrite _ _ _ => true
  | .attestDevice _ => true
  | .attestTenant _ => true
  | .attestReportDone _ => true
  | .domainRingEnable _ _ _ => true
  | .chargeTick => true
  | .periodBoundary => true
  | .bandwidthPeriod => true
  | .cohortLaunch _ => true
  | .wakeStart _ => true
  | .wakeComplete _ => true
  | .idleToG1 _ => true
  | .g1ToG2 _ => true
  | .enterG3 _ => true
  | .workgroupRetire _ => true
  | .ticketPass _ => true
  | .ordwGrant _ => true
  | .taskStart _ => true
  | .taskComplete _ _ => true
  | .sliceEnd _ => true
  | .groupHalt _ _ => true
  | .sliceResume _ => true
  | .migGrant _ _ => true
  | .migDeadline _ => true
  | .migMove _ => true
  | .homeRequest _ => true
  | .l1Eviction _ _ => true
  | .translationWalkComplete _ => true
  | .compareTimeout _ _ => true
  | .sspDecision _ => true
  | .pairRelease _ => true
  | .selfTestComplete _ _ _ => true
  | .uncorrectableEcc _ => true
  | .correctedError => true
  | .longLatencyResult _ _ _ => true
  | .secureStreamKeyed => true

/-- The rows of the opcode table that are instruction words: every other row is a step outside a program. -/
def Instr.isWord : Instr → Bool
  | .iadd _ _ _ _ => true
  | .isub _ _ _ _ => true
  | .imul _ _ _ _ => true
  | .imulh _ _ _ _ => true
  | .imulhu _ _ _ _ => true
  | .iadds _ _ _ _ => true
  | .isubs _ _ _ _ => true
  | .iabsd _ _ _ _ => true
  | .iaddi _ _ _ _ => true
  | .imuli _ _ _ _ => true
  | .andi _ _ _ _ => true
  | .ori _ _ _ _ => true
  | .xori _ _ _ _ => true
  | .shli _ _ _ _ => true
  | .shri _ _ _ _ => true
  | .sari _ _ _ _ => true
  | .and _ _ _ _ => true
  | .or _ _ _ _ => true
  | .xor _ _ _ _ => true
  | .andn _ _ _ _ => true
  | .orn _ _ _ _ => true
  | .xnor _ _ _ _ => true
  | .shl _ _ _ _ => true
  | .shr _ _ _ _ => true
  | .sar _ _ _ _ => true
  | .rotl _ _ _ _ => true
  | .imin _ _ _ _ => true
  | .imax _ _ _ _ => true
  | .umin _ _ _ _ => true
  | .umax _ _ _ _ => true
  | .iaddc _ _ _ _ => true
  | .isubb _ _ _ _ => true
  | .iabs _ _ _ => true
  | .ineg _ _ _ => true
  | .not _ _ _ => true
  | .popc _ _ _ => true
  | .clz _ _ _ => true
  | .ctz _ _ _ => true
  | .brev _ _ _ => true
  | .bswap _ _ _ => true
  | .bfx _ _ _ _ => true
  | .bfxu _ _ _ _ => true
  | .bfi _ _ _ _ => true
  | .fshl _ _ _ _ => true
  | .fshr _ _ _ _ => true
  | .lea _ _ _ _ => true
  | .sel _ _ _ _ => true
  | .imad _ _ _ _ => true
  | .mov _ _ _ => true
  | .sprd _ _ _ => true
  | .spwr _ _ => true
  | .rdlane _ _ _ _ => true
  | .wrlane _ _ _ _ => true
  | .rfl _ _ _ => true
  | .movp _ _ _ => true
  | .ptom _ _ _ => true
  | .movi _ _ _ => true
  | .eq _ _ _ _ _ => true
  | .ne _ _ _ _ _ => true
  | .lt _ _ _ _ _ => true
  | .le _ _ _ _ _ => true
  | .ltu _ _ _ _ _ => true
  | .leu _ _ _ _ _ => true
  | .tst _ _ _ _ _ => true
  | .tstz _ _ _ _ _ => true
  | .feq _ _ _ _ _ => true
  | .fne _ _ _ _ _ => true
  | .flt _ _ _ _ _ => true
  | .fle _ _ _ _ _ => true
  | .fgt _ _ _ _ _ => true
  | .fge _ _ _ _ _ => true
  | .funord _ _ _ _ _ => true
  | .ford _ _ _ _ _ => true
  | .pand _ _ _ _ _ => true
  | .por _ _ _ _ _ => true
  | .pxor _ _ _ _ _ => true
  | .pandn _ _ _ _ _ => true
  | .pnot _ _ _ _ => true
  | .pmov _ _ _ _ => true
  | .pclr _ _ _ => true
  | .pset _ _ _ => true
  | .eqImm _ _ _ _ _ => true
  | .neImm _ _ _ _ _ => true
  | .ltImm _ _ _ _ _ => true
  | .leImm _ _ _ _ _ => true
  | .ltuImm _ _ _ _ _ => true
  | .leuImm _ _ _ _ _ => true
  | .tstImm _ _ _ _ _ => true
  | .tstzImm _ _ _ _ _ => true
  | .fadd _ _ _ _ => true
  | .fsub _ _ _ _ => true
  | .fmul _ _ _ _ => true
  | .fmin _ _ _ _ => true
  | .fmax _ _ _ _ => true
  | .fminn _ _ _ _ => true
  | .fmaxn _ _ _ _ => true
  | .fcpsgn _ _ _ _ => true
  | .ffma _ _ _ _ => true
  | .ffms _ _ _ _ => true
  | .fnma _ _ _ _ => true
  | .fnms _ _ _ _ => true
  | .hfma2 _ _ _ _ => true
  | .bfma2 _ _ _ _ => true
  | .idp4 _ _ _ _ => true
  | .hdp2 _ _ _ _ => true
  | .hadd2 _ _ _ _ => true
  | .hsub2 _ _ _ _ => true
  | .hmul2 _ _ _ _ => true
  | .hmax2 _ _ _ _ => true
  | .badd2 _ _ _ _ => true
  | .bsub2 _ _ _ _ => true
  | .bmul2 _ _ _ _ => true
  | .bmax2 _ _ _ _ => true
  | .frcp _ _ _ => true
  | .frsq _ _ _ => true
  | .fsqrt _ _ _ => true
  | .flg2 _ _ _ => true
  | .fex2 _ _ _ => true
  | .fsin _ _ _ => true
  | .fcos _ _ _ => true
  | .ftanh _ _ _ => true
  | .cvt _ _ _ _ _ _ => true
  | .pk2h _ _ _ _ => true
  | .pk2bf _ _ _ _ => true
  | .upkhl _ _ _ => true
  | .upkhh _ _ _ => true
  | .upkbl _ _ _ => true
  | .upkbh _ _ _ => true
  | .perm8 _ _ _ _ => true
  | .frndn _ _ _ => true
  | .frndz _ _ _ => true
  | .frndd _ _ _ => true
  | .frndu _ _ _ => true
  | .ffrac _ _ _ => true
  | .fclass _ _ _ => true
  | .fgetexp _ _ _ => true
  | .fldexp _ _ _ _ => true
  | .scacc _ _ _ _ => true
  | .scacc2 _ _ _ _ => true
  | .scmul _ _ _ _ => true
  | .scaci _ _ _ _ => true
  | .scaci2 _ _ _ _ => true
  | .shfop _ _ _ _ _ _ => true
  | .perm _ _ _ _ => true
  | .permt _ _ _ _ => true
  | .perms _ _ _ _ => true
  | .compact _ _ _ _ => true
  | .vall _ _ _ _ => true
  | .vany _ _ _ _ => true
  | .veq _ _ _ _ => true
  | .vfirst _ _ _ _ => true
  | .vlast _ _ _ _ => true
  | .matchLanes _ _ _ => true
  | .tfirst _ _ _ => true
  | .tpop _ _ _ => true
  | .setpart _ _ => true
  | .getpart _ _ => true
  | .tileid _ _ => true
  | .tlane _ _ => true
  | .ldg _ _ _ _ _ _ _ => true
  | .ldgPf _ _ _ _ => true
  | .stg _ _ _ _ _ _ => true
  | .atgAdd _ _ _ _ _ => true
  | .atgSub _ _ _ _ _ => true
  | .atgMin _ _ _ _ _ => true
  | .atgMax _ _ _ _ _ => true
  | .atgUmin _ _ _ _ _ => true
  | .atgUmax _ _ _ _ _ => true
  | .atgAnd _ _ _ _ _ => true
  | .atgOr _ _ _ _ _ => true
  | .atgXor _ _ _ _ _ => true
  | .atgXchg _ _ _ _ _ => true
  | .atgCas _ _ _ _ _ => true
  | .atgFadd _ _ _ _ _ => true
  | .atgFmin _ _ _ _ _ => true
  | .atgFmax _ _ _ _ _ => true
  | .atgInc _ _ _ _ _ => true
  | .atgDec _ _ _ _ _ => true
  | .ldl _ _ _ _ _ => true
  | .stl _ _ _ _ => true
  | .atlAdd _ _ _ _ => true
  | .atlSub _ _ _ _ => true
  | .atlMin _ _ _ _ => true
  | .atlMax _ _ _ _ => true
  | .atlUmin _ _ _ _ => true
  | .atlUmax _ _ _ _ => true
  | .atlAnd _ _ _ _ => true
  | .atlOr _ _ _ _ => true
  | .atlXor _ _ _ _ => true
  | .atlXchg _ _ _ _ => true
  | .atlCas _ _ _ _ => true
  | .atlFadd _ _ _ _ => true
  | .atlFmin _ _ _ _ => true
  | .atlFmax _ _ _ _ => true
  | .atlInc _ _ _ _ => true
  | .atlDec _ _ _ _ => true
  | .scrAdd _ _ _ _ => true
  | .scrFadd _ _ _ _ => true
  | .scrMin _ _ _ _ => true
  | .scrMax _ _ _ _ => true
  | .scrAnd _ _ _ _ => true
  | .scrOr _ _ _ _ => true
  | .scrXor _ _ _ _ => true
  | .scrFmax _ _ _ _ => true
  | .scrXchg _ _ _ _ => true
  | .scrCas _ _ _ _ => true
  | .scrLd _ _ _ _ => true
  | .scrSt _ _ _ _ => true
  | .fence _ _ => true
  | .xfence _ _ _ _ => true
  | .drainst => true
  | .cinv => true
  | .cflush => true
  | .tkick _ _ => true
  | .tcancel _ => true
  | .tstat _ _ _ => true
  | .binit _ _ => true
  | .barrive _ _ _ _ => true
  | .bexpect _ _ => true
  | .bwait _ _ _ _ => true
  | .btest _ _ _ => true
  | .binval _ => true
  | .qpush _ _ => true
  | .qpop _ _ => true
  | .qres _ _ => true
  | .qcommit _ _ => true
  | .qlen _ _ => true
  | .ordw _ _ => true
  | .ordp _ _ => true
  | .ordr _ _ => true
  | .bra _ _ _ _ => true
  | .call _ _ _ _ => true
  | .jmps _ => true
  | .calls _ => true
  | .ret _ => true
  | .exit => true
  | .knot => true
  | .bar _ _ => true
  | .yield => true
  | .nop => true
  | .migShuttle _ _ => true
  | .migBeam _ _ => true
  | .trap _ => true
  | .rett => true
  | .rettEnd => true
  | .qry _ _ => true
  | .ckpt => true
  | .brk => true
  | .selv _ _ _ _ _ => true
  | .xp _ => true
  | .mov16 _ _ => true
  | .iadd16 _ _ => true
  | .isub16 _ _ => true
  | .imul16 _ _ => true
  | .and16 _ _ => true
  | .or16 _ _ => true
  | .xor16 _ _ => true
  | .shl16 _ _ => true
  | .shr16 _ _ => true
  | .sar16 _ _ => true
  | .imin16 _ _ => true
  | .imax16 _ _ => true
  | .fadd16 _ _ => true
  | .fmul16 _ _ => true
  | .fmax16 _ _ => true
  | .fmac _ _ => true
  | .powerOnReset _ => false
  | .registerWrite _ => false
  | .partitionEnable _ _ => false
  | .partitionDisable _ _ => false
  | .tenantEnable _ _ _ => false
  | .tenantDisable _ _ _ => false
  | .reside _ _ _ => false
  | .release _ _ _ => false
  | .preempt _ _ _ => false
  | .contextReset _ _ _ => false
  | .resume _ _ _ => false
  | .ctxcmdInvalid _ _ _ _ => false
  | .contextDrained _ _ => false
  | .drainDeadline _ _ => false
  | .placeTableWrite _ _ _ => false
  | .clsuspSet _ => false
  | .clsuspClear _ => false
  | .clusterSuspended _ => false
  | .invalidateAll _ => false
  | .invalidateTenant _ => false
  | .invalidateRange _ => false
  | .invalidationComplete => false
  | .bindingEnable _ _ => false
  | .bindingDisable _ _ => false
  | .mbdataWrite _ _ _ _ => false
  | .heldMessageEntry _ _ => false
  | .apertureRead _ _ _ => false
  | .apertureWrite _ _ _ => false
  | .apertureAtomic _ _ => false
  | .precopy _ => false
  | .stop _ => false
  | .stopComplete _ => false
  | .snap _ => false
  | .snapComplete _ => false
  | .save _ => false
  | .run _ => false
  | .load _ _ => false
  | .winackWrite _ _ => false
  | .qryMaskWrite _ _ _ => false
  | .attestDevice _ => false
  | .attestTenant _ => false
  | .attestReportDone _ => false
  | .domainRingEnable _ _ _ => false
  | .chargeTick => false
  | .periodBoundary => false
  | .bandwidthPeriod => false
  | .cohortLaunch _ => false
  | .wakeStart _ => false
  | .wakeComplete _ => false
  | .idleToG1 _ => false
  | .g1ToG2 _ => false
  | .enterG3 _ => false
  | .workgroupRetire _ => false
  | .ticketPass _ => false
  | .ordwGrant _ => false
  | .taskStart _ => false
  | .taskComplete _ _ => false
  | .sliceEnd _ => false
  | .groupHalt _ _ => false
  | .sliceResume _ => false
  | .migGrant _ _ => false
  | .migDeadline _ => false
  | .migMove _ => false
  | .homeRequest _ => false
  | .l1Eviction _ _ => false
  | .translationWalkComplete _ => false
  | .compareTimeout _ _ => false
  | .sspDecision _ => false
  | .pairRelease _ => false
  | .selfTestComplete _ _ _ => false
  | .uncorrectableEcc _ => false
  | .correctedError => false
  | .longLatencyResult _ _ _ => false
  | .secureStreamKeyed => false

end Sys2Proof
end

