-- ==== Sys2Proof/Decode.lean ====
section
/-! DEFINITION. From halfwords to instructions and back (R29, R35, R42, R51). Decoding is total: a pattern the opcode map
does not assign is refused by name. The encoder lays the same fields out from the format table of R35. The definitions that
build a late constructor of Instr are marked noncomputable only because Lean's runtime has too few constructor tags for the
opcode table; the kernel evaluates them. -/
namespace Sys2Proof

/-- An instruction word as it stands in an image: one halfword, or two (R29). -/
inductive Code
  | half (h : Half)
  | word (w : Word)
deriving DecidableEq, Repr

/-- Why bytes hold no instruction: too few of them, a pattern the opcode map does not assign (R51, R52, a field that must be
zero among them), or a field value its instruction forbids. Each raises cause 0x01 when it is executed. -/
inductive DecodeError | truncated | unassigned | illegalField
deriving DecidableEq, Repr

/-- `len` bits of a word from bit `lo` up. -/
def fld (w : Word) (lo len : Nat) : BitVec len := BitVec.ofNat len (w.toNat / 2 ^ lo)

/-- One bit of a word. -/
def flag (w : Word) (k : Nat) : Bool := w.toNat / 2 ^ k % 2 == 1

/-- A bit as a number. -/
def bit (b : Bool) : Nat := if b then 1 else 0

/-- Format F3 (R35): each field at its place, MAJ in [6:1], bit 0 set. -/
def packF3 (maj : Nat) (fn : Nat) (b : BitVec 7) (a : BitVec 7) (n : Bool) (d : BitVec 7) : Word :=
  BitVec.ofNat 32 (fn * 2 ^ 29 + b.toNat * 2 ^ 22 + a.toNat * 2 ^ 15 + bit n * 2 ^ 14 + d.toNat * 2 ^ 7 + maj * 2 + 1)

/-- Format FI (R35): each field at its place, MAJ in [6:1], bit 0 set. -/
def packFI (maj : Nat) (i : BitVec 7) (fn : Nat) (a : BitVec 7) (n : Bool) (d : BitVec 7) : Word :=
  BitVec.ofNat 32 (i.toNat * 2 ^ 25 + fn * 2 ^ 22 + a.toNat * 2 ^ 15 + bit n * 2 ^ 14 + d.toNat * 2 ^ 7 + maj * 2 + 1)

/-- Format FL (R35): each field at its place, MAJ in [6:1], bit 0 set. -/
def packFL (maj : Nat) (i : BitVec 17) (n : Bool) (d : BitVec 7) : Word :=
  BitVec.ofNat 32 (i.toNat * 2 ^ 15 + bit n * 2 ^ 14 + d.toNat * 2 ^ 7 + maj * 2 + 1)

/-- Format FP (R35): each field at its place, MAJ in [6:1], bit 0 set. -/
def packFP (maj : Nat) (fn : Nat) (b : BitVec 7) (a : BitVec 7) (g : Bool) (x : Bool) (p : BitVec 6) : Word :=
  BitVec.ofNat 32 (fn * 2 ^ 29 + b.toNat * 2 ^ 22 + a.toNat * 2 ^ 15 + bit g * 2 ^ 14 + bit x * 2 ^ 13 + p.toNat * 2 ^ 7 + maj * 2 + 1)

/-- Format FM (R35): each field at its place, MAJ in [6:1], bit 0 set. -/
def packFM (maj : Nat) (f1 : Nat) (z : BitVec 3) (o : BitVec 2) (s : BitVec 2) (l : BitVec 2) (a : BitVec 7) (n : Bool) (d : BitVec 7) : Word :=
  BitVec.ofNat 32 (f1 * 2 ^ 31 + z.toNat * 2 ^ 28 + o.toNat * 2 ^ 26 + s.toNat * 2 ^ 24 + l.toNat * 2 ^ 22 + a.toNat * 2 ^ 15 + bit n * 2 ^ 14 + d.toNat * 2 ^ 7 + maj * 2 + 1)

/-- Format FA (R35): each field at its place, MAJ in [6:1], bit 0 set. -/
def packFA (maj : Nat) (op : Nat) (o : BitVec 2) (s : BitVec 2) (l : BitVec 2) (a : BitVec 7) (n : Bool) (d : BitVec 7) : Word :=
  BitVec.ofNat 32 (op * 2 ^ 28 + o.toNat * 2 ^ 26 + s.toNat * 2 ^ 24 + l.toNat * 2 ^ 22 + a.toNat * 2 ^ 15 + bit n * 2 ^ 14 + d.toNat * 2 ^ 7 + maj * 2 + 1)

/-- Format FLM (R35): each field at its place, MAJ in [6:1], bit 0 set. -/
def packFLM (maj : Nat) (i : BitVec 7) (z : BitVec 3) (a : BitVec 7) (n : Bool) (d : BitVec 7) : Word :=
  BitVec.ofNat 32 (i.toNat * 2 ^ 25 + z.toNat * 2 ^ 22 + a.toNat * 2 ^ 15 + bit n * 2 ^ 14 + d.toNat * 2 ^ 7 + maj * 2 + 1)

/-- Format FC (R35): each field at its place, MAJ in [6:1], bit 0 set. -/
def packFC (maj : Nat) (r : BitVec 2) (s : BitVec 4) (f : BitVec 4) (a : BitVec 7) (n : Bool) (d : BitVec 7) : Word :=
  BitVec.ofNat 32 (r.toNat * 2 ^ 30 + s.toNat * 2 ^ 26 + f.toNat * 2 ^ 22 + a.toNat * 2 ^ 15 + bit n * 2 ^ 14 + d.toNat * 2 ^ 7 + maj * 2 + 1)

/-- Format FSH (R35): each field at its place, MAJ in [6:1], bit 0 set. -/
def packFSH (maj : Nat) (k : BitVec 3) (o : BitVec 4) (m : BitVec 3) (a : BitVec 7) (n : Bool) (d : BitVec 7) : Word :=
  BitVec.ofNat 32 (k.toNat * 2 ^ 29 + o.toNat * 2 ^ 25 + m.toNat * 2 ^ 22 + a.toNat * 2 ^ 15 + bit n * 2 ^ 14 + d.toNat * 2 ^ 7 + maj * 2 + 1)

/-- Format FF (R35): each field at its place, MAJ in [6:1], bit 0 set. -/
def packFF (maj : Nat) (b : BitVec 4) (a : BitVec 4) (o : BitVec 2) (s : BitVec 2) (fn : Nat) : Word :=
  BitVec.ofNat 32 (b.toNat * 2 ^ 18 + a.toNat * 2 ^ 14 + o.toNat * 2 ^ 12 + s.toNat * 2 ^ 10 + fn * 2 ^ 7 + maj * 2 + 1)

/-- Format FB (R35): each field at its place, MAJ in [6:1], bit 0 set. -/
def packFB (maj : Nat) (i : BitVec 17) (l : Bool) (g : Bool) (p : BitVec 6) : Word :=
  BitVec.ofNat 32 (i.toNat * 2 ^ 15 + bit l * 2 ^ 14 + bit g * 2 ^ 13 + p.toNat * 2 ^ 7 + maj * 2 + 1)

/-- Format FS (R35, R47): each field at its place, MAJ in [6:1], bit 0 set. -/
def packFS (maj : Nat) (y : Bool) (n : BitVec 2) (c : BitVec 7) (b : BitVec 7) (a : BitVec 7) : Word :=
  BitVec.ofNat 32 (bit y * 2 ^ 30 + n.toNat * 2 ^ 28 + c.toNat * 2 ^ 21 + b.toNat * 2 ^ 14 + a.toNat * 2 ^ 7 + maj * 2 + 1)

/-- Format FX (R35, R38): each field at its place, MAJ in [6:1], bit 0 set. -/
def packFX (maj : Nat) (p : BitVec 25) : Word :=
  BitVec.ofNat 32 (p.toNat * 2 ^ 7 + maj * 2 + 1)

/-- The 16-bit format (R42). -/
def pack16 (op : Nat) (b : BitVec 6) (d : BitVec 5) : Half :=
  BitVec.ofNat 16 (b.toNat * 2 ^ 10 + d.toNat * 2 ^ 5 + op * 2)

/-- MAJ 0x00 (F3). -/
def decIalu (w : Word) : Option Instr :=
  match (fld w 29 3).toNat with
  | 0 => some (.iadd (fld w 22 7) (fld w 15 7) (flag w 14) (fld w 7 7))
  | 1 => some (.isub (fld w 22 7) (fld w 15 7) (flag w 14) (fld w 7 7))
  | 2 => some (.imul (fld w 22 7) (fld w 15 7) (flag w 14) (fld w 7 7))
  | 3 => some (.imulh (fld w 22 7) (fld w 15 7) (flag w 14) (fld w 7 7))
  | 4 => some (.imulhu (fld w 22 7) (fld w 15 7) (flag w 14) (fld w 7 7))
  | 5 => some (.iadds (fld w 22 7) (fld w 15 7) (flag w 14) (fld w 7 7))
  | 6 => some (.isubs (fld w 22 7) (fld w 15 7) (flag w 14) (fld w 7 7))
  | 7 => some (.iabsd (fld w 22 7) (fld w 15 7) (flag w 14) (fld w 7 7))
  | _ => none

/-- MAJ 0x01 (FI). -/
def decIalui (w : Word) : Option Instr :=
  match (fld w 22 3).toNat with
  | 0 => some (.iaddi (fld w 25 7) (fld w 15 7) (flag w 14) (fld w 7 7))
  | 1 => some (.imuli (fld w 25 7) (fld w 15 7) (flag w 14) (fld w 7 7))
  | 2 => some (.andi (fld w 25 7) (fld w 15 7) (flag w 14) (fld w 7 7))
  | 3 => some (.ori (fld w 25 7) (fld w 15 7) (flag w 14) (fld w 7 7))
  | 4 => some (.xori (fld w 25 7) (fld w 15 7) (flag w 14) (fld w 7 7))
  | 5 => some (.shli (fld w 25 7) (fld w 15 7) (flag w 14) (fld w 7 7))
  | 6 => some (.shri (fld w 25 7) (fld w 15 7) (flag w 14) (fld w 7 7))
  | 7 => some (.sari (fld w 25 7) (fld w 15 7) (flag w 14) (fld w 7 7))
  | _ => none

/-- MAJ 0x02 (F3). -/
def decIlog (w : Word) : Option Instr :=
  match (fld w 29 3).toNat with
  | 0 => some (.and (fld w 22 7) (fld w 15 7) (flag w 14) (fld w 7 7))
  | 1 => some (.or (fld w 22 7) (fld w 15 7) (flag w 14) (fld w 7 7))
  | 2 => some (.xor (fld w 22 7) (fld w 15 7) (flag w 14) (fld w 7 7))
  | 3 => some (.andn (fld w 22 7) (fld w 15 7) (flag w 14) (fld w 7 7))
  | 4 => some (.orn (fld w 22 7) (fld w 15 7) (flag w 14) (fld w 7 7))
  | 5 => some (.xnor (fld w 22 7) (fld w 15 7) (flag w 14) (fld w 7 7))
  | 6 => some (.shl (fld w 22 7) (fld w 15 7) (flag w 14) (fld w 7 7))
  | 7 => some (.shr (fld w 22 7) (fld w 15 7) (flag w 14) (fld w 7 7))
  | _ => none

/-- MAJ 0x03 (F3). -/
def decImisc (w : Word) : Option Instr :=
  match (fld w 29 3).toNat with
  | 0 => some (.sar (fld w 22 7) (fld w 15 7) (flag w 14) (fld w 7 7))
  | 1 => some (.rotl (fld w 22 7) (fld w 15 7) (flag w 14) (fld w 7 7))
  | 2 => some (.imin (fld w 22 7) (fld w 15 7) (flag w 14) (fld w 7 7))
  | 3 => some (.imax (fld w 22 7) (fld w 15 7) (flag w 14) (fld w 7 7))
  | 4 => some (.umin (fld w 22 7) (fld w 15 7) (flag w 14) (fld w 7 7))
  | 5 => some (.umax (fld w 22 7) (fld w 15 7) (flag w 14) (fld w 7 7))
  | 6 => some (.iaddc (fld w 22 7) (fld w 15 7) (flag w 14) (fld w 7 7))
  | 7 => some (.isubb (fld w 22 7) (fld w 15 7) (flag w 14) (fld w 7 7))
  | _ => none

/-- MAJ 0x04 (F3). -/
def decIun (w : Word) : Option Instr :=
  match (fld w 29 3).toNat with
  | 0 => if fld w 22 7 == 0 then some (.iabs (fld w 15 7) (flag w 14) (fld w 7 7)) else none
  | 1 => if fld w 22 7 == 0 then some (.ineg (fld w 15 7) (flag w 14) (fld w 7 7)) else none
  | 2 => if fld w 22 7 == 0 then some (.not (fld w 15 7) (flag w 14) (fld w 7 7)) else none
  | 3 => if fld w 22 7 == 0 then some (.popc (fld w 15 7) (flag w 14) (fld w 7 7)) else none
  | 4 => if fld w 22 7 == 0 then some (.clz (fld w 15 7) (flag w 14) (fld w 7 7)) else none
  | 5 => if fld w 22 7 == 0 then some (.ctz (fld w 15 7) (flag w 14) (fld w 7 7)) else none
  | 6 => if fld w 22 7 == 0 then some (.brev (fld w 15 7) (flag w 14) (fld w 7 7)) else none
  | 7 => if fld w 22 7 == 0 then some (.bswap (fld w 15 7) (flag w 14) (fld w 7 7)) else none
  | _ => none

/-- MAJ 0x05 (F3). -/
def decIbit (w : Word) : Option Instr :=
  match (fld w 29 3).toNat with
  | 0 => some (.bfx (fld w 22 7) (fld w 15 7) (flag w 14) (fld w 7 7))
  | 1 => some (.bfxu (fld w 22 7) (fld w 15 7) (flag w 14) (fld w 7 7))
  | 2 => some (.bfi (fld w 22 7) (fld w 15 7) (flag w 14) (fld w 7 7))
  | 3 => some (.fshl (fld w 22 7) (fld w 15 7) (flag w 14) (fld w 7 7))
  | 4 => some (.fshr (fld w 22 7) (fld w 15 7) (flag w 14) (fld w 7 7))
  | 5 => some (.lea (fld w 22 7) (fld w 15 7) (flag w 14) (fld w 7 7))
  | 6 => some (.sel (fld w 22 7) (fld w 15 7) (flag w 14) (fld w 7 7))
  | 7 => some (.imad (fld w 22 7) (fld w 15 7) (flag w 14) (fld w 7 7))
  | _ => none

/-- MAJ 0x06 (F3). -/
def decMovx (w : Word) : Option Instr :=
  match (fld w 29 3).toNat with
  | 0 => if fld w 22 7 == 0 then some (.mov (fld w 15 7) (flag w 14) (fld w 7 7)) else none
  | 1 => if fld w 22 7 == 0 then some (.sprd (fld w 15 7) (flag w 14) (fld w 7 7)) else none
  | 2 => if !flag w 14 && fld w 7 7 == 0 then some (.spwr (fld w 22 7) (fld w 15 7)) else none
  | 3 => some (.rdlane (fld w 22 7) (fld w 15 7) (flag w 14) (fld w 7 7))
  | 4 => some (.wrlane (fld w 22 7) (fld w 15 7) (flag w 14) (fld w 7 7))
  | 5 => if fld w 22 7 == 0 then some (.rfl (fld w 15 7) (flag w 14) (fld w 7 7)) else none
  | 6 => if fld w 22 7 == 0 then some (.movp (fld w 15 7) (flag w 14) (fld w 7 7)) else none
  | 7 => if fld w 22 7 == 0 then some (.ptom (fld w 15 7) (flag w 14) (fld w 7 7)) else none
  | _ => none

/-- MAJ 0x07 (FL). -/
def decMovi (w : Word) : Option Instr :=
  some (.movi (fld w 15 17) (flag w 14) (fld w 7 7))

/-- MAJ 0x08 (FP). -/
def decIcmp (w : Word) : Option Instr :=
  match (fld w 29 3).toNat with
  | 0 => some (.eq (fld w 22 7) (fld w 15 7) (flag w 14) (flag w 13) (fld w 7 6))
  | 1 => some (.ne (fld w 22 7) (fld w 15 7) (flag w 14) (flag w 13) (fld w 7 6))
  | 2 => some (.lt (fld w 22 7) (fld w 15 7) (flag w 14) (flag w 13) (fld w 7 6))
  | 3 => some (.le (fld w 22 7) (fld w 15 7) (flag w 14) (flag w 13) (fld w 7 6))
  | 4 => some (.ltu (fld w 22 7) (fld w 15 7) (flag w 14) (flag w 13) (fld w 7 6))
  | 5 => some (.leu (fld w 22 7) (fld w 15 7) (flag w 14) (flag w 13) (fld w 7 6))
  | 6 => some (.tst (fld w 22 7) (fld w 15 7) (flag w 14) (flag w 13) (fld w 7 6))
  | 7 => some (.tstz (fld w 22 7) (fld w 15 7) (flag w 14) (flag w 13) (fld w 7 6))
  | _ => none

/-- MAJ 0x09 (FP). -/
def decFcmp (w : Word) : Option Instr :=
  match (fld w 29 3).toNat with
  | 0 => some (.feq (fld w 22 7) (fld w 15 7) (flag w 14) (flag w 13) (fld w 7 6))
  | 1 => some (.fne (fld w 22 7) (fld w 15 7) (flag w 14) (flag w 13) (fld w 7 6))
  | 2 => some (.flt (fld w 22 7) (fld w 15 7) (flag w 14) (flag w 13) (fld w 7 6))
  | 3 => some (.fle (fld w 22 7) (fld w 15 7) (flag w 14) (flag w 13) (fld w 7 6))
  | 4 => some (.fgt (fld w 22 7) (fld w 15 7) (flag w 14) (flag w 13) (fld w 7 6))
  | 5 => some (.fge (fld w 22 7) (fld w 15 7) (flag w 14) (flag w 13) (fld w 7 6))
  | 6 => some (.funord (fld w 22 7) (fld w 15 7) (flag w 14) (flag w 13) (fld w 7 6))
  | 7 => some (.ford (fld w 22 7) (fld w 15 7) (flag w 14) (flag w 13) (fld w 7 6))
  | _ => none

/-- MAJ 0x0A (FP). -/
def decPlog (w : Word) : Option Instr :=
  match (fld w 29 3).toNat with
  | 0 => some (.pand (fld w 22 7) (fld w 15 7) (flag w 14) (flag w 13) (fld w 7 6))
  | 1 => some (.por (fld w 22 7) (fld w 15 7) (flag w 14) (flag w 13) (fld w 7 6))
  | 2 => some (.pxor (fld w 22 7) (fld w 15 7) (flag w 14) (flag w 13) (fld w 7 6))
  | 3 => some (.pandn (fld w 22 7) (fld w 15 7) (flag w 14) (flag w 13) (fld w 7 6))
  | 4 => if fld w 22 7 == 0 then some (.pnot (fld w 15 7) (flag w 14) (flag w 13) (fld w 7 6)) else none
  | 5 => if fld w 22 7 == 0 then some (.pmov (fld w 15 7) (flag w 14) (flag w 13) (fld w 7 6)) else none
  | 6 => if fld w 22 7 == 0 && fld w 15 7 == 0 then some (.pclr (flag w 14) (flag w 13) (fld w 7 6)) else none
  | 7 => if fld w 22 7 == 0 && fld w 15 7 == 0 then some (.pset (flag w 14) (flag w 13) (fld w 7 6)) else none
  | _ => none

/-- MAJ 0x0B (FP). -/
def decIcmpi (w : Word) : Option Instr :=
  match (fld w 29 3).toNat with
  | 0 => some (.eqImm (fld w 22 7) (fld w 15 7) (flag w 14) (flag w 13) (fld w 7 6))
  | 1 => some (.neImm (fld w 22 7) (fld w 15 7) (flag w 14) (flag w 13) (fld w 7 6))
  | 2 => some (.ltImm (fld w 22 7) (fld w 15 7) (flag w 14) (flag w 13) (fld w 7 6))
  | 3 => some (.leImm (fld w 22 7) (fld w 15 7) (flag w 14) (flag w 13) (fld w 7 6))
  | 4 => some (.ltuImm (fld w 22 7) (fld w 15 7) (flag w 14) (flag w 13) (fld w 7 6))
  | 5 => some (.leuImm (fld w 22 7) (fld w 15 7) (flag w 14) (flag w 13) (fld w 7 6))
  | 6 => some (.tstImm (fld w 22 7) (fld w 15 7) (flag w 14) (flag w 13) (fld w 7 6))
  | 7 => some (.tstzImm (fld w 22 7) (fld w 15 7) (flag w 14) (flag w 13) (fld w 7 6))
  | _ => none

/-- MAJ 0x10 (F3). -/
def decFalu (w : Word) : Option Instr :=
  match (fld w 29 3).toNat with
  | 0 => some (.fadd (fld w 22 7) (fld w 15 7) (flag w 14) (fld w 7 7))
  | 1 => some (.fsub (fld w 22 7) (fld w 15 7) (flag w 14) (fld w 7 7))
  | 2 => some (.fmul (fld w 22 7) (fld w 15 7) (flag w 14) (fld w 7 7))
  | 3 => some (.fmin (fld w 22 7) (fld w 15 7) (flag w 14) (fld w 7 7))
  | 4 => some (.fmax (fld w 22 7) (fld w 15 7) (flag w 14) (fld w 7 7))
  | 5 => some (.fminn (fld w 22 7) (fld w 15 7) (flag w 14) (fld w 7 7))
  | 6 => some (.fmaxn (fld w 22 7) (fld w 15 7) (flag w 14) (fld w 7 7))
  | 7 => some (.fcpsgn (fld w 22 7) (fld w 15 7) (flag w 14) (fld w 7 7))
  | _ => none

/-- MAJ 0x11 (F3). -/
def decFfma (w : Word) : Option Instr :=
  match (fld w 29 3).toNat with
  | 0 => some (.ffma (fld w 22 7) (fld w 15 7) (flag w 14) (fld w 7 7))
  | 1 => some (.ffms (fld w 22 7) (fld w 15 7) (flag w 14) (fld w 7 7))
  | 2 => some (.fnma (fld w 22 7) (fld w 15 7) (flag w 14) (fld w 7 7))
  | 3 => some (.fnms (fld w 22 7) (fld w 15 7) (flag w 14) (fld w 7 7))
  | 4 => some (.hfma2 (fld w 22 7) (fld w 15 7) (flag w 14) (fld w 7 7))
  | 5 => some (.bfma2 (fld w 22 7) (fld w 15 7) (flag w 14) (fld w 7 7))
  | 6 => some (.idp4 (fld w 22 7) (fld w 15 7) (flag w 14) (fld w 7 7))
  | 7 => some (.hdp2 (fld w 22 7) (fld w 15 7) (flag w 14) (fld w 7 7))
  | _ => none

/-- MAJ 0x12 (F3). -/
def decHalu (w : Word) : Option Instr :=
  match (fld w 29 3).toNat with
  | 0 => some (.hadd2 (fld w 22 7) (fld w 15 7) (flag w 14) (fld w 7 7))
  | 1 => some (.hsub2 (fld w 22 7) (fld w 15 7) (flag w 14) (fld w 7 7))
  | 2 => some (.hmul2 (fld w 22 7) (fld w 15 7) (flag w 14) (fld w 7 7))
  | 3 => some (.hmax2 (fld w 22 7) (fld w 15 7) (flag w 14) (fld w 7 7))
  | 4 => some (.badd2 (fld w 22 7) (fld w 15 7) (flag w 14) (fld w 7 7))
  | 5 => some (.bsub2 (fld w 22 7) (fld w 15 7) (flag w 14) (fld w 7 7))
  | 6 => some (.bmul2 (fld w 22 7) (fld w 15 7) (flag w 14) (fld w 7 7))
  | 7 => some (.bmax2 (fld w 22 7) (fld w 15 7) (flag w 14) (fld w 7 7))
  | _ => none

/-- MAJ 0x13 (F3). -/
def decSfu (w : Word) : Option Instr :=
  match (fld w 29 3).toNat with
  | 0 => if fld w 22 7 == 0 then some (.frcp (fld w 15 7) (flag w 14) (fld w 7 7)) else none
  | 1 => if fld w 22 7 == 0 then some (.frsq (fld w 15 7) (flag w 14) (fld w 7 7)) else none
  | 2 => if fld w 22 7 == 0 then some (.fsqrt (fld w 15 7) (flag w 14) (fld w 7 7)) else none
  | 3 => if fld w 22 7 == 0 then some (.flg2 (fld w 15 7) (flag w 14) (fld w 7 7)) else none
  | 4 => if fld w 22 7 == 0 then some (.fex2 (fld w 15 7) (flag w 14) (fld w 7 7)) else none
  | 5 => if fld w 22 7 == 0 then some (.fsin (fld w 15 7) (flag w 14) (fld w 7 7)) else none
  | 6 => if fld w 22 7 == 0 then some (.fcos (fld w 15 7) (flag w 14) (fld w 7 7)) else none
  | 7 => if fld w 22 7 == 0 then some (.ftanh (fld w 15 7) (flag w 14) (fld w 7 7)) else none
  | _ => none

/-- MAJ 0x14 (FC). -/
def decCvt (w : Word) : Option Instr :=
  some (.cvt (fld w 30 2) (fld w 26 4) (fld w 22 4) (fld w 15 7) (flag w 14) (fld w 7 7))

/-- MAJ 0x15 (F3). -/
def decPack (w : Word) : Option Instr :=
  match (fld w 29 3).toNat with
  | 0 => some (.pk2h (fld w 22 7) (fld w 15 7) (flag w 14) (fld w 7 7))
  | 1 => some (.pk2bf (fld w 22 7) (fld w 15 7) (flag w 14) (fld w 7 7))
  | 2 => if fld w 22 7 == 0 then some (.upkhl (fld w 15 7) (flag w 14) (fld w 7 7)) else none
  | 3 => if fld w 22 7 == 0 then some (.upkhh (fld w 15 7) (flag w 14) (fld w 7 7)) else none
  | 4 => if fld w 22 7 == 0 then some (.upkbl (fld w 15 7) (flag w 14) (fld w 7 7)) else none
  | 5 => if fld w 22 7 == 0 then some (.upkbh (fld w 15 7) (flag w 14) (fld w 7 7)) else none
  | 6 => some (.perm8 (fld w 22 7) (fld w 15 7) (flag w 14) (fld w 7 7))
  | _ => none

/-- MAJ 0x16 (F3). -/
def decFmisc (w : Word) : Option Instr :=
  match (fld w 29 3).toNat with
  | 0 => if fld w 22 7 == 0 then some (.frndn (fld w 15 7) (flag w 14) (fld w 7 7)) else none
  | 1 => if fld w 22 7 == 0 then some (.frndz (fld w 15 7) (flag w 14) (fld w 7 7)) else none
  | 2 => if fld w 22 7 == 0 then some (.frndd (fld w 15 7) (flag w 14) (fld w 7 7)) else none
  | 3 => if fld w 22 7 == 0 then some (.frndu (fld w 15 7) (flag w 14) (fld w 7 7)) else none
  | 4 => if fld w 22 7 == 0 then some (.ffrac (fld w 15 7) (flag w 14) (fld w 7 7)) else none
  | 5 => if fld w 22 7 == 0 then some (.fclass (fld w 15 7) (flag w 14) (fld w 7 7)) else none
  | 6 => if fld w 22 7 == 0 then some (.fgetexp (fld w 15 7) (flag w 14) (fld w 7 7)) else none
  | 7 => some (.fldexp (fld w 22 7) (fld w 15 7) (flag w 14) (fld w 7 7))
  | _ => none

/-- MAJ 0x17 (F3). -/
def decScacc (w : Word) : Option Instr :=
  match (fld w 29 3).toNat with
  | 0 => some (.scacc (fld w 22 7) (fld w 15 7) (flag w 14) (fld w 7 7))
  | 1 => some (.scacc2 (fld w 22 7) (fld w 15 7) (flag w 14) (fld w 7 7))
  | 2 => some (.scmul (fld w 22 7) (fld w 15 7) (flag w 14) (fld w 7 7))
  | 3 => some (.scaci (fld w 22 7) (fld w 15 7) (flag w 14) (fld w 7 7))
  | 4 => some (.scaci2 (fld w 22 7) (fld w 15 7) (flag w 14) (fld w 7 7))
  | _ => none

/-- MAJ 0x18 (FSH). -/
def decShfop (w : Word) : Option Instr :=
  some (.shfop (fld w 29 3) (fld w 25 4) (fld w 22 3) (fld w 15 7) (flag w 14) (fld w 7 7))

/-- MAJ 0x19 (F3). -/
def decPerm (w : Word) : Option Instr :=
  match (fld w 29 3).toNat with
  | 0 => some (.perm (fld w 22 7) (fld w 15 7) (flag w 14) (fld w 7 7))
  | 1 => some (.permt (fld w 22 7) (fld w 15 7) (flag w 14) (fld w 7 7))
  | 2 => some (.perms (fld w 22 7) (fld w 15 7) (flag w 14) (fld w 7 7))
  | 3 => some (.compact (fld w 22 7) (fld w 15 7) (flag w 14) (fld w 7 7))
  | _ => none

/-- MAJ 0x1A (FP). -/
def decVote (w : Word) : Option Instr :=
  match (fld w 29 3).toNat with
  | 0 => if fld w 22 7 == 0 then some (.vall (fld w 15 7) (flag w 14) (flag w 13) (fld w 7 6)) else none
  | 1 => if fld w 22 7 == 0 then some (.vany (fld w 15 7) (flag w 14) (flag w 13) (fld w 7 6)) else none
  | 2 => if fld w 22 7 == 0 then some (.veq (fld w 15 7) (flag w 14) (flag w 13) (fld w 7 6)) else none
  | 3 => if fld w 22 7 == 0 then some (.vfirst (fld w 15 7) (flag w 14) (flag w 13) (fld w 7 6)) else none
  | 4 => if fld w 22 7 == 0 then some (.vlast (fld w 15 7) (flag w 14) (flag w 13) (fld w 7 6)) else none
  | _ => none

/-- MAJ 0x1B (F3). -/
def decMatch (w : Word) : Option Instr :=
  match (fld w 29 3).toNat with
  | 0 => if fld w 22 7 == 0 then some (.matchLanes (fld w 15 7) (flag w 14) (fld w 7 7)) else none
  | 1 => if fld w 22 7 == 0 then some (.tfirst (fld w 15 7) (flag w 14) (fld w 7 7)) else none
  | 2 => if fld w 22 7 == 0 then some (.tpop (fld w 15 7) (flag w 14) (fld w 7 7)) else none
  | _ => none

/-- MAJ 0x1C (FI). -/
def decPart (w : Word) : Option Instr :=
  match (fld w 22 3).toNat with
  | 0 => if !flag w 14 && fld w 7 7 == 0 then some (.setpart (fld w 25 7) (fld w 15 7)) else none
  | 1 => if fld w 25 7 == 0 && fld w 15 7 == 0 then some (.getpart (flag w 14) (fld w 7 7)) else none
  | 2 => if fld w 25 7 == 0 && fld w 15 7 == 0 then some (.tileid (flag w 14) (fld w 7 7)) else none
  | 3 => if fld w 25 7 == 0 && fld w 15 7 == 0 then some (.tlane (flag w 14) (fld w 7 7)) else none
  | _ => none

/-- MAJ 0x20 (FM). -/
def decLdg (w : Word) : Option Instr :=
  match bit (flag w 31) with
  | 0 => some (.ldg (fld w 28 3) (fld w 26 2) (fld w 24 2) (fld w 22 2) (fld w 15 7) (flag w 14) (fld w 7 7))
  | 1 => if fld w 26 2 == 0 && !flag w 14 && fld w 7 7 == 0 then some (.ldgPf (fld w 28 3) (fld w 24 2) (fld w 22 2) (fld w 15 7)) else none
  | _ => none

/-- MAJ 0x21 (FM). -/
def decStg (w : Word) : Option Instr :=
  match bit (flag w 31) with
  | 0 => if !flag w 14 then some (.stg (fld w 28 3) (fld w 26 2) (fld w 24 2) (fld w 22 2) (fld w 15 7) (fld w 7 7)) else none
  | _ => none

/-- MAJ 0x22 (FA). -/
def decAtg (w : Word) : Option Instr :=
  match (fld w 28 4).toNat with
  | 0 => if !flag w 14 then some (.atgAdd (fld w 26 2) (fld w 24 2) (fld w 22 2) (fld w 15 7) (fld w 7 7)) else none
  | 1 => if !flag w 14 then some (.atgSub (fld w 26 2) (fld w 24 2) (fld w 22 2) (fld w 15 7) (fld w 7 7)) else none
  | 2 => if !flag w 14 then some (.atgMin (fld w 26 2) (fld w 24 2) (fld w 22 2) (fld w 15 7) (fld w 7 7)) else none
  | 3 => if !flag w 14 then some (.atgMax (fld w 26 2) (fld w 24 2) (fld w 22 2) (fld w 15 7) (fld w 7 7)) else none
  | 4 => if !flag w 14 then some (.atgUmin (fld w 26 2) (fld w 24 2) (fld w 22 2) (fld w 15 7) (fld w 7 7)) else none
  | 5 => if !flag w 14 then some (.atgUmax (fld w 26 2) (fld w 24 2) (fld w 22 2) (fld w 15 7) (fld w 7 7)) else none
  | 6 => if !flag w 14 then some (.atgAnd (fld w 26 2) (fld w 24 2) (fld w 22 2) (fld w 15 7) (fld w 7 7)) else none
  | 7 => if !flag w 14 then some (.atgOr (fld w 26 2) (fld w 24 2) (fld w 22 2) (fld w 15 7) (fld w 7 7)) else none
  | 8 => if !flag w 14 then some (.atgXor (fld w 26 2) (fld w 24 2) (fld w 22 2) (fld w 15 7) (fld w 7 7)) else none
  | 9 => if !flag w 14 then some (.atgXchg (fld w 26 2) (fld w 24 2) (fld w 22 2) (fld w 15 7) (fld w 7 7)) else none
  | 10 => if !flag w 14 then some (.atgCas (fld w 26 2) (fld w 24 2) (fld w 22 2) (fld w 15 7) (fld w 7 7)) else none
  | 11 => if !flag w 14 then some (.atgFadd (fld w 26 2) (fld w 24 2) (fld w 22 2) (fld w 15 7) (fld w 7 7)) else none
  | 12 => if !flag w 14 then some (.atgFmin (fld w 26 2) (fld w 24 2) (fld w 22 2) (fld w 15 7) (fld w 7 7)) else none
  | 13 => if !flag w 14 then some (.atgFmax (fld w 26 2) (fld w 24 2) (fld w 22 2) (fld w 15 7) (fld w 7 7)) else none
  | 14 => if !flag w 14 then some (.atgInc (fld w 26 2) (fld w 24 2) (fld w 22 2) (fld w 15 7) (fld w 7 7)) else none
  | 15 => if !flag w 14 then some (.atgDec (fld w 26 2) (fld w 24 2) (fld w 22 2) (fld w 15 7) (fld w 7 7)) else none
  | _ => none

/-- MAJ 0x23 (FLM). -/
def decLdl (w : Word) : Option Instr :=
  some (.ldl (fld w 25 7) (fld w 22 3) (fld w 15 7) (flag w 14) (fld w 7 7))

/-- MAJ 0x24 (FLM). -/
def decStl (w : Word) : Option Instr :=
  if !flag w 14 then some (.stl (fld w 25 7) (fld w 22 3) (fld w 15 7) (fld w 7 7)) else none

/-- MAJ 0x25 (FA). -/
def decAtl (w : Word) : Option Instr :=
  match (fld w 28 4).toNat with
  | 0 => if fld w 22 2 == 0 && !flag w 14 then some (.atlAdd (fld w 26 2) (fld w 24 2) (fld w 15 7) (fld w 7 7)) else none
  | 1 => if fld w 22 2 == 0 && !flag w 14 then some (.atlSub (fld w 26 2) (fld w 24 2) (fld w 15 7) (fld w 7 7)) else none
  | 2 => if fld w 22 2 == 0 && !flag w 14 then some (.atlMin (fld w 26 2) (fld w 24 2) (fld w 15 7) (fld w 7 7)) else none
  | 3 => if fld w 22 2 == 0 && !flag w 14 then some (.atlMax (fld w 26 2) (fld w 24 2) (fld w 15 7) (fld w 7 7)) else none
  | 4 => if fld w 22 2 == 0 && !flag w 14 then some (.atlUmin (fld w 26 2) (fld w 24 2) (fld w 15 7) (fld w 7 7)) else none
  | 5 => if fld w 22 2 == 0 && !flag w 14 then some (.atlUmax (fld w 26 2) (fld w 24 2) (fld w 15 7) (fld w 7 7)) else none
  | 6 => if fld w 22 2 == 0 && !flag w 14 then some (.atlAnd (fld w 26 2) (fld w 24 2) (fld w 15 7) (fld w 7 7)) else none
  | 7 => if fld w 22 2 == 0 && !flag w 14 then some (.atlOr (fld w 26 2) (fld w 24 2) (fld w 15 7) (fld w 7 7)) else none
  | 8 => if fld w 22 2 == 0 && !flag w 14 then some (.atlXor (fld w 26 2) (fld w 24 2) (fld w 15 7) (fld w 7 7)) else none
  | 9 => if fld w 22 2 == 0 && !flag w 14 then some (.atlXchg (fld w 26 2) (fld w 24 2) (fld w 15 7) (fld w 7 7)) else none
  | 10 => if fld w 22 2 == 0 && !flag w 14 then some (.atlCas (fld w 26 2) (fld w 24 2) (fld w 15 7) (fld w 7 7)) else none
  | 11 => if fld w 22 2 == 0 && !flag w 14 then some (.atlFadd (fld w 26 2) (fld w 24 2) (fld w 15 7) (fld w 7 7)) else none
  | 12 => if fld w 22 2 == 0 && !flag w 14 then some (.atlFmin (fld w 26 2) (fld w 24 2) (fld w 15 7) (fld w 7 7)) else none
  | 13 => if fld w 22 2 == 0 && !flag w 14 then some (.atlFmax (fld w 26 2) (fld w 24 2) (fld w 15 7) (fld w 7 7)) else none
  | 14 => if fld w 22 2 == 0 && !flag w 14 then some (.atlInc (fld w 26 2) (fld w 24 2) (fld w 15 7) (fld w 7 7)) else none
  | 15 => if fld w 22 2 == 0 && !flag w 14 then some (.atlDec (fld w 26 2) (fld w 24 2) (fld w 15 7) (fld w 7 7)) else none
  | _ => none

/-- MAJ 0x26 (FA). -/
def decScr (w : Word) : Option Instr :=
  match (fld w 28 4).toNat with
  | 0 => if fld w 22 2 == 0 && !flag w 14 then some (.scrAdd (fld w 26 2) (fld w 24 2) (fld w 15 7) (fld w 7 7)) else none
  | 1 => if fld w 22 2 == 0 && !flag w 14 then some (.scrFadd (fld w 26 2) (fld w 24 2) (fld w 15 7) (fld w 7 7)) else none
  | 2 => if fld w 22 2 == 0 && !flag w 14 then some (.scrMin (fld w 26 2) (fld w 24 2) (fld w 15 7) (fld w 7 7)) else none
  | 3 => if fld w 22 2 == 0 && !flag w 14 then some (.scrMax (fld w 26 2) (fld w 24 2) (fld w 15 7) (fld w 7 7)) else none
  | 4 => if fld w 22 2 == 0 && !flag w 14 then some (.scrAnd (fld w 26 2) (fld w 24 2) (fld w 15 7) (fld w 7 7)) else none
  | 5 => if fld w 22 2 == 0 && !flag w 14 then some (.scrOr (fld w 26 2) (fld w 24 2) (fld w 15 7) (fld w 7 7)) else none
  | 6 => if fld w 22 2 == 0 && !flag w 14 then some (.scrXor (fld w 26 2) (fld w 24 2) (fld w 15 7) (fld w 7 7)) else none
  | 7 => if fld w 22 2 == 0 && !flag w 14 then some (.scrFmax (fld w 26 2) (fld w 24 2) (fld w 15 7) (fld w 7 7)) else none
  | 8 => if fld w 22 2 == 0 && !flag w 14 then some (.scrXchg (fld w 26 2) (fld w 24 2) (fld w 15 7) (fld w 7 7)) else none
  | 9 => if fld w 22 2 == 0 && !flag w 14 then some (.scrCas (fld w 26 2) (fld w 24 2) (fld w 15 7) (fld w 7 7)) else none
  | 10 => if fld w 22 2 == 0 && !flag w 14 then some (.scrLd (fld w 26 2) (fld w 24 2) (fld w 15 7) (fld w 7 7)) else none
  | 11 => if fld w 22 2 == 0 && !flag w 14 then some (.scrSt (fld w 26 2) (fld w 24 2) (fld w 15 7) (fld w 7 7)) else none
  | _ => none

/-- MAJ 0x27 (FF). -/
def decFence (w : Word) : Option Instr :=
  match (fld w 7 3).toNat with
  | 0 => if fld w 22 10 == 0 && fld w 18 4 == 0 && fld w 14 4 == 0 then some (.fence (fld w 12 2) (fld w 10 2)) else none
  | 1 => if fld w 22 10 == 0 then some (.xfence (fld w 18 4) (fld w 14 4) (fld w 12 2) (fld w 10 2)) else none
  | 2 => if fld w 22 10 == 0 && fld w 18 4 == 0 && fld w 14 4 == 0 && fld w 12 2 == 0 && fld w 10 2 == 0 then some .drainst else none
  | 3 => if fld w 22 10 == 0 && fld w 18 4 == 0 && fld w 14 4 == 0 && fld w 12 2 == 0 && fld w 10 2 == 0 then some .cinv else none
  | 4 => if fld w 22 10 == 0 && fld w 18 4 == 0 && fld w 14 4 == 0 && fld w 12 2 == 0 && fld w 10 2 == 0 then some .cflush else none
  | _ => none

/-- MAJ 0x28 (F3). -/
def decTask (w : Word) : Option Instr :=
  match (fld w 29 3).toNat with
  | 0 => if !flag w 14 && fld w 7 7 == 0 then some (.tkick (fld w 22 7) (fld w 15 7)) else none
  | 1 => if fld w 22 7 == 0 && !flag w 14 && fld w 7 7 == 0 then some (.tcancel (fld w 15 7)) else none
  | 2 => if fld w 22 7 == 0 then some (.tstat (fld w 15 7) (flag w 14) (fld w 7 7)) else none
  | _ => none

/-- MAJ 0x29 (F3). -/
def decBaro (w : Word) : Option Instr :=
  match (fld w 29 3).toNat with
  | 0 => if !flag w 14 && fld w 7 7 == 0 then some (.binit (fld w 22 7) (fld w 15 7)) else none
  | 1 => some (.barrive (fld w 22 7) (fld w 15 7) (flag w 14) (fld w 7 7))
  | 2 => if !flag w 14 && fld w 7 7 == 0 then some (.bexpect (fld w 22 7) (fld w 15 7)) else none
  | 3 => some (.bwait (fld w 22 7) (fld w 15 7) (flag w 14) (fld w 7 7))
  | 4 => if fld w 22 7 == 0 then some (.btest (fld w 15 7) (flag w 14) (fld w 7 7)) else none
  | 5 => if fld w 22 7 == 0 && !flag w 14 && fld w 7 7 == 0 then some (.binval (fld w 15 7)) else none
  | _ => none

/-- MAJ 0x2A (F3). -/
def decQueue (w : Word) : Option Instr :=
  match (fld w 29 3).toNat with
  | 0 => if !flag w 14 && fld w 7 7 == 0 then some (.qpush (fld w 22 7) (fld w 15 7)) else none
  | 1 => if fld w 15 7 == 0 && !flag w 14 then some (.qpop (fld w 22 7) (fld w 7 7)) else none
  | 2 => if fld w 22 7 == 0 && !flag w 14 then some (.qres (fld w 15 7) (fld w 7 7)) else none
  | 3 => if !flag w 14 && fld w 7 7 == 0 then some (.qcommit (fld w 22 7) (fld w 15 7)) else none
  | 4 => if fld w 22 7 == 0 && !flag w 14 then some (.qlen (fld w 15 7) (fld w 7 7)) else none
  | _ => none

/-- MAJ 0x2B (F3). -/
def decOrder (w : Word) : Option Instr :=
  match (fld w 29 3).toNat with
  | 0 => if fld w 22 7 == 0 && !flag w 14 then some (.ordw (fld w 15 7) (fld w 7 7)) else none
  | 1 => if fld w 22 7 == 0 && !flag w 14 then some (.ordp (fld w 15 7) (fld w 7 7)) else none
  | 2 => if fld w 22 7 == 0 && !flag w 14 then some (.ordr (fld w 15 7) (fld w 7 7)) else none
  | _ => none

/-- MAJ 0x30 (FB). -/
def decBra (w : Word) : Option Instr :=
  some (.bra (fld w 15 17) (flag w 14) (flag w 13) (fld w 7 6))

/-- MAJ 0x31 (FB). -/
def decCall (w : Word) : Option Instr :=
  some (.call (fld w 15 17) (flag w 14) (flag w 13) (fld w 7 6))

/-- MAJ 0x32 (F3). -/
def decJmp (w : Word) : Option Instr :=
  match (fld w 29 3).toNat with
  | 0 => if fld w 22 7 == 0 && !flag w 14 && fld w 7 7 == 0 then some (.jmps (fld w 15 7)) else none
  | 1 => if fld w 22 7 == 0 && !flag w 14 && fld w 7 7 == 0 then some (.calls (fld w 15 7)) else none
  | 2 => if fld w 22 7 == 0 && !flag w 14 && fld w 7 7 == 0 then some (.ret (fld w 15 7)) else none
  | 3 => if fld w 22 7 == 0 && fld w 15 7 == 0 && !flag w 14 && fld w 7 7 == 0 then some .exit else none
  | 4 => if fld w 22 7 == 0 && fld w 15 7 == 0 && !flag w 14 && fld w 7 7 == 0 then some .knot else none
  | 5 => if !flag w 14 && fld w 7 7 == 0 then some (.bar (fld w 22 7) (fld w 15 7)) else none
  | 6 => if fld w 22 7 == 0 && fld w 15 7 == 0 && !flag w 14 && fld w 7 7 == 0 then some .yield else none
  | 7 => if fld w 22 7 == 0 && fld w 15 7 == 0 && !flag w 14 && fld w 7 7 == 0 then some .nop else none
  | _ => none

/-- MAJ 0x33 (FI). -/
def decMig (w : Word) : Option Instr :=
  match (fld w 22 3).toNat with
  | 0 => if fld w 15 7 == 0 && !flag w 14 then some (.migShuttle (fld w 25 7) (fld w 7 7)) else none
  | 1 => if fld w 15 7 == 0 && !flag w 14 then some (.migBeam (fld w 25 7) (fld w 7 7)) else none
  | _ => none

/-- MAJ 0x34 (F3). -/
noncomputable def decSys (w : Word) : Option Instr :=
  match (fld w 29 3).toNat with
  | 0 => if fld w 22 7 == 0 && !flag w 14 && fld w 7 7 == 0 then some (.trap (fld w 15 7)) else none
  | 1 => if fld w 22 7 == 0 && fld w 15 7 == 0 && !flag w 14 && fld w 7 7 == 0 then some .rett else if fld w 22 7 == 1 && fld w 15 7 == 0 && !flag w 14 && fld w 7 7 == 0 then some .rettEnd else none
  | 2 => if fld w 22 7 == 0 && !flag w 14 then some (.qry (fld w 15 7) (fld w 7 7)) else none
  | 3 => if fld w 22 7 == 0 && fld w 15 7 == 0 && !flag w 14 && fld w 7 7 == 0 then some .ckpt else none
  | 6 => if fld w 22 7 == 0 && fld w 15 7 == 0 && !flag w 14 && fld w 7 7 == 0 then some .brk else none
  | _ => none

/-- MAJ 0x3E (FS). -/
noncomputable def decSelv (w : Word) : Option Instr :=
  if !flag w 31 then some (.selv (flag w 30) (fld w 28 2) (fld w 21 7) (fld w 14 7) (fld w 7 7)) else none

/-- MAJ 0x3F (FX). -/
noncomputable def decXp (w : Word) : Option Instr :=
  some (.xp (fld w 7 25))

/-- The opcode map (R51) over MAJ, before the field checks. -/
noncomputable def decodeRaw (w : Word) : Option Instr :=
  match (fld w 1 6).toNat with
  | 0x00 => decIalu w
  | 0x01 => decIalui w
  | 0x02 => decIlog w
  | 0x03 => decImisc w
  | 0x04 => decIun w
  | 0x05 => decIbit w
  | 0x06 => decMovx w
  | 0x07 => decMovi w
  | 0x08 => decIcmp w
  | 0x09 => decFcmp w
  | 0x0A => decPlog w
  | 0x0B => decIcmpi w
  | 0x10 => decFalu w
  | 0x11 => decFfma w
  | 0x12 => decHalu w
  | 0x13 => decSfu w
  | 0x14 => decCvt w
  | 0x15 => decPack w
  | 0x16 => decFmisc w
  | 0x17 => decScacc w
  | 0x18 => decShfop w
  | 0x19 => decPerm w
  | 0x1A => decVote w
  | 0x1B => decMatch w
  | 0x1C => decPart w
  | 0x20 => decLdg w
  | 0x21 => decStg w
  | 0x22 => decAtg w
  | 0x23 => decLdl w
  | 0x24 => decStl w
  | 0x25 => decAtl w
  | 0x26 => decScr w
  | 0x27 => decFence w
  | 0x28 => decTask w
  | 0x29 => decBaro w
  | 0x2A => decQueue w
  | 0x2B => decOrder w
  | 0x30 => decBra w
  | 0x31 => decCall w
  | 0x32 => decJmp w
  | 0x33 => decMig w
  | 0x34 => decSys w
  | 0x3E => decSelv w
  | 0x3F => decXp w
  | _ => none

/-- A 16-bit instruction (R42): every pattern is one. -/
noncomputable def decode16 (h : Half) : Instr :=
  let b : BitVec 6 := BitVec.ofNat 6 (h.toNat / 2 ^ 10)
  let d : BitVec 5 := BitVec.ofNat 5 (h.toNat / 2 ^ 5)
  match h.toNat / 2 % 16 with
  | 0 => .mov16 b d
  | 1 => .iadd16 b d
  | 2 => .isub16 b d
  | 3 => .imul16 b d
  | 4 => .and16 b d
  | 5 => .or16 b d
  | 6 => .xor16 b d
  | 7 => .shl16 b d
  | 8 => .shr16 b d
  | 9 => .sar16 b d
  | 10 => .imin16 b d
  | 11 => .imax16 b d
  | 12 => .fadd16 b d
  | 13 => .fmul16 b d
  | 14 => .fmax16 b d
  | _ => .fmac b d

/-- The instruction a word holds, with its field checks. -/
noncomputable def decodeCode : Code → Except DecodeError Instr
  | .half h => .ok (decode16 h)
  | .word w =>
    match decodeRaw w with
    | none => .error .unassigned
    | some i => if i.wf then .ok i else .error .illegalField

/-- The word at the front of a byte string, little-endian (R29): bit 0 of the first halfword gives its length. -/
def frontCode : List Byte → Option Code
  | b0 :: b1 :: rest =>
    if b0.toNat % 2 = 0 then some (.half (b1 ++ b0))
    else match rest with
      | b2 :: b3 :: _ => some (.word (b3 ++ b2 ++ b1 ++ b0))
      | _ => none
  | _ => none

/-- The number of bytes of a word. -/
def Code.size : Code → Nat
  | .half _ => 2
  | .word _ => 4

/-- Decoding of the bytes at a program counter: the instruction and its length in bytes. -/
noncomputable def decode (bs : List Byte) : Except DecodeError (Instr × Nat) :=
  match frontCode bs with
  | none => .error .truncated
  | some c => match decodeCode c with
    | .error e => .error e
    | .ok i => .ok (i, c.size)

/-- `n` bytes of a number, the least significant first. -/
def leBytes : Nat → Nat → List Byte
  | 0, _ => []
  | n + 1, x => BitVec.ofNat 8 x :: leBytes n (x / 256)

/-- The bytes of a word as they stand in an image. -/
def Code.bytes : Code → List Byte
  | .half h => leBytes 2 h.toNat
  | .word w => leBytes 4 w.toNat

/-- The word of an instruction, from the format table of R35 and the opcode map of R51. A row that is no instruction word
has none. -/
def encode : Instr → Option Code
  | .iadd b a n d => some (.word (packF3 0x00 0 b a n d))
  | .isub b a n d => some (.word (packF3 0x00 1 b a n d))
  | .imul b a n d => some (.word (packF3 0x00 2 b a n d))
  | .imulh b a n d => some (.word (packF3 0x00 3 b a n d))
  | .imulhu b a n d => some (.word (packF3 0x00 4 b a n d))
  | .iadds b a n d => some (.word (packF3 0x00 5 b a n d))
  | .isubs b a n d => some (.word (packF3 0x00 6 b a n d))
  | .iabsd b a n d => some (.word (packF3 0x00 7 b a n d))
  | .iaddi i a n d => some (.word (packFI 0x01 i 0 a n d))
  | .imuli i a n d => some (.word (packFI 0x01 i 1 a n d))
  | .andi i a n d => some (.word (packFI 0x01 i 2 a n d))
  | .ori i a n d => some (.word (packFI 0x01 i 3 a n d))
  | .xori i a n d => some (.word (packFI 0x01 i 4 a n d))
  | .shli i a n d => some (.word (packFI 0x01 i 5 a n d))
  | .shri i a n d => some (.word (packFI 0x01 i 6 a n d))
  | .sari i a n d => some (.word (packFI 0x01 i 7 a n d))
  | .and b a n d => some (.word (packF3 0x02 0 b a n d))
  | .or b a n d => some (.word (packF3 0x02 1 b a n d))
  | .xor b a n d => some (.word (packF3 0x02 2 b a n d))
  | .andn b a n d => some (.word (packF3 0x02 3 b a n d))
  | .orn b a n d => some (.word (packF3 0x02 4 b a n d))
  | .xnor b a n d => some (.word (packF3 0x02 5 b a n d))
  | .shl b a n d => some (.word (packF3 0x02 6 b a n d))
  | .shr b a n d => some (.word (packF3 0x02 7 b a n d))
  | .sar b a n d => some (.word (packF3 0x03 0 b a n d))
  | .rotl b a n d => some (.word (packF3 0x03 1 b a n d))
  | .imin b a n d => some (.word (packF3 0x03 2 b a n d))
  | .imax b a n d => some (.word (packF3 0x03 3 b a n d))
  | .umin b a n d => some (.word (packF3 0x03 4 b a n d))
  | .umax b a n d => some (.word (packF3 0x03 5 b a n d))
  | .iaddc b a n d => some (.word (packF3 0x03 6 b a n d))
  | .isubb b a n d => some (.word (packF3 0x03 7 b a n d))
  | .iabs a n d => some (.word (packF3 0x04 0 0 a n d))
  | .ineg a n d => some (.word (packF3 0x04 1 0 a n d))
  | .not a n d => some (.word (packF3 0x04 2 0 a n d))
  | .popc a n d => some (.word (packF3 0x04 3 0 a n d))
  | .clz a n d => some (.word (packF3 0x04 4 0 a n d))
  | .ctz a n d => some (.word (packF3 0x04 5 0 a n d))
  | .brev a n d => some (.word (packF3 0x04 6 0 a n d))
  | .bswap a n d => some (.word (packF3 0x04 7 0 a n d))
  | .bfx b a n d => some (.word (packF3 0x05 0 b a n d))
  | .bfxu b a n d => some (.word (packF3 0x05 1 b a n d))
  | .bfi b a n d => some (.word (packF3 0x05 2 b a n d))
  | .fshl b a n d => some (.word (packF3 0x05 3 b a n d))
  | .fshr b a n d => some (.word (packF3 0x05 4 b a n d))
  | .lea b a n d => some (.word (packF3 0x05 5 b a n d))
  | .sel b a n d => some (.word (packF3 0x05 6 b a n d))
  | .imad b a n d => some (.word (packF3 0x05 7 b a n d))
  | .mov a n d => some (.word (packF3 0x06 0 0 a n d))
  | .sprd a n d => some (.word (packF3 0x06 1 0 a n d))
  | .spwr b a => some (.word (packF3 0x06 2 b a false 0))
  | .rdlane b a n d => some (.word (packF3 0x06 3 b a n d))
  | .wrlane b a n d => some (.word (packF3 0x06 4 b a n d))
  | .rfl a n d => some (.word (packF3 0x06 5 0 a n d))
  | .movp a n d => some (.word (packF3 0x06 6 0 a n d))
  | .ptom a n d => some (.word (packF3 0x06 7 0 a n d))
  | .movi i n d => some (.word (packFL 0x07 i n d))
  | .eq b a g x p => some (.word (packFP 0x08 0 b a g x p))
  | .ne b a g x p => some (.word (packFP 0x08 1 b a g x p))
  | .lt b a g x p => some (.word (packFP 0x08 2 b a g x p))
  | .le b a g x p => some (.word (packFP 0x08 3 b a g x p))
  | .ltu b a g x p => some (.word (packFP 0x08 4 b a g x p))
  | .leu b a g x p => some (.word (packFP 0x08 5 b a g x p))
  | .tst b a g x p => some (.word (packFP 0x08 6 b a g x p))
  | .tstz b a g x p => some (.word (packFP 0x08 7 b a g x p))
  | .feq b a g x p => some (.word (packFP 0x09 0 b a g x p))
  | .fne b a g x p => some (.word (packFP 0x09 1 b a g x p))
  | .flt b a g x p => some (.word (packFP 0x09 2 b a g x p))
  | .fle b a g x p => some (.word (packFP 0x09 3 b a g x p))
  | .fgt b a g x p => some (.word (packFP 0x09 4 b a g x p))
  | .fge b a g x p => some (.word (packFP 0x09 5 b a g x p))
  | .funord b a g x p => some (.word (packFP 0x09 6 b a g x p))
  | .ford b a g x p => some (.word (packFP 0x09 7 b a g x p))
  | .pand b a g x p => some (.word (packFP 0x0A 0 b a g x p))
  | .por b a g x p => some (.word (packFP 0x0A 1 b a g x p))
  | .pxor b a g x p => some (.word (packFP 0x0A 2 b a g x p))
  | .pandn b a g x p => some (.word (packFP 0x0A 3 b a g x p))
  | .pnot a g x p => some (.word (packFP 0x0A 4 0 a g x p))
  | .pmov a g x p => some (.word (packFP 0x0A 5 0 a g x p))
  | .pclr g x p => some (.word (packFP 0x0A 6 0 0 g x p))
  | .pset g x p => some (.word (packFP 0x0A 7 0 0 g x p))
  | .eqImm i a g x p => some (.word (packFP 0x0B 0 i a g x p))
  | .neImm i a g x p => some (.word (packFP 0x0B 1 i a g x p))
  | .ltImm i a g x p => some (.word (packFP 0x0B 2 i a g x p))
  | .leImm i a g x p => some (.word (packFP 0x0B 3 i a g x p))
  | .ltuImm i a g x p => some (.word (packFP 0x0B 4 i a g x p))
  | .leuImm i a g x p => some (.word (packFP 0x0B 5 i a g x p))
  | .tstImm i a g x p => some (.word (packFP 0x0B 6 i a g x p))
  | .tstzImm i a g x p => some (.word (packFP 0x0B 7 i a g x p))
  | .fadd b a n d => some (.word (packF3 0x10 0 b a n d))
  | .fsub b a n d => some (.word (packF3 0x10 1 b a n d))
  | .fmul b a n d => some (.word (packF3 0x10 2 b a n d))
  | .fmin b a n d => some (.word (packF3 0x10 3 b a n d))
  | .fmax b a n d => some (.word (packF3 0x10 4 b a n d))
  | .fminn b a n d => some (.word (packF3 0x10 5 b a n d))
  | .fmaxn b a n d => some (.word (packF3 0x10 6 b a n d))
  | .fcpsgn b a n d => some (.word (packF3 0x10 7 b a n d))
  | .ffma b a n d => some (.word (packF3 0x11 0 b a n d))
  | .ffms b a n d => some (.word (packF3 0x11 1 b a n d))
  | .fnma b a n d => some (.word (packF3 0x11 2 b a n d))
  | .fnms b a n d => some (.word (packF3 0x11 3 b a n d))
  | .hfma2 b a n d => some (.word (packF3 0x11 4 b a n d))
  | .bfma2 b a n d => some (.word (packF3 0x11 5 b a n d))
  | .idp4 b a n d => some (.word (packF3 0x11 6 b a n d))
  | .hdp2 b a n d => some (.word (packF3 0x11 7 b a n d))
  | .hadd2 b a n d => some (.word (packF3 0x12 0 b a n d))
  | .hsub2 b a n d => some (.word (packF3 0x12 1 b a n d))
  | .hmul2 b a n d => some (.word (packF3 0x12 2 b a n d))
  | .hmax2 b a n d => some (.word (packF3 0x12 3 b a n d))
  | .badd2 b a n d => some (.word (packF3 0x12 4 b a n d))
  | .bsub2 b a n d => some (.word (packF3 0x12 5 b a n d))
  | .bmul2 b a n d => some (.word (packF3 0x12 6 b a n d))
  | .bmax2 b a n d => some (.word (packF3 0x12 7 b a n d))
  | .frcp a n d => some (.word (packF3 0x13 0 0 a n d))
  | .frsq a n d => some (.word (packF3 0x13 1 0 a n d))
  | .fsqrt a n d => some (.word (packF3 0x13 2 0 a n d))
  | .flg2 a n d => some (.word (packF3 0x13 3 0 a n d))
  | .fex2 a n d => some (.word (packF3 0x13 4 0 a n d))
  | .fsin a n d => some (.word (packF3 0x13 5 0 a n d))
  | .fcos a n d => some (.word (packF3 0x13 6 0 a n d))
  | .ftanh a n d => some (.word (packF3 0x13 7 0 a n d))
  | .cvt r s f a n d => some (.word (packFC 0x14 r s f a n d))
  | .pk2h b a n d => some (.word (packF3 0x15 0 b a n d))
  | .pk2bf b a n d => some (.word (packF3 0x15 1 b a n d))
  | .upkhl a n d => some (.word (packF3 0x15 2 0 a n d))
  | .upkhh a n d => some (.word (packF3 0x15 3 0 a n d))
  | .upkbl a n d => some (.word (packF3 0x15 4 0 a n d))
  | .upkbh a n d => some (.word (packF3 0x15 5 0 a n d))
  | .perm8 b a n d => some (.word (packF3 0x15 6 b a n d))
  | .frndn a n d => some (.word (packF3 0x16 0 0 a n d))
  | .frndz a n d => some (.word (packF3 0x16 1 0 a n d))
  | .frndd a n d => some (.word (packF3 0x16 2 0 a n d))
  | .frndu a n d => some (.word (packF3 0x16 3 0 a n d))
  | .ffrac a n d => some (.word (packF3 0x16 4 0 a n d))
  | .fclass a n d => some (.word (packF3 0x16 5 0 a n d))
  | .fgetexp a n d => some (.word (packF3 0x16 6 0 a n d))
  | .fldexp b a n d => some (.word (packF3 0x16 7 b a n d))
  | .scacc b a n d => some (.word (packF3 0x17 0 b a n d))
  | .scacc2 b a n d => some (.word (packF3 0x17 1 b a n d))
  | .scmul b a n d => some (.word (packF3 0x17 2 b a n d))
  | .scaci b a n d => some (.word (packF3 0x17 3 b a n d))
  | .scaci2 b a n d => some (.word (packF3 0x17 4 b a n d))
  | .shfop k o m a n d => some (.word (packFSH 0x18 k o m a n d))
  | .perm b a n d => some (.word (packF3 0x19 0 b a n d))
  | .permt b a n d => some (.word (packF3 0x19 1 b a n d))
  | .perms b a n d => some (.word (packF3 0x19 2 b a n d))
  | .compact b a n d => some (.word (packF3 0x19 3 b a n d))
  | .vall a g x p => some (.word (packFP 0x1A 0 0 a g x p))
  | .vany a g x p => some (.word (packFP 0x1A 1 0 a g x p))
  | .veq a g x p => some (.word (packFP 0x1A 2 0 a g x p))
  | .vfirst a g x p => some (.word (packFP 0x1A 3 0 a g x p))
  | .vlast a g x p => some (.word (packFP 0x1A 4 0 a g x p))
  | .matchLanes a n d => some (.word (packF3 0x1B 0 0 a n d))
  | .tfirst a n d => some (.word (packF3 0x1B 1 0 a n d))
  | .tpop a n d => some (.word (packF3 0x1B 2 0 a n d))
  | .setpart i a => some (.word (packFI 0x1C i 0 a false 0))
  | .getpart n d => some (.word (packFI 0x1C 0 1 0 n d))
  | .tileid n d => some (.word (packFI 0x1C 0 2 0 n d))
  | .tlane n d => some (.word (packFI 0x1C 0 3 0 n d))
  | .ldg z o s l a n d => some (.word (packFM 0x20 0 z o s l a n d))
  | .ldgPf z s l a => some (.word (packFM 0x20 1 z 0 s l a false 0))
  | .stg z o s l a d => some (.word (packFM 0x21 0 z o s l a false d))
  | .atgAdd o s l a d => some (.word (packFA 0x22 0 o s l a false d))
  | .atgSub o s l a d => some (.word (packFA 0x22 1 o s l a false d))
  | .atgMin o s l a d => some (.word (packFA 0x22 2 o s l a false d))
  | .atgMax o s l a d => some (.word (packFA 0x22 3 o s l a false d))
  | .atgUmin o s l a d => some (.word (packFA 0x22 4 o s l a false d))
  | .atgUmax o s l a d => some (.word (packFA 0x22 5 o s l a false d))
  | .atgAnd o s l a d => some (.word (packFA 0x22 6 o s l a false d))
  | .atgOr o s l a d => some (.word (packFA 0x22 7 o s l a false d))
  | .atgXor o s l a d => some (.word (packFA 0x22 8 o s l a false d))
  | .atgXchg o s l a d => some (.word (packFA 0x22 9 o s l a false d))
  | .atgCas o s l a d => some (.word (packFA 0x22 10 o s l a false d))
  | .atgFadd o s l a d => some (.word (packFA 0x22 11 o s l a false d))
  | .atgFmin o s l a d => some (.word (packFA 0x22 12 o s l a false d))
  | .atgFmax o s l a d => some (.word (packFA 0x22 13 o s l a false d))
  | .atgInc o s l a d => some (.word (packFA 0x22 14 o s l a false d))
  | .atgDec o s l a d => some (.word (packFA 0x22 15 o s l a false d))
  | .ldl i z a n d => some (.word (packFLM 0x23 i z a n d))
  | .stl i z a d => some (.word (packFLM 0x24 i z a false d))
  | .atlAdd o s a d => some (.word (packFA 0x25 0 o s 0 a false d))
  | .atlSub o s a d => some (.word (packFA 0x25 1 o s 0 a false d))
  | .atlMin o s a d => some (.word (packFA 0x25 2 o s 0 a false d))
  | .atlMax o s a d => some (.word (packFA 0x25 3 o s 0 a false d))
  | .atlUmin o s a d => some (.word (packFA 0x25 4 o s 0 a false d))
  | .atlUmax o s a d => some (.word (packFA 0x25 5 o s 0 a false d))
  | .atlAnd o s a d => some (.word (packFA 0x25 6 o s 0 a false d))
  | .atlOr o s a d => some (.word (packFA 0x25 7 o s 0 a false d))
  | .atlXor o s a d => some (.word (packFA 0x25 8 o s 0 a false d))
  | .atlXchg o s a d => some (.word (packFA 0x25 9 o s 0 a false d))
  | .atlCas o s a d => some (.word (packFA 0x25 10 o s 0 a false d))
  | .atlFadd o s a d => some (.word (packFA 0x25 11 o s 0 a false d))
  | .atlFmin o s a d => some (.word (packFA 0x25 12 o s 0 a false d))
  | .atlFmax o s a d => some (.word (packFA 0x25 13 o s 0 a false d))
  | .atlInc o s a d => some (.word (packFA 0x25 14 o s 0 a false d))
  | .atlDec o s a d => some (.word (packFA 0x25 15 o s 0 a false d))
  | .scrAdd o s a d => some (.word (packFA 0x26 0 o s 0 a false d))
  | .scrFadd o s a d => some (.word (packFA 0x26 1 o s 0 a false d))
  | .scrMin o s a d => some (.word (packFA 0x26 2 o s 0 a false d))
  | .scrMax o s a d => some (.word (packFA 0x26 3 o s 0 a false d))
  | .scrAnd o s a d => some (.word (packFA 0x26 4 o s 0 a false d))
  | .scrOr o s a d => some (.word (packFA 0x26 5 o s 0 a false d))
  | .scrXor o s a d => some (.word (packFA 0x26 6 o s 0 a false d))
  | .scrFmax o s a d => some (.word (packFA 0x26 7 o s 0 a false d))
  | .scrXchg o s a d => some (.word (packFA 0x26 8 o s 0 a false d))
  | .scrCas o s a d => some (.word (packFA 0x26 9 o s 0 a false d))
  | .scrLd o s a d => some (.word (packFA 0x26 10 o s 0 a false d))
  | .scrSt o s a d => some (.word (packFA 0x26 11 o s 0 a false d))
  | .fence o s => some (.word (packFF 0x27 0 0 o s 0))
  | .xfence b a o s => some (.word (packFF 0x27 b a o s 1))
  | .drainst => some (.word (packFF 0x27 0 0 0 0 2))
  | .cinv => some (.word (packFF 0x27 0 0 0 0 3))
  | .cflush => some (.word (packFF 0x27 0 0 0 0 4))
  | .tkick b a => some (.word (packF3 0x28 0 b a false 0))
  | .tcancel a => some (.word (packF3 0x28 1 0 a false 0))
  | .tstat a n d => some (.word (packF3 0x28 2 0 a n d))
  | .binit b a => some (.word (packF3 0x29 0 b a false 0))
  | .barrive b a n d => some (.word (packF3 0x29 1 b a n d))
  | .bexpect b a => some (.word (packF3 0x29 2 b a false 0))
  | .bwait b a n d => some (.word (packF3 0x29 3 b a n d))
  | .btest a n d => some (.word (packF3 0x29 4 0 a n d))
  | .binval a => some (.word (packF3 0x29 5 0 a false 0))
  | .qpush b a => some (.word (packF3 0x2A 0 b a false 0))
  | .qpop b d => some (.word (packF3 0x2A 1 b 0 false d))
  | .qres a d => some (.word (packF3 0x2A 2 0 a false d))
  | .qcommit b a => some (.word (packF3 0x2A 3 b a false 0))
  | .qlen a d => some (.word (packF3 0x2A 4 0 a false d))
  | .ordw a d => some (.word (packF3 0x2B 0 0 a false d))
  | .ordp a d => some (.word (packF3 0x2B 1 0 a false d))
  | .ordr a d => some (.word (packF3 0x2B 2 0 a false d))
  | .bra i l g p => some (.word (packFB 0x30 i l g p))
  | .call i l g p => some (.word (packFB 0x31 i l g p))
  | .jmps a => some (.word (packF3 0x32 0 0 a false 0))
  | .calls a => some (.word (packF3 0x32 1 0 a false 0))
  | .ret a => some (.word (packF3 0x32 2 0 a false 0))
  | .exit => some (.word (packF3 0x32 3 0 0 false 0))
  | .knot => some (.word (packF3 0x32 4 0 0 false 0))
  | .bar b a => some (.word (packF3 0x32 5 b a false 0))
  | .yield => some (.word (packF3 0x32 6 0 0 false 0))
  | .nop => some (.word (packF3 0x32 7 0 0 false 0))
  | .migShuttle i d => some (.word (packFI 0x33 i 0 0 false d))
  | .migBeam i d => some (.word (packFI 0x33 i 1 0 false d))
  | .trap a => some (.word (packF3 0x34 0 0 a false 0))
  | .rett => some (.word (packF3 0x34 1 0 0 false 0))
  | .rettEnd => some (.word (packF3 0x34 1 1 0 false 0))
  | .qry a d => some (.word (packF3 0x34 2 0 a false d))
  | .ckpt => some (.word (packF3 0x34 3 0 0 false 0))
  | .brk => some (.word (packF3 0x34 6 0 0 false 0))
  | .selv y n c b a => some (.word (packFS 0x3E y n c b a))
  | .xp p => some (.word (packFX 0x3F p))
  | .mov16 b d => some (.half (pack16 0 b d))
  | .iadd16 b d => some (.half (pack16 1 b d))
  | .isub16 b d => some (.half (pack16 2 b d))
  | .imul16 b d => some (.half (pack16 3 b d))
  | .and16 b d => some (.half (pack16 4 b d))
  | .or16 b d => some (.half (pack16 5 b d))
  | .xor16 b d => some (.half (pack16 6 b d))
  | .shl16 b d => some (.half (pack16 7 b d))
  | .shr16 b d => some (.half (pack16 8 b d))
  | .sar16 b d => some (.half (pack16 9 b d))
  | .imin16 b d => some (.half (pack16 10 b d))
  | .imax16 b d => some (.half (pack16 11 b d))
  | .fadd16 b d => some (.half (pack16 12 b d))
  | .fmul16 b d => some (.half (pack16 13 b d))
  | .fmax16 b d => some (.half (pack16 14 b d))
  | .fmac b d => some (.half (pack16 15 b d))
  | .powerOnReset _ => none
  | .registerWrite _ => none
  | .partitionEnable _ _ => none
  | .partitionDisable _ _ => none
  | .tenantEnable _ _ _ => none
  | .tenantDisable _ _ _ => none
  | .reside _ _ _ => none
  | .release _ _ _ => none
  | .preempt _ _ _ => none
  | .contextReset _ _ _ => none
  | .resume _ _ _ => none
  | .ctxcmdInvalid _ _ _ _ => none
  | .contextDrained _ _ => none
  | .drainDeadline _ _ => none
  | .placeTableWrite _ _ _ => none
  | .clsuspSet _ => none
  | .clsuspClear _ => none
  | .clusterSuspended _ => none
  | .invalidateAll _ => none
  | .invalidateTenant _ => none
  | .invalidateRange _ => none
  | .invalidationComplete => none
  | .bindingEnable _ _ => none
  | .bindingDisable _ _ => none
  | .mbdataWrite _ _ _ _ => none
  | .heldMessageEntry _ _ => none
  | .apertureRead _ _ _ => none
  | .apertureWrite _ _ _ => none
  | .apertureAtomic _ _ => none
  | .precopy _ => none
  | .stop _ => none
  | .stopComplete _ => none
  | .snap _ => none
  | .snapComplete _ => none
  | .save _ => none
  | .run _ => none
  | .load _ _ => none
  | .winackWrite _ _ => none
  | .qryMaskWrite _ _ _ => none
  | .attestDevice _ => none
  | .attestTenant _ => none
  | .attestReportDone _ => none
  | .domainRingEnable _ _ _ => none
  | .chargeTick => none
  | .periodBoundary => none
  | .bandwidthPeriod => none
  | .cohortLaunch _ => none
  | .wakeStart _ => none
  | .wakeComplete _ => none
  | .idleToG1 _ => none
  | .g1ToG2 _ => none
  | .enterG3 _ => none
  | .workgroupRetire _ => none
  | .ticketPass _ => none
  | .ordwGrant _ => none
  | .taskStart _ => none
  | .taskComplete _ _ => none
  | .sliceEnd _ => none
  | .groupHalt _ _ => none
  | .sliceResume _ => none
  | .migGrant _ _ => none
  | .migDeadline _ => none
  | .migMove _ => none
  | .homeRequest _ => none
  | .l1Eviction _ _ => none
  | .translationWalkComplete _ => none
  | .compareTimeout _ _ => none
  | .sspDecision _ => none
  | .pairRelease _ => none
  | .selfTestComplete _ _ _ => none
  | .uncorrectableEcc _ => none
  | .correctedError => none
  | .longLatencyResult _ _ _ => none
  | .secureStreamKeyed => none

/-- What the decoder reads from an instruction whose bits are `w`, bit 0 the least significant bit of the first halfword. -/
noncomputable def decodeTableWord (nbits w : Nat) : Option Instr :=
  match decode (leBytes 4 (w % 2 ^ nbits)) with
  | .ok (i, _) => some i
  | .error _ => none

end Sys2Proof
end

