-- ==== Sys2Proof/Config.lean ====
section
/-! DEFINITION. What the manual leaves to values outside it: opaque constants with no body, so that a claim holds whatever
they are (assumption 5). -/
namespace Sys2Proof.Config

/-- SHAKE256 with 64 bytes of output over a byte string (R342): the function of the external standard. -/
opaque shake256 : List (BitVec 8) → Vector (BitVec 8) 64

/-- The Falcon-1024 signature of the device's attestation key over a digest (R345): the key is not in the manual. -/
opaque falconSign : List (BitVec 8) → List (BitVec 8)

/-- The certificate of that key, signed by Clasan (R345). -/
opaque certificate : List (BitVec 8)

/-- Falcon-1024 verification of a signature over a digest under a key (R342): the function of the external standard. -/
opaque falconVerify : (key : List (BitVec 8)) → (digest : Vector (BitVec 8) 64) → (signature : List (BitVec 8)) → Bool

/-- What is fused in the die (R342): the SHAKE256 digest of the Clasan key, and the anti-rollback value. -/
opaque fusedKey : Vector (BitVec 8) 64
opaque antiRollback : Nat

/-- The security version that a firmware image states (R342, R345): the manual gives no layout of the image. -/
opaque firmwareVersion : List (BitVec 8) → BitVec 32

/-- The L2 set of a line within its slice (R310): the manual gives no set mapping. -/
opaque l2set : Nat → Nat

/-- Which line of a full L1 gives way (R190): the manual names no order. The argument is the state's counter of free values. -/
opaque l1Victim : Nat → Nat

/-- How many bytes of a state stream the device offers at once in its window (R331), by the bytes that are left. -/
opaque chunkBytes : Nat → Nat

/-- The types of a state stream's records, and the contents of those that are only for a device of the same stepping and version to read back, by
what they carry (R333). -/
opaque recordType : Nat → Nat
opaque recordBody : (type : Nat) → (carried : List (BitVec 8)) → List (BitVec 8)

/-- What a header word of a stage queue reads as when its page no longer translates: left open (R308). The arguments are the
state's counter of free values and the word's offset. -/
opaque lostQueueWord : Nat → Nat → Nat

/-- The 64-bit digest of a checkpoint's snapshot (R376, R377): the manual names no function. -/
opaque snapDigest : List (BitVec 8) → BitVec 64

/-- The version of the migration stream that this stepping writes and reads (R333). -/
opaque streamVersion : Nat

/-- How many records the pick table at a virtual address holds (R63): the residency record gives no size (assumption 9). -/
opaque pickRecords : Nat → Nat

/-- A word of the secure block, which mirrors the region filter (base, limit and enable of each region) and WGWORLD in a layout the manual does
not give (R302). -/
opaque secureMirror : (regions : List (Nat × Nat × Bool)) → (wgworld : BitVec 4) → (offset : Nat) → Nat

/-- The TYPE of the record that reports a rejected residency: R351 lists none (assumption 45). -/
opaque rejectType : Nat → BitVec 8

end Sys2Proof.Config
end

