-- ==== Sys2Proof/Machine/State.lean ====
section
/-! DEFINITION. The state of the device as plain data: the groups and workgroups that are resident, the memories and their
coherence state, the engines, the host-visible registers, and the list of turns still to come. Every field cites the rule
that gives it; State.reset is the state right after module reset. -/
namespace Sys2Proof.Machine

/-! ### Groups -/

/-- Core class (R10, R54 index 9). -/
inductive CoreClass | shuttle | beam
deriving DecidableEq, Repr

/-- A latch (R49): empty, or a whole result of 32 or 64 bits, of scalar or per-lane kind. -/
inductive Latch
  | empty
  | scalar (wide : Bool) (x : DWord)
  | lanes (wide : Bool) (x : WLanes)
deriving DecidableEq, Repr

/-- The position of a run (R43, R44, R49): whether a run is open, the address of its next word, the instructions issued in
it, its active mask and its latches. -/
structure Run where
  on  : Bool
  pc  : Word
  pos : Nat
  act : Mask
  lat : Vector Latch 8
deriving DecidableEq, Repr

def Run.none : Run := ⟨false, 0, 0, 0, Vector.replicate 8 .empty⟩

/-- What a lane that waits at a mig named (R259, R294): pick point, target class, destination register; and the mig's native
PC (R260). -/
structure MigWait where
  pick : Nat
  cls  : CoreClass
  dst  : Nat
  npc  : Word
deriving DecidableEq, Repr

/-- The trap frame (R358), with the native PC of the interrupted run that its shadow keeps (R356). -/
structure Frame where
  cause     : BitVec 8
  after     : Bool
  perLane   : Bool
  imprecise : Bool
  resume    : Word
  addr      : DWord
  npc       : Word
  twin      : Word
  mask      : Mask
  s18       : Vector Word 8
  p07       : Vector Mask 8
  part      : Word                  -- R123
  runNpc    : Word
  lpcs      : Vector Word 32
deriving DecidableEq, Repr

def Frame.zero : Frame :=
  { cause := 0, after := false, perLane := false, imprecise := false, resume := 0, addr := 0, npc := 0, twin := 0, mask := 0,
    s18 := Vector.replicate 8 0, p07 := Vector.replicate 8 0, part := 0, runNpc := 0, lpcs := Vector.replicate 32 0 }

/-- A precise uncorrectable error carried by loaded data (R366): the pending register, the reading instruction's native PC
and the location read. -/
structure EccMark where
  reg  : Nat
  npc  : Word
  addr : DWord
deriving DecidableEq, Repr

/-- What a control transfer left for the SELV that follows it to carry out (R45, R269, R277, R356, R369): nothing, lanes
already moved, the same by a yield, a handler's next address, an after-instruction fault, a rett (true: rett end). -/
inductive Leave
  | none
  | moved
  | yielded
  | jump (pc : Word)
  | after (cause : BitVec 8) (addr : DWord) (npc : Word) (mask : Mask)
  | rett (fin : Bool)
deriving DecidableEq, Repr

/-- The context of a group: what its save record (R357), its register rows and its trap frame hold. -/
structure Ctx where
  v       : Vector Lanes 96          -- vector registers (R31)
  s       : Vector Word 24           -- scalar registers (R31)
  p       : Vector Mask 64           -- predicates as lane masks (R33, R357)
  lpc     : Vector Word 32           -- R44
  exitM   : Mask                     -- R234
  waitM   : Mask                     -- arrival bits (R234)
  parkM   : Mask                     -- park mask (R54 index 14)
  barM    : Mask                     -- waits that are bars (R357)
  migM    : Mask                     -- waits that are migs (R295)
  barN    : Vector (BitVec 4) 32     -- bar numbers (R357)
  barA    : Vector Word 32           -- the expected count each waiting lane's bar read (R274)
  arrM    : Mask                     -- waiting lanes whose bar or mig their group has arrived at (R259, R274)
  migW    : Vector MigWait 32        -- what each lane waiting at a mig named (R259)
  starve  : Vector Nat 32            -- starvation counts (R237)
  part    : Word                     -- R122
  icount  : Word                     -- R54 index 12
  twin    : Word                     -- R262
  pend    : List (Nat × Nat)         -- pending registers by R31 code, each with the first register of its result (R48)
  eccs    : List EccMark             -- R366
  run     : Run                      -- the run being issued: the program's, or the handler's in a handler
  shadow  : Run                      -- the interrupted program's run while in a handler (R358)
  xpw     : Option (BitVec 25)       -- payload of an XP whose instruction has not issued (R38)
  inH     : Bool                     -- in handler (R357)
  sup     : Bool                     -- the handler is a supervisor routine (R365)
  frameOn : Bool                     -- frame valid (R357)
  frame   : Frame                    -- R358
  fCause  : BitVec 8                 -- cause of the last fault delivered (R235)
  fAddr   : DWord                    -- its address (R235)
  selLane : BitVec 5                 -- special register 53 (R355)
  recD    : DWord                    -- special registers 50 and 51 (R355)
  recS    : Word                     -- special register 52 (R355)
  redo    : Option Mask              -- while the faulting instruction issues again: the mask to continue with (R356)
  leave   : Leave                    -- what the run's control transfer left to its SELV
  lastNpc : Word                     -- the native PC of the instruction that completed last (R366)
deriving DecidableEq, Repr

/-- The context of a group at launch with entry PC 0 (R244): registers zero, predicates false but p63, part 5. -/
def Ctx.launch : Ctx :=
  { v := Vector.replicate 96 (Vector.replicate 32 0), s := Vector.replicate 24 0,
    p := (Vector.replicate 64 0).set 63 (BitVec.allOnes 32), lpc := Vector.replicate 32 0,
    exitM := 0, waitM := 0, parkM := 0, barM := 0, migM := 0, barN := Vector.replicate 32 0, barA := Vector.replicate 32 0,
    arrM := 0, migW := Vector.replicate 32 ⟨0, .shuttle, 96, 0⟩, starve := Vector.replicate 32 0, part := 5, icount := 0,
    twin := BitVec.allOnes 32, pend := [], eccs := [], run := Run.none, shadow := Run.none, xpw := none, inH := false, sup := false,
    frameOn := false, frame := Frame.zero, fCause := 0, fAddr := 0, selLane := 0, recD := 0, recS := 0, redo := none, leave := .none,
    lastNpc := 0 }

/-- Why a group is stalled at an instruction that it will issue again (R47, R253). -/
inductive Stall
  | queueFull    -- qpush or qres on a full queue (R285, R286)
  | kicks        -- tkick with 16 kicks outstanding (R167)
  | selv         -- a SELV awaiting a register (R48)
  | drain        -- a drainst or xfence that has not completed (R228, R229)
  | commit       -- a commit point of a checked workgroup (R377)
  | buffer       -- a store that waits for a record queue entry (R361)
deriving DecidableEq, Repr

/-- Where a group stands: at a run boundary, in a run, stalled at an instruction of its run, or ended (R235, R253). -/
inductive Phase | between | inRun | stalled (r : Stall) | ended
deriving DecidableEq, Repr

/-- A long-latency result under way (R48): the first destination register, how many registers each lane's value fills
(R32), whether it is one scalar value, the lanes it is written in, the values, an ECC error (R366), and whether a group switch waits for it. -/
structure Arrival where
  reg    : Nat
  nregs  : Nat
  scalar : Bool
  mask   : Mask
  vals   : Vector (BitVec 128) 32
  npc    : Word
  addr   : DWord
  bad    : Bool
  own    : Bool                      -- of the core's own units, not of memory: a group switch waits for it (R96, R128)
deriving DecidableEq, Repr

/-- One buffered act of an IL1 or IL2 group (R289, R372): a global store with the physical address of each 16-byte block that it touches (none
in a checked pair, which translates at commit, R363), a screed store, a queue push. -/
inductive BufOp
  | store (lane : Lane) (va : DWord) (pas : List Nat) (data : List Byte) (pol scp : Nat)
  | scrSt (lane : Lane) (va : DWord) (pa : Nat) (data : List Byte)
  | push (stage : Nat) (entry : List Byte)
deriving DecidableEq, Repr

structure BufEnt where
  op   : BufOp
  npc  : Word
  twin : Word
  mask : Mask
deriving DecidableEq, Repr

/-- One act of a workgroup of a deterministic partition (R202 to R204): a written byte run or a buffered screed operation. -/
inductive DetOp
  | write (va : DWord) (pa : Nat) (data : List Byte)
  | scrOp (va : DWord) (pa : Nat) (op : Nat) (wide : Bool) (x : DWord)
  | push (stage : Nat) (entry : List Byte)
deriving DecidableEq, Repr

/-- An entry of the local undo log (R378): offset, workgroup of the bytes, old bytes, and when it was made, for the order in which the logs of a
workgroup are undone (R382). -/
structure UndoEnt where
  wg  : Nat
  off : Nat
  old : List Byte
  at_ : Nat
deriving DecidableEq, Repr

/-- One lane of a compared event (R376): address, data, byte mask, policy and scope. -/
structure CmpItem where
  lane  : Nat
  addr  : DWord
  data  : BitVec 128
  bmask : BitVec 16
  pol   : Nat
  scp   : Nat
deriving DecidableEq, Repr

/-- A compared event of a group (R376). -/
structure CmpEvent where
  kind  : Nat
  npc   : Word
  twin  : Word
  items : List CmpItem
  lpcs  : List Word
  exitM : Mask
  waitM : Mask
deriving DecidableEq, Repr

/-- What the leading member forwards to the trailing one (R375): values by lane and, for an access that faulted, the lanes,
cause and address. -/
structure FwdItem where
  vals  : Vector (BitVec 128) 32
  fmask : Mask
  cause : BitVec 8
  addr  : DWord
deriving DecidableEq, Repr

/-- A checkpoint's snapshot of a group (R377): its state block and rows, its results under way, the migs it has arrived at. -/
structure Snap where
  ctx   : Ctx
  arr   : List Arrival
  phase : Phase
  migK  : Nat
deriving DecidableEq, Repr

/-- A resident group: its identity, its place, its register budgets, its context, its buffers. -/
structure Group where
  wg        : Nat                    -- key of its workgroup
  gid       : Fin 16                 -- group id in the workgroup (R54 index 1)
  role      : Role                   -- member of a checked pair (R375)
  core      : Nat                    -- logical core id (R10)
  slot      : Nat                    -- group slot on the core (R17)
  vbud      : Nat                    -- vector register budget (R32, R243)
  sbud      : Nat                    -- scalar register budget (R32)
  phase     : Phase
  halted    : Bool                   -- halted in place (R253)
  stamp     : Nat                    -- when it last had a run (R238)
  heldSince : Nat                    -- since when its slot is charged (R240)
  spilled   : Nat                    -- rows spilled to the save area (R255)
  c         : Ctx
  arr       : List Arrival           -- long-latency results under way, oldest first (R48)
  cbuf      : List BufEnt            -- commit buffer, oldest first (R372)
  undo      : List UndoEnt           -- local undo log, newest first (R378)
  snap      : Option Snap            -- checkpoint (R377)
  cmp       : List CmpEvent          -- events of the leading member not yet compared, oldest first (R376)
  fwd       : List FwdItem           -- values not yet consumed by the trailing member, oldest first (R375)
  migK      : Nat                    -- migs arrived at (R259)
  migSf     : Bool                   -- a store-fault record was delivered at the arrival being made (R260)
  gave      : Bool                   -- its last run ended in a yield: other ready groups go first (R276)
deriving DecidableEq, Repr

/-- The group record of an issue stage that holds no group: no live lane, ended. -/
def Group.empty : Group :=
  { wg := 0, gid := 0, role := .lead, core := 0, slot := 0, vbud := 0, sbud := 0, phase := .ended, halted := false, stamp := 0,
    heldSince := 0, spilled := 0, c := { Ctx.launch with exitM := BitVec.allOnes 32 }, arr := [], cbuf := [], undo := [],
    snap := none, cmp := [], fwd := [], migK := 0, migSf := false, gave := false }

/-! ### Workgroups, tasks, migration -/

/-- A stage by the partition and tenant that hold it, its pipeline and its index in the pipeline (R17). -/
structure StageRef where
  part   : Fin 8
  tenant : Fin 9
  pipe   : Nat
  stage  : Nat
deriving DecidableEq, Repr

/-- A workgroup barrier (R274): whether a phase is open, its expected count, the groups that arrived. -/
structure WgBar where
  opened   : Bool
  expected : Nat
  arrived  : List (Fin 16)
deriving DecidableEq, Repr

/-- State of a task record (R147). -/
inductive TState | none | pending | issued | done | cancelled | rejected
deriving DecidableEq, Repr

/-- A record of a kick: its local offset, the snapshot bytes of each member (R153, R173), its state, the predecessors still open, the issued
flag (R154), its own error bits and the FAULT word. -/
structure TaskRec where
  off    : Nat
  bytes  : List Byte
  bytesT : List Byte                 -- the trailing member's, of its own local memory; the same bytes outside a checked pair
  state  : TState
  count  : Nat
  issued : Bool
  err    : BitVec 13
  fault  : DWord
deriving DecidableEq, Repr

/-- A kick (R153): the group that made it, the offset of its list, its records. -/
structure Kick where
  key  : Nat
  gid  : Fin 16
  list : Nat
  recs : List TaskRec
deriving DecidableEq, Repr

/-- A migration attempt of a workgroup, its k-th (R259, R260): pick point, class, groups arrived, the time it opened, and
whether it is refused, granted to a core, or granted at once without a move. -/
inductive MigState | opened | refused | granted (core : Nat) | stay
deriving DecidableEq, Repr

structure MigAttempt where
  k       : Nat
  pick    : Nat
  cls     : CoreClass
  arrived : List (Fin 16)
  since   : Nat
  st      : MigState
deriving DecidableEq, Repr

/-- A mismatch of a checked workgroup in the present interval (R381): kind, native PC, lane. -/
structure MisKey where
  kind : Nat
  npc  : Word
  lane : Nat
deriving DecidableEq, Repr

/-- A request held at a screed bank until its rank's turn: an ordw of a group with its destination, a pass, or the advance that a workgroup of a
deterministic partition has left to its retirement (R251, R291 to R293). -/
inductive HeldKind | ordw (gid : Fin 16) (dst : Nat) | pass | advance
deriving DecidableEq, Repr

structure HeldReq where
  wg   : Nat
  ten  : Fin 8 × Fin 9               -- the context it belongs to (R292)
  pa   : Nat
  rank : Nat
  kind : HeldKind
deriving DecidableEq, Repr

/-- The request waits for a group that still runs. -/
def HeldKind.isOrdw : HeldKind → Bool
  | .ordw _ _ => true
  | _ => false

/-- What a checkpoint keeps of a workgroup as a whole, beside its groups' snapshots (R377): its barriers, its attempts, its ordws that the banks
held. -/
structure WgSnap where
  bars  : Vector WgBar 16
  barsT : Vector WgBar 16
  mig   : List MigAttempt
  held  : List HeldReq
deriving DecidableEq, Repr

def WgSnap.none : WgSnap := ⟨Vector.replicate 16 ⟨false, 0, []⟩, Vector.replicate 16 ⟨false, 0, []⟩, [], []⟩

/-- A resident workgroup. -/
structure Workgroup where
  key      : Nat
  ref      : StageRef
  grid     : Nat                     -- key of its grid
  pos      : Nat                     -- curve position of its cohort (R248)
  wgid     : Nat × Nat × Nat         -- R54 indices 2 to 4
  rank     : Nat                     -- ticket rank (R249, R250)
  curve    : Nat                     -- curve rank (R248)
  core     : Nat                     -- core of the leading member
  cls      : CoreClass               -- class of the image it runs
  entry    : List Byte               -- the queue entry that launched its grid (R279)
  index    : Nat                     -- that entry's index
  size     : Nat                     -- bytes of its local-memory allocation (R221)
  mem      : List Host.Cell          -- local memory (R221)
  memT     : List Host.Cell          -- the trailing member's local memory (R375)
  bars     : Vector WgBar 16         -- R274
  barsT    : Vector WgBar 16         -- the trailing member's (R375)
  resv     : List (Nat × Nat)        -- open reservations: stage index and entry index (R286)
  passed   : List Nat                -- objects whose passed bit is set (R290)
  duePass  : List Nat                -- advances due at retirement (R251, R293)
  kicks    : List Kick               -- R153
  came     : List (Nat × Nat)        -- barrier object and record of each task that arrived since the object's last flip (R173)
  cameT    : List (Nat × Nat)        -- the trailing member's (R173)
  mig      : List MigAttempt         -- R259
  det      : List (Fin 16 × DetOp)   -- deterministic buffer, oldest first (R202)
  detBytes : Nat                     -- buffered bytes (R250)
  atomic   : Bool                    -- an unbuffered atomic was performed (R374)
  reruns   : Nat                     -- runs again made (R374)
  finished : Bool                    -- finished, its deterministic buffer waits for the cohort's turn (R250)
  ckpt     : Word                    -- checkpoint id (R377)
  ckptAt   : Nat                     -- the first key of a kick made after the checkpoint (R382)
  snap     : WgSnap                  -- the checkpoint (R377)
  rolls    : Word                    -- rollbacks since the checkpoint (R355 index 49)
  visible  : Bool                    -- an externally visible act was performed since launch (R381)
  mism     : List MisKey             -- mismatches of the interval (R381)
deriving DecidableEq, Repr

/-- A grid under launch or running (R244): its stage, the entry and index that launched it, how many cohorts have launched
and retired, how many workgroups have launched (ticket ranks, R249), whether the entry is still held. -/
structure Grid where
  key      : Nat
  ref      : StageRef
  entry    : List Byte
  index    : Nat
  launched : Nat
  retired  : List Nat                -- curve positions of retired cohorts
  wgs      : Nat
  held     : Bool
deriving DecidableEq, Repr

/-- A task queued at an engine, or ready to be (R138, R154). -/
structure EngTask where
  eng     : EngineId
  wg      : Nat
  kick    : Nat
  off     : Nat
  started : Bool
  since   : Nat
deriving DecidableEq, Repr

/-! ### Coherence and translation -/

/-- State of a word in the heddle (R195). -/
inductive WState | H | S | O (core : Nat)
deriving DecidableEq, Repr

structure HLine where
  line    : Nat
  sharers : Mask
  w       : Vector WState 32
deriving DecidableEq, Repr

/-- A word of an L1 line (R190). -/
inductive L1Word | inv | si (x : Word) | wi (x : Word) | own (x : Word)
deriving DecidableEq, Repr

structure L1Line where
  core : Nat
  line : Nat
  w    : Vector L1Word 32
deriving DecidableEq, Repr

/-- A line held in L2 (R310): its way, the tenant it is charged to, its world, the stamp of its last use. -/
structure L2Line where
  line   : Nat
  way    : Nat
  tenant : Option (Fin 8 × Fin 9)
  secure : Bool
  used   : Nat
deriving DecidableEq, Repr

/-- A request under way to a home (R196): a store of one lane under policy wt, wtk or fwd, or a prefetch (R215). -/
inductive HomeKind | store (pol : Nat) (pa : Nat) (data : List Byte) | fetch (pol : Nat)
deriving DecidableEq, Repr

structure HomeReq where
  core : Nat
  wg   : Nat
  gid  : Fin 16
  line : Nat
  kind : HomeKind
deriving DecidableEq, Repr

/-- Who holds a cached translation: a core or a cluster (R315). -/
inductive TlbOwner | core (n : Nat) | cluster (n : Nat)
deriving DecidableEq, Repr

/-- A cached translation (R313 to R315, R320): owner, tenant, first virtual address, size, frame, permissions. -/
structure TlbEnt where
  owner : TlbOwner
  part  : Fin 8
  ten   : Fin 9
  base  : Nat
  size  : Nat
  frame : Nat
  ns    : Bool
  w     : Bool
  pr    : Bool
deriving DecidableEq, Repr

/-- One lane of a store that waits for a page walk (R316). -/
structure WalkLane where
  lane : Lane
  va   : DWord
  data : List Byte
deriving DecidableEq, Repr

structure Walk where
  core  : Nat
  wg    : Nat
  gid   : Fin 16
  npc   : Word
  twin  : Word
  size  : Nat
  pol   : Nat
  scp   : Nat
  one   : Bool                       -- one access for the instruction: a scalar base and equal data (R210)
  stuck : Bool                       -- its lanes failed to translate, and wait for a place in the record queue (R361)
  lanes : List WalkLane
deriving DecidableEq, Repr

/-- An entry of a core's store-fault record queue (R360); in a checked pair each member has its own (R363). -/
structure SfEnt where
  core   : Nat
  wg     : Nat
  gid    : Fin 16
  role   : Role
  cause  : BitVec 8
  highva : Bool
  va     : BitVec 49
  data   : DWord
  npc    : Word
  twin   : Word
  mask   : Mask
  bmask  : BitVec 16
  wgslot : Nat
  sz     : Nat
deriving DecidableEq, Repr

/-! ### Residency -/

/-- A pick-table record (R63, R349): the image it stands in, pick number, stage index, both PCs, carry, entries. -/
structure PickRec where
  cls     : CoreClass
  n       : Nat
  stage   : Nat
  pc      : Word
  other   : Word
  carry   : Nat
  entries : List (Nat × Nat × Nat)
deriving DecidableEq, Repr

/-- A stage as its RCB and descriptor give it, inheritance resolved (R18, R239, R243). -/
structure Stage where
  index   : Nat
  rcb     : Nat
  prio    : Nat                      -- 1 CRIT to 4 BULK
  cls     : CoreClass
  il      : Nat
  fdom    : Nat
  vlim    : Nat
  sentry  : Word
  bentry  : Word
  sreg    : Nat × Nat                -- shuttle vectors, scalars
  breg    : Nat × Nat
  loc     : Nat
  groups  : Nat
  roles   : Nat × Nat × Nat          -- copy, matrix, epilogue groups
  rolev   : Nat × Nat × Nat
  gx      : Nat
  gy      : Nat
  gz      : Nat
  cx      : Nat
  cy      : Nat
  migdl   : Nat
  resCore : Nat
  resMat  : Nat
  buflim  : Nat
  qbase   : DWord
  qlog    : Nat
  hwm     : Nat
  lwm     : Nat
deriving DecidableEq, Repr

structure Pipeline where
  part   : Fin 8
  tenant : Fin 9
  rcb    : Nat
  index  : Nat
  sbase  : DWord
  bbase  : DWord
  ssize  : Nat
  bsize  : Nat
  stages : List Stage
  picks  : List PickRec
  digest : List Byte
deriving DecidableEq, Repr

/-! ### Budgets, power, slices -/

/-- A node with a budget (R239 to R242). Balances are in 1/1,200 token (R240). -/
structure Node where
  rcb    : Nat
  parent : Nat
  index  : Nat
  budset : Bool
  lend   : Bool
  refill : Nat
  slice  : Nat                       -- slice length of a partition or sub-partition (R239, R252)
  bal    : Int
  debt   : Nat
  used   : Nat
  launch : Word
  loans  : List (Nat × Nat)          -- lender's RCB and tokens owed, oldest first
deriving DecidableEq, Repr

/-- Power state of a unit (R263). -/
inductive PState | G0 | G1 | G2 | G3
deriving DecidableEq, Repr

structure PUnit where
  st     : PState
  since  : Nat
  waking : Bool
deriving DecidableEq, Repr

structure WakeReq where
  unit : UnitId
  prio : Nat
  crit : Bool                        -- refills a CRIT reserve (R265)
  at_  : Nat
deriving DecidableEq, Repr

/-- Slice state of a cluster (R252, R254): the tenant that runs, since when, and the tenant a change brings in. -/
structure Slice where
  cur   : Option (Fin 8 × Fin 9)
  since : Nat
  next  : Option (Fin 8 × Fin 9)
deriving DecidableEq, Repr

/-! ### Host-visible registers -/

/-- A secure region of the configuration record (R344): first and last page number, enable. -/
structure Region where
  base  : Nat
  limit : Nat
  en    : Bool
deriving DecidableEq, Repr

/-- The configuration record in force (R344). -/
structure CfgRec where
  stepping : Byte
  vfLimit  : Nat
  ide      : Byte
  wgworld  : BitVec 4
  regions  : List Region
  power    : Nat
  body     : List Byte               -- its 512 bytes, which attestation digests (R345)
  firmware : List Byte               -- the firmware that booted (R343, R345)
deriving DecidableEq, Repr

/-- Device block (R300). -/
structure DevRegs where
  stage   : Nat
  code    : Byte
  secok   : Bool
  devroot : DWord
  secerr  : Word
deriving DecidableEq, Repr

/-- Tenant block (R305). `hold` is set from PREEMPT to RESUME (R307). -/
structure Tenant where
  en       : Bool
  tclmask  : Mask
  tways    : BitVec 16
  occlim   : BitVec 20
  hitx     : Word
  ttbr     : DWord
  ctxdl    : Nat
  drainAt  : Nat                     -- when the drain under way began (R257)
  ctxarg   : DWord
  reason   : Byte
  lost     : Bool
  ctxstat  : Nat
  hostbase : DWord
  apbase   : DWord
  hold     : Bool
deriving DecidableEq, Repr

def Tenant.zero : Tenant :=
  { en := false, tclmask := 0, tways := 0, occlim := 0, hitx := 0, ttbr := 0, ctxdl := 0, drainAt := 0, ctxarg := 0, reason := 0,
    lost := false, ctxstat := 0, hostbase := 0, apbase := 0, hold := false }

/-- Partition block (R304). `bwNow` is the bandwidth share in force (R306). -/
structure Partition where
  en      : Bool
  func    : BitVec 5
  world   : Bool
  det     : Bool
  clmask  : Mask
  bfirst  : BitVec 10
  bcnt    : BitVec 10
  ways    : BitVec 16
  bw      : Byte
  bwNow   : Byte
  root    : DWord
  errc    : Byte
  cfgerr  : Bool
  run     : Bool
  tenants : Vector Tenant 9
deriving DecidableEq, Repr

def Partition.zero : Partition :=
  { en := false, func := 0, world := false, det := false, clmask := 0, bfirst := 0, bcnt := 0, ways := 0, bw := 0, bwNow := 0,
    root := 0, errc := 0, cfgerr := false, run := false, tenants := Vector.replicate 9 Tenant.zero }

/-- Place tables (R309). -/
structure Place where
  cl      : Vector (BitVec 6) 32
  sl      : Vector (BitVec 7) 64
  sb      : Vector (BitVec 10) 512
  susp    : Mask
  suspd   : Mask
  phfault : BitVec 34
  slfault : BitVec 66
  sbfault : BitVec 528
  plerr   : Byte
deriving DecidableEq, Repr

/-- Translation invalidation block (R321). -/
structure InvRegs where
  tiva    : DWord
  tipages : Word
  go      : Bool
  tenant  : Byte
  kind    : BitVec 3
deriving DecidableEq, Repr

/-- Mailbox binding (R327). -/
structure Binding where
  en    : Bool
  world : Bool
  func  : BitVec 5
  slot  : BitVec 4
  vec   : BitVec 3
  stage : DWord
deriving DecidableEq, Repr

/-- Mailbox slot (R325, R326): staged bytes, the message held while FULL, and the status bits. -/
structure MbSlot where
  data    : Vector Byte 64
  held    : Option (List Byte)
  heldAt  : Nat                      -- when it was held: messages enter a queue in this order (R326)
  posted  : BitVec 16
  drop    : Bool
  refused : Bool
  irqen   : Bool
deriving DecidableEq, Repr

/-- Virtual-function control (R331); the bytes of the state stream still to be read, or supplied so far; the window as the host wrote it;
whether a stream has been supplied whole (R333). -/
structure VfCtl where
  st        : Nat
  ecode     : Nat
  err       : Bool
  snapping  : Bool                   -- a SNAP whose bits SNAPDONE does not yet report (R332)
  snapdone  : Bool
  cur       : Bool
  dirtybase : DWord
  tracking  : Bool
  winlen    : Word
  stream    : List Byte
  win       : List Host.Cell
  whole     : Bool
deriving DecidableEq, Repr

/-- Attestation block (R345). -/
structure Attest where
  nonce   : Vector Byte 32
  busy    : Bool
  cmd     : Nat
  alen    : BitVec 13
  aten    : Byte
  taken   : List Byte                -- what the report will cover, taken when the command was accepted
  report  : List Byte
deriving DecidableEq, Repr

/-- SSP policy (R351). -/
structure Policy where
  spare  : Bool
  il1re  : Bool
  il1lim : Nat
  retry  : Nat
  spares : Nat
  cecnt  : Word
deriving DecidableEq, Repr

/-- Fault-domain ring (R351) with the SEQ counter of R350. -/
structure Domain where
  rbase : DWord
  en    : Bool
  func  : BitVec 5
  vec   : Byte
  rlog  : Nat
  head  : Word
  tail  : Word
  lost  : Word
  seq   : Word
deriving DecidableEq, Repr

/-- The mismatch record of a pair (R380). -/
structure Mismatch where
  wg     : Nat
  gid    : Fin 16
  action : Nat
  lane   : Nat
  slot   : Nat
  core   : Nat
  field  : Nat
  kind   : Nat
  npc    : Word
  twin   : Word
  ckpt   : Word
  count  : Nat
  lead   : BitVec 128
  trail  : BitVec 128
  cycle  : DWord
deriving DecidableEq, Repr

/-- A checked pair 2k, 2k+1 (R21, R375, R379): formed, since when, stopped by a mismatch, that mismatch, self-test under
way (R383). -/
structure Pair where
  formed  : Bool
  since   : Nat
  stopped : Bool
  mis     : Option Mismatch
  rolled  : Bool
  testing : Bool
  testAt  : Nat
  recPa   : Nat                      -- where its record of type 6 stands, or 0 (R383)
deriving DecidableEq, Repr

/-- What the device sends to the outside: data of a host read, an Unsupported Request answer, an MSI-X vector, an AER
report, an AtomicOp or posted write on the link is performed on host memory at once (R299, R322, R323, R351). -/
inductive HostOut
  | data (func : Nat) (bytes : List Byte)
  | unsupported (func : Nat)
  | msix (func vec : Nat)
  | aer (func : Nat)
deriving DecidableEq, Repr

/-- A 16-byte block of main memory whose value a core has already taken for a load that a group has still to issue: accesses to different places
need not be performed in program order (R181). -/
structure EarlyBlock where
  core  : Nat
  wg    : Nat
  gid   : Fin 16
  block : Nat
  data  : List Byte
deriving DecidableEq, Repr

/-- A state stream that SAVE produced or the host supplies (R333): the header facts that LOAD checks, and the state it
carries. -/
structure VmImage where
  key      : Nat
  stepping : Byte
  version  : Nat
  det      : Bool
  bcnt     : Nat
  clusters : Mask
  root     : Nat
  bank     : Nat
  pipes    : List Pipeline
  groups   : List Group
  wgs      : List Workgroup
  grids    : List Grid
  relaunch : List Workgroup
  marks    : List (Nat × Nat)
  engq     : List EngTask
  held     : List HeldReq
  sfq      : List SfEnt
  mail     : Vector MbSlot 16
  screed   : List Host.Cell
  creels   : List (EngineId × List Host.Cell)
  creelTen : List ((EngineId × Nat) × Fin 8 × Fin 9)
  nodes    : List Node
deriving DecidableEq, Repr

/-- A host read of BAR0 (R299): the function, the byte offset, 4 or 8 bytes, and whether it arrived in the IDE stream (R302). -/
structure HostRead where
  func   : Fin 17
  off    : Nat
  size   : Nat
  secure : Bool
deriving DecidableEq, Repr

/-- Whose turn comes next (assumption 1): a core, an event, a host read, the passing of engine-clock cycles, or a block's value taken early for a
group's load (R181). -/
inductive Turn
  | core (n : Nat)
  | read (q : HostRead)
  | event (i : Instr)
  | pass (cycles : Nat)
  | early (wg : Nat) (gid : Fin 16) (va : Nat)
deriving DecidableEq, Repr

/-- The state of the device. -/
structure State where
  grp      : Group                       -- the group at the issue stage
  others   : List Group                  -- the other resident groups
  wgs      : List Workgroup              -- resident workgroups (R17)
  grids    : List Grid                   -- grids under launch or running (R244)
  relaunch : List Workgroup              -- aborted IL1 workgroups to be launched again (R374)
  pipes    : List Pipeline               -- resident pipelines (R308)
  lastLaunch : Vector (Option StageRef) 32 -- the stage that each cluster launched last (R245)
  mem      : List Host.Cell              -- main memory and screed by physical address (R311)
  hostMem  : List Host.Cell              -- host memory by PCIe address (R324)
  hed      : List HLine                  -- heddle lines not in the state H with no sharer (R195)
  l1       : List L1Line                 -- R190
  l2       : List L2Line                 -- R310
  homeQ    : List HomeReq                -- R196
  early    : List EarlyBlock             -- R181
  tlb      : List TlbEnt                 -- R315
  walks    : List Walk                   -- R316
  sfq      : List SfEnt                  -- R360
  creels   : List (EngineId × List Host.Cell) -- R160
  creelTen : List ((EngineId × Nat) × Fin 8 × Fin 9) -- the tenant that last loaded a stream into a unit of a creel (R165)
  readyQ   : List EngTask                -- ready records that the walker has not issued, with when they became so (R138)
  engq     : List EngTask                -- R138
  held     : List HeldReq                -- R291, R292
  marks    : List (Nat × Nat)            -- committed entries above COMMIT: QBASE's physical address and index (R285)
  nodes    : List Node                   -- R241
  units    : Vector (Vector PUnit 9) 32  -- R263
  wakes    : List (Fin 32 × Nat)         -- wakes started: cluster and time (R264)
  wakeQ    : List WakeReq                -- wakes requested (R264)
  slices   : Vector Slice 32             -- R252
  now      : Nat                         -- engine-clock cycles since module reset (R350)
  periods  : Nat                         -- budget periods ended since module reset (R241)
  dev      : DevRegs                     -- R300
  cfg      : CfgRec                      -- R344
  parts    : Vector Partition 8          -- R304, R305
  place    : Place                       -- R309
  inv      : InvRegs                     -- R321
  binds    : Vector Binding 256          -- R327
  mbox     : Vector (Vector MbSlot 16) 17 -- R325
  vfs      : Vector VfCtl 16             -- R331
  streams  : List VmImage                -- state streams the hypervisor holds (R333)
  qmask    : Vector (Vector Word 16) 16  -- R340
  attest   : Vector Attest 17            -- R345
  msix     : Vector (List (Nat × Word)) 17 -- words of the MSI-X tables that differ from their reset value, by number (R299, R322)
  policy   : Policy                      -- R351
  domains  : Vector Domain 64            -- R351
  pairs    : Vector Pair 16              -- R21, R375
  out      : List HostOut                -- what the device has sent to the host, oldest first
  agenda   : List Turn                   -- the turns to come (assumption 1)
  fresh    : Nat                         -- fresh keys and free values (assumption 5)
deriving DecidableEq, Repr

/-- Reasons a step can stop with a fault: none. Every step of this model answers a next state, because the manual gives
every instruction and event an effect; the type is kept closed and empty of reasons. -/
inductive Fault
deriving DecidableEq, Repr

/-- Reasons a step can be refused. -/
inductive Refusal
  /-- Raised by exec for a row that has no meaning in the model yet. Safe: nothing is claimed of such a step. -/
  | notModelled (mnemonic : String)
deriving DecidableEq, Repr

/-- The refill of the device root (R18): the cost of every core and engine for one period, in tokens. -/
def rootRefill : Nat := 9216000

/-- The machine right after module reset (R343 step 1): every register at its reset value, every cluster in G3, nothing
resident, memory with nothing listed. -/
def State.reset : State :=
  { grp := Group.empty, others := [], wgs := [], grids := [], relaunch := [], pipes := [], lastLaunch := Vector.replicate 32 none, mem := [], hostMem := [],
    hed := [], l1 := [], l2 := [], homeQ := [], early := [], tlb := [], walks := [], sfq := [], creels := [], creelTen := [], readyQ := [], engq := [], held := [],
    marks := [],
    nodes := [{ rcb := 0, parent := 0, index := 0, budset := true, lend := false, refill := rootRefill, slice := 0,
                bal := (rootRefill : Int) * 1200, debt := 0, used := 0, launch := 0, loans := [] }],
    units := Vector.replicate 32 (Vector.replicate 9 ⟨.G3, 0, false⟩), wakes := [], wakeQ := [],
    slices := Vector.replicate 32 ⟨none, 0, none⟩, now := 0, periods := 0,
    dev := { stage := 0, code := 0, secok := false, devroot := 0, secerr := 0 },
    cfg := { stepping := 0x41, vfLimit := 0, ide := 0, wgworld := 0, regions := [], power := 0, body := [], firmware := [] },
    parts := Vector.replicate 8 Partition.zero,
    place := { cl := Vector.ofFn fun i => BitVec.ofNat 6 i.val, sl := Vector.ofFn fun i => BitVec.ofNat 7 i.val,
               sb := Vector.ofFn fun i => BitVec.ofNat 10 i.val, susp := 0, suspd := 0, phfault := 0, slfault := 0,
               sbfault := 0, plerr := 0 },
    inv := { tiva := 0, tipages := 0, go := false, tenant := 0, kind := 0 },
    binds := Vector.replicate 256 ⟨false, false, 0, 0, 0, 0⟩,
    mbox := Vector.replicate 17 (Vector.replicate 16 ⟨Vector.replicate 64 0, none, 0, 0, false, false, false⟩),
    vfs := Vector.replicate 16 { st := 0, ecode := 0, err := false, snapping := false, snapdone := false, cur := false, dirtybase := 0,
                                 tracking := false, winlen := 0, stream := [], win := [], whole := false },
    streams := [],
    qmask := Vector.replicate 16 (Vector.replicate 16 (BitVec.allOnes 32)),
    attest := Vector.replicate 17 { nonce := Vector.replicate 32 0, busy := false, cmd := 0, alen := 0, aten := 0,
                                    taken := [], report := [] },
    msix := Vector.replicate 17 [],
    policy := { spare := false, il1re := false, il1lim := 1, retry := 2, spares := 2, cecnt := 0 },
    domains := Vector.replicate 64 { rbase := 0, en := false, func := 0, vec := 0, rlog := 6, head := 0, tail := 0, lost := 0,
                                     seq := 0 },
    pairs := Vector.replicate 16 { formed := false, since := 0, stopped := false, mis := none, rolled := false,
                                   testing := false, testAt := 0, recPa := 0 },
    out := [], agenda := [], fresh := 1 }

/-- The answer of a step. -/
abbrev Out := Host.Outcome State Fault Refusal

end Sys2Proof.Machine
end

