-- ==== Sys2Proof/Machine/Num.lean ====
section
/-! DEFINITION. Number formats, rounding and conversion (R65 to R92): exact values as a sign and a fraction, rounded once. -/
namespace Sys2Proof.Machine

/-! ### Exact values -/

/-- The value a float operand or an exact intermediate holds: NaN, an infinity, or (-1)^neg * num / den with den not zero. A
zero keeps its sign. -/
inductive FVal
  | nan
  | inf (neg : Bool)
  | fin (neg : Bool) (num den : Nat)
deriving DecidableEq, Repr

/-- Rounding modes, the codes of R73. -/
inductive RMode | rn | rz | rd | ru
deriving DecidableEq, Repr

def rmodeOf : Nat → RMode
  | 0 => .rn
  | 1 => .rz
  | 2 => .rd
  | _ => .ru

/-- m * 2^q with a sign. -/
def scaled (neg : Bool) (m : Nat) (q : Int) : FVal :=
  if 0 ≤ q then .fin neg (m * 2 ^ q.toNat) 1 else .fin neg m (2 ^ (-q).toNat)

/-- The floor of the base-2 logarithm of num / den, both positive. -/
def flog2 (num den : Nat) : Int :=
  let k : Int := (Nat.log2 num : Int) - Nat.log2 den
  let fits : Bool := if 0 ≤ k then den * 2 ^ k.toNat ≤ num else den ≤ num * 2 ^ (-k).toNat
  if fits then k else k - 1

/-- num / den in units of 2^q, as quotient, remainder and divisor. -/
def unitsOf (num den : Nat) (q : Int) : Nat × Nat × Nat :=
  let n := if 0 ≤ q then num else num * 2 ^ (-q).toNat
  let d := if 0 ≤ q then den * 2 ^ q.toNat else den
  (n / d, n % d, d)

/-- Whether a discarded remainder moves the magnitude up (R73); `even` says the kept significand is even. -/
def roundsUp (mode : RMode) (neg even : Bool) (r d : Nat) : Bool :=
  match mode with
  | .rn => decide (d < 2 * r) || (decide (2 * r = d) && !even)
  | .rz => false
  | .rd => neg && decide (0 < r)
  | .ru => !neg && decide (0 < r)

/-- num / den rounded to a whole number of units of 2^q. -/
def roundUnits (mode : RMode) (neg : Bool) (num den : Nat) (q : Int) : Nat :=
  let (k, r, d) := unitsOf num den q
  if roundsUp mode neg (k % 2 == 0) r d then k + 1 else k

/-- The exponent of the last place of a value in a format with `fb` fraction bits and smallest place 2^qmin. -/
def lastPlace (fb : Nat) (qmin : Int) (num den : Nat) : Int :=
  max (flog2 num den - fb) qmin

/-- Rounding to `fb` fraction bits with no largest value (R73, R84, R86). -/
def roundVal (fb : Nat) (qmin : Int) (mode : RMode) : FVal → FVal
  | .fin neg num den =>
    if num = 0 then .fin neg 0 1
    else
      let q := lastPlace fb qmin num den
      scaled neg (roundUnits mode neg num den q) q
  | v => v

/-! ### Arithmetic on exact values -/

def FVal.isNan : FVal → Bool
  | .nan => true
  | _ => false

def FVal.isInf : FVal → Bool
  | .inf _ => true
  | _ => false

/-- The sign of a value that is no NaN. -/
def FVal.sign : FVal → Bool
  | .nan => false
  | .inf n => n
  | .fin n _ _ => n

def FVal.isZero : FVal → Bool
  | .fin _ num _ => num == 0
  | _ => false

def FVal.neg : FVal → FVal
  | .nan => .nan
  | .inf n => .inf (!n)
  | .fin n num den => .fin (!n) num den

def FVal.abs : FVal → FVal
  | .nan => .nan
  | .inf _ => .inf false
  | .fin _ num den => .fin false num den

/-- The exact product; 0 times infinity is invalid (R71, R85). -/
def FVal.mul : FVal → FVal → FVal
  | .nan, _ => .nan
  | _, .nan => .nan
  | .inf s, .inf t => .inf (s != t)
  | .inf s, .fin t num _ => if num = 0 then .nan else .inf (s != t)
  | .fin s num _, .inf t => if num = 0 then .nan else .inf (s != t)
  | .fin s a b, .fin t c d => .fin (s != t) (a * c) (b * d)

/-- The finite value as a signed numerator over `den`. -/
def signedNum (neg : Bool) (num : Nat) : Int := if neg then -(num : Int) else num

/-- The running sum of finite addends as numerator and denominator. -/
def addFrac : Int × Nat → FVal → Int × Nat
  | (n, d), .fin s num den =>
    if d = den then (n + signedNum s num, d)
    else if den % d = 0 then (n * (den / d : Nat) + signedNum s num, den)
    else if d % den = 0 then (n + signedNum s num * (d / den : Nat), d)
    else (n * den + signedNum s num * d, d * den)
  | acc, _ => acc

/-- The exact sum of a list of addends, with the sign of an exact zero by R74 and the invalid operations of R71. -/
def sumVals (mode : RMode) (xs : List FVal) : FVal :=
  if xs.any FVal.isNan then .nan
  else
    let pinf := xs.any fun x => x.isInf && !x.sign
    let ninf := xs.any fun x => x.isInf && x.sign
    if pinf && ninf then .nan
    else if pinf then .inf false
    else if ninf then .inf true
    else
      let (n, d) := xs.foldl addFrac ((0 : Int), 1)
      if n = 0 then
        let allNeg := xs.all fun x => x.isZero && x.sign
        let mixed := xs.any FVal.sign && xs.any fun x => !x.sign
        .fin ((allNeg && !xs.isEmpty) || (mode == .rd && mixed)) 0 1
      else .fin (decide (n < 0)) n.natAbs d

def FVal.add (mode : RMode) (a b : FVal) : FVal := sumVals mode [a, b]

/-- A value from an integer. -/
def ofInt (x : Int) : FVal := .fin (decide (x < 0)) x.natAbs 1

/-- a < b for values that are no NaN, with the two zeros equal. -/
def FVal.lt : FVal → FVal → Bool
  | .inf s, .inf t => s && !t
  | .inf s, .fin _ _ _ => s
  | .fin _ _ _, .inf t => !t
  | .fin s a b, .fin t c d => decide (signedNum s a * d < signedNum t c * b)
  | _, _ => false

def FVal.eq : FVal → FVal → Bool
  | .nan, _ => false
  | _, .nan => false
  | a, b => !a.lt b && !b.lt a

/-- The order of minimum and maximum: -0 below +0 (R71). -/
def FVal.ltZ (a b : FVal) : Bool := a.lt b || (a.isZero && b.isZero && a.sign && !b.sign)

def FVal.min (a b : FVal) : FVal :=
  if a.isNan || b.isNan then .nan else if b.ltZ a then b else a

def FVal.max (a b : FVal) : FVal :=
  if a.isNan || b.isNan then .nan else if a.ltZ b then b else a

/-- minimumNumber and maximumNumber (R71). -/
def FVal.minNum (a b : FVal) : FVal := if a.isNan then b else if b.isNan then a else a.min b

def FVal.maxNum (a b : FVal) : FVal := if a.isNan then b else if b.isNan then a else a.max b

/-! ### Binary float formats -/

/-- Which codes of a format are not finite (R69, R76). -/
inductive Specials | ieee | nanOnly | none
deriving DecidableEq, Repr

/-- A binary format: fraction bits, exponent bits, exponent of the last place of a subnormal, largest finite magnitude code,
and its special codes. -/
structure FloatFmt where
  fb   : Nat
  eb   : Nat
  qmin : Int
  big  : Nat
  sp   : Specials
  nanC : Nat
deriving DecidableEq, Repr

def fF32  : FloatFmt := ⟨23, 8, -149, 0x7F7FFFFF, .ieee, 0x7FC00000⟩
def fF16  : FloatFmt := ⟨10, 5, -24, 0x7BFF, .ieee, 0x7E00⟩
def fBF16 : FloatFmt := ⟨7, 8, -133, 0x7F7F, .ieee, 0x7FC0⟩
def fE5M2 : FloatFmt := ⟨2, 5, -16, 0x7B, .ieee, 0x7E⟩
def fE4M3 : FloatFmt := ⟨3, 4, -9, 0x7E, .nanOnly, 0x7F⟩
def fE3M2 : FloatFmt := ⟨2, 3, -4, 0x1F, .none, 0⟩
def fE2M3 : FloatFmt := ⟨3, 2, -3, 0x1F, .none, 0⟩
def fE2M1 : FloatFmt := ⟨1, 2, -1, 0x7, .none, 0⟩

/-- The place of a format's sign bit. -/
def FloatFmt.signPos (f : FloatFmt) : Nat := f.fb + f.eb

/-- A code with its sign bit. -/
def FloatFmt.signed (f : FloatFmt) (neg : Bool) (mag : Nat) : Nat := (if neg then 2 ^ f.signPos else 0) + mag

/-- The code of infinity of an IEEE format. -/
def FloatFmt.infC (f : FloatFmt) : Nat := f.big + 1

/-- The exact value of a code (R69, R76). -/
def FloatFmt.value (f : FloatFmt) (bits : Nat) : FVal :=
  let neg := bits / 2 ^ f.signPos % 2 == 1
  let mag := bits % 2 ^ f.signPos
  let ef := mag / 2 ^ f.fb
  let fr := mag % 2 ^ f.fb
  if f.sp == .ieee && ef == 2 ^ f.eb - 1 then (if fr == 0 then .inf neg else .nan)
  else if f.sp == .nanOnly && mag == f.nanC then .nan
  else if ef == 0 then scaled neg fr f.qmin
  else scaled neg (2 ^ f.fb + fr) (f.qmin + (ef - 1 : Nat))

/-- A code is subnormal: exponent field zero, fraction not (R70). -/
def FloatFmt.subnormal (f : FloatFmt) (bits : Nat) : Bool :=
  let mag := bits % 2 ^ f.signPos
  mag != 0 && decide (mag < 2 ^ f.fb)

/-- A code with a subnormal read as the zero of its sign, under the flush modifier (R70). -/
def FloatFmt.flushBits (f : FloatFmt) (ftz : Bool) (bits : Nat) : Nat :=
  if ftz && f.subnormal bits then f.signed (bits / 2 ^ f.signPos % 2 == 1) 0 else bits

/-- Reading an operand, under the flush modifier (R70). -/
def FloatFmt.read (f : FloatFmt) (ftz : Bool) (bits : Nat) : FVal := f.value (f.flushBits ftz bits)

/-- The magnitude code of a non-zero finite value rounded with no largest value; none when it lies beyond the largest
finite one. A tie between the largest finite value and the next one overflows (R73). -/
def FloatFmt.roundMag (f : FloatFmt) (mode : RMode) (neg : Bool) (num den : Nat) : Option Nat :=
  let q := lastPlace f.fb f.qmin num den
  let (k, r, d) := unitsOf num den q
  let base := (q - f.qmin).toNat * 2 ^ f.fb
  let atTop := base + k == f.big && mode == .rn && decide (2 * r = d)
  let mag := base + (if atTop || roundsUp mode neg (k % 2 == 0) r d then k + 1 else k)
  if mag ≤ f.big then some mag else none

/-- Whether a finite overflow gives an infinity (R73). -/
def overflowInf : RMode → Bool → Bool
  | .rn, _ => true
  | .rz, _ => false
  | .rd, neg => neg
  | .ru, neg => !neg

/-- The exact value lies below the smallest normal of the format (R70). -/
def FloatFmt.tiny (f : FloatFmt) (num den : Nat) : Bool :=
  num != 0 && decide (flog2 num den < f.qmin + f.fb)

/-- The result of an operation in an IEEE format: one rounding, under the saturate and flush modifiers (R70 to R74). -/
def FloatFmt.result (f : FloatFmt) (mode : RMode) (sat ftz : Bool) : FVal → Nat
  | .nan => f.nanC
  | .inf neg => f.signed neg f.infC
  | .fin neg num den =>
    if num = 0 || (ftz && f.tiny num den) then f.signed neg 0
    else match f.roundMag mode neg num den with
      | some mag => f.signed neg mag
      | none => f.signed neg (if overflowInf mode neg && !sat then f.infC else f.big)

/-! ### dm8 -/

/-- The exponents of 10 of each group of dm8 payloads, with the fraction bits and the first code (R78, R79). -/
def dm8Group (p : Nat) : Int × Nat × Nat :=
  if 0x40 ≤ p then (0, 6, 0x40)
  else if 0x30 ≤ p then (-1, 4, 0x30)
  else if 0x20 ≤ p then (1, 4, 0x20)
  else if 0x1C ≤ p then (-3, 2, 0x1C)
  else if 0x18 ≤ p then (-2, 2, 0x18)
  else if 0x14 ≤ p then (3, 2, 0x14)
  else if 0x10 ≤ p then (2, 2, 0x10)
  else if 0x0E ≤ p then (-5, 1, 0x0E)
  else if 0x0C ≤ p then (-4, 1, 0x0C)
  else if 0x0A ≤ p then (5, 1, 0x0A)
  else if 0x08 ≤ p then (4, 1, 0x08)
  else if p = 7 then (-7, 0, 7)
  else if p = 6 then (-6, 0, 6)
  else if p = 5 then (7, 0, 5)
  else if p = 4 then (6, 0, 4)
  else if p = 3 then (-8, 0, 3)
  else (8, 0, 2)

/-- The unit in which every finite dm8 value is a whole number: 1 / (64 * 10^8). -/
def dm8Unit : Nat := 6400000000

/-- The magnitude of a finite dm8 payload above 1, in those units. -/
def dm8Mag (p : Nat) : Nat :=
  let (e, fw, first) := dm8Group p
  (2 ^ fw + 9 * (p - first)) * (64 / 2 ^ fw) * 10 ^ (e + 8).toNat

/-- The exact value of a dm8 byte (R78). -/
def dm8Value (b : Nat) : FVal :=
  let neg := b / 128 % 2 == 1
  let p := b % 128
  if p = 0 then (if neg then .nan else .fin false 0 1)
  else if p = 1 then .inf neg
  else .fin neg (dm8Mag p) dm8Unit

/-- The signed value of a finite dm8 code in the units of `dm8Unit`. -/
def dm8Int (b : Nat) : Int :=
  if b = 0 then 0 else signedNum (b / 128 % 2 == 1) (dm8Mag (b % 128))

/-- The finite dm8 codes: zero, and 0x02 to 0x7F of each sign. -/
def dm8Codes : List Nat := 0 :: ((List.range 126).map (· + 2) ++ (List.range 126).map (· + 130))

/-- The better of two candidates for x = n / d under a mode: the nearer one, ties to bit 0 clear; or the one closer to x on
the side the mode allows (R80). -/
def dm8Better (mode : RMode) (n : Int) (d : Nat) (best : Option Nat) (c : Nat) : Option Nat :=
  let x := n * dm8Unit
  let v := dm8Int c * d
  let ok := match mode with
    | .rn => true
    | .rz => if 0 ≤ n then decide (0 ≤ v ∧ v ≤ x) else decide (x ≤ v ∧ v ≤ 0)
    | .rd => decide (v ≤ x)
    | .ru => decide (x ≤ v)
  if !ok then best
  else match best with
    | none => some c
    | some b =>
      let db := (x - dm8Int b * d).natAbs
      let dc := (x - v).natAbs
      if dc < db then some c else if dc = db && c % 2 == 0 then some c else some b

/-- Conversion to dm8 (R80); `ovf` is the overflow-to-infinity option. -/
def toDm8 (mode : RMode) (ovf : Bool) : FVal → Nat
  | .nan => 0x80
  | .inf neg => if neg then 0x81 else 0x01
  | .fin neg num den =>
    if num > 100000000 * den then
      (if neg then 0x80 else 0) + (if ovf && overflowInf mode neg then 0x01 else 0x02)
    else (dm8Codes.foldl (dm8Better mode (signedNum neg num) den) none).getD 0

/-! ### Integers -/

/-- The signed reading of the low `w` bits. -/
def sx (w x : Nat) : Int :=
  let y := x % 2 ^ w
  if y < 2 ^ (w - 1) then y else (y : Int) - (2 : Int) ^ w

/-- wrap of R67. -/
def wrapN (w : Nat) (x : Int) : Nat := (x % (2 : Int) ^ w).toNat

/-- sat_s of R67, as a number before the low w bits are kept. -/
def satS (w : Nat) (x : Int) : Int := max (-(2 : Int) ^ (w - 1)) (min ((2 : Int) ^ (w - 1) - 1) x)

/-- sat_u of R67. -/
def satU (w : Nat) (x : Int) : Int := max 0 (min ((2 : Int) ^ w - 1) x)

/-- A value rounded to an integer in a mode. -/
def roundInt (mode : RMode) (neg : Bool) (num den : Nat) : Int :=
  signedNum neg (roundUnits mode neg num den 0)

/-! ### Conversion (R65, R80 to R82) -/

/-- Kinds of format code (R65). -/
inductive NumKind
  | float (f : FloatFmt)
  | dm8
  | int (signed : Bool) (w : Nat)
deriving DecidableEq, Repr

def numKind : Nat → NumKind
  | 0 => .float fF32
  | 1 => .float fF16
  | 2 => .float fBF16
  | 3 => .float fE5M2
  | 4 => .float fE4M3
  | 5 => .float fE3M2
  | 6 => .float fE2M3
  | 7 => .float fE2M1
  | 8 => .dm8
  | 9 => .int true 32
  | 10 => .int false 32
  | 11 => .int true 16
  | 12 => .int false 16
  | 13 => .int true 8
  | 14 => .int false 8
  | _ => .int true 4

/-- The width of a format code (R65). -/
def fmtWidth (c : Nat) : Nat :=
  match numKind c with
  | .float f => f.signPos + 1
  | .dm8 => 8
  | .int _ w => w

/-- f32, f16 and bf16, the formats that the flush modifier and the saturate modifier of R82 concern. -/
def isIeee (c : Nat) : Bool := decide (c < 3)

/-- The exact value of a source operand; a flushed subnormal reads as zero. -/
def sourceVal (sf : Nat) (ftz : Bool) (x : Nat) : FVal :=
  let y := x % 2 ^ fmtWidth sf
  match numKind sf with
  | .float f => f.read (ftz && isIeee sf) y
  | .dm8 => dm8Value y
  | .int s w => ofInt (if s then sx w y else y)

/-- A float source to the narrow OCP formats (R82). -/
def toOcp (f : FloatFmt) (mode : RMode) (ovf : Bool) : FVal → Nat
  | .nan => f.nanC
  | .inf neg =>
    f.signed neg (match f.sp with
      | .ieee => f.infC
      | .nanOnly => if ovf then f.nanC else f.big
      | .none => f.big)
  | .fin neg num den =>
    if num = 0 then f.signed neg 0
    else match f.roundMag mode neg num den with
      | some mag => f.signed neg mag
      | none =>
        f.signed neg (if ovf && overflowInf mode neg then
            (match f.sp with
              | .ieee => f.infC
              | .nanOnly => f.nanC
              | .none => f.big)
          else f.big)

/-- An exact value to a format code; `range` is the .sat or .ovf bit (R116). -/
def convVal (df : Nat) (mode : RMode) (range ftz : Bool) (v : FVal) : Nat :=
  match numKind df with
  | .float f => if isIeee df then f.result mode range ftz v else toOcp f mode range v
  | .dm8 => toDm8 mode range v
  | .int s w =>
    match v with
    | .nan => 0
    | .inf neg => wrapN w (if s then (if neg then -(2 : Int) ^ (w - 1) else (2 : Int) ^ (w - 1) - 1)
                           else (if neg then 0 else (2 : Int) ^ w - 1))
    | .fin neg num den =>
      let x := roundInt mode neg num den
      wrapN w (if s then satS w x else satU w x)

/-- Conversion of a code of format sf to a code of format df (R82). An integer beyond the range of a float format follows R73 by mode: e5m2 has the
infinities that this gives, with or without .ovf. DESIGN CHOICE (assumption 38): e4m3, e3m2, e2m3 and e2m1 have none, and an integer that R73 would
send to infinity goes where R82 sends a float: to the largest finite value, or in e4m3 under .ovf to the NaN; an integer beyond 10^8 goes to a dm8 as R80
says of any value, whose default is 10^8. -/
def convert (df sf : Nat) (mode : RMode) (range ftz : Bool) (x : Nat) : Nat :=
  let y := x % 2 ^ fmtWidth sf
  if df = sf then
    (match numKind sf with
      | .float f => if isIeee sf then f.flushBits ftz y else y
      | _ => y)
  else
    match numKind df, numKind sf with
    | .int s w, .int t v =>
      let n := if t then sx v y else (y : Int)
      wrapN w (if range then (if s then satS w n else satU w n) else n)
    | .float f, .int _ _ => convVal df mode (range || (f.sp == .ieee && !isIeee df)) ftz (sourceVal sf ftz x)
    | _, _ => convVal df mode range ftz (sourceVal sf ftz x)

/-! ### Matrix arithmetic (R83 to R89) -/

/-- The multiplier-format value of an operand (R84). -/
def mop (fmt : Nat) (x : Nat) : FVal :=
  match numKind fmt with
  | .dm8 => roundVal 15 (-4096) .rn (dm8Value (x % 256))
  | _ => sourceVal fmt false x

/-- The accumulator rounding (R86). -/
def roundAcc (v : FVal) : FVal := roundVal 23 (-533) .rn v

/-- One group of eight products added to the accumulator (R87). -/
def accGroup (acc : FVal) (products : List FVal) : FVal :=
  roundAcc (FVal.add .rn acc (roundAcc (sumVals .rn products)))

/-- The list cut into groups of eight; `fuel` bounds the number of groups. -/
def eights : Nat → List FVal → List (List FVal)
  | 0, _ => []
  | fuel + 1, xs => if xs.isEmpty then [] else xs.take 8 :: eights fuel (xs.drop 8)

/-- A dot product in the order of R87, starting from c. -/
def dotFloat (c : FVal) (products : List FVal) : FVal :=
  (eights (products.length / 8 + 1) products).foldl accGroup c

/-- Whether a final conversion overflows the largest finite value of the output format (R88). -/
def outOverflow (fmt : Nat) : FVal → Bool
  | .fin _ num den =>
    match numKind fmt with
    | .dm8 => decide (num > 100000000 * den)
    | .float f =>
      match f.value f.big with
      | .fin _ n d => decide (num * d > n * den)
      | _ => false
    | .int _ _ => false
  | _ => false

/-- round_out for a float element (R88): the code and whether it records a conversion overflow. -/
def roundOut (fmt : Nat) (v : FVal) : Nat × Bool := (convVal fmt .rn false false v, outOverflow fmt v)

/-- round_out for an integer element (R89): acc wraps modulo 2^48. -/
def roundOutInt (acc : Int) : Nat × Bool :=
  let x := sx 48 (wrapN 48 acc)
  (wrapN 32 (satS 32 x), satS 32 x != x)

/-- The value of an E8M0 scale byte (R77). -/
def e8m0 (b : Nat) : FVal := if b % 256 = 255 then .nan else scaled false 1 ((b % 256 : Nat) - 127)

end Sys2Proof.Machine
end

