-- ==== Sys2Proof/Machine/Flags.lean ====
section
/-! DEFINITION. What instructions compute into predicates: integer and float comparisons, carries and borrows (R100, R106 to
R109). -/
namespace Sys2Proof.Machine

/-- Condition codes of ICMP and ICMPI (R107). -/
inductive ICond | eq | ne | lt | le | ltu | leu | tst | tstz
deriving DecidableEq, Repr

def ICond.holds : ICond → Word → Word → Bool
  | .eq, a, b => a == b
  | .ne, a, b => a != b
  | .lt, a, b => decide (a.toInt < b.toInt)
  | .le, a, b => decide (a.toInt ≤ b.toInt)
  | .ltu, a, b => decide (a.toNat < b.toNat)
  | .leu, a, b => decide (a.toNat ≤ b.toNat)
  | .tst, a, b => a &&& b != 0
  | .tstz, a, b => a &&& b == 0

/-- Condition codes of FCMP (R108). -/
inductive FCond | feq | fne | flt | fle | fgt | fge | fun_ | ford
deriving DecidableEq, Repr

/-- A comparison of two f32 values; the two zeros are equal (R108). -/
def FCond.holds (k : FCond) (a b : FVal) : Bool :=
  let nan := a.isNan || b.isNan
  match k with
  | .feq => !nan && a.eq b
  | .fne => nan || !a.eq b
  | .flt => !nan && a.lt b
  | .fle => !nan && !b.lt a
  | .fgt => !nan && b.lt a
  | .fge => !nan && !a.lt b
  | .fun_ => nan
  | .ford => !nan

/-- The predicate written from a condition under NG and AC (R106). -/
def predResult (ng ac cond prior : Bool) : Bool :=
  let v := cond != ng
  if ac then prior && v else v

/-- iaddc: sum and carry out (R100). -/
def addCarry (a b : Word) (k : Bool) : Word × Bool :=
  let x := a.toNat + b.toNat + bit k
  (BitVec.ofNat 32 x, decide (2 ^ 32 ≤ x))

/-- isubb: difference and borrow out (R100). -/
def subBorrow (a b : Word) (k : Bool) : Word × Bool :=
  (a - b - BitVec.ofNat 32 (bit k), decide (a.toNat < b.toNat + bit k))

end Sys2Proof.Machine
end

