-- ==== Sys2Proof/Machine/Mem.lean ====
section
/-! DEFINITION. The memories: canonical byte lists, physical ranges and worlds (R302, R311), the heddle and the L1 copies
(R190 to R199), L2 residency (R310), translation (R312 to R320). -/
namespace Sys2Proof.Machine

/-! ### Byte lists -/

/-- The canonical form of a memory: addresses strictly rising, no entry equal to what an unlisted address reads as. -/
def Memory.wf : List Host.Cell → Bool
  | [] => true
  | (a, b) :: t => b != 0 && t.all (fun c => decide (a < c.1)) && Memory.wf t

/-- What an address reads as: an unlisted one reads zero (assumption 3). -/
def Memory.get : List Host.Cell → Nat → Byte
  | [], _ => 0
  | (k, v) :: t, a => if a = k then v else Memory.get t a

/-- Writing one byte, in canonical form. -/
def Memory.set : List Host.Cell → Nat → Byte → List Host.Cell
  | [], a, b => if b = 0 then [] else [(a, b)]
  | (k, v) :: t, a, b =>
    if a < k then (if b = 0 then (k, v) :: t else (a, b) :: (k, v) :: t)
    else if a = k then (if b = 0 then t else (a, b) :: t)
    else (k, v) :: Memory.set t a b

/-- `n` bytes from an address. -/
def Memory.read (m : List Host.Cell) (a : Nat) : Nat → List Byte
  | 0 => []
  | n + 1 => Memory.get m a :: Memory.read m (a + 1) n

/-- A byte string at an address. -/
def Memory.write (m : List Host.Cell) (a : Nat) : List Byte → List Host.Cell
  | [] => m
  | b :: bs => Memory.write (Memory.set m a b) (a + 1) bs

/-- The number that bytes hold, the least significant first (R4). -/
def leNat : List Byte → Nat
  | [] => 0
  | b :: bs => b.toNat + 256 * leNat bs

/-- A little-endian field of a byte string. -/
def bytesAt (bs : List Byte) (off n : Nat) : Nat := leNat ((bs.drop off).take n)

/-- The byte string with `xs` at `off`. -/
def putBytes (bs : List Byte) (off : Nat) (xs : List Byte) : List Byte :=
  bs.take off ++ xs ++ bs.drop (off + xs.length)

/-- Bits hi to lo of a number. -/
def bits (x hi lo : Nat) : Nat := x / 2 ^ lo % 2 ^ (hi + 1 - lo)

def bitAt (x i : Nat) : Bool := x / 2 ^ i % 2 == 1

/-! ### Physical ranges and worlds (R302, R311) -/

def inMain (pa : Nat) : Bool := decide (pa < 0x2000000000)

def hostFirst : Nat := 0xE0000000000

def inHost (pa : Nat) : Bool := decide (hostFirst ≤ pa ∧ pa < 0xF0000000000)

def screedFirst : Nat := 0xF0000000000

def inScreed (pa : Nat) : Bool := decide (screedFirst ≤ pa ∧ pa < 0xF0008000000)

/-- The logical screed bank of an address in the window (R225). -/
def bankOf (pa : Nat) : Nat := (pa - screedFirst) / 0x40000

def Partition.ownsBank (p : Partition) (n : Nat) : Bool :=
  p.en && decide (p.bfirst.toNat ≤ n ∧ n < p.bfirst.toNat + p.bcnt.toNat)

/-- A page number lies in an enabled secure region (R344). -/
def Region.holds (r : Region) (page : Nat) : Bool := r.en && decide (r.base ≤ page ∧ page ≤ r.limit)

/-- The world of a physical address (R302). -/
def secureAt (s : State) (pa : Nat) : Bool :=
  if inScreed pa then s.parts.toList.any fun p => p.ownsBank (bankOf pa) && p.world
  else (inMain pa || inHost pa) && s.cfg.regions.any fun r => r.holds (pa / 4096)

/-! ### Requesters -/

/-- Who makes a request: the core whose L1 it concerns, if any, the tenant it is made for, if any. -/
structure Req where
  core : Option Nat
  ten  : Option (Fin 8 × Fin 9)
deriving DecidableEq, Repr

/-- Cluster and local index of a core id (R10). -/
def clusterOf (core : Nat) : Nat := core / 8

def part (s : State) (p : Fin 8) : Partition := s.parts[p]

def tenant (s : State) (p : Fin 8) (t : Fin 9) : Tenant := (s.parts[p]).tenants[t]

def setPart (s : State) (p : Fin 8) (f : Partition → Partition) : State :=
  { s with parts := s.parts.set p (f s.parts[p]) }

def setTenant (s : State) (p : Fin 8) (t : Fin 9) (f : Tenant → Tenant) : State :=
  setPart s p fun q => { q with tenants := q.tenants.set t (f q.tenants[t]) }

/-! ### The heddle and the L1 copies -/

def lineOf (pa : Nat) : Nat := pa / 128

def wordIn (pa : Nat) : Fin 32 := Fin.ofNat 32 (pa % 128 / 4)

def HLine.clear (line : Nat) : HLine := ⟨line, 0, Vector.replicate 32 .H⟩

/-- The heddle's record of a line; an unlisted line is all H with no sharer. -/
def hGet (s : State) (line : Nat) : HLine := (s.hed.find? (·.line == line)).getD (HLine.clear line)

def hSet (s : State) (h : HLine) : State :=
  let rest := s.hed.filter (·.line != h.line)
  { s with hed := if h = HLine.clear h.line then rest else h :: rest }

def L1Line.clear (core line : Nat) : L1Line := ⟨core, line, Vector.replicate 32 .inv⟩

def l1Get (s : State) (core line : Nat) : L1Line :=
  (s.l1.find? fun l => l.core == core && l.line == line).getD (L1Line.clear core line)

def l1Set (s : State) (l : L1Line) : State :=
  let rest := s.l1.filter fun x => !(x.core == l.core && x.line == l.line)
  { s with l1 := if l = L1Line.clear l.core l.line then rest else l :: rest }

def l1SetWord (s : State) (core line : Nat) (i : Fin 32) (x : L1Word) : State :=
  let l := l1Get s core line
  l1Set s { l with w := l.w.set i x }

def hSetWord (s : State) (line : Nat) (i : Fin 32) (x : WState) : State :=
  let h := hGet s line
  hSet s { h with w := h.w.set i x }

/-- The word at home. -/
def homeWord (s : State) (line : Nat) (i : Fin 32) : Word :=
  BitVec.ofNat 32 (leNat (Memory.read s.mem (line * 128 + i.val * 4) 4))

def setHomeWord (s : State) (line : Nat) (i : Fin 32) (x : Word) : State :=
  { s with mem := Memory.write s.mem (line * 128 + i.val * 4) (leBytes 4 x.toNat) }

/-- The word of a core that owns a word: at home its data slot holds the owner's core id in [7:0] (R195). -/
def setOwnerSlot (s : State) (line : Nat) (i : Fin 32) (core : Nat) : State := setHomeWord s line i (BitVec.ofNat 32 (core % 256))

def L1Word.value : L1Word → Option Word
  | .inv => none
  | .si x => some x
  | .wi x => some x
  | .own x => some x

/-- The value a core's L1 holds for a word, or the home's. -/
def ownerWord (s : State) (core line : Nat) (i : Fin 32) : Word :=
  ((l1Get s core line).w[i]).value.getD (homeWord s line i)

/-- The latest value of a word (R190, R195). -/
def latest (s : State) (line : Nat) (i : Fin 32) : Word :=
  match (hGet s line).w[i] with
  | .O x => ownerWord s x line i
  | _ => homeWord s line i

/-- Invalidate (R196): every wi copy of the line in the sharers' clusters goes, the vector clears, S words become H. -/
def hInvalidate (s : State) (line : Nat) : State :=
  let h := hGet s line
  let drop (l : L1Line) : L1Line :=
    if l.line = line && h.sharers.getLsbD (clusterOf l.core) then
      { l with w := l.w.map fun x => match x with
          | .wi _ => .inv
          | y => y }
    else l
  let s1 := { s with l1 := (s.l1.map drop).filter fun l => l.w.toList.any (· != .inv) }
  hSet s1 { h with sharers := 0, w := h.w.map fun x => match x with
    | .S => .H
    | y => y }

/-- Revoke x (R196): the owner writes the word back and drops it; `st` is the state the word takes. -/
def hRevoke (s : State) (line : Nat) (i : Fin 32) (st : WState) : State :=
  match (hGet s line).w[i] with
  | .O x =>
    let v := ownerWord s x line i
    hSetWord (l1SetWord (setHomeWord s line i v) x line i .inv) line i st
  | _ => s

/-- The state of a word that is written back by eviction or cflush (R198). -/
def backState (s : State) (line : Nat) : WState := if (hGet s line).sharers = 0 then .H else .S

/-! ### L2 residency (R310) -/

def l2Find (s : State) (line : Nat) : Option L2Line := s.l2.find? (·.line == line)

/-- The line holds an O word, so it is passed over at replacement (R198). -/
def hasOwner (s : State) (line : Nat) : Bool :=
  (hGet s line).w.toList.any fun x => match x with
    | .O _ => true
    | _ => false

/-- The least recently used of a list of lines. -/
def oldest (ls : List L2Line) : Option L2Line :=
  ls.foldl (fun b l => match b with
    | none => some l
    | some x => if l.used < x.used then some l else some x) none

/-- Every owned word of a line is revoked. -/
def revokeLine (s : State) (line : Nat) : State :=
  (List.finRange 32).foldl (fun s i => hRevoke s line i (backState s line)) s

/-- OCC of a tenant (R305, R310). -/
def occOf (s : State) (t : Fin 8 × Fin 9) : Nat := (s.l2.filter (·.tenant == some t)).length

/-- The ways a tenant's fill of a line may use (R310). -/
def fillWays (s : State) (t : Fin 8 × Fin 9) (line : Nat) : List Nat :=
  let sec := secureAt s (line * 128)
  (List.range 16).filter fun w =>
    (tenant s t.1 t.2).tways.getLsbD w && s.cfg.wgworld.getLsbD (w / 4) == sec

/-- The home slice of a line (R175). -/
def homeSlice (pa : Nat) : Nat :=
  Nat.xor (bits pa 12 7) (Nat.xor (bits pa 18 13) (Nat.xor (bits pa 24 19) (Nat.xor (bits pa 30 25)
    (Nat.xor (bits pa 36 31) (Nat.xor (bits pa 42 37) (bits pa 43 43))))))

/-- The sets of a slice: 64 MiB of L2 in 64 slices of 16 ways of 128-byte lines (R1, R13). -/
def setsPerSlice : Nat := 512

/-- Two lines share an L2 set: the same slice and the same set of it (R310, assumption 5). -/
def sameSet (a b : Nat) : Bool :=
  homeSlice (a * 128) == homeSlice (b * 128) && Config.l2set a % setsPerSlice == Config.l2set b % setsPerSlice

/-- A request at a home: a hit, or a fill charged to the tenant (R310). A requester with no tenant fills nothing, and only lines of main
memory are held in L2 (R13). DESIGN CHOICE (assumption 53): the manual keeps the heddle in the L2 tag (R195) and does not say what becomes of a
replaced line's sharer vector and S words; the model's heddle record stays. -/
def l2Touch (s : State) (q : Req) (line : Nat) : State :=
  match (if inMain (line * 128) then q.ten else none) with
  | none => s
  | some t =>
    let stamp := s.fresh
    let s := { s with fresh := s.fresh + 1 }
    match l2Find s line with
    | some l =>
      let s := { s with l2 := s.l2.map fun x => if x.line = line then { x with used := stamp } else x }
      if l.tenant = some t || l.tenant.isNone then s else setTenant s t.1 t.2 fun x => { x with hitx := x.hitx + 1 }
    | none =>
      let ways := fillWays s t line
      let inSet := s.l2.filter fun l => sameSet l.line line && ways.contains l.way
      let new (w : Nat) : L2Line := ⟨line, w, some t, secureAt s (line * 128), stamp⟩
      match ways.find? fun w => !(inSet.any (·.way == w)) with
      | some w =>
        let lim := (tenant s t.1 t.2).occlim.toNat
        let mine := inSet.filter fun l => l.tenant == some t && !hasOwner s l.line
        if lim ≠ 0 ∧ lim ≤ occOf s t then
          match oldest mine with
          | some v => { s with l2 := new v.way :: s.l2.filter (·.line != v.line) }
          | none => { s with l2 := new w :: s.l2 }
        else { s with l2 := new w :: s.l2 }
      | none =>
        let free := inSet.filter fun l => !hasOwner s l.line
        let lim := (tenant s t.1 t.2).occlim.toNat
        let mine := free.filter (·.tenant == some t)
        let cand := if lim ≠ 0 && decide (lim ≤ occOf s t) && !mine.isEmpty then mine else free
        match oldest cand with
        | some v => { s with l2 := new v.way :: s.l2.filter (·.line != v.line) }
        | none => match oldest inSet with
          | some v => { revokeLine s v.line with l2 := new v.way :: s.l2.filter (·.line != v.line) }
          | none => s

/-! ### Requests at the home (R197, R198) -/

/-- Load own, store own and atomic own: the requester takes ownership of a word, and its slot at home its core id (R195). -/
def takeOwn (s : State) (q line : Nat) (i : Fin 32) : State :=
  match (hGet s line).w[i] with
  | .O x =>
    if x = q then s
    else
      let v := ownerWord s x line i
      setOwnerSlot (hSetWord (l1SetWord (l1SetWord s x line i .inv) q line i (.own v)) line i (.O q)) line i q
  | .S =>
    let s := hInvalidate s line
    setOwnerSlot (hSetWord (l1SetWord s q line i (.own (homeWord s line i))) line i (.O q)) line i q
  | .H => setOwnerSlot (hSetWord (l1SetWord s q line i (.own (homeWord s line i))) line i (.O q)) line i q

/-- A copy of the word in the requester's own L1 takes a new value (R190, R220). -/
def updateCopy (s : State) (q : Option Nat) (line : Nat) (i : Fin 32) (v : Word) : State :=
  match q with
  | none => s
  | some c =>
    match (l1Get s c line).w[i] with
    | .si _ => l1SetWord s c line i (.si v)
    | .wi _ => l1SetWord s c line i (.wi v)
    | _ => s

/-- Store wt of one word: other copies go, ownership is revoked, the home takes the value and the word is H. -/
def writeHome (s : State) (q : Option Nat) (line : Nat) (i : Fin 32) (v : Word) : State :=
  let s := match (hGet s line).w[i] with
    | .S => hInvalidate s line
    | .O _ => hRevoke s line i .H
    | .H => s
  updateCopy (setHomeWord s line i v) q line i v

/-- Store fwd of one word: applied at the owner, or at home. -/
def writeFwd (s : State) (q : Option Nat) (line : Nat) (i : Fin 32) (v : Word) : State :=
  match (hGet s line).w[i] with
  | .O x => updateCopy (l1SetWord s x line i (.own v)) q line i v
  | _ => writeHome s q line i v

/-- One word written under a store policy (R192); a requester without an L1 writes through. -/
def writeWord (s : State) (q : Option Nat) (pol : Nat) (line : Nat) (i : Fin 32) (v : Word) : State :=
  match q, pol with
  | some c, 0 => l1SetWord (takeOwn s c line i) c line i (.own v)
  | some c, 2 => l1SetWord (writeHome s q line i v) c line i (.si v)
  | _, 3 => writeFwd s q line i v
  | _, _ => writeHome s q line i v

/-- The words of a line that bytes [pa, pa + n) touch; an access never leaves its line. -/
def wordsOf (pa n : Nat) : List (Fin 32) :=
  (List.finRange 32).filter fun i =>
    decide (pa % 128 < i.val * 4 + 4 ∧ i.val * 4 < pa % 128 + n)

/-- A word with the bytes of an access merged in: byte k of the word lies at pa + k. -/
def mergeWord (old : Word) (wordPa pa : Nat) (bs : List Byte) : Word :=
  BitVec.ofNat 32 (leNat ((List.range 4).map fun k =>
    if pa ≤ wordPa + k then (bs[wordPa + k - pa]?).getD (old.extractLsb' (8 * k) 8) else old.extractLsb' (8 * k) 8))

/-- Every owned word of one L1 line is written back and dropped (R198). -/
def flushLine (s : State) (core line : Nat) : State :=
  (List.finRange 32).foldl (fun s i =>
    match (l1Get s core line).w[i] with
    | .own _ => hRevoke s line i (backState s line)
    | _ => s) s

/-- A line leaves a core's L1: its owned words are written back, its copies dropped (R190, R198). -/
def evictLine (s : State) (core line : Nat) : State :=
  let s1 := flushLine s core line
  { s1 with l1 := s1.l1.filter fun l => !(l.core == core && l.line == line) }

/-- The lines of an L1: 128 KiB of 128-byte lines (R13). -/
def l1Lines : Nat := 1024

/-- A line that is to enter a full L1 takes the place of another, which the manual does not name (R13, R190, assumption 5). -/
def l1Room (s : State) (core line : Nat) : State :=
  let mine := s.l1.filter (·.core == core)
  if mine.any (·.line == line) || decide (mine.length < l1Lines) then s
  else match mine[Config.l1Victim s.fresh % mine.length]? with
    | some v => evictLine { s with fresh := s.fresh + 1 } core v.line
    | none => s

/-- A core owns every word of an access, so that an own or a fwd access of it asks nothing of the home (R198). -/
def ownsAll (s : State) (core line : Nat) (want : List (Fin 32)) : Bool := want.all fun i => (hGet s line).w[i] == .O core

/-- A store or an atomic of a core reaches the home, unless the core owns its words and the policy leaves them there (R198). An agent with no L1
writes byte by byte, and asks the home once for each line of its request (l2Touches). -/
def homeTouch (s : State) (q : Req) (pol line : Nat) (want : List (Fin 32)) : State :=
  match q.core with
  | some c => if (pol = 0 ∨ pol = 3) ∧ ownsAll s c line want = true then s else l2Touch s q line
  | none => s

/-- The lines of a request of an agent with no L1, each asked for once (R310). -/
def l2Touches (s : State) (q : Req) (pas : List Nat) : State := ((pas.map lineOf).eraseDups).foldl (fun s l => l2Touch s q l) s

/-- A store of bytes within one line, as one request (R196). -/
def cohStore (s : State) (q : Req) (pol pa : Nat) (bs : List Byte) : State :=
  let line := lineOf pa
  let s := homeTouch s q pol line (wordsOf pa bs.length)
  let s := match q.core with
    | some c => if pol = 0 || pol = 2 then l1Room s c line else s
    | none => s
  (wordsOf pa bs.length).foldl (fun s i =>
    writeWord s q.core pol line i (mergeWord (latest s line i) (line * 128 + i.val * 4) pa bs)) s

/-- The latest bytes of main memory, wherever their words are kept. -/
def cohRead (s : State) (pa : Nat) : Nat → List Byte
  | 0 => []
  | n + 1 => (latest s (lineOf pa) (wordIn pa)).extractLsb' (8 * (pa % 4)) 8 :: cohRead s (pa + 1) n

/-- A line fill for an si load (R197): each word no other core owns becomes an si copy; the requested words too. -/
def fillSi (s : State) (q line : Nat) (want : List (Fin 32)) : State :=
  (List.finRange 32).foldl (fun s i =>
    match (l1Get s q line).w[i] with
    | .own _ => s
    | .wi _ => s
    | _ =>
      match (hGet s line).w[i] with
      | .O _ => l1SetWord s q line i (if want.contains i then .si (latest s line i) else .inv)
      | _ => l1SetWord s q line i (.si (homeWord s line i))) s

/-- A line fill for a wi load (R197): words that other cores own are left invalid in q's L1, but for the words requested. -/
def fillWi (s : State) (q line : Nat) (want : List (Fin 32)) : State :=
  let s := want.foldl (fun s i =>
    match (hGet s line).w[i] with
    | .O x => if x = q then s else hRevoke s line i .H
    | _ => s) s
  let s := (List.finRange 32).foldl (fun s i =>
    match (hGet s line).w[i] with
    | .O x => if x = q then s else l1SetWord s q line i .inv
    | _ => hSetWord (l1SetWord s q line i (.wi (homeWord s line i))) line i .S) s
  let h := hGet s line
  hSet s { h with sharers := h.sharers ||| (BitVec.ofNat 32 (2 ^ clusterOf q)) }

/-- A load hits in L1 (R191, R198): owned words under every policy; copies under si; wi copies under wi. -/
def loadHits (s : State) (q line : Nat) (pol : Nat) (want : List (Fin 32)) : Bool :=
  want.all fun i =>
    match (l1Get s q line).w[i] with
    | .own _ => true
    | .wi _ => pol == 2 || pol == 3
    | .si _ => pol == 2
    | .inv => false

/-- The heddle movement of a load of words of one line under a policy (R197, R198). -/
def moveLoad (s : State) (q : Req) (pol line : Nat) (want : List (Fin 32)) : State :=
  match q.core with
  | none => l2Touch s q line
  | some c =>
    if loadHits s c line pol want then s
    else
      let s := l2Touch s q line
      match pol with
      | 0 => want.foldl (fun s i => takeOwn s c line i) (l1Room s c line)
      | 1 => s
      | 2 => fillSi (l1Room s c line) c line want
      | _ => fillWi (l1Room s c line) c line want

/-- The value a load binds for a word: the core's copy where the policy may use one, else the latest. -/
def boundWord (s : State) (q : Req) (pol line : Nat) (i : Fin 32) : Word :=
  match q.core, pol with
  | some c, 2 => ((l1Get s c line).w[i]).value.getD (latest s line i)
  | _, _ => latest s line i

/-- The bytes of an access from the words that it binds. -/
def boundBytes (s : State) (q : Req) (pol pa : Nat) : Nat → List Byte
  | 0 => []
  | n + 1 => (boundWord s q pol (lineOf pa) (wordIn pa)).extractLsb' (8 * (pa % 4)) 8 :: boundBytes s q pol (pa + 1) n

/-- A load of bytes within one line (R191, R197, R198). -/
def cohLoad (s : State) (q : Req) (pol pa n : Nat) : State × List Byte :=
  let s := moveLoad s q pol (lineOf pa) (wordsOf pa n)
  (s, boundBytes s q pol pa n)

/-- An acquire at cluster scope or wider drops every si copy of a core (R194); cinv does the same (R230). -/
def dropSi (s : State) (core : Nat) : State :=
  { s with l1 := (s.l1.map fun l => if l.core = core then
      { l with w := l.w.map fun x => match x with
          | .si _ => .inv
          | y => y } else l).filter fun l => l.w.toList.any (· != .inv) }

/-- No later access of a core takes a value read before: its si copies go, and the values taken early for its loads (R181, R194). -/
def acquireAt (s : State) (core : Nat) : State := dropSi { s with early := s.early.filter fun e => e.core != core } core

/-- A core accesses a 16-byte block: a value taken early for a load of it is not used after that (R181). -/
def dropEarly (s : State) (core pa : Nat) : State := { s with early := s.early.filter fun e => !(e.core == core && e.block == pa / 16) }

/-- An si copy of one word is loaded again from its home (R189, R194). -/
def refreshSi (s : State) (q : Req) (pa : Nat) : State :=
  match q.core with
  | none => s
  | some c => match (l1Get s c (lineOf pa)).w[wordIn pa] with
    | .si _ => l1SetWord (l2Touch s q (lineOf pa)) c (lineOf pa) (wordIn pa) (.si (latest s (lineOf pa) (wordIn pa)))
    | _ => s

/-- cflush: every owned word of the core's L1 (R230). -/
def flushCore (s : State) (core : Nat) : State :=
  ((s.l1.filter (·.core == core)).map (·.line)).foldl (fun s l => flushLine s core l) s

/-! ### Access by physical address from agents without an L1 (R199) -/

/-- Bytes at a physical address of main memory or screed; each byte is read alone. -/
def devRead (s : State) (pa n : Nat) : List Byte :=
  if inScreed pa then Memory.read s.mem pa n else cohRead s pa n

/-- Byte k of a string lies in line `line`: the string cut at line boundaries. -/
def cutLines (pa : Nat) (bs : List Byte) : Nat → List (Nat × List Byte)
  | 0 => []
  | fuel + 1 =>
    if bs.isEmpty then []
    else
      let n := 128 - pa % 128
      (pa, bs.take n) :: cutLines (pa + n) (bs.drop n) fuel

/-- A write through to main memory or screed. -/
def devWrite (s : State) (q : Req) (pa : Nat) (bs : List Byte) : State :=
  if inScreed pa then { s with mem := Memory.write s.mem pa bs }
  else (cutLines pa bs (bs.length / 128 + 2)).foldl (fun s x => cohStore s { q with core := none } 1 x.1 x.2) s

/-! ### Translation (R312 to R320) -/

/-- A leaf entry as it is used. -/
structure Xl where
  base  : Nat
  size  : Nat
  frame : Nat
  ns    : Bool
  w     : Bool
  pr    : Bool
deriving DecidableEq, Repr

inductive WalkRes | ok (x : Xl) | bad | world
deriving DecidableEq, Repr

/-- Index field and entry count of each level (R312). -/
def walkLevels : List (Nat × Nat) := [(39, 1024), (30, 512), (21, 512), (12, 512)]

/-- An entry as a leaf of the level whose index field begins at `lo` (R312, R313). -/
def leafOf (e va lo : Nat) : Option Xl :=
  let frame := bits e 43 12 * 4096
  let c := bitAt e 5
  let size := if lo = 12 && c then 0x10000 else 2 ^ lo
  if lo = 39 || (c && lo != 12) || frame % size != 0 then none
  else some ⟨va / size * size, size, frame, bitAt e 6, bitAt e 3, bitAt e 2⟩

/-- A walk from a table downward, on the levels still to read; each entry that is read lies in main memory and in the context's world (R303,
R312). -/
def walkFrom (s : State) (q : Req) (sec : Bool) (va : Nat) : List (Nat × Nat) → Nat → State × WalkRes
  | [], _ => (s, .bad)
  | (lo, n) :: rest, table =>
    let pa := table + va / 2 ^ lo % n * 8
    if !inMain pa then (s, .bad)
    else if secureAt s pa != sec then (s, .world)
    else
      let s1 := l2Touch s { q with core := none } (lineOf pa)
      let e := leNat (cohRead s1 pa 8)
      if !bitAt e 0 || bits e 63 44 != 0 || bits e 11 7 != 0 || bitAt e 4 then (s1, .bad)
      else if bitAt e 1 then
        match leafOf e va lo with
        | some x => (s1, .ok x)
        | none => (s1, .bad)
      else if bits e 6 2 != 0 then (s1, .bad)
      else walkFrom s1 q sec va rest (bits e 43 12 * 4096)

/-- A walk of a tenant's context (R312). -/
def walk (s : State) (p : Fin 8) (t : Fin 9) (va : Nat) : State × WalkRes :=
  let root := (tenant s p t).ttbr.toNat
  walkFrom s ⟨none, some (p, t)⟩ (part s p).world va walkLevels root

def TlbEnt.covers (e : TlbEnt) (o : TlbOwner) (p : Fin 8) (t : Fin 9) (va : Nat) : Bool :=
  e.owner == o && e.part == p && e.ten == t && decide (e.base ≤ va ∧ va < e.base + e.size)

def TlbEnt.xl (e : TlbEnt) : Xl := ⟨e.base, e.size, e.frame, e.ns, e.w, e.pr⟩

def tlbFind (s : State) (o : TlbOwner) (p : Fin 8) (t : Fin 9) (va : Nat) : Option Xl :=
  (s.tlb.find? fun e => e.covers o p t va).map TlbEnt.xl

/-- A translation enters a cache; the oldest entry leaves a full one (R315). -/
def tlbPut (s : State) (o : TlbOwner) (cap : Nat) (p : Fin 8) (t : Fin 9) (x : Xl) : State :=
  let e : TlbEnt := ⟨o, p, t, x.base, x.size, x.frame, x.ns, x.w, x.pr⟩
  let keep := s.tlb.filter fun y => !(y.owner == o && y.part == p && y.ten == t && y.base == x.base && y.size == x.size)
  let mine := keep.filter (·.owner == o)
  let cut := if cap ≤ mine.length then
      (match mine.getLast? with
        | some l => keep.filter (· != l)
        | none => keep)
    else keep
  { s with tlb := e :: cut }

/-- The cached translation that an access of a core would use at once (R315). -/
def tlbHit (s : State) (core : Nat) (p : Fin 8) (t : Fin 9) (va : Nat) : Option Xl :=
  match tlbFind s (.core core) p t va with
  | some x => some x
  | none => tlbFind s (.cluster (clusterOf core)) p t va

/-- A walk of an entry of a 64 KiB group is the device's last of that group: every cache that holds the group holds it as this one (R314). -/
def agree64 (s : State) (p : Fin 8) (t : Fin 9) (x : Xl) : State :=
  if x.size = 0x10000 then
    { s with tlb := s.tlb.map fun e => if e.part = p ∧ e.ten = t ∧ e.base = x.base ∧ e.size = x.size then
        { e with frame := x.frame, ns := x.ns, w := x.w, pr := x.pr } else e }
  else s

/-- The translation of a page for a core, walking on a miss; a valid result is cached (R315). -/
def lookup (s : State) (core : Nat) (p : Fin 8) (t : Fin 9) (va : Nat) : State × WalkRes :=
  match tlbHit s core p t va with
  | some x => (tlbPut s (.core core) 64 p t x, .ok x)
  | none =>
    match walk s p t va with
    | (s1, .ok x) => (tlbPut (tlbPut (agree64 s1 p t x) (.cluster (clusterOf core)) 2048 p t x) (.core core) 64 p t x, .ok x)
    | r => r

/-- A translation that some cluster's shared cache holds for a tenant. -/
def anyTlb (s : State) (p : Fin 8) (t : Fin 9) (va : Nat) : Option Xl :=
  (s.tlb.find? fun e => match e.owner with
    | .cluster n => e.covers (.cluster n) p t va
    | .core _ => false).map TlbEnt.xl

/-- The translation of a page for the host's aperture, RESIDE and the queues: from a cluster's shared cache, or by a walk (R319). DESIGN CHOICE
(assumption 36): the manual does not say whose cache such a walk fills; it fills none, as if the entry had been replaced at once. -/
def lookupDev (s : State) (p : Fin 8) (t : Fin 9) (va : Nat) : State × WalkRes :=
  match anyTlb s p t va with
  | some x => (s, .ok x)
  | none => walk s p t va

/-- The kinds of access that a page permits differently (R313). -/
inductive Access | load | store | atomic
deriving DecidableEq, Repr

/-- Why an access to a translated page fails (R212, R303, R313). -/
inductive XlFail | trans | world | prot
deriving DecidableEq, Repr

def Xl.pa (x : Xl) (va : Nat) : Nat := x.frame + (va - x.base)

def Xl.permits (x : Xl) : Access → Bool
  | .load => x.pr
  | .store => x.w
  | .atomic => x.pr && x.w

/-- A physical address that something backs (R311). -/
def backed (pa : Nat) : Bool := inMain pa || inHost pa || inScreed pa

/-- The world check of R303 for a unit of a world; an address that nothing backs has no world to agree with (R302, R311). -/
def worldOk (s : State) (sec : Bool) (x : Xl) (pa : Nat) : Bool := (sec || x.ns) && (!backed pa || x.ns == !secureAt s pa)

/-- Checks 3 to 5 of R212 on a translated address, without the screed rules. -/
def checkXl (s : State) (sec : Bool) (kind : Access) (x : Xl) (va : Nat) : Except XlFail Nat :=
  let pa := x.pa va
  if !worldOk s sec x pa then .error .world
  else if !x.permits kind || !backed pa then .error .prot
  else .ok pa

/-- The PCIe address of an address in the host window (R324). -/
def hostAddr (s : State) (p : Fin 8) (t : Fin 9) (pa : Nat) : Nat := (tenant s p t).hostbase.toNat + (pa - hostFirst)

end Sys2Proof.Machine
end

