-- ==== Sys2Proof/Machine/Ops.lean ====
section
/-! DEFINITION. Named operations over the group at the issue stage: its registers, its instruction bytes, its place in its
workgroup and pipeline, the fault-domain records, and taking an exception and returning from one (R346 to R371). -/
namespace Sys2Proof.Machine

/-! ### The group at the issue stage -/

def State.c (s : State) : Ctx := s.grp.c

def modG (s : State) (f : Group → Group) : State := { s with grp := f s.grp }

def modC (s : State) (f : Ctx → Ctx) : State := { s with grp := { s.grp with c := f s.grp.c } }

def modRun (s : State) (f : Run → Run) : State := modC s fun c => { c with run := f c.run }

/-! ### Lane masks -/

def lanesOf (m : Mask) : List Lane := (List.finRange 32).filter fun i => m.getLsbD i.val

def maskOf (f : Lane → Bool) : Mask := BitVec.ofFnLE f

/-- The lowest lane of a mask, or lane 0 (R103). -/
def lowest (m : Mask) : Lane := (lanesOf m).headD 0

/-- Lanes that are live: neither exited, waiting nor parked (R234). -/
def Ctx.live (c : Ctx) : Mask := ~~~(c.exitM ||| c.waitM ||| c.parkM)

/-- The mask a vector instruction acts on before its guard: the run's active mask, or the fault lane mask in a handler
(R44, R103). -/
def Ctx.actMask (c : Ctx) : Mask := if c.inH then c.frame.mask else c.run.act

/-- The lane in which a scalar instruction reads its guard and its predicates (R41, R100, R353). -/
def Ctx.scalarLane (c : Ctx) : Lane := if c.inH then 0 else lowest c.run.act

/-! ### Predicates (R33) -/

def Ctx.predMask (c : Ctx) (k : Nat) : Mask := if k % 64 = 63 then BitVec.allOnes 32 else c.p[k % 64]'(Nat.mod_lt k (by decide))

def Ctx.pred (c : Ctx) (k : Nat) (l : Lane) : Bool := (c.predMask k).getLsbD l.val

/-- Writing a predicate in the lanes of a mask; p63 ignores writes (R33). -/
def Ctx.setPred (c : Ctx) (k : Nat) (m : Mask) (v : Mask) : Ctx :=
  if k % 64 = 63 then c
  else { c with p := c.p.set (k % 64) ((c.p[k % 64]'(Nat.mod_lt k (by decide)) &&& ~~~m) ||| (v &&& m)) (Nat.mod_lt k (by decide)) }

/-! ### Registers and latches (R31, R32, R49) -/

def isV (code : Nat) : Bool := decide (code < 96)

def isS (code : Nat) : Bool := decide (96 ≤ code ∧ code < 120)

def isT (code : Nat) : Bool := decide (120 ≤ code)

def Ctx.latch (c : Ctx) (code : Nat) : Latch := (c.run.lat[code - 120]?).getD .empty

/-- A latch's value in a lane. -/
def Latch.at (t : Latch) (l : Lane) : DWord :=
  match t with
  | .empty => 0
  | .scalar _ x => x
  | .lanes _ x => x[l]

def Latch.isEmpty : Latch → Bool
  | .empty => true
  | _ => false

def Latch.isLanes : Latch → Bool
  | .lanes _ _ => true
  | _ => false

/-- A 32-bit scalar register; s0 reads zero. -/
def Ctx.sreg (c : Ctx) (k : Nat) : Word := if k = 0 then 0 else (c.s[k]?).getD 0

def Ctx.vreg (c : Ctx) (k : Nat) (l : Lane) : Word :=
  match c.v[k]? with
  | some r => r[l]
  | none => 0

/-- A 32-bit source operand in a lane. -/
def Ctx.rd (c : Ctx) (code : Nat) (l : Lane) : Word :=
  if isV code then c.vreg code l
  else if isS code then c.sreg (code - 96)
  else ((c.latch code).at l).setWidth 32

/-- A 64-bit source operand in a lane: an even/odd pair, or a latch's whole result (R32). DESIGN CHOICE (assumption 30): the spec does
not say what a latch that holds a 32-bit result gives as a 64-bit operand; its upper half is zero. -/
def Ctx.rd64 (c : Ctx) (code : Nat) (l : Lane) : DWord :=
  if isT code then (c.latch code).at l else c.rd (code + 1) l ++ c.rd code l

/-- A vector-kind operand (R34). -/
def Ctx.isVec (c : Ctx) (code : Nat) : Bool := isV code || (isT code && (c.latch code).isLanes)

/-- Writing a vector register in the lanes of a mask. -/
def Ctx.setV (c : Ctx) (k : Nat) (m : Mask) (f : Lane → Word) : Ctx :=
  match c.v[k]? with
  | some r => { c with v := c.v.setIfInBounds k (Vector.ofFn fun l => if m.getLsbD l.val then f l else r[l]) }
  | none => c

/-- Writing a scalar register; s0 ignores writes. -/
def Ctx.setS (c : Ctx) (k : Nat) (x : Word) : Ctx := if k = 0 then c else { c with s := c.s.setIfInBounds k x }

/-- Writing a destination by its R31 code. -/
def Ctx.wr (c : Ctx) (code : Nat) (m : Mask) (f : Lane → Word) : Ctx :=
  if isV code then c.setV code m f else if isS code then c.setS (code - 96) (f 0) else c

/-- Registers code to code + n - 1 become pending, as one result (R48); s0 never is. -/
def Ctx.setPend (c : Ctx) (code n : Nat) : Ctx :=
  { c with pend := c.pend ++ ((List.range n).map fun k => (code, code + k)).filter fun u => u.2 != 96 && !c.pend.contains u }

/-- Some of the registers code to code + n - 1 is pending. -/
def Ctx.isPend (c : Ctx) (code n : Nat) : Bool := (List.range n).any fun k => c.pend.any fun u => u.2 == code + k

/-- A 32-bit latch of a vector result. -/
def latchLanes (f : Lane → Word) : Latch := .lanes false (Vector.ofFn fun l => (f l).setWidth 64)

/-! ### Workgroup, stage, pipeline -/

def wgOf (s : State) (key : Nat) : Option Workgroup := s.wgs.find? (·.key == key)

def curWg (s : State) : Option Workgroup := wgOf s s.grp.wg

def modWg (s : State) (key : Nat) (f : Workgroup → Workgroup) : State :=
  { s with wgs := s.wgs.map fun w => if w.key = key then f w else w }

def pipeOf (s : State) (r : StageRef) : Option Pipeline :=
  s.pipes.find? fun p => p.part == r.part && p.tenant == r.tenant && p.index == r.pipe

def stageOf (s : State) (r : StageRef) : Option Stage := (pipeOf s r).bind fun p => p.stages.find? (·.index == r.stage)

def curPipe (s : State) : Option Pipeline := (curWg s).bind fun w => pipeOf s w.ref

def curStage (s : State) : Option Stage := (curWg s).bind fun w => stageOf s w.ref

/-- The tenant a workgroup belongs to. -/
def Workgroup.ten (w : Workgroup) : Fin 8 × Fin 9 := (w.ref.part, w.ref.tenant)

/-- The integrity level of a workgroup's stage. -/
def ilOf (s : State) (w : Workgroup) : Nat := ((stageOf s w.ref).map (·.il)).getD 0

/-- The integrity level of a stage in force for the group (R20). -/
def curIl (s : State) : Nat := ((curStage s).map (·.il)).getD 0

/-- The group runs in a deterministic partition (R23). -/
def curDet (s : State) : Bool := ((curWg s).map fun w => (part s w.ref.part).det).getD false

/-- The world of the unit the group runs on (R302). -/
def curSec (s : State) : Bool := ((curWg s).map fun w => (part s w.ref.part).world).getD false

/-- The requester that the group's accesses make. -/
def curReq (s : State) : Req := ⟨some s.grp.core, (curWg s).map Workgroup.ten⟩

def allGroups (s : State) : List Group := s.grp :: s.others

def mapGroups (s : State) (f : Group → Group) : State := { s with grp := f s.grp, others := s.others.map f }

def Group.ended (g : Group) : Bool := g.phase == .ended

/-- The groups of a workgroup on one member of a pair. -/
def groupsOf (s : State) (key : Nat) (r : Role) : List Group := (allGroups s).filter fun g => g.wg == key && g.role == r

/-- A fresh key or stamp. -/
def tick (s : State) : State := { s with fresh := s.fresh + 1 }

/-! ### Optional features (R336, R337) -/

/-- The virtual function that owns a partition, if any (R304). -/
def partVf (s : State) (p : Fin 8) : Option (Fin 16) :=
  let f := (part s p).func.toNat
  if h : 1 ≤ f ∧ f ≤ 16 then some ⟨f - 1, by omega⟩ else none

/-- Leaf 1 of qry before the mask: the optional features of the stepping (R337). -/
def featureLeaf (s : State) : Nat := if s.cfg.stepping = 0x41 then 0x7F else 0x7E

/-- A feature is present and not masked for the function that owns a partition. -/
def featureFor (s : State) (p : Fin 8) (k : Nat) : Bool :=
  bitAt (featureLeaf s) k && match partVf s p with
    | none => true
    | some f => ((s.qmask[f])[1]).getLsbD k

/-- A feature for the group at the issue stage. -/
def feature (s : State) (k : Nat) : Bool :=
  match curWg s with
  | none => bitAt (featureLeaf s) k
  | some w => featureFor s w.ref.part k

/-! ### Instruction bytes (R29, R30, R46) -/

/-- The image a class runs: base and size of its code (R308). -/
def Pipeline.image (p : Pipeline) : CoreClass → DWord × Nat
  | .shuttle => (p.sbase, p.ssize)
  | .beam => (p.bbase, p.bsize)

def Stage.entryPc (st : Stage) : CoreClass → Word
  | .shuttle => st.sentry
  | .beam => st.bentry

def otherClass : CoreClass → CoreClass
  | .shuttle => .beam
  | .beam => .shuttle

/-- The physical address of a code byte: PR set, the world check passed, in main memory (R30, R308, R313). -/
def codePa (s : State) (w : Workgroup) (va : Nat) : Option Nat :=
  if 2 ^ 49 ≤ va then none
  else
    match (lookup s s.grp.core w.ref.part w.ref.tenant va).2 with
    | .ok x =>
      match checkXl s (part s w.ref.part).world .load x va with
      | .ok pa => if inMain pa then some pa else none
      | .error _ => none
    | _ => none

/-- The halfword at an offset of the running image; none outside its code (R30). DESIGN CHOICE (assumption 31): R29 says that a PC is even
and gives no check of an entry or pick PC that is odd; the bytes at the odd offset are fetched. -/
def fetchHalf (s : State) (off : Nat) : Option Half :=
  match curWg s with
  | none => none
  | some w =>
    match pipeOf s w.ref with
    | none => none
    | some p =>
      let (base, size) := p.image w.cls
      if off + 2 ≤ size then
        (codePa s w (base.toNat + off)).map fun pa => BitVec.ofNat 16 (leNat (cohRead s pa 2))
      else none

/-- The word at an offset, or the first halfword that lies outside (R30). -/
def fetchCode (s : State) (off : Nat) : Except Nat Code :=
  match fetchHalf s off with
  | none => .error off
  | some h =>
    if h.toNat % 2 = 0 then .ok (.half h)
    else match fetchHalf s (off + 2) with
      | none => .error (off + 2)
      | some g => .ok (.word (g ++ h))

/-- The pattern of a SELV (R46). -/
def isSelvWord (w : Word) : Bool := w.toNat % 128 == 0x7D && !w.getLsbD 31

/-- The word at an offset is a SELV (R45). -/
def selvAt (s : State) (off : Nat) : Bool :=
  match fetchCode s off with
  | .ok (.word w) => isSelvWord w
  | _ => false

/-- A target passes the test of R46 and R268. -/
def runEntry (s : State) (target : Nat) : Bool :=
  decide (target < 2 ^ 32) && target % 2 == 0 && (fetchHalf s target).isSome &&
  ((match curWg s, curStage s with
    | some w, some st => (st.entryPc w.cls).toNat == target
    | _, _ => false) ||
   (decide (4 ≤ target) &&
    (match fetchHalf s (target - 4), fetchHalf s (target - 2) with
      | some lo, some hi => isSelvWord (hi ++ lo)
      | _, _ => false)))

/-- The address of the instruction being issued, its XP's when it has one (R54, R268). -/
def Ctx.npc (c : Ctx) : Word := if c.xpw.isSome then c.run.pc - 4 else c.run.pc

/-! ### RCBs (R239) -/

def rcbLevel (b : List Byte) : Nat := bits (bytesAt b 0 4) 2 0
def rcbPrio (b : List Byte) : Nat := bits (bytesAt b 0 4) 10 8
def rcbIlset (b : List Byte) : Bool := bitAt (bytesAt b 0 4) 14
def rcbIl (b : List Byte) : Nat := bits (bytesAt b 0 4) 13 12
def rcbClset (b : List Byte) : Bool := bitAt (bytesAt b 0 4) 16
def rcbBeam (b : List Byte) : Bool := bitAt (bytesAt b 0 4) 15
def rcbBudset (b : List Byte) : Bool := bitAt (bytesAt b 0 4) 17
def rcbLend (b : List Byte) : Bool := bitAt (bytesAt b 0 4) 18
def rcbFdset (b : List Byte) : Bool := bitAt (bytesAt b 0 4) 19
def rcbIndex (b : List Byte) : Nat := bytesAt b 4 4
def rcbParent (b : List Byte) : Nat := bytesAt b 8 8
def rcbRefill (b : List Byte) : Nat := bytesAt b 0x10 4
def rcbSlice (b : List Byte) : Nat := bytesAt b 0x14 4
def rcbFdom (b : List Byte) : Nat := bytesAt b 0x18 4
def rcbVlim (b : List Byte) : Nat := bytesAt b 0x1C 2
def rcbDesc (b : List Byte) : Nat := bytesAt b 0x20 8
def rcbQbase (b : List Byte) : Nat := bytesAt b 0x28 8
def rcbQword (b : List Byte) : Nat := bytesAt b 0x30 4

def allZero (b : List Byte) (off n : Nat) : Bool := ((b.drop off).take n).all (· == 0)

/-- An RCB as memory holds it. -/
def readRcb (s : State) (a : Nat) : List Byte := devRead s a 256

/-- The address of an RCB: aligned, in main memory (R17, R301). -/
def rcbAt (a : Nat) : Bool := a % 256 == 0 && inMain (a + 255)

/-- The RCB is well-formed for a level (R8, R239, R350). DEDUCED (assumption 44): QBASE, LWM, HWM and QLOG are fields of a stage's RCB, of which
the spec does not say that they are zero elsewhere, as it does of SLICE and DESC; they are checked at a stage only. -/
def rcbGood (b : List Byte) (level : Nat) : Bool :=
  let w := bytesAt b 0 4
  rcbLevel b == level && bits w 31 20 == 0 && !bitAt w 11 && bits w 7 3 == 0 && decide (rcbIl b ≤ 2) && decide (rcbPrio b ≤ 4) &&
  (if level = 1 || level = 2 then rcbSlice b == 0 || decide (10 ≤ rcbSlice b ∧ rcbSlice b ≤ 1000) else rcbSlice b == 0) &&
  (!rcbFdset b || decide (rcbFdom b ≤ 63)) && rcbVlim b % 8 == 0 && decide (rcbVlim b ≤ 96) && allZero b 0x1E 2 &&
  bits (rcbQword b) 31 16 == 0 && bits (rcbQword b) 7 5 == 0 && allZero b 0x34 12 && allZero b 0x50 176 &&
  (if level = 4 then
    let q := rcbQword b
    rcbQbase b % 64 == 0 && decide (rcbQbase b < 2 ^ 49) && decide (bits q 15 12 < bits q 11 8) &&
    decide (1 ≤ bits q 4 0 ∧ bits q 4 0 ≤ 16)
   else rcbDesc b == 0 && (level != 0 || rcbParent b == 0))

/-! ### Fault-domain records (R350, R351) -/

/-- The fields of a record; those that do not apply stay zero. -/
structure Rec where
  type   : Nat
  cause  : Nat
  inner  : Nat := 0
  fatal  : Bool := false
  exited : Bool := false
  atomic : Bool := false
  addr   : Nat := 0
  npc    : Word := 0
  tpc    : Word := 0
  mask   : Mask := 0
  pipe   : Nat := 0
  stage  : Nat := 0
  ten    : Nat := 0
  wgid   : Nat := 0
  group  : Nat := 0
  clus   : Nat := 0
  aux    : Nat := 0
deriving DecidableEq, Repr

/-- The 64 bytes of a record (R350). -/
def Rec.bytes (r : Rec) (time dom : Nat) (seq : Word) : List Byte :=
  leBytes 4 (bit r.atomic * 2 ^ 18 + bit r.exited * 2 ^ 17 + bit r.fatal * 2 ^ 16 + r.type % 256 * 256 + r.cause % 256) ++
  leBytes 4 r.inner ++ leBytes 8 r.addr ++ leBytes 4 r.npc.toNat ++ leBytes 4 r.tpc.toNat ++ leBytes 4 r.mask.toNat ++
  leBytes 4 (r.pipe % 65536 * 65536 + r.stage % 256 * 256 + r.ten % 256) ++ leBytes 6 r.wgid ++ leBytes 1 r.group ++
  leBytes 1 r.clus ++ leBytes 8 time ++ leBytes 8 r.aux ++ leBytes 4 dom ++ leBytes 4 seq.toNat

/-- A record to the ring of a fault domain: written and signalled, or counted as lost (R351). -/
def putRecord (s : State) (dom : Fin 64) (r : Rec) : State :=
  let d := s.domains[dom]
  let set (s : State) (d' : Domain) : State := { s with domains := s.domains.set dom d' }
  if d.en && decide ((d.head - d.tail).toNat < 2 ^ d.rlog) then
    let pa := d.rbase.toNat + 64 * (d.head.toNat % 2 ^ d.rlog)
    let s1 := devWrite s ⟨none, none⟩ pa (r.bytes s.now dom.val d.seq)
    set { s1 with out := s1.out ++ [.msix d.func.toNat d.vec.toNat] } { d with head := d.head + 1, seq := d.seq + 1 }
  else set s { d with lost := if d.lost = BitVec.allOnes 32 then d.lost else d.lost + 1, seq := d.seq + 1 }

/-- The device root RCB, where there is one and it is well-formed: of a malformed one nothing is acted on (R8, R18). -/
def rootRcb (s : State) : Option (List Byte) :=
  let a := s.dev.devroot.toNat
  if a != 0 && rcbAt a && rcbGood (readRcb s a) 0 then some (readRcb s a) else none

/-- The domain of errors that concern no stage: the device root RCB's FDOM (R350). DESIGN CHOICE (assumption 54): without a well-formed root that
sets one it is domain 0. -/
def rootDomain (s : State) : Fin 64 :=
  match rootRcb s with
  | some b => if rcbFdset b then Fin.ofNat 64 (rcbFdom b) else 0
  | none => 0

def stageDomain (s : State) (r : StageRef) : Fin 64 := Fin.ofNat 64 (((stageOf s r).map (·.fdom)).getD 0)

/-- Tenant field of a record, as special register 23 gives it (R54). -/
def tenField (p : Fin 8) (t : Fin 9) : Nat := t.val * 16 + p.val

def wgidField (w : Workgroup) : Nat := w.wgid.1 % 65536 + w.wgid.2.1 % 65536 * 2 ^ 16 + w.wgid.2.2 % 65536 * 2 ^ 32

/-- A record with the identity of a workgroup. -/
def Rec.ofWg (w : Workgroup) (r : Rec) : Rec :=
  { r with pipe := w.ref.pipe, stage := w.ref.stage, ten := tenField w.ref.part w.ref.tenant, wgid := wgidField w,
           clus := clusterOf w.core }

/-- A record that concerns a group of a workgroup, to its stage's domain. -/
def groupRecord (s : State) (wg : Nat) (gid : Fin 16) (r : Rec) : State :=
  match wgOf s wg with
  | none => putRecord s (rootDomain s) r
  | some w => putRecord s (stageDomain s w.ref) { r.ofWg w with group := gid.val }

/-- A record of the group at the issue stage; a checked pair writes each once, from its leading member. -/
def ownRecord (s : State) (r : Rec) : State := if s.grp.role = .trail then s else groupRecord s s.grp.wg s.grp.gid r

/-! ### Barriers of a workgroup (R274) -/

def barsOf (w : Workgroup) : Role → Vector WgBar 16
  | .lead => w.bars
  | .trail => w.barsT

def setBars (w : Workgroup) (r : Role) (b : Vector WgBar 16) : Workgroup :=
  match r with
  | .lead => { w with bars := b }
  | .trail => { w with barsT := b }

/-- Lanes of a context that wait at barrier n. -/
def Ctx.atBar (c : Ctx) (n : Nat) : Mask := maskOf fun l => c.barM.getLsbD l.val && (c.barN[l]).toNat == n

/-- A waiting set of lanes becomes live again. -/
def Ctx.releaseLanes (c : Ctx) (m : Mask) : Ctx :=
  { c with waitM := c.waitM &&& ~~~m, barM := c.barM &&& ~~~m, migM := c.migM &&& ~~~m, arrM := c.arrM &&& ~~~m }

/-- Completion of one barrier: when enough groups have arrived, their lanes go on, with an
acquire of their core, and a new phase begins (R274, R275). -/
def barCheck (s : State) (key : Nat) (r : Role) (n : Fin 16) : State :=
  match wgOf s key with
  | none => s
  | some w =>
    let b := (barsOf w r)[n]
    let alive := ((groupsOf s key r).filter fun g => !g.ended).length
    let need := if b.expected = 0 then alive else min b.expected alive
    if b.opened && decide (need ≤ b.arrived.length) then
      let s1 := mapGroups s fun g =>
        if g.wg = key && g.role == r && b.arrived.contains g.gid then { g with c := g.c.releaseLanes (g.c.atBar n.val) } else g
      modWg (if r = .lead then acquireAt s1 w.core else s1) key fun w => setBars w r ((barsOf w r).set n ⟨false, 0, []⟩)
    else s

/-- Every barrier of a workgroup is evaluated again when a group ends (R274). -/
def barCheckAll (s : State) (key : Nat) (r : Role) : State := (List.finRange 16).foldl (fun s n => barCheck s key r n) s

/-! ### The end of a group -/

/-- Store-fault records of a group that has ended go to its fault domain as type 2 (R364); a pair reports each once. -/
def flushStoreFaults (s : State) (wg : Nat) (gid : Fin 16) (r : Role) : State :=
  let mine := s.sfq.filter fun e => e.wg == wg && e.gid == gid && e.role == r
  let s1 := { s with sfq := s.sfq.filter fun e => !(e.wg == wg && e.gid == gid && e.role == r) }
  if r = .trail then s1
  else mine.foldl (fun s e => groupRecord s wg gid
    { type := 2, cause := e.cause.toNat, exited := true, addr := e.va.toNat, npc := e.npc, tpc := e.twin, mask := e.mask }) s1

/-- The group at the issue stage ends: every lane exited, its records out, its barriers evaluated (R235, R272, R274, R364). -/
def endGroup (s : State) : State :=
  let s1 := modG s fun g =>
    { g with phase := .ended,
             c := { g.c with exitM := BitVec.allOnes 32, waitM := 0, parkM := 0, barM := 0, migM := 0, arrM := 0, run := Run.none, inH := false,
                             frameOn := false, xpw := none, leave := .none, redo := none } }
  barCheckAll (flushStoreFaults s1 s.grp.wg s.grp.gid s.grp.role) s.grp.wg s.grp.role

/-! ### Taking an exception (R346, R347, R349, R352, R354) -/

/-- A fault as it is delivered to a group. -/
structure Flt where
  cause     : BitVec 8
  addr      : DWord
  npc       : Word
  twin      : Word
  mask      : Mask
  after     : Bool := false
  perLane   : Bool := false
  imprecise : Bool := false
  noRun     : Bool := false          -- the frame records no interrupted run
deriving DecidableEq, Repr

/-- The number of the handler record of a pick table (R349). -/
def handlerPick : Nat := 0xFFFFFFFF

/-- The handler record of the group's stage in the running image (R349). -/
def handlerOf (s : State) : Option PickRec :=
  match curWg s, curPipe s with
  | some w, some p => p.picks.find? fun r => r.cls == w.cls && r.n == handlerPick && r.stage == w.ref.stage
  | _, _ => none

/-- A double fault ends the group with a record of type 12 (R354). -/
def doubleFault (s : State) (inner : Nat) (addr : DWord) : State :=
  let f := s.c.frame
  let s1 := ownRecord s
    { type := 12, cause := 0x50, inner := inner, addr := addr.toNat, npc := f.npc, tpc := f.twin, mask := f.mask }
  endGroup s1

/-- Where each lane stands once a fault has stopped the instruction (R352): lanes of the instruction at the native PC, save
those that completed it, which stand at the next instruction. -/
def faultLpc (c : Ctx) (f : Flt) (resume : Word) : Vector Word 32 :=
  if f.noRun then c.lpc
  else
    let all := c.redo.getD c.run.act
    Vector.ofFn fun l =>
      if !all.getLsbD l.val then c.lpc[l]
      else if f.after then resume
      else if !c.run.act.getLsbD l.val then resume
      else if f.perLane && !f.mask.getLsbD l.val then resume
      else f.npc

/-- The trap frame of R358 with the shadow's part of R356. -/
def makeFrame (c : Ctx) (f : Flt) (resume : Word) (lpcs : Vector Word 32) : Frame :=
  { cause := f.cause, after := f.after, perLane := f.perLane, imprecise := f.imprecise,
    resume := if f.noRun then 0 else resume, addr := f.addr, npc := f.npc, twin := f.twin, mask := f.mask,
    s18 := Vector.ofFn fun i => c.sreg (i.val + 1), p07 := Vector.ofFn fun i => c.predMask i.val, part := c.part,
    runNpc := f.npc, lpcs := lpcs }

/-- The run that a fault interrupts, as its shadow keeps it (R358); its program counter is the native PC. -/
def shadowRun (c : Ctx) (f : Flt) : Run :=
  if f.noRun then Run.none else { c.run with pc := f.npc, act := c.redo.getD c.run.act }

/-- The group enters its handler as a new run on its scalar unit (R352); special registers 50 to 52 read zero but for a record (R355). -/
def enterHandler (s : State) (f : Flt) (resume entry : Word) : State :=
  modG s fun g =>
    let lpcs := faultLpc g.c f resume
    { g with phase := .inRun,
             c := { g.c with lpc := lpcs, frame := makeFrame g.c f resume lpcs, frameOn := true, inH := true,
                             shadow := shadowRun g.c f, parkM := if f.perLane then g.c.parkM ||| f.mask else g.c.parkM,
                             run := { Run.none with on := true, pc := entry, act := f.mask }, xpw := none, redo := none,
                             leave := .none, fCause := f.cause, fAddr := f.addr, recD := 0, recS := 0 } }

/-- The default supervisor action (R347): the group ends, with a record of type 1. -/
def defaultAction (s : State) (f : Flt) : State :=
  let s1 := ownRecord s
    { type := 1, cause := f.cause.toNat, addr := f.addr.toNat, npc := f.npc, tpc := f.twin, mask := f.mask }
  endGroup (modC s1 fun c => { c with fCause := f.cause, fAddr := f.addr })

/-- TAKING AN EXCEPTION (R347, R352, R354): in a handler it is a double fault; otherwise the stage's handler in the running
image begins, or the default action ends the group. `resume` is the address of the next instruction. -/
def takeFault (s : State) (f : Flt) (resume : Word) : State :=
  if s.c.inH then doubleFault s f.cause.toNat f.addr
  else match handlerOf s with
    | some r => enterHandler s f resume r.pc
    | none => defaultAction s f

/-- A precise whole-instruction fault of the instruction at issue, which is `size` bytes long. -/
def faultAt (s : State) (size : Nat) (cause : BitVec 8) (mask : Mask) (addr : DWord) : State :=
  takeFault s { cause := cause, addr := addr, npc := s.c.npc, twin := s.c.twin, mask := mask }
    (s.c.run.pc + BitVec.ofNat 32 size)

/-! ### Returning from an exception (R356, R371) -/

/-- Lanes that rett would leave live at an address that is no run entry and not their frame's (R356). -/
def rettBad (s : State) : Bool :=
  (lanesOf s.c.live).any fun l => s.c.lpc[l] != s.c.frame.lpcs[l] && !runEntry s (s.c.lpc[l]).toNat

/-- The registers that rett restores from the frame (R123, R356). -/
def restoreFrame (c : Ctx) : Ctx :=
  let c1 := (List.finRange 8).foldl (fun (c : Ctx) i => c.setS (i.val + 1) c.frame.s18[i]) c
  { (List.finRange 8).foldl (fun (c : Ctx) i => c.setPred i.val (BitVec.allOnes 32) c.frame.p07[i]) c1 with
    part := c.frame.part }

/-- The lanes with which an interrupted run goes on (R356). -/
def resumedLanes (c : Ctx) : Mask :=
  if c.shadow.on then maskOf fun l =>
    c.shadow.act.getLsbD l.val && c.live.getLsbD l.val &&
      (c.lpc[l] == c.frame.runNpc || c.lpc[l] == c.frame.resume)
  else 0

/-- Of them, the lanes for which the faulting instruction issues again. -/
def reissueLanes (c : Ctx) : Mask := maskOf fun l => (resumedLanes c).getLsbD l.val && c.lpc[l] == c.frame.runNpc

/-- An instruction's turn in a run: the latches move by one, it counts in the run and in icount (R43, R49, R54). -/
def Run.shift (r : Run) (t0 : Latch) : Run :=
  { r with pos := r.pos + 1, lat := Vector.ofFn fun i => if i.val = 0 then t0 else (r.lat[i.val - 1]?).getD .empty }

/-- The starvation counts after an instruction issues (R237): zero in the lanes that took part, one more in the live lanes that did not. -/
@[irreducible] def nextStarve (act live : Mask) (starve : Vector Nat 32) : Vector Nat 32 :=
  Vector.ofFn fun l =>
    if act.getLsbD l.val then 0
    else if live.getLsbD l.val then min 4096 (starve[l] + 1)
    else 0

/-- An instruction of the group has been issued: counters of R54 and R237. A handler's instructions count as any others; the active mask
of its run is the fault lane mask (assumption 32). -/
def Ctx.count (c : Ctx) : Ctx := { c with icount := c.icount + 1, starve := nextStarve (c.redo.getD c.run.act) c.live c.starve }

/-- The run after rett: the interrupted one, at the faulting instruction for the lanes that issue it again, or after it. -/
def resumeRun (c : Ctx) : Ctx :=
  let resumed := resumedLanes c
  let again := reissueLanes c
  let back : Ctx := { c with inH := false, sup := false, frameOn := false, run := c.shadow, shadow := Run.none }
  if again ≠ 0 then { back with run := { c.shadow with act := again }, redo := some resumed }
  else
    let r := if c.frame.perLane then c.shadow.shift .empty else c.shadow
    { (if c.frame.perLane then back.count else back) with run := { r with pc := c.frame.resume, act := resumed } }

/-- A store-fault record's fault (R362). -/
def sfFault (e : SfEnt) (npc : Word) (noRun : Bool) : Flt :=
  { cause := e.cause, addr := (if e.highva then (2 : DWord) ^ 49 else 0) ||| e.va.setWidth 64, npc := npc, twin := e.twin,
    mask := e.mask, imprecise := true, noRun := noRun }

/-- The oldest store-fault record of the group at the issue stage. -/
def nextSf (s : State) : Option SfEnt := s.sfq.find? fun e => e.wg == s.grp.wg && e.gid == s.grp.gid && e.role == s.grp.role

/-- One entry leaves the queue. -/
def dropSf (s : State) (e : SfEnt) : State := { s with sfq := s.sfq.erase e }

/-- Special registers 50 to 52 while a record is delivered (R355). -/
def recordShape (e : SfEnt) : Word :=
  BitVec.ofNat 32 (e.bmask.toNat + e.sz * 2 ^ 16 + 2 ^ 19)

def noteRecord (s : State) (e : SfEnt) : State := modC s fun c => { c with recD := e.data, recS := recordShape e }

/-- The end of an instruction that has issued: the program counter passes its word, the latches move, it counts (R43, R49,
R237); a re-issue for some lanes goes on with the run's whole mask (R356). -/
def retire (s : State) (size : Nat) (t0 : Latch) : State :=
  modC s fun c =>
    let c1 := c.count
    { c1 with run := { c.run.shift t0 with pc := c.run.pc + BitVec.ofNat 32 size, act := c.redo.getD c.run.act },
              xpw := none, redo := none, lastNpc := c.npc }

end Sys2Proof.Machine
end

