-- ==== Sys2Proof/Machine/Operands.lean ====
section
/-! DEFINITION. How an instruction issues: its prefix word (R38 to R40), its operand forms and the checks of R50 made before
any lane acts, its guard (R41), and how its result reaches registers, predicates and latches (R37, R41, R48, R49). -/
namespace Sys2Proof.Machine

/-! ### The prefix word (R38 to R40) -/

/-- The payload of an XP as F3, FI, FC, FM, FA, FLM, FP and FSH read it. -/
structure Xp where
  on : Bool
  c  : Nat
  g  : Nat
  e  : Nat
deriving DecidableEq, Repr

/-- The prefix of the instruction at issue; without one there is no third source, no guard and no extension. -/
def Ctx.xp (c : Ctx) : Xp :=
  match c.xpw with
  | none => ⟨false, 127, 127, 0⟩
  | some w => ⟨true, w.toNat % 128, w.toNat / 128 % 128, w.toNat / 16384⟩

/-- The lanes whose guard is true (R39). -/
def Ctx.guard (c : Ctx) : Mask :=
  let g := c.xp.g
  if g = 127 then BitVec.allOnes 32
  else if g / 64 = 1 then ~~~(c.predMask (g % 64)) else c.predMask (g % 64)

/-- The lanes a guarded vector instruction acts in (R41). -/
def Ctx.enabled (c : Ctx) : Mask := c.actMask &&& c.guard

/-- Whether a guarded scalar instruction executes (R41). -/
def Ctx.goes (c : Ctx) : Bool := c.guard.getLsbD c.scalarLane.val

/-- The modifiers of E11 (R40). -/
structure Mods where
  rm   : RMode
  sat  : Bool
  ftz  : Bool
  bs   : Bool
  byte : Nat
deriving DecidableEq, Repr

def modsOf (e : Nat) : Mods :=
  ⟨if bitAt e 4 then rmodeOf (e % 4) else .rn, bitAt e 2, bitAt e 3, bitAt e 5, bits e 7 6⟩

/-- Which modifiers an instruction honours (R94). -/
structure Allow where
  rm  : Bool := false
  sat : Bool := false
  ftz : Bool := false
  bs  : Bool := false

/-- R40: reserved bits are zero, an absent override or byte select carries no value, and only honoured modifiers are set. -/
def modsLegal (e : Nat) (a : Allow) : Bool :=
  bits e 10 8 == 0 && (bitAt e 4 || e % 4 == 0) && (bitAt e 5 || bits e 7 6 == 0) &&
  (!bitAt e 4 || a.rm) && (!bitAt e 2 || a.sat) && (!bitAt e 3 || a.ftz) && (!bitAt e 5 || a.bs)

/-- The immediate of FI: IMM7, or 18 bits with E11 (R40). -/
def Ctx.imm (c : Ctx) (i : BitVec 7) : Int := if c.xp.on then sx 18 (c.xp.e * 128 + i.toNat) else i.toInt

/-! ### Issue checks (R32, R48, R50) -/

/-- What the checks of R50 need to know of an instruction: whether its encoding is illegal, whether it is a control transfer,
whether an operand is illegal beyond the general rules, whether
its own execution finds the value it would write illegal (R124, R355), its register operands with the number of registers each covers,
whether it is a vector instruction, and whether a handler may execute it (R353). -/
structure Issue where
  ill  : Bool := false
  xfer : Bool := false
  bad  : Bool := false
  late : Bool := false
  srcs : List (Nat × Nat) := []
  dsts : List (Nat × Nat) := []
  vec  : Bool := false
  hdl  : Bool := true
  size : Nat := 4

/-- A register operand outside the budgets or wrongly aligned (R32). -/
def regBad (s : State) (code n : Nat) : Bool :=
  (n == 2 && code % 2 == 1) || (n == 4 && (code % 4 != 0 || !isV code)) ||
  (isV code && decide (s.grp.vbud < code + n)) || (isS code && decide (s.grp.sbud < code - 96 + n))

/-- A source operand that cannot be read: an empty latch, or a register out of bounds or misaligned (R32, R49). DESIGN CHOICE (assumption 63): R32 names
v registers for a 16-byte operand and says of no latch that it may be one; a latch, t0 and t4 as well as the others, is an illegal operand there. -/
def srcBad (s : State) (u : Nat × Nat) : Bool :=
  if isT u.1 then u.2 == 4 || (s.c.latch u.1).isEmpty else regBad s u.1 u.2

def dstBad (s : State) (u : Nat × Nat) : Bool := isT u.1 || regBad s u.1 u.2

/-- An instruction whose per-lane fault was handled issues again for the lanes that faulted; its results in the other lanes are
already under way, so that its own destination is pending (R356). -/
def again (s : State) : Bool := s.c.redo.isSome && s.c.frame.perLane

/-- The first fault of R50 items 1 to 4 that an instruction meets, if any, and after them a value it may not write. -/
def Issue.fault (i : Issue) (s : State) : Option (BitVec 8) :=
  if i.ill || (s.c.inH && (i.vec || !i.hdl)) then some 0x01
  else if 24 ≤ s.c.run.pos then some 0x04
  else if i.xfer && !selvAt s (s.c.run.pc.toNat + 4) then some 0x05
  else if i.bad || i.srcs.any (srcBad s) || i.dsts.any (dstBad s) then some 0x02
  else if !again s && (i.srcs ++ i.dsts).any (fun u => !isT u.1 && s.c.isPend u.1 u.2) then some 0x03
  else if i.late then some 0x02
  else none

/-- The fault lane mask of a whole-instruction fault (R346). -/
def wholeMask (s : State) (vec : Bool) : Mask := if vec then s.c.enabled else s.c.actMask

/-- An instruction that passes the checks of R50 has its effect `k`; otherwise its fault is taken before any lane acts, with
the fault lane mask `m`. -/
def issueM (s : State) (i : Issue) (m : Mask) (k : State) : State :=
  match i.fault s with
  | some cause => faultAt s i.size cause m 0
  | none => k

def issue (s : State) (i : Issue) (k : State) : State := issueM s i (wholeMask s i.vec) k

/-! ### Results (R37, R41, R49) -/

/-- A vector instruction ends: D is written in the enabled lanes, t0 takes the result there and D's prior value elsewhere. -/
def finishVec (s : State) (size : Nat) (n : Bool) (d : Nat) (en : Mask) (f : Lane → Word) : State :=
  let c := s.c
  let r : Lanes := Vector.ofFn fun l => if en.getLsbD l.val then f l else if n then 0 else c.vreg d l
  retire (if n then s else modC s fun c => c.setV d en fun l => r[l]) size (latchLanes fun l => r[l])

/-- A scalar instruction ends: when its guard lets it execute, D and t0 take the result. DESIGN CHOICE (assumption 29): where its guard is
false R41 says only that the latches move; t0 takes D's prior value, or zero with N, as in a disabled lane. -/
def finishScal (s : State) (size : Nat) (n : Bool) (d : Nat) (go : Bool) (x : Word) : State :=
  let r := if go then x else if n then 0 else s.c.sreg (d - 96)
  retire (if n || !go then s else modC s fun c => c.setS (d - 96) x) size (.scalar false (r.setWidth 64))

/-- An instruction is a vector instruction unless its destination and every source are scalar (R34); a suppressed D counts
only where there is no source. -/
def kindVec (c : Ctx) (n : Bool) (d : Nat) (srcs : List Nat) : Bool :=
  srcs.any c.isVec || ((!n || srcs.isEmpty) && isV d)

/-- A lane instruction (R93): one 32-bit result from 32-bit sources, in every enabled lane or once on the scalar unit. -/
def laneIns (size : Nat) (ill bad : Bool) (srcs : List Nat) (n : Bool) (d : Nat) (f : Ctx → Lane → Word) (s : State) : State :=
  let c := s.c
  let vec := kindVec c n d srcs
  issue s { ill := ill || (vec && !n && isS d), bad := bad, srcs := srcs.map (·, 1), dsts := if n then [] else [(d, 1)], vec := vec,
            size := size }
    (if vec then finishVec s size n d c.enabled (f c) else finishScal s size n d c.goes (f c c.scalarLane))

/-- F3 with two sources and no third: `op D, A, B`. -/
def ins3 (al : Allow) (f : Mods → Word → Word → Word) (b a : BitVec 7) (n : Bool) (d : BitVec 7) (s : State) : Out :=
  let x := s.c.xp
  .next (laneIns 4 (x.c != 127 || !modsLegal x.e al) false [a.toNat, b.toNat] n d.toNat
    (fun c l => f (modsOf x.e) (c.rd a.toNat l) (c.rd b.toNat l)) s)

/-- F3 with one source: `op D, A`. -/
def ins2 (al : Allow) (f : Mods → Word → Word) (a : BitVec 7) (n : Bool) (d : BitVec 7) (s : State) : Out :=
  let x := s.c.xp
  .next (laneIns 4 (x.c != 127 || !modsLegal x.e al) false [a.toNat] n d.toNat (fun c l => f (modsOf x.e) (c.rd a.toNat l)) s)

/-- F3 whose last operand comes from C when an XP gives one and from the prior value of D otherwise (R95). -/
def insQ (al : Allow) (f : Mods → Word → Word → Word → Word) (b a : BitVec 7) (n : Bool) (d : BitVec 7) (s : State) : Out :=
  let x := s.c.xp
  let q := if x.c = 127 then d.toNat else x.c
  .next (laneIns 4 ((n && x.c == 127) || !modsLegal x.e al) false [a.toNat, b.toNat, q] n d.toNat
    (fun c l => f (modsOf x.e) (c.rd a.toNat l) (c.rd b.toNat l) (c.rd q l)) s)

/-- FI: `op D, A, imm`; a C in its XP is illegal (R39). -/
def insI (nonneg : Bool) (f : Word → Int → Word) (i a : BitVec 7) (n : Bool) (d : BitVec 7) (s : State) : Out :=
  let k := s.c.imm i
  .next (laneIns 4 (s.c.xp.c != 127 || (nonneg && decide (k < 0))) false [a.toNat] n d.toNat (fun c l => f (c.rd a.toNat l) k) s)

/-- The register a B6 field names (R42). -/
def b6 (b : BitVec 6) : Nat := if b.toNat < 48 then b.toNat else if b.toNat < 56 then b.toNat - 48 + 96 else b.toNat - 56 + 120

/-- A 16-bit form: D = D op B; it takes no XP (R38, R42, R121). -/
def ins16 (f : Word → Word → Word) (b : BitVec 6) (d : BitVec 5) (s : State) : Out :=
  .next (laneIns 2 s.c.xpw.isSome false [d.toNat, b6 b] false d.toNat (fun c l => f (c.rd d.toNat l) (c.rd (b6 b) l)) s)

/-! ### Predicate results (R106) -/

/-- An FP-format instruction: PD in every enabled lane, or once into every lane in a handler (R106, R353). DESIGN CHOICE (assumption 33): in a
handler the spec names no lane for the operands of PLOG and for the prior PD of AC; they are read in lane 0. -/
def predIns (ill bad : Bool) (srcs : List Nat) (ng ac : Bool) (pd : BitVec 6) (cond : Ctx → Lane → Bool) (s : State) : State :=
  let c := s.c
  let vecSrc := srcs.any c.isVec
  let v : Lane → Bool := fun l =>
    let l' := if c.inH then 0 else l
    predResult ng ac (cond c l') (c.pred pd.toNat l')
  let en := if c.inH then (if c.goes then BitVec.allOnes 32 else 0) else c.enabled
  issueM s { ill := ill, bad := bad, srcs := srcs.map (·, 1), vec := vecSrc } (wholeMask s true)
    (retire (modC s fun c => c.setPred pd.toNat en (maskOf v)) 4 .empty)

/-! ### Long-latency results (R48) -/

/-- The destination registers become pending and the result is under way; t0 is left empty. `own` marks a result of the core's own units. -/
def finishLate (own : Bool) (s : State) (size reg nregs : Nat) (scalar : Bool) (mask : Mask) (vals : Lane → BitVec 128) (addr : DWord) :
    State :=
  let npc := s.c.npc
  let s1 := modG s fun g =>
    { g with c := g.c.setPend reg nregs,
             arr := g.arr ++ [⟨reg, nregs, scalar, mask, Vector.ofFn vals, npc, addr, false, own⟩] }
  retire s1 size .empty

/-- The result of a memory access. -/
abbrev finishLong := finishLate false

/-- Register k of a long-latency result (R32, R211). -/
def arrivalWord (x : BitVec 128) (k : Nat) : Word := x.extractLsb' (32 * k) 32

/-- A result is written (R48); the register stays pending until a SELV names it. -/
def Ctx.land (c : Ctx) (a : Arrival) : Ctx :=
  let c1 := (List.range a.nregs).foldl (fun (c : Ctx) k =>
    if a.scalar then (if isS (a.reg + k) then c.setS (a.reg + k - 96) (arrivalWord a.vals[0] k) else c)
    else c.setV (a.reg + k) a.mask fun l => arrivalWord a.vals[l] k) c
  if a.bad then { c1 with eccs := c1.eccs ++ [⟨a.reg, a.npc, a.addr⟩] } else c1

/-- The results of the core's own units land: a group switch and a halt wait for them (R96, R128). -/
def Group.landOwn (g : Group) : Group :=
  { g with c := (g.arr.filter (·.own)).foldl Ctx.land g.c, arr := g.arr.filter fun a => !a.own }

/-- The oldest result of a group lands. -/
def Group.landOldest (g : Group) : Group :=
  match g.arr with
  | [] => g
  | a :: rest => { g with c := g.c.land a, arr := rest }

end Sys2Proof.Machine
end

