-- ==== Sys2Proof/Machine/IntArith.lean ====
section
/-! DEFINITION. Integer arithmetic, logic, shifts and unary operations: IALU, IALUI, ILOG, IMISC, IUN (R97 to R101). -/
namespace Sys2Proof.Machine

/-- sat_s to 32 bits (R67). -/
def sat32 (x : Int) : Word := BitVec.ofInt 32 (satS 32 x)

/-- Wrapping or, under .sat, saturating result of an exact signed value (R68). -/
def wrapOrSat (m : Mods) (x : Int) : Word := if m.sat then sat32 x else BitVec.ofInt 32 x

def intSat : Allow := { sat := true }

def noMods : Allow := {}

/-- Shifts by an amount read as n32 (R98). -/
def shlBy (a : Word) (n : Nat) : Word := if 32 ≤ n then 0 else a <<< n

def shrBy (a : Word) (n : Nat) : Word := if 32 ≤ n then 0 else a >>> n

def sarBy (a : Word) (n : Nat) : Word := a.sshiftRight (min n 31)

def rotlBy (a : Word) (n : Nat) : Word := a.rotateLeft (n % 32)

def imin32 (a b : Word) : Word := if a.toInt ≤ b.toInt then a else b

def imax32 (a b : Word) : Word := if a.toInt ≤ b.toInt then b else a

def umin32 (a b : Word) : Word := if a.toNat ≤ b.toNat then a else b

def umax32 (a b : Word) : Word := if a.toNat ≤ b.toNat then b else a

/-- The number of 1 bits. -/
def popc32 (a : Word) : Nat := (List.range 32).foldl (fun n i => n + bit (a.getLsbD i)) 0

/-- Leading and trailing zeros, 32 for 0 (R101). -/
def clz32 (a : Word) : Nat := if a = 0 then 32 else 31 - Nat.log2 a.toNat

def ctz32 (a : Word) : Nat := ((List.range 32).find? fun i => a.getLsbD i).getD 32

def brev32 (a : Word) : Word := maskOf fun i => a.getLsbD (31 - i.val)

def bswap32 (a : Word) : Word := a.extractLsb' 0 8 ++ a.extractLsb' 8 8 ++ a.extractLsb' 16 8 ++ a.extractLsb' 24 8

def execIadd (b a : BitVec 7) (n : Bool) (d : BitVec 7) (s : State) : Out :=
  ins3 intSat (fun m x y => wrapOrSat m (x.toInt + y.toInt)) b a n d s

def execIsub (b a : BitVec 7) (n : Bool) (d : BitVec 7) (s : State) : Out :=
  ins3 intSat (fun m x y => wrapOrSat m (x.toInt - y.toInt)) b a n d s

def execImul (b a : BitVec 7) (n : Bool) (d : BitVec 7) (s : State) : Out :=
  ins3 intSat (fun m x y => wrapOrSat m (x.toInt * y.toInt)) b a n d s

def execImulh (b a : BitVec 7) (n : Bool) (d : BitVec 7) (s : State) : Out :=
  ins3 noMods (fun _ x y => BitVec.ofInt 32 (x.toInt * y.toInt / 2 ^ 32)) b a n d s

def execImulhu (b a : BitVec 7) (n : Bool) (d : BitVec 7) (s : State) : Out :=
  ins3 noMods (fun _ x y => BitVec.ofNat 32 (x.toNat * y.toNat / 2 ^ 32)) b a n d s

def execIadds (b a : BitVec 7) (n : Bool) (d : BitVec 7) (s : State) : Out :=
  ins3 noMods (fun _ x y => sat32 (x.toInt + y.toInt)) b a n d s

def execIsubs (b a : BitVec 7) (n : Bool) (d : BitVec 7) (s : State) : Out :=
  ins3 noMods (fun _ x y => sat32 (x.toInt - y.toInt)) b a n d s

def execIabsd (b a : BitVec 7) (n : Bool) (d : BitVec 7) (s : State) : Out :=
  ins3 noMods (fun _ x y => BitVec.ofNat 32 (x.toInt - y.toInt).natAbs) b a n d s

def execIaddi (i a : BitVec 7) (n : Bool) (d : BitVec 7) (s : State) : Out :=
  insI false (fun x k => x + BitVec.ofInt 32 k) i a n d s

def execImuli (i a : BitVec 7) (n : Bool) (d : BitVec 7) (s : State) : Out :=
  insI false (fun x k => BitVec.ofInt 32 (x.toInt * k)) i a n d s

def execAndi (i a : BitVec 7) (n : Bool) (d : BitVec 7) (s : State) : Out :=
  insI false (fun x k => x &&& BitVec.ofInt 32 k) i a n d s

def execOri (i a : BitVec 7) (n : Bool) (d : BitVec 7) (s : State) : Out :=
  insI false (fun x k => x ||| BitVec.ofInt 32 k) i a n d s

def execXori (i a : BitVec 7) (n : Bool) (d : BitVec 7) (s : State) : Out :=
  insI false (fun x k => x ^^^ BitVec.ofInt 32 k) i a n d s

def execShli (i a : BitVec 7) (n : Bool) (d : BitVec 7) (s : State) : Out := insI true (fun x k => shlBy x k.toNat) i a n d s

def execShri (i a : BitVec 7) (n : Bool) (d : BitVec 7) (s : State) : Out := insI true (fun x k => shrBy x k.toNat) i a n d s

def execSari (i a : BitVec 7) (n : Bool) (d : BitVec 7) (s : State) : Out := insI true (fun x k => sarBy x k.toNat) i a n d s

def execAnd (b a : BitVec 7) (n : Bool) (d : BitVec 7) (s : State) : Out := ins3 noMods (fun _ x y => x &&& y) b a n d s

def execOr (b a : BitVec 7) (n : Bool) (d : BitVec 7) (s : State) : Out := ins3 noMods (fun _ x y => x ||| y) b a n d s

def execXor (b a : BitVec 7) (n : Bool) (d : BitVec 7) (s : State) : Out := ins3 noMods (fun _ x y => x ^^^ y) b a n d s

def execAndn (b a : BitVec 7) (n : Bool) (d : BitVec 7) (s : State) : Out := ins3 noMods (fun _ x y => x &&& ~~~y) b a n d s

def execOrn (b a : BitVec 7) (n : Bool) (d : BitVec 7) (s : State) : Out := ins3 noMods (fun _ x y => x ||| ~~~y) b a n d s

def execXnor (b a : BitVec 7) (n : Bool) (d : BitVec 7) (s : State) : Out := ins3 noMods (fun _ x y => ~~~(x ^^^ y)) b a n d s

def execShl (b a : BitVec 7) (n : Bool) (d : BitVec 7) (s : State) : Out := ins3 noMods (fun _ x y => shlBy x y.toNat) b a n d s

def execShr (b a : BitVec 7) (n : Bool) (d : BitVec 7) (s : State) : Out := ins3 noMods (fun _ x y => shrBy x y.toNat) b a n d s

def execSar (b a : BitVec 7) (n : Bool) (d : BitVec 7) (s : State) : Out := ins3 noMods (fun _ x y => sarBy x y.toNat) b a n d s

def execRotl (b a : BitVec 7) (n : Bool) (d : BitVec 7) (s : State) : Out := ins3 noMods (fun _ x y => rotlBy x y.toNat) b a n d s

def execImin (b a : BitVec 7) (n : Bool) (d : BitVec 7) (s : State) : Out := ins3 noMods (fun _ x y => imin32 x y) b a n d s

def execImax (b a : BitVec 7) (n : Bool) (d : BitVec 7) (s : State) : Out := ins3 noMods (fun _ x y => imax32 x y) b a n d s

def execUmin (b a : BitVec 7) (n : Bool) (d : BitVec 7) (s : State) : Out := ins3 noMods (fun _ x y => umin32 x y) b a n d s

def execUmax (b a : BitVec 7) (n : Bool) (d : BitVec 7) (s : State) : Out := ins3 noMods (fun _ x y => umax32 x y) b a n d s

/-- iaddc and isubb (R100): D and the carry predicate, per enabled lane or once for every lane of the active mask. -/
def carryIns (f : Word → Word → Bool → Word × Bool) (b a : BitVec 7) (n : Bool) (d : BitVec 7) (s : State) : Out :=
  let c := s.c
  let x := c.xp
  let vec := kindVec c n d.toNat [a.toNat, b.toNat]
  let r (l : Lane) : Word × Bool := f (c.rd a.toNat l) (c.rd b.toNat l) (c.pred x.c l)
  let r0 := r c.scalarLane
  let all : Mask := if c.inH then BitVec.allOnes 32 else c.run.act
  .next (issue s
    { ill := x.c == 127 || !modsLegal x.e noMods || (vec && !n && isS d.toNat), bad := decide (64 ≤ x.c),
      srcs := [(a.toNat, 1), (b.toNat, 1)], dsts := if n then [] else [(d.toNat, 1)], vec := vec }
    (if vec then
      modC (finishVec s 4 n d.toNat c.enabled fun l => (r l).1) fun c' => c'.setPred x.c c.enabled (maskOf fun l => (r l).2)
    else
      modC (finishScal s 4 n d.toNat c.goes r0.1) fun c' => if c.goes then c'.setPred x.c all (maskOf fun _ => r0.2) else c'))

def execIaddc (b a : BitVec 7) (n : Bool) (d : BitVec 7) (s : State) : Out := carryIns addCarry b a n d s

def execIsubb (b a : BitVec 7) (n : Bool) (d : BitVec 7) (s : State) : Out := carryIns subBorrow b a n d s

def execIabs (a : BitVec 7) (n : Bool) (d : BitVec 7) (s : State) : Out := ins2 intSat (fun m x => wrapOrSat m x.toInt.natAbs) a n d s

def execIneg (a : BitVec 7) (n : Bool) (d : BitVec 7) (s : State) : Out := ins2 intSat (fun m x => wrapOrSat m (-x.toInt)) a n d s

def execNot (a : BitVec 7) (n : Bool) (d : BitVec 7) (s : State) : Out := ins2 noMods (fun _ x => ~~~x) a n d s

def execPopc (a : BitVec 7) (n : Bool) (d : BitVec 7) (s : State) : Out := ins2 noMods (fun _ x => BitVec.ofNat 32 (popc32 x)) a n d s

def execClz (a : BitVec 7) (n : Bool) (d : BitVec 7) (s : State) : Out := ins2 noMods (fun _ x => BitVec.ofNat 32 (clz32 x)) a n d s

def execCtz (a : BitVec 7) (n : Bool) (d : BitVec 7) (s : State) : Out := ins2 noMods (fun _ x => BitVec.ofNat 32 (ctz32 x)) a n d s

def execBrev (a : BitVec 7) (n : Bool) (d : BitVec 7) (s : State) : Out := ins2 noMods (fun _ x => brev32 x) a n d s

def execBswap (a : BitVec 7) (n : Bool) (d : BitVec 7) (s : State) : Out := ins2 noMods (fun _ x => bswap32 x) a n d s

end Sys2Proof.Machine
end

