-- ==== Sys2Proof/Machine/Float.lean ====
section
/-! DEFINITION. Floating-point arithmetic on f32 and on packed halves, rounding to integers, classes and exponents: FALU,
FFMA, HALU, FMISC (R110 to R112, R119, R120). -/
namespace Sys2Proof.Machine

/-- Reading an operand of a format from its low bits (R66, R70). -/
def inF (f : FloatFmt) (m : Mods) (x : Nat) : FVal := f.read m.ftz (x % 2 ^ (f.signPos + 1))

/-- Writing a result under the modifiers (R70 to R74). -/
def outF (f : FloatFmt) (m : Mods) (v : FVal) : Nat := f.result m.rm m.sat m.ftz v

def in32 (m : Mods) (x : Word) : FVal := inF fF32 m x.toNat

def out32 (m : Mods) (v : FVal) : Word := BitVec.ofNat 32 (outF fF32 m v)

def fpAll : Allow := { rm := true, sat := true, ftz := true }

def fpFtz : Allow := { ftz := true }

/-- Two operands of a format added, subtracted, multiplied: one rounding (R75, R110). -/
def addF (f : FloatFmt) (m : Mods) (x y : Nat) : Nat := outF f m (FVal.add m.rm (inF f m x) (inF f m y))

def subF (f : FloatFmt) (m : Mods) (x y : Nat) : Nat := outF f m (FVal.add m.rm (inF f m x) (inF f m y).neg)

def mulF (f : FloatFmt) (m : Mods) (x y : Nat) : Nat := outF f m ((inF f m x).mul (inF f m y))

/-- a * b + q with signs on the product and on q (R111). -/
def fmaF (f : FloatFmt) (np nq : Bool) (m : Mods) (x y q : Nat) : Nat :=
  let p := (inF f m x).mul (inF f m y)
  let c := inF f m q
  outF f m (FVal.add m.rm (if np then p.neg else p) (if nq then c.neg else c))

/-- The input that minimum or maximum returns, unchanged but for the flush of a subnormal (R71, R110); `less` picks the
operand that is not wanted. -/
def pickF (f : FloatFmt) (m : Mods) (number wantMax : Bool) (x y : Nat) : Nat :=
  let a := inF f m x
  let b := inF f m y
  let fx := f.flushBits m.ftz (x % 2 ^ (f.signPos + 1))
  let fy := f.flushBits m.ftz (y % 2 ^ (f.signPos + 1))
  if a.isNan && b.isNan then f.nanC
  else if a.isNan then (if number then fy else f.nanC)
  else if b.isNan then (if number then fx else f.nanC)
  else if wantMax then (if a.ltZ b then fy else fx) else (if b.ltZ a then fy else fx)

/-- An operation on Nat codes as one on words. -/
def on32 (g : Nat → Nat → Nat) (x y : Word) : Word := BitVec.ofNat 32 (g x.toNat y.toNat)

/-- The two halves of a word, each computed alone (R112). -/
def onHalves (g : Nat → Nat → Nat) (x y : Word) : Word :=
  BitVec.ofNat 32 (g (x.toNat / 65536) (y.toNat / 65536) * 65536 + g (x.toNat % 65536) (y.toNat % 65536))

def onHalves3 (g : Nat → Nat → Nat → Nat) (x y q : Word) : Word :=
  BitVec.ofNat 32 (g (x.toNat / 65536) (y.toNat / 65536) (q.toNat / 65536) * 65536 +
    g (x.toNat % 65536) (y.toNat % 65536) (q.toNat % 65536))

def execFadd (b a : BitVec 7) (n : Bool) (d : BitVec 7) (s : State) : Out := ins3 fpAll (fun m => on32 (addF fF32 m)) b a n d s
def execFsub (b a : BitVec 7) (n : Bool) (d : BitVec 7) (s : State) : Out := ins3 fpAll (fun m => on32 (subF fF32 m)) b a n d s
def execFmul (b a : BitVec 7) (n : Bool) (d : BitVec 7) (s : State) : Out := ins3 fpAll (fun m => on32 (mulF fF32 m)) b a n d s
def execFmin (b a : BitVec 7) (n : Bool) (d : BitVec 7) (s : State) : Out :=
  ins3 fpFtz (fun m => on32 (pickF fF32 m false false)) b a n d s
def execFmax (b a : BitVec 7) (n : Bool) (d : BitVec 7) (s : State) : Out :=
  ins3 fpFtz (fun m => on32 (pickF fF32 m false true)) b a n d s
def execFminn (b a : BitVec 7) (n : Bool) (d : BitVec 7) (s : State) : Out :=
  ins3 fpFtz (fun m => on32 (pickF fF32 m true false)) b a n d s
def execFmaxn (b a : BitVec 7) (n : Bool) (d : BitVec 7) (s : State) : Out :=
  ins3 fpFtz (fun m => on32 (pickF fF32 m true true)) b a n d s

/-- fcpsgn: b's sign on a's other bits, a bit operation (R110). -/
def execFcpsgn (b a : BitVec 7) (n : Bool) (d : BitVec 7) (s : State) : Out :=
  ins3 noMods (fun _ x y => (x &&& 0x7FFFFFFF) ||| (y &&& 0x80000000)) b a n d s

/-- A fused form on f32 (R111). -/
def fma32 (np nq : Bool) (m : Mods) (x y q : Word) : Word := BitVec.ofNat 32 (fmaF fF32 np nq m x.toNat y.toNat q.toNat)

def execFfma (b a : BitVec 7) (n : Bool) (d : BitVec 7) (s : State) : Out := insQ fpAll (fma32 false false) b a n d s
def execFfms (b a : BitVec 7) (n : Bool) (d : BitVec 7) (s : State) : Out := insQ fpAll (fma32 false true) b a n d s
def execFnma (b a : BitVec 7) (n : Bool) (d : BitVec 7) (s : State) : Out := insQ fpAll (fma32 true false) b a n d s
def execFnms (b a : BitVec 7) (n : Bool) (d : BitVec 7) (s : State) : Out := insQ fpAll (fma32 true true) b a n d s
def execHfma2 (b a : BitVec 7) (n : Bool) (d : BitVec 7) (s : State) : Out :=
  insQ fpAll (fun m => onHalves3 (fmaF fF16 false false m)) b a n d s
def execBfma2 (b a : BitVec 7) (n : Bool) (d : BitVec 7) (s : State) : Out :=
  insQ fpAll (fun m => onHalves3 (fmaF fBF16 false false m)) b a n d s

/-- idp4: four signed byte products and q, exact, then wrapped or saturated (R111). -/
def idp4Sum (x y q : Word) : Int :=
  (List.range 4).foldl (fun t k => t + sx 8 (x.toNat / 2 ^ (8 * k)) * sx 8 (y.toNat / 2 ^ (8 * k))) q.toInt

def execIdp4 (b a : BitVec 7) (n : Bool) (d : BitVec 7) (s : State) : Out :=
  insQ intSat (fun m x y q => wrapOrSat m (idp4Sum x y q)) b a n d s

/-- hdp2: two f16 products and an f32 addend, rounded once (R111). -/
def hdp2Word (m : Mods) (x y q : Word) : Word :=
  out32 m (sumVals m.rm
    [(inF fF16 m x.toNat).mul (inF fF16 m y.toNat), (inF fF16 m (x.toNat / 65536)).mul (inF fF16 m (y.toNat / 65536)), in32 m q])

def execHdp2 (b a : BitVec 7) (n : Bool) (d : BitVec 7) (s : State) : Out := insQ fpAll hdp2Word b a n d s

def execHadd2 (b a : BitVec 7) (n : Bool) (d : BitVec 7) (s : State) : Out := ins3 fpAll (fun m => onHalves (addF fF16 m)) b a n d s
def execHsub2 (b a : BitVec 7) (n : Bool) (d : BitVec 7) (s : State) : Out := ins3 fpAll (fun m => onHalves (subF fF16 m)) b a n d s
def execHmul2 (b a : BitVec 7) (n : Bool) (d : BitVec 7) (s : State) : Out := ins3 fpAll (fun m => onHalves (mulF fF16 m)) b a n d s
def execHmax2 (b a : BitVec 7) (n : Bool) (d : BitVec 7) (s : State) : Out :=
  ins3 fpFtz (fun m => onHalves (pickF fF16 m false true)) b a n d s
def execBadd2 (b a : BitVec 7) (n : Bool) (d : BitVec 7) (s : State) : Out := ins3 fpAll (fun m => onHalves (addF fBF16 m)) b a n d s
def execBsub2 (b a : BitVec 7) (n : Bool) (d : BitVec 7) (s : State) : Out := ins3 fpAll (fun m => onHalves (subF fBF16 m)) b a n d s
def execBmul2 (b a : BitVec 7) (n : Bool) (d : BitVec 7) (s : State) : Out := ins3 fpAll (fun m => onHalves (mulF fBF16 m)) b a n d s
def execBmax2 (b a : BitVec 7) (n : Bool) (d : BitVec 7) (s : State) : Out :=
  ins3 fpFtz (fun m => onHalves (pickF fBF16 m false true)) b a n d s

/-! ### Rounding to integers, classes and exponents (R119, R120) -/

/-- A value rounded to an integral value; infinities and zeros keep their sign (R119). -/
def integral (mode : RMode) : FVal → FVal
  | .fin neg num den => .fin neg (roundUnits mode neg num den 0) 1
  | v => v

def frnd (mode : RMode) (m : Mods) (x : Word) : Word := BitVec.ofNat 32 (fF32.result .rn false false (integral mode (in32 m x)))

def execFrndn (a : BitVec 7) (n : Bool) (d : BitVec 7) (s : State) : Out := ins2 fpFtz (frnd .rn) a n d s
def execFrndz (a : BitVec 7) (n : Bool) (d : BitVec 7) (s : State) : Out := ins2 fpFtz (frnd .rz) a n d s
def execFrndd (a : BitVec 7) (n : Bool) (d : BitVec 7) (s : State) : Out := ins2 fpFtz (frnd .rd) a n d s
def execFrndu (a : BitVec 7) (n : Bool) (d : BitVec 7) (s : State) : Out := ins2 fpFtz (frnd .ru) a n d s

def ffrac32 (m : Mods) (x : Word) : Word :=
  let v := in32 m x
  out32 m (FVal.add m.rm v (integral .rd v).neg)

def execFfrac (a : BitVec 7) (n : Bool) (d : BitVec 7) (s : State) : Out := ins2 { rm := true, ftz := true } ffrac32 a n d s

/-- The class bit of a word's raw bits (R120). -/
def fclass32 (x : Word) : Word :=
  let neg := x.getLsbD 31
  let e := bits x.toNat 30 23
  let f := x.toNat % 2 ^ 23
  let k :=
    if e = 255 then (if f = 0 then (if neg then 0 else 7) else if x.getLsbD 22 then 9 else 8)
    else if e = 0 then (if f = 0 then (if neg then 3 else 4) else if neg then 2 else 5)
    else if neg then 1 else 6
  BitVec.ofNat 32 (2 ^ k)

def execFclass (a : BitVec 7) (n : Bool) (d : BitVec 7) (s : State) : Out := ins2 noMods (fun _ x => fclass32 x) a n d s

def fgetexp32 (m : Mods) (x : Word) : Word :=
  match in32 m x with
  | .fin _ num den => if num = 0 then 0x80000000 else BitVec.ofInt 32 (flog2 num den)
  | _ => 0x7FFFFFFF

def execFgetexp (a : BitVec 7) (n : Bool) (d : BitVec 7) (s : State) : Out := ins2 fpFtz fgetexp32 a n d s

/-- a * 2^k; beyond 1,000 in either direction the rounded result no longer changes. -/
def fldexp32 (m : Mods) (x y : Word) : Word :=
  let k := max (-1000) (min 1000 y.toInt)
  out32 m ((in32 m x).mul (scaled false 1 k))

def execFldexp (b a : BitVec 7) (n : Bool) (d : BitVec 7) (s : State) : Out := ins3 fpAll fldexp32 b a n d s

end Sys2Proof.Machine
end

