-- ==== Sys2Proof/Machine/Access.lean ====
section
/-! DEFINITION. How a group's access reaches memory: read-modify-write operations (R218), requests under way to a home (R196),
translation and its faults lane by lane (R212, R316), the views and buffers of deterministic, IL1 and IL2 work (R202, R206,
R207), page walks and store-fault records (R316, R360, R361), acquire and release (R194). -/
namespace Sys2Proof.Machine

/-! ### Read-modify-write (R218) -/

inductive Amo | add | sub | min | max | umin | umax | and | or | xor | xchg | cas | fadd | fmin | fmax | inc | dec
deriving DecidableEq, Repr

/-- The number of an operation in a deterministic buffer. -/
def Amo.code : Amo → Nat
  | .add => 0 | .sub => 1 | .min => 2 | .max => 3 | .umin => 4 | .umax => 5 | .and => 6 | .or => 7 | .xor => 8 | .xchg => 9
  | .cas => 10 | .fadd => 11 | .fmin => 12 | .fmax => 13 | .inc => 14 | .dec => 15

def Amo.ofCode : Nat → Amo
  | 0 => .add | 1 => .sub | 2 => .min | 3 => .max | 4 => .umin | 5 => .umax | 6 => .and | 7 => .or | 8 => .xor | 9 => .xchg
  | 10 => .cas | 11 => .fadd | 12 => .fmin | 13 => .fmax | 14 => .inc | _ => .dec

def Amo.float : Amo → Bool
  | .fadd => true
  | .fmin => true
  | .fmax => true
  | _ => false

/-- Nearest-even, subnormals kept (R218). -/
def amoMods : Mods := ⟨.rn, false, false, false, 0⟩

/-- The new value of a w-bit word (R218). -/
def Amo.apply (op : Amo) (w old x c : Nat) : Nat :=
  let so := sx w old
  let sv := sx w x
  match op with
  | .add => (old + x) % 2 ^ w
  | .sub => (old + (2 ^ w - x)) % 2 ^ w
  | .min => if so ≤ sv then old else x
  | .max => if so ≤ sv then x else old
  | .umin => Nat.min old x
  | .umax => Nat.max old x
  | .and => Nat.land old x
  | .or => Nat.lor old x
  | .xor => Nat.xor old x
  | .xchg => x
  | .cas => if old = c then x else old
  | .fadd => addF fF32 amoMods old x
  | .fmin => pickF fF32 amoMods false false old x
  | .fmax => pickF fF32 amoMods false true old x
  | .inc => if x ≤ old then 0 else old + 1
  | .dec => if old = 0 || decide (x < old) then x else old - 1

/-! ### Writes that are performed -/

/-- The dirty bit of a main-memory page that the partition's work wrote (R332). -/
def markDirty (s : State) (p : Fin 8) (pa : Nat) : State :=
  match partVf s p with
  | none => s
  | some f =>
    let v := s.vfs[f]
    if v.tracking && inMain pa then
      let a := v.dirtybase.toNat + (if v.cur then 0x400000 else 0) + pa / 4096 / 8
      let old := (devRead s a 1).headD 0
      devWrite s ⟨none, none⟩ a [old ||| BitVec.ofNat 8 (2 ^ (pa / 4096 % 8))]
    else s

/-- A write of a tenant's unit, performed at its place: host memory (R324), a screed bank, or main memory under a store
policy with its dirty bit (R197, R332). -/
def perform (s : State) (q : Req) (pol pa : Nat) (bs : List Byte) : State :=
  match q.ten with
  | none => s
  | some t =>
    if inHost pa then { s with hostMem := Memory.write s.hostMem (hostAddr s t.1 t.2 pa) bs }
    else if inScreed pa then { s with mem := Memory.write s.mem pa bs }
    else markDirty (cohStore s q pol pa bs) t.1 pa

/-! ### Requests under way to a home (R196) -/

/-- A request is carried out by the home. -/
def homePerform (s : State) (r : HomeReq) : State :=
  let q : Req := ⟨some r.core, (wgOf s r.wg).map Workgroup.ten⟩
  match r.kind with
  | .store pol pa bs => perform s q pol pa bs
  | .fetch pol => moveLoad s q pol r.line (List.finRange 32)

/-- The requests that satisfy a test are carried out, in order of arrival. -/
def homeDrain (s : State) (p : HomeReq → Bool) : State :=
  let go := s.homeQ.filter p
  go.foldl homePerform { s with homeQ := s.homeQ.filter fun r => !p r }

/-- Every request for a line, before a later request for it. -/
def drainLine (s : State) (line : Nat) : State := homeDrain s fun r => r.line == line

/-- The requests of a group, with those that reached the same homes before them (R194). -/
def drainGroup (s : State) (wg : Nat) (gid : Fin 16) : State :=
  let lines := (s.homeQ.filter fun r => r.wg == wg && r.gid == gid).map (·.line)
  homeDrain s fun r => lines.contains r.line

/-- A store of the lane path once it is translated: owned stores and host writes at once, others on their way to the home. -/
def sendStore (s : State) (q : Req) (wg : Nat) (gid : Fin 16) (pol pa : Nat) (bs : List Byte) : State :=
  match q.core with
  | none => perform s q pol pa bs
  | some c =>
    let s := dropEarly s c pa
    if pol = 0 || !inMain pa then perform (drainLine s (lineOf pa)) q pol pa bs
    else { s with homeQ := s.homeQ ++ [⟨c, wg, gid, lineOf pa, .store pol pa bs⟩] }

/-! ### The private view of a deterministic workgroup (R202, R203) -/

/-- The bytes of a 16-byte block with one act of the workgroup applied; an act lies within its block. -/
def DetOp.onBlock (base : Nat) (bs : List Byte) : DetOp → List Byte
  | .write _ pa data => if pa / 16 = base / 16 then putBytes bs (pa - base) data else bs
  | .scrOp _ pa op wide x =>
    if pa / 16 = base / 16 then
      let n := if wide then 8 else 4
      putBytes bs (pa - base) (leBytes n ((Amo.ofCode op).apply (8 * n) (bytesAt bs (pa - base) n) x.toNat 0))
    else bs
  | .push _ _ => bs

/-- The workgroup's own view of bytes that lie within one 16-byte block. -/
def detView (s : State) (w : Workgroup) (pa n : Nat) : List Byte :=
  let base := pa / 16 * 16
  ((w.det.foldl (fun b e => e.2.onBlock base b) (devRead s base 16)).drop (pa - base)).take n

/-- An act enters the workgroup's buffer (R202, R250). -/
def addDet (s : State) (wg : Nat) (gid : Fin 16) (op : DetOp) (bytes : Nat) : State :=
  modWg s wg fun w => { w with det := w.det ++ [(gid, op)], detBytes := w.detBytes + bytes }

/-- A store that leaves the group: into the deterministic buffer, or toward its home. -/
def commitStore (s : State) (w : Workgroup) (gid : Fin 16) (q : Req) (pol : Nat) (va : DWord) (pa : Nat) (bs : List Byte) :
    State :=
  if (part s w.ref.part).det && !inHost pa then addDet s w.key gid (.write va pa bs) bs.length
  else sendStore s q w.key gid pol pa bs

/-! ### Translation, lane by lane (R212, R316) -/

/-- How an instruction uses an address. -/
inductive Use | load | store | atomic (op : Amo) | scrLoad | scrStore | scrRmw
deriving DecidableEq, Repr

def Use.access : Use → Access
  | .load => .load
  | .scrLoad => .load
  | .store => .store
  | .scrStore => .store
  | .atomic _ => .atomic
  | .scrRmw => .atomic

def Use.screed : Use → Bool
  | .scrLoad => true
  | .scrStore => true
  | .scrRmw => true
  | _ => false

def Use.stores (u : Use) : Bool := u.access == .store

def Use.cause (u : Use) : XlFail → BitVec 8
  | .trans => if u.stores then 0x13 else 0x11
  | .world => 0x17
  | .prot => if u.stores then 0x14 else 0x12

/-- Host memory takes only the atomics that the link carries (R176). -/
def hostOp : Amo → Bool
  | .add => true
  | .xchg => true
  | .cas => true
  | _ => false

/-- Checks 4 to 6 of R212 on a translated address. -/
def useCheck (s : State) (w : Workgroup) (u : Use) (x : Xl) (va : Nat) : Except (BitVec 8) Nat :=
  let p := part s w.ref.part
  match checkXl s p.world u.access x va with
  | .error e => .error (u.cause e)
  | .ok pa =>
    if u.screed then (if inScreed pa && p.ownsBank (bankOf pa) then .ok pa else .error 0x16)
    else if inScreed pa then .error (u.cause .prot)
    else match u with
      | .atomic op => if inHost pa && !(hostOp op && featureFor s w.ref.part 3) then .error 0x12 else .ok pa
      | _ => .ok pa

/-- Checks 3 to 6 of R212 for one address, with the translation cached. -/
def probe (s : State) (u : Use) (ea : DWord) : State × Except (BitVec 8) Nat :=
  match curWg s with
  | none => (s, .error (u.cause .trans))
  | some w =>
    if 2 ^ 49 ≤ ea.toNat then (s, .error (u.cause .trans))
    else match lookup s s.grp.core w.ref.part w.ref.tenant ea.toNat with
      | (s1, .ok x) => (s1, useCheck s1 w u x ea.toNat)
      | (s1, .bad) => (s1, .error (u.cause .trans))
      | (s1, .world) => (s1, .error 0x17)

/-- Every lane's checks, in increasing lane order. -/
def probeAll (s : State) (u : Use) (ea : Lane → DWord) : List Lane → State × List (Lane × Except (BitVec 8) Nat)
  | [] => (s, [])
  | l :: ls =>
    let (s1, r) := probe s u (ea l)
    let (s2, rs) := probeAll s1 u ea ls
    (s2, (l, r) :: rs)

def oks (rs : List (Lane × Except (BitVec 8) Nat)) : List (Lane × Nat) :=
  rs.filterMap fun x => match x.2 with
    | .ok pa => some (x.1, pa)
    | .error _ => none

def fails (rs : List (Lane × Except (BitVec 8) Nat)) : List (Lane × BitVec 8) :=
  rs.filterMap fun x => match x.2 with
    | .ok _ => none
    | .error c => some (x.1, c)

def laneMask (ls : List Lane) : Mask := maskOf fun l => ls.contains l

/-! ### Loads over the group's own view (R191, R202, R206, R207) -/

/-- The bytes of one lane's store, at most 16, cut where a 16-byte block ends: every piece lies in one page, line and word of ECC. -/
def cutBlocks (va : DWord) (bs : List Byte) : List (DWord × List Byte) :=
  let n := 16 - va.toNat % 16
  if bs.length ≤ n then [(va, bs)] else [(va, bs.take n), (va + BitVec.ofNat 64 n, bs.drop n)]

/-- The pieces of a buffered global store by physical address: taken at issue, but at commit in a checked pair (R363). -/
def storePieces (s : State) (w : Workgroup) (va : DWord) (pas : List Nat) (bs : List Byte) : List (Nat × List Byte) :=
  if curIl s = 2 then
    (cutBlocks va bs).filterMap fun x => match (lookup s s.grp.core w.ref.part w.ref.tenant x.1.toNat).2 with
      | .ok e => some (e.pa x.1.toNat, x.2)
      | _ => none
  else pas.zip ((cutBlocks va bs).map (·.2))

/-- Bytes [pa, pa + n) with a write laid over them. -/
def overlay (pa : Nat) (bs : List Byte) (wpa : Nat) (data : List Byte) : List Byte :=
  bs.mapIdx fun i b => if wpa ≤ pa + i then (data[pa + i - wpa]?).getD b else b

/-- The group's own uncommitted stores over bytes of memory. -/
def ownStores (s : State) (w : Workgroup) (pa : Nat) (bs : List Byte) : List Byte :=
  s.grp.cbuf.foldl (fun bs e => match e.op with
    | .store _ va pas data _ _ => (storePieces s w va pas data).foldl (fun bs x => overlay pa bs x.1 x.2) bs
    | .scrSt _ _ wpa data => overlay pa bs wpa data
    | _ => bs) bs

/-- The bytes of a load of main memory: those that were taken early for it, or those it binds now; nothing taken early serves a later access of the
core to the same block (R181). -/
def takeEarly (s : State) (pa : Nat) (bs : List Byte) : State × List Byte :=
  (dropEarly s s.grp.core pa,
   match s.early.find? fun e => e.core == s.grp.core && e.wg == s.grp.wg && e.gid == s.grp.gid && e.block == pa / 16 with
   | some e => (e.data.drop (pa % 16)).take bs.length
   | none => bs)

/-- A load of a translated address under a policy, and the bytes it binds. -/
def viewLoad (s : State) (pol pa n : Nat) : State × List Byte :=
  match curWg s with
  | none => (s, Memory.read [] pa n)
  | some w =>
    let (s1, bs) :=
      if inHost pa then (s, Memory.read s.hostMem (hostAddr s w.ref.part w.ref.tenant pa) n)
      else if inScreed pa then (s, Memory.read s.mem pa n)
      else
        let (s1, bs) := cohLoad (drainLine s (lineOf pa)) (curReq s) pol pa n
        takeEarly s1 pa bs
    let bs := if (part s1 w.ref.part).det && !inHost pa then detView s1 w pa n else bs
    (s1, ownStores s1 w pa bs)

/-! ### Store-fault records (R360, R361, R364) -/

/-- The slot of the workgroup's group 0 on the core. -/
def wgSlot (s : State) (wg : Nat) : Nat :=
  (((allGroups s).find? fun g => g.wg == wg && g.gid == 0 && g.role == .lead).map (·.slot)).getD 0

def sfCount (s : State) (core : Nat) : Nat := (s.sfq.filter (·.core == core)).length

/-- The record of a store's faulting lanes: the lowest lane's cause, address and data. -/
def sfEntry (s : State) (core wg : Nat) (gid : Fin 16) (role : Role) (npc twin : Word) (size : Nat) (bad : List (WalkLane × BitVec 8)) :
    Option SfEnt :=
  match bad with
  | [] => none
  | (l, cause) :: _ =>
    some { core := core, wg := wg, gid := gid, role := role, cause := cause, highva := decide (2 ^ 49 ≤ l.va.toNat), va := l.va.setWidth 49,
           data := BitVec.ofNat 64 (leNat (l.data.take 8)), npc := npc, twin := twin, mask := laneMask (bad.map (·.1.lane)),
           bmask := BitVec.ofNat 16 (2 ^ l.data.length - 1), wgslot := wgSlot s wg, sz := size }

/-- The group that a record names has ended or gone. -/
def groupGone (s : State) (wg : Nat) (gid : Fin 16) (r : Role) : Bool :=
  !((allGroups s).any fun g => g.wg == wg && g.gid == gid && g.role == r && !g.ended)

/-- A record enters its core's queue; that of a group that has ended goes out at once (R364). -/
def addSf (s : State) (e : SfEnt) : State :=
  let s1 := { s with sfq := s.sfq ++ [e] }
  if groupGone s e.wg e.gid e.role then flushStoreFaults s1 e.wg e.gid e.role else s1

/-! ### Page walks of stores (R316, R361) -/

/-- The checks of a walk's lanes, as the waiting store of its group makes them. -/
def walkLanes (s : State) (k : Walk) (w : Workgroup) : List WalkLane → State × List (WalkLane × Except (BitVec 8) Nat)
  | [] => (s, [])
  | l :: ls =>
    let (s1, r) : State × Except (BitVec 8) Nat :=
      if 2 ^ 49 ≤ l.va.toNat then (s, .error 0x13)
      else match lookup s k.core w.ref.part w.ref.tenant l.va.toNat with
        | (s1, .ok x) => (s1, useCheck s1 w .store x l.va.toNat)
        | (s1, .bad) => (s1, .error 0x13)
        | (s1, .world) => (s1, .error 0x17)
    let (s2, rs) := walkLanes s1 k w ls
    (s2, (l, r) :: rs)

/-- The lanes that make an access of their own, or the first of them where the instruction makes one access (R210). -/
def accessing {α : Type} (one : Bool) (ls : List α) : List α := if one then ls.take 1 else ls

/-- A walk returns: the lanes that translate are stored, the others make one record, which in a checked pair reaches both members (R363); while
the queue of the core is full the faulting lanes are not accepted and stay (R361). -/
def resolveWalk (s : State) (k : Walk) : State :=
  match wgOf s k.wg with
  | none => { s with walks := s.walks.erase k }
  | some w =>
    if k.stuck && decide (16 ≤ sfCount s k.core) then s else
    let (s1, rs) := walkLanes s k w k.lanes
    let bad := rs.filterMap fun x => match x.2 with
      | .error c => some (x.1, c)
      | .ok _ => none
    let q : Req := ⟨some k.core, some w.ten⟩
    let s2 := (accessing k.one rs).foldl (fun s x => match x.2 with
      | .ok pa => commitStore s w k.gid q k.pol x.1.va pa x.1.data
      | .error _ => s) s1
    if !bad.isEmpty && decide (16 ≤ sfCount s2 k.core) then
      { s2 with walks := s2.walks.map fun x => if x = k then { k with lanes := bad.map (·.1), stuck := true } else x }
    else
      let s3 := { s2 with walks := s2.walks.erase k }
      match sfEntry s3 k.core k.wg k.gid .lead k.npc k.twin k.size bad with
      | none => s3
      | some e =>
        let s4 := addSf s3 e
        if ilOf s w = 2 then addSf s4 { e with core := (e.core + 8) % 256, role := .trail } else s4

/-- The walks of a group return, oldest first. -/
def resolveWalks (s : State) (wg : Nat) (gid : Fin 16) : State :=
  (s.walks.filter fun k => k.wg == wg && k.gid == gid).foldl resolveWalk s

def hasWalk (s : State) (wg : Nat) (gid : Fin 16) : Bool := s.walks.any fun k => k.wg == wg && k.gid == gid

/-- Every store of the group at the issue stage that is still being translated is settled. -/
def settle (s : State) : State := resolveWalks s s.grp.wg s.grp.gid

/-- Every lane's page can be used at once by a core: it is cached, or the address cannot be translated at all (R316). -/
def cachedFor (s : State) (core wg : Nat) (ls : List WalkLane) : Bool :=
  match wgOf s wg with
  | none => true
  | some w => ls.all fun l => decide (2 ^ 49 ≤ l.va.toNat) || (tlbHit s core w.ref.part w.ref.tenant l.va.toNat).isSome

/-- The translation of a code address enters its core's caches; the walk is the tenant's (R310, R315). -/
def touchVa (s : State) (w : Workgroup) (va : Nat) : State :=
  if 2 ^ 49 ≤ va then s else (lookup s s.grp.core w.ref.part w.ref.tenant va).1

/-- The halfwords of the instruction at the program counter are translated for its fetch. -/
def touchCode (s : State) : State :=
  match curWg s with
  | none => s
  | some w => match pipeOf s w.ref with
    | none => s
    | some p =>
      let (base, size) := p.image w.cls
      let off := s.c.run.pc.toNat
      let half (s : State) (o : Nat) : State := if o + 2 ≤ size then touchVa s w (base.toNat + o) else s
      half (half s off) (off + 2)

/-- Two walks of one cluster miss on a common page (R316). -/
def sameMiss (s : State) (a b : Walk) : Bool :=
  clusterOf a.core == clusterOf b.core && (wgOf s a.wg).map Workgroup.ten == (wgOf s b.wg).map Workgroup.ten && a.lanes.any fun x => b.lanes.any fun y => x.va.toNat / 4096 == y.va.toNat / 4096

/-- The physical address that an access of the group at the issue stage would reach: a question of the model's own, which makes no access and
caches nothing. -/
def peekPa (s : State) (va : Nat) : Option Nat :=
  match curWg s with
  | none => none
  | some w => match (lookup s s.grp.core w.ref.part w.ref.tenant va).2 with
    | .ok x => some (x.pa va)
    | _ => none

/-- Two accesses touch a byte in common, by their virtual or by their physical addresses. -/
def touching (s : State) (va n wa k : Nat) : Bool :=
  let meet (a b : Nat) : Bool := decide (a < b + k ∧ b < a + n)
  meet va wa || match peekPa s va, peekPa s wa with
    | some a, some b => meet a b
    | _, _ => false

/-- Of the stores of the group at the issue stage that are still being translated, those that share a byte with an access of these
addresses of `n` bytes are settled before it: accesses to a byte are performed in program order, others need not be (R181). -/
def settleFor (s : State) (eas : List DWord) (n : Nat) : State :=
  (s.walks.filter fun k => k.wg == s.grp.wg && k.gid == s.grp.gid &&
    k.lanes.any fun l => eas.any fun ea => touching s ea.toNat n l.va.toNat l.data.length).foldl resolveWalk s

/-! ### Acquire and release (R194) -/

def ordAcquires (o : Nat) : Bool := o % 2 == 1

def ordReleases (o : Nat) : Bool := o / 2 % 2 == 1

/-- An acquire at a scope: no later access of the group is performed before it (R182); at cluster scope or wider the core's si copies go (R194). -/
def acquire (s : State) (scp : Nat) : State :=
  if scp = 0 then { s with early := s.early.filter fun e => !(e.wg == s.grp.wg && e.gid == s.grp.gid) } else acquireAt s s.grp.core

/-- Stores of a workgroup still under way are performed; a walk that waits for a place in a record queue stays. -/
def settleWg (s : State) (key : Nat) : State :=
  homeDrain ((s.walks.filter fun k => k.wg == key).foldl resolveWalk s) fun r => r.wg == key

/-- What a release waits for: its group's walks and requests. -/
def releaseWait (s : State) : State := drainGroup (settle s) s.grp.wg s.grp.gid

/-- A release cannot complete: a store of its group waits for a place in the record queue (R361). -/
def releaseStuck (s : State) : Bool := hasWalk s s.grp.wg s.grp.gid

/-- The group waits at its instruction and issues it again later. -/
def stallAt (s : State) (r : Stall) : State := modG s fun g => { g with phase := .stalled r }

/-- The group goes on. -/
def unstall (s : State) : State := modG s fun g => { g with phase := .inRun }

end Sys2Proof.Machine
end

