-- ==== Sys2Proof/Machine/Queues.lean ====
section
/-! DEFINITION. Stage queues and ticket objects in screed: the device's own actions on them (R282 to R293). -/
namespace Sys2Proof.Machine

/-! ### Screed addresses of a tenant, as the walker reaches them -/

/-- The physical address of a virtual screed address, or the cause for which a block is refused (R283, R308). -/
def screedPa (s : State) (p : Fin 8) (t : Fin 9) (va : Nat) : Except (BitVec 8) Nat :=
  if 2 ^ 49 ≤ va then .error 0x11
  else match (lookupDev s p t va).2 with
    | .bad => .error 0x11
    | .world => .error 0x17
    | .ok x =>
      let pa := x.pa va
      if !worldOk s (part s p).world x pa then .error 0x17
      else if inScreed pa && (part s p).ownsBank (bankOf pa) then .ok pa
      else .error 0x16

def okNat : Except (BitVec 8) Nat → Option Nat
  | .ok n => some n
  | .error _ => none

/-! ### The queue of a stage (R282) -/

/-- Offset of entry index i. -/
def entryOff (log i : Nat) : Nat := 64 + 64 * (i % 2 ^ log)

def qAddr (s : State) (r : StageRef) (st : Stage) (off : Nat) : Option Nat :=
  okNat (screedPa s r.part r.tenant (st.qbase.toNat + off))

/-- A 32-bit header word. -/
def qWord (s : State) (r : StageRef) (st : Stage) (off : Nat) : Nat :=
  match qAddr s r st off with
  | some pa => leNat (Memory.read s.mem pa 4)
  | none => Config.lostQueueWord s.fresh off % 2 ^ 32

def qSetWord (s : State) (r : StageRef) (st : Stage) (off x : Nat) : State :=
  match qAddr s r st off with
  | some pa => { s with mem := Memory.write s.mem pa (leBytes 4 x) }
  | none => s

def qHead (s : State) (r : StageRef) (st : Stage) : Nat := qWord s r st 0
def qCommitted (s : State) (r : StageRef) (st : Stage) : Nat := qWord s r st 4
def qResv (s : State) (r : StageRef) (st : Stage) : Nat := qWord s r st 8
def qClaim (s : State) (r : StageRef) (st : Stage) : Bool := qWord s r st 12 % 2 == 1

/-- a - b modulo 2^32. -/
def sub32 (a b : Nat) : Nat := (a + (2 ^ 32 - b % 2 ^ 32)) % 2 ^ 32

def qOcc (s : State) (r : StageRef) (st : Stage) : Nat := sub32 (qResv s r st) (qHead s r st)

/-- The queue is full when its occupancy equals its capacity (R282). -/
def qFull (s : State) (r : StageRef) (st : Stage) : Bool := qOcc s r st == 2 ^ st.qlog

/-- A stage is pressured while its queue holds HWM sixteenths of its capacity (R246). -/
def pressured (s : State) (r : StageRef) (st : Stage) : Bool := decide (st.hwm * 2 ^ st.qlog ≤ 16 * qOcc s r st)

/-- Committed entries wait from HEAD on. -/
def qLen (s : State) (r : StageRef) (st : Stage) : Nat := sub32 (qCommitted s r st) (qHead s r st)

def qEntry (s : State) (r : StageRef) (st : Stage) (i : Nat) : List Byte :=
  match qAddr s r st (entryOff st.qlog i) with
  | some pa => Memory.read s.mem pa 64
  | none => leBytes 64 (Config.lostQueueWord s.fresh (entryOff st.qlog i))

def qWriteEntry (s : State) (r : StageRef) (st : Stage) (i : Nat) (bs : List Byte) : State :=
  match qAddr s r st (entryOff st.qlog i) with
  | some pa => { s with mem := Memory.write s.mem pa bs }
  | none => s

/-- The name under which a queue's committed slots above COMMIT are kept. -/
def qKey (s : State) (r : StageRef) (st : Stage) : Nat := (qAddr s r st 0).getD 0

/-- COMMIT advances over every committed slot in index order (R285, R286). -/
def advanceCommit (s : State) (r : StageRef) (st : Stage) : Nat → State
  | 0 => s
  | fuel + 1 =>
    let c := qCommitted s r st
    let k := qKey s r st
    if s.marks.contains (k, c) then
      advanceCommit (qSetWord { s with marks := s.marks.erase (k, c) } r st 4 ((c + 1) % 2 ^ 32)) r st fuel
    else s

def qMark (s : State) (r : StageRef) (st : Stage) (i : Nat) : State :=
  let s1 := { s with marks := (qKey s r st, i) :: s.marks }
  advanceCommit s1 r st s1.marks.length

/-- Taking the next index (R285, R286). -/
def qReserve (s : State) (r : StageRef) (st : Stage) : State × Nat :=
  let i := qResv s r st
  (qSetWord s r st 8 ((i + 1) % 2 ^ 32), i)

/-- A push onto a queue that has room, as one step (R285). -/
def qPushEntry (s : State) (r : StageRef) (st : Stage) (bs : List Byte) : State :=
  let (s1, i) := qReserve s r st
  qMark (qWriteEntry s1 r st i bs) r st i

/-- The entry at HEAD leaves the queue. -/
def qPopHead (s : State) (r : StageRef) (st : Stage) : State := qSetWord s r st 0 ((qHead s r st + 1) % 2 ^ 32)

def qSetClaim (s : State) (r : StageRef) (st : Stage) (b : Bool) : State := qSetWord s r st 12 (bit b)

/-! ### Entries (R283) -/

def entryTail (e : List Byte) : Nat := bytesAt e 0x38 8

def entryVoid (e : List Byte) : Bool := bitAt (entryTail e) 63

def entryTkn (e : List Byte) : Nat := bits (entryTail e) 51 49

def entryTkb (e : List Byte) : Nat := bits (entryTail e) 48 0

/-- The cause for which an entry that is not VOID is rejected, if any (R283). -/
def entryBad (s : State) (p : Fin 8) (t : Fin 9) (e : List Byte) : Option (BitVec 8) :=
  let n := entryTkn e
  let b := entryTkb e
  if 4 < n || bits (entryTail e) 62 52 != 0 || b % 64 != 0 || (n == 0 && b != 0) then some 0x02
  else if n = 0 then none
  else match screedPa s p t b with
    | .ok _ => none
    | .error c => some c

/-- A rejected entry is reported as a record of type 10 (R283). -/
def rejectRecord (s : State) (r : StageRef) (cause : BitVec 8) (index : Nat) : State :=
  putRecord s (stageDomain s r)
    { type := 10, cause := cause.toNat, pipe := r.pipe, stage := r.stage, ten := tenField r.part r.tenant, aux := index }

/-- VOID and malformed entries at HEAD are popped; the rest stay (R283, R288). -/
def skipEntries (s : State) (r : StageRef) (st : Stage) : Nat → State
  | 0 => s
  | fuel + 1 =>
    if qLen s r st = 0 then s
    else
      let i := qHead s r st
      let e := qEntry s r st i
      if entryVoid e then skipEntries (qPopHead s r st) r st fuel
      else match entryBad s r.part r.tenant e with
        | some c => skipEntries (rejectRecord (qPopHead s r st) r c i) r st fuel
        | none => s

/-! ### Ticket objects (R290 to R292) -/

/-- The address of object k of the grid a workgroup belongs to. -/
def ticketPa (s : State) (w : Workgroup) (k : Nat) : Option Nat :=
  if k < entryTkn w.entry then okNat (screedPa s w.ref.part w.ref.tenant (entryTkb w.entry + 16 * k)) else none

def ticketOf (s : State) (pa : Nat) : Nat := leNat (Memory.read s.mem pa 4)

def ticketVoid (s : State) (pa : Nat) : Bool := bitAt (leNat (Memory.read s.mem (pa + 4) 4)) 31

/-- {VOID, TICKET[30:0]} (R291). -/
def ticketValue (s : State) (pa : Nat) : Word :=
  BitVec.ofNat 32 (bit (ticketVoid s pa) * 2 ^ 31 + ticketOf s pa % 2 ^ 31)

/-- The ticket advances; a pass sets VOID (R291, R292). -/
def advanceTicket (s : State) (pa : Nat) (void : Bool) : State :=
  let s1 := { s with mem := Memory.write s.mem pa (leBytes 4 (ticketOf s pa + 1)) }
  if void then { s1 with mem := Memory.write s1.mem (pa + 4) (leBytes 4 (leNat (Memory.read s1.mem (pa + 4) 4) % 2 ^ 31 + 2 ^ 31)) }
  else s1

/-- A request that a workgroup leaves at the bank of object k. -/
def leaveAt (s : State) (w : Workgroup) (kind : HeldKind) (k : Nat) : State :=
  match ticketPa s w k with
  | some pa => { s with held := s.held ++ [⟨w.key, w.ten, pa, w.rank, kind⟩] }
  | none => s

/-- The passes a workgroup leaves at its banks: one for each object whose passed bit is clear (R292). -/
def leavePasses (s : State) (w : Workgroup) : State :=
  (List.range (entryTkn w.entry)).foldl (fun s k => if w.passed.contains k || w.duePass.contains k then s else leaveAt s w .pass k) s

/-- Advances due at retirement, without VOID: an IL1 workgroup's turn has come already (R293); those of a deterministic partition are made in the
order of the ranks (R251). -/
def makeAdvances (s : State) (w : Workgroup) : State :=
  w.duePass.foldl (fun s k =>
    if (part s w.ref.part).det then leaveAt s w .advance k
    else match ticketPa s w k with
      | some pa => advanceTicket s pa false
      | none => s) s

/-- What a workgroup leaves at its ticket objects when it retires or ends (R251, R292). -/
def leaveTickets (s : State) (w : Workgroup) : State := leavePasses (makeAdvances s w) w

/-- The pages of a stage's header and of the entries at HEAD and behind the last one, as an access to its queue translates them: the walks are the
tenant's (R310, R312). -/
def touchQueue (s : State) (r : StageRef) (st : Stage) : State :=
  [0, entryOff st.qlog (qHead s r st), entryOff st.qlog (qResv s r st)].foldl (fun s k => (lookupDev s r.part r.tenant (st.qbase.toNat + k)).1) s

/-- The page of a grid's ticket objects. -/
def touchTickets (s : State) (p : Fin 8) (t : Fin 9) (entry : List Byte) : State :=
  if entryTkn entry = 0 then s else (lookupDev s p t (entryTkb entry)).1

/-- A reservation still open is committed with VOID set and reported as type 9, but not under a forced reset (R287). -/
def voidReservations (s : State) (w : Workgroup) (report : Bool) : State :=
  w.resv.foldl (fun s x =>
    let r : StageRef := { w.ref with stage := x.1 }
    match stageOf s r with
    | none => s
    | some st =>
      let e := qEntry s r st x.2
      let s1 := qWriteEntry s r st x.2 (putBytes e 0x38 (leBytes 8 (bits (entryTail e) 62 0 + 2 ^ 63)))
      let s2 := qMark s1 r st x.2
      if report then putRecord s2 (stageDomain s2 w.ref) (Rec.ofWg w { type := 9, cause := 0 }) else s2) s

end Sys2Proof.Machine
end

