-- ==== Sys2Proof/Machine/Engine.lean ====
section
/-! DEFINITION. The task walker, the matrix engines and the copy engines: barrier objects (R157 to R159), task records and
their checks (R146 to R152), the walk (R153, R154), and what a task does (R142 to R145, R149, R155, R160 to R165). -/
namespace Sys2Proof.Machine

/-! ### Local memory of a workgroup, by member of a pair (R221, R375) -/

def Workgroup.loc (w : Workgroup) : Role → List Host.Cell
  | .lead => w.mem
  | .trail => w.memT

def Workgroup.setLoc (w : Workgroup) (r : Role) (m : List Host.Cell) : Workgroup :=
  match r with
  | .lead => { w with mem := m }
  | .trail => { w with memT := m }

def locRead (w : Workgroup) (r : Role) (off n : Nat) : List Byte := Memory.read (w.loc r) off n

def locWrite (s : State) (key : Nat) (r : Role) (off : Nat) (bs : List Byte) : State :=
  modWg s key fun w => w.setLoc r (Memory.write (w.loc r) off bs)

/-- A little-endian word of local memory. -/
def locWord (w : Workgroup) (r : Role) (off : Nat) : Nat := leNat (locRead w r off 4)

/-- The members that run a workgroup. -/
def rolesOf (s : State) (w : Workgroup) : List Role := if ilOf s w = 2 then [.lead, .trail] else [.lead]

/-! ### Mismatches (R376, R379, R380) -/

/-- The pair of a cluster. -/
def pairIx (c : Nat) : Fin 16 := Fin.ofNat 16 (c / 2)

def myPair (s : State) : Fin 16 := pairIx (clusterOf s.grp.core)

/-- Cycles of a core's clock in a number of engine-clock cycles: 2.0 GHz on a shuttle core, 1.2 GHz on a beam core (R12). -/
def coreCycles (core n : Nat) : Nat := if core % 8 < 2 then n * 5 / 3 else n

/-- The mismatch sequence begins at a group of a checked workgroup (R379, R380): every checked group of the pair stops, the record goes to the
SSP. CYCLE counts in the clock of the group's core. -/
def mismatchOf (s : State) (w : Workgroup) (g : Group) (kind field lane : Nat) (npc twin : Word) (lead trail : BitVec 128) : State :=
  let k := pairIx (clusterOf g.core)
  let p := s.pairs[k]
  let key : MisKey := ⟨kind, npc, if kind < 4 then lane else 0⟩
  let m : Mismatch :=
    { wg := w.key, gid := g.gid, action := 0, lane := key.lane, slot := g.slot, core := g.core % 8, field := field,
      kind := kind, npc := npc, twin := twin, ckpt := w.ckpt, count := w.mism.length + 1, lead := lead, trail := trail,
      cycle := BitVec.ofNat 64 (coreCycles g.core (s.now - p.since)) }
  let s1 := { s with pairs := s.pairs.set k { p with stopped := true, mis := some m, rolled := false } }
  modWg s1 w.key fun w => { w with mism := w.mism ++ [key] }

/-! ### Barrier objects (R157 to R159) -/

structure BarObj where
  phase  : Bool
  inv    : Bool
  pend   : Nat
  init   : Nat
  txb    : Word
  status : Word
  resv   : Nat := 0                  -- bits [29:16] of the first word, as memory holds them
  resvI  : Nat := 0                  -- bits [31:16] of the second
deriving DecidableEq, Repr

/-- An object as the four words of memory give it; no action changes its reserved bits but binit. -/
def readObj (w : Workgroup) (r : Role) (off : Nat) : BarObj :=
  let h := locWord w r off
  { phase := bitAt h 31, inv := bitAt h 30, pend := h % 65536, init := locWord w r (off + 4) % 65536,
    txb := BitVec.ofNat 32 (locWord w r (off + 8)), status := BitVec.ofNat 32 (locWord w r (off + 12)),
    resv := bits h 29 16, resvI := locWord w r (off + 4) / 65536 }

def BarObj.head (b : BarObj) : Nat := bit b.phase * 2 ^ 31 + bit b.inv * 2 ^ 30 + b.resv * 2 ^ 16 + b.pend % 65536

def BarObj.bytes (b : BarObj) : List Byte :=
  leBytes 4 b.head ++ leBytes 4 (b.resvI * 2 ^ 16 + b.init) ++ leBytes 4 b.txb.toNat ++ leBytes 4 b.status.toNat

/-- count_arrival (R158). -/
def BarObj.countArrival (b : BarObj) : BarObj :=
  if b.inv then b
  else if b.pend = 0 then { b with status := b.status ||| BitVec.ofNat 32 (2 ^ 11) }
  else { b with pend := b.pend - 1 }

/-- check_flip (R158). -/
def BarObj.checkFlip (b : BarObj) : BarObj :=
  if !b.inv && b.pend == 0 && b.txb == 0 then { b with phase := !b.phase, pend := b.init } else b

/-- A change of TXB; none once the object is invalidated. -/
def BarObj.addBytes (b : BarObj) (x : Word) : BarObj := if b.inv then b else { b with txb := b.txb + x }

/-- merge_status (R158). -/
def BarObj.merge (b : BarObj) (err : BitVec 13) (off : Nat) : BarObj :=
  let st := b.status ||| err.setWidth 32
  if err.toNat / 2 ≠ 0 ∧ !bitAt b.status.toNat 15 then
    { b with status := BitVec.ofNat 32 (st.toNat % 2 ^ 16 + 2 ^ 15 * (if bitAt st.toNat 15 then 0 else 1) + off / 64 % 2 ^ 13 * 2 ^ 16) }
  else { b with status := st }

def writeObj (s : State) (key : Nat) (r : Role) (off : Nat) (b : BarObj) : State := locWrite s key r off b.bytes

/-! ### Task records (R146 to R150) -/

def rWord (b : List Byte) (off : Nat) : Nat := bytesAt b off 4
def rKind (b : List Byte) : Nat := bits (rWord b 0) 3 0
def rEng (b : List Byte) : Nat := bits (rWord b 0) 7 4
def rNsucc (b : List Byte) : Nat := bits (rWord b 0) 11 8
def rArrv (b : List Byte) : Bool := bitAt (rWord b 0) 12
def rPred (b : List Byte) : Nat := bits (rWord b 0) 23 16
def rBar (b : List Byte) : Nat := rWord b 0x10
def rSucc (b : List Byte) (k : Nat) : Nat := bytesAt b (8 + 2 * k) 2 * 64

/-- Local offsets of the successors named. -/
def rSuccs (b : List Byte) : List Nat := (List.range (min (rNsucc b) 4)).map (rSucc b)

-- COPY (R148)
def cMode (b : List Byte) : Nat := bits (rWord b 0x14) 5 4
def cDsp (b : List Byte) : Nat := bits (rWord b 0x14) 3 2
def cSsp (b : List Byte) : Nat := bits (rWord b 0x14) 1 0
def cSrc (b : List Byte) : Nat := bytesAt b 0x18 8
def cDst (b : List Byte) : Nat := bytesAt b 0x20 8
def cRowb (b : List Byte) : Nat := rWord b 0x28
def cRows (b : List Byte) : Nat := rWord b 0x2C
def cSstr (b : List Byte) : Nat := rWord b 0x30
def cDstr (b : List Byte) : Nat := rWord b 0x34

-- MATX (R150)
def mAf (b : List Byte) : Nat := bits (rWord b 0x14) 3 0
def mBf (b : List Byte) : Nat := bits (rWord b 0x14) 7 4
def mDf (b : List Byte) : Nat := bits (rWord b 0x14) 11 8
def mCen (b : List Byte) : Bool := bitAt (rWord b 0x14) 16
def mKs (b : List Byte) : Nat := bits (rWord b 0x14) 18 17
def mLay (b : List Byte) : Bool := bitAt (rWord b 0x14) 19
def mM (b : List Byte) : Nat := bytesAt b 0x18 2
def mN (b : List Byte) : Nat := bytesAt b 0x1A 2
def mAoff (b : List Byte) : Nat := rWord b 0x1C
def mAstr (b : List Byte) : Nat := rWord b 0x20
def mCoff (b : List Byte) : Nat := rWord b 0x24
def mDoff (b : List Byte) : Nat := rWord b 0x28
def mDstr (b : List Byte) : Nat := rWord b 0x2C
def mPstr (b : List Byte) : Nat := rWord b 0x30
def mK (b : List Byte) : Nat := bits (rWord b 0x34) 23 8
def mBoff (b : List Byte) : Nat := rWord b 0x38

/-- Creel slot start and length in units: at different places in the two kinds. -/
def slotStart (b : List Byte) : Nat := if rKind b = 1 then bits (rWord b 0x14) 11 8 else bits (rWord b 0x34) 3 0
def slotUnits (b : List Byte) : Nat := (if rKind b = 1 then bits (rWord b 0x14) 15 12 else bits (rWord b 0x34) 7 4) + 1

/-- The matrix engine whose creel a record names. -/
def recEngine (b : List Byte) : Fin 2 := if rKind b = 1 then Fin.ofNat 2 (bits (rWord b 0x14) 16 16) else Fin.ofNat 2 (rEng b)

/-- The bytes that a COPY counts at its barrier (R149). -/
def copyBytes (b : List Byte) : Word := BitVec.ofNat 32 (cRowb b * cRows b)

/-! ### Formats and extents of a MATX (R142 to R145) -/

def opFloat (f : Nat) : Bool := decide (1 ≤ f ∧ f ≤ 8)
def opInt (f : Nat) : Bool := f == 13 || f == 15
def fourBit (f : Nat) : Bool := f == 7 || f == 15

/-- Bytes of n elements of a format (R142). -/
def elemBytes (f n : Nat) : Nat := if fourBit f then n / 2 else if f = 1 || f = 2 then 2 * n else if f = 0 || f = 9 then 4 * n else n

def kPer (b : List Byte) : Nat := if mKs b = 1 then 32 else if mKs b = 2 then 64 else mK b

def partials (b : List Byte) : Nat := if kPer b = 0 then 0 else mK b / kPer b

/-- A strided region: first byte, stride, rows, bytes a row. -/
structure Region2 where
  off  : Nat
  str  : Nat
  rows : Nat
  len  : Nat
deriving DecidableEq, Repr

def Region2.last (r : Region2) : Nat := r.off + (r.rows - 1) * r.str + r.len

def Region2.fits (r : Region2) (size : Nat) : Bool := decide (r.last ≤ size)

/-- Bytes [p, p + n) meet a strided region. -/
def Region2.meets (r : Region2) (p n : Nat) : Bool :=
  (List.range r.rows).any fun i => decide (r.off + i * r.str < p + n ∧ p < r.off + i * r.str + r.len)

def Region2.overlaps (r q : Region2) : Bool := (List.range q.rows).any fun i => r.meets (q.off + i * q.str) q.len

def aRegion (b : List Byte) : Region2 := ⟨mAoff b, mAstr b, mM b, elemBytes (mAf b) (mK b)⟩

/-- C, or partial q of D, in the record's layout (R145). -/
def outRegion (b : List Byte) (off fmt : Nat) : Region2 :=
  if mLay b then ⟨off, 0, 1, mM b * elemBytes fmt (mN b)⟩ else ⟨off, mDstr b, mM b, elemBytes fmt (mN b)⟩

def cFmt (b : List Byte) : Nat := if opInt (mAf b) then 9 else 0

def dRegions (b : List Byte) : List Region2 :=
  (List.range (partials b)).map fun q => outRegion b (mDoff b + q * mPstr b) (mDf b)

/-- The offset of element (i, j) from the start of C or D (R145). -/
def outOff (b : List Byte) (fmt i j : Nat) : Nat :=
  let sz := elemBytes fmt 1
  if mLay b then (i / 128 * (mN b / 128) + j / 128) * 16384 * sz + (i % 128 * 128 + j % 128) * sz
  else i * mDstr b + j * sz

/-! ### Checks of a record at the kick (R152) -/

/-- Field checks common to the three kinds. -/
def headBad (list n : Nat) (b : List Byte) : Bool :=
  let h := rWord b 0
  rKind b == 0 || decide (3 < rKind b) || bits h 31 24 != 0 || bits h 15 13 != 0 || decide (4 < rNsucc b) ||
  (rArrv b && rKind b != 1) || (rKind b != 2 && rEng b != 0) || decide (1 < rEng b) ||
  (List.range 4).any (fun k => decide (rNsucc b ≤ k) && bytesAt b (8 + 2 * k) 2 != 0) ||
  (rSuccs b).any (fun o => decide (o < list) || decide (list + 64 * n ≤ o) || (o - list) % 64 != 0) ||
  (rBar b != 0xFFFFFFFF && rBar b % 16 != 0)

def copyBad (il : Nat) (b : List Byte) : Bool :=
  let w := rWord b 0x14
  bits w 31 17 != 0 || bits w 7 6 != 0 || cMode b == 3 || cSsp b == 3 || cRowb b == 0 || decide (2 ^ 24 < cRowb b) ||
  cRows b == 0 || decide (65536 < cRows b) || decide (16 < slotStart b + slotUnits b) || (cMode b == 2) != (cDsp b == 3) ||
  (cMode b == 2 && (cRows b != 1 || decide (cRowb b < 128))) || (il != 0 && decide (cDsp b < 2))

def outFmtOk (b : List Byte) : Bool :=
  if opInt (mAf b) then mDf b == 9
  else if mKs b = 0 then [0, 1, 2, 3, 4, 8].contains (mDf b) else mDf b == 0

def matxBad (b : List Byte) : Bool :=
  let w := rWord b 0x14
  bits w 31 20 != 0 || bits w 15 12 != 0 || mKs b == 3 ||
  !((opFloat (mAf b) && opFloat (mBf b)) || (opInt (mAf b) && opInt (mBf b))) || !outFmtOk b ||
  mM b == 0 || mM b % 128 != 0 || mN b == 0 || mN b % 128 != 0 || mK b == 0 || mK b % 32 != 0 || decide (65504 < mK b) ||
  mAstr b % 16 != 0 || decide (mAstr b < elemBytes (mAf b) (mK b)) || (!mCen b && mCoff b != 0) || (mLay b && mDstr b != 0) ||
  (mKs b == 0 && mPstr b != 0) || (mKs b != 0 && mK b % kPer b != 0) || bits (rWord b 0x34) 31 24 != 0 ||
  rWord b 0x3C != 0 || mBoff b % 128 != 0 || decide (16 < slotStart b + slotUnits b)

def matxOverlap (b : List Byte) : Bool :=
  let a := aRegion b
  let c := outRegion b (mCoff b) (cFmt b)
  (dRegions b).any (fun d => a.overlaps d) ||
  (mCen b && (a.overlaps c || (dRegions b).any fun d => d != c && c.overlaps d))

/-- A record breaks a check of form (MAL). -/
def recMal (il list n : Nat) (b : List Byte) : Bool :=
  headBad list n b ||
  (match rKind b with
    | 1 => copyBad il b
    | 2 => matxBad b || matxOverlap b
    | _ => (b.drop 0x14).any (· != 0))

/-- A record names an extent outside the allocation or its slot (BND). -/
def recBnd (size : Nat) (b : List Byte) : Bool :=
  (rBar b != 0xFFFFFFFF && decide (size < rBar b + 16)) ||
  (match rKind b with
    | 1 =>
      (cSsp b == 2 && cMode b != 1 && !Region2.fits ⟨cSrc b, cSstr b, cRows b, cRowb b⟩ size) ||
      (cDsp b == 2 && !Region2.fits ⟨cDst b, cDstr b, cRows b, cRowb b⟩ size) ||
      (cMode b == 1 && decide (size < cSstr b + 4 * cRows b)) ||
      (cMode b == 2 && decide (slotUnits b * 65536 < cRowb b + 128))
    | 2 => !(aRegion b).fits size || (mCen b && !(outRegion b (mCoff b) (cFmt b)).fits size) ||
      (dRegions b).any fun d => !d.fits size
    | _ => false)

def errMal : BitVec 13 := BitVec.ofNat 13 (2 ^ 8)
def errBnd : BitVec 13 := BitVec.ofNat 13 (2 ^ 10)
def errCan : BitVec 13 := BitVec.ofNat 13 (2 ^ 9)

/-- A MATX whose format class is masked for the function (R337). -/
def fmtMasked (s : State) (p : Fin 8) (b : List Byte) : Bool :=
  let has (t : Nat → Bool) : Bool := t (mAf b) || t (mBf b) || t (mDf b)
  rKind b == 2 && ((!featureFor s p 4 && has fourBit) || (!featureFor s p 5 && has fun f => f == 1 || f == 2))

def recErr (masked : Bool) (il size list n : Nat) (b : List Byte) : BitVec 13 :=
  if masked || recMal il list n b then errMal else if recBnd size b then errBnd else 0

/-- How many SUCC fields of the list name the record at an offset. -/
def namedBy (recs : List TaskRec) (off : Nat) : Nat :=
  recs.foldl (fun t r => t + ((rSuccs r.bytes).filter (· == off)).length) 0

/-- The records that no dependence chain reaches within `fuel` rounds of removal: a cycle leaves some. -/
def stripReady : Nat → List TaskRec → List TaskRec
  | 0, rs => rs
  | fuel + 1, rs => stripReady fuel (rs.filter fun r => namedBy rs r.off != 0)

/-- R153: every PRED equals the number of edges to its record, and there is no cycle. -/
def listBad (recs : List TaskRec) : Bool :=
  recs.any (fun r => rPred r.bytes != namedBy recs r.off) || !(stripReady recs.length recs).isEmpty

/-! ### The walk (R154) -/

def kickOf (s : State) (wg key : Nat) : Option Kick := (wgOf s wg).bind fun w => w.kicks.find? (·.key == key)

def modRec (s : State) (wg key off : Nat) (f : TaskRec → TaskRec) : State :=
  modWg s wg fun w => { w with kicks := w.kicks.map fun k => if k.key = key then
    { k with recs := k.recs.map fun r => if r.off = off then f r else r } else k }

/-- The record as a member's own walker reads it (R173). -/
def TaskRec.of (r : TaskRec) : Role → List Byte
  | .lead => r.bytes
  | .trail => r.bytesT

/-- What a task reports on each member. -/
structure TErr where
  lead  : BitVec 13
  trail : BitVec 13
deriving DecidableEq, Repr

def TErr.both (e : BitVec 13) : TErr := ⟨e, e⟩

def TErr.of (e : TErr) : Role → BitVec 13
  | .lead => e.lead
  | .trail => e.trail

def recOf (s : State) (wg key off : Nat) : Option TaskRec := (kickOf s wg key).bind fun k => k.recs.find? (·.off == off)

def TState.code : TState → Nat
  | .none => 0 | .pending => 1 | .issued => 2 | .done => 3 | .cancelled => 4 | .rejected => 5

def TState.over : TState → Bool
  | .done => true
  | .cancelled => true
  | .rejected => true
  | _ => false

/-- STAT is written in the record, in each member's local memory (R147). -/
def writeStat (s : State) (wg off : Nat) (st : TState) (err : TErr) : State :=
  match wgOf s wg with
  | none => s
  | some w => (rolesOf s w).foldl (fun s r => locWrite s wg r (off + 4) (leBytes 4 ((err.of r).toNat * 2 ^ 16 + st.code))) s

def setRec (s : State) (wg key off : Nat) (st : TState) (err : TErr) : State :=
  writeStat (modRec s wg key off fun r => { r with state := st, err := err.lead }) wg off st err

/-- bar_ok (R154). -/
def barOk (w : Workgroup) (b : List Byte) : Bool :=
  rBar b != 0xFFFFFFFF && rBar b % 16 == 0 && decide (rBar b + 16 ≤ w.size)

/-- arrive(r, err) on one member's object (R158). -/
def arriveObj (b : List Byte) (off : Nat) (err : BitVec 13) (o : BarObj) : BarObj :=
  let o1 := if rKind b = 1 then o.addBytes (0 - copyBytes b) else o
  let o2 := if rKind b != 1 || rArrv b then o1.countArrival else o1
  (o2.merge err off).checkFlip

/-- The arrivals noted at barrier objects since their last flips, by member of a pair (R173). -/
def Workgroup.cameOf (w : Workgroup) : Role → List (Nat × Nat)
  | .lead => w.came
  | .trail => w.cameT

def Workgroup.setCame (w : Workgroup) (r : Role) (l : List (Nat × Nat)) : Workgroup :=
  match r with
  | .lead => { w with came := l }
  | .trail => { w with cameT := l }

/-- What is compared at a flip of an object: the STAT words of the tasks that arrived in the phase, then the object's STATUS (R173, R376). -/
def flipWords (w : Workgroup) (r : Role) (obj : Nat) : List Nat :=
  ((w.cameOf r).filter (·.1 == obj)).map (fun x => locWord w r (x.2 + 4)) ++ [(readObj w r obj).status.toNat]

/-- A phase of an object is over: the arrivals noted at it are forgotten. -/
def forgetCame (s : State) (wg : Nat) (r : Role) (obj : Nat) : State :=
  modWg s wg fun w => w.setCame r ((w.cameOf r).filter (·.1 != obj))

/-- Where two lists of words first differ; a word that one of them lacks counts as zero. -/
def wordsDiff : List Nat → List Nat → Option (Nat × Nat)
  | [], [] => none
  | a :: as, [] => if a = 0 then wordsDiff as [] else some (a, 0)
  | [], b :: bs => if b = 0 then wordsDiff [] bs else some (0, b)
  | a :: as, b :: bs => if a = b then wordsDiff as bs else some (a, b)

/-- The object of a member's record has flipped between two states of the workgroup. -/
def hasFlipped (w v : Workgroup) (r : TaskRec) (m : Role) : Bool :=
  barOk w (r.of m) && (readObj w m (rBar (r.of m))).phase != (readObj v m (rBar (r.of m))).phase

/-- The comparison of a checked pair at a phase flip that a task brings about (R173, R376). -/
def compareFlip (s : State) (w : Workgroup) (key : Nat) (r : TaskRec) : State :=
  match wgOf s w.key, kickOf s w.key key with
  | some v, some k =>
    let ms := (rolesOf s w).filter (hasFlipped w v r)
    if ms.isEmpty then s
    else
      let s1 := ms.foldl (fun s m => forgetCame s w.key m (rBar (r.of m))) s
      if ilOf s w != 2 then s1
      else match wordsDiff (flipWords v .lead (rBar (r.of .lead))) (flipWords v .trail (rBar (r.of .trail))),
          (allGroups s).find? fun g => g.wg == w.key && g.gid == k.gid && g.role == .lead with
        | some (a, b), some g => mismatchOf s1 w g 4 0 0 g.c.npc g.c.twin (BitVec.ofNat 128 a) (BitVec.ofNat 128 b)
        | _, _ => s1
  | _, _ => s

/-- arrive(r, err) on each member's object, by its own record (R158, R173). -/
def arriveRec (s : State) (wg key : Nat) (r : TaskRec) (err : TErr) : State :=
  match wgOf s wg with
  | none => s
  | some w =>
    compareFlip ((rolesOf s w).foldl (fun s m => match wgOf s wg with
      | none => s
      | some w =>
        let b := r.of m
        if barOk w b then
          modWg (writeObj s wg m (rBar b) (arriveObj b r.off (err.of m) (readObj w m (rBar b)))) wg fun w =>
            w.setCame m (w.cameOf m ++ [(rBar b, r.off)])
        else s) s) w key r

/-- The engine a record is queued at (R138). -/
def engineOf (w : Workgroup) (b : List Byte) : EngineId :=
  let c : Fin 32 := Fin.ofNat 32 (clusterOf w.core)
  if rKind b = 1 then .copy c else .matrix c (Fin.ofNat 2 (rEng b))

def engineUnit : EngineId → UnitId
  | .matrix c i => ⟨c, .matrix i⟩
  | .copy c => ⟨c, .copy⟩

/-- The place of a unit in State.units: cores 0 to 5, matrix engines 6 and 7, the copy engine 8. -/
def unitSlot : UnitKind → Fin 9
  | .core i => ⟨i.val, by omega⟩
  | .matrix i => ⟨6 + i.val, by omega⟩
  | .copy => 8

/-- The unit of a core id (R10). -/
def coreUnit (core : Nat) : UnitId := ⟨Fin.ofNat 32 (clusterOf core), .core (Fin.ofNat 6 (core % 8))⟩

def unitOf (s : State) (u : UnitId) : PUnit := (s.units[u.cluster])[unitSlot u.kind]

def setUnit (s : State) (u : UnitId) (p : PUnit) : State :=
  { s with units := s.units.set u.cluster ((s.units[u.cluster]).set (unitSlot u.kind) p) }

/-- The unit has work at once: it is at G0 or G1 (R263). -/
def PUnit.awake (p : PUnit) : Bool := p.st == .G0 || p.st == .G1

/-- A unit takes work: G1 to G0. -/
def useUnit (s : State) (u : UnitId) : State := setUnit s u ⟨.G0, s.now, false⟩

/-- A wake request for a unit in G2 or G3 (R264). One that waits already goes up to the class of a stage that comes to need the unit too. -/
def requestWake (s : State) (u : UnitId) (prio : Nat) (crit : Bool) : State :=
  if (unitOf s u).awake || (unitOf s u).waking then s
  else if s.wakeQ.any (·.unit == u) then
    { s with wakeQ := s.wakeQ.map fun q => if q.unit = u then { q with prio := min q.prio prio } else q }
  else { s with wakeQ := s.wakeQ ++ [⟨u, prio, crit, s.now⟩] }

/-- The tenant whose slice is running or, on a cluster used by one tenant, that tenant; a group of it may run there. -/
def sliceRuns (s : State) (c : Fin 32) (t : Fin 8 × Fin 9) : Bool :=
  match (s.slices[c]).cur with
  | none => true
  | some x => x == t && (s.slices[c]).next.isNone

def suspended (s : State) (core : Nat) : Bool := s.place.susp.getLsbD (clusterOf core)

/-- The virtual function that owns the workgroup's partition is stopping, stopped or resuming (R330). -/
def vfStopped (s : State) (p : Fin 8) : Bool :=
  match partVf s p with
  | none => false
  | some f => decide (2 ≤ (s.vfs[f]).st)

/-- The tenant's work on a workgroup's cluster, or on the second cluster of its pair, is held: pending records are not issued (R172, R254, R309,
R330). -/
def heldBack (s : State) (w : Workgroup) : Bool :=
  suspended s w.core || (ilOf s w == 2 && suspended s (w.core + 8)) || vfStopped s w.ref.part || !sliceRuns s (Fin.ofNat 32 (clusterOf w.core)) w.ten

/-- What the walker still has to do, in order (R154). -/
inductive WalkAct
  | issue (off : Nat)
  | finish (off : Nat) (st : TState) (err : TErr)
  | release (off : Nat)
deriving DecidableEq, Repr

/-- The walk of one kick: issue, finish, and the release of successors, SUCC0 first, each as R154 gives it. A record that is ready waits for the
walker, which issues it no earlier than 12 cycles later (R138), and not while its work is held (R172). -/
def walkActs (wg key : Nat) : Nat → List WalkAct → State → State
  | 0, _, s => s
  | _, [], s => s
  | fuel + 1, a :: rest, s =>
    match a with
    | .issue off =>
      match wgOf s wg, recOf s wg key off with
      | some w, some r =>
        if r.issued || r.state.over || s.readyQ.any (fun t => t.wg == wg && t.kick == key && t.off == off) then walkActs wg key fuel rest s
        else walkActs wg key fuel rest { s with readyQ := s.readyQ ++ [⟨engineOf w r.bytes, wg, key, off, false, s.now⟩] }
      | _, _ => walkActs wg key fuel rest s
    | .finish off st err =>
      match recOf s wg key off with
      | some r =>
        let s1 := arriveRec (setRec s wg key off st err) wg key r err
        walkActs wg key fuel ((rSuccs r.bytes).map .release ++ rest) s1
      | none => walkActs wg key fuel rest s
    | .release off =>
      let s1 := modRec s wg key off fun r => { r with count := r.count - 1 }
      match recOf s wg key off with
      | some r => walkActs wg key fuel (if r.count = 1 then .issue off :: rest else rest) s1
      | none => walkActs wg key fuel rest s1

/-- Enough for every record to be issued, finished and released from each of four successor fields. -/
def walkFuel (n : Nat) : Nat := 8 * n + 16

/-- A kick whose records are all over is dropped. -/
def dropDone (s : State) (wg : Nat) : State :=
  modWg s wg fun w => { w with kicks := w.kicks.filter fun k => !k.recs.all (·.state.over) }

def runWalk (s : State) (wg key : Nat) (acts : List WalkAct) : State :=
  dropDone (walkActs wg key (walkFuel (((kickOf s wg key).map (·.recs.length)).getD 0) + acts.length) acts s) wg

/-! ### The walker issues (R138, R172, R246) -/

/-- Engine-clock cycles from a kick, or from the completion that made a record ready, to its issue (R138). -/
def walkerDelay : Nat := 12

/-- A ready record that nothing but time holds back. -/
def unheld (s : State) (t : EngTask) : Bool := ((wgOf s t.wg).map fun w => !heldBack s w).getD true

/-- A ready record may be issued now. -/
def issuable (s : State) (t : EngTask) : Bool := unheld s t && decide (t.since + walkerDelay ≤ s.now)

/-- The class and the pressure of the stage of a ready record. -/
def readyClass (s : State) (t : EngTask) : Nat × Bool :=
  match (wgOf s t.wg).bind fun w => (stageOf s w.ref).map fun st => (w.ref, st) with
  | some (r, st) => (st.prio, pressured s r st)
  | none => (4, false)

/-- The record that the walker issues next: the first that is ready, or one of a pressured stage of the same class (R246). -/
def nextReady (s : State) (ts : List EngTask) : Option EngTask :=
  match ts with
  | [] => none
  | t :: _ => some ((ts.find? fun u => readyClass s u == ((readyClass s t).1, true)).getD t)

/-- The engine of the same place in the next cluster: the trailing one of a pair. -/
def nextEngine : EngineId → EngineId
  | .matrix c i => .matrix (c + 1) i
  | .copy c => .copy (c + 1)

/-- The engines that run a task: in a checked pair one of each cluster (R173). -/
def taskEngines (s : State) (t : EngTask) : List EngineId :=
  if ((wgOf s t.wg).map (ilOf s)) = some 2 then [t.eng, nextEngine t.eng] else [t.eng]

/-- One record leaves the walker for its engine, or a JOIN is done (R151); one that is cancelled meanwhile is passed over. -/
def issueRec (s : State) (t : EngTask) : State :=
  let s0 := { s with readyQ := s.readyQ.erase t }
  match wgOf s0 t.wg, recOf s0 t.wg t.kick t.off with
  | some w, some r =>
    if r.issued || r.state.over then s0
    else
      let s1 := modRec s0 t.wg t.kick t.off fun r => { r with issued := true }
      if rKind r.bytes = 3 then runWalk s1 t.wg t.kick [.finish t.off .done (.both 0)]
      else
        let s2 := setRec s1 t.wg t.kick t.off .issued (.both 0)
        let s3 := { s2 with engq := s2.engq ++ [{ t with since := s2.now }] }
        (taskEngines s3 t).foldl (fun s e => requestWake s (engineUnit e) (((stageOf s w.ref).map (·.prio)).getD 3) false) s3
  | _, _ => s0

/-- The cluster of an engine. -/
def engCluster : EngineId → Fin 32
  | .matrix c _ => c
  | .copy c => c

/-- The walker of a cluster issues the records whose time has come. -/
def walkerTurn (c : Fin 32) : Nat → State → State
  | 0, s => s
  | fuel + 1, s =>
    match nextReady s (s.readyQ.filter fun t => engCluster t.eng == c && issuable s t) with
    | none => s
    | some t => walkerTurn c fuel (issueRec s t)

/-- Records of a kick that are rejected or cancelled are marked so before any of them is finished: none of them is issued (R154, R156). -/
def markRecs (s : State) (wg key : Nat) (p : TaskRec → Bool) (st : TState) : State :=
  modWg s wg fun w => { w with kicks := w.kicks.map fun k => if k.key = key then
    { k with recs := k.recs.map fun r => if p r then { r with state := st } else r } else k }

/-- A kick (R153, R154): snapshot, checks, rejections, then the ready records. -/
def makeKick (s : State) (w : Workgroup) (gid : Fin 16) (list n : Nat) : State :=
  let raw := (List.range n).map fun i =>
    let at_ (m : Role) : List Byte := locRead w m (list + 64 * i) 64
    (⟨list + 64 * i, at_ .lead, at_ (if ilOf s w = 2 then .trail else .lead), .pending, 0, false, 0, 0⟩ : TaskRec)
  let recs := raw.map fun r => { r with count := rPred r.bytes }
  let key := s.fresh
  let s1 := modWg (tick s) w.key fun w => { w with kicks := w.kicks ++ [⟨key, gid, list, recs⟩] }
  let s2 := recs.foldl (fun s r => setRec s w.key key r.off .pending (.both 0)) s1
  let bad := listBad recs
  let il := ilOf s w
  let err (r : TaskRec) (m : Role) : BitVec 13 := if bad then errMal else recErr (fmtMasked s w.ref.part (r.of m)) il w.size list n (r.of m)
  let rejects := (recs.filter fun r => err r .lead != 0).map fun r => WalkAct.finish r.off .rejected ⟨err r .lead, err r .trail⟩
  let s3 := walkActs w.key key (walkFuel n + n) rejects (markRecs s2 w.key key (fun r => err r .lead != 0) .rejected)
  let ready := (((kickOf s3 w.key key).map (·.recs)).getD []).filter fun r => r.count == 0
  runWalk s3 w.key key (ready.map fun r => .issue r.off)

/-- tcancel: the records of a kick still pending are cancelled, in increasing offset (R156). -/
def cancelKick (s : State) (wg key : Nat) : State :=
  let pend := (((kickOf s wg key).map (·.recs)).getD []).filter fun r => r.state == .pending
  runWalk (markRecs s wg key (fun r => r.state == .pending) .cancelled) wg key (pend.map fun r => .finish r.off .cancelled (.both errCan))

/-- Pending records of the kicks made from a key on go without arrivals (R258, R374, R382, R386). -/
def discardPendingFrom (s : State) (wg from_ : Nat) : State :=
  dropDone (modWg s wg fun w => { w with kicks := w.kicks.map fun k =>
    if k.key < from_ then k
    else { k with recs := k.recs.map fun r => if r.state == .pending then { r with state := .cancelled } else r } }) wg

def discardPending (s : State) (wg : Nat) : State := discardPendingFrom s wg 0

/-! ### The creel (R160 to R165) -/

def creelOf (s : State) (e : EngineId) : List Host.Cell :=
  ((s.creels.find? fun c => c.1 == e).map (·.2)).getD []

def setCreel (s : State) (e : EngineId) (m : List Host.Cell) : State :=
  let rest := s.creels.filter fun c => c.1 != e
  { s with creels := if m.isEmpty then rest else (e, m) :: rest }

/-- Creel bytes of an engine read zero, and belong to no tenant (R165). -/
def clearCreel (s : State) (e : EngineId) : State :=
  { setCreel s e [] with creelTen := s.creelTen.filter fun u => u.1.1 != e }

/-- Creel bytes of a cluster's matrix engines read zero (R165). -/
def clearCreels (s : State) (c : Fin 32) : State := clearCreel (clearCreel s (.matrix c 0)) (.matrix c 1)

/-- Units of a creel that a stream of some bytes and its header fill, from a unit on (R160). -/
def streamUnits (start bytes : Nat) : List Nat := (List.range ((256 + bytes + 65535) / 65536)).map (start + ·)

/-- A tenant loads a stream into units of a creel (R165). -/
def claimUnits (s : State) (e : EngineId) (t : Fin 8 × Fin 9) (units : List Nat) : State :=
  { s with creelTen := units.map (fun u => ((e, u), t)) ++ s.creelTen.filter fun x => !(x.1.1 == e && units.contains x.1.2) }

/-- No tenant but this one has loaded a stream into these units since it loaded its own (R165). -/
def unitsKept (s : State) (e : EngineId) (t : Fin 8 × Fin 9) (units : List Nat) : Bool :=
  units.all fun u => match s.creelTen.find? fun x => x.1 == (e, u) with
    | some x => x.2 == t
    | none => true

/-- A code length of a 128-byte table (R161). -/
def codeLen (table : List Byte) (sym : Nat) : Nat := ((table[sym / 2]?).getD 0).toNat / (if sym % 2 = 0 then 1 else 16) % 16

/-- Lengths are at most 12 and form a complete code (R161). -/
def tableOk (table : List Byte) : Bool :=
  (List.range 256).all (fun x => decide (codeLen table x ≤ 12)) &&
  (List.range 256).foldl (fun t x => let n := codeLen table x; if n = 0 then t else t + 2 ^ (12 - n)) 0 == 4096

/-- The canonical codes: (length, codeword, symbol) in increasing length and symbol (R161). -/
def codeBook (table : List Byte) : List (Nat × Nat × Nat) :=
  ((List.range 12).foldl (fun (acc : Nat × List (Nat × Nat × Nat)) k =>
    let len := k + 1
    let syms := (List.range 256).filter fun x => codeLen table x == len
    let step := syms.foldl (fun (a : Nat × List (Nat × Nat × Nat)) x => (a.1 + 1, (len, a.1, x) :: a.2)) acc
    (2 * step.1, step.2)) (0, [])).2.reverse

/-- Bit i of a chunk's payload: bit 7 of each byte first (R161). -/
def streamBit (bs : List Byte) (i : Nat) : Nat := bit (((bs[i / 8]?).getD 0).getLsbD (7 - i % 8))

/-- One symbol from bit position i: the symbol and the next position. -/
def decodeSym (book : List (Nat × Nat × Nat)) (bs : List Byte) (i : Nat) : Nat → Nat → Nat → Option (Nat × Nat)
  | 0, _, _ => none
  | fuel + 1, len, code =>
    if bs.length * 8 ≤ i + len then none
    else
      let code1 := 2 * code + streamBit bs (i + len)
      match book.find? fun c => c.1 == len + 1 && c.2.1 == code1 with
      | some c => some (c.2.2, i + len + 1)
      | none => decodeSym book bs i fuel (len + 1) code1

/-- The symbols of a chunk; the rest decode as zero once bits run out, which is an error (R164). -/
def decodeChunk (book : List (Nat × Nat × Nat)) (bs : List Byte) : Nat → Nat → List Byte × Bool
  | 0, _ => ([], false)
  | n + 1, i =>
    match decodeSym book bs i 12 0 0 with
    | none => (List.replicate (n + 1) 0, true)
    | some (x, j) =>
      let (rest, bad) := decodeChunk book bs n j
      (BitVec.ofNat 8 x :: rest, bad)

/-- The chunks of a stream: all but the last occupy 4,096 bytes (R162). -/
def chunksOf (bs : List Byte) : Nat → List (List Byte)
  | 0 => []
  | fuel + 1 => if bs.isEmpty then [] else bs.take 4096 :: chunksOf (bs.drop 4096) fuel

def chunkList (bs : List Byte) : List (List Byte) := chunksOf bs (bs.length / 4096 + 1)

def chunkCount (c : List Byte) : Nat := bytesAt c 0 2

def chunkOk (c : List Byte) : Bool :=
  decide (4 ≤ c.length) && bytesAt c 2 2 == 0 && decide (1 ≤ chunkCount c ∧ chunkCount c ≤ 32736)

/-- The checks of R163 on a stream in its slot. -/
def streamOk (table bs : List Byte) (size : Nat) : Bool :=
  tableOk table && (chunkList bs).all chunkOk && (chunkList bs).foldl (fun t c => t + chunkCount c) 0 == size

/-- Decoded bytes of the slot's stream, and whether some chunk ran short. -/
def decodeStream (table bs : List Byte) : List Byte × Bool :=
  let book := codeBook table
  (chunkList bs).foldl (fun acc c =>
    let (d, bad) := decodeChunk book (c.drop 4) (chunkCount c) 0
    (acc.1 ++ d, acc.2 || bad)) ([], false)

def slotBase (b : List Byte) : Nat := slotStart b * 65536

/-- VALID and WDEC of a slot header. -/
def slotFlags (valid wdec : Bool) : Byte := BitVec.ofNat 8 (bit valid + 2 * bit wdec)

/-! ### COPY tasks (R149, R155, R163) -/

def errUec : BitVec 13 := 2
def errWdec : BitVec 13 := BitVec.ofNat 13 (2 ^ 4)
def errXlat : BitVec 13 := BitVec.ofNat 13 (2 ^ 5)
def errProt : BitVec 13 := BitVec.ofNat 13 (2 ^ 6)
def errOvf : BitVec 13 := BitVec.ofNat 13 (2 ^ 7)

/-- The state of a copy in progress: an error and a fault address once it has stopped. -/
structure CopySt where
  s     : State
  err   : BitVec 13
  fault : DWord
  stop  : Bool

/-- The check of one byte of a global or screed side (R155). -/
def copyProbe (s : State) (w : Workgroup) (screed write : Bool) (va : Nat) : State × Except (BitVec 13) Nat :=
  if 2 ^ 49 ≤ va then (s, .error errXlat)
  else match lookup s w.core w.ref.part w.ref.tenant va with
    | (s1, .bad) => (s1, .error errXlat)
    | (s1, .world) => (s1, .error errProt)
    | (s1, .ok x) =>
      match useCheck s1 w (if screed then (if write then .scrStore else .scrLoad) else if write then .store else .load) x va with
      | .ok pa => (s1, .ok pa)
      | .error _ => (s1, .error errProt)

/-- A byte as the copy engine reads it: device scope, as an rt load (R149), in the workgroup's own view (R202). DESIGN CHOICE (assumption 55): the stores
that an IL1 group has buffered are not seen by its tasks; R206 hides them from every other agent, while R170 orders the group's earlier stores before
the kick's tasks. -/
def copyRead (s : State) (w : Workgroup) (pa : Nat) : Byte :=
  if inHost pa then Memory.get s.hostMem (hostAddr s w.ref.part w.ref.tenant pa)
  else if (part s w.ref.part).det then
    match wgOf s w.key with
    | some w => (detView s w pa 1).headD 0
    | none => 0
  else (devRead (drainLine s (lineOf pa)) pa 1).headD 0

/-- A byte of a row reaches a line for the first time: the engine's request for the line (R310). -/
def copyTouch (s : State) (w : Workgroup) (k pa : Nat) : State :=
  if k = 0 ∨ pa % 128 = 0 then l2Touch s ⟨none, some w.ten⟩ (lineOf pa) else s

def copyWrite (s : State) (w : Workgroup) (gid : Fin 16) (va pa : Nat) (x : Byte) : State :=
  commitStore (drainLine s (lineOf pa)) w gid ⟨none, some w.ten⟩ 1 (BitVec.ofNat 64 va) pa [x]

/-- The cluster on which a member runs its tasks (R173). -/
def roleCluster (w : Workgroup) : Role → Nat
  | .lead => clusterOf w.core
  | .trail => clusterOf w.core + 1

/-- The creel that a member's record names. -/
def creelName (w : Workgroup) (m : Role) (b : List Byte) : EngineId := .matrix (Fin.ofNat 32 (roleCluster w m)) (recEngine b)

/-- Byte k of a row of a copy: source and destination addresses, on each member. Global memory and screed are read and written once, by the leading
member's copy engine, whose bytes the trailing one receives (R173, R375). -/
def copyByte (w : Workgroup) (gid : Fin 16) (rec_ : TaskRec) (k : Nat) (src dst : Role → Nat) (c : CopySt) : CopySt :=
  if c.stop then c
  else
    let b := rec_.bytes
    let halt (s : State) (e : BitVec 13) (a : Nat) : CopySt := ⟨s, e, BitVec.ofNat 64 (a % 2 ^ 49), true⟩
    let (s1, rd) : State × Except (BitVec 13 × Nat) (Role → Byte) :=
      if cSsp b = 2 then
        match wgOf c.s w.key with
        | none => (c.s, .error (errBnd, src .lead))
        | some v => if v.size ≤ src .lead then (c.s, .error (errBnd, src .lead)) else (c.s, .ok fun r => Memory.get (v.loc r) (src r))
      else match copyProbe c.s w (cSsp b == 1) false (src .lead) with
        | (s1, .error e) => (s1, .error (e, src .lead))
        | (s1, .ok pa) => let x := copyRead s1 w pa; (copyTouch s1 w k pa, .ok fun _ => x)
    match rd with
    | .error (e, a) => halt s1 e a
    | .ok val =>
      match cDsp b with
      | 2 => { c with s := (rolesOf s1 w).foldl (fun s r => locWrite s w.key r (dst r) [val r]) s1 }
      | 3 => { c with s := (rolesOf s1 w).foldl (fun s r =>
          let e := creelName w r (rec_.of r)
          setCreel s e (Memory.set (creelOf s e) (dst r) (val r))) s1 }
      | d =>
        match copyProbe s1 w (d == 1) true (dst .lead) with
        | (s2, .error e) => halt s2 e (dst .lead)
        | (s2, .ok pa) => { c with s := copyWrite (copyTouch s2 w k pa) w gid (dst .lead) pa (val .lead) }

/-- Source address of row r, on a member; idx[r] is read when the engine reaches the row (R149). -/
def copySrc (w : Workgroup) (m : Role) (b : List Byte) (r : Nat) : Nat :=
  if cMode b = 1 then cSrc b + locWord w m (cSstr b + 4 * r) * cRowb b else cSrc b + r * cSstr b

/-- Destination address; a weight stream's table goes to the header and its chunks follow the header (R160). -/
def copyDst (b : List Byte) (r k : Nat) : Nat :=
  if cMode b = 2 then slotBase b + (if k < 128 then k else k + 128) else cDst b + r * cDstr b + k

/-- The bytes of a copy, in increasing order of row, then of byte. -/
def copyAll (w : Workgroup) (gid : Fin 16) (rec_ : TaskRec) (c : CopySt) : CopySt :=
  (List.range (cRows rec_.bytes)).foldl (fun c r =>
    if c.stop then c
    else match wgOf c.s w.key with
      | none => { c with stop := true }
      | some v => (List.range (cRowb rec_.bytes)).foldl (fun c k =>
          copyByte w gid rec_ k (fun m => copySrc v m (rec_.of m) r + k) (fun m => copyDst (rec_.of m) r k) c) c) c

/-- The slot header that a weight stream leaves in a creel, and whether its decoding is refused (R160, R163). -/
def slotHeader (w : Workgroup) (m : List Host.Cell) (b : List Byte) (stopped : Bool) : List Byte × Bool :=
  let o := slotBase b
  let ok := !stopped && streamOk (Memory.read m o 128) (Memory.read m (o + 256) (cRowb b - 128)) (cDstr b)
  (leBytes 4 (cDstr b) ++ leBytes 4 (cRowb b - 128) ++ [slotFlags ok (!ok)] ++ leBytes 1 (tenField w.ref.part w.ref.tenant) ++
    List.replicate 118 0, !stopped && !ok)

/-- A COPY: its bytes, then the slot header of a weight stream (R163). -/
def runCopy (s : State) (w : Workgroup) (gid : Fin 16) (rec_ : TaskRec) : State × TErr × DWord :=
  let c := copyAll w gid rec_ ⟨s, 0, 0, false⟩
  if cMode rec_.bytes != 2 then (c.s, .both c.err, c.fault)
  else
    let hdr (m : Role) : List Byte × Bool := slotHeader w (creelOf c.s (creelName w m (rec_.of m))) (rec_.of m) c.stop
    let err (m : Role) : BitVec 13 := if (hdr m).2 then c.err ||| errWdec else c.err
    ((rolesOf s w).foldl (fun s m =>
      let e := creelName w m (rec_.of m)
      setCreel s e (Memory.write (creelOf s e) (slotBase (rec_.of m) + 0x80) (hdr m).1)) c.s, ⟨err .lead, err .trail⟩, c.fault)

/-! ### MATX tasks (R143 to R145, R164, R87 to R90) -/

/-- An element of a format from bytes: byte address, and which nibble. -/
def elemAt (f : Nat) (rd : Nat → Byte) (pos : Nat) (odd : Bool) : Nat :=
  if fourBit f then (rd pos).toNat / (if odd then 16 else 1) % 16
  else if f = 1 || f = 2 then (rd pos).toNat + 256 * (rd (pos + 1)).toNat
  else (rd pos).toNat % 2 ^ fmtWidth f

/-- A[i][k] (R143). -/
def aElem (b : List Byte) (rd : Nat → Byte) (i k : Nat) : Nat :=
  let f := mAf b
  elemAt f rd (mAoff b + i * mAstr b + elemBytes f (if fourBit f then k / 2 * 2 else k)) (k % 2 == 1)

/-- The decoded byte at which B[k][j] begins (R144). -/
def bPos (b : List Byte) (k j : Nat) : Nat :=
  let f := mBf b
  let nb := j / 128
  let jj := j % 128
  mBoff b +
    (if fourBit f then nb * mK b * 64 + k / 2 * 128 + jj
     else if f = 1 || f = 2 then nb * mK b * 256 + k * 256 + 2 * jj
     else nb * mK b * 128 + k * 128 + jj)

def bElem (b : List Byte) (rd : Nat → Byte) (k j : Nat) : Nat := elemAt (mBf b) rd (bPos b k j) (k % 2 == 1)

/-- One output element of partial q: its code and whether it overflowed (R87, R89, R90). -/
def matxElem (b : List Byte) (ra rb : Nat → Byte) (c : Nat) (i j q : Nat) : Nat × Bool :=
  let ks := (List.range (kPer b)).map (· + q * kPer b)
  if opInt (mAf b) then
    roundOutInt (ks.foldl (fun t k => t + sx (fmtWidth (mAf b)) (aElem b ra i k) * sx (fmtWidth (mBf b)) (bElem b rb k j)) (sx 32 c))
  else
    roundOut (mDf b) (dotFloat (fF32.value c)
      (ks.map fun k => (mop (mAf b) (aElem b ra i k)).mul (mop (mBf b) (bElem b rb k j))))

/-- The bytes of decoded B that a task needs (R144). -/
def bNeeded (b : List Byte) : Nat := mBoff b + elemBytes (mBf b) (mK b * mN b)

/-- B as the decoder gives it: decoded bytes, and whether WDEC is reported (R164, R165). A slot into whose units another tenant has loaded a stream
since lacks VALID. DESIGN CHOICE (assumption 56): of a 16-bit element that straddles an odd decoded size only the byte beyond it reads zero; every chunk
of the slot's stream is decoded, so a chunk that runs short is reported though the task needs none of its bytes. -/
def matxB (s : State) (w : Workgroup) (r : Role) (b : List Byte) : (Nat → Byte) × Bool :=
  let m := creelOf s (creelName w r b)
  let o := slotBase b
  let valid := (Memory.get m (o + 0x88)).getLsbD 0 && (Memory.get m (o + 0x89)).toNat == tenField w.ref.part w.ref.tenant &&
    unitsKept s (creelName w r b) w.ten (streamUnits (slotStart b) (leNat (Memory.read m (o + 0x84) 4)))
  if !valid then (fun _ => 0, true)
  else
    let size := leNat (Memory.read m (o + 0x80) 4)
    let len := leNat (Memory.read m (o + 0x84) 4)
    let (d, short) := decodeStream (Memory.read m o 128) (Memory.read m (o + 256) len)
    (fun k => if size ≤ k then 0 else (d[k]?).getD 0, short || decide (size < bNeeded b))

/-- The elements of one output block, partial by partial: (q, i, j). -/
def blockCells (b : List Byte) (mb nb : Nat) : List (Nat × Nat × Nat) :=
  (List.range (partials b)).flatMap fun q => (List.range 128).flatMap fun i => (List.range 128).map fun j => (q, 128 * mb + i, 128 * nb + j)

/-- One output block (R139): its C is read when it begins, its elements written as they are rounded. -/
def runBlock (b : List Byte) (ra rb : Nat → Byte) (acc : List Host.Cell × Bool) (mb nb : Nat) : List Host.Cell × Bool :=
  let start := acc.1
  let sz := elemBytes (mDf b) 1
  (blockCells b mb nb).foldl (fun acc x =>
    let (q, i, j) := x
    let c := if mCen b && q == 0 then leNat (Memory.read start (mCoff b + outOff b (cFmt b) i j) 4) else 0
    let (v, ovf) := matxElem b ra rb c i j q
    (Memory.write acc.1 (mDoff b + q * mPstr b + outOff b (mDf b) i j) (leBytes sz v), acc.2 || ovf)) acc

/-- A MATX on one member: its blocks in the order mb outer, nb inner (R139). -/
def runMatxOn (s : State) (w : Workgroup) (r : Role) (b : List Byte) : State × BitVec 13 :=
  let (rb, wdec) := matxB s w r b
  let ra := fun a => Memory.get (w.loc r) a
  let out := (List.range (mM b / 128)).foldl (fun acc mb => (List.range (mN b / 128)).foldl (fun acc nb => runBlock b ra rb acc mb nb) acc)
    (w.loc r, false)
  (modWg s w.key fun w => w.setLoc r out.1, (if wdec then errWdec else 0) ||| (if out.2 then errOvf else 0))

/-- A MATX on each member, by its own record, local memory and creel (R173). -/
def runMatx (s : State) (w : Workgroup) (rec_ : TaskRec) : State × TErr :=
  let (s1, e) := runMatxOn s w .lead rec_.bytes
  if ilOf s w = 2 then
    match wgOf s1 w.key with
    | none => (s1, .both e)
    | some w => let (s2, e') := runMatxOn s1 w .trail rec_.bytesT; (s2, ⟨e, e'⟩)
  else (s1, .both e)

/-- The error bits that soft errors report: CEC, UEC, RES, APAR (R155). -/
def softErr (x : BitVec 4) : BitVec 13 := x.setWidth 13

/-- An issued task is carried out and finishes as done (R154, R155); the soft errors are those that the leading member's engine met. DESIGN CHOICE
(assumption 57): its bytes are read and written in this one step, so no racing reader sees a word that it writes partly old and partly new, which R177
allows. -/
def completeTask (s : State) (t : EngTask) (soft : BitVec 4) : State :=
  let s0 := { s with engq := s.engq.erase t }
  match wgOf s0 t.wg, kickOf s0 t.wg t.kick, recOf s0 t.wg t.kick t.off with
  | some w, some k, some r =>
    let (s1, err, fault) : State × TErr × DWord :=
      if rKind r.bytes = 1 then runCopy s0 w k.gid r
      else let (s1, e) := runMatx s0 w r; (s1, e, 0)
    let s2 := if rKind r.bytes = 1 then (rolesOf s1 w).foldl (fun s m => locWrite s w.key m (t.off + 0x38) (leBytes 8 fault.toNat)) s1
      else s1
    runWalk (modRec s2 t.wg t.kick t.off fun r => { r with fault := fault }) t.wg t.kick
      [.finish t.off .done ⟨err.lead ||| softErr soft, if ilOf s0 w = 2 then err.trail else err.lead ||| softErr soft⟩]
  | _, _, _ => s0

/-- The issued tasks of a workgroup's kicks from a key on complete, in the order they were issued (R172, R258, R382). -/
def completeTasksFrom (s : State) (wg from_ : Nat) : State :=
  (s.engq.filter fun t => t.wg == wg && decide (from_ ≤ t.kick)).foldl (fun s t => completeTask s t 0) s

def completeTasks (s : State) (wg : Nat) : State := completeTasksFrom s wg 0

end Sys2Proof.Machine
end

