-- ==== Sys2Proof/Machine/Charge.lean ====
section
/-! DEFINITION. Charges: the region tree's nodes and what the time on group slots and engines costs them (R240). -/
namespace Sys2Proof.Machine

/-! ### The region tree -/

def nodeOf (s : State) (rcb : Nat) : Option Node := s.nodes.find? (·.rcb == rcb)

/-- The chain of nodes from a node up to the device root, nearest first. -/
def chainFrom (s : State) : Nat → Nat → List Node
  | 0, _ => []
  | fuel + 1, rcb =>
    match nodeOf s rcb with
    | none => []
    | some n => if n.parent = 0 then [n] else n :: chainFrom s fuel n.parent

/-- At most five levels stand on a chain (R239). -/
def chainOf (s : State) (rcb : Nat) : List Node := chainFrom s 6 rcb

def modNode (s : State) (rcb : Nat) (f : Node → Node) : State := { s with nodes := s.nodes.map fun n => if n.rcb = rcb then f n else n }

/-- The nodes that a stage's work is charged to: those with BUDSET 1 on its chain; the root always counts as one (R18, R240). -/
def payers (s : State) (rcb : Nat) : List Nat := ((chainOf s rcb).filter fun n => n.budset || n.parent == 0).map (·.rcb)

/-! ### What the device writes to an RCB (R239) -/

/-- Bytes 0x40 to 0x4F of an RCB. -/
def Node.counters (n : Node) : List Byte :=
  leBytes 4 (BitVec.ofInt 32 (if n.budset || n.parent == 0 then n.bal / 1200 else 0)).toNat ++ leBytes 4 n.debt ++
  leBytes 4 (n.used / 1200) ++ leBytes 4 n.launch.toNat

/-- They are written, the root's where DEVROOT points. -/
def writeCounters (s : State) (n : Node) : State :=
  devWrite s ⟨none, none⟩ ((if n.parent = 0 then s.dev.devroot.toNat else n.rcb) + 0x40) n.counters

/-! ### Time (R241) -/

/-- Engine-clock cycles of a budget period: 1 ms. -/
def periodLen : Nat := 1200000

/-- The time of the period boundary that comes next. -/
def nextPeriod (s : State) : Nat := periodLen * (s.periods + 1)

/-- Cycles pass; a period boundary on the way takes its turn there. -/
def passTime (s : State) (n : Nat) : State :=
  if s.now + n ≤ nextPeriod s then { s with now := s.now + n }
  else { s with now := max s.now (nextPeriod s), agenda := .event .periodBoundary :: .pass (s.now + n - nextPeriod s) :: s.agenda }

/-! ### Charges -/

/-- A charge in 1/1,200 token. -/
def charge (s : State) (rcb units : Nat) : State :=
  (payers s rcb).foldl (fun s r => modNode s r fun n => { n with bal := n.bal - (units : Int), used := n.used + units }) s

/-- Tokens a microsecond that a group slot of a core costs. -/
def slotRate (core : Nat) : Nat := if core % 8 < 2 then 4 else 1

/-- Tokens a microsecond that an engine costs while it runs a task. -/
def engineRate : Nat := 32

/-- A group holds its slot: it is not halted, nor an ended group of a workgroup that is halted as a whole. -/
def holdsSlot (s : State) (g : Group) : Bool :=
  !g.halted && !(g.ended && (allGroups s).any (fun x => x.wg == g.wg && x.halted) &&
    (allGroups s).all fun x => x.wg != g.wg || x.halted || x.ended)

/-- What a group's slot costs up to a time. -/
def chargeGroup (at_ : Nat) (s : State) (g : Group) : State :=
  match (wgOf s g.wg).bind fun w => stageOf s w.ref with
  | none => s
  | some st => if holdsSlot s g then charge s st.rcb (slotRate g.core * (at_ - g.heldSince)) else s

/-- The charges due up to a time for the groups that satisfy a test, whose slots are charged from then on anew. -/
def chargeGroupsTo (at_ : Nat) (s : State) (p : Group → Bool) : State :=
  let s1 := ((allGroups s).filter p).foldl (chargeGroup at_) s
  mapGroups s1 fun g => if p g then { g with heldSince := max g.heldSince at_ } else g

def chargeGroups (s : State) (p : Group → Bool) : State := chargeGroupsTo s.now s p

/-- What the engines that run a task cost up to a time: in a checked pair those of both clusters (R173). -/
def chargeTask (at_ : Nat) (s : State) (t : EngTask) : State :=
  match (wgOf s t.wg).bind fun w => stageOf s w.ref with
  | none => s
  | some st => if t.started then charge s st.rcb (engineRate * (taskEngines s t).length * (at_ - t.since)) else s

/-- The charges due up to a time for the running tasks that satisfy a test, which are charged from then on anew. -/
def chargeTasksTo (at_ : Nat) (s : State) (p : EngTask → Bool) : State :=
  let s1 := (s.engq.filter p).foldl (chargeTask at_) s
  { s1 with engq := s1.engq.map fun t => if t.started && p t then { t with since := max t.since at_ } else t }

def chargeTasks (s : State) (p : EngTask → Bool) : State := chargeTasksTo s.now s p

/-- Every charge due for a workgroup: its slots and its running tasks. -/
def chargeWg (s : State) (key : Nat) : State := chargeTasks (chargeGroups s fun g => g.wg == key) fun t => t.wg == key

/-- The charges of every microsecond that has ended: what the balances hold whenever one is looked at (R240, R241). -/
def chargeDue (s : State) : State :=
  let t := s.now / 1200 * 1200
  chargeTasksTo t (chargeGroupsTo t s fun _ => true) fun _ => true

/-- Every charge due. -/
def chargeAll (s : State) : State := chargeTasks (chargeGroups s fun _ => true) fun _ => true

end Sys2Proof.Machine
end

