-- ==== Sys2Proof/Machine/Records.lean ====
section
/-! DEFINITION. The bytes of a group's save record, of its trap frame and of its vector rows (R357, R358): what a spill writes to the save
area, what a checkpoint copies and what the migration stream carries. -/
namespace Sys2Proof.Machine

def words4 (xs : List Word) : List Byte := xs.flatMap fun x => leBytes 4 x.toNat

/-- The 128 bytes of a trap frame (R358). -/
def Frame.bytes (f : Frame) : List Byte :=
  leBytes 4 (f.cause.toNat + bit f.after * 2 ^ 8 + bit f.perLane * 2 ^ 9 + bit f.imprecise * 2 ^ 10) ++ leBytes 4 f.resume.toNat ++
  leBytes 8 f.addr.toNat ++ leBytes 4 f.npc.toNat ++ leBytes 4 f.twin.toNat ++ leBytes 4 f.mask.toNat ++ leBytes 4 0 ++
  words4 f.s18.toList ++ words4 f.p07.toList ++ List.replicate 32 0

/-- The byte LATK of a latch (R357). -/
def Latch.kindByte : Latch → Nat
  | .empty => 0
  | .scalar wide _ => 3 + 4 * bit wide
  | .lanes wide _ => 1 + 4 * bit wide

/-- The 256 bytes LATV of a latch: a scalar value stands in the place of lane 0. -/
def Latch.valueBytes : Latch → List Byte
  | .empty => List.replicate 256 0
  | .scalar _ x => leBytes 8 x.toNat ++ List.replicate 248 0
  | .lanes _ x => x.toList.flatMap fun y => leBytes 8 y.toNat

/-- FLAGS of a save record (R357), whose last bit says that a store-fault record waits for its delivery. -/
def Group.flags (g : Group) (pending : Bool) : Nat :=
  bit g.c.inH + 2 * bit (g.halted && match g.phase with
    | .stalled _ => true
    | _ => false) + 4 * bit g.c.frameOn + 8 * bit pending

/-- The 4 KiB save record of a group (R357). -/
def Group.saveRecord (g : Group) (pending : Bool) : List Byte :=
  let c := g.c
  leBytes 4 (g.flags pending) ++ words4 [c.icount, c.exitM, c.waitM, c.parkM, c.barM, c.part] ++ leBytes 4 (min c.run.pos 24) ++
  words4 [c.run.act, c.twin, if c.inH then c.run.pc else 0, 0] ++ List.replicate 16 0 ++ words4 c.lpc.toList ++
  leBytes 16 ((List.range 32).foldl (fun n i => n + ((c.barN[i]?).getD 0).toNat * 16 ^ i) 0) ++
  c.starve.toList.flatMap (fun n => leBytes 2 n) ++ words4 c.s.toList ++ words4 c.p.toList ++
  c.run.lat.toList.flatMap (fun l => leBytes 1 l.kindByte) ++ List.replicate 8 0 ++ c.run.lat.toList.flatMap Latch.valueBytes ++
  c.frame.bytes ++ List.replicate 1280 0

/-- The save record of a resident group. -/
def saveOf (s : State) (g : Group) : List Byte := g.saveRecord (s.sfq.any fun e => e.wg == g.wg && e.gid == g.gid && e.role == g.role)

/-- The 1 KiB of row k of a group's vector registers: lane i of register 8k + m at byte 128m + 4i. -/
def Group.row (g : Group) (k : Nat) : List Byte :=
  (List.range 8).flatMap fun m => match g.c.v[8 * k + m]? with
    | some x => words4 x.toList
    | none => List.replicate 128 0

/-- The rows that a group claims, in order (R255). -/
def Group.rows (g : Group) : List Byte := (List.range ((g.vbud + 7) / 8)).flatMap g.row

end Sys2Proof.Machine
end

