-- ==== Sys2Proof/Machine/Recover.lean ====
section
/-! DEFINITION. The life of a workgroup beyond its instructions: leaving the device, fatal discards (R386), the commit of an
IL1 workgroup and its abort (R206, R372 to R374), and checked pairs: compared events, commits, mismatches, rollback (R375 to
R383). -/
namespace Sys2Proof.Machine

/-! ### Focus on a group -/

def Group.is (g : Group) (wg : Nat) (gid : Fin 16) (r : Role) : Bool := g.wg == wg && g.gid == gid && g.role == r

/-- The named group at the issue stage, when it is resident. -/
def focus (s : State) (wg : Nat) (gid : Fin 16) (r : Role) : State :=
  if s.grp.is wg gid r then s
  else match s.others.find? fun g => g.is wg gid r with
    | none => s
    | some g =>
      let rest := s.others.filter fun x => !x.is wg gid r
      { s with grp := g, others := if s.grp.wg = 0 then rest else s.grp :: rest }

/-- The issue stage goes back to the group that held it. -/
def backTo (s : State) (g : Group) : State :=
  if g.wg = 0 then { s with grp := Group.empty, others := if s.grp.wg = 0 then s.others else s.grp :: s.others }
  else focus s g.wg g.gid g.role

/-- An action as the named group, and back. -/
def asGroup (s : State) (wg : Nat) (gid : Fin 16) (r : Role) (f : State → State) : State :=
  if (allGroups s).any fun x => x.is wg gid r then backTo (f (focus s wg gid r)) s.grp else s

def modGroup (s : State) (wg : Nat) (gid : Fin 16) (r : Role) (f : Group → Group) : State :=
  mapGroups s fun g => if g.is wg gid r then f g else g

def groupAt (s : State) (wg : Nat) (gid : Fin 16) (r : Role) : Option Group := (allGroups s).find? fun g => g.is wg gid r

def otherRole : Role → Role
  | .lead => .trail
  | .trail => .lead

/-- The same group on the other member of the pair. -/
def partner (s : State) : Option Group := groupAt s s.grp.wg s.grp.gid (otherRole s.grp.role)

/-! ### Leaving the device -/

/-- The groups and the record of a workgroup go: its slots, rows and local memory are free (R247, R258). -/
def removeWg (s : State) (key : Nat) : State :=
  { s with grp := if s.grp.wg = key then Group.empty else s.grp, others := s.others.filter fun g => g.wg != key,
           wgs := s.wgs.filter fun w => w.key != key, walks := s.walks.filter fun k => k.wg != key,
           sfq := s.sfq.filter fun e => e.wg != key, readyQ := s.readyQ.filter (fun t => t.wg != key),
           engq := s.engq.filter fun t => t.wg != key,
           held := s.held.filter fun h => !(h.wg == key && h.kind.isOrdw), early := s.early.filter fun e => e.wg != key }

/-- Cohorts of a grid (R248). -/
def Stage.cohorts (st : Stage) : Nat := st.gx / max st.cx 1 * (st.gy / max st.cy 1) * st.gz

/-- The last workgroup of a cohort has gone: the cohort retires, and the grid with its last cohort (R247). -/
def cohortGone (s : State) (grid pos : Nat) : State :=
  if (s.wgs ++ s.relaunch).any fun w => w.grid == grid && w.pos == pos then s
  else
    let s1 := { s with grids := s.grids.map fun (g : Grid) => if g.key == grid && !g.retired.contains pos then
      { g with retired := g.retired ++ [pos] } else g }
    { s1 with grids := s1.grids.filter fun (g : Grid) => match stageOf s1 g.ref with
      | none => g.key != grid
      | some st => !(g.key == grid && decide (st.cohorts ≤ g.retired.length) && decide (st.cohorts ≤ g.launched)) }

/-- A pair is dissolved when no checked work is left on it (R21). -/
def dissolvePair (s : State) (k : Fin 16) : State :=
  if (s.wgs.any fun w => ilOf s w == 2 && !w.finished && pairIx (clusterOf w.core) == k) then s
  else { s with pairs := s.pairs.set k { s.pairs[k] with formed := false, stopped := false, mis := none, rolled := false } }

/-- The words that a core owned are written back (R198, R258). -/
def leaveCore (s : State) (key : Nat) : State :=
  ((allGroups s).filter fun g => g.wg == key).foldl (fun s g => flushCore s g.core) s

/-- A workgroup discarded by a fault or by force (R258, R287, R292, R386): its issued tasks complete, its pending records go
without arrivals, its buffers and store-fault records are discarded, its open reservations are committed VOID, its tickets
are passed (not under a forced reset), its stores under way are performed. -/
def discardWg (s : State) (key : Nat) (forced : Bool) : State :=
  match wgOf s key with
  | none => s
  | some w =>
    let s0 := mapGroups (chargeWg s key) fun g => if g.wg = key then { g with phase := .ended } else g
    let s1 := completeTasks (discardPending s0 key) key
    let s2 := homeDrain s1 fun r => r.wg == key
    let s3 := if forced then leaveCore s2 key else s2
    let s4 := voidReservations s3 w (!forced)
    -- advances due at a retirement that does not come are left to passes; a workgroup that has finished has left its own
    let w' := { w with passed := w.passed.filter fun k => !w.duePass.contains k, duePass := [] }
    let s5 := if forced then { s4 with held := s4.held.filter fun h => h.wg != key } else if w.finished then s4 else leavePasses s4 w'
    dissolvePair (cohortGone (removeWg s5 key) w.grid w.pos) (pairIx (clusterOf w.core))

/-- An aborted workgroup that the walker was to launch again goes: its tickets are passed (not under a forced reset), its cohort retires. -/
def dropAgain (s : State) (w : Workgroup) (forced : Bool) : State :=
  let s1 := { s with relaunch := s.relaunch.erase w }
  cohortGone (if forced then s1 else leavePasses s1 { w with passed := [], duePass := [] }) w.grid w.pos

/-- A fatal fault discards all work in flight in its fault domain, the aborted workgroups that were to run again with it (R386). -/
def fatalDiscard (s : State) (dom : Fin 64) : State :=
  let s1 := ((s.wgs.filter fun w => stageDomain s w.ref == dom).map (·.key)).foldl (fun s k => discardWg s k false) s
  (s1.relaunch.filter fun w => stageDomain s1 w.ref == dom).foldl (fun s w => dropAgain s w false) s1

/-! ### IL1 workgroups (R206, R372 to R374) -/

/-- Entries that the groups of a workgroup hold in its buffer, and the pool they are taken from (R372). -/
def poolUsed (s : State) (key : Nat) : Nat := (groupsOf s key .lead).foldl (fun n g => n + g.cbuf.length) 0

def poolSize (s : State) (key : Nat) : Nat := 256 * (groupsOf s key .lead).length

/-- An aborted IL1 workgroup: a record of type 5; when the policy and its past allow it, the walker is to launch it again, its
run counted; otherwise its domain is discarded (R373, R374). -/
def abortIl1 (s : State) (key : Nat) (overflow : Bool) : State :=
  match wgOf s key with
  | none => s
  | some w =>
    let again := !overflow && s.policy.il1re && decide (w.reruns < s.policy.il1lim) && !w.atomic
    let s1 := putRecord s (stageDomain s w.ref)
      (Rec.ofWg w { type := 5, cause := if overflow then 0 else 0x60, inner := if overflow then 1 else 2,
                    fatal := !again, atomic := w.atomic })
    if again then
      let s2 := completeTasks (discardPending (chargeWg s1 key) key) key
      let s3 := voidReservations (homeDrain s2 fun r => r.wg == key) w true
      let s4 := removeWg s3 key
      { s4 with relaunch := s4.relaunch ++ [{ w with reruns := w.reruns + 1, passed := [], duePass := [] }] }
    else fatalDiscard (discardWg s1 key false) (stageDomain s1 w.ref)

/-- One entry of a commit buffer performed (R206, R207): toward memory, a screed bank or a queue, or into the buffer of a
deterministic workgroup. -/
def commitEntry (s : State) (w : Workgroup) (core : Nat) (gid : Fin 16) (e : BufEnt) : State :=
  let det := (part s w.ref.part).det
  match e.op with
  | .store _ va pas bs pol _ =>
    (pas.zip (cutBlocks va bs)).foldl (fun s x => commitStore s w gid ⟨some core, some w.ten⟩ pol x.2.1 x.1 x.2.2) s
  | .scrSt _ va pa bs => if det then addDet s w.key gid (.write va pa bs) bs.length else { s with mem := Memory.write s.mem pa bs }
  | .push stage bs =>
    if det then addDet s w.key gid (.push stage bs) 0
    else
      let r : StageRef := { w.ref with stage := stage }
      match stageOf s r with
      | some st => qPushEntry (touchQueue s r st) r st bs
      | none => s

/-- The target queue of every buffered push has room for it (R289). -/
def pushRoom (s : State) (w : Workgroup) (es : List BufEnt) : Bool :=
  (List.range 32).all fun k =>
    let n := (es.filter fun e => match e.op with
      | .push j _ => j == k
      | _ => false).length
    n == 0 || match stageOf s { w.ref with stage := k } with
      | some st => decide (qOcc s { w.ref with stage := k } st + n ≤ 2 ^ st.qlog)
      | none => true

/-- The buffer of an IL1 workgroup commits: its groups in increasing id, each in program order (R372). -/
def commitIl1 (s : State) (w : Workgroup) : State :=
  let gs := (List.finRange 16).filterMap fun i => groupAt s w.key i .lead
  let s1 := gs.foldl (fun s g => g.cbuf.foldl (fun s e => commitEntry s w g.core g.gid e) s) s
  let s2 := homeDrain s1 fun r => r.wg == w.key
  mapGroups s2 fun g => if g.wg = w.key then { g with cbuf := [] } else g

/-! ### Checked pairs: compared events (R375, R376) -/

/-- Where two compared events first differ: field, lane, leading and trailing value (R376, R380). A lane that one of them lacks has a byte mask of
zero there. -/
def itemDiff : List CmpItem → List CmpItem → Nat × Nat × BitVec 128 × BitVec 128
  | [], [] => (0, 0, 0, 0)
  | a :: _, [] => (2, a.lane, a.bmask.setWidth 128, 0)
  | [], b :: _ => (2, b.lane, 0, b.bmask.setWidth 128)
  | a :: as, b :: bs =>
    if a.lane < b.lane then (2, a.lane, a.bmask.setWidth 128, 0)
    else if b.lane < a.lane then (2, b.lane, 0, b.bmask.setWidth 128)
    else if a.addr ≠ b.addr then (0, a.lane, a.addr.setWidth 128, b.addr.setWidth 128)
    else if a.data ≠ b.data then (1, a.lane, a.data, b.data)
    else if a.bmask ≠ b.bmask then (2, a.lane, a.bmask.setWidth 128, b.bmask.setWidth 128)
    else if a.pol ≠ b.pol ∨ a.scp ≠ b.scp then
      (3, a.lane, BitVec.ofNat 128 (a.pol * 4 + a.scp), BitVec.ofNat 128 (b.pol * 4 + b.scp))
    else itemDiff as bs

/-- The first lane whose lpc differs. -/
def lpcDiff : Nat → List Word → List Word → Option (Nat × Word × Word)
  | k, a :: as, b :: bs => if a = b then lpcDiff (k + 1) as bs else some (k, a, b)
  | _, _, _ => none

/-- The lowest lane in which the masks after a transfer differ. -/
def maskDiff (a b : CmpEvent) : Lane := lowest ((a.exitM ^^^ b.exitM) ||| (a.waitM ^^^ b.waitM))

/-- FIELD, LANE and the differing values of two events of a kind (R380). -/
def eventDiff (a b : CmpEvent) : Nat × Nat × BitVec 128 × BitVec 128 :=
  if a.kind = 2 then
    match lpcDiff 0 a.lpcs b.lpcs with
    | some (k, x, y) => (0, k, x.setWidth 128, y.setWidth 128)
    | none => (1, (maskDiff a b).val, (a.exitM ++ a.waitM).setWidth 128, (b.exitM ++ b.waitM).setWidth 128)
  else
    let (f, l, x, y) := itemDiff a.items b.items
    (if a.kind = 1 then f else 0, l, x, y)

/-- A mismatch at the group at the issue stage. -/
def mismatch (s : State) (kind field lane : Nat) (npc twin : Word) (lead trail : BitVec 128) : State :=
  match curWg s with
  | none => s
  | some w => mismatchOf s w s.grp kind field lane npc twin lead trail

/-- What comparing an event answers: the member goes on, or waits. -/
inductive Cmp
  | go (s : State)
  | wait (s : State)

/-- A compared event of the group (R376): the leading member's is kept until the trailing member's arrives; a difference
begins the mismatch sequence. -/
def compareEvent (s : State) (e : CmpEvent) : Cmp :=
  if curIl s ≠ 2 then .go s
  else if s.grp.role = .lead then .go (modG s fun g => { g with cmp := g.cmp ++ [e] })
  else match partner s with
    | none => .wait (stallAt s .commit)
    | some p => match p.cmp with
      | [] => .wait (stallAt s .commit)
      | a :: rest =>
        let s1 := modGroup s s.grp.wg s.grp.gid .lead fun g => { g with cmp := rest }
        if a = e then .go s1
        else
          let (f, l, x, y) := eventDiff a e
          .wait (mismatch s1 e.kind f l e.npc e.twin x y)

/-- An event of the instruction at issue. -/
def mkEvent (s : State) (kind : Nat) (items : List CmpItem) : CmpEvent :=
  { kind := kind, npc := s.c.npc, twin := s.c.twin, items := items, lpcs := [], exitM := 0, waitM := 0 }

/-- What the leading member forwards (R375). -/
def forward (s : State) (f : FwdItem) : State :=
  if curIl s = 2 && s.grp.role == .lead then modG s fun g => { g with fwd := g.fwd ++ [f] } else s

/-- What stands among the forwarded values for an ordw that its bank holds: the value reaches both members when it is granted (R291, R293). -/
def heldMark : BitVec 8 := 0xFF

/-- The trailing member takes the next forwarded value; none when the leading member has not reached it. -/
def takeFwd (s : State) : Option (State × FwdItem) :=
  match partner s with
  | none => none
  | some p => match p.fwd with
    | [] => none
    | f :: rest => some (modGroup s s.grp.wg s.grp.gid .lead fun g => { g with fwd := rest }, f)

def trailing (s : State) : Bool := curIl s == 2 && s.grp.role == .trail

/-! ### Commits of a checked workgroup (R377) -/

/-- A group stands at a halt point (R253). -/
def Group.atHalt (g : Group) : Bool := g.phase != .inRun

def Group.landAll (g : Group) : Group :=
  (List.range g.arr.length).foldl (fun g _ => g.landOldest) g

/-- The ordws of a workgroup that the banks hold (R291). -/
def heldOrdws (s : State) (key : Nat) : List HeldReq := s.held.filter fun h => h.wg == key && h.kind.isOrdw

def Workgroup.snapNow (w : Workgroup) (held : List HeldReq) : Workgroup := { w with snap := ⟨w.bars, w.barsT, w.mig, held⟩ }

/-- The digest of a member's snapshot (R376, R377). -/
def Group.digest (g : Group) : BitVec 64 := Config.snapDigest (g.saveRecord false ++ g.rows)

/-- The snapshots of two members differ. -/
def Group.differs (g t : Group) : Bool := t.c != g.c && t.digest != g.digest

def Group.snapNow (g : Group) (ph : Phase) : Group := { g with snap := some ⟨g.c, g.arr, ph, g.migK⟩, undo := [] }

/-- Both members of every group of the workgroup stand where a commit may be made, and every event was compared equal. -/
def commitReady (s : State) (w : Workgroup) : Bool :=
  (groupsOf s w.key .lead).all fun g =>
    g.atHalt && g.cmp.isEmpty &&
      match groupAt s w.key g.gid .trail with
      | none => false
      | some t => t.atHalt && t.c.icount == g.c.icount && t.c.run.pc == g.c.run.pc && t.phase == g.phase

/-- The entries of one store instruction at the head of a buffer: those of its lanes (R363). -/
def storeRun (es : List BufEnt) : List BufEnt × List BufEnt :=
  match es with
  | [] => ([], [])
  | e :: _ =>
    let n := (lanesOf e.mask).length
    let t := es.take (max n 1)
    let same := t.takeWhile fun x => x.npc == e.npc && x.mask == e.mask
    (same, es.drop same.length)

/-- A buffered store of a checked group is translated by the leading core and performed; while its record finds no place it is not accepted
(R207, R361, R363). -/
def commitChecked (s : State) (w : Workgroup) (g : Group) (es : List BufEnt) : State :=
  match es with
  | [] => s
  | e :: _ =>
    match e.op with
    | .store _ _ _ _ pol scp =>
      let stores := es.filterMap fun x => match x.op with
        | .store l va _ bs _ _ => some (⟨l, va, bs⟩ : WalkLane)
        | _ => none
      let size := stores.foldl (fun m l => max m l.data.length) 0
      let lanes := stores.flatMap fun l => (cutBlocks l.va l.data).map fun x => (⟨l.lane, x.1, x.2⟩ : WalkLane)
      let k : Walk := { core := g.core, wg := w.key, gid := g.gid, npc := e.npc, twin := e.twin,
                        size := if size ≤ 1 then 0 else Nat.log2 size, pol := pol, scp := scp, one := false, stuck := false, lanes := lanes }
      resolveWalk { s with walks := s.walks ++ [k] } k
    | _ => es.foldl (fun s e => commitEntry s w g.core g.gid e) s

def commitChunks (w : Workgroup) (g : Group) : Nat → List BufEnt → State → State
  | 0, _, s => s
  | fuel + 1, es, s =>
    if es.isEmpty then s
    else
      let (a, b) := storeRun es
      let (a, b) := if a.isEmpty then (es.take 1, es.drop 1) else (a, b)
      commitChunks w g fuel b (commitChecked s w g a)

/-- A commit: results land, snapshots are taken and compared, the leading core performs the buffers, the checkpoint id goes up
(R377 steps 2 to 5). -/
def commitWg (s : State) (w : Workgroup) : State :=
  let s1 := mapGroups s fun g => if g.wg = w.key then g.landAll else g
  let gs := groupsOf s1 w.key .lead
  let differ (g : Group) : Bool := match groupAt s1 w.key g.gid .trail with
    | some t => g.differs t
    | none => false
  match gs.find? differ with
  | some g => asGroup s1 w.key g.gid .lead fun s => mismatch s 5 0 0 s.c.npc s.c.twin (s.grp.digest.setWidth 128)
      ((((groupAt s1 w.key g.gid .trail).map Group.digest).getD 0).setWidth 128)
  | none =>
    let s2 := mapGroups s1 fun g => if g.wg = w.key then
      g.snapNow (if g.phase == .stalled .commit then .inRun else g.phase) else g
    let s3 := gs.foldl (fun s g => commitChunks w g (g.cbuf.length + 1) g.cbuf s) s2
    let s4 := homeDrain s3 fun r => r.wg == w.key
    let s5 := mapGroups s4 fun g => if g.wg = w.key then { g with cbuf := [] } else g
    modWg s5 w.key fun w =>
      { w.snapNow (heldOrdws s5 w.key) with ckpt := w.ckpt + 1, ckptAt := s5.fresh, rolls := 0, mism := [],
                                               visible := w.visible || gs.any fun g => !g.cbuf.isEmpty }

/-- The pair of the group at the issue stage is not stopped by a mismatch. -/
def pairRuns (s : State) : Bool := !(s.pairs[myPair s]).stopped

/-- A second snapshot of the group on both members, after its instruction (R377 step 7). -/
def snapBoth (s : State) (wg : Nat) (gid : Fin 16) : State :=
  modWg (mapGroups s fun g => if g.wg = wg && g.gid == gid then (Group.landAll g).snapNow g.phase else g) wg fun w =>
    { w.snapNow (heldOrdws s wg) with ckptAt := s.fresh }

/-- The instruction at a commit point, once the commit is made: it is performed on both members, and a second snapshot follows it where the rule
asks for one (R377 steps 6 and 7). While it waits for a record's place, the trailing member waits with it. -/
def commitDo (s : State) (second : Bool) (k : State → State) : State :=
  let s1 := k s
  if s1.grp.phase = .stalled .buffer then s1
  else
    let s2 := asGroup s1 s.grp.wg s.grp.gid .trail fun t => k (unstall t)
    if second then snapBoth s2 s.grp.wg s.grp.gid else s2

/-- An instruction at a commit point (R377): in an IL2 stage both members stop at it, its event is compared, and the leading
member's commit performs it on both; elsewhere it is performed at once. -/
def commitPoint (s : State) (ev : Option CmpEvent) (second : Bool) (k : State → State) : State :=
  if curIl s ≠ 2 then k s
  else match s.grp.phase with
    | .stalled .commit =>
      if s.grp.role = .trail then s
      else match curWg s with
        | none => s
        | some w =>
          if !commitReady s w then s
          else
            let s1 := commitWg s w
            if !pairRuns s1 then s1 else commitDo (unstall s1) second k
    | .stalled .buffer => if s.grp.role = .trail then s else commitDo s second k
    | _ => match ev with
      | none => stallAt s .commit
      | some e => match compareEvent s e with
        | .go s1 => stallAt s1 .commit
        | .wait s1 => unstall s1

/-- The group's buffer or its undo log is full: a commit is due before its next instruction (R377). -/
def bufferDue (s : State) : Bool :=
  curIl s == 2 && (decide (224 ≤ s.grp.cbuf.length) || decide (224 ≤ s.grp.undo.length))

/-- A commit that no instruction makes: at a full buffer. -/
def commitBare (s : State) : State :=
  if s.grp.phase ≠ .stalled .commit then stallAt s .commit
  else if s.grp.role = .trail then s
  else match curWg s with
    | none => s
    | some w =>
      if !commitReady s w then s
      else
        let s1 := commitWg s w
        if !pairRuns s1 then s1 else asGroup (unstall s1) s.grp.wg s.grp.gid .trail unstall

/-! ### The local undo log (R378) -/

/-- An entry of the undo log for each 8 bytes about to be written, on the member that writes. -/
def logUndo (s : State) (wg : Nat) (off n : Nat) : State :=
  if curIl s ≠ 2 then s
  else match wgOf s wg with
    | none => s
    | some w =>
      let r := s.grp.role
      let ents := if n ≤ 8 then [(⟨wg, off, locRead w r off n, s.fresh⟩ : UndoEnt)]
        else [⟨wg, off + 8, locRead w r (off + 8) (n - 8), s.fresh⟩, ⟨wg, off, locRead w r off 8, s.fresh⟩]
      modG (tick s) fun g => { g with undo := ents ++ g.undo }

/-- The undo logs of a workgroup's groups on one member are undone as one, newest first (R382). -/
def undoLogs (s : State) (key : Nat) (r : Role) : State :=
  (((groupsOf s key r).flatMap (·.undo)).mergeSort fun a b => decide (b.at_ ≤ a.at_)).foldl (fun s u => locWrite s u.wg r u.off u.old) s

/-! ### Decisions, rollback and failure (R381 to R383) -/

/-- Steps 1 and 2 of a rollback for one workgroup (R382). The ordws that the banks held at the checkpoint are held again, for the value of one that
was granted since is gone with the registers; no ticket moves without a commit. Its store-fault records are all of stores that the checkpoint's commit
performed (R207, R363), so none of them is dropped. -/
def rollbackWg (s : State) (key : Nat) : State :=
  let since := ((wgOf s key).map (·.ckptAt)).getD 0
  let held := ((wgOf s key).map (·.snap.held)).getD []
  let s1 := discardPendingFrom (completeTasksFrom (chargeWg s key) key since) key since
  let s2 := undoLogs (undoLogs s1 key .lead) key .trail
  let s3 := modWg { s2 with held := s2.held.filter (fun h => !(h.wg == key && h.kind.isOrdw)) ++ held } key fun w =>
    { w with bars := w.snap.bars, barsT := w.snap.barsT, mig := w.snap.mig }
  mapGroups s3 fun g => if g.wg = key then
    match g.snap with
    | some n => { g with c := n.ctx, arr := n.arr, phase := n.phase, migK := n.migK, cbuf := [], undo := [], cmp := [], fwd := [] }
    | none => { g with cbuf := [], undo := [], cmp := [], fwd := [] }
  else g

/-- The checked workgroups of a pair. -/
def checkedWgs (s : State) (k : Fin 16) : List Nat :=
  (s.wgs.filter fun w => ilOf s w == 2 && pairIx (clusterOf w.core) == k).map (·.key)

/-- A mismatch is permanent (R381). -/
def permanent (s : State) (w : Workgroup) (m : Mismatch) : Bool :=
  let key : MisKey := ⟨m.kind, m.npc, m.lane⟩
  (w.mism.take (w.mism.length - 1)).contains key || decide (s.policy.retry < m.count) || (w.ckpt == 0 && w.visible)

/-- The record of a decided mismatch (R380). -/
def mismatchRecord (s : State) (w : Workgroup) (m : Mismatch) (type : Nat) (extra : Nat) : State :=
  putRecord s (stageDomain s w.ref)
    { Rec.ofWg w { type := type, cause := 0x70 } with
      inner := m.count + extra, fatal := type == 6, npc := m.npc, tpc := m.twin, mask := BitVec.ofNat 32 (2 ^ m.lane),
      group := m.gid.val, aux := m.ckpt.toNat }

end Sys2Proof.Machine
end

