-- ==== Sys2Proof/Machine/MemIns.lean ====
section
/-! DEFINITION. What the memory instructions share: operand sizes (R211), addresses (R210), per-lane faults (R213), the byte by
byte emulation of misaligned accesses (R367), where a store goes (R206, R207, R216), read-modify-writes (R218 to R220). -/
namespace Sys2Proof.Machine

/-- Registers that an operand of a size code names (R211). -/
def szRegs (z : Nat) : Nat := if z ≤ 2 then 1 else if z = 3 then 2 else 4

/-- The lanes in which an instruction acts: the enabled ones, or one for a scalar instruction whose guard lets it execute. -/
def actLanes (c : Ctx) (vec : Bool) : List Lane := if vec then lanesOf c.enabled else if c.goes then [0] else []

/-- The lanes a set of acting lanes stands for: a scalar instruction acts for the whole active mask. -/
def standFor (c : Ctx) (vec : Bool) (ls : List Lane) : Mask :=
  if ls.isEmpty then 0 else if vec then laneMask ls else c.actMask

/-- The data of a store in a lane: its low 2^z bytes (R211). -/
def storeData (c : Ctx) (d z : Nat) (l : Lane) : List Byte :=
  if z ≤ 2 then leBytes (2 ^ z) (c.rd d l).toNat
  else if z = 3 then leBytes 8 (c.rd64 d l).toNat
  else (List.range 4).flatMap fun k => leBytes 4 (c.rd (d + k) l).toNat

/-- A global or screed address (R210). -/
def globalEa (c : Ctx) (a : Nat) (off : Int) (l : Lane) : DWord := c.rd64 a l + BitVec.ofInt 64 off

/-- A local offset (R223, R224). -/
def localEa (c : Ctx) (a : Nat) (off : Int) (l : Lane) : DWord := (c.rd a l + BitVec.ofInt 32 off).setWidth 64

/-- The offset of FM (R40). -/
def Ctx.offFM (c : Ctx) (z : Nat) : Int := sx 11 c.xp.e * (2 ^ z : Nat)

/-- The offset of FLM (R40). -/
def Ctx.offFLM (c : Ctx) (i : BitVec 7) (z : Nat) : Int := c.imm i * (2 ^ z : Nat)

/-- FA: 64-bit operands, and the offset (R40). -/
def Ctx.wideFA (c : Ctx) : Bool := c.xp.e % 2 == 1

def Ctx.offFA (c : Ctx) : Int := sx 10 (c.xp.e / 2) * (if c.wideFA then 8 else 4)

/-- Lanes whose address is not a multiple of the size. -/
def misaligned (ls : List Lane) (ea : Lane → DWord) (n : Nat) : List Lane := ls.filter fun l => (ea l).toNat % n != 0

/-- A scalar instruction whose guard is false does nothing beyond moving the latches (R41); otherwise the instruction acts. -/
def ifGoes (s : State) (vec : Bool) (k : State) : State := if !vec && !s.c.goes then retire s 4 .empty else k

/-! ### Faults -/

/-- A whole-instruction fault of some lanes: the address is that of the lowest (R212, R346). -/
def wholeFault (s : State) (vec : Bool) (cause : BitVec 8) (ls : List Lane) (ea : Lane → DWord) : State :=
  faultAt s 4 cause (standFor s.c vec ls) (ea (ls.headD 0))

/-- A per-lane fault, after the other lanes have acted (R213, R352). -/
def laneFault (s : State) (cause : BitVec 8) (mask : Mask) (addr : DWord) : State :=
  takeFault s { cause := cause, addr := addr, npc := s.c.npc, twin := s.c.twin, mask := mask, perLane := true } (s.c.run.pc + 4)

/-- The outcome of a memory instruction: results by lane, and the lanes that faulted with cause and address. -/
structure LaneOut where
  vals : List (Lane × BitVec 128)
  bad  : List (Lane × BitVec 8 × DWord)

def LaneOut.val (o : LaneOut) (l : Lane) : BitVec 128 := ((o.vals.find? fun x => x.1 == l).map (·.2)).getD 0

/-- The results as they are forwarded to the trailing member (R375). -/
def LaneOut.item (o : LaneOut) (c : Ctx) (vec : Bool) : FwdItem :=
  { vals := Vector.ofFn o.val, fmask := standFor c vec (o.bad.map (·.1)),
    cause := ((o.bad.head?).map (·.2.1)).getD 0, addr := ((o.bad.head?).map (·.2.2)).getD 0 }

/-- A long-latency memory instruction ends (R48, R213): results under way in the lanes that did not fault, then the fault. -/
def finishLoad (s : State) (vec : Bool) (n : Bool) (d nregs : Nat) (lanes : List Lane) (f : FwdItem) (addr : DWord) : State :=
  let good : Mask := (standFor s.c vec lanes) &&& ~~~f.fmask
  if f.fmask = 0 then
    (if n || (!vec && lanes.isEmpty) then retire s 4 .empty
     else finishLong s 4 d nregs (!vec) good (fun l => f.vals[l]) addr)
  else
    let npc := s.c.npc
    let s1 := if n || good = 0 then s
      else modG s fun g => { g with c := g.c.setPend d nregs, arr := g.arr ++ [⟨d, nregs, !vec, good, f.vals, npc, addr, false, false⟩] }
    laneFault s1 f.cause f.fmask f.addr

/-- An instruction without a result ends, with the lanes that faulted precisely (R367). -/
def finishStore (s : State) (vec : Bool) (bad : List (Lane × BitVec 8 × DWord)) : State :=
  match bad with
  | [] => retire s 4 .empty
  | (_, cause, addr) :: _ => laneFault s cause (standFor s.c vec (bad.map (·.1))) addr

/-! ### Loads -/

def bytesVal (bs : List Byte) : BitVec 128 := BitVec.ofNat 128 (leNat bs)

/-- A vector instruction with a scalar base makes one access when its lanes' data are equal, and one access per lane otherwise (R210). -/
def oneAccess (c : Ctx) (a : Nat) (lanes : List Lane) (data : Lane → List Byte) : Bool :=
  !c.isVec a && lanes.all fun l => data l == data (lanes.headD 0)

/-- One load that every lane takes its value from. -/
def loadOnce (s : State) (pol n : Nat) : List (Lane × Nat) → State × List (Lane × BitVec 128)
  | [] => (s, [])
  | (l, pa) :: rest =>
    let (s1, bs) := viewLoad s pol pa n
    (s1, ((l, pa) :: rest).map fun x => (x.1, bytesVal bs))

/-- The lanes that translated load, in increasing order. -/
def loadLanes (s : State) (pol n : Nat) : List (Lane × Nat) → State × List (Lane × BitVec 128)
  | [] => (s, [])
  | (l, pa) :: rest =>
    let (s1, bs) := viewLoad s pol pa n
    let (s2, vs) := loadLanes s1 pol n rest
    (s2, (l, bytesVal bs) :: vs)

/-- One lane of an emulated load: bytes in increasing address order until one faults (R367). -/
def emuLoad (rd : State → DWord → State × Except (BitVec 8) Byte) (ea : DWord) : Nat → Nat → State →
    State × Except (BitVec 8 × DWord) (List Byte)
  | 0, _, s => (s, .ok [])
  | n + 1, k, s =>
    match rd s (ea + BitVec.ofNat 64 k) with
    | (s1, .error c) => (s1, .error (c, ea + BitVec.ofNat 64 k))
    | (s1, .ok b) =>
      match emuLoad rd ea n (k + 1) s1 with
      | (s2, .ok bs) => (s2, .ok (b :: bs))
      | (s2, .error e) => (s2, .error e)

/-- Every lane of an emulated load, in increasing lane order. -/
def emuLoads (rd : State → DWord → State × Except (BitVec 8) Byte) (ea : Lane → DWord) (n : Nat) : List Lane → State →
    State × LaneOut
  | [], s => (s, ⟨[], []⟩)
  | l :: ls, s =>
    let (s1, r) := emuLoad rd (ea l) n 0 s
    let (s2, o) := emuLoads rd ea n ls s1
    match r with
    | .ok bs => (s2, { o with vals := (l, bytesVal bs) :: o.vals })
    | .error (c, a) => (s2, { o with bad := (l, c, a) :: o.bad })

/-- A byte of global memory as an emulated load reads it. -/
def globalByte (pol : Nat) (s : State) (ea : DWord) : State × Except (BitVec 8) Byte :=
  match probe s .load ea with
  | (s1, .error c) => (s1, .error c)
  | (s1, .ok pa) => let (s2, bs) := viewLoad s1 pol pa 1; (s2, .ok (bs.headD 0))

/-! ### Stores -/

/-- A lane's store enters a commit buffer (R206, R207). -/
def bufferStore (s : State) (op : BufOp) (mask : Mask) : State :=
  modG s fun g => { g with cbuf := g.cbuf ++ [⟨op, g.c.npc, g.c.twin, mask⟩] }

/-- A translated global store of a lane leaves for its buffer or its home (R192, R202, R206). -/
def storeOut (s : State) (l : Lane) (pol scp : Nat) (va : DWord) (pa : Nat) (bs : List Byte) (mask : Mask) : State :=
  match curWg s with
  | none => s
  | some w =>
    if ilOf s w = 0 then commitStore s w s.grp.gid (curReq s) pol va pa bs else bufferStore s (.store l va [pa] bs pol scp) mask

/-- One lane of an emulated store (R367). -/
def emuStore (wr : State → DWord → Byte → State × Option (BitVec 8)) (ea : DWord) : Nat → List Byte → State →
    State × Option (BitVec 8 × DWord)
  | _, [], s => (s, none)
  | k, b :: bs, s =>
    match wr s (ea + BitVec.ofNat 64 k) b with
    | (s1, some c) => (s1, some (c, ea + BitVec.ofNat 64 k))
    | (s1, none) => emuStore wr ea (k + 1) bs s1

def emuStores (wr : Lane → State → DWord → Byte → State × Option (BitVec 8)) (ea : Lane → DWord) (data : Lane → List Byte) :
    List Lane → State → State × List (Lane × BitVec 8 × DWord)
  | [], s => (s, [])
  | l :: ls, s =>
    let (s1, r) := emuStore (wr l) (ea l) 0 (data l) s
    let (s2, bad) := emuStores wr ea data ls s1
    match r with
    | none => (s2, bad)
    | some (c, a) => (s2, (l, c, a) :: bad)

def globalPutByte (pol scp : Nat) (mask : Mask) (l : Lane) (s : State) (ea : DWord) (b : Byte) : State × Option (BitVec 8) :=
  match probe s .store ea with
  | (s1, .error c) => (s1, some c)
  | (s1, .ok pa) => (storeOut s1 l pol scp ea pa [b] mask, none)

/-- The pieces of a store that translate, up to the first that does not. -/
def probePieces : List (DWord × List Byte) → State → State × List (Nat × List Byte) × Option (BitVec 8 × DWord)
  | [], s => (s, [], none)
  | (va, bs) :: rest, s =>
    match probe s .store va with
    | (s1, .error c) => (s1, [], some (c, va))
    | (s1, .ok pa) =>
      let (s2, ok, e) := probePieces rest s1
      (s2, (pa, bs) :: ok, e)

/-- What one lane of an emulated store leaves for a buffer: the addresses and bytes before its first fault, and that fault (R367, R372). -/
structure LanePieces where
  lane : Lane
  ok   : List (Nat × List Byte)
  err  : Option (BitVec 8 × DWord)

def LanePieces.bytes (p : LanePieces) : List Byte := p.ok.flatMap (·.2)

def probeLanes (ea : Lane → DWord) (data : Lane → List Byte) : List Lane → State → State × List LanePieces
  | [], s => (s, [])
  | l :: ls, s =>
    let (s1, ok, err) := probePieces (cutBlocks (ea l) (data l)) s
    let (s2, ps) := probeLanes ea data ls s1
    (s2, ⟨l, ok, err⟩ :: ps)

/-- An IL1 workgroup's buffer would overflow: it is aborted instead (R373). -/
def overflows (s : State) (more : Nat) : Bool := curIl s == 1 && decide (poolSize s s.grp.wg < poolUsed s s.grp.wg + more)

/-! ### Read-modify-write (R218 to R220, R226) -/

/-- The store policy whose heddle row an atomic policy follows (R193, R197). -/
def atomicPol (pol : Nat) : Nat := if pol = 2 then 3 else pol

/-- One lane's read-modify-write of a translated word: the old value; in a deterministic partition on the workgroup's own
view, buffered (R203). -/
def rmwWord (s : State) (scr : Bool) (op : Amo) (wide : Bool) (pol : Nat) (va : DWord) (pa x c : Nat) : State × Nat :=
  match curWg s with
  | none => (s, 0)
  | some w =>
    let n := if wide then 8 else 4
    let host := inHost pa
    let s := if host || scr then s else drainLine s (lineOf pa)
    if (part s w.ref.part).det && !host then
      let old := leNat (detView s w pa n)
      let new := op.apply (8 * n) old x c
      let buffered := scr && op != .xchg && op != .cas
      (addDet s w.key s.grp.gid (if buffered then .scrOp va pa op.code wide (BitVec.ofNat 64 x) else .write va pa (leBytes n new)) n,
       old)
    else
      let bs := if host then Memory.read s.hostMem (hostAddr s w.ref.part w.ref.tenant pa) n else devRead s pa n
      let old := leNat bs
      (perform s (curReq s) (atomicPol pol) pa (leBytes n (op.apply (8 * n) old x c)), old)

/-- The lanes that translated, one at a time in increasing lane number (R219). -/
def rmwLanes (scr : Bool) (op : Amo) (wide : Bool) (pol : Nat) (ea : Lane → DWord) (x c : Lane → Nat) :
    List (Lane × Nat) → State → State × List (Lane × BitVec 128)
  | [], s => (s, [])
  | (l, pa) :: rest, s =>
    let (s1, old) := rmwWord s scr op wide pol (ea l) pa (x l) (c l)
    let (s2, vs) := rmwLanes scr op wide pol ea x c rest s1
    (s2, (l, BitVec.ofNat 128 old) :: vs)

/-- An operand of 32 or 64 bits in a lane. -/
def opnd (c : Ctx) (code : Nat) (wide : Bool) (l : Lane) : Nat := if wide then (c.rd64 code l).toNat else (c.rd code l).toNat

/-- An unbuffered atomic was performed, an act visible outside (R374, R381). -/
def noteAtomic (s : State) : State := modWg s s.grp.wg fun w => { w with atomic := true, visible := true }

/-- The compared items of a store or an atomic (R376). -/
def cmpItems (ls : List Lane) (ea : Lane → DWord) (data : Lane → Nat) (n pol scp : Nat) : List CmpItem :=
  ls.map fun l => ⟨l.val, ea l, BitVec.ofNat 128 (data l), BitVec.ofNat 16 (2 ^ n - 1), pol, scp⟩

/-- A release waits (R194) and then the instruction acts; while a faulting store waits for its record the group waits. -/
def afterRelease (s : State) (rel : Bool) (k : State → State) : State :=
  if !rel || trailing s then k s
  else
    let s1 := releaseWait s
    if releaseStuck s1 then stallAt s1 .buffer else k (unstall s1)

/-- The trailing member of a pair takes what the leading one forwarded, or waits for it (R375). -/
def orForward (s : State) (k : State → FwdItem → State) : State :=
  match takeFwd s with
  | none => stallAt s .commit
  | some (s1, f) => k (unstall s1) f

end Sys2Proof.Machine
end

