-- ==== Sys2Proof/Machine/Tasks.lean ====
section
/-! DEFINITION. Task instructions: TASK (R153 to R156, R167, R170). -/
namespace Sys2Proof.Machine

/-- Kicks of a core that are not complete (R153). -/
def coreKicks (s : State) : Nat :=
  (s.wgs.filter (·.core == (((curWg s).map (·.core)).getD 0))).foldl (fun n w => n + w.kicks.length) 0

/-- Bytes of the local-memory allocation of the group's workgroup. -/
def allocation (s : State) : Nat := ((curWg s).map (·.size)).getD 0

/-- Modifiers and C are zero: TASK and BARO honour none (R167, R168). -/
def bareXp (c : Ctx) : Bool := c.xp.c == 127 && c.xp.e == 0

/-- The kick is made once, by the leading member, whose earlier accesses come before it (R154, R170, R377). -/
def kickAct (list n : Nat) (s : State) : State :=
  if s.grp.role = .trail then retire s 4 .empty
  else
    let s1 := releaseWait s
    if releaseStuck s1 then stallAt s1 .buffer
    else
      let s2 := unstall s1
      match curWg s2 with
      | none => s2
      | some w => retire (makeKick s2 w s2.grp.gid list n) 4 .empty

/-- tkick: kicks the list of b records at local offset a. -/
def execTkick (b a : BitVec 7) (s : State) : Out :=
  let c := s.c
  let list := (c.rd a.toNat c.scalarLane).toNat
  let n := (c.rd b.toNat c.scalarLane).toNat
  let addr := BitVec.ofNat 64 list
  .next (issue s { ill := !bareXp c, bad := c.isVec a.toNat || c.isVec b.toNat, srcs := [(a.toNat, 1), (b.toNat, 1)] }
    (if !c.goes then retire s 4 .empty
     else if n = 0 || decide (256 < n) then faultAt s 4 0x02 c.actMask 0
     else if list % 64 != 0 then faultAt s 4 0x10 c.actMask addr
     else if allocation s < list + 64 * n then faultAt s 4 0x15 c.actMask addr
     else if 16 ≤ coreKicks s then stallAt s .kicks
     else commitPoint s none true (kickAct list n)))

/-- tcancel: the kick whose list begins at a; one that is complete or unknown is left (R156). DESIGN CHOICE (assumption 62): of two outstanding kicks
whose lists begin at the same offset the older one is cancelled; and the offset, which is of the workgroup's own local memory, names kicks of the issuing
workgroup, not of another on the core. -/
def execTcancel (a : BitVec 7) (s : State) : Out :=
  let c := s.c
  let list := (c.rd a.toNat c.scalarLane).toNat
  let addr := BitVec.ofNat 64 list
  let hit := (curWg s).bind fun w => w.kicks.find? (·.list == list)
  .next (issue s { ill := !bareXp c, bad := c.isVec a.toNat, srcs := [(a.toNat, 1)] }
    (if !c.goes then retire s 4 .empty
     else if list % 64 != 0 then faultAt s 4 0x10 c.actMask addr
     else if allocation s < list + 64 then faultAt s 4 0x15 c.actMask addr
     else match hit with
       | some k => retire (if s.grp.role = .trail then s else cancelKick s s.grp.wg k.key) 4 .empty
       | none => retire s 4 .empty))

/-- tstat: the STAT word of the record at a, in the group's own local memory; an acquire when it returns done (R170). -/
def execTstat (a : BitVec 7) (n : Bool) (d : BitVec 7) (s : State) : Out :=
  let c := s.c
  let vec := kindVec c n d.toNat [a.toNat]
  let lanes := actLanes c vec
  let ea := localEa c a.toNat 0
  let off := misaligned lanes ea 64
  let out := lanes.filter fun l => decide (allocation s < (ea l).toNat + 64)
  let stat (l : Lane) : Nat := ((curWg s).map fun w => locWord w s.grp.role ((ea l).toNat + 4)).getD 0
  .next (issue s { ill := !bareXp c || (vec && !n && isS d.toNat), srcs := [(a.toNat, 1)], dsts := if n then [] else [(d.toNat, 1)],
                   vec := vec }
    (if !off.isEmpty then wholeFault s vec 0x10 off ea
     else if !out.isEmpty then wholeFault s vec 0x15 out ea
     else
      let done := lanes.any fun l => stat l % 8 == TState.code .done
      let vals := lanes.map fun l => (l, BitVec.ofNat 128 (stat l))
      finishLoad (if done && !trailing s then acquire s 2 else s) vec n d.toNat 1 lanes (LaneOut.item ⟨vals, []⟩ c vec)
        (ea (lanes.headD 0))))

end Sys2Proof.Machine
end

