-- ==== Sys2Proof/Machine/BarrierObj.lean ====
section
/-! DEFINITION. Barrier-object instructions: BARO (R157 to R159, R168, R170). -/
namespace Sys2Proof.Machine

/-- What an instruction does to an object: the object after, and the result. -/
abbrev BarAct := BarObj → BarObj × Word

/-- The lanes act one after the other, in increasing lane order, each on the object as the last one left it. -/
def baroLanes (act : Lane → BarAct) (ea : Lane → DWord) : List Lane → State → State × List (Lane × Word)
  | [], s => (s, [])
  | l :: ls, s =>
    match curWg s with
    | none => (s, [])
    | some w =>
      let off := (ea l).toNat
      let (o, x) := act l (readObj w s.grp.role off)
      let (s1, xs) := baroLanes act ea ls (writeObj s w.key s.grp.role off o)
      (s1, (l, x) :: xs)

/-- The lanes whose object has another phase in a second state. -/
def flippedLanes (before after_ : State) (ea : Lane → DWord) (lanes : List Lane) : List Lane :=
  match curWg before, curWg after_ with
  | some w, some v => lanes.filter fun l =>
      (readObj w before.grp.role (ea l).toNat).phase != (readObj v before.grp.role (ea l).toNat).phase
  | _, _ => []

/-- What a checked pair compares of the phases that a run of actions flips: the STAT words of the tasks that arrived in them, and STATUS (R173,
R376). -/
def flips (before after_ : State) (ea : Lane → DWord) (lanes : List Lane) : List CmpItem :=
  (flippedLanes before after_ ea lanes).flatMap fun l => match curWg after_ with
    | some v => (flipWords v before.grp.role (ea l).toNat).map fun x => ⟨l.val, ea l, BitVec.ofNat 128 x, 0, 0, 0⟩
    | none => []

/-- The arrivals of the phases that are over, of all the lanes' objects when they are made anew. -/
def forgetFlips (before s : State) (anew : Bool) (ea : Lane → DWord) (lanes : List Lane) : State :=
  (if anew then lanes else flippedLanes before s ea lanes).foldl (fun s l => forgetCame s s.grp.wg s.grp.role (ea l).toNat) s

/-- The comparison of the flips that a form is about to make; without one there is nothing to compare. -/
def compareFlips (s : State) (items : List CmpItem) : Cmp := if items.isEmpty then .go s else compareEvent s (mkEvent s 4 items)

def laneWord (xs : List (Lane × Word)) (l : Lane) : Word := ((xs.find? fun x => x.1 == l).map (·.2)).getD 0

/-- A BARO form: its checks in the order operand, alignment, bounds, all before any lane acts, then its actions. `res` is the
destination, if the form has one; `rel` says that the group's earlier accesses come before the actions (R170), `anew` that they make the objects
anew. -/
def baroIns (a : BitVec 7) (srcB : Option (BitVec 7)) (res : Option (Bool × BitVec 7)) (badB : Lane → Bool) (rel anew : Bool)
    (post : List Word → State → State) (act : Lane → BarAct) (s : State) : State :=
  let c := s.c
  let srcs := a.toNat :: (srcB.map (·.toNat)).toList
  let vec := match res with
    | some (n, d) => kindVec c n d.toNat srcs
    | none => srcs.any c.isVec
  let lanes := actLanes c vec
  let ea := localEa c a.toNat 0
  let bad := lanes.filter badB
  let off := misaligned lanes ea 16
  let out := lanes.filter fun l => decide (allocation s < (ea l).toNat + 16)
  let ill := match res with
    | some (n, d) => vec && !n && isS d.toNat
    | none => false
  issue s { ill := !bareXp c || ill, srcs := srcs.map (·, 1),
            dsts := match res with
              | some (false, d) => [(d.toNat, 1)]
              | _ => [],
            vec := vec }
    (if !bad.isEmpty then wholeFault s vec 0x02 bad (fun _ => 0)
     else if !off.isEmpty then wholeFault s vec 0x10 off ea
     else if !out.isEmpty then wholeFault s vec 0x15 out ea
     else afterRelease s (rel && !lanes.isEmpty) fun s => match compareFlips s (flips s (baroLanes act ea lanes s).1 ea lanes) with
      | .wait s1 => s1
      | .go s0 =>
        let s := unstall s0
        let (s1, xs) := baroLanes act ea lanes s
        let s2 := post (xs.map (·.2)) (forgetFlips s s1 anew ea lanes)
        match res with
        | none => retire s2 4 .empty
        | some (n, d) => if vec then finishVec s2 4 n d.toNat c.enabled (laneWord xs) else finishScal s2 4 n d.toNat c.goes (laneWord xs 0))

def BarObj.word0 (b : BarObj) : Word := BitVec.ofNat 32 b.head

/-- What bwait returns while the phase it observes goes on. -/
def waiting : Word := BitVec.allOnes 32

def execBinit (b a : BitVec 7) (s : State) : Out :=
  let c := s.c
  let count := fun l => (c.rd b.toNat l).toNat % 65536
  .next (baroIns a (some b) none (fun l => count l == 0) false true (fun _ s => s)
    (fun l _ => ({ phase := false, inv := false, pend := count l, init := count l, txb := 0, status := 0 }, 0)) s)

def execBarrive (b a : BitVec 7) (n : Bool) (d : BitVec 7) (s : State) : Out :=
  let c := s.c
  .next (baroIns a (some b) (some (n, d)) (fun _ => false) true false (fun _ s => s)
    (fun l o => (((o.addBytes (c.rd b.toNat l)).countArrival).checkFlip, BitVec.ofNat 32 (bit o.phase))) s)

def execBexpect (b a : BitVec 7) (s : State) : Out :=
  let c := s.c
  .next (baroIns a (some b) none (fun _ => false) false false (fun _ s => s) (fun l o => ((o.addBytes (c.rd b.toNat l)).checkFlip, 0)) s)

/-- bwait: never blocks; a lane that gets a status word acquires at device scope (R168, R170). -/
def execBwait (b a : BitVec 7) (n : Bool) (d : BitVec 7) (s : State) : Out :=
  let c := s.c
  .next (baroIns a (some b) (some (n, d)) (fun _ => false) false false
    (fun xs s => if xs.any (· != waiting) && !trailing s then acquire s 2 else s)
    (fun l o => (o, if o.inv || o.phase != (c.rd b.toNat l).getLsbD 0 then o.status else waiting)) s)

def execBtest (a : BitVec 7) (n : Bool) (d : BitVec 7) (s : State) : Out :=
  .next (baroIns a none (some (n, d)) (fun _ => false) false false (fun _ s => s) (fun _ o => (o, o.word0)) s)

def execBinval (a : BitVec 7) (s : State) : Out :=
  .next (baroIns a none none (fun _ => false) false false (fun _ s => s)
    (fun _ o => ({ o with inv := true, status := o.status ||| BitVec.ofNat 32 (2 ^ 12) }, 0)) s)

end Sys2Proof.Machine
end

