-- ==== Sys2Proof/Machine/BitField.lean ====
section
/-! DEFINITION. Bit fields, funnel shifts, address arithmetic, select and multiply-add: IBIT (R102). -/
namespace Sys2Proof.Machine

/-- The field that B gives: its low bit and its length (R102). -/
def fieldPos (b : Word) : Nat := b.toNat % 32

def fieldLen (b : Word) : Nat := min (b.toNat / 256 % 64) 32

def bfx32 (a b : Word) : Word :=
  let x := sarBy a (fieldPos b)
  if fieldLen b = 0 then 0 else BitVec.ofInt 32 (sx (fieldLen b) x.toNat)

def bfxu32 (a b : Word) : Word := BitVec.ofNat 32 (a.toNat / 2 ^ fieldPos b % 2 ^ fieldLen b)

def bfi32 (a b q : Word) : Word :=
  let p := fieldPos b
  let hi := min (p + fieldLen b) 32
  let m := BitVec.ofNat 32 ((2 ^ (hi - p) - 1) * 2 ^ p)
  (q &&& ~~~m) ||| ((a <<< p) &&& m)

def fshl32 (a b q : Word) : Word := (((a ++ q : DWord) <<< (b.toNat % 32))).extractLsb' 32 32

def fshr32 (a b q : Word) : Word := (((a ++ q : DWord) >>> (b.toNat % 32))).extractLsb' 0 32

def execBfx (b a : BitVec 7) (n : Bool) (d : BitVec 7) (s : State) : Out := ins3 noMods (fun _ x y => bfx32 x y) b a n d s

def execBfxu (b a : BitVec 7) (n : Bool) (d : BitVec 7) (s : State) : Out := ins3 noMods (fun _ x y => bfxu32 x y) b a n d s

def execBfi (b a : BitVec 7) (n : Bool) (d : BitVec 7) (s : State) : Out := insQ noMods (fun _ x y q => bfi32 x y q) b a n d s

def execFshl (b a : BitVec 7) (n : Bool) (d : BitVec 7) (s : State) : Out := insQ noMods (fun _ x y q => fshl32 x y q) b a n d s

def execFshr (b a : BitVec 7) (n : Bool) (d : BitVec 7) (s : State) : Out := insQ noMods (fun _ x y q => fshr32 x y q) b a n d s

/-- lea: the shift amount is c[4:0] when C is given and 2 otherwise (R95, R102). -/
def execLea (b a : BitVec 7) (n : Bool) (d : BitVec 7) (s : State) : Out :=
  let x := s.c.xp
  .next (laneIns 4 (!modsLegal x.e noMods) false ([a.toNat, b.toNat] ++ if x.c = 127 then [] else [x.c]) n d.toNat
    (fun c l => c.rd a.toNat l + (c.rd b.toNat l <<< (if x.c = 127 then 2 else (c.rd x.c l).toNat % 32))) s)

/-- sel: by the predicate C, or by p0 (R95). DESIGN CHOICE (assumption 41): the spec names no lane in which a scalar sel reads its predicate; it
is read where a scalar guard is, in the lowest active lane, or in lane 0 in a handler. -/
def execSel (b a : BitVec 7) (n : Bool) (d : BitVec 7) (s : State) : Out :=
  let x := s.c.xp
  let k := if x.c = 127 then 0 else x.c
  .next (laneIns 4 (!modsLegal x.e noMods) (decide (64 ≤ k)) [a.toNat, b.toNat] n d.toNat
    (fun c l => if c.pred k l then c.rd a.toNat l else c.rd b.toNat l) s)

def execImad (b a : BitVec 7) (n : Bool) (d : BitVec 7) (s : State) : Out :=
  insQ intSat (fun m x y q => wrapOrSat m (x.toInt * y.toInt + q.toInt)) b a n d s

end Sys2Proof.Machine
end

