-- ==== Sys2Proof/Machine/Budget.lean ====
section
/-! DEFINITION. Budgets: the charge tick, loans and periods, and the bandwidth period (R239 to R242, R306). -/
namespace Sys2Proof.Machine

/-- CHARGE_TICK (R240): every slot and every running engine is charged for the cycles it was held. -/
def execChargeTick (s : State) : Out := .next (chargeAll s)

/-! ### Loans (R242) -/

/-- Stages below a node, with the resident pipeline that holds each. -/
def stagesBelow (s : State) (rcb : Nat) : List (StageRef × Stage) :=
  s.pipes.flatMap fun p => (p.stages.filter fun st => (chainOf s st.rcb).any (·.rcb == rcb)).map fun st =>
    (⟨p.part, p.tenant, p.index, st.index⟩, st)

/-- A stage has an entry in its queue, a resident workgroup or an incomplete task. -/
def stageBusy (s : State) (r : StageRef) (st : Stage) : Bool :=
  qLen s r st != 0 || s.wgs.any fun w => w.ref == r

def idleNode (s : State) (rcb : Nat) : Bool := !(stagesBelow s rcb).any fun x => stageBusy s x.1 x.2

/-- Whole tokens of a balance. -/
def Node.tokens (n : Node) : Nat := (n.bal / 1200).toNat

/-- The lender that a node would borrow from: an idle sibling with LEND and BUDSET and a positive balance, lowest INDEX first. -/
def lender (s : State) (b : Node) : Option Node :=
  (s.nodes.filter fun n => n.parent == b.parent && n.rcb != b.rcb && n.parent != 0 && n.lend && n.budset && decide (0 < n.bal) &&
    n.tokens != 0 && idleNode s n.rcb).foldl (fun (o : Option Node) n => match o with
      | none => some n
      | some m => if n.index < m.index then some n else some m) none

/-- One loan, if one may be made. DESIGN CHOICE (assumption 58): loans move whole tokens, so a sixteenth of REFILL and the lender's balance are rounded
down, and a lender that holds less than one token is passed over. -/
def loanOnce (s : State) (rcb : Nat) : Option State :=
  match nodeOf s rcb with
  | none => none
  | some b =>
    if !b.budset || decide (0 < b.bal) then none
    else match lender s b with
      | none => none
      | some l =>
        let x := min (b.refill / 16) l.tokens
        if x = 0 || decide (b.refill < b.debt + x) then none
        else
          let s1 := modNode s l.rcb fun n => { n with bal := n.bal - (x * 1200 : Nat) }
          some (modNode s1 rcb fun n => { n with bal := n.bal + (x * 1200 : Nat), debt := n.debt + x, loans := n.loans ++ [(l.rcb, x)] })

/-- Loans until the balance is positive or none can be made; a loan moves at least a sixteenth of REFILL or empties a lender. -/
def borrow (rcb : Nat) : Nat → State → State
  | 0, s => s
  | fuel + 1, s => match loanOnce s rcb with
    | none => s
    | some s1 => borrow rcb fuel s1

/-- Loans for every node of a stage's chain. -/
def borrowFor (s : State) (rcb : Nat) : State := (payers s rcb).foldl (fun s r => borrow r (16 + s.nodes.length) s) s

/-- Every node with BUDSET on a stage's chain has a positive balance (R241); the root never prevents a launch (R18). -/
def budgetOk (s : State) (rcb : Nat) : Bool :=
  (payers s rcb).all fun r => ((nodeOf s r).map fun n => n.parent == 0 || decide (0 < n.bal)).getD false

/-! ### Period boundaries (R239, R241) -/

/-- What a borrower repays at a boundary, and its loans afterwards: oldest first. -/
def repayLoans : Nat → List (Nat × Nat) → List (Nat × Nat) × List (Nat × Nat)
  | _, [] => ([], [])
  | 0, ls => ([], ls)
  | x, (r, owed) :: rest =>
    let y := min x owed
    let (paid, left) := repayLoans (x - y) rest
    ((r, y) :: paid, if y = owed then left else (r, owed - y) :: left)

/-- The repayment of a node: min(DEBT, REFILL / 4). -/
def Node.repay (n : Node) : Nat := if n.budset || n.parent == 0 then min n.debt (n.refill / 4) else 0

def repaidTo (ns : List Node) (rcb : Nat) : Nat :=
  ns.foldl (fun t n => t + (((repayLoans n.repay n.loans).1.filter (·.1 == rcb)).foldl (fun t x => t + x.2) 0)) 0

/-- A node with BUDSET at a boundary. -/
def Node.refilled (ns : List Node) (n : Node) : Node :=
  if n.budset || n.parent == 0 then
    { n with bal := ((n.refill : Int) - n.repay + repaidTo ns n.rcb) * 1200 + min n.bal 0, debt := n.debt - n.repay,
             loans := (repayLoans n.repay n.loans).2 }
  else n

/-- A period boundary: the charges of the period are complete, then repayments, refills, and the counters written to every node's RCB. -/
def refill (s0 : State) : State :=
  let s := chargeAll s0
  let s1 := { s with nodes := s.nodes.map (Node.refilled s.nodes), periods := s.periods + 1 }
  let s2 := s1.nodes.foldl (fun s n => writeCounters s n) s1
  { s2 with nodes := s2.nodes.map fun n => { n with used := 0 } }

/-- PERIOD_BOUNDARY (R239, R241): when a period of 1 ms has ended. -/
def execPeriodBoundary (s : State) : Out := .next (if nextPeriod s ≤ s.now then refill s else s)

/-- BANDWIDTH_PERIOD (R306): the bandwidth shares written take effect. -/
def execBandwidthPeriod (s : State) : Out := .next { s with parts := s.parts.map fun p => { p with bwNow := p.bw } }

end Sys2Proof.Machine
end

