-- ==== Sys2Proof/Machine/QueueOps.lean ====
section
/-! DEFINITION. Stage-queue instructions: QUEUE (R282 to R289). -/
namespace Sys2Proof.Machine

/-- A scalar operand read once. -/
def scal (c : Ctx) (a : BitVec 7) : Nat := (c.rd a.toNat c.scalarLane).toNat

/-- A stage of the group's pipeline by index. -/
def target (s : State) (k : Nat) : Option (StageRef × Stage) :=
  (curWg s).bind fun w => (stageOf s { w.ref with stage := k }).map fun st => ({ w.ref with stage := k }, st)

/-- The instruction waits; one that has reached its commit point keeps that place (R289). -/
def holdAt (s : State) (r : Stall) : State := if s.grp.phase = .stalled .commit then s else stallAt s r

/-- A scalar long-latency result of `n` registers, forwarded to the trailing member. -/
def scalarResult (s : State) (d n : Nat) (x : BitVec 128) : State :=
  let f : FwdItem := { vals := Vector.replicate 32 x, fmask := 0, cause := 0, addr := 0 }
  finishLoad (forward s f) false false d n [0] f 0

/-- The trailing member's result is what the leading one forwarded. -/
def trailResult (s : State) (d n : Nat) : State := orForward s fun s f => finishLoad s false false d n [0] f 0

/-- A compared event of a queue or ticket instruction (R376). -/
def opEvent (s : State) (kind : Nat) (addr : DWord) (data : Nat) : CmpEvent :=
  mkEvent s kind ((List.range 4).map fun i => ⟨i, addr, BitVec.ofNat 128 (data / 2 ^ (128 * i)), 0, 0, 0⟩)

/-- An instruction of an IL1 stage or a deterministic partition that R289 forbids there. -/
def freeOnly (s : State) : Bool := curIl s == 1 || curDet s

/-- A release that the leading member makes: its group's earlier accesses first (R194, R201). -/
def released (s : State) (k : State → State) : State :=
  let s1 := releaseWait s
  if releaseStuck s1 then stallAt s1 .buffer else k (unstall s1)

/-- qpush at its queue, or into a buffer (R285, R289). DESIGN CHOICE (assumption 61): a buffered push adds nothing to the bytes that R250 measures. -/
def pushAct (r : StageRef) (st : Stage) (entry : List Byte) (s : State) : State :=
  let buffered := curIl s = 1 || (curIl s = 2 && curDet s)
  if trailing s then retire (if buffered then bufferStore s (.push r.stage entry) s.c.actMask else s) 4 .empty
  else released s fun s =>
    if buffered then retire (bufferStore s (.push r.stage entry) s.c.actMask) 4 .empty
    else if curDet s then retire (addDet s s.grp.wg s.grp.gid (.push r.stage entry) 0) 4 .empty
    else retire (qPushEntry (touchQueue s r st) r st entry) 4 .empty

def execQpush (b a : BitVec 7) (s : State) : Out :=
  let c := s.c
  let off := scal c b
  let addr := BitVec.ofNat 64 off
  .next (issue s { ill := !bareXp c, bad := c.isVec a.toNat || c.isVec b.toNat, srcs := [(a.toNat, 1), (b.toNat, 1)] }
    (if !c.goes then retire s 4 .empty
     else match target s (scal c a) with
      | none => faultAt s 4 0x02 c.actMask 0
      | some (r, st) =>
        if off % 64 != 0 then faultAt s 4 0x10 c.actMask addr
        else if allocation s < off + 64 then faultAt s 4 0x15 c.actMask addr
        else
          let entry := ((curWg s).map fun w => locRead w s.grp.role off 64).getD []
          let ev := opEvent s 3 (BitVec.ofNat 64 r.stage) (leNat entry)
          if freeOnly s then
            if overflows s 1 then abortIl1 s s.grp.wg true
            else afterRelease s true fun s => match compareEvent s ev with
              | .wait s1 => s1
              | .go s1 => pushAct r st entry (unstall s1)
          else if qFull s r st then holdAt s .queueFull
          else commitPoint s (some ev) true (pushAct r st entry)))

/-- The entry at HEAD, when there is one to take: VOID and malformed entries before it are skipped (R288). -/
def takeEntry (s : State) (r : StageRef) (st : Stage) : State × Option (List Byte) :=
  if qClaim s r st then (s, none)
  else
    let s1 := skipEntries s r st (qLen s r st)
    if qLen s1 r st = 0 then (s1, none) else (qPopHead s1 r st, some (qEntry s1 r st (qHead s1 r st)))

/-- The 64 bytes of an entry as forwarded values, the flag first, and back. -/
def entryFwd (e : Option (List Byte)) : FwdItem :=
  { vals := Vector.ofFn fun l => if l.val = 0 then BitVec.ofNat 128 (bit e.isSome)
      else bytesVal (((e.getD []).drop (16 * (l.val - 1))).take 16), fmask := 0, cause := 0, addr := 0 }

def fwdEntry (f : FwdItem) : List Byte :=
  (leBytes 16 f.vals[1].toNat) ++ (leBytes 16 f.vals[2].toNat) ++ (leBytes 16 f.vals[3].toNat) ++ (leBytes 16 f.vals[4].toNat)

/-- The entry's bytes go to local memory, then D takes the flag. -/
def popLand (d off : Nat) (f : FwdItem) (s : State) : State :=
  let s1 := if f.vals[0] = 0 then s else locWrite s s.grp.wg s.grp.role off (fwdEntry f)
  finishLoad s1 false false d 1 [0] { f with vals := Vector.replicate 32 f.vals[0] } 0

def popAct (d off : Nat) (s : State) : State :=
  if trailing s then orForward s fun s f => popLand d off f s
  else match curWg s with
    | none => s
    | some w => match stageOf s w.ref with
      | none => s
      | some st =>
        let (s1, e) := takeEntry (touchQueue s w.ref st) w.ref st
        let s2 := if e.isSome then acquire s1 2 else s1
        let f := entryFwd e
        popLand d off f (forward (unstall s2) f)

def execQpop (b : BitVec 7) (d : BitVec 7) (s : State) : Out :=
  let c := s.c
  let off := scal c b
  let addr := BitVec.ofNat 64 off
  .next (issue s { ill := !bareXp c || isV d.toNat || freeOnly s, bad := c.isVec b.toNat, srcs := [(b.toNat, 1)], dsts := [(d.toNat, 1)] }
    (if !c.goes then retire s 4 .empty
     else if off % 64 != 0 then faultAt s 4 0x10 c.actMask addr
     else if allocation s < off + 64 then faultAt s 4 0x15 c.actMask addr
     else commitPoint s (some (opEvent s 3 addr 0)) true (popAct d.toNat off)))

/-- The address of a slot (R282, R286). -/
def slotAddr (st : Stage) (i : Nat) : Nat := (st.qbase.toNat + entryOff st.qlog i) % 2 ^ 64

def resAct (r : StageRef) (st : Stage) (d : Nat) (s : State) : State :=
  if trailing s then trailResult s d 2
  else
    let (s1, i) := qReserve (touchQueue (unstall s) r st) r st
    let s2 := modWg s1 s1.grp.wg fun w => { w with resv := w.resv ++ [(r.stage, i)] }
    scalarResult s2 d 2 (BitVec.ofNat 128 (slotAddr st i))

def execQres (a : BitVec 7) (d : BitVec 7) (s : State) : Out :=
  let c := s.c
  .next (issue s { ill := !bareXp c || isV d.toNat || freeOnly s, bad := c.isVec a.toNat, srcs := [(a.toNat, 1)], dsts := [(d.toNat, 2)] }
    (if !c.goes then retire s 4 .empty
     else match target s (scal c a), curWg s with
      | some (r, st), some w =>
        if 16 ≤ w.resv.length && s.grp.phase != .stalled .commit then faultAt s 4 0x02 c.actMask 0
        else if qFull s r st then holdAt s .queueFull
        else commitPoint s (some (opEvent s 3 (BitVec.ofNat 64 r.stage) 0)) true (resAct r st d.toNat)
      | _, _ => faultAt s 4 0x02 c.actMask 0))

/-- The open reservation of the workgroup whose slot has an address. -/
def openSlot (w : Workgroup) (r : StageRef) (st : Stage) (va : Nat) : Option (Nat × Nat) :=
  w.resv.find? fun x => x.1 == r.stage && slotAddr st x.2 == va

def commitAct (r : StageRef) (st : Stage) (x : Nat × Nat) (s : State) : State :=
  if trailing s then retire s 4 .empty
  else released s fun s =>
    retire (qMark (modWg (touchQueue s r st) s.grp.wg fun w => { w with resv := w.resv.erase x }) r st x.2) 4 .empty

def execQcommit (b a : BitVec 7) (s : State) : Out :=
  let c := s.c
  let va := (c.rd64 b.toNat c.scalarLane).toNat
  .next (issue s { ill := !bareXp c || freeOnly s, bad := c.isVec a.toNat || c.isVec b.toNat, srcs := [(a.toNat, 1), (b.toNat, 2)] }
    (if !c.goes then retire s 4 .empty
     else match target s (scal c a), curWg s with
      | some (r, st), some w =>
        (match openSlot w r st va with
          | none => faultAt s 4 0x02 c.actMask 0
          | some x => commitPoint s (some (opEvent s 3 (BitVec.ofNat 64 va) r.stage)) true (commitAct r st x))
      | _, _ => faultAt s 4 0x02 c.actMask 0))

def execQlen (a : BitVec 7) (d : BitVec 7) (s : State) : Out :=
  let c := s.c
  .next (issue s { ill := !bareXp c || isV d.toNat || curDet s, bad := c.isVec a.toNat, srcs := [(a.toNat, 1)], dsts := [(d.toNat, 1)] }
    (if !c.goes then retire s 4 .empty
     else match target s (scal c a) with
      | none => faultAt s 4 0x02 c.actMask 0
      | some (r, st) =>
        if trailing s then trailResult s d.toNat 1 else scalarResult (touchQueue s r st) d.toNat 1 (BitVec.ofNat 128 (qLen s r st))))

end Sys2Proof.Machine
end

