-- ==== Sys2Proof/Machine/Control.lean ====
section
/-! DEFINITION. Control transfers: BRA, CALL and JMP (R267 to R277). Each leaves to the SELV that follows it what is still to be
done there. -/
namespace Sys2Proof.Machine

/-- The fall-through: the address after the SELV that follows the transfer (R269). -/
def Ctx.fall (c : Ctx) : Word := c.run.pc + 8

/-- The lanes that take a transfer: those of the active mask whose condition is true; in a handler lane 0's condition decides
(R269, R353). -/
def Ctx.takers (c : Ctx) (cond : Mask) : Mask :=
  if c.inH then (if cond.getLsbD 0 then 1 else 0) else c.run.act &&& cond

/-- A target passes the test of R268. -/
def targetOk (s : State) (t : Int) : Bool := decide (0 ≤ t) && runEntry s t.toNat

/-- Lanes of the run move: the taking ones to their targets, the others to the fall-through (R269). -/
def moveLanes (c : Ctx) (take : Mask) (tgt : Lane → Word) : Ctx :=
  let all := c.redo.getD c.run.act
  { c with lpc := Vector.ofFn fun l => if take.getLsbD l.val then tgt l else if all.getLsbD l.val then c.fall else c.lpc[l] }

/-- The lowest of the targets that fail. -/
def lowestTarget (tgt : Lane → Int) : List Lane → Int
  | [] => 0
  | l :: ls => ls.foldl (fun m k => min m (tgt k)) (tgt l)

/-- An instruction meets item 1 of R50, or is the 25th of its run: the faults before that of a bad target. -/
def Issue.early (i : Issue) (s : State) : Bool := i.ill || (s.c.inH && (i.vec || !i.hdl)) || decide (24 ≤ s.c.run.pos)

/-- The targets of a transfer are known: the register that holds them, if one does, can be read (assumption 35). -/
def targetsKnown (s : State) (known : Bool) (i : Issue) : Bool :=
  known && i.srcs.all fun u => !srcBad s u && (again s || isT u.1 || !s.c.isPend u.1 u.2)

/-- A transfer to addresses: every target is tested before any lane moves, and before the SELV that must follow, since 0x04 goes before
0x05 (R45, R50); in a handler the handler's own PC moves (R269, R277). A link is written in the taking lanes. -/
def transfer (s : State) (i : Issue) (known : Bool) (m take : Mask) (tgt : Lane → Int) (link : Option Nat) : State :=
  let c := s.c
  let bad := (lanesOf take).filter fun l => !targetOk s (tgt l)
  if !i.early s && targetsKnown s known i && !bad.isEmpty then
    faultAt s 4 0x04 (laneMask bad) (BitVec.ofInt 64 (lowestTarget tgt bad))
  else issueM s { i with xfer := true } m
    (let linked (c : Ctx) : Ctx := match link with
       | some v => c.setV v take fun _ => c.fall
       | none => c
     let dest (l : Lane) : Word := BitVec.ofInt 32 (tgt l)
     retire (modC s fun c0 =>
       if c.inH then { linked c0 with leave := .jump (if take = 0 then c.fall else dest 0) }
       else { moveLanes (linked c0) take dest with leave := .moved }) 4 .empty)

/-- A transfer that names no address and no handler may execute (R277): its taking lanes stand at the fall-through. -/
def pauseIns (s : State) (i : Issue) (f : Ctx → Mask → Ctx) : State :=
  let m := s.c.actMask &&& s.c.guard
  issueM s { i with xfer := true, hdl := false } m
    (retire (modC s fun c => f { moveLanes c (c.takers c.guard) (fun _ => c.fall) with leave := .moved } (c.takers c.guard)) 4 .empty)

/-! ### BRA and CALL -/

/-- The offset in halfwords: OFF17, or 42 bits with an XP (R38, R268). -/
def Ctx.branchOff (c : Ctx) (i : BitVec 17) : Int :=
  match c.xpw with
  | none => i.toInt
  | some w => sx 42 (w.toNat * 2 ^ 17 + i.toNat)

def branchTarget (c : Ctx) (i : BitVec 17) : Int := (c.npc.toNat : Int) + 2 * c.branchOff i

/-- The condition of FB (R270). -/
def branchCond (c : Ctx) (al ng : Bool) (p : BitVec 6) : Mask :=
  if al then BitVec.allOnes 32 else if ng then ~~~(c.predMask p.toNat) else c.predMask p.toNat

def execBra (i : BitVec 17) (l : Bool) (g : Bool) (p : BitVec 6) (s : State) : Out :=
  let c := s.c
  .next (transfer s {} true c.actMask (c.takers (branchCond c l g p)) (fun _ => branchTarget c i) none)

def execCall (i : BitVec 17) (l : Bool) (g : Bool) (p : BitVec 6) (s : State) : Out :=
  let c := s.c
  .next (transfer s { dsts := [(95, 1)] } true c.actMask (c.takers (branchCond c l g p)) (fun _ => branchTarget c i) (some 95))

/-! ### JMP -/

/-- A register operand of a transfer in a lane; in a handler, in lane 0. -/
def jumpReg (c : Ctx) (a : BitVec 7) (l : Lane) : Int := ((c.rd a.toNat l).toNat : Int)

def execJmps (a : BitVec 7) (s : State) : Out :=
  let c := s.c
  .next (transfer s { ill := c.xp.c != 127 || c.xp.e != 0, bad := c.isVec a.toNat, srcs := [(a.toNat, 1)] }
    (!c.isVec a.toNat) (c.actMask &&& c.guard) (c.takers c.guard) (jumpReg c a) none)

def execCalls (a : BitVec 7) (s : State) : Out :=
  let c := s.c
  let link := if c.xp.c = 127 then 95 else c.xp.c
  .next (transfer s { ill := c.xp.e != 0, bad := c.isVec a.toNat || !isV link, srcs := [(a.toNat, 1)], dsts := [(link, 1)] }
    (!c.isVec a.toNat) (c.actMask &&& c.guard) (c.takers c.guard) (jumpReg c a) (some link))

def execRet (a : BitVec 7) (s : State) : Out :=
  let c := s.c
  .next (transfer s { ill := c.xp.c != 127 || c.xp.e != 0, srcs := [(a.toNat, 1)] } true (c.actMask &&& c.guard)
    (c.takers c.guard) (jumpReg c a) none)

/-- exit: an exited lane keeps its lpc (R272). -/
def execExit (s : State) : Out :=
  let c := s.c
  let lpcs := c.lpc
  .next (pauseIns s { ill := c.xp.c != 127 || c.xp.e != 0 } fun c take =>
    { c with exitM := c.exitM ||| take, lpc := Vector.ofFn fun l => if take.getLsbD l.val then lpcs[l] else c.lpc[l] })

def execKnot (s : State) : Out :=
  let c := s.c
  .next (pauseIns s { ill := c.xp.c != 127 || c.xp.e != 0 } fun c take => { c with waitM := c.waitM ||| take })

/-- bar n: the lanes wait with their barrier number and the count that A gives (R274). -/
def execBar (b a : BitVec 7) (s : State) : Out :=
  let c := s.c
  let x := c.rd a.toNat (lowest c.run.act)
  .next (pauseIns s { ill := c.xp.c != 127 || c.xp.e != 0 || decide (15 < b.toNat), bad := c.isVec a.toNat, srcs := [(a.toNat, 1)] }
    fun c take =>
      { c with waitM := c.waitM ||| take, barM := c.barM ||| take,
               barN := Vector.ofFn fun l => if take.getLsbD l.val then BitVec.ofNat 4 b.toNat else c.barN[l],
               barA := Vector.ofFn fun l => if take.getLsbD l.val then x else c.barA[l] })

/-- yield: the taking lanes go to the fall-through and the group gives way after the run (R276). -/
def execYield (s : State) : Out :=
  let c := s.c
  .next (pauseIns s { ill := c.xp.c != 127 || c.xp.e != 0 } fun c take => if take = 0 then c else { c with leave := .yielded })

/-- nop: nothing but the latches; it is no control transfer (R276). -/
def execNop (s : State) : Out :=
  .next (issue s { ill := s.c.xp.c != 127 || s.c.xp.e != 0 } (retire s 4 .empty))

end Sys2Proof.Machine
end

