-- ==== Sys2Proof/Machine/Mig.lean ====
section
/-! DEFINITION. Migration as groups see it: MIG, the arrival of a group at its attempt and the attempt's answers (R259, R260,
R262, R294 to R296). -/
namespace Sys2Proof.Machine

/-- Record n of the pick table of the running image for the workgroup's stage (R294). -/
def pickRec (s : State) (w : Workgroup) (n : Nat) : Option PickRec :=
  (pipeOf s w.ref).bind fun p => p.picks.find? fun r => r.cls == w.cls && r.n == n && r.stage == w.ref.stage

/-- mig: every lane of the active mask waits at record n's PC in this image (R295), which is tested as any target is (R45, R46). -/
def migIns (cls : CoreClass) (i d : BitVec 7) (s : State) : Out :=
  let c := s.c
  let n := c.imm i
  let npc := c.npc
  let pick := (curWg s).bind fun w => pickRec s w n.toNat
  let i : Issue := { ill := c.xp.c != 127 || c.xp.g != 127 || decide (n < 0) || isV d.toNat, bad := pick.isNone, xfer := true,
                     dsts := [(d.toNat, 1)], hdl := false }
  let off := pick.filter fun p => !runEntry s p.pc.toNat
  .next (match if i.early s then none else off with
  | some p => faultAt s 4 0x04 c.actMask (p.pc.setWidth 64)
  | none => issueM s i c.actMask
    (retire (modC s fun c =>
      let all := c.redo.getD c.run.act
      let pc := (pick.map (·.pc)).getD 0
      { c with waitM := c.waitM ||| c.run.act, migM := c.migM ||| c.run.act, leave := .moved,
               lpc := Vector.ofFn fun l => if c.run.act.getLsbD l.val then pc else if all.getLsbD l.val then c.fall else c.lpc[l],
               migW := Vector.ofFn fun l => if c.run.act.getLsbD l.val then ⟨n.toNat, cls, d.toNat, npc⟩ else c.migW[l] }) 4 .empty))

def execMigShuttle (i : BitVec 7) (d : BitVec 7) (s : State) : Out := migIns .shuttle i d s

def execMigBeam (i : BitVec 7) (d : BitVec 7) (s : State) : Out := migIns .beam i d s

/-! ### Attempts -/

/-- What the lanes waiting at a mig named. -/
def Ctx.migTerms (c : Ctx) : List MigWait := (lanesOf c.migM).map fun l => c.migW[l]

/-- The terms of a group: those of its lowest waiting lane. -/
def Ctx.migTerm (c : Ctx) : MigWait := (c.migTerms).headD ⟨0, .shuttle, 96, 0⟩

/-- The group disagrees by itself: different terms, or lanes still waiting at a knot or bar (R259, R295). -/
def Ctx.migDisagrees (c : Ctx) : Bool :=
  (c.migTerms).any (fun t => t.pick != c.migTerm.pick || t.cls != c.migTerm.cls || t.dst != c.migTerm.dst) ||
  c.waitM &&& ~~~c.migM != 0

/-- The group receives its result: every named destination is written, its waiting lanes go on, its twin PC is the pick point's
(R260, R262, R296). -/
def Ctx.migResult (c : Ctx) (twin : Word) (res : Bool) : Ctx :=
  let c1 := (c.migTerms).foldl (fun (c : Ctx) t => if isS t.dst then c.setS (t.dst - 96) (BitVec.ofNat 32 (bit res)) else c) c
  { c1.releaseLanes c.migM with twin := twin }

/-- The twin PC once pick point n is passed in the running image (R262). -/
def twinAt (s : State) (w : Workgroup) (n : Nat) : Word :=
  match pickRec s w n, stageOf s w.ref with
  | some r, some st => if st.entryPc (otherClass w.cls) = BitVec.allOnes 32 then BitVec.allOnes 32 else r.other
  | _, _ => BitVec.allOnes 32

/-- A group's answer. -/
def migAnswer (s : State) (w : Workgroup) (gid : Fin 16) (r : Role) (res : Bool) : State :=
  modGroup s w.key gid r fun g => { g with c := g.c.migResult (twinAt s w g.c.migTerm.pick) res }

def modAttempt (s : State) (key k : Nat) (f : MigAttempt → MigAttempt) : State :=
  modWg s key fun w => { w with mig := w.mig.map fun a => if a.k = k then f a else a }

/-- The open attempt of a workgroup, if any. -/
def Workgroup.openMig (w : Workgroup) : Option MigAttempt := w.mig.find? (·.st == .opened)

/-- The open attempt is refused: every group that has arrived receives 0 and continues (R260). -/
def refuseOpen (s : State) (key : Nat) : State :=
  match wgOf s key with
  | none => s
  | some w => match w.openMig with
    | none => s
    | some a =>
      let s1 := modAttempt s key a.k fun a => { a with st := .refused }
      a.arrived.foldl (fun s g => migAnswer s w g .lead false) s1

/-- Attempts that every group has passed are forgotten. -/
def dropAttempts (s : State) (key : Nat) : State :=
  let gs := (groupsOf s key .lead).filter fun g => !g.ended
  let keep (a : MigAttempt) : Bool :=
    match a.st with
    | .opened => true
    | .granted _ => true
    | _ => gs.any fun g => decide (g.migK ≤ a.k)
  modWg s key fun w => { w with mig := w.mig.filter keep }

/-- A store-fault record is delivered: it refuses an open attempt of its workgroup (R260, R362). -/
def deliverRecord (s : State) (e : SfEnt) (npc : Word) : State :=
  noteRecord (takeFault (dropSf (refuseOpen s s.grp.wg) e) (sfFault e npc true) 0) e

/-- The group's conditions against its attempt (R259, R260): parked lanes, a record that its own drain found, a checked pair, disagreement, a
masked feature, a missing image. -/
def migRefused (s : State) (w : Workgroup) (a : MigAttempt) : Bool :=
  let c := s.c
  let other := a.cls != w.cls
  let both := ((stageOf s w.ref).map fun st => st.sentry != BitVec.allOnes 32 && st.bentry != BitVec.allOnes 32).getD false
  c.parkM != 0 || s.grp.migSf || c.migDisagrees || c.migTerm.pick != a.pick || c.migTerm.cls != a.cls ||
  (other && (ilOf s w == 2 || !both || !featureFor s w.ref.part 2))

/-- Writing the result to every destination that the group's migs named; its lanes still wait (R261 step 1). -/
def Ctx.migWrite (c : Ctx) (res : Bool) : Ctx :=
  (c.migTerms).foldl (fun (c : Ctx) t => if isS t.dst then c.setS (t.dst - 96) (BitVec.ofNat 32 (bit res)) else c) c

/-- A mig that is answered at its arrival: D written, the lanes on their way, the answer forwarded to a trailing member. -/
def migGive (s : State) (w : Workgroup) (res : Bool) : State :=
  let f : FwdItem := { vals := Vector.replicate 32 (BitVec.ofNat 128 (bit res)), fmask := 0, cause := 0, addr := 0 }
  let s1 := modG s fun g => { g with migK := g.migK + 1, migSf := false, c := { g.c with arrM := g.c.arrM ||| g.c.migM } }
  migAnswer (forward s1 f) w s.grp.gid .lead res

/-- The group is granted its own class: D is 1 at once (R260), and it goes on, ordered as R296 says, once the kicks of its workgroup are complete
(R172; assumption 49). -/
def migStay (s : State) (w : Workgroup) : State :=
  if !w.kicks.isEmpty then modC s fun c => c.migWrite true else migGive (acquire s 2) w true

/-- The group's arrival at its attempt, once its stores are drained (R259, R260). -/
def migCount (s : State) (w : Workgroup) (a : MigAttempt) : State :=
  let me := s.grp.gid
  let joined (st : MigState) : State := modAttempt s w.key a.k fun a => { a with arrived := a.arrived ++ [me], st := st }
  let refused := migRefused s w a
  let s2 := match a.st with
    | .opened =>
      if refused then migGive (refuseOpen s w.key) w false
      else if a.cls = w.cls then migStay (joined .stay) w
      else modG (joined .opened) fun g => { g with migK := g.migK + 1, migSf := false, c := { g.c with arrM := g.c.arrM ||| g.c.migM } }
    | .stay => if refused then migGive s w false else migStay (joined .stay) w
    | _ => migGive s w false
  dropAttempts s2 w.key

/-- The group has been granted its own class, and goes on once the kicks of its workgroup are complete. -/
def migGranted (w : Workgroup) (g : Group) : Bool := w.mig.any fun a => a.k == g.migK && a.st == .stay && a.arrived.contains g.gid

/-- A group whose lanes at a mig would be released arrives at its attempt (R236, R259, R260): its stores are drained first, and
a record found there is delivered with the mig's native PC. -/
def migArrive (s : State) : State :=
  match curWg s with
  | none => s
  | some w =>
    if trailing s then
      match takeFwd s with
      | none => s
      | some (s1, f) => migAnswer (modG s1 fun g => { g with migK := g.migK + 1 }) w s.grp.gid .trail (f.vals[0] != 0)
    else if migGranted w s.grp then (if w.kicks.isEmpty then dropAttempts (migGive (acquire (settleWg s w.key) 2) w true) w.key else s)
    else
      let k := s.grp.migK
      let t := s.c.migTerm
      let s1 := if w.mig.any (·.k == k) then s
        else modWg s w.key fun w => { w with mig := w.mig ++ [⟨k, t.pick, t.cls, [], s.now, .opened⟩] }
      let s2 := if t.cls = w.cls then settleWg (releaseWait s1) w.key else releaseWait s1
      if releaseStuck s2 then s2
      else match nextSf s2 with
        | some e => deliverRecord (modG s2 fun g => { g with migSf := true }) e t.npc
        | none => match (wgOf s2 w.key).bind fun w => w.mig.find? (·.k == k) with
          | none => s2
          | some a => migCount s2 w a

end Sys2Proof.Machine
end

