-- ==== Sys2Proof/Machine/Run.lean ====
section
/-! DEFINITION. Runs: XP and SELV, the boundary between runs, the release of waiting lanes and the choice of the next group
(R38, R43 to R49, R234 to R238, R274, R353, R356, R362, R371). -/
namespace Sys2Proof.Machine

/-- XP (R38): its payload waits for the instruction that follows, with which it counts as one: the faults of R50 are those of the pair and
are found there. An XP before an XP is illegal. -/
def execXp (p : BitVec 25) (s : State) : Out :=
  .next (if s.c.xpw.isSome then faultAt s 4 0x01 s.c.actMask 0
    else modC s fun c => { c with xpw := some p, run := { c.run with pc := c.run.pc + 4 } })

/-! ### Choosing the next group (R238) -/

/-- Priority class of a group's stage, 1 CRIT to 4 BULK. -/
def groupPrio (s : State) (g : Group) : Nat := (((wgOf s g.wg).bind fun w => stageOf s w.ref).map (·.prio)).getD 4

/-- The group may be given its next run: it stands between runs with a live lane or in its handler, and is not halted. -/
def readyGroup (g : Group) : Bool := g.phase == .between && !g.halted && (g.c.live != 0 || g.c.inH)

/-- g goes before h: higher class, then longer waiting, then lower slot. -/
def before (s : State) (g h : Group) : Bool :=
  let a := groupPrio s g
  let b := groupPrio s h
  decide (a < b) || (a == b && (decide (g.stamp < h.stamp) || (g.stamp == h.stamp && decide (g.slot < h.slot))))

def firstOf (s : State) : List Group → Option Group
  | [] => none
  | g :: gs => match firstOf s gs with
    | none => some g
    | some h => if before s h g then some h else some g

/-- The core turns to the group that R238 chooses among those ready on it, if any; after a yield the others come first (R276). -/
def chooseGroup (s0 : State) (yielded : Bool) : State :=
  let s := if yielded then modG s0 fun g => { g with gave := true } else s0
  let ready := (allGroups s).filter fun g => g.core == s.grp.core && readyGroup g
  let others := ready.filter fun g => !g.is s.grp.wg s.grp.gid s.grp.role
  match firstOf s (if yielded && !others.isEmpty then others else ready) with
  | none => s
  | some g => focus s g.wg g.gid g.role

/-! ### Waiting lanes (R236, R274) -/

/-- The lowest continuation of a set of lanes. -/
def lowestLpc (c : Ctx) (m : Mask) : Word :=
  (lanesOf m).foldl (fun (b : Word) l => if (c.lpc[l]).toNat < b.toNat then c.lpc[l] else b) (c.lpc[lowest m])

def lanesAt (c : Ctx) (m : Mask) (pc : Word) : Mask := maskOf fun l => m.getLsbD l.val && c.lpc[l] == pc

/-- The group arrives at the barrier of the lanes that would be released (R274), its earlier accesses first (R275). DESIGN CHOICE (assumption 59): of
lanes that read A in different runs, and arrive together, the lowest one's A counts. -/
def barArrive (s0 : State) (lanes : Mask) : State :=
  let s := if trailing s0 then s0 else releaseWait s0
  let c := s.c
  let l := lowest lanes
  let n : Fin 16 := (c.barN[l]).toFin
  let a := (c.barA[l]).toNat
  let s1 := modC s fun c => { c with arrM := c.arrM ||| lanes }
  let s2 := modWg s1 s.grp.wg fun w =>
    let b := (barsOf w s.grp.role)[n]
    setBars w s.grp.role ((barsOf w s.grp.role).set n
      ⟨true, if b.opened then b.expected else a, b.arrived ++ [s.grp.gid]⟩)
  if releaseStuck s && !trailing s then s else barCheck s2 s.grp.wg s.grp.role n

/-- No lane is live or waiting: the group ends, with a record when lanes are parked (R235). -/
def endIdle (s : State) : State :=
  let c := s.c
  if c.parkM = 0 then endGroup s
  else endGroup (ownRecord s
    { type := 1, cause := c.fCause.toNat, addr := c.fAddr.toNat, npc := c.lpc[lowest c.parkM], tpc := c.twin, mask := c.parkM })

/-- The waiting lanes of the lowest continuation, which are to be released (R236). -/
def Ctx.due (c : Ctx) : Mask := lanesAt c c.waitM (lowestLpc c c.waitM)

/-- The group stands between runs with no live lane and has a release, an arrival or its end to make (R235, R236). -/
def unsettled (g : Group) : Bool :=
  g.phase == .between && g.c.live == 0 && !g.c.inH && (g.c.waitM == 0 || g.c.due &&& ~~~g.c.arrM != 0)

/-- An arrival that the group of a checked workgroup is to make orders buffered stores before what follows it, so that a commit comes first: its own
before a bar, its workgroup's before a mig to its own class (R207, R275, R296; DEDUCED, assumption 60). -/
def needsCommit (s : State) (g : Group) : Bool :=
  match wgOf s g.wg with
  | none => false
  | some w =>
    let due := g.c.due &&& ~~~g.c.arrM
    ilOf s w == 2 && ((due &&& g.c.barM != 0 && !g.cbuf.isEmpty) ||
      (due &&& g.c.migM != 0 && g.c.migTerm.cls == w.cls && (groupsOf s w.key .lead).any fun x => !x.cbuf.isEmpty))

/-- Waiting lanes of the lowest continuation are released, or the group arrives at their barrier or attempt (R236). -/
def settleLanes (s : State) : State :=
  let low := s.c.due
  let s1 := modC s fun c => c.releaseLanes (low &&& ~~~c.barM &&& ~~~c.migM)
  let bars := low &&& s.c.barM
  let s2 := if bars &&& ~~~s.c.arrM = 0 then s1 else barArrive s1 bars
  if low &&& s.c.migM &&& ~~~s.c.arrM = 0 then s2 else migArrive s2

/-- A group with no live lane: its waiting lanes of the lowest continuation are released, or it arrives at their barrier or
attempt, or it ends (R235, R236). A trailing member arrives when its leading one has. -/
def settleGroup (s : State) : State :=
  let c := s.c
  if s.grp.ended || c.inH || c.live != 0 then s
  else if c.waitM = 0 then endIdle s
  else if trailing s then (if ((partner s).map unsettled).getD true then s else settleLanes s)
  else if needsCommit s s.grp then
    match curWg s with
    | none => s
    | some w =>
      if !commitReady s w then s
      else
        let s1 := commitWg s w
        if pairRuns s1 then settleLanes s1 else s1
  else settleLanes s

/-! ### The beginning of a run (R235, R237, R362) -/

/-- Live lanes that have starved (R237). -/
def starved (c : Ctx) : Mask := maskOf fun l => c.live.getLsbD l.val && decide (4096 ≤ c.starve[l])

/-- The issue address of the next run. -/
def issueAddr (c : Ctx) : Word := lowestLpc c (if starved c = 0 then c.live else starved c)

/-- The next run of the group begins; a store-fault record is delivered first, in place of the run (R362). -/
def beginRun (s : State) : State :=
  if s.c.inH then
    modG s fun g => { g with phase := .inRun, c := { g.c with run := { Run.none with on := true, pc := g.c.run.pc, act := g.c.frame.mask } } }
  else if s.c.live = 0 then settleGroup s
  else match nextSf s with
    | some e => deliverRecord s e e.npc
    | none => modG s fun g =>
      let pc := issueAddr g.c
      let act := lanesAt g.c g.c.live pc
      { g with phase := .inRun,
               c := { g.c with run := { Run.none with on := true, pc := pc, act := act },
                               starve := Vector.ofFn fun l => if act.getLsbD l.val then 0 else g.c.starve[l] } }

/-! ### The end of a run -/

/-- The run is closed: latches are lost, the group stands between runs and has had its turn (R43, R49, R238). -/
def closeRun (s : State) (pc : Word) : State :=
  modG (tick s) fun g =>
    { g with phase := .between, stamp := s.fresh,
             c := { g.c with run := { Run.none with pc := pc }, xpw := none, redo := none, leave := .none } }

/-- The boundary after a run (R235, R236, R238). -/
def boundary (s : State) (yielded : Bool) : State := chooseGroup (settleGroup s) yielded

/-- rett end (R371): the group ends with a record of type 1. -/
def rettEnds (s : State) : State :=
  let f := s.c.frame
  endGroup (ownRecord (modG s Group.landAll) { type := 1, cause := f.cause.toNat, addr := f.addr.toNat, npc := f.npc, tpc := f.twin,
                                               mask := f.mask })

/-- A store-fault record pending at rett is delivered in place of resuming: the frame keeps the interrupted run and takes the
record's cause, address, PCs and mask (R356, R362). -/
def redeliver (s : State) (e : SfEnt) : State :=
  let s1 := noteRecord (dropSf (refuseOpen s s.grp.wg) e) e
  let f := sfFault e e.npc false
  match handlerOf s1 with
  | none => rettEnds s1
  | some r => modG s1 fun g =>
    { g with phase := .inRun,
             c := { g.c with frame := { g.c.frame with cause := f.cause, addr := f.addr, npc := f.npc, twin := f.twin, mask := f.mask,
                                                       imprecise := true },
                             fCause := f.cause, fAddr := f.addr, leave := .none, xpw := none,
                             run := { Run.none with on := true, pc := r.pc, act := f.mask } } }

/-- rett, mode 0 (R356). -/
def rettResumes (s : State) : State :=
  if rettBad s then doubleFault s 0x04 0
  else
    let s1 := modC s restoreFrame
    match nextSf s1 with
    | some e => redeliver s1 e
    | none =>
      if !s1.c.shadow.on || resumedLanes s1.c = 0 then
        boundary (closeRun (modC s1 fun c => { c with inH := false, frameOn := false, shadow := Run.none }) 0) false
      else modC s1 fun c => { resumeRun c with leave := .none, xpw := none }

/-! ### SELV (R45, R47, R48) -/

/-- A SELV's named registers: W0 to W(NW-1), s0 having no effect. -/
def selvNames (n : BitVec 2) (c b a : BitVec 7) : List Nat :=
  (([a.toNat, b.toNat, c.toNat]).take n.toNat).filter (· != 96)

/-- A register lies in a result that begins with u.1 and has u.2 registers. -/
def covers (u : Nat × Nat) (r : Nat) : Bool := decide (u.1 ≤ r ∧ r < u.1 + u.2)

/-- A named register has not been written, on this member or on the other of its pair: its result is under way, or its request is held at a bank. -/
def unwritten (s : State) (r : Nat) : Bool :=
  (s.grp.arr ++ ((partner s).map (·.arr)).getD []).any (fun x => covers (x.reg, x.nregs) r) ||
  s.held.any fun h => h.wg == s.grp.wg && match h.kind with
    | .ordw gid dst => gid == s.grp.gid && dst == r
    | _ => false

/-- The pending registers once a SELV that names r completes: a result that begins with r is pending no more, nor is r itself. -/
def clearPend (p : List (Nat × Nat)) (r : Nat) : List (Nat × Nat) := p.filter fun u => u.1 != r && u.2 != r

/-- The errors that the named registers carry (R366). -/
def marksOf (s : State) (names : List Nat) : List EccMark := s.c.eccs.filter fun m => names.contains m.reg

/-- The comparison of a control transfer's outcome (R376): the lpc vector and the masks, found at the SELV that follows it; its native PC is the
transfer's (R380). -/
def transferEvent (s : State) : CmpEvent :=
  { mkEvent s 2 [] with npc := s.c.lastNpc, lpcs := s.c.lpc.toList, exitM := s.c.exitM, waitM := s.c.waitM }

/-- What the SELV carries out, once nothing is awaited: what its control transfer left, or the way on for the run's lanes; then
the boundary. -/
def selvEnds (s : State) : State :=
  let c := s.c
  let next := c.run.pc + 4
  match c.leave with
  | .none =>
    if c.inH then boundary (closeRun s next) false
    else boundary (closeRun (modC s fun c => { c with lpc := Vector.ofFn fun l => if c.run.act.getLsbD l.val then next else c.lpc[l] }) 0) false
  | .moved => boundary (closeRun s 0) false
  | .yielded => boundary (closeRun s 0) true
  | .jump pc => boundary (closeRun s pc) false
  | .after cause addr npc mask =>
    takeFault (closeRun s 0) { cause := cause, addr := addr, npc := npc, twin := c.twin, mask := mask, after := true, noRun := true } 0
  | .rett fin => if fin then rettEnds s else rettResumes s

/-- The errors carried by the registers named: an IL1 workgroup is aborted; otherwise the group, at the run entry after the
SELV, takes cause 0x60 with the reading instruction's native PC (R366, R374). -/
def selvErrors (marks : List EccMark) (s : State) : State :=
  match marks with
  | [] => s
  | m :: _ =>
    if curIl s = 1 then abortIl1 s s.grp.wg false
    else if s.grp.ended then s
    else takeFault s { cause := 0x60, addr := m.addr, npc := m.npc, twin := s.c.twin, mask := s.c.run.act, noRun := true } 0

/-- SELV: closes the run. Y marks a switch point that the order of R238 makes in any case. It waits for the registers it names (R48); a control transfer's outcome is compared (R376). -/
def execSelv (_y : Bool) (n : BitVec 2) (c b a : BitVec 7) (s : State) : Out :=
  let names := selvNames n c b a
  .next (if s.c.xpw.isSome || names.any isT then faultAt s 4 0x01 s.c.actMask 0
    else if names.any fun r => regBad s r 1 then faultAt s 4 0x02 s.c.actMask 0
    else if names.any (unwritten s) then stallAt s .selv
    else
      let s0 := unstall s
      match (if s0.c.leave = .none then Cmp.go s0 else compareEvent s0 (transferEvent s0)) with
      | .wait s1 => s1
      | .go s1 =>
        let marks := marksOf s1 names
        let act := s1.c.run.act
        let s2 := modC s1 fun c => { c with pend := names.foldl clearPend c.pend, eccs := c.eccs.filter fun m => !names.contains m.reg }
        if marks.isEmpty then selvEnds s2
        else
          let s3 := selvEnds s2
          asGroup s3 s.grp.wg s.grp.gid s.grp.role fun s => selvErrors marks (modC s fun c => { c with run := { c.run with act := act } }))

end Sys2Proof.Machine
end

