-- ==== Sys2Proof/Machine/Issue.lean ====
section
/-! DEFINITION. Which group issues next, and the placing of a program: the parts of a step that stand before exec (R238, R253,
R375). -/
namespace Sys2Proof.Machine

/-- Where a group stands, and which of its lanes wait: what an instruction or a settling of its lanes moves. -/
structure Mark where
  icount : Word
  pc     : Word
  on     : Bool
  inH    : Bool
  xpw    : Bool
  phase  : Phase
  exitM  : Mask
  waitM  : Mask
  arrM   : Mask
  migK   : Nat
deriving DecidableEq, Repr

def Group.mark (g : Group) : Mark :=
  ⟨g.c.icount, g.c.run.pc, g.c.run.on, g.c.inH, g.c.xpw.isSome, g.phase, g.c.exitM, g.c.waitM, g.c.arrM, g.migK⟩

/-- The group on a member of its pair moved between two states. -/
def moved (s t : State) (g : Group) (r : Role) : Bool :=
  (groupAt s g.wg g.gid r).map Group.mark != (groupAt t g.wg g.gid r).map Group.mark

/-- A leading group has taken a step that its trailing one is to follow (R375): it moved, the trailing one did not move with it, and it does not wait
at an instruction that has not yet been performed. -/
def follows (s t : State) (g : Group) : Bool :=
  (groupAt t g.wg g.gid .trail).isSome && !(t.pairs[pairIx (clusterOf g.core)]).stopped && moved s t g .lead && !moved s t g .trail &&
    ((groupAt t g.wg g.gid .lead).map (·.phase)) != some (.stalled .buffer)

/-- The pair that runs a checked workgroup is stopped by a mismatch (R379). -/
def stoppedPair (s : State) (g : Group) : Bool := (s.pairs[pairIx (clusterOf g.core)]).stopped

/-- A commit of the workgroup is waited for: a group of it stands at a commit point (R377). -/
def commitDue (s : State) (key : Nat) : Bool := (groupsOf s key .lead).any fun g => g.phase == .stalled .commit

/-- A checked group may issue: its pair runs, it is a leading group, which its trailing one follows (R375; assumption 42), and it does not begin a
run while its workgroup waits for a commit (R377). -/
def checkedMay (s : State) (w : Workgroup) (g : Group) : Bool :=
  !stoppedPair s g && g.role == .lead && !(g.phase == .between && commitDue s w.key) && !(g.phase == .stalled .commit && !commitReady s w)

/-- A group stands at a halt point (R253): at a run boundary, in front of the first instruction of a run, or stalled at an instruction that
may wait for long. -/
def Group.haltPoint (g : Group) : Bool :=
  match g.phase with
  | .between => true
  | .inRun => g.c.run.pos == 0 && g.c.xpw.isNone
  | .stalled .queueFull => true
  | .stalled .kicks => true
  | .stalled .selv => true
  | _ => false

/-- Work of a workgroup is to halt: its slice is over, a cluster it stands on is suspended, or its function stops (R252, R309, R330). -/
def mustHalt (s : State) (w : Workgroup) : Bool := heldBack s w

/-- A group that has something to do on its core, which is awake (R263); one that is to halt goes on only to its halt point (R253). -/
def mayIssue (s : State) (g : Group) : Bool :=
  !g.ended && !g.halted && (unitOf s (coreUnit g.core)).awake &&
  match wgOf s g.wg with
  | none => false
  | some w => !(g.haltPoint && mustHalt s w) && (ilOf s w != 2 || checkedMay s w g)

/-- The group holds its core: it is in a run, or waits at an instruction at which no switch is made (R47). -/
def holdsCore (g : Group) : Bool :=
  !g.halted && match g.phase with
  | .inRun => true
  | .stalled .drain => true
  | .stalled .commit => true
  | .stalled .buffer => true
  | _ => false

/-- The group's arrival waits: its mig, granted to its own class, for the kicks of its workgroup (R296), or for a commit (R377). -/
def awaitsMore (s : State) (g : Group) : Bool :=
  match wgOf s g.wg with
  | some w => (g.c.due &&& g.c.migM &&& ~~~g.c.arrM != 0 && migGranted w g && !w.kicks.isEmpty) || (needsCommit s g && !commitReady s w)
  | none => false

/-- The group waits at an instruction that it issues again (R47, R253). -/
def stalledGroup (g : Group) : Bool :=
  match g.phase with
  | .stalled _ => true
  | _ => false

/-- The word at which a group is stalled. -/
def stalledWord (s : State) (g : Group) : Option Word :=
  match fetchCode (focus s g.wg g.gid g.role) g.c.run.pc.toNat with
  | .ok (.word w) => some w
  | _ => none

/-- What the group is stalled for has come: the registers that its SELV names are written, its queue has room, its core has a free kick
(R47, R48, R153, R285). -/
def stallOver (s : State) (g : Group) : Bool :=
  let t := focus s g.wg g.gid g.role
  match g.phase, stalledWord s g with
  | .stalled .selv, some w => !(selvNames (fld w 28 2) (fld w 21 7) (fld w 14 7) (fld w 7 7)).any (unwritten t)
  | .stalled .queueFull, some w => match target t (scal t.c (fld w 15 7)) with
    | some (r, st) => !qFull t r st
    | none => true
  | .stalled .kicks, _ => decide (coreKicks t < 16)
  | _, _ => true

/-- The group has a run to begin or to go on with, or lanes to settle (R238). A group whose arrival waits for a store is left to the end. -/
def hasTurn (s : State) (g : Group) : Bool :=
  readyGroup g || (stalledGroup g && stallOver s g) || (unsettled g && g.role == .lead && !hasWalk s g.wg g.gid && !awaitsMore s g)

/-- A core that issues is at G0, and has issued now (R263). -/
def rouse (s : State) (core : Nat) : State := useUnit s (coreUnit core)

/-- Of the groups that have a turn, those that gave way by a yield come after the others (R276). -/
def notGiving (gs : List Group) : List Group :=
  let others := gs.filter fun g => !g.gave
  if others.isEmpty then gs else others

/-- The group whose turn it is on a core: the one that holds it, else by R238 one that has a turn, else one to settle. -/
def pickGroup (s : State) (core : Nat) : Option Group :=
  let gs := (allGroups s).filter fun g => g.core == core && g.role == .lead
  match gs.find? holdsCore with
  | some h => if mayIssue s h then some h else none
  | none =>
    match firstOf s (notGiving (gs.filter fun g => mayIssue s g && hasTurn s g)) with
    | some g => some g
    | none => gs.find? fun g => mayIssue s g && unsettled g && !awaitsMore s g

/-- The core turns to a group: the others on it, and on the trailing core of its pair, have what its own units compute for them written first (R96,
R128). -/
def switchTo (s : State) (core : Nat) (g : Group) : State :=
  rouse (focus (mapGroups s fun x =>
    if x.core = core ∨ (x.role = .trail ∧ x.core = core + 8) then
      { (if x.wg = g.wg && x.gid == g.gid then x else x.landOwn) with gave := false } else x) g.wg g.gid g.role) core

/-- The core that acts when no turn is prescribed: that of the group at the issue stage, else the first that has a group to
issue. -/
def nextCore (s : State) : Option Nat :=
  if (pickGroup s s.grp.core).isSome then some s.grp.core
  else ((allGroups s).find? fun g => (pickGroup s g.core).isSome).map (·.core)

/-- The register fields of a word that its major opcode takes as operands: A, B of a two-source F3, and D unless N suppresses it (R35, R37). -/
def kindFields (w : Word) : List Nat :=
  let maj := (fld w 1 6).toNat
  let d := if flag w 14 then [] else [(fld w 7 7).toNat]
  let a := (fld w 15 7).toNat
  let b := (fld w 22 7).toNat
  if [0x00, 0x02, 0x03, 0x05, 0x10, 0x11, 0x12, 0x15, 0x16, 0x17].contains maj then a :: b :: d
  else if [0x01, 0x04, 0x06, 0x13, 0x14, 0x18, 0x19, 0x1B, 0x20, 0x21, 0x22, 0x23, 0x24, 0x25, 0x26, 0x28, 0x29].contains maj then a :: d
  else []

/-- A word that holds no instruction is taken as a vector instruction when its fields name a vector operand, or its major opcode is one of
those that act in lanes whatever they name: comparisons, votes and transfers by register. DESIGN CHOICE (assumption 37): R346 gives the fault lane
mask by the kind of the instruction, and the spec gives no kind to a pattern that is none. -/
def refusedVec (c : Ctx) (w : Word) : Bool :=
  [0x08, 0x09, 0x0A, 0x0B, 0x1A, 0x32].contains (fld w 1 6).toNat || (kindFields w).any c.isVec

/-- The fault lane mask of a pattern that holds no instruction (R346). -/
def refusedMask (c : Ctx) : Code → Mask
  | .half _ => c.actMask
  | .word w => if refusedVec c w then c.enabled else c.actMask

/-- The instruction at the group's program counter, or the fault that fetching or decoding it raises (R30, R346). -/
noncomputable def fetched (s : State) : Except State Instr :=
  match fetchCode s s.c.run.pc.toNat with
  | .error a => .error (faultAt s 4 0x01 s.c.actMask (BitVec.ofNat 64 a))
  | .ok code => match decodeCode code with
    | .ok i => .ok i
    | .error _ => .error (faultAt s code.size 0x01 (refusedMask s.c code) 0)

end Sys2Proof.Machine
end

