-- ==== Sys2Proof/Machine/Place.lean ====
section
/-! DEFINITION. Room on cores and the placing of workgroups: slots, rows and local memory (R15, R19, R32, R255, R265, R375), halting
in place and resuming (R253, R255, R256), and the requests for wakes that launches and issues make (R264 to R266). -/
namespace Sys2Proof.Machine

/-! ### Cores -/

def clus (core : Nat) : Fin 32 := Fin.ofNat 32 (clusterOf core)

def classOf (core : Nat) : CoreClass := if core % 8 < 2 then .shuttle else .beam

/-- The cores of a class in a cluster (R10). -/
def coresOf (c : Nat) : CoreClass → List Nat
  | .shuttle => [8 * c, 8 * c + 1]
  | .beam => [8 * c + 2, 8 * c + 3, 8 * c + 4, 8 * c + 5]

/-- Group slots of a core (R17). -/
def slotsOf (core : Nat) : Nat := if core % 8 < 2 then 8 else 32

def rowsOf (v : Nat) : Nat := (v + 7) / 8

/-! ### Budgets of a stage's groups (R243) -/

def Stage.hasImage (st : Stage) (cls : CoreClass) : Bool := st.entryPc cls != BitVec.allOnes 32

/-- Vector and scalar registers of a general group. -/
def Stage.regs (st : Stage) : CoreClass → Nat × Nat
  | .shuttle => st.sreg
  | .beam => st.breg

/-- The vector budget of group `gid`: role groups come first, in the order copy, matrix, epilogue. -/
def Stage.vbudOf (st : Stage) (cls : CoreClass) (gid : Nat) : Nat :=
  let (a, b, c) := st.roles
  if gid < a then st.rolev.1 else if gid < a + b then st.rolev.2.1 else if gid < a + b + c then st.rolev.2.2 else (st.regs cls).1

/-- The largest vector budget of a stage's groups on a class. -/
def Stage.maxV (st : Stage) (cls : CoreClass) : Nat := (List.range st.groups).foldl (fun m g => max m (st.vbudOf cls g)) 0

/-- Bytes of the protected checkpoint area of a checked workgroup (R375). -/
def Stage.areaOn (st : Stage) (cls : CoreClass) : Nat :=
  if st.il = 2 then (List.range st.groups).foldl (fun n g => n + 8192 + 1024 * rowsOf (st.vbudOf cls g)) 0 else 0

/-- Local memory that a workgroup of a stage takes on its core. -/
def Stage.takes (st : Stage) (cls : CoreClass) : Nat := st.loc + st.areaOn cls

/-- Local memory of a core (R13). -/
def coreLocal : Nat := 393216

/-! ### Room (R15, R19, R255) -/

/-- A workgroup whose groups are all halted, of another tenant: its storage may be claimed. -/
def displaceable (s : State) (t : Fin 8 × Fin 9) (w : Workgroup) : Bool :=
  w.ten != t && (allGroups s).all fun g => g.wg != w.key || g.halted || g.ended

/-- A workgroup stands on a core, as leading or as trailing member. -/
def standsOn (s : State) (w : Workgroup) (core : Nat) : Bool := !w.finished && (w.core == core || (ilOf s w == 2 && w.core + 8 == core))

/-- A granted attempt of a workgroup has its target core reserved (R261). -/
def Workgroup.bound (w : Workgroup) (core : Nat) : Bool := w.mig.any fun a => a.st == .granted core

/-- Local memory taken on a core that a tenant cannot claim. -/
def localTaken (s : State) (t : Fin 8 × Fin 9) (core : Nat) : Nat :=
  s.wgs.foldl (fun n w =>
    let st := (stageOf s w.ref).map fun st => st.takes w.cls
    n + (if standsOn s w core && !displaceable s t w then st.getD w.size else 0) + (if w.bound core then w.size else 0)) 0

/-- Slots of a core held by groups that a tenant cannot displace. -/
def slotTaken (s : State) (t : Fin 8 × Fin 9) (core slot : Nat) : Bool :=
  (allGroups s).any fun g => g.core == core && g.slot == slot && g.wg != 0 &&
    match wgOf s g.wg with
    | none => false
    | some w => !displaceable s t w

/-- Slots reserved on a core by granted attempts. -/
def slotsBound (s : State) (core : Nat) : Nat :=
  (s.wgs.filter fun w => w.bound core).foldl (fun n w => n + (groupsOf s w.key .lead).length) 0

/-- Rows that claiming a slot would spill: of a halted occupant's, those that are not spilled already. -/
def spillCost (s : State) (core slot rows : Nat) : Nat :=
  (allGroups s).foldl (fun n g => if g.core = core && g.slot == slot && g.wg != 0 then n + (min rows (rowsOf g.vbud) - g.spilled) else n) 0

/-- The slots a workgroup may take on a core, in the order of preference: free ones, then those that lose the fewest rows. -/
def openSlots (s : State) (t : Fin 8 × Fin 9) (il2 : Bool) (core rows : Nat) : List Nat :=
  let free := (List.range (slotsOf core)).filter fun k =>
    !slotTaken s t core k && (!il2 || !slotTaken s t (core + 8) k)
  let cost (k : Nat) : Nat := spillCost s core k rows
  (List.range 13).flatMap fun n => free.filter fun k => cost k == n || (n == 12 && decide (12 < cost k))

/-- A core has room for a workgroup of a stage (R244 step 2). -/
def roomOn (s : State) (t : Fin 8 × Fin 9) (st : Stage) (core : Nat) : Bool :=
  let cls := classOf core
  let il2 := st.il == 2
  decide (st.groups + slotsBound s core ≤ (openSlots s t il2 core (rowsOf (st.maxV cls))).length) &&
  decide (localTaken s t core + st.takes cls ≤ coreLocal) &&
  (!il2 || decide (localTaken s t (core + 8) + st.takes cls ≤ coreLocal))

/-- The core awake, and its partner's when checked. -/
def coreAwake (s : State) (st : Stage) (core : Nat) : Bool :=
  (unitOf s (coreUnit core)).awake && (st.il != 2 || (unitOf s (coreUnit (core + 8))).awake)

/-- The classes a workgroup of a stage may run on, the preferred one first (R15). -/
def Stage.classes (st : Stage) : List CoreClass := [st.cls, otherClass st.cls].filter st.hasImage

/-- The rows that halted groups would lose to a workgroup of the stage on a core, in the slots preferred there. -/
def coreCost (s : State) (t : Fin 8 × Fin 9) (st : Stage) (core : Nat) : Nat :=
  let rows := rowsOf (st.maxV (classOf core))
  ((openSlots s t (st.il == 2) core rows).take st.groups).foldl (fun n k => n + spillCost s core k rows) 0

/-- Of some cores, the one that costs the fewest rows; of those one that is awake; of those the first. -/
def bestCore (s : State) (t : Fin 8 × Fin 9) (st : Stage) (cores : List Nat) : Option Nat :=
  let key (core : Nat) : Nat := 2 * coreCost s t st core + (if coreAwake s st core then 0 else 1)
  cores.foldl (fun (o : Option Nat) core => match o with
    | none => some core
    | some b => if key core < key b then some core else some b) none

/-- The core of a cluster on which the next workgroup is placed, of those that it may take: of the preferred class while one has room, the sleeping
ones counted or not (R15, R255, R265). -/
def placeOn (s : State) (t : Fin 8 × Fin 9) (st : Stage) (c : Nat) (awake : Bool) (may : Nat → Bool) : Option Nat :=
  st.classes.findSome? fun k =>
    bestCore s t st ((coresOf c k).filter fun core => roomOn s t st core && (!awake || coreAwake s st core) && may core)

/-! ### Halting in place (R253, R255, R256) -/

/-- A member of a group halts: what its core's own units compute for it is written (R128), and its slot is no longer charged (R240). -/
def haltMember (s : State) (key : Nat) (gid : Fin 16) (r : Role) : State :=
  modGroup (chargeGroups s fun g => g.wg == key) key gid r fun g => { g.landOwn with halted := true }

/-- A group halts where it stands, when it is at a halt point; in a checked pair both members do, which stand at the same one (assumption 42). -/
def haltGroup (s : State) (key : Nat) (gid : Fin 16) : State :=
  match wgOf s key, groupAt s key gid .lead with
  | some w, some g =>
    if !mustHalt s w || !g.haltPoint || g.halted then s else haltMember (haltMember s key gid .lead) key gid .trail
  | _, _ => s

/-- Every group of a workgroup is halted or has ended. -/
def wgHalted (s : State) (key : Nat) : Bool := (allGroups s).all fun g => g.wg != key || g.halted || g.ended

/-- A claim of a slot's rows spills what other groups hold there (R255). -/
def spillAt (s : State) (key core slot rows : Nat) : State :=
  mapGroups s fun g =>
    if g.core = core && g.slot == slot && g.wg != key && g.wg != 0 then { g with spilled := max g.spilled (min rows (rowsOf g.vbud)) }
    else g

/-- The VLIM in force for a stage now (R239, R256): the smallest non-zero one on its chain, as the RCBs hold them; while one of them is malformed
nothing of it is acted on (R8), and the limit of RESIDE stays. -/
def vlimNow (s : State) (st : Stage) : Nat :=
  let rs := (chainOf s st.rcb).map fun n => readRcb s n.rcb
  if rs.all fun b => rcbGood b (rcbLevel b) then
    rs.foldl (fun m b => if rcbVlim b = 0 then m else if m = 0 then rcbVlim b else min m (rcbVlim b)) 0
  else st.vlim

/-- A wake of the core that a group is to issue on (R264). -/
def wakeFor (s : State) (g : Group) : State := requestWake s (coreUnit g.core) (groupPrio s g) false

/-- A halted group resumes in its slot, unless its budget is above the limit now in force (R256). -/
def resumeGroup (s : State) (g : Group) : State :=
  let v := ((wgOf s g.wg).bind fun w => stageOf s w.ref).map (vlimNow s)
  if v.getD 0 ≠ 0 ∧ v.getD 0 < g.vbud then
    if g.role = .trail then s else groupRecord s g.wg g.gid { type := 4, cause := 0x40 }
  else
    let s1 := if g.spilled = 0 then s else spillAt s g.wg g.core g.slot (rowsOf g.vbud)
    wakeFor (modGroup s1 g.wg g.gid g.role fun g => { g with halted := false, heldSince := s.now, spilled := 0 }) g

/-- The halted groups of the workgroups that satisfy a test resume; their ready records wait at the walker no longer (R172, R256). -/
def resumeWgs (s : State) (p : Workgroup → Bool) : State :=
  (s.wgs.filter fun w => p w && !mustHalt s w).foldl (fun s w =>
    let s1 := if (allGroups s).any fun g => g.wg == w.key && g.halted then
        mapGroups s fun g => if g.wg = w.key && g.ended then { g with heldSince := s.now } else g
      else s
    ((allGroups s1).filter fun g => g.wg == w.key && g.halted && !g.ended).foldl resumeGroup s1) s

/-! ### What a cluster still has to do before it is quiet -/

/-- No group of the cluster runs and no issued task is incomplete there. -/
def clusterQuiet (s : State) (c : Fin 32) : Bool :=
  (allGroups s).all (fun g => clus g.core != c || g.wg == 0 || g.halted || g.ended) &&
  s.engq.all fun t => (taskEngines s t).all fun e => engCluster e != c

end Sys2Proof.Machine
end

