-- ==== Sys2Proof/Machine/Slices.lean ====
section
/-! DEFINITION. Slices: how the tenants of a partition take turns on a cluster (R252 to R256), and the suspension of clusters
(R309). -/
namespace Sys2Proof.Machine

/-! ### Who wants a cluster (R252) -/

/-- The tenants that may use a cluster. -/
def tenantsOn (s : State) (c : Fin 32) : List (Fin 8 × Fin 9) :=
  (List.finRange 8).flatMap fun p =>
    if (part s p).en && (part s p).clmask.getLsbD c.val then
      ((List.finRange 9).filter fun t => (tenant s p t).en && (tenant s p t).tclmask.getLsbD c.val).map fun t => (p, t)
    else []

/-- A workgroup stands on a cluster, as a whole or with its trailing half. -/
def inCluster (s : State) (w : Workgroup) (c : Fin 32) : Bool :=
  !w.finished && (clus w.core == c || (ilOf s w == 2 && clusterOf w.core + 1 == c.val))

def residentOn (s : State) (c : Fin 32) (t : Fin 8 × Fin 9) : Bool := s.wgs.any fun w => w.ten == t && inCluster s w c

def stagesOf (s : State) (t : Fin 8 × Fin 9) : List (StageRef × Stage) :=
  (s.pipes.filter fun p => (p.part, p.tenant) == t).flatMap fun p => p.stages.map fun st => (⟨p.part, p.tenant, p.index, st.index⟩, st)

/-- The tenant has a queue entry, an unlaunched cohort or an aborted workgroup to launch, and launches are allowed. -/
def pendingOf (s : State) (t : Fin 8 × Fin 9) : Bool :=
  !(tenant s t.1 t.2).hold &&
  ((stagesOf s t).any (fun x => qLen s x.1 x.2 != 0) || s.relaunch.any fun w => w.ten == t)

def activeOn (s : State) (c : Fin 32) (t : Fin 8 × Fin 9) : Bool := residentOn s c t || pendingOf s t

/-- A CRIT entry of the tenant waits. -/
def critWaits (s : State) (t : Fin 8 × Fin 9) : Bool :=
  !(tenant s t.1 t.2).hold && (stagesOf s t).any fun x => x.2.prio == 1 && qLen s x.1 x.2 != 0

def critResident (s : State) (c : Fin 32) (t : Fin 8 × Fin 9) : Bool :=
  s.wgs.any fun w => w.ten == t && inCluster s w c && ((stageOf s w.ref).map (·.prio)) == some 1

/-- The node of a tenant: of its partition, or of its sub-partition. -/
def tenantNode (s : State) (t : Fin 8 × Fin 9) : Option Node :=
  match (s.pipes.find? fun p => (p.part, p.tenant) == t) with
  | none => none
  | some p => (chainOf s p.rcb).reverse[if t.2.val = 0 then 1 else 2]?

/-- INDEX of a tenant: of its partition's RCB or of its sub-partition's (R252); of one with no resident pipeline, which has no work, its number. -/
def tenantIndex (s : State) (t : Fin 8 × Fin 9) : Nat := ((tenantNode s t).map (·.index)).getD t.2.val

/-- The tenants of a cluster other than one, in turn order from it on: by increasing INDEX. -/
def turnsAfter (s : State) (c : Fin 32) (t : Fin 8 × Fin 9) : List (Fin 8 × Fin 9) :=
  let key (u : Fin 8 × Fin 9) : Nat := 16 * tenantIndex s u + u.2.val
  let ts := ((tenantsOn s c).filter (· != t)).mergeSort fun a b => decide (key a ≤ key b)
  (ts.filter fun u => decide (key t < key u)) ++ ts.filter fun u => decide (key u < key t)

/-- Engine-clock cycles of a tenant's slice. -/
def sliceLen (s : State) (t : Fin 8 × Fin 9) : Nat :=
  let n := ((tenantNode s t).map (·.slice)).getD 0
  1200 * (if n = 0 then 1000 else n)

/-- The tenant whose slice comes next, when the present one is over. -/
def nextSlice (s : State) (c : Fin 32) (cur : Fin 8 × Fin 9) : Option (Fin 8 × Fin 9) :=
  let others := turnsAfter s c cur
  let crit := if critResident s c cur then none else others.find? (critWaits s)
  let due := !activeOn s c cur || decide ((s.slices[c]).since + sliceLen s cur ≤ s.now)
  match crit with
  | some t => some t
  | none => if due then others.find? (activeOn s c) else none

/-- Open attempts of a tenant's workgroups on a cluster are refused (R254, R260). -/
def refuseOn (s : State) (c : Fin 32) (t : Fin 8 × Fin 9) : State :=
  (s.wgs.filter fun w => w.ten == t && inCluster s w c).foldl (fun s w => refuseOpen s w.key) s

/-- SLICE_END (R252, R254): the slice change begins. -/
def execSliceEnd (c : Fin 32) (s : State) : Out :=
  .next (match (s.slices[c]).cur with
    | none => s
    | some cur =>
      if (s.slices[c]).next.isSome then s
      else match nextSlice s c cur with
        | none => s
        | some t => refuseOn { s with slices := s.slices.set c { s.slices[c] with next := some t } } c cur)

/-- GROUP_HALT (R253). -/
def execGroupHalt (w : Nat) (g : Fin 16) (s : State) : Out := .next (haltGroup s w g)

/-- Every group of the outgoing tenant on the cluster has halted. -/
def outgoingHalted (s : State) (c : Fin 32) (cur : Fin 8 × Fin 9) : Bool :=
  s.wgs.all fun w => w.ten != cur || !inCluster s w c || wgHalted s w.key

/-- SLICE_RESUME (R254, R256): the incoming tenant takes the cluster and its halted groups resume. -/
def execSliceResume (c : Fin 32) (s : State) : Out :=
  .next (match (s.slices[c]).cur, (s.slices[c]).next with
    | some cur, some t =>
      if outgoingHalted s c cur then
        resumeWgs { s with slices := s.slices.set c ⟨some t, s.now, none⟩ } fun w => w.ten == t && inCluster s w c
      else s
    | _, _ => s)

/-! ### Suspension of clusters (R309) -/

/-- Boot is over and its blocks are open (R300, R343). -/
def ready (s : State) : Bool := s.dev.stage == 1

/-- An action of the host on a device that has booted. -/
def host (s : State) (f : State → State) : State := if ready s then f s else s

def suspend (s : State) (c : Fin 32) : State :=
  { s with place := { s.place with susp := s.place.susp ||| BitVec.ofNat 32 (2 ^ c.val) } }

/-- SUSPD follows once the cluster is quiet. -/
def noteSuspended (s : State) (c : Fin 32) : State :=
  if s.place.susp.getLsbD c.val && clusterQuiet s c then
    { s with place := { s.place with suspd := s.place.suspd ||| BitVec.ofNat 32 (2 ^ c.val) } }
  else s

/-- The halted groups resume on the physical cluster now mapped (R256). -/
def unsuspend (s : State) (c : Fin 32) : State :=
  let m := ~~~BitVec.ofNat 32 (2 ^ c.val)
  resumeWgs { s with place := { s.place with susp := s.place.susp &&& m, suspd := s.place.suspd &&& m } } fun w => inCluster s w c

/-- CLSUSP_SET (R309). -/
def execClsuspSet (c : Fin 32) (s : State) : Out := .next (host s fun s => suspend s c)

/-- CLSUSP_CLEAR (R309). -/
def execClsuspClear (c : Fin 32) (s : State) : Out :=
  .next (host s fun s => if s.place.susp.getLsbD c.val then unsuspend s c else s)

/-- CLUSTER_SUSPENDED (R309). -/
def execClusterSuspended (c : Fin 32) (s : State) : Out := .next (noteSuspended s c)

/-! ### Place tables (R309) -/

/-- A refused place-table write. -/
def placeErr (s : State) (e : Byte) : State := { s with place := { s.place with plerr := e } }

/-- PLACE_TABLE_WRITE (R309): accepted while the units are suspended, for a physical unit in range, not faulty, not in use. -/
def execPlaceTableWrite (k : PlaceKind) (n : Nat) (v : BitVec 32) (s : State) : Out :=
  let p := s.place
  let all := p.suspd == BitVec.allOnes 32
  let x := v.toNat % (match k with | .cluster => 64 | .slice => 128 | .bank => 1024)
  .next (host s fun s => match k with
    | .cluster =>
      if h : n < 32 then
        if !p.suspd.getLsbD n then placeErr s 1
        else if 34 ≤ x then placeErr s 3
        else if p.phfault.getLsbD x || (List.finRange 32).any fun i => i.val != n && (p.cl[i]).toNat == x then placeErr s 2
        else { s with place := { p with cl := p.cl.set n (BitVec.ofNat 6 x) h } }
      else s
    | .slice =>
      if h : n < 64 then
        if !all then placeErr s 1
        else if 66 ≤ x then placeErr s 3
        else if p.slfault.getLsbD x || (List.finRange 64).any fun i => i.val != n && (p.sl[i]).toNat == x then placeErr s 2
        else { s with place := { p with sl := p.sl.set n (BitVec.ofNat 7 x) h } }
      else s
    | .bank =>
      if h : n < 512 then
        if !all then placeErr s 1
        else if 528 ≤ x then placeErr s 3
        else if p.sbfault.getLsbD x || (List.finRange 512).any fun i => i.val != n && (p.sb[i]).toNat == x then placeErr s 2
        else { s with place := { p with sb := p.sb.set n (BitVec.ofNat 10 x) h } }
      else s)

end Sys2Proof.Machine
end

