-- ==== Sys2Proof/Machine/Power.lean ====
section
/-! DEFINITION. Power states: warm reserves, wakes and their limits, and the way down (R263 to R266). -/
namespace Sys2Proof.Machine

/-! ### Warm reserves (R265) -/

/-- A stage may launch on a cluster: its tenant is given it, and for a checked stage the whole pair (R21, R305). -/
def mayUse (s : State) (r : StageRef) (st : Stage) (c : Nat) : Bool :=
  let m := (tenant s r.part r.tenant).tclmask
  (tenant s r.part r.tenant).en && m.getLsbD c && (st.il != 2 || (c % 2 == 0 && m.getLsbD (c + 1)))

/-- Resident CRIT stages. -/
def critStages (s : State) : List (StageRef × Stage) :=
  s.pipes.flatMap fun p => (p.stages.filter fun st => st.prio == 1).map fun st => (⟨p.part, p.tenant, p.index, st.index⟩, st)

/-- Cores that can serve a stage's reserve: of its preferred class, where it may launch, awake, with room for a workgroup. -/
def reserveCores (s : State) (x : StageRef × Stage) : List Nat :=
  ((List.range 32).filter (mayUse s x.1 x.2)).flatMap fun c =>
    (coresOf c x.2.cls).filter fun core => coreAwake s x.2 core && roomOn s (x.1.part, x.1.tenant) x.2 core

/-- The reserve cores of some CRIT stages, each with its own: DESIGN CHOICE (assumption 64): a core that one stage keeps serves no other, and the
stages take theirs in the order in which they were made resident. -/
def reservesOf (s : State) (xs : List (StageRef × Stage)) : List ((StageRef × Stage) × List Nat) :=
  xs.foldl (fun l x => l ++ [(x, ((reserveCores s x).filter fun k => l.all fun y => !y.2.contains k).take x.2.resCore)]) []

/-- The cores that a stage's reserve holds. -/
def reserveOf (s : State) (x : StageRef × Stage) : List Nat :=
  (((reservesOf s (critStages s)).find? fun y => y.1 == x).map (·.2)).getD []

/-- The cluster holds a CRIT workgroup or a core of a CRIT reserve, so its engines stay awake (R266). -/
def heldWarm (s : State) (c : Fin 32) : Bool :=
  (s.wgs.any fun w => inCluster s w c && ((stageOf s w.ref).map (·.prio)) == some 1) ||
  (reservesOf s (critStages s)).any fun x => x.2.any fun core => clus core == c

/-- The matrix engines of the further clusters where a stage may launch: those that are not held warm for their own work or cores (R266). -/
def furtherEngines (s : State) (x : StageRef × Stage) : List UnitId :=
  ((List.finRange 32).filter fun c => mayUse s x.1 x.2 c.val && !heldWarm s c).flatMap fun c => [⟨c, .matrix 0⟩, ⟨c, .matrix 1⟩]

/-- Those that count toward a stage's reserve. -/
def reserveEngines (s : State) (x : StageRef × Stage) : List UnitId := (furtherEngines s x).filter fun u => (unitOf s u).awake

/-- Matrix engines that a stage's reserve is to hold. DESIGN CHOICE (assumption 64): where there are fewer in further clusters, all of them. -/
def engineMark (s : State) (x : StageRef × Stage) : Nat := min x.2.resMat (furtherEngines s x).length

/-- The reserve of a stage is below watermark. -/
def reserveLow (s : State) (x : StageRef × Stage) : Bool :=
  decide ((reserveOf s x).length < x.2.resCore ∨ (reserveEngines s x).length < engineMark s x)

/-- A step leaves the other stages' reserve cores their room (R265). -/
def reservesKept (before after : State) (r : StageRef) : Bool :=
  let xs := (critStages before).filter fun x => x.1 != r
  (reservesOf before xs).all fun y => decide (y.2.length ≤ (((reservesOf after xs).find? fun z => z.1 == y.1).map (·.2.length)).getD 0)

/-- The power domain of a cluster defers every wake but those for CRIT reserves. -/
def deferring (s : State) (c : Fin 32) : Bool :=
  (critStages s).any fun x => mayUse s x.1 x.2 c.val && qLen s x.1 x.2 != 0 && reserveLow s x

/-- The engines of a cluster. -/
def enginesOf (c : Fin 32) : List UnitId := [⟨c, .copy⟩, ⟨c, .matrix 0⟩, ⟨c, .matrix 1⟩]

/-! ### Wake requests (R264 to R266) -/

/-- A wake for a CRIT reserve, ahead of those deferred. -/
def requestCrit (s : State) (u : UnitId) : State :=
  if (unitOf s u).awake || (unitOf s u).waking || s.wakeQ.any (fun q => q.unit == u && q.crit) then s
  else { s with wakeQ := (s.wakeQ.filter fun q => q.unit != u) ++ [⟨u, 1, true, s.now⟩] }

/-- Groups that would issue on a sleeping core. -/
def sleepers (s : State) (c : Fin 32) : List Group :=
  (allGroups s).filter fun g => clus g.core == c && g.wg != 0 && !g.halted && !g.ended && !(unitOf s (coreUnit g.core)).awake &&
    (readyGroup g || holdsCore g || unsettled g || stalledGroup g)

/-- A unit whose wake for a reserve is asked for or under way. -/
def coming (s : State) (u : UnitId) : Bool := (unitOf s u).waking || s.wakeQ.any fun q => q.crit && q.unit == u

/-- Sleeping cores of a cluster that would serve a stage's reserve. -/
def reserveSleepers (s : State) (x : StageRef × Stage) (c : Nat) : List Nat :=
  if mayUse s x.1 x.2 c then
    (coresOf c x.2.cls).filter fun core => !coreAwake s x.2 core && roomOn s (x.1.part, x.1.tenant) x.2 core
  else []

/-- A core, with its partner for a checked stage, is on its way to a reserve. -/
def coreComing (s : State) (st : Stage) (core : Nat) : Bool :=
  coming s (coreUnit core) || (st.il == 2 && coming s (coreUnit (core + 8)))

/-- The refill of one CRIT stage's reserve in a cluster: one core and one matrix engine that it lacks, those on their way counted. -/
def refillOn (s : State) (c : Fin 32) (x : StageRef × Stage) : State :=
  let way := ((List.range 32).flatMap (reserveSleepers s x)).filter (coreComing s x.2)
  let s1 := if (reserveOf s x).length + way.length < x.2.resCore then
      match (reserveSleepers s x c.val).find? fun core => !coreComing s x.2 core with
      | some core =>
        let s1 := requestCrit s (coreUnit core)
        if x.2.il = 2 then requestCrit s1 (coreUnit (core + 8)) else s1
      | none => s
    else s
  let engines := (furtherEngines s x).filter fun u => !(unitOf s u).awake
  if (reserveEngines s1 x).length + (engines.filter (coming s1)).length < engineMark s x then
    match engines.find? fun u => u.cluster == c && !coming s1 u with
    | some u => requestCrit s1 u
    | none => s1
  else s1

/-- Every wake that a cluster's work and reserves ask for. -/
def gatherWakes (s : State) (c : Fin 32) : State :=
  let s1 := (sleepers s c).foldl wakeFor s
  let s2 := s1.engq.foldl (fun s t => ((taskEngines s t).filter fun e => engCluster e == c).foldl (fun s e =>
    requestWake s (engineUnit e) ((((wgOf s t.wg).bind fun w => stageOf s w.ref).map (·.prio)).getD 3) false) s) s1
  let s3 := (critStages s2).foldl (fun s x => refillOn s c x) s2
  if heldWarm s3 c then (enginesOf c).foldl requestCrit s3 else s3

/-- The waiting wake that goes first in a domain: by class, then by age. -/
def firstWake (qs : List WakeReq) : Option WakeReq :=
  qs.foldl (fun o q => match o with
    | none => some q
    | some b => if q.prio < b.prio || (q.prio == b.prio && decide (q.at_ < b.at_)) then some q else some b) none

/-- WAKE_START (R264, R265): at most two in 250 ns, which is 300 engine-clock cycles. -/
def execWakeStart (c : Fin 32) (s : State) : Out :=
  let s1 := gatherWakes s c
  let recent := s1.wakes.filter fun w => decide (s.now < w.2 + 300)
  let qs := s1.wakeQ.filter fun q => q.unit.cluster == c && (!deferring s1 c || q.crit)
  .next (if 2 ≤ (recent.filter (·.1 == c)).length then { s1 with wakes := recent }
    else match firstWake qs with
      | none => { s1 with wakes := recent }
      | some q => setUnit { s1 with wakes := (c, s.now) :: recent, wakeQ := s1.wakeQ.erase q } q.unit
          { unitOf s1 q.unit with since := s.now, waking := true })

/-- Cycles from the wake decision to the first cycle of work (R263). -/
def wakeTime : PState → Nat
  | .G3 => 30000
  | .G2 => 720
  | _ => 0

/-- A matrix engine that wakes from G3 reads a creel of zeros (R165). -/
def clearIfCold (s : State) (u : UnitId) : State :=
  match u.kind, (unitOf s u).st with
  | .matrix i, .G3 => clearCreel s (.matrix u.cluster i)
  | _, _ => s

/-- WAKE_COMPLETE (R263). -/
def execWakeComplete (u : UnitId) (s : State) : Out :=
  let p := unitOf s u
  .next (if p.waking && decide (p.since + wakeTime p.st ≤ s.now) then setUnit (clearIfCold s u) u ⟨.G0, s.now, false⟩ else s)

/-! ### The way down (R263) -/

/-- The unit has something to issue. -/
def unitBusy (s : State) (u : UnitId) : Bool :=
  match u.kind with
  | .core i => (pickGroup s (8 * u.cluster.val + i.val)).isSome
  | .matrix i => s.engq.any fun t => (taskEngines s t).contains (.matrix u.cluster i)
  | .copy => s.engq.any fun t => (taskEngines s t).contains (.copy u.cluster)

/-- 32 cycles of a unit's clock in engine-clock cycles, rounded up (R12). -/
def idleTime : UnitKind → Nat
  | .core i => if i.val < 2 then 20 else 32
  | _ => 32

/-- IDLE_TO_G1. -/
def execIdleToG1 (u : UnitId) (s : State) : Out :=
  let p := unitOf s u
  .next (if p.st == .G0 && !unitBusy s u && decide (p.since + idleTime u.kind ≤ s.now) then setUnit s u ⟨.G1, s.now, false⟩ else s)

/-- Putting a unit to sleep would take it from a warm reserve, or it is held warm (R265, R266). -/
def mustStayWarm (s : State) (u : UnitId) : Bool :=
  let asleep := setUnit s u ⟨.G2, s.now, false⟩
  (match u.kind with
    | .core _ => false
    | _ => heldWarm s u.cluster) ||
  (critStages s).any fun x => reserveLow asleep x && !(decide ((reserveOf asleep x).length = (reserveOf s x).length) &&
    decide ((reserveEngines asleep x).length = (reserveEngines s x).length))

/-- G1_TO_G2: after 50 microseconds, which is 60,000 engine-clock cycles. -/
def execG1ToG2 (u : UnitId) (s : State) : Out :=
  let p := unitOf s u
  .next (if p.st == .G1 && !unitBusy s u && decide (p.since + 60000 ≤ s.now) && !mustStayWarm s u then setUnit s u ⟨.G2, s.now, false⟩
    else s)

/-- A creel holds a slot in use: one with VALID (R160, R163). -/
def creelInUse (s : State) (e : EngineId) : Bool :=
  let m := creelOf s e
  (List.range 16).any fun k => (Memory.get m (k * 65536 + 0x88)).getLsbD 0

/-- A unit holds no workgroup, halted group, task or creel slot in use (R263). -/
def unitEmpty (s : State) (u : UnitId) : Bool :=
  match u.kind with
  | .core i =>
    let core := 8 * u.cluster.val + i.val
    (allGroups s).all (fun g => g.wg == 0 || g.core != core) && s.wgs.all fun w => !w.bound core
  | .matrix i => !unitBusy s u && !creelInUse s (.matrix u.cluster i)
  | .copy => !unitBusy s u

/-- What a unit that loses its state leaves: a core's owned words go home, its copies and translations are gone (R198, R263). -/
def loseState (s : State) (u : UnitId) : State :=
  match u.kind with
  | .core i =>
    let core := 8 * u.cluster.val + i.val
    let s1 := flushCore (homeDrain s fun r => r.core == core) core
    { s1 with l1 := s1.l1.filter fun l => l.core != core, tlb := s1.tlb.filter fun e => e.owner != .core core }
  | _ => s

/-- ENTER_G3: an unused unit, on the order of system software; not one that a CRIT task may need (R26, R266). -/
def execEnterG3 (u : UnitId) (s : State) : Out :=
  .next (if unitEmpty s u && !(unitOf s u).waking && !mustStayWarm s u then setUnit (loseState s u) u ⟨.G3, s.now, false⟩ else s)

end Sys2Proof.Machine
end

