-- ==== Sys2Proof/Machine/Launch.lean ====
section
/-! DEFINITION. Launching: curve order (R248), the choice of a stage (R245, R246), tickets and launch registers (R279, R290), the
start of a cohort (R15, R19, R21, R244, R250) and of an IL1 workgroup again (R374). -/
namespace Sys2Proof.Machine

/-! ### Curve order (R248) -/

/-- The helper hilbert_xy of R248 from side s on. -/
def hilbertFrom : Nat → Nat → Nat → Nat → Nat → Nat × Nat
  | 0, _, _, x, y => (x, y)
  | fuel + 1, t, s, x, y =>
    let rx := t / 2 % 2
    let ry := (t + rx) % 2
    let (x, y) := if ry = 0 then (if rx = 1 then (s - 1 - y, s - 1 - x) else (y, x)) else (x, y)
    hilbertFrom fuel (t / 4) (2 * s) (x + s * rx) (y + s * ry)

/-- hilbert_xy on a square of side 2 ^ k. -/
def hilbertXy (k d : Nat) : Nat × Nat := hilbertFrom k d 1 0 0

/-- The least k with n ≤ 2 ^ k. -/
def log2Up (n : Nat) : Nat := if n ≤ 1 then 0 else Nat.log2 (n - 1) + 1

/-- The d-th cells that lie in the grid: the one of position `skip`, looked for from d on. -/
def curveCell (k gx gy : Nat) : Nat → Nat → Nat → Nat × Nat
  | 0, _, _ => (0, 0)
  | fuel + 1, d, skip =>
    let (x, y) := hilbertXy k d
    if x < gx && y < gy then (if skip = 0 then (x, y) else curveCell k gx gy fuel (d + 1) (skip - 1))
    else curveCell k gx gy fuel (d + 1) skip

/-- Cohorts of the stage's grid in x and y. -/
def Stage.cgx (st : Stage) : Nat := st.gx / max st.cx 1

def Stage.cgy (st : Stage) : Nat := st.gy / max st.cy 1

/-- Grid coordinates of the cohort at a curve position. -/
def cohortXyz (st : Stage) (pos : Nat) : Nat × Nat × Nat :=
  let layer := max (st.cgx * st.cgy) 1
  let k := log2Up (max st.cgx st.cgy)
  let (x, y) := curveCell k st.cgx st.cgy (4 ^ k) 0 (pos % layer)
  (x, y, pos / layer)

/-- The workgroup id of the i-th workgroup of a cohort. -/
def wgidOf (st : Stage) (pos i : Nat) : Nat × Nat × Nat :=
  let (x, y, z) := cohortXyz st pos
  (x * st.cx + i % max st.cx 1, y * st.cy + i / max st.cx 1, z)

/-! ### Starting a workgroup (R244 step 3, R279) -/

/-- The launch registers within a scalar budget. -/
def launchS (w : Workgroup) (st : Stage) (gid sbud : Nat) : Vector Word 24 :=
  Vector.ofFn fun k =>
    if sbud ≤ k.val then 0
    else if 1 ≤ k.val ∧ k.val ≤ 14 then BitVec.ofNat 32 (bytesAt w.entry (4 * (k.val - 1)) 4)
    else if k.val = 15 then BitVec.ofNat 32 (w.index % 65536 * 65536 + w.ref.pipe % 65536)
    else if k.val = 23 then BitVec.ofNat 32 st.loc - BitVec.ofNat 32 (2048 * gid)
    else 0

/-- The context of a group at launch. -/
def launchCtx (w : Workgroup) (st : Stage) (gid : Nat) : Ctx :=
  let sbud := (st.regs w.cls).2
  { Ctx.launch with s := launchS w st gid sbud, lpc := Vector.replicate 32 (st.entryPc w.cls), twin := st.entryPc (otherClass w.cls) }

/-- The groups of a workgroup on one member of its pair; those of a checked stage hold their first snapshot (R377). -/
def launchGroups (s : State) (w : Workgroup) (st : Stage) (r : Role) (slots : List Nat) : List Group :=
  (List.range st.groups).map fun i =>
    let c := launchCtx w st i
    { Group.empty with wg := w.key, gid := Fin.ofNat 16 i, role := r, core := if r = .trail then w.core + 8 else w.core,
                       slot := (slots[i]?).getD 0, vbud := st.vbudOf w.cls i, sbud := (st.regs w.cls).2, phase := .between,
                       stamp := s.fresh, heldSince := s.now, c := c,
                       snap := if st.il = 2 then some ⟨c, [], .between, 0⟩ else none }

/-- A workgroup as R244 starts it, on a core. -/
def Workgroup.fresh (w : Workgroup) (st : Stage) (core : Nat) : Workgroup :=
  { w with core := core, cls := classOf core, size := st.loc, mem := [], memT := [], bars := Vector.replicate 16 ⟨false, 0, []⟩,
           barsT := Vector.replicate 16 ⟨false, 0, []⟩, resv := [], passed := [], duePass := [], kicks := [], came := [], cameT := [], mig := [], det := [],
           detBytes := 0, atomic := false, finished := false, ckpt := 0, ckptAt := 0, snap := WgSnap.none, rolls := 0, visible := false, mism := [] }

/-- The pair of a checked workgroup is formed with its first cohort (R21). -/
def formPair (s : State) (k : Fin 16) : State :=
  if (s.pairs[k]).formed then s
  else { s with pairs := s.pairs.set k { s.pairs[k] with formed := true, since := s.now, stopped := false, mis := none, rolled := false } }

/-- A workgroup placed on a core: claims, groups, the acquire of its entry (R201, R244, R255). -/
def startWg (s : State) (w0 : Workgroup) (st : Stage) (core : Nat) : State :=
  let w := w0.fresh st core
  let il2 := st.il == 2
  let slots := (openSlots s w.ten il2 core (rowsOf (st.maxV w.cls))).take st.groups
  let lead := launchGroups s w st .lead slots
  let trail := if il2 then launchGroups s w st .trail slots else []
  let s1 := (lead ++ trail).foldl (fun s g => spillAt s w.key g.core g.slot (rowsOf g.vbud)) s
  let s2 := { tick s1 with wgs := s1.wgs ++ [w], others := s1.others ++ lead ++ trail }
  let s3 := acquireAt (useUnit s2 (coreUnit core)) core
  let s4 := if il2 then formPair (useUnit s3 (coreUnit (core + 8))) (pairIx (clusterOf core)) else s3
  let own (s : State) (c : Fin 32) : State :=
    if (s.slices[c]).cur.isNone then { s with slices := s.slices.set c ⟨some w.ten, s.now, none⟩ } else s
  if il2 then own (own s4 (clus core)) (clus (core + 8)) else own s4 (clus core)

/-! ### Conditions (R21, R245, R246, R265, R266, R309) -/

/-- The walker of a cluster may launch work of a tenant there. -/
def clusterTakes (s : State) (c : Fin 32) (t : Fin 8 × Fin 9) : Bool :=
  !s.place.susp.getLsbD c.val && sliceRuns s c t

/-- The pair of a cluster can take checked work, or the cluster plain work (R21). -/
def pairTakes (s : State) (c : Fin 32) (il : Nat) : Bool :=
  let k := pairIx c.val
  if il = 2 then (s.pairs[k]).formed || s.wgs.all fun w => pairIx (clusterOf w.core) != k || ilOf s w == 2 || w.finished
  else !(s.pairs[k]).formed

/-- A stage's launches are held back while another stage of its pipeline is pressured (R246). -/
def heldStage (s : State) (r : StageRef) (st : Stage) : Bool :=
  decide (16 * qOcc s r st < st.lwm * 2 ^ st.qlog) &&
  match pipeOf s r with
  | none => false
  | some p => p.stages.any fun x => x.index != st.index && pressured s { r with stage := x.index } x

/-- The grid under launch of a stage: its entry is still held. -/
def openGrid (s : State) (r : StageRef) : Option Grid := s.grids.find? fun g => g.ref == r && g.held

/-- A stage has a cohort to launch: of the grid under launch, or of the entry at HEAD; in a deterministic partition the grid before
has ended (R244, R250). -/
def hasWork (s : State) (r : StageRef) (st : Stage) : Bool :=
  (openGrid s r).isSome ||
  (qLen s r st != 0 && !((part s r.part).det && s.grids.any fun g => g.ref == r))

/-- The stage may launch on a cluster, resources apart. -/
def stageMay (s : State) (c : Fin 32) (r : StageRef) (st : Stage) : Bool :=
  let t := (r.part, r.tenant)
  (part s r.part).run && mayUse s r st c.val && !(tenant s r.part r.tenant).hold && !vfStopped s r.part &&
  clusterTakes s c t && (st.il != 2 || clusterTakes s (c + 1) t) && pairTakes s c st.il && (st.il != 2 || !(s.pairs[pairIx c.val]).stopped) &&
  !heldStage s r st

/-- The order of R245: by class, pressured stages first, then in turn after the stage launched last. -/
def stageOrder (s : State) (c : Fin 32) : List (StageRef × Stage) :=
  let xs := s.pipes.flatMap fun p => p.stages.map fun st => ((⟨p.part, p.tenant, p.index, st.index⟩ : StageRef), st)
  let i := ((s.lastLaunch[c]).bind fun r => xs.findIdx? fun x => x.1 == r).map (· + 1)
  let turn := xs.drop (i.getD 0) ++ xs.take (i.getD 0)
  let ok := turn.filter fun x => stageMay s c x.1 x.2
  ([1, 2, 3, 4] : List Nat).flatMap fun k =>
    let cls := ok.filter fun x => x.2.prio == k
    (cls.filter fun x => pressured s x.1 x.2) ++ cls.filter fun x => !pressured s x.1 x.2

/-! ### A cohort (R244) -/

/-- The i-th workgroup of a cohort. -/
def newWg (s : State) (g : Grid) (st : Stage) (i : Nat) : Workgroup :=
  let n := st.cx * st.cy
  { key := s.fresh, ref := g.ref, grid := g.key, pos := g.launched, wgid := wgidOf st g.launched i,
    rank := if (part s g.ref.part).det then g.launched * n + i else g.wgs + i, curve := g.launched * n + i, core := 0,
    cls := .shuttle, entry := g.entry, index := g.index, size := st.loc, mem := [], memT := [],
    bars := Vector.replicate 16 ⟨false, 0, []⟩, barsT := Vector.replicate 16 ⟨false, 0, []⟩, resv := [], passed := [],
    duePass := [], kicks := [], came := [], cameT := [], mig := [], det := [], detBytes := 0, atomic := false, reruns := 0, finished := false, ckpt := 0,
    ckptAt := 0, snap := WgSnap.none, rolls := 0, visible := false, mism := [] }

/-- Workgroups i, i + 1, … of a cohort are placed one by one on the cluster, each where it leaves the reserve cores of other stages their room (R15,
R265), with the cores they take. -/
def placeCohort (g : Grid) (st : Stage) (c : Nat) (awake : Bool) : Nat → Nat → State → Option (State × List Nat)
  | 0, _, s => some (s, [])
  | n + 1, i, s =>
    let start (core : Nat) : State := startWg (tick s) (newWg s g st i) st core
    match placeOn s (g.ref.part, g.ref.tenant) st c awake fun core => reservesKept s (start core) g.ref with
    | none => none
    | some core => (placeCohort g st c awake n (i + 1) (start core)).map fun x => (x.1, core :: x.2)

/-- Wakes for the cores that a launch would use, those of a checked stage in pairs (R264). -/
def wakeCores (s : State) (st : Stage) (cores : List Nat) : State :=
  cores.foldl (fun s core =>
    let s1 := requestWake s (coreUnit core) st.prio false
    if st.il = 2 then requestWake s1 (coreUnit (core + 8)) st.prio false else s1) s

/-- The engines of the clusters a stage uses are awake (R266). -/
def enginesAwake (s : State) (st : Stage) (c : Fin 32) : Bool :=
  ((enginesOf c) ++ (if st.il = 2 then enginesOf (c + 1) else [])).all fun u => (unitOf s u).awake

/-- The ticket block that a grid's entry names, by the physical address of its first object. -/
def blockOf (s : State) (g : Grid) : Option Nat :=
  if entryTkn g.entry = 0 then none else okNat (screedPa s g.ref.part g.ref.tenant (entryTkb g.entry))

/-- The ticket block of a new grid is initialised when no other grid of the partition uses it (R290). -/
def initTickets (s : State) (g : Grid) : State :=
  let n := entryTkn g.entry
  if s.grids.any fun x => x.key != g.key && x.ref.part == g.ref.part && (blockOf s x).isSome && blockOf s x == blockOf s g then s
  else (List.range n).foldl (fun s k => match okNat (screedPa s g.ref.part g.ref.tenant (entryTkb g.entry + 16 * k)) with
    | some pa => { s with mem := Memory.write s.mem pa (List.replicate 16 0) }
    | none => s) s

/-- The grid that a stage launches from: the one under launch, or one for the entry at HEAD, which the walker takes and claims. -/
def takeGrid (s0 : State) (r : StageRef) (st : Stage) : Option (State × Grid) :=
  match openGrid s0 r with
  | some g => some (s0, g)
  | none =>
    if qLen s0 r st = 0 then none
    else
      let s := touchQueue s0 r st
      let i := qHead s r st
      let g : Grid := { key := s.fresh, ref := r, entry := qEntry s r st i, index := i, launched := 0, retired := [], wgs := 0, held := true }
      let s1 := touchTickets { tick s with grids := s.grids ++ [g] } r.part r.tenant g.entry
      some (qSetClaim (initTickets s1 g) r st true, g)

/-- Counters and the grid's record after a cohort's launch; the entry is popped with the last cohort (R244 step 4). -/
def cohortDone (s : State) (c : Fin 32) (g : Grid) (st : Stage) : State :=
  let last := decide (st.cohorts ≤ g.launched + 1)
  let s1 := { s with lastLaunch := s.lastLaunch.set c (some g.ref), grids := s.grids.map fun x => if x.key = g.key then
    { x with launched := x.launched + 1, wgs := x.wgs + st.cx * st.cy, held := !last } else x }
  let s2 := (chainOf s1 st.rcb).foldl (fun s n => modNode s n.rcb fun n => { n with launch := n.launch + 1 }) s1
  if last then qSetClaim (qPopHead s2 g.ref st) g.ref st false else s2

/-- A CRIT stage launches only where the engines of the cluster are awake; those that sleep are woken (R266). -/
def enginesReady (s : State) (st : Stage) (c : Fin 32) : Bool := st.prio != 1 || enginesAwake s st c

def wakeEngines (s : State) (st : Stage) (c : Fin 32) : State :=
  (enginesOf c ++ (if st.il = 2 then enginesOf (c + 1) else [])).foldl requestCrit s

/-- One attempt to launch a cohort of a stage on a cluster. The loans, the entries skipped and the wakes requested on the way stay;
the rest happens whole or not at all (R19). A launch that would use a sleeping core asks for its wake and waits for it; a CRIT stage
launches on cores that are awake while those suffice (R264, R265). The second part tells whether the cohort launched. -/
def tryCohort (s : State) (c : Fin 32) (r : StageRef) (st : Stage) : State × Bool :=
  let s0 := if (openGrid s r).isSome then s else skipEntries s r st (qLen s r st)
  if !hasWork s0 r st then (s0, false)
  else
    let s1 := borrowFor (chargeDue s0) st.rcb
    if !budgetOk s1 st.rcb then (s1, false)
    else if !enginesReady s1 st c then (wakeEngines s1 st c, false)
    else match takeGrid s1 r st with
      | none => (s1, false)
      | some (s2, g) =>
        let place (awake : Bool) : Option (State × List Nat) := placeCohort g st c.val awake (st.cx * st.cy) 0 s2
        match (if st.prio = 1 then (place true).or (place false) else place false) with
        | none => (s1, false)
        | some (s3, cores) =>
          if !cores.all (coreAwake s1 st) then (wakeCores s1 st (cores.filter fun k => !coreAwake s1 st k), false)
          else (cohortDone s3 c g st, true)

/-- An aborted IL1 workgroup of the stage starts again where there is room (R374). -/
def tryAgain (s : State) (c : Fin 32) (r : StageRef) (st : Stage) : State × Bool :=
  match s.relaunch.find? fun w => w.ref == r with
  | none => (s, false)
  | some w =>
    let s1 := borrowFor (chargeDue s) st.rcb
    if !budgetOk s1 st.rcb then (s1, false)
    else if !enginesReady s1 st c then (wakeEngines s1 st c, false)
    else
      let start (core : Nat) : State := startWg { tick s1 with relaunch := s1.relaunch.erase w } { w with key := s1.fresh } st core
      let place (awake : Bool) : Option Nat := placeOn s1 w.ten st c.val awake fun core => reservesKept s1 (start core) r
      match (if st.prio = 1 then (place true).or (place false) else place false) with
      | none => (s1, false)
      | some core =>
        if !coreAwake s1 st core then (wakeCores s1 st [core], false)
        else ({ start core with lastLaunch := s1.lastLaunch.set c (some r) }, true)

/-- A stage launches: an aborted workgroup first, then a cohort. -/
def tryStage (s : State) (c : Fin 32) (r : StageRef) (st : Stage) : State × Bool :=
  match tryAgain s c r st with
  | (s1, true) => (s1, true)
  | (s1, false) => tryCohort s1 c r st

def tryStages (c : Fin 32) : List (StageRef × Stage) → State → State
  | [], s => s
  | x :: xs, s => match tryStage s c x.1 x.2 with
    | (s1, true) => s1
    | (s1, false) => tryStages c xs s1

/-- COHORT_LAUNCH (R244, R245): the walker of a cluster launches one cohort, or an aborted workgroup again. -/
def execCohortLaunch (c : Fin 32) (s : State) : Out := .next (tryStages c (stageOrder s c) s)

end Sys2Proof.Machine
end

