-- ==== Sys2Proof/Machine/Mail.lean ====
section
/-! DEFINITION. The host's side of the device: answers to it, mailboxes and their bindings (R299, R322, R325 to R327), the secure
access rule (R302), and the refusal of configuration writes (R306). -/
namespace Sys2Proof.Machine

/-! ### Answers to the host -/

/-- The function responds: the PF, or a VF within the limit that boot set (R322, R343). DEDUCED (assumption 43): accesses of a VF above the limit
are answered as those of an absent function. -/
def funcOn (s : State) (f : Fin 17) : Bool := decide (f.val ≤ s.cfg.vfLimit)

def answer (s : State) (o : HostOut) : State := { s with out := s.out ++ [o] }

/-- The saturating count of refused secure accesses (R302). -/
def countSecErr (s : State) : State :=
  { s with dev := { s.dev with secerr := if s.dev.secerr = BitVec.allOnes 32 then s.dev.secerr else s.dev.secerr + 1 } }

/-- A write to the registers of a partition: dropped when the partition is secure and the request is not (R302). -/
def secWrite (s : State) (p : Fin 8) (sec : Bool) (f : State → State) : State :=
  host s fun s => if (part s p).world && !sec then countSecErr s else f s

/-- A refused configuration write of a partition (R306). -/
def refuseCfg (s : State) (p : Fin 8) (code : Byte) : State := setPart s p fun q => { q with cfgerr := true, errc := code }

/-- The write takes effect, or is refused with the lowest code among those that apply. -/
def checked (s : State) (p : Fin 8) (codes : List (Nat × Bool)) (f : State → State) : State :=
  match codes.filter (·.2) with
  | [] => f s
  | x :: xs => refuseCfg s p (BitVec.ofNat 8 (xs.foldl (fun m y => min m y.1) x.1))

/-! ### Mailboxes (R325, R326) -/

def slotOf (s : State) (f : Fin 17) (slot : Fin 16) : MbSlot := (s.mbox[f])[slot]

def setSlot (s : State) (f : Fin 17) (slot : Fin 16) (g : MbSlot → MbSlot) : State :=
  { s with mbox := s.mbox.set f ((s.mbox[f]).set slot (g (s.mbox[f])[slot])) }

/-- The enabled binding that names a slot. -/
def bindingOf (s : State) (f : Fin 17) (slot : Fin 16) : Option Binding :=
  s.binds.toList.find? fun b => b.en && b.func.toNat == f.val && b.slot.toNat == slot.val

/-- The first stage of a resident pipeline, by the address of its RCB. -/
def firstStage (s : State) (rcb : Nat) : Option (StageRef × Stage) :=
  (s.pipes.filterMap fun p =>
    match p.stages.foldl (fun (o : Option Stage) st => match o with
        | none => some st
        | some x => if st.index < x.index then some st else some x) none with
    | some st => if st.rcb = rcb then some ((⟨p.part, p.tenant, p.index, st.index⟩ : StageRef), st) else none
    | none => none).head?

/-- The function's mailboxes refuse posts while it is stopping, stopped or resuming (R330). -/
def postsHeld (s : State) (f : Fin 17) : Bool :=
  if h : 1 ≤ f.val then decide (2 ≤ (s.vfs[f.val - 1]'(by omega)).st) else false

/-- A message becomes an entry of the bound queue (R326 step 2). -/
def deliver (s : State) (f : Fin 17) (slot : Fin 16) (r : StageRef) (st : Stage) (msg : List Byte) : State :=
  setSlot (qPushEntry (touchQueue s r st) r st msg) f slot fun m => { m with posted := m.posted + 1, held := none }

/-- The times at which the messages that wait for a stage's queue were held. -/
def heldTimes (s : State) (stage : DWord) : List Nat :=
  s.binds.toList.filterMap fun b =>
    if b.en && b.stage == stage then
      (if h : b.func.toNat < 17 then
        let m := slotOf s ⟨b.func.toNat, h⟩ b.slot.toFin
        if m.held.isSome then some m.heldAt else none
      else none)
    else none

/-- The post: into the queue, or held while the queue is full or earlier messages wait for it (R326 steps 2 and 3). -/
def post (s : State) (f : Fin 17) (slot : Fin 16) (b : Binding) : State :=
  let msg := (slotOf s f slot).data.toList
  match firstStage s b.stage.toNat with
  | none => s
  | some (r, st) =>
    if qFull s r st || !(heldTimes s b.stage).isEmpty then setSlot (tick s) f slot fun m => { m with held := some msg, heldAt := s.fresh }
    else deliver s f slot r st msg

/-- The staging area with bytes stored from an offset on. -/
def MbSlot.store (m : MbSlot) (off : Nat) (bytes : List Byte) : MbSlot :=
  { m with data := Vector.ofFn fun i => if off ≤ i.val then (bytes[i.val - off]?).getD m.data[i] else m.data[i] }

/-- MBDATA_WRITE (R299, R326): aligned 4-byte or 8-byte writes; refused while FULL, discarded while unbound. -/
def execMbdataWrite (f : Fin 17) (slot : Fin 16) (off : Fin 64) (bytes : List (BitVec 8)) (s : State) : Out :=
  .next (host s fun s =>
    let n := bytes.length
    if !funcOn s f then answer s (.unsupported f.val)
    else if !(n == 4 || n == 8) || off.val % n != 0 then answer s (.unsupported f.val)
    else match bindingOf s f slot with
      | none => s
      | some b =>
        if (slotOf s f slot).held.isSome || postsHeld s f then setSlot s f slot fun m => { m with refused := true }
        else
          let s1 := setSlot s f slot fun m => m.store off.val bytes
          if off.val ≤ 0x3C ∧ 0x40 ≤ off.val + n then post s1 f slot b else s1)

/-- HELD_MESSAGE_ENTRY (R326 step 3): in the order in which the messages were held; FULL clears and, with IRQEN, the slot's vector is signalled. -/
def execHeldMessageEntry (f : Fin 17) (slot : Fin 16) (s : State) : Out :=
  .next (match bindingOf s f slot, (slotOf s f slot).held with
    | some b, some msg =>
      match firstStage s b.stage.toNat with
      | none => s
      | some (r, st) =>
        if qFull s r st || postsHeld s f || (heldTimes s b.stage).any (fun a => decide (a < (slotOf s f slot).heldAt)) then s
        else
          let s1 := deliver s f slot r st msg
          if (slotOf s f slot).irqen then answer s1 (.msix f.val b.vec.toNat) else s1
    | _, _ => s)

/-! ### Bindings (R327) -/

def setBinding (s : State) (n : Fin 256) (b : Binding) : State := { s with binds := s.binds.set n b }

/-- EN may be set on a binding. -/
def bindOk (s : State) (n : Fin 256) (b : Binding) : Bool :=
  decide (b.func.toNat ≤ 16) &&
  (match firstStage s b.stage.toNat with
    | none => false
    | some (r, _) => (part s r.part).func == b.func && (part s r.part).world == b.world) &&
  (List.finRange 256).all fun k => k == n || !((s.binds[k]).en && (s.binds[k]).func == b.func && (s.binds[k]).slot == b.slot)

/-- EN clears: a held message is discarded and DROP set; FULL clears with it, which IRQEN signals (R325, R327). -/
def unbind (s : State) (n : Fin 256) : State :=
  let b := s.binds[n]
  if !b.en then s
  else
    let s1 := setBinding s n { b with en := false }
    if h : b.func.toNat < 17 then
      let m := slotOf s ⟨b.func.toNat, h⟩ b.slot.toFin
      if m.held.isNone then s1
      else
        let s2 := setSlot s1 ⟨b.func.toNat, h⟩ b.slot.toFin fun m => { m with held := none, drop := true }
        if m.irqen then answer s2 (.msix b.func.toNat b.vec.toNat) else s2
    else s1

/-- A write to the first word of a binding: EN accepted when its conditions hold; the other fields change only while EN is 0. -/
def writeBinding (s : State) (n : Fin 256) (en world : Bool) (func : BitVec 5) (slot : BitVec 4) (vec : BitVec 3) : State :=
  let b := s.binds[n]
  if b.en then
    let s1 := setBinding s n { b with vec := vec }
    if en then s1 else unbind s1 n
  else
    let b1 : Binding := { b with world := world, func := func, slot := slot, vec := vec }
    setBinding s n { b1 with en := en && bindOk s n b1 }

/-- BINDING_ENABLE. -/
def execBindingEnable (n : Fin 256) (_sec : Bool) (s : State) : Out :=
  .next (host s fun s => let b := s.binds[n]; writeBinding s n true b.world b.func b.slot b.vec)

/-- BINDING_DISABLE. -/
def execBindingDisable (n : Fin 256) (_sec : Bool) (s : State) : Out := .next (host s fun s => unbind s n)

/-- A pipeline that leaves takes its bindings along (R327). -/
def unbindStages (s : State) (rcbs : List Nat) : State :=
  (List.finRange 256).foldl (fun s n => if (s.binds[n]).en && rcbs.contains (s.binds[n]).stage.toNat then unbind s n else s) s

end Sys2Proof.Machine
end

