-- ==== Sys2Proof/Machine/Configure.lean ====
section
/-! DEFINITION. Partitions, tenants, qry masks and fault-domain rings: the registers of the hypervisor and their checks (R239, R304
to R306, R340, R351). -/
namespace Sys2Proof.Machine

/-! ### Nodes (R239, R241) -/

/-- A node as it is when it is made resident (R239, R241). -/
def nodeFor (a parent : Nat) (b : List Byte) : Node :=
  { rcb := a, parent := parent, index := rcbIndex b, budset := rcbBudset b, lend := rcbLend b, refill := rcbRefill b,
    slice := rcbSlice b, bal := if rcbBudset b then (rcbRefill b : Int) * 1200 else 0, debt := 0, used := 0, launch := 0, loans := [] }

/-- A node is made resident, once, and its counters are written (R239). -/
def addNode (s : State) (n : Node) : State :=
  if (nodeOf s n.rcb).isSome then s else writeCounters { s with nodes := s.nodes ++ [n] } n

def dropNode (s : State) (a : Nat) : State := { s with nodes := s.nodes.filter fun n => n.rcb != a || n.parent == 0 }

/-! ### Partitions (R304, R306) -/

/-- A tenant holds a resident pipeline. -/
def holdsPipe (s : State) (p : Fin 8) (t : Fin 9) : Bool := s.pipes.any fun x => x.part == p && x.tenant == t

def partHoldsPipe (s : State) (p : Fin 8) : Bool := s.pipes.any fun x => x.part == p

def otherParts (s : State) (p : Fin 8) : List Partition :=
  ((List.finRange 8).filter fun q => q != p && (part s q).en).map (part s)

/-- ERRC 1: clusters or banks overlap those of another enabled partition, or banks pass the last. -/
def unitsClash (s : State) (p : Fin 8) (q : Partition) : Bool :=
  decide (512 < q.bfirst.toNat + q.bcnt.toNat) ||
  (otherParts s p).any fun o => q.clmask &&& o.clmask != 0 ||
    decide (max q.bfirst.toNat o.bfirst.toNat < min (q.bfirst.toNat + q.bcnt.toNat) (o.bfirst.toNat + o.bcnt.toNat))

/-- ERRC 2: a VF cannot own a secure partition, or two. -/
def ownerClash (s : State) (p : Fin 8) (q : Partition) : Bool :=
  q.func != 0 && (q.world || (otherParts s p).any fun o => o.func == q.func)

/-- ERRC 3: ROOT holds no valid partition RCB, or there is no device root. -/
def rootBad (s : State) (q : Partition) : Bool :=
  s.dev.devroot == 0 || !rcbAt q.root.toNat || !rcbGood (readRcb s q.root.toNat) 1 ||
  rcbParent (readRcb s q.root.toNat) != s.dev.devroot.toNat

/-- Every creel of the partition's clusters reads zero (R165). -/
def clearPartCreels (s : State) (q : Partition) : State :=
  (List.finRange 32).foldl (fun s c => if q.clmask.getLsbD c.val then clearCreels s c else s) s

/-- EN is set: RUN, the partition's node and its clusters' creels. -/
def enablePart (s : State) (p : Fin 8) : State :=
  let q := part s p
  let s1 := clearPartCreels (setPart s p fun q => { q with en := true, run := true }) q
  addNode s1 (nodeFor q.root.toNat s.dev.devroot.toNat (readRcb s q.root.toNat))

/-- EN is cleared: the clusters run no slices, an error state of its VF ends (R329). -/
def disablePart (s : State) (p : Fin 8) : State :=
  let q := part s p
  let s1 := dropNode (setPart s p fun q => { q with en := false, run := false }) q.root.toNat
  let s2 := { s1 with slices := Vector.ofFn fun c => if q.clmask.getLsbD c.val then ⟨none, s.now, none⟩ else s1.slices[c] }
  match partVf s p with
  | some f => if (s.vfs[f]).st = 5 then { s2 with vfs := s2.vfs.set f { s2.vfs[f] with st := 0 } } else s2
  | none => s2

/-- A write of the partition's first word (R304, R306). -/
def writePart (s : State) (p : Fin 8) (func : BitVec 5) (world det en : Bool) : State :=
  let q := part s p
  let q1 : Partition := { q with func := func, world := world, det := det }
  let setting := en && !q.en
  checked s p
    [(1, setting && unitsClash s p q1), (2, setting && ownerClash s p q1), (3, setting && rootBad s q1),
     (4, q.en && (func != q.func || world != q.world || det != q.det)), (5, q.en && !en && partHoldsPipe s p)] fun s =>
    let s1 := setPart s p fun q => { q with func := func, world := world, det := det }
    if setting then enablePart s1 p else if q.en && !en then disablePart s1 p else s1

/-- PARTITION_ENABLE. -/
def execPartitionEnable (p : Fin 8) (sec : Bool) (s : State) : Out :=
  .next (secWrite s p sec fun s => let q := part s p; writePart s p q.func q.world q.det true)

/-- PARTITION_DISABLE. -/
def execPartitionDisable (p : Fin 8) (sec : Bool) (s : State) : Out :=
  .next (secWrite s p sec fun s => let q := part s p; writePart s p q.func q.world q.det false)

/-- A write of CLMASK, the banks or ROOT: only while EN is 0. -/
def writeUnits (s : State) (p : Fin 8) (f : Partition → Partition) : State :=
  checked s p [(4, (part s p).en)] fun s => setPart s p f

/-! ### Tenants (R305, R306) -/

/-- Ways of a world (R302). -/
def worldWays (s : State) (sec : Bool) : BitVec 16 := BitVec.ofFnLE fun w : Fin 16 => s.cfg.wgworld.getLsbD (w.val / 4) == sec

/-- ERRC 6: clusters or ways outside the partition's, or no way of its world. -/
def sharesBad (s : State) (p : Fin 8) (x : Tenant) : Bool :=
  let q := part s p
  x.tclmask &&& ~~~q.clmask != 0 || x.tways &&& ~~~q.ways != 0 || x.tways &&& worldWays s q.world == 0

/-- ERRC 7: tenant 0 and a sub-partition are not enabled together. -/
def kindClash (s : State) (p : Fin 8) (t : Fin 9) : Bool :=
  if t = 0 then (List.finRange 9).any fun u => u != 0 && (tenant s p u).en else (tenant s p 0).en

/-- EN of a tenant is written: its lines lose their charge when it is disabled (R310). -/
def writeTenantEn (s : State) (p : Fin 8) (t : Fin 9) (en : Bool) : State :=
  let x := tenant s p t
  checked s p
    [(6, en && !x.en && sharesBad s p x), (7, en && !x.en && kindClash s p t), (8, en != x.en && holdsPipe s p t)] fun s =>
    let s1 := setTenant s p t fun x => { x with en := en }
    if x.en && !en then { s1 with l2 := s1.l2.map fun l => if l.tenant = some (p, t) then { l with tenant := none } else l } else s1

/-- TENANT_ENABLE. -/
def execTenantEnable (p : Fin 8) (t : Fin 9) (sec : Bool) (s : State) : Out := .next (secWrite s p sec fun s => writeTenantEn s p t true)

/-- TENANT_DISABLE. -/
def execTenantDisable (p : Fin 8) (t : Fin 9) (sec : Bool) (s : State) : Out := .next (secWrite s p sec fun s => writeTenantEn s p t false)

/-- TCLMASK, TWAYS and TTBR: shares stay within the partition's while the tenant is enabled; no change of clusters or of the
translation root under a resident pipeline. -/
def writeShares (s : State) (p : Fin 8) (t : Fin 9) (f : Tenant → Tenant) : State :=
  let x := tenant s p t
  let y := f x
  checked s p
    [(6, x.en && (y.tclmask != x.tclmask || y.tways != x.tways) && sharesBad s p y),
     (8, (y.tclmask != x.tclmask || y.ttbr != x.ttbr) && holdsPipe s p t)] fun s => setTenant s p t f

/-! ### qry masks (R340) -/

/-- QRY_MASK_WRITE. -/
def execQryMaskWrite (f : Fin 16) (leaf : Fin 16) (v : BitVec 32) (s : State) : Out :=
  .next (host s fun s =>
    if (List.finRange 8).any fun p => partVf s p == some f && partHoldsPipe s p then s
    else { s with qmask := s.qmask.set f ((s.qmask[f]).set leaf v) })

/-! ### Fault-domain rings (R351) -/

/-- A partition that is secure has a stage in the domain. -/
def domainSecure (s : State) (d : Fin 64) : Bool :=
  s.pipes.any fun p => (part s p.part).world && p.stages.any fun st => Fin.ofNat 64 st.fdom == d

def domWrite (s : State) (d : Fin 64) (sec : Bool) (f : State → State) : State :=
  host s fun s => if domainSecure s d && !sec then countSecErr s else f s

def setDomain (s : State) (d : Fin 64) (f : Domain → Domain) : State := { s with domains := s.domains.set d (f s.domains[d]) }

/-- The control word of a ring: ignored in full when RLOG or FUNC is out of range; setting EN zeroes the counters. -/
def writeRing (s : State) (d : Fin 64) (v : Nat) : State :=
  let x := s.domains[d]
  let en := bitAt v 31
  let func := bits v 20 16
  let rlog := bits v 4 0
  if rlog < 6 || 16 < rlog || 16 < func then s
  else setDomain s d fun _ =>
    let y : Domain := { x with en := en, vec := BitVec.ofNat 8 (bits v 15 8) }
    if x.en then y
    else
      let z : Domain := { y with func := BitVec.ofNat 5 func, rlog := rlog }
      if en then { z with head := 0, tail := 0, lost := 0, seq := 0 } else z

/-- DOMAIN_RING_ENABLE. -/
def execDomainRingEnable (d : Fin 64) (v : BitVec 32) (sec : Bool) (s : State) : Out :=
  .next (domWrite s d sec fun s => writeRing s d v.toNat)

end Sys2Proof.Machine
end

