-- ==== Sys2Proof/Machine/Reside.lean ====
section
/-! DEFINITION. Making a pipeline resident: the residency record, the RCBs and descriptors, images and pick tables, and the checks of
RESIDE (R8, R18, R19, R21, R63, R239, R243, R308, R341, R349). -/
namespace Sys2Proof.Machine

/-! ### Context commands (R307) -/

/-- A context command: dropped while one is under way. -/
def ctxCommand (s : State) (p : Fin 8) (t : Fin 9) (sec : Bool) (f : State → State) : State :=
  secWrite s p sec fun s => if (tenant s p t).ctxstat = 1 then setTenant s p t fun x => { x with lost := true } else f s

def ctxResult (s : State) (p : Fin 8) (t : Fin 9) (stat : Nat) : State := setTenant s p t fun x => { x with ctxstat := stat }

def ctxReject (s : State) (p : Fin 8) (t : Fin 9) (reason : Nat) : State :=
  setTenant s p t fun x => { x with ctxstat := 5, reason := BitVec.ofNat 8 reason }

/-! ### Images in the tenant's memory (R308) -/

/-- The physical address of a byte of code or of a pick table. -/
def imagePa (s : State) (p : Fin 8) (t : Fin 9) (va : Nat) : Option Nat :=
  if 2 ^ 49 ≤ va then none
  else match (lookupDev s p t va).2 with
    | .ok x => match checkXl s (part s p).world .load x va with
      | .ok pa => if inMain pa then some pa else none
      | .error _ => none
    | _ => none

/-- Bytes of an image, page by page. -/
def imageBytes (s : State) (p : Fin 8) (t : Fin 9) : Nat → Nat → Nat → Option (List Byte)
  | 0, _, n => if n = 0 then some [] else none
  | fuel + 1, va, n =>
    if n = 0 then some []
    else
      let k := min n (4096 - va % 4096)
      match imagePa s p t va, imageBytes s p t fuel (va + k) (n - k) with
      | some pa, some rest => some (devRead s pa k ++ rest)
      | _, _ => none

def imageOf (s : State) (p : Fin 8) (t : Fin 9) (va n : Nat) : Option (List Byte) := imageBytes s p t (n / 4096 + 2) va n

/-- The code holds an experimental opcode, read from its first byte on (R53, R341). -/
def usesExperimental : List Byte → Bool
  | b0 :: b1 :: b2 :: b3 :: rest =>
    if b0.toNat % 2 = 0 then usesExperimental (b2 :: b3 :: rest)
    else
      let w := leNat [b0, b1, b2, b3]
      (w % 128 == 0x2F && w / 2 ^ 29 == 4) || (w % 128 == 0x33 && w / 2 ^ 29 == 3) || usesExperimental rest
  | _ => false

/-! ### Pick tables (R63, R349) -/

/-- An entry of a pick record is well-formed. -/
def pickEntryGood (e : List Byte) : Bool :=
  let k := bytesAt e 0 1
  let a := bytesAt e 1 1
  let b := bytesAt e 2 1
  bytesAt e 3 1 == 0 &&
  (if k = 0 then decide (a < 96 ∧ b < 96)
   else if k = 1 then decide (96 ≤ a ∧ a < 120 ∧ 96 ≤ b ∧ b < 120)
   else k == 2 && decide (a < 64 ∧ b < 64))

/-- One record: its fields and its bytes; the error is the REASON. DESIGN CHOICE (assumption 31): R29 says that a PC is even and gives no check of
an odd one in a pick record; it is accepted. -/
def readPick (s : State) (p : Fin 8) (t : Fin 9) (cls : CoreClass) (va : Nat) : Except Nat (PickRec × List Byte) :=
  match imageOf s p t va 20 with
  | none => .error 5
  | some h =>
    let count := bytesAt h 0x10 2
    match imageOf s p t (va + 20) (4 * count) with
    | none => .error 5
    | some es =>
      let n := bytesAt h 0 4
      let ents := (List.range count).map fun i => (es.drop (4 * i)).take 4
      if !ents.all pickEntryGood || bytesAt h 0xC 4 % 16 != 0 || (n != handlerPick && decide (131071 < n)) ||
          (n == handlerPick && (bytesAt h 0xC 4 != 0 || count != 0)) then .error 2
      else .ok ({ cls := cls, n := n, stage := bytesAt h 0x12 2, pc := BitVec.ofNat 32 (bytesAt h 4 4),
                  other := BitVec.ofNat 32 (bytesAt h 8 4), carry := bytesAt h 0xC 4,
                  entries := ents.map fun e => (bytesAt e 0 1, bytesAt e 1 1, bytesAt e 2 1) }, h ++ es)

def readPicks (s : State) (p : Fin 8) (t : Fin 9) (cls : CoreClass) : Nat → Nat → Except Nat (List PickRec × List Byte)
  | 0, _ => .ok ([], [])
  | n + 1, va =>
    match readPick s p t cls va with
    | .error e => .error e
    | .ok (r, bs) => match readPicks s p t cls n (va + bs.length) with
      | .error e => .error e
      | .ok (rs, cs) => .ok (r :: rs, bs ++ cs)

/-- Records stand in increasing stage index and pick number, each once, for stages of the set. -/
def picksGood (stages : List Nat) : List PickRec → Bool
  | [] => true
  | [r] => stages.contains r.stage
  | a :: b :: rest =>
    stages.contains a.stage && (decide (a.stage < b.stage) || (a.stage == b.stage && decide (a.n < b.n))) &&
    picksGood stages (b :: rest)

/-- The pick table at an address, or none for 0; the manual does not give its record count (assumption 9). -/
def pickTable (s : State) (p : Fin 8) (t : Fin 9) (cls : CoreClass) (va : Nat) : Except Nat (List PickRec × List Byte) :=
  if va = 0 then .ok ([], []) else readPicks s p t cls (Config.pickRecords va) va

/-! ### Stage descriptors (R243) -/

/-- The descriptor keeps every rule of R243, for a partition's mode and the stage's class of priority. -/
def descGood (b : List Byte) (det crit : Bool) : Bool :=
  let w := bytesAt b 0 4
  let regs := bytesAt b 0x10 4
  let roles := bytesAt b 0x1C 4
  let rolev := bytesAt b 0x20 4
  let grid := bytesAt b 0x24 4
  let coh := bytesAt b 0x2C 4
  let gx := bits grid 15 0
  let gy := bits grid 31 16
  let cx := bits coh 7 0
  let cy := bits coh 15 8
  let vec (v : Nat) : Bool := v % 8 == 0 && decide (8 ≤ v ∧ v ≤ 96)
  let sca (v : Nat) : Bool := decide (1 ≤ v ∧ v ≤ 24)
  let rv (v : Nat) : Bool := v % 8 == 0 && decide (v ≤ 96)
  bits w 31 16 == 0 && bits w 7 5 == 0 && decide (bits w 15 13 ≤ 4) && decide (bits w 9 8 ≤ 2) &&
  bits regs 31 29 == 0 && !bitAt regs 23 && bits regs 15 13 == 0 && !bitAt regs 7 &&
  sca (bits regs 28 24) && vec (bits regs 22 16) && sca (bits regs 12 8) && vec (bits regs 6 0) &&
  bytesAt b 0x14 4 % 1024 == 0 && decide (1 ≤ bytesAt b 0x18 4 ∧ bytesAt b 0x18 4 ≤ 16) &&
  bits roles 31 12 == 0 && decide (bits roles 11 8 + bits roles 7 4 + bits roles 3 0 ≤ bytesAt b 0x18 4) &&
  bits rolev 31 24 == 0 && rv (bits rolev 23 16) && rv (bits rolev 15 8) && rv (bits rolev 7 0) &&
  gx != 0 && gy != 0 && decide (1 ≤ bytesAt b 0x28 4 ∧ bytesAt b 0x28 4 ≤ 65535) &&
  bits coh 31 16 == 0 && cx != 0 && cy != 0 && decide (cx * cy ≤ 64) && gx % cx == 0 && gy % cy == 0 &&
  decide (bytesAt b 0x30 4 ≤ 65535) && bits (bytesAt b 0x34 4) 31 8 == 0 && (crit || bytesAt b 0x34 4 == 0) &&
  (if det then decide (1 ≤ bytesAt b 0x38 4 ∧ bytesAt b 0x38 4 ≤ 65535) else bytesAt b 0x38 4 == 0) && allZero b 0x3C 68 &&
  !(bytesAt b 8 4 == 0xFFFFFFFF && bytesAt b 0xC 4 == 0xFFFFFFFF)

/-! ### Inheritance (R18, R239) -/

/-- The value of the nearest RCB of a chain that sets a field. -/
def inherited (chain : List (List Byte)) (sets : List Byte → Bool) (val : List Byte → Nat) (dflt : Nat) : Nat :=
  ((chain.find? sets).map val).getD dflt

def prioOf (desc : List Byte) (chain : List (List Byte)) : Nat :=
  let d := bits (bytesAt desc 0 4) 15 13
  if d != 0 then d else inherited chain (fun b => rcbPrio b != 0) rcbPrio 3

def vlimOf (chain : List (List Byte)) : Nat :=
  chain.foldl (fun m b => let v := rcbVlim b; if v = 0 then m else if m = 0 then v else min m v) 0

/-- A stage from its RCB, its descriptor and the RCBs above it; an image that the record does not name is absent. DESIGN
CHOICE (assumption 31): R29 says that a PC is even and gives no check of an odd SENTRY or BENTRY; it is accepted. -/
def makeStage (s : State) (rcb : Nat) (b desc : List Byte) (above : List (List Byte)) (shuttle beam : Bool) : Stage :=
  let w := bytesAt desc 0 4
  let chain := b :: above
  let regs := bytesAt desc 0x10 4
  let q := rcbQword b
  { index := bits w 4 0, rcb := rcb, prio := prioOf desc chain,
    cls := if (if bitAt w 12 then bitAt w 10 else inherited chain rcbClset (fun b => bit (rcbBeam b)) 0 == 1) then .beam else .shuttle,
    il := if bitAt w 11 then bits w 9 8 else inherited chain rcbIlset rcbIl 0,
    fdom := inherited chain rcbFdset rcbFdom (rootDomain s).val, vlim := vlimOf chain,
    sentry := if shuttle then BitVec.ofNat 32 (bytesAt desc 8 4) else BitVec.allOnes 32,
    bentry := if beam then BitVec.ofNat 32 (bytesAt desc 0xC 4) else BitVec.allOnes 32,
    sreg := (bits regs 6 0, bits regs 12 8), breg := (bits regs 22 16, bits regs 28 24), loc := bytesAt desc 0x14 4,
    groups := bytesAt desc 0x18 4,
    roles := (bits (bytesAt desc 0x1C 4) 3 0, bits (bytesAt desc 0x1C 4) 7 4, bits (bytesAt desc 0x1C 4) 11 8),
    rolev := (bits (bytesAt desc 0x20 4) 7 0, bits (bytesAt desc 0x20 4) 15 8, bits (bytesAt desc 0x20 4) 23 16),
    gx := bytesAt desc 0x24 2, gy := bytesAt desc 0x26 2, gz := bytesAt desc 0x28 2, cx := bytesAt desc 0x2C 1, cy := bytesAt desc 0x2D 1,
    migdl := bytesAt desc 0x30 2, resCore := bits (bytesAt desc 0x34 4) 3 0, resMat := bits (bytesAt desc 0x34 4) 7 4,
    buflim := bytesAt desc 0x38 2, qbase := BitVec.ofNat 64 (rcbQbase b), qlog := bits q 4 0, hwm := bits q 11 8, lwm := bits q 15 12 }

/-- The RCBs of a pipeline's stages: those of level 4 in main memory whose PARENT is the pipeline's (assumption 8). -/
def stageRcbs (s : State) (pipe : Nat) : List Nat :=
  let cands : List Nat := (s.mem.map (fun (x : Host.Cell) => x.1) ++ s.l1.map (fun (l : L1Line) => l.line * 128)).filter rcbAt
  cands.eraseDups.filter fun a => rcbLevel (readRcb s a) == 4 && rcbParent (readRcb s a) == pipe

/-! ### The checks (R308) -/

/-- Workgroups of a stage that an empty cluster could hold (R19). -/
def fitsAtMost (st : Stage) : Nat :=
  let per (cls : CoreClass) (slots : Nat) : Nat :=
    if !st.hasImage cls then 0
    else
      let n := slots / max st.groups 1
      if st.takes cls = 0 then n else min n (coreLocal / st.takes cls)
  2 * per .shuttle 8 + 4 * per .beam 32

/-- A complete even and odd pair among the partition's clusters (R21). -/
def hasPair (m : Mask) : Bool := (List.range 16).any fun k => m.getLsbD (2 * k) && m.getLsbD (2 * k + 1)

/-- A page of a queue is mapped for loads and stores, in the right world, in the partition's banks. -/
def queuePageOk (s : State) (p : Fin 8) (t : Fin 9) (va : Nat) : Bool :=
  decide (va < 2 ^ 49) && (okNat (screedPa s p t va)).isSome &&
  match (lookupDev s p t va).2 with
  | .ok x => x.pr && x.w
  | _ => false

/-- The first byte of each page that a byte range touches. -/
def pagesOf (va n : Nat) : List Nat := (List.range (n / 4096 + 2)).filterMap fun k =>
  let a := if k = 0 then va else va / 4096 * 4096 + k * 4096
  if a < va + n then some a else none

def queueOk (s : State) (p : Fin 8) (t : Fin 9) (st : Stage) : Bool :=
  (pagesOf st.qbase.toNat (64 + 64 * 2 ^ st.qlog)).all (queuePageOk s p t)

/-- The chain above a pipeline's RCB: addresses and bytes, nearest first (R239). -/
def aboveOf (s : State) (p : Fin 8) (t : Fin 9) (pipe : List Byte) : Option (List (Nat × List Byte)) :=
  let root := (part s p).root.toNat
  let top := [(root, readRcb s root), (s.dev.devroot.toNat, readRcb s s.dev.devroot.toNat)]
  if !rcbAt s.dev.devroot.toNat || !rcbGood (readRcb s s.dev.devroot.toNat) 0 || !rcbGood (readRcb s root) 1 then none
  else if t = 0 then (if rcbParent pipe = root then some top else none)
  else
    let a := rcbParent pipe
    let b := readRcb s a
    if rcbAt a && rcbGood b 2 && rcbParent b == root then some ((a, b) :: top) else none

/-- What RESIDE has read, once it is well-formed. -/
structure Loaded where
  pipe   : Pipeline
  above  : List (Nat × List Byte)
  rcbs   : List (Nat × List Byte)
  scode  : Option (List Byte)
  bcode  : Option (List Byte)
  picks  : Except Nat (List Byte)

/-- The stage's descriptor, when the RCB and it are well-formed. -/
def stageGood (s : State) (p : Fin 8) (a : Nat) (above : List (List Byte)) : Bool :=
  let b := readRcb s a
  let d := devRead s (rcbDesc b) 128
  rcbGood b 4 && inMain (rcbDesc b + 127) && descGood d (part s p).det (prioOf d (b :: above) == 1)

def distinct : List Nat → Bool
  | [] => true
  | x :: xs => !xs.contains x && distinct xs

/-- The record, the RCBs, the descriptors, the images and the pick tables; none when one of them is malformed (REASON 2). -/
def loadPipe (s : State) (p : Fin 8) (t : Fin 9) : Option Loaded :=
  let arg := (tenant s p t).ctxarg.toNat
  let r := devRead s arg 64
  let pa := bytesAt r 0 8
  let pb := readRcb s pa
  if arg % 64 != 0 || !inMain (arg + 63) || !allZero r 0x30 16 || !rcbAt pa || !rcbGood pb 3 then none
  else match aboveOf s p t pb with
    | none => none
    | some top =>
      let above := (pa, pb) :: top
      let rcbs := stageRcbs s pa
      let sbase := bytesAt r 8 8
      let bbase := bytesAt r 0x10 8
      let stages := rcbs.map fun a =>
        let b := readRcb s a
        makeStage s a b (devRead s (rcbDesc b) 128) (above.map (·.2)) (sbase != 0) (bbase != 0)
      let idx := stages.map (·.index)
      if rcbs.isEmpty || decide (32 < rcbs.length) || !rcbs.all (fun a => stageGood s p a (above.map (·.2))) || !distinct idx ||
          s.pipes.any (fun q => q.rcb == pa || (q.part == p && q.tenant == t && q.index == rcbIndex pb)) ||
          decide (64 ≤ (s.pipes.filter fun q => q.part == p && q.tenant == t).length) then none
      else
        let code (va n : Nat) : Option (List Byte) := if va = 0 then some [] else imageOf s p t va n
        let sp := if sbase = 0 then .ok ([], []) else pickTable s p t .shuttle (bytesAt r 0x20 8)
        let bp := if bbase = 0 then .ok ([], []) else pickTable s p t .beam (bytesAt r 0x28 8)
        let (picks, raw) : List PickRec × Except Nat (List Byte) := match sp, bp with
          | .ok (x, xs), .ok (y, ys) => (x ++ y, if picksGood idx x && picksGood idx y then .ok (xs ++ ys) else .error 2)
          | .error e, .ok _ => ([], .error e)
          | .ok _, .error e => ([], .error e)
          | .error e, .error f => ([], .error (min e f))
        some { pipe := { part := p, tenant := t, rcb := pa, index := rcbIndex pb, sbase := BitVec.ofNat 64 sbase, bbase := BitVec.ofNat 64 bbase,
                         ssize := bytesAt r 0x18 4, bsize := bytesAt r 0x1C 4, stages := stages, picks := picks, digest := [] },
               above := above, rcbs := rcbs.map fun a => (a, readRcb s a),
               scode := code sbase (bytesAt r 0x18 4), bcode := code bbase (bytesAt r 0x1C 4), picks := raw }

def badPicks (l : Loaded) (k : Nat) : Bool :=
  match l.picks with
  | .error e => e == k
  | .ok _ => false

/-- An image uses an experimental opcode, or a stage is checked, while the feature is masked (R337, R341). -/
def maskedUse (s : State) (p : Fin 8) (l : Loaded) : Bool :=
  (!featureFor s p 1 && l.pipe.stages.any fun st => st.il == 2) ||
  (!featureFor s p 0 && (((l.scode.map usesExperimental).getD false) || ((l.bcode.map usesExperimental).getD false)))

/-- The REASON codes above 2 that apply, in increasing order. -/
def resideReasons (s : State) (p : Fin 8) (t : Fin 9) (l : Loaded) : List Nat :=
  let sts := l.pipe.stages
  (([(2, badPicks l 2), (3, sts.any fun st => decide (fitsAtMost st < st.cx * st.cy)),
    (4, sts.any fun st => st.il == 2 && !hasPair (part s p).clmask), (5, l.scode.isNone || l.bcode.isNone || badPicks l 5),
    (6, maskedUse s p l), (7, sts.any fun st => !st.hasImage .shuttle && !st.hasImage .beam),
    (8, sts.any fun st => st.vlim != 0 && ([CoreClass.shuttle, .beam]).any fun k => st.hasImage k && decide (st.vlim < st.maxV k)),
    (10, sts.any fun st => !queueOk s p t st)] : List (Nat × Bool)).filter (·.2)).map (·.1)

/-- Every node of the pipeline is made resident, those above it if they were not (R239, R241). -/
def addNodes (s : State) (l : Loaded) : State :=
  let up : List (Nat × List Byte) := l.above
  let s1 := up.foldl (fun s x => if rcbParent x.2 = 0 then s else addNode s (nodeFor x.1 (rcbParent x.2) x.2)) s
  l.rcbs.foldl (fun s x => addNode s (nodeFor x.1 l.pipe.rcb x.2)) s1

/-- The header of a queue as the device writes it at residency (R282). -/
def clearQueue (s : State) (r : StageRef) (st : Stage) : State :=
  let s1 := { s with marks := s.marks.filter fun m => m.1 != qKey s r st }
  match qAddr s1 r st 0 with
  | some pa => { s1 with mem := Memory.write s1.mem pa (List.replicate 64 0) }
  | none => s1

/-- The pipeline becomes resident. -/
def resideNow (s : State) (p : Fin 8) (t : Fin 9) (l : Loaded) : State :=
  let raw := match l.picks with
    | .ok bs => bs
    | .error _ => []
  let code := l.scode.getD [] ++ l.bcode.getD [] ++ raw
  let s1 := { s with pipes := s.pipes ++ [{ l.pipe with digest := (Config.shake256 code).toList }] }
  let s2 := addNodes s1 l
  ctxResult (l.pipe.stages.foldl (fun s st => clearQueue s ⟨p, t, l.pipe.index, st.index⟩ st) s2) p t 2

/-- The fault domain of a pipeline: of the nearest RCB from its own up that sets one (R18). -/
def pipeDomain (s : State) (l : Loaded) : Fin 64 := Fin.ofNat 64 (inherited (l.above.map (·.2)) rcbFdset rcbFdom (rootDomain s).val)

/-- A rejection for its stages' shape or for want of a pair is reported through the pipeline's fault domain as well (R19, R21). The TYPE of that
record is left open (assumption 45). -/
def reportReject (s : State) (p : Fin 8) (t : Fin 9) (l : Loaded) (reason : Nat) : State :=
  if reason = 3 ∨ reason = 4 then
    putRecord s (pipeDomain s l) { type := (Config.rejectType reason).toNat, cause := 0, pipe := l.pipe.index, ten := tenField p t }
  else s

/-- The pages of a tenant's byte range, as the device translates them: the walks are the tenant's (R310, R319). -/
def touchRange (s : State) (p : Fin 8) (t : Fin 9) (va n : Nat) : State :=
  if va = 0 then s else (pagesOf va n).foldl (fun s a => (lookupDev s p t a).1) s

/-- The translations that the checks of RESIDE make: of the images, the pick tables and the queues. -/
def touchResided (s : State) (p : Fin 8) (t : Fin 9) (l : Loaded) : State :=
  let rec_ := devRead s (tenant s p t).ctxarg.toNat 64
  let picks (s : State) (cls : CoreClass) (va : Nat) : State := match pickTable s p t cls va with
    | .ok (_, bs) => touchRange s p t va bs.length
    | .error _ => s
  let s1 := touchRange (touchRange s p t l.pipe.sbase.toNat l.pipe.ssize) p t l.pipe.bbase.toNat l.pipe.bsize
  let s2 := picks (picks s1 .shuttle (bytesAt rec_ 0x20 8)) .beam (bytesAt rec_ 0x28 8)
  l.pipe.stages.foldl (fun s st => touchRange s p t st.qbase.toNat (64 + 64 * 2 ^ st.qlog)) s2

/-- RESIDE (R307, R308). -/
def execReside (p : Fin 8) (t : Fin 9) (sec : Bool) (s : State) : Out :=
  .next (ctxCommand s p t sec fun s => match loadPipe s p t with
    | none => ctxReject s p t 2
    | some l => match resideReasons s p t l with
      | k :: _ => ctxReject (reportReject (touchResided s p t l) p t l k) p t k
      | [] => resideNow (touchResided s p t l) p t l)

end Sys2Proof.Machine
end

