-- ==== Sys2Proof/Machine/Context.lean ====
section
/-! DEFINITION. Context commands beyond RESIDE: RELEASE, pre-emption, its drain and deadline, the forced reset (R257, R258, R307). -/
namespace Sys2Proof.Machine

/-! ### RELEASE (R307) -/

/-- The resident pipeline of a tenant by the address of its RCB. -/
def pipeAt (s : State) (p : Fin 8) (t : Fin 9) (rcb : Nat) : Option Pipeline :=
  s.pipes.find? fun q => q.part == p && q.tenant == t && q.rcb == rcb

def Pipeline.owns (q : Pipeline) (r : StageRef) : Bool := r.part == q.part && r.tenant == q.tenant && r.pipe == q.index

/-- Work of a pipeline remains: a workgroup, to be launched again or not, its tasks with it, or an entry held for a grid. -/
def pipeBusy (s : State) (q : Pipeline) : Bool :=
  (s.wgs ++ s.relaunch).any (fun w => q.owns w.ref) || s.grids.any fun g => q.owns g.ref && g.held

/-- The entries of a stage's queue are discarded, with one record of type 14. -/
def discardQueue (s : State) (r : StageRef) (st : Stage) : State :=
  let n := qLen s r st
  if n = 0 then s
  else
    let i := qHead s r st
    let s1 := qSetWord s r st 0 (qCommitted s r st)
    putRecord s1 (stageDomain s1 r)
      { type := 14, cause := 0, inner := n, pipe := r.pipe, stage := r.stage, ten := tenField r.part r.tenant, aux := i }

/-- Nodes that no resident pipeline's chain holds leave, but the root's and the partitions' stay. -/
def pruneNodes (s : State) : State :=
  let used := s.pipes.flatMap fun q => (q.rcb :: q.stages.map (·.rcb)).flatMap fun a => (chainOf s a).map (·.rcb)
  let roots := s.parts.toList.map fun q => q.root.toNat
  { s with nodes := s.nodes.filter fun n => n.parent == 0 || used.contains n.rcb || roots.contains n.rcb }

/-- A pipeline with no work left goes. -/
def removePipe (s : State) (q : Pipeline) : State :=
  let s1 := q.stages.foldl (fun s st => discardQueue s ⟨q.part, q.tenant, q.index, st.index⟩ st) s
  let s2 := unbindStages s1 (q.stages.map (·.rcb))
  pruneNodes { s2 with pipes := s2.pipes.erase q, grids := s2.grids.filter fun g => !q.owns g.ref }

/-- RELEASE. An address that names no resident pipeline of the tenant is rejected as malformed. -/
def execRelease (p : Fin 8) (t : Fin 9) (sec : Bool) (s : State) : Out :=
  .next (ctxCommand s p t sec fun s => match pipeAt s p t (tenant s p t).ctxarg.toNat with
    | none => ctxReject s p t 2
    | some q => if pipeBusy s q then ctxReject s p t 9 else ctxResult (removePipe s q) p t 2)

/-! ### Pre-emption (R257) -/

/-- PREEMPT: no new cohort launches, the drain begins. -/
def execPreempt (p : Fin 8) (t : Fin 9) (sec : Bool) (s : State) : Out :=
  .next (ctxCommand s p t sec fun s => setTenant s p t fun x => { x with hold := true, ctxstat := 1, drainAt := s.now })

/-- RESUME: launches again. -/
def execResume (p : Fin 8) (t : Fin 9) (sec : Bool) (s : State) : Out :=
  .next (ctxCommand s p t sec fun s => setTenant s p t fun x => { x with hold := false, ctxstat := 2 })

/-- CTXCMD_INVALID. -/
def execCtxcmdInvalid (p : Fin 8) (t : Fin 9) (_code : BitVec 32) (sec : Bool) (s : State) : Out :=
  .next (ctxCommand s p t sec fun s => ctxReject s p t 1)

/-- No workgroup of the context is left, to be launched again or not; its kicks and commits are over with it. -/
def drained (s : State) (p : Fin 8) (t : Fin 9) : Bool := (s.wgs ++ s.relaunch).all fun w => w.ten != (p, t)

/-- The drain is under way. -/
def draining (s : State) (p : Fin 8) (t : Fin 9) : Bool := (tenant s p t).ctxstat == 1 && (tenant s p t).hold

/-- CONTEXT_DRAINED (R257 step 3). -/
def execContextDrained (p : Fin 8) (t : Fin 9) (s : State) : Out :=
  .next (if draining s p t && drained s p t then ctxResult s p t 3 else s)

/-! ### The forced reset (R258) -/

/-- An entry that the walker holds is popped and discarded with its unlaunched cohorts, with a record of its own (R350). -/
def popHeld (s : State) (g : Grid) : State :=
  match stageOf s g.ref with
  | none => s
  | some st =>
    if !g.held then s
    else
      let s1 := qSetClaim (qPopHead s g.ref st) g.ref st false
      putRecord s1 (stageDomain s1 g.ref)
        { type := 8, cause := 0, fatal := true, pipe := g.ref.pipe, stage := g.ref.stage, ten := tenField g.ref.part g.ref.tenant,
          aux := 2 ^ 63 + g.ref.stage % 256 * 2 ^ 32 + g.index }

/-- The fault domains of a context's stages. -/
def contextDomains (s : State) (p : Fin 8) (t : Fin 9) : List (Fin 64) :=
  ((s.pipes.filter fun q => q.part == p && q.tenant == t).flatMap fun q => q.stages.map fun st => Fin.ofNat 64 st.fdom).eraseDups

/-- The forced reset of a context: its work is discarded, what it claimed is freed, and it is reported as fatal (R258, R386). -/
def forcedReset (s : State) (p : Fin 8) (t : Fin 9) : State :=
  let mine (r : StageRef) : Bool := r.part == p && r.tenant == t
  let s2 := ((s.wgs.filter fun w => mine w.ref).map (·.key)).foldl (fun s k => discardWg s k true) s
  let s3 := { s2 with relaunch := s2.relaunch.filter fun w => !mine w.ref, held := s2.held.filter fun h => h.ten != (p, t) }
  let s4 := (s3.grids.filter fun g => mine g.ref).foldl popHeld s3
  let s5 := { s4 with grids := s4.grids.filter fun g => !mine g.ref }
  (contextDomains s5 p t).foldl (fun s d =>
    fatalDiscard (putRecord s d { type := 8, cause := 0, fatal := true, ten := tenField p t }) d) s5

/-- CONTEXT_RESET: at once. -/
def execContextReset (p : Fin 8) (t : Fin 9) (sec : Bool) (s : State) : Out :=
  .next (ctxCommand s p t sec fun s => ctxResult (forcedReset s p t) p t 4)

/-- DRAIN_DEADLINE (R257 step 4): the deadline, CTXDL microseconds after PREEMPT, passes before the context has drained. -/
def execDrainDeadline (p : Fin 8) (t : Fin 9) (s : State) : Out :=
  .next (if draining s p t && !drained s p t && (tenant s p t).ctxdl != 0 &&
      decide ((tenant s p t).drainAt + 1200 * (tenant s p t).ctxdl ≤ s.now) then ctxResult (forcedReset s p t) p t 4 else s)

end Sys2Proof.Machine
end

