-- ==== Sys2Proof/Machine/Retire.lean ====
section
/-! DEFINITION. Retirement of workgroups (R247), the merge of deterministic cohorts (R202 to R204, R250), ticket passes and grants
(R251, R291 to R293). -/
namespace Sys2Proof.Machine

/-! ### The merge at a sync point (R204, R250) -/

/-- A word touched in the merge: its number, whether by a write, and the workgroup id it came from. -/
structure Touch where
  word  : Nat
  write : Bool
  wgid  : Nat
deriving DecidableEq, Repr

/-- What a merge has done so far: the state, the words of lower workgroups, this workgroup's words, the words it has reported. -/
structure MergeSt where
  s     : State
  lower : List Touch
  mine  : List Touch
  told  : List Nat

/-- A conflict is reported once for a word (R204). -/
def tellConflict (m : MergeSt) (w : Workgroup) (va : Nat) (t : Touch) : MergeSt :=
  if m.told.contains t.word then m
  else
    { m with told := t.word :: m.told,
             s := putRecord m.s (stageDomain m.s w.ref)
               { Rec.ofWg w { type := 3, cause := 0x30 } with addr := va / 4 * 4, aux := t.wgid } }

/-- The lower workgroup whose act on a word conflicts with a write, or with a buffered operation. -/
def clash (m : MergeSt) (word : Nat) (write : Bool) : Option Touch := m.lower.find? fun t => t.word == word && (write || t.write)

/-- A write reaches the merged state (R197, R332). -/
def mergeBytes (m : MergeSt) (w : Workgroup) (pa : Nat) (bs : List Byte) : MergeSt :=
  { m with s := perform (drainLine m.s (lineOf pa)) ⟨none, some w.ten⟩ 1 pa bs }

/-- The bytes of a write that lie in one word. -/
def wordPart (pa : Nat) (bs : List Byte) (word : Nat) : Nat × List Byte :=
  let lo := max pa (4 * word)
  (lo, (bs.drop (lo - pa)).take (4 * word + 4 - lo))

/-- Words that bytes [pa, pa + n) touch. -/
def wordsIn (pa n : Nat) : List Nat := (List.range ((pa % 4 + n + 3) / 4)).map (· + pa / 4)

/-- One act of a workgroup merges; it asks its line's home once (R310). -/
def mergeAct (w : Workgroup) (m : MergeSt) (op : DetOp) : MergeSt :=
  match op with
  | .write va pa bs =>
    let m := { m with s := l2Touch m.s ⟨none, some w.ten⟩ (lineOf pa) }
    (wordsIn pa bs.length).foldl (fun m k =>
      let (a, xs) := wordPart pa bs k
      match clash m k true with
      | some t => tellConflict m w (va.toNat + (a - pa)) t
      | none => { mergeBytes m w a xs with mine := ⟨k, true, wgidField w⟩ :: m.mine }) m
  | .scrOp va pa op wide x =>
    let n := if wide then 8 else 4
    let ks := wordsIn pa n
    match ks.findSome? fun k => clash m k false with
    | some t => tellConflict m w (va.toNat + (4 * t.word - pa)) t
    | none =>
      let old := leNat (devRead m.s pa n)
      { mergeBytes m w pa (leBytes n ((Amo.ofCode op).apply (8 * n) old x.toNat 0)) with
        mine := ks.map (fun k => ⟨k, false, wgidField w⟩) ++ m.mine }
  | .push stage bs =>
    let r : StageRef := { w.ref with stage := stage }
    match stageOf m.s r with
    | some st => { m with s := qPushEntry (touchQueue m.s r st) r st bs }
    | none => m

/-- A workgroup's buffer was allowed to grow to this many bytes (R250). -/
def bufLimit (s : State) (w : Workgroup) : Nat := (((stageOf s w.ref).map (·.buflim)).getD 0) * 1024

/-- The buffer of one workgroup merges, or is discarded when it is over its limit. -/
def mergeWg (m : MergeSt) (w : Workgroup) : MergeSt :=
  if bufLimit m.s w < w.detBytes then
    { m with s := putRecord m.s (stageDomain m.s w.ref) { Rec.ofWg w { type := 3, cause := 0x30 } with addr := 2 ^ 64 - 1 } }
  else
    let m1 := w.det.foldl (fun m e => mergeAct w m e.2) { m with mine := [], told := [] }
    { m1 with lower := m1.lower ++ m1.mine }

/-- The buffers of a cohort, by curve rank. -/
def byCurve (ws : List Workgroup) : List Workgroup := ws.mergeSort fun a b => decide (a.curve ≤ b.curve)

def mergeCohort (s : State) (ws : List Workgroup) : State := ((byCurve ws).foldl mergeWg ⟨s, [], [], []⟩).s

/-- Every queue has room for the entries that the merge will append to it (R289). -/
def mergeRoom (s : State) (ws : List Workgroup) : Bool :=
  ws.all fun w => (List.range 32).all fun k =>
    let n := (ws.filter fun v => v.ref == w.ref).foldl (fun n v => n + (v.det.filter fun e => match e.2 with
      | .push j _ => j == k
      | _ => false).length) 0
    n == 0 || match stageOf s { w.ref with stage := k } with
      | some st => decide (qOcc s { w.ref with stage := k } st + n ≤ 2 ^ st.qlog)
      | none => true

/-! ### Retirement (R247, R250, R251) -/

/-- A workgroup goes: its advances and passes, which one that has finished left then, its storage, its cohort, its pair. -/
def retireWg (s : State) (w : Workgroup) : State :=
  let s1 := if w.finished then s else leaveTickets s w
  dissolvePair (cohortGone (removeWg s1 w.key) w.grid w.pos) (pairIx (clusterOf w.core))

/-- The position in curve order of the next cohort of a grid to retire. -/
def nextRetired (g : Grid) : Nat := ((List.range (g.retired.length + 1)).find? fun k => !g.retired.contains k).getD 0

/-- Cohorts of a deterministic grid retire in curve order, each once all its workgroups have finished (R250). -/
def retireCohorts (gridKey : Nat) : Nat → State → State
  | 0, s => s
  | fuel + 1, s =>
    match s.grids.find? fun g => g.key == gridKey with
    | none => s
    | some g =>
      let pos := nextRetired g
      let ws := (s.wgs ++ s.relaunch).filter fun w => w.grid == gridKey && w.pos == pos
      if ws.isEmpty || !ws.all (·.finished) || !mergeRoom s ws then s
      else retireCohorts gridKey fuel ((byCurve ws).foldl retireWg (mergeCohort s ws))

/-- A workgroup of a deterministic partition has finished, which is its own retirement: its advances and passes stand at their banks (R251, R292, R293),
its slots and local memory are free, its buffer waits for its cohort's (R250). -/
def finishWg (s0 : State) (w : Workgroup) : State :=
  let s := leaveTickets s0 w
  let s1 := { s with grp := if s.grp.wg = w.key then Group.empty else s.grp, others := s.others.filter fun g => g.wg != w.key,
                     held := s.held.filter fun h => !(h.wg == w.key && h.kind.isOrdw) }
  let s2 := modWg s1 w.key fun w => { w with finished := true, mem := [], memT := [], size := 0 }
  retireCohorts w.grid (s2.wgs.length + 1) (dissolvePair s2 (pairIx (clusterOf w.core)))

/-- Every group has ended, every kick is complete. -/
def wgOver (s : State) (w : Workgroup) : Bool := (allGroups s).all (fun g => g.wg != w.key || g.ended) && w.kicks.isEmpty

/-- The last commit of a workgroup: of an IL1 buffer, once its pushes have room; of a checked one, once its members agree; none when
it must wait (R206, R207, R372, R377). -/
def lastCommit (s : State) (w : Workgroup) : Option State :=
  match ilOf s w with
  | 1 =>
    let es := ((List.finRange 16).filterMap fun i => groupAt s w.key i .lead).flatMap (·.cbuf)
    if !(part s w.ref.part).det && !pushRoom s w es then none else some (commitIl1 s w)
  | 2 =>
    if (s.pairs[pairIx (clusterOf w.core)]).stopped || !commitReady s w then none
    else some (commitWg s w)
  | _ => some s

/-- What a workgroup leaves once its stores have settled. -/
def leaveWg (s : State) (w : Workgroup) : State :=
  let s1 := voidReservations (chargeGroups s fun g => g.wg == w.key) w true
  if (part s1 w.ref.part).det then finishWg s1 w else retireWg s1 w

/-- A workgroup retires if it can (R247). While its function stops or is stopped, nothing that a workgroup still buffers is written (R330). -/
def retireOne (s : State) (w : Nat) : State :=
  match wgOf s w with
  | none => s
  | some x =>
    if vfStopped s x.ref.part then s
    else if x.finished then retireCohorts x.grid (s.wgs.length + 1) s
    else if !wgOver s x then s
    else
      let s1 := settleWg s w
      if s1.walks.any fun k => k.wg == w then s1
      else match lastCommit s1 x with
        | none => s1
        | some s2 =>
          if (s2.pairs[pairIx (clusterOf x.core)]).stopped && ilOf s2 x == 2 then s2
          else match wgOf s2 w with
            | none => s2
            | some y => leaveWg s2 y

/-- In a deterministic partition a stage of lower index in the same pipeline has work to merge at this cycle: it goes first (R250). -/
def mergeWaits (s : State) (x : Workgroup) : Bool :=
  (part s x.ref.part).det && s.wgs.any fun v =>
    v.ref.part == x.ref.part && v.ref.tenant == x.ref.tenant && v.ref.pipe == x.ref.pipe && decide (v.ref.stage < x.ref.stage) &&
      retireOne s v.key != s

/-- WORKGROUP_RETIRE (R247, R250). -/
def execWorkgroupRetire (w : Nat) (s : State) : Out :=
  .next (match wgOf s w with
    | none => s
    | some x => if mergeWaits s x then s else retireOne s w)

/-! ### Tickets held at a bank (R291, R292) -/

/-- TICKET_PASS: the k-th held request is a pass, or an advance without VOID, whose turn has come (R292, R293). -/
def execTicketPass (k : Nat) (s : State) : Out :=
  .next (match s.held[k]? with
    | none => s
    | some h =>
      if h.kind.isOrdw || ticketOf s h.pa != h.rank then s
      else { advanceTicket s h.pa (h.kind == .pass) with held := s.held.eraseIdx k })

/-- The value of a granted ordw reaches its group, on both members of a pair, with an acquire (R291, R293). -/
def grantTo (s : State) (h : HeldReq) (gid : Fin 16) (dst : Nat) : State :=
  let v : BitVec 128 := (ticketValue s h.pa).setWidth 128
  let s1 := mapGroups s fun g => if g.wg = h.wg && g.gid == gid then
    { g with arr := g.arr ++ [⟨dst, 1, true, 1, Vector.replicate 32 v, 0, 0, false, false⟩] } else g
  match groupAt s1 h.wg gid .lead with
  | some g => acquireAt s1 g.core
  | none => s1

/-- ORDW_GRANT: the k-th held request is an ordw whose turn has come. -/
def execOrdwGrant (k : Nat) (s : State) : Out :=
  .next (match s.held[k]? with
    | none => s
    | some h => match h.kind with
      | .ordw gid dst => if ticketOf s h.pa = h.rank then grantTo { s with held := s.held.eraseIdx k } h gid dst else s
      | _ => s)

end Sys2Proof.Machine
end

