-- ==== Sys2Proof/Machine/EngineRun.lean ====
section
/-! DEFINITION. Engines at work: the start and the end of a task (R138, R154, R163, R166, R173). -/
namespace Sys2Proof.Machine

/-- The record of a queued task. -/
def taskBytes (s : State) (t : EngTask) : List Byte := ((recOf s t.wg t.kick t.off).map (·.bytes)).getD []

/-- A record works on creel units: a MATX, or a COPY into the creel. -/
def usesCreel (b : List Byte) : Bool := rKind b == 2 || (rKind b == 1 && cDsp b == 3)

/-- Two records of one cluster name common units of one matrix engine. -/
def sharesUnits (a b : List Byte) : Bool :=
  recEngine a == recEngine b && decide (slotStart a < slotStart b + slotUnits b ∧ slotStart b < slotStart a + slotUnits a)

/-- The order of R166: a weight stream waits for every issued MATX of its units, a MATX for the COPY that writes its units. -/
def creelBusy (s : State) (t : EngTask) : Bool :=
  let b := taskBytes s t
  usesCreel b && s.engq.any fun u =>
    u != t && engCluster u.eng == engCluster t.eng &&
      let x := taskBytes s u
      if rKind b = 1 then rKind x == 2 && sharesUnits b x
      else rKind x == 1 && u.started && usesCreel x && sharesUnits b x

/-- A weight stream's slot loses VALID and WDEC when its copy starts, and its units become its tenant's (R163, R165); in a checked pair on both
clusters (R173). -/
def clearSlot (s : State) (t : EngTask) : State :=
  let b := taskBytes s t
  if rKind b = 1 ∧ cMode b = 2 then
    (taskEngines s t).foldl (fun s x =>
      let e := EngineId.matrix (engCluster x) (recEngine b)
      let s1 := setCreel s e (Memory.set (creelOf s e) (slotBase b + 0x88) 0)
      match wgOf s t.wg with
      | some w => claimUnits s1 e w.ten (streamUnits (slotStart b) (cRowb b - 128))
      | none => s1) s
  else s

/-- TASK_START: the walker of the cluster issues what is ready, and the engine, idle and awake, takes the first task of its queue; in a checked pair the
engines of both clusters take it (R173). -/
def execTaskStart (e : EngineId) (s0 : State) : Out :=
  let s := walkerTurn (engCluster e) s0.readyQ.length s0
  .next (match s.engq.find? fun t => t.eng == e with
    | none => s
    | some t =>
      if t.started || !(taskEngines s t).all (fun x => (unitOf s (engineUnit x)).awake) || creelBusy s t then s
      else
        let s1 := clearSlot ((taskEngines s t).foldl (fun s x => useUnit s (engineUnit x)) s) t
        { s1 with engq := s1.engq.map fun u => if u = t then { t with started := true, since := s.now } else u })

/-- A corrected error counts in CECNT, up to all ones (R348, R351). -/
def countCorrected (s : State) : State :=
  { s with policy := { s.policy with cecnt := if s.policy.cecnt = BitVec.allOnes 32 then s.policy.cecnt else s.policy.cecnt + 1 } }

/-- TASK_COMPLETE: the running task of the engine, with the soft errors met: CEC, UEC, RES, APAR. -/
def execTaskComplete (e : EngineId) (soft : BitVec 4) (s : State) : Out :=
  .next (match s.engq.find? fun t => t.eng == e && t.started with
    | none => s
    | some t =>
      let s0 := if soft.getLsbD 0 then countCorrected s else s
      (taskEngines s t).foldl (fun s1 x => setUnit s1 (engineUnit x) ⟨.G0, s.now, false⟩) (completeTask (chargeTask s.now s0 t) t soft))

end Sys2Proof.Machine
end

