-- ==== Sys2Proof/Machine/Moves.lean ====
section
/-! DEFINITION. The walker's side of a migration: grant, deadline and move (R259 to R262). -/
namespace Sys2Proof.Machine

/-- Cycles of an attempt's deadline have not passed; MIGDL 0 is none. -/
def inTime (s : State) (st : Stage) (a : MigAttempt) : Bool := st.migdl == 0 || decide (s.now < a.since + 1200 * st.migdl)

/-- A core may take the workgroup: of the class asked for, in its cluster, with room, within the VLIM in force (R239, R260, R261). -/
def targetFits (s : State) (w : Workgroup) (st : Stage) (a : MigAttempt) (core : Nat) : Bool :=
  decide (core % 8 < 6) && clusterOf core == clusterOf w.core && classOf core == a.cls && st.hasImage a.cls && roomOn s w.ten st core &&
  (st.vlim == 0 || decide (st.maxV a.cls ≤ st.vlim))

/-- Every group has arrived or ended. -/
def allArrived (s : State) (w : Workgroup) (a : MigAttempt) : Bool :=
  (groupsOf s w.key .lead).all fun g => g.ended || a.arrived.contains g.gid

/-- MIG_GRANT: once every group has arrived and the kicks are complete (R172, R260, R261). -/
def execMigGrant (w : Nat) (core : Nat) (s : State) : Out :=
  .next (match wgOf s w with
    | none => s
    | some x => match x.openMig, stageOf s x.ref with
      | some a, some st =>
        if !allArrived s x a || !x.kicks.isEmpty || !inTime s st a || mustHalt s x || !targetFits s x st a core then s
        else
          let t := modAttempt s w a.k fun a => { a with st := .granted core }
          if !reservesKept s t x.ref then s
          else if !(unitOf s (coreUnit core)).awake then requestWake s (coreUnit core) st.prio false
          else mapGroups t fun g => if g.wg = w then { g with c := g.c.migWrite true } else g
      | _, _ => s)

/-- MIG_DEADLINE: no slot was granted in time (R260). -/
def execMigDeadline (w : Nat) (s : State) : Out :=
  .next (match wgOf s w with
    | none => s
    | some x => match x.openMig, stageOf s x.ref with
      | some a, some st => if inTime s st a then s else dropAttempts (refuseOpen s w) w
      | _, _ => s)

/-- The registers that a pick record moves into the other image (R261 step 5). -/
def carryRegs (r : PickRec) (c : Ctx) : Ctx :=
  let z : Ctx := { c with v := Vector.replicate 96 (Vector.replicate 32 0), s := Vector.replicate 24 0,
                          p := (Vector.replicate 64 0).set 63 (BitVec.allOnes 32) }
  r.entries.foldl (fun (t : Ctx) e =>
    match e with
    | (0, a, b) => t.setV b (BitVec.allOnes 32) fun l => c.vreg a l
    | (1, a, b) => t.setS (b - 96) (c.sreg (a - 96))
    | (_, a, b) => t.setPred b (BitVec.allOnes 32) (c.predMask a)) z

/-- The name in the other image of a register. -/
def renamed (r : PickRec) (reg : Nat) : Nat :=
  ((r.entries.find? fun e => decide (e.1 < 2) && e.2.1 == reg).map fun e => e.2.2).getD reg

/-- A group's context in the other image (R261 steps 5 to 7, R262). -/
def moveCtx (r : PickRec) (c : Ctx) : Ctx :=
  let c1 := carryRegs r c
  { c1 with lpc := Vector.ofFn fun l => if c.exitM.getLsbD l.val then c.lpc[l] else r.other, waitM := 0, barM := 0, migM := 0,
            arrM := 0, parkM := 0, starve := Vector.replicate 32 0, pend := [], eccs := [], run := Run.none, twin := r.pc }

/-- A group on its new core. -/
def moveGroup (r : PickRec) (st : Stage) (core now : Nat) (slots : List Nat) (g0 : Group) : Group :=
  let g := g0.landAll
  let cls := classOf core
  { g with core := core, slot := (slots[g.gid.val]?).getD 0, vbud := st.vbudOf cls g.gid.val, sbud := (st.regs cls).2, heldSince := now,
           spilled := 0, c := if g.ended then g.c else moveCtx r g.c }

/-- The move of a granted workgroup (R261). -/
def moveWg (s0 : State) (w : Workgroup) (st : Stage) (a : MigAttempt) (r : PickRec) (core : Nat) : State :=
  let s := settleWg s0 w.key
  let slots := (openSlots s w.ten false core (rowsOf (st.maxV (classOf core)))).take st.groups
  let s1 := chargeGroups s fun g => g.wg == w.key
  let s2 := mapGroups s1 fun g => if g.wg = w.key then moveGroup r st core s.now slots g else g
  let s3 := (groupsOf s2 w.key .lead).foldl (fun s g => spillAt s w.key core g.slot (rowsOf g.vbud)) s2
  let s4 := modWg (modAttempt s3 w.key a.k fun a => { a with st := .stay }) w.key fun w =>
    { w with core := core, cls := classOf core, size := st.loc, mem := w.mem.filter fun x => decide (x.1 < r.carry) }
  let s5 := { s4 with held := s4.held.map fun h => if h.wg = w.key then
      { h with kind := match h.kind with
          | .ordw g dst => .ordw g (renamed r dst)
          | k => k } else h }
  dropAttempts (acquireAt (useUnit s5 (coreUnit core)) core) w.key

/-- MIG_MOVE: once every kick of the workgroup is complete. -/
def execMigMove (w : Nat) (s : State) : Out :=
  .next (match wgOf s w with
    | none => s
    | some x =>
      if !x.kicks.isEmpty then s
      else match x.mig.findSome? fun a => match a.st with
          | .granted core => some (a, core)
          | _ => none with
        | none => s
        | some (a, core) => match stageOf s x.ref, pickRec s x a.pick with
          | some st, some r => moveWg s x st a r core
          | _, _ => s)

end Sys2Proof.Machine
end

