-- ==== Sys2Proof/Machine/HostMem.lean ====
section
/-! DEFINITION. The host's apertures (R322 to R324), translation invalidation (R321), and the turns of the memory system: requests at
the homes, evictions, page walks, results under way (R48, R196, R198, R316). -/
namespace Sys2Proof.Machine

/-! ### Apertures (R322, R323) -/

/-- The tenant that a function reaches through BAR2: tenant 1 of a partition with sub-partitions, else tenant 0. -/
def ownTenant (s : State) (f : Fin 17) : Option (Fin 8 × Fin 9) :=
  (List.finRange 8).findSome? fun p =>
    if (part s p).en && (part s p).func.toNat == f.val then
      (if (tenant s p 1).en then some (p, 1) else if (tenant s p 0).en then some (p, 0) else none)
    else none

/-- Bytes of a function's BAR2 (R323). -/
def apertureSize (f : Fin 17) : Nat := if f.val = 0 then 2 ^ 36 else 2 ^ 33

/-- The function's requests fail while it is stopping or stopped (R323, R330). -/
def apertureShut (s : State) (f : Fin 17) : Bool :=
  if h : 1 ≤ f.val then (let st := (s.vfs[f.val - 1]'(by omega)).st; st == 2 || st == 3) else false

/-- The physical address of an aperture byte: translated, permitted, in the right world, in main memory or the partition's screed. -/
def aperturePa (s : State) (t : Fin 8 × Fin 9) (kind : Access) (va : Nat) : State × Option Nat :=
  if 2 ^ 49 ≤ va then (s, none)
  else match lookupDev s t.1 t.2 va with
    | (s1, .ok x) => match checkXl s1 (part s1 t.1).world kind x va with
      | .ok pa => (s1, if inMain pa || (inScreed pa && (part s1 t.1).ownsBank (bankOf pa)) then some pa else none)
      | .error _ => (s1, none)
    | (s1, _) => (s1, none)

/-- Every byte of an aperture access, or none when one fails. -/
def aperturePas (s : State) (t : Fin 8 × Fin 9) (kind : Access) (va : Nat) : Nat → State × Option (List Nat)
  | 0 => (s, some [])
  | n + 1 =>
    match aperturePa s t kind va with
    | (s1, none) => (s1, none)
    | (s1, some pa) => match aperturePas s1 t kind (va + 1) n with
      | (s2, some pas) => (s2, some (pa :: pas))
      | (s2, none) => (s2, none)

/-- The access of a function, translated. -/
def apertureAccess (s : State) (f : Fin 17) (kind : Access) (off n : Nat) : State × Option ((Fin 8 × Fin 9) × List Nat) :=
  match ownTenant s f with
  | none => (s, none)
  | some t =>
    if apertureShut s f || !funcOn s f || decide (apertureSize f < off + n) then (s, none)
    else match aperturePas s t kind ((tenant s t.1 t.2).apbase.toNat + off) n with
      | (s1, some pas) => (s1, some (t, pas))
      | (s1, none) => (s1, none)

/-- APERTURE_READ: as an rt load of the tenant; a failing one is answered with Unsupported Request and reported. -/
def execApertureRead (f : Fin 17) (off : Nat) (len : Nat) (s : State) : Out :=
  .next (host s fun s => match apertureAccess s f .load off len with
    | (s1, some (t, pas)) =>
      let s2 := l2Touches (pas.foldl (fun s pa => drainLine s (lineOf pa)) s1) ⟨none, some t⟩ pas
      answer s2 (.data f.val (pas.flatMap fun pa => devRead s2 pa 1))
    | (s1, none) => answer (answer s1 (.unsupported f.val)) (.aer f.val))

/-- APERTURE_WRITE: as a wt store of the tenant; a failing one is dropped and reported. -/
def execApertureWrite (f : Fin 17) (off : Nat) (bytes : List (BitVec 8)) (s : State) : Out :=
  .next (host s fun s => match apertureAccess s f .store off bytes.length with
    | (s1, some (t, pas)) =>
      (pas.zip bytes).foldl (fun s x => perform (drainLine s (lineOf x.1)) ⟨none, some t⟩ 1 x.1 [x.2])
        (l2Touches (pas.foldl (fun s pa => drainLine s (lineOf pa)) s1) ⟨none, some t⟩ pas)
    | (s1, none) => answer s1 (.aer f.val))

/-- APERTURE_ATOMIC (R322). -/
def execApertureAtomic (f : Fin 17) (_off : Nat) (s : State) : Out := .next (host s fun s => answer s (.unsupported f.val))

/-! ### Invalidation of translations (R321) -/

/-- GO is set; a write while it reads 1 is ignored. -/
def startInv (s : State) (tn : BitVec 8) (kind : BitVec 3) : State :=
  host s fun s => if s.inv.go then s else
    { s with inv := { s.inv with go := decide (1 ≤ kind.toNat ∧ kind.toNat ≤ 3), tenant := tn, kind := kind } }

def execInvalidateAll (tn : BitVec 8) (s : State) : Out := .next (startInv s tn 1)

def execInvalidateTenant (tn : BitVec 8) (s : State) : Out := .next (startInv s tn 2)

def execInvalidateRange (tn : BitVec 8) (s : State) : Out := .next (startInv s tn 3)

/-- A cached translation that the invalidation under way covers: a page that overlaps the range goes whole. -/
def invCovers (v : InvRegs) (e : TlbEnt) : Bool :=
  let own := tenField e.part e.ten == v.tenant.toNat
  let a := v.tiva.toNat
  match v.kind.toNat with
  | 1 => true
  | 2 => own
  | 3 => own && decide (e.base < a + v.tipages.toNat * 4096 ∧ a < e.base + e.size)
  | _ => false

/-- INVALIDATION_COMPLETE: the copies are gone and the accesses that used them have been performed. -/
def execInvalidationComplete (s : State) : Out :=
  .next (if s.inv.go then
    let s1 := homeDrain s fun r => match wgOf s r.wg with
      | some w => s.inv.kind.toNat == 1 || tenField w.ref.part w.ref.tenant == s.inv.tenant.toNat
      | none => true
    { s1 with tlb := s1.tlb.filter fun e => !invCovers s.inv e, inv := { s1.inv with go := false } }
  else s)

/-! ### Turns of the memory system -/

/-- HOME_REQUEST (R196): the home serves the oldest request for the line of the k-th. -/
def execHomeRequest (k : Nat) (s : State) : Out :=
  .next (match s.homeQ[k]? with
    | none => s
    | some r => match s.homeQ.findIdx? fun x => x.line == r.line with
      | none => s
      | some i => homePerform { s with homeQ := s.homeQ.eraseIdx i } ((s.homeQ[i]?).getD r))

/-- L1_EVICTION (R198): owned words go home, copies are dropped. -/
def execL1Eviction (core : Nat) (line : Nat) (s : State) : Out := .next (evictLine s core line)

/-- The walkers of the device (R315). -/
def walkers : Nat := 16

/-- TRANSLATION_WALK_COMPLETE (R315, R316): walks begin in the order of their first miss, so one of the oldest returns; the misses of its cluster
that were merged into it, and wait for nothing else, go on with it. -/
def execTranslationWalkComplete (k : Nat) (s : State) : Out :=
  .next (match s.walks[k]? with
    | none => s
    | some w =>
      if walkers ≤ k then s
      else
        let s1 := resolveWalk s w
        (s1.walks.filter fun x => sameMiss s w x && cachedFor s1 x.core x.wg x.lanes).foldl resolveWalk s1)

/-- LONG_LATENCY_RESULT (R48): the oldest result of a group is written. -/
def execLongLatencyResult (w : Nat) (g : Fin 16) (r : Role) (s : State) : Out := .next (modGroup s w g r Group.landOldest)

end Sys2Proof.Machine
end

