-- ==== Sys2Proof/Machine/Boot.lean ====
section
/-! DEFINITION. Module reset and boot (R11, R342 to R344), the secure stream (R302), attestation (R345), corrected errors (R348). -/
namespace Sys2Proof.Machine

/-! ### The configuration record (R344) -/

/-- Region k of a record. -/
def recRegion (b : List Byte) (k : Nat) : Region :=
  let o := 0x70 + 16 * k
  { base := bytesAt b o 8, limit := bytesAt b (o + 8) 7, en := bitAt (bytesAt b (o + 15) 1) 0 }

/-- The record is malformed: a wrong head, a reserved byte or bit that is not zero, a region or a limit out of its range. -/
def recBad (b : List Byte) : Bool :=
  bytesAt b 0 4 != 0x52435857 || bytesAt b 4 2 != 1 || bytesAt b 6 2 != 0 || decide (16 < bytesAt b 0xD 1) ||
  decide (16 ≤ bytesAt b 0xF 1) || bytesAt b 0x10 8 / 2 ^ 34 != 0 || bytesAt b 0x18 16 / 2 ^ 66 != 0 || bytesAt b 0x28 72 / 2 ^ 528 != 0 ||
  (List.range 16).any (fun k => decide ((recRegion b k).limit < (recRegion b k).base) || decide (2 ≤ bytesAt b (0x70 + 16 * k + 15) 1)) ||
  decide (320 < bytesAt b 0x170 4) || !allZero b 0x174 140

/-- The physical units not marked faulty, in order (R11). -/
def goodUnits (n faults : Nat) : List Nat := (List.range n).filter fun k => !bitAt faults k

def recClusters (b : List Byte) : List Nat := goodUnits 34 (bytesAt b 0x10 8)
def recSlices (b : List Byte) : List Nat := goodUnits 66 (bytesAt b 0x18 16)
def recBanks (b : List Byte) : List Nat := goodUnits 528 (bytesAt b 0x28 72)

/-- A signature is accepted (R342): the key is the one whose digest is fused, and it verifies over the object's digest. -/
def signatureOk (key object sig : List Byte) : Bool :=
  decide (Config.shake256 key = Config.fusedKey) && Config.falconVerify key (Config.shake256 object) sig

/-- The body of a configuration record, and the signature that follows it, whose length stands before it (R344). -/
def recBody (r : List Byte) : List Byte := r.take 512

def recSig (r : List Byte) : List Byte := (r.drop 0x202).take (bytesAt r 0x200 2)

/-- The record holds its body and a signature of the length it states, of at most 1,330 bytes. -/
def recSigned (key r : List Byte) : Bool :=
  decide (bytesAt r 0x200 2 ≤ 1330 ∧ 0x202 + bytesAt r 0x200 2 ≤ r.length) && signatureOk key (recBody r) (recSig r)

/-- The CODE of a boot that fails, in the order of R343; 0 for one that succeeds. -/
def bootCode (b : BootInput) : Nat :=
  let r := recBody b.record
  if !signatureOk b.key b.firmware b.fwSig then 1
  else if (Config.firmwareVersion b.firmware).toNat < Config.antiRollback then 2
  else if !recSigned b.key b.record then 3
  else if bytesAt r 8 4 < Config.antiRollback then 4
  else if recBad r then 8
  else if bytesAt r 0xC 1 != 0x41 then 5
  else if (recClusters r).length < 32 || (recSlices r).length < 64 || (recBanks r).length < 512 then 6
  else if !b.train then 7
  else 0

/-- The place tables that the SSP builds (R11). -/
def bootPlace (r : List Byte) : Place :=
  { State.reset.place with
    cl := Vector.ofFn fun i => BitVec.ofNat 6 (((recClusters r)[i.val]?).getD 0),
    sl := Vector.ofFn fun i => BitVec.ofNat 7 (((recSlices r)[i.val]?).getD 0),
    sb := Vector.ofFn fun i => BitVec.ofNat 10 (((recBanks r)[i.val]?).getD 0),
    phfault := BitVec.ofNat 34 (bytesAt r 0x10 8), slfault := BitVec.ofNat 66 (bytesAt r 0x18 16),
    sbfault := BitVec.ofNat 528 (bytesAt r 0x28 72) }

/-- The configuration record in force, with the firmware that booted. -/
def bootCfg (firmware r : List Byte) : CfgRec :=
  { stepping := BitVec.ofNat 8 (bytesAt r 0xC 1), vfLimit := bytesAt r 0xD 1, ide := BitVec.ofNat 8 (bytesAt r 0xE 1),
    wgworld := BitVec.ofNat 4 (bytesAt r 0xF 1), regions := (List.range 16).map (recRegion r), power := bytesAt r 0x170 4, body := r,
    firmware := firmware }

/-- POWER_ON_RESET (R343): every register at its reset value; what lies outside the module stays. -/
def execPowerOnReset (b : BootInput) (s : State) : Out :=
  let z := { State.reset with hostMem := s.hostMem, streams := s.streams, out := s.out, agenda := s.agenda, fresh := s.fresh }
  let code := bootCode b
  let r := recBody b.record
  .next (if code ≠ 0 then { z with dev := { z.dev with stage := 2, code := BitVec.ofNat 8 code } }
    else
      { z with dev := { z.dev with stage := 1 }, place := bootPlace r, cfg := bootCfg b.firmware r,
               policy := { z.policy with spares := (recClusters r).length - 32 } })

/-- SECURE_STREAM_KEYED (R302). -/
def execSecureStreamKeyed (s : State) : Out := .next (host s fun s => { s with dev := { s.dev with secok := true } })

/-- CORRECTED_ERROR (R348, R351). -/
def execCorrectedError (s : State) : Out :=
  .next (countCorrected s)

/-! ### Attestation (R345) -/

/-- IDENT (R300, R336). -/
def ident : Nat := 0x41900441

/-- The place tables as bytes, one unit in two. -/
def placeBytes (p : Place) : List Byte :=
  p.cl.toList.flatMap (fun x => leBytes 2 x.toNat) ++ p.sl.toList.flatMap (fun x => leBytes 2 x.toNat) ++
  p.sb.toList.flatMap (fun x => leBytes 2 x.toNat)

/-- What every report holds first. -/
def deviceReport (s : State) (f : Fin 17) : List Byte :=
  (s.attest[f]).nonce.toList ++ leBytes 4 ident ++ leBytes 4 (Config.firmwareVersion s.cfg.firmware).toNat ++ leBytes 4 (bytesAt s.cfg.body 8 4) ++
  (Config.shake256 s.cfg.firmware).toList ++ (Config.shake256 s.cfg.body).toList ++ (Config.shake256 (placeBytes s.place)).toList

/-- The partition registers of R304 that stand before the tenant blocks. -/
def partBytes (q : Partition) : List Byte :=
  leBytes 4 (q.func.toNat * 16 + bit q.world * 4 + bit q.det * 2 + bit q.en) ++ leBytes 4 q.clmask.toNat ++
  leBytes 4 (q.bcnt.toNat * 65536 + q.bfirst.toNat) ++ leBytes 4 q.ways.toNat ++ leBytes 8 q.bw.toNat ++ leBytes 8 q.root.toNat ++
  leBytes 4 (q.errc.toNat * 256 + bit q.cfgerr * 2 + bit q.run)

/-- The partition that a virtual function owns, if it is enabled (R328). -/
def ownPart (s : State) (f : Fin 17) : Option (Fin 8) :=
  (List.finRange 8).find? fun p => (part s p).en && (part s p).func.toNat == f.val

/-- The tenant that a report of command 2 covers: ATEN's; on a VF its own, which is its partition as a whole (R328). -/
def reportTenant (s : State) (f : Fin 17) : Option (Fin 8 × Fin 9) :=
  if f.val = 0 then
    let x := (s.attest[f]).aten.toNat
    if h : x % 16 < 8 ∧ x / 16 < 9 then some (⟨x % 16, h.1⟩, ⟨x / 16, h.2⟩) else none
  else (ownPart s f).map fun p => (p, 0)

/-- ATEN as it reads. -/
def atenOf (s : State) (f : Fin 17) : Nat :=
  if f.val = 0 then (s.attest[f]).aten.toNat else ((reportTenant s f).map fun t => tenField t.1 t.2).getD 0

def tenantReport (s : State) (f : Fin 17) : List Byte :=
  match reportTenant s f with
  | none => []
  | some t => partBytes (part s t.1) ++
      (s.pipes.filter fun p => p.part == t.1 && (f.val != 0 || p.tenant == t.2)).flatMap (·.digest)

/-- A report is begun, from the state at this moment; a command while BUSY is ignored. -/
def attest (s : State) (f : Fin 17) (cmd : Nat) (body : List Byte) : State :=
  host s fun s => if (s.attest[f]).busy || !funcOn s f then s
    else { s with attest := s.attest.set f { s.attest[f] with busy := true, cmd := cmd, taken := body } }

/-- ATTEST_DEVICE. -/
def execAttestDevice (f : Fin 17) (s : State) : Out := .next (attest s f 1 (deviceReport s f))

/-- ATTEST_TENANT. -/
def execAttestTenant (f : Fin 17) (s : State) : Out := .next (attest s f 2 (deviceReport s f ++ tenantReport s f))

/-- ATTEST_REPORT_DONE: the signature over the digest of what was taken, and the key's certificate. -/
def execAttestReportDone (f : Fin 17) (s : State) : Out :=
  .next (if (s.attest[f]).busy then
    let a := s.attest[f]
    let r := a.taken ++ Config.falconSign (Config.shake256 a.taken).toList ++ Config.certificate
    { s with attest := s.attest.set f { a with busy := false, report := r, alen := BitVec.ofNat 13 r.length } }
  else s)

end Sys2Proof.Machine
end

