-- ==== Sys2Proof/Machine/Compare.lean ====
section
/-! DEFINITION. Comparisons and predicate logic: ICMP, FCMP, PLOG, ICMPI (R106 to R109). -/
namespace Sys2Proof.Machine

/-- ICMP (R107). -/
def icmpIns (k : ICond) (b a : BitVec 7) (g x : Bool) (p : BitVec 6) (s : State) : Out :=
  let xp := s.c.xp
  .next (predIns (xp.c != 127 || !modsLegal xp.e {}) false [a.toNat, b.toNat] g x p
    (fun c l => k.holds (c.rd a.toNat l) (c.rd b.toNat l)) s)

/-- ICMPI: B is a signed 7-bit immediate (R107). -/
def icmpImmIns (k : ICond) (i a : BitVec 7) (g x : Bool) (p : BitVec 6) (s : State) : Out :=
  let xp := s.c.xp
  .next (predIns (xp.c != 127 || !modsLegal xp.e {}) false [a.toNat] g x p
    (fun c l => k.holds (c.rd a.toNat l) (i.signExtend 32)) s)

/-- FCMP on f32 (R108). -/
def fcmpIns (k : FCond) (b a : BitVec 7) (g x : Bool) (p : BitVec 6) (s : State) : Out :=
  let xp := s.c.xp
  let m := modsOf xp.e
  .next (predIns (xp.c != 127 || !modsLegal xp.e { ftz := true }) false [a.toNat, b.toNat] g x p
    (fun c l => k.holds (fF32.read m.ftz (c.rd a.toNat l).toNat) (fF32.read m.ftz (c.rd b.toNat l).toNat)) s)

/-- PLOG on predicate numbers (R109); a number of 64 or more is an illegal operand (R96). -/
def plogIns (ps : List Nat) (f : Ctx → Lane → Bool) (g x : Bool) (p : BitVec 6) (s : State) : Out :=
  let xp := s.c.xp
  .next (predIns (xp.c != 127 || !modsLegal xp.e {}) (ps.any fun k => decide (64 ≤ k)) [] g x p f s)

def execEq (b a : BitVec 7) (g x : Bool) (p : BitVec 6) (s : State) : Out := icmpIns .eq b a g x p s
def execNe (b a : BitVec 7) (g x : Bool) (p : BitVec 6) (s : State) : Out := icmpIns .ne b a g x p s
def execLt (b a : BitVec 7) (g x : Bool) (p : BitVec 6) (s : State) : Out := icmpIns .lt b a g x p s
def execLe (b a : BitVec 7) (g x : Bool) (p : BitVec 6) (s : State) : Out := icmpIns .le b a g x p s
def execLtu (b a : BitVec 7) (g x : Bool) (p : BitVec 6) (s : State) : Out := icmpIns .ltu b a g x p s
def execLeu (b a : BitVec 7) (g x : Bool) (p : BitVec 6) (s : State) : Out := icmpIns .leu b a g x p s
def execTst (b a : BitVec 7) (g x : Bool) (p : BitVec 6) (s : State) : Out := icmpIns .tst b a g x p s
def execTstz (b a : BitVec 7) (g x : Bool) (p : BitVec 6) (s : State) : Out := icmpIns .tstz b a g x p s

def execFeq (b a : BitVec 7) (g x : Bool) (p : BitVec 6) (s : State) : Out := fcmpIns .feq b a g x p s
def execFne (b a : BitVec 7) (g x : Bool) (p : BitVec 6) (s : State) : Out := fcmpIns .fne b a g x p s
def execFlt (b a : BitVec 7) (g x : Bool) (p : BitVec 6) (s : State) : Out := fcmpIns .flt b a g x p s
def execFle (b a : BitVec 7) (g x : Bool) (p : BitVec 6) (s : State) : Out := fcmpIns .fle b a g x p s
def execFgt (b a : BitVec 7) (g x : Bool) (p : BitVec 6) (s : State) : Out := fcmpIns .fgt b a g x p s
def execFge (b a : BitVec 7) (g x : Bool) (p : BitVec 6) (s : State) : Out := fcmpIns .fge b a g x p s
def execFunord (b a : BitVec 7) (g x : Bool) (p : BitVec 6) (s : State) : Out := fcmpIns .fun_ b a g x p s
def execFord (b a : BitVec 7) (g x : Bool) (p : BitVec 6) (s : State) : Out := fcmpIns .ford b a g x p s

def execPand (b a : BitVec 7) (g x : Bool) (p : BitVec 6) (s : State) : Out :=
  plogIns [a.toNat, b.toNat] (fun c l => c.pred a.toNat l && c.pred b.toNat l) g x p s
def execPor (b a : BitVec 7) (g x : Bool) (p : BitVec 6) (s : State) : Out :=
  plogIns [a.toNat, b.toNat] (fun c l => c.pred a.toNat l || c.pred b.toNat l) g x p s
def execPxor (b a : BitVec 7) (g x : Bool) (p : BitVec 6) (s : State) : Out :=
  plogIns [a.toNat, b.toNat] (fun c l => c.pred a.toNat l != c.pred b.toNat l) g x p s
def execPandn (b a : BitVec 7) (g x : Bool) (p : BitVec 6) (s : State) : Out :=
  plogIns [a.toNat, b.toNat] (fun c l => c.pred a.toNat l && !c.pred b.toNat l) g x p s
def execPnot (a : BitVec 7) (g x : Bool) (p : BitVec 6) (s : State) : Out :=
  plogIns [a.toNat] (fun c l => !c.pred a.toNat l) g x p s
def execPmov (a : BitVec 7) (g x : Bool) (p : BitVec 6) (s : State) : Out :=
  plogIns [a.toNat] (fun c l => c.pred a.toNat l) g x p s
def execPclr (g x : Bool) (p : BitVec 6) (s : State) : Out := plogIns [] (fun _ _ => false) g x p s
def execPset (g x : Bool) (p : BitVec 6) (s : State) : Out := plogIns [] (fun _ _ => true) g x p s

def execEqImm (i a : BitVec 7) (g x : Bool) (p : BitVec 6) (s : State) : Out := icmpImmIns .eq i a g x p s
def execNeImm (i a : BitVec 7) (g x : Bool) (p : BitVec 6) (s : State) : Out := icmpImmIns .ne i a g x p s
def execLtImm (i a : BitVec 7) (g x : Bool) (p : BitVec 6) (s : State) : Out := icmpImmIns .lt i a g x p s
def execLeImm (i a : BitVec 7) (g x : Bool) (p : BitVec 6) (s : State) : Out := icmpImmIns .le i a g x p s
def execLtuImm (i a : BitVec 7) (g x : Bool) (p : BitVec 6) (s : State) : Out := icmpImmIns .ltu i a g x p s
def execLeuImm (i a : BitVec 7) (g x : Bool) (p : BitVec 6) (s : State) : Out := icmpImmIns .leu i a g x p s
def execTstImm (i a : BitVec 7) (g x : Bool) (p : BitVec 6) (s : State) : Out := icmpImmIns .tst i a g x p s
def execTstzImm (i a : BitVec 7) (g x : Bool) (p : BitVec 6) (s : State) : Out := icmpImmIns .tstz i a g x p s

end Sys2Proof.Machine
end

