-- ==== Sys2Proof/Machine/Convert.lean ====
section
/-! DEFINITION. Conversions and packing: CVT and PACK (R114 to R118). -/
namespace Sys2Proof.Machine

/-- Byte k of a word replaced. -/
def withByte (x : Word) (k v : Nat) : Word := (x &&& ~~~((0xFF : Word) <<< (8 * k))) ||| BitVec.ofNat 32 (v % 256 * 2 ^ (8 * k))

/-- The encoding checks of a cvt's prefix (R94, R115, R116). -/
def cvtIll (x : Xp) (df : Nat) (n : Bool) : Bool :=
  let e := x.e
  x.c != 127 || !modsLegal e { sat := !(decide (5 ≤ df ∧ df ≤ 7)), ftz := true, bs := decide (fmtWidth df ≤ 8) } ||
  (bitAt e 5 && n)

/-- cvt (R114, R115): the source by SF, the result by DF in the mode RM; with byte select into one byte of D. -/
def execCvt (r : BitVec 2) (sf df : BitVec 4) (a : BitVec 7) (n : Bool) (d : BitVec 7) (s : State) : Out :=
  let x := s.c.xp
  let m := modsOf x.e
  .next (laneIns 4 (cvtIll x df.toNat n) false [a.toNat] n d.toNat
    (fun c l =>
      let v := convert df.toNat sf.toNat (rmodeOf r.toNat) m.sat m.ftz (c.rd a.toNat l).toNat
      if m.bs then withByte (c.rd d.toNat l) m.byte v else BitVec.ofNat 32 v) s)

/-- Two f32 values rounded into the halves of a word (R117). -/
def packHalves (f : FloatFmt) (m : Mods) (x y : Word) : Word :=
  BitVec.ofNat 32 (outF f m (in32 m y) * 65536 + outF f m (in32 m x))

def execPk2h (b a : BitVec 7) (n : Bool) (d : BitVec 7) (s : State) : Out := ins3 fpAll (packHalves fF16) b a n d s
def execPk2bf (b a : BitVec 7) (n : Bool) (d : BitVec 7) (s : State) : Out := ins3 fpAll (packHalves fBF16) b a n d s

/-- A half read as a format, exact in f32 (R117). -/
def unpackHalf (f : FloatFmt) (hi : Bool) (m : Mods) (x : Word) : Word :=
  BitVec.ofNat 32 (fF32.result .rn false m.ftz (inF f m (if hi then x.toNat / 65536 else x.toNat)))

def execUpkhl (a : BitVec 7) (n : Bool) (d : BitVec 7) (s : State) : Out := ins2 fpFtz (unpackHalf fF16 false) a n d s
def execUpkhh (a : BitVec 7) (n : Bool) (d : BitVec 7) (s : State) : Out := ins2 fpFtz (unpackHalf fF16 true) a n d s
def execUpkbl (a : BitVec 7) (n : Bool) (d : BitVec 7) (s : State) : Out := ins2 fpFtz (unpackHalf fBF16 false) a n d s
def execUpkbh (a : BitVec 7) (n : Bool) (d : BitVec 7) (s : State) : Out := ins2 fpFtz (unpackHalf fBF16 true) a n d s

/-- perm8 (R118): four result bytes from eight source bytes by the nibbles of a selector. -/
def perm8Word (x y sel : Word) : Word :=
  let src := x.toNat + y.toNat * 2 ^ 32
  BitVec.ofNat 32 ((List.range 4).foldl (fun t k =>
    let nib := sel.toNat / 2 ^ (4 * k) % 16
    let byte := src / 2 ^ (8 * (nib % 8)) % 256
    t + (if nib < 8 then byte else if 128 ≤ byte then 255 else 0) * 2 ^ (8 * k)) 0)

def execPerm8 (b a : BitVec 7) (n : Bool) (d : BitVec 7) (s : State) : Out := insQ noMods (fun _ => perm8Word) b a n d s

end Sys2Proof.Machine
end

