-- ==== Sys2Proof/Machine/CrossLane.lean ====
section
/-! DEFINITION. Tiles and cross-lane instructions: SHFOP, PERM, VOTE, MATCH, PART (R122 to R137). -/
namespace Sys2Proof.Machine

/-- The tile size T (R122). -/
def Ctx.tileSize (c : Ctx) : Nat := 2 ^ (c.part.toNat % 8)

/-- The position of a lane in its tile, and the tile's first lane (R122). -/
def tilePos (t : Nat) (l : Lane) : Nat := l.val % t

def tileBase (t : Nat) (l : Lane) : Nat := l.val - l.val % t

/-- The lanes of a lane's tile. -/
def tileMask (t : Nat) (l : Lane) : Mask := maskOf fun k => k.val / t == l.val / t

/-- A vector instruction of this chapter: the checks of R50, and its faults of R137. -/
def crossIns (ill bad : Bool) (srcs : List Nat) (n : Bool) (d : BitVec 7) (s : State) (k : State) : State :=
  issue s { ill := ill || (!n && isS d.toNat), bad := bad, srcs := srcs.map (·, 1), dsts := if n then [] else [(d.toNat, 1)],
            vec := true } k

/-! ### Shuffle-and-operate (R130) -/

/-- The source position of tile position j, or none when it lies outside the tile. -/
def shfSrc (mode t dist j : Nat) : Option Nat :=
  match mode with
  | 0 => if Nat.xor j dist < t then some (Nat.xor j dist) else none
  | 1 => if j < dist then none else some (j - dist)
  | 2 => if j + dist < t then some (j + dist) else none
  | _ => some (if t ≤ dist then j else (j + dist) % t)

/-- The operation of an OP on a lane's own value and its source's. -/
def shfOp (m : Mods) (op : Nat) (own src : Word) : Word :=
  match op with
  | 0 => src
  | 1 => wrapOrSat m (own.toInt + src.toInt)
  | 2 => imin32 own src
  | 3 => imax32 own src
  | 4 => umin32 own src
  | 5 => umax32 own src
  | 6 => own &&& src
  | 7 => own ||| src
  | 8 => own ^^^ src
  | 9 => on32 (addF fF32 m) own src
  | 10 => on32 (pickF fF32 m false false) own src
  | 11 => on32 (pickF fF32 m false true) own src
  | _ => onHalves (addF fF16 m) own src

/-- The modifiers an OP honours. -/
def shfAllow (op : Nat) : Allow :=
  if op = 1 then intSat else if op = 9 || op = 12 then fpAll else if op = 10 || op = 11 then fpFtz else noMods

/-- The lane from which a lane takes its source, when it lies in the tile and participates. -/
def shfFrom (en : Mask) (mode t dist : Nat) (l : Lane) : Option Lane :=
  match shfSrc mode t dist (tilePos t l) with
  | none => none
  | some p =>
    let k : Lane := Fin.ofNat 32 (tileBase t l + p)
    if en.getLsbD k.val then some k else none

/-- shfop (R130): a participating lane whose source lies outside its tile or does not participate keeps D. DESIGN CHOICE (assumption 29): the spec
does not say what t0 receives there; it takes D's prior value, or zero with N, as in a disabled lane. -/
def execShfop (k : BitVec 3) (o : BitVec 4) (m : BitVec 3) (a : BitVec 7) (n : Bool) (d : BitVec 7) (s : State) : Out :=
  let c := s.c
  let x := c.xp
  let en := c.enabled
  let from_ := shfFrom en m.toNat c.tileSize (2 ^ k.toNat)
  .next (crossIns (x.c != 127 || !modsLegal x.e (shfAllow o.toNat)) false [a.toNat] n d s
    (finishVec s 4 n d.toNat (en &&& maskOf fun l => (from_ l).isSome) fun l =>
      match from_ l with
      | none => 0
      | some j => shfOp (modsOf x.e) o.toNat (c.rd a.toNat l) (c.rd a.toNat j)))

/-! ### Permutes (R131, R132) -/

/-- A permute: each participating lane whose source participates takes that lane's a; long-latency (R48). -/
def permIns (ill bad : Bool) (srcs : List Nat) (from_ : Ctx → Lane → Option Lane) (a : BitVec 7) (n : Bool) (d : BitVec 7)
    (s : State) : State :=
  let c := s.c
  let x := c.xp
  let en := c.enabled
  let src (l : Lane) : Option Lane := (from_ c l).filter fun k => en.getLsbD k.val
  crossIns (ill || x.c != 127 || !modsLegal x.e noMods) bad srcs n d s
    (if n then retire s 4 .empty
     else finishLate true s 4 d.toNat 1 false (en &&& maskOf fun l => (src l).isSome)
       (fun l => match src l with
         | none => 0
         | some k => (c.rd a.toNat k).setWidth 128) 0)

/-- The lane b mod T of a lane's tile. -/
def tileLane (c : Ctx) (l : Lane) (b : Word) : Lane := Fin.ofNat 32 (tileBase c.tileSize l + b.toNat % c.tileSize)

def execPerm (b a : BitVec 7) (n : Bool) (d : BitVec 7) (s : State) : Out :=
  .next (permIns false false [a.toNat, b.toNat] (fun c l => some (Fin.ofNat 32 (c.rd b.toNat l).toNat)) a n d s)

def execPermt (b a : BitVec 7) (n : Bool) (d : BitVec 7) (s : State) : Out :=
  .next (permIns false false [a.toNat, b.toNat] (fun c l => some (tileLane c l (c.rd b.toNat l))) a n d s)

def execPerms (b a : BitVec 7) (n : Bool) (d : BitVec 7) (s : State) : Out :=
  .next (permIns false (s.c.isVec b.toNat) [a.toNat, b.toNat] (fun c l => some (tileLane c l (c.rd b.toNat l))) a n d s)

/-- The j-th selected lane of a lane's tile, j its tile position (R132). -/
def compactFrom (p : Nat) (c : Ctx) (l : Lane) : Option Lane :=
  (lanesOf (tileMask c.tileSize l &&& c.enabled &&& c.predMask p))[tilePos c.tileSize l]?

/-- compact is experimental: stepping A1 only, and withheld when its feature is masked (R53, R132, R337). -/
def execCompact (b a : BitVec 7) (n : Bool) (d : BitVec 7) (s : State) : Out :=
  .next (permIns (!feature s 0) (decide (64 ≤ b.toNat)) [a.toNat] (compactFrom b.toNat) a n d s)

/-! ### Votes (R133) -/

/-- A vote: `v` gives the mask of voters for which the condition holds, from the voters of the tile. -/
def voteIns (bad : Bool) (srcs : List Nat) (v : Ctx → Mask → Mask) (g x : Bool) (p : BitVec 6) (s : State) : State :=
  let c := s.c
  let xp := c.xp
  let en := c.enabled
  let res (l : Lane) : Bool :=
    predResult g x ((v c (tileMask c.tileSize l &&& en)).getLsbD l.val) (c.pred p.toNat l)
  issue s { ill := xp.c != 127 || !modsLegal xp.e noMods, bad := bad, srcs := srcs.map (·, 1), vec := true }
    (retire (modC s fun c => c.setPred p.toNat en (maskOf res)) 4 .empty)

/-- A whole tile's verdict, for all its voters. -/
def verdict (b : Bool) (voters : Mask) : Mask := if b then voters else 0

/-- The one lane of a list's end, as a mask. -/
def oneLane (l : Option Lane) : Mask :=
  match l with
  | none => 0
  | some k => BitVec.ofNat 32 (2 ^ k.val)

def predBad (a : BitVec 7) : Bool := decide (64 ≤ a.toNat)

def execVall (a : BitVec 7) (g x : Bool) (p : BitVec 6) (s : State) : Out :=
  .next (voteIns (predBad a) [] (fun c m => verdict (m &&& c.predMask a.toNat == m) m) g x p s)
def execVany (a : BitVec 7) (g x : Bool) (p : BitVec 6) (s : State) : Out :=
  .next (voteIns (predBad a) [] (fun c m => verdict (m &&& c.predMask a.toNat != 0) m) g x p s)
def execVeq (a : BitVec 7) (g x : Bool) (p : BitVec 6) (s : State) : Out :=
  .next (voteIns false [a.toNat]
    (fun c m => verdict ((lanesOf m).all fun k => c.rd a.toNat k == c.rd a.toNat (lowest m)) m) g x p s)
def execVfirst (a : BitVec 7) (g x : Bool) (p : BitVec 6) (s : State) : Out :=
  .next (voteIns (predBad a) [] (fun c m => oneLane (lanesOf (m &&& c.predMask a.toNat)).head?) g x p s)
def execVlast (a : BitVec 7) (g x : Bool) (p : BitVec 6) (s : State) : Out :=
  .next (voteIns (predBad a) [] (fun c m => oneLane (lanesOf (m &&& c.predMask a.toNat)).getLast?) g x p s)

/-! ### Match and tile counts (R134) -/

/-- A MATCH instruction: a value for each participating lane from the participating lanes of its tile. -/
def matchIns (bad : Bool) (srcs : List Nat) (f : Ctx → Lane → Mask → Word) (n : Bool) (d : BitVec 7) (s : State) : State :=
  let c := s.c
  let x := c.xp
  let en := c.enabled
  crossIns (x.c != 127 || !modsLegal x.e noMods) bad srcs n d s
    (finishVec s 4 n d.toNat en fun l => f c l (tileMask c.tileSize l &&& en))

def execMatchLanes (a : BitVec 7) (n : Bool) (d : BitVec 7) (s : State) : Out :=
  .next (matchIns false [a.toNat]
    (fun c l m => maskOf fun k => m.getLsbD k.val && c.rd a.toNat k == c.rd a.toNat l) n d s)
def execTfirst (a : BitVec 7) (n : Bool) (d : BitVec 7) (s : State) : Out :=
  .next (matchIns (predBad a) []
    (fun c _ m => BitVec.ofNat 32 (((lanesOf (m &&& c.predMask a.toNat)).head?.map (·.val)).getD 32)) n d s)
def execTpop (a : BitVec 7) (n : Bool) (d : BitVec 7) (s : State) : Out :=
  .next (matchIns (predBad a) [] (fun c _ m => BitVec.ofNat 32 (popc32 (m &&& c.predMask a.toNat))) n d s)

/-! ### Tile registers (R123, R124, R135) -/

/-- setpart: part = a + i on the scalar unit; an invalid value faults only where the write takes place (R124). DESIGN CHOICE (assumption 39): R127
makes it a scalar instruction, which a handler may run (R353), and R137 makes every cross-lane instruction a double fault there; a handler may
run it. DESIGN CHOICE (assumption 40): R135 names scalar codes 96 to 119 for A and a fault for a vector A only; a latch with a scalar result is read. -/
def execSetpart (i a : BitVec 7) (s : State) : Out :=
  let c := s.c
  let v := c.rd a.toNat 0 + BitVec.ofInt 32 (c.imm i)
  let ok := decide (1 ≤ v.toNat ∧ v.toNat ≤ 5)
  .next (issue s { ill := c.xp.c != 127, bad := c.isVec a.toNat, srcs := [(a.toNat, 1)] }
    (if !c.goes then retire s 4 .empty
     else if !ok then faultAt s 4 0x02 c.actMask 0
     else retire (modC s fun c => { c with part := v }) 4 .empty))

/-- A tile register read into D: only a guard may stand in its XP (R135). -/
def tileRead (ill bad : Bool) (n : Bool) (d : BitVec 7) (f : Ctx → Lane → Word) (s : State) : State :=
  laneIns 4 (ill || s.c.xp.c != 127 || s.c.xp.e != 0) bad [] n d.toNat f s

/-- getpart (R135). DESIGN CHOICE (assumption 39): with a scalar D a handler may run it, as setpart; (assumption 34): with N, where D is ignored and
there is no register source, its kind is still taken from the D field. -/
def execGetpart (n : Bool) (d : BitVec 7) (s : State) : Out := .next (tileRead false false n d (fun c _ => c.part) s)

/-- tileid and tlane are vector instructions: a scalar D is illegal (R127). -/
def tileIns (n : Bool) (d : BitVec 7) (f : Ctx → Lane → Word) (s : State) : State :=
  let c := s.c
  crossIns (c.xp.c != 127 || c.xp.e != 0) false [] n d s (finishVec s 4 n d.toNat c.enabled (f c))

def execTileid (n : Bool) (d : BitVec 7) (s : State) : Out :=
  .next (tileIns n d (fun c l => BitVec.ofNat 32 (l.val / c.tileSize)) s)
def execTlane (n : Bool) (d : BitVec 7) (s : State) : Out :=
  .next (tileIns n d (fun c l => BitVec.ofNat 32 (tilePos c.tileSize l)) s)

end Sys2Proof.Machine
end

