-- ==== Sys2Proof/Machine/Fences.lean ====
section
/-! DEFINITION. Fences and cache operations: FENCE (R182, R194, R227 to R230). -/
namespace Sys2Proof.Machine

/-- A fence executes once for the group and takes no prefix (R38, R227). -/
def fenceIns (s : State) (k : State → State) : Out := .next (issue s { ill := s.c.xpw.isSome } (k s))

/-- A plain fence orders as acquire-release (R182). -/
def fenceAcquires (o : Nat) : Bool := o != 2
def fenceReleases (o : Nat) : Bool := o != 1

/-- The group's kicks hold an incomplete task of a class: COPY when `copy`, MATX when `matx` (R228). -/
def tasksLeft (s : State) (copy matx : Bool) : Bool :=
  ((curWg s).map fun w => w.kicks.any fun k => k.gid == s.grp.gid && k.recs.any fun r =>
    !r.state.over && ((copy && rKind r.bytes == 1) || (matx && rKind r.bytes == 2))).getD false

/-- The ordering part of fence and xfence on the L1 and on the stores under way; only the leading member acts (R194, R232). -/
def fenceAct (o scp : Nat) (lanesBefore lanesAfter : Bool) (s : State) : State :=
  afterRelease s (fenceReleases o && lanesBefore) fun s =>
    retire (if fenceAcquires o && lanesAfter && !trailing s then acquire s scp else s) 4 .empty

def execFence (o : BitVec 2) (scp : BitVec 2) (s : State) : Out :=
  fenceIns s fun s =>
    let k := fenceAct o.toNat scp.toNat true true
    if curIl s == 2 && fenceReleases o.toNat then commitPoint s none false k else k s

def execXfence (clb cla : BitVec 4) (o : BitVec 2) (scp : BitVec 2) (s : State) : Out :=
  fenceIns s fun s =>
    if tasksLeft s (cla.getLsbD 1) (cla.getLsbD 2) then stallAt s .drain
    else
      let k := fenceAct o.toNat scp.toNat (cla.getLsbD 0) (clb.getLsbD 0)
      if curIl s == 2 && fenceReleases o.toNat then commitPoint s none false k else k (unstall s)

/-- drainst (R229, R362): every earlier stg is translated and accepted; a record found is delivered here, outside a handler, and refuses an
attempt of the workgroup that is open (R260). -/
def execDrainst (s : State) : Out :=
  fenceIns s fun s =>
    let s1 := releaseWait s
    match if s1.c.inH then none else nextSf s1 with
    | some e =>
      let s2 := unstall (dropSf (refuseOpen s1 s1.grp.wg) e)
      noteRecord (takeFault s2 (sfFault e s2.c.npc false) (s2.c.run.pc + 4)) e
    | none => if releaseStuck s1 then stallAt s1 .drain else retire (unstall s1) 4 .empty

def execCinv (s : State) : Out := fenceIns s fun s => retire (if trailing s then s else acquireAt s s.grp.core) 4 .empty

def execCflush (s : State) : Out := fenceIns s fun s => retire (if trailing s then s else flushCore s s.grp.core) 4 .empty

end Sys2Proof.Machine
end

