-- ==== Sys2Proof/Machine/GlobalMem.lean ====
section
/-! DEFINITION. Global memory: LDG, STG, ATG (R210 to R220). -/
namespace Sys2Proof.Machine

/-! ### ldg and ldg.pf (R214, R215) -/

/-- The lanes of an ldg access memory: emulated when one is misaligned, otherwise each translated and loaded. -/
def ldgAccess (s : State) (one : Bool) (pol n : Nat) (lanes : List Lane) (ea : Lane → DWord) : State × LaneOut :=
  if (misaligned lanes ea n).isEmpty then
    let (s1, rs) := probeAll s .load ea lanes
    let (s2, vs) := if one then loadOnce s1 pol n (oks rs) else loadLanes s1 pol n (oks rs)
    (s2, ⟨vs, (fails rs).map fun x => (x.1, x.2, ea x.1)⟩)
  else emuLoads (globalByte pol) ea n lanes s

/-- An acquire load: the L1 action of its scope; and, since only a plain si load may return an older write than its core has observed, where group
scope leaves the si copies, those of the words that it names are loaded again from their homes (R189, R194). -/
def acquireLoad (s : State) (scp pol n : Nat) (lanes : List Lane) (ea : Lane → DWord) : State :=
  let s1 := acquire s scp
  let again (s : State) (va : Nat) : State := match peekPa s va with
    | some pa => if inMain pa then refreshSi s (curReq s) pa else s
    | none => s
  if scp = 0 && pol == 2 then
    lanes.foldl (fun s l => ((List.range n).filter fun k => k = 0 || ((ea l).toNat + k) % 4 = 0).foldl (fun s k => again s ((ea l).toNat + k)) s) s1
  else s1

def execLdg (z : BitVec 3) (o : BitVec 2) (scp : BitVec 2) (pol : BitVec 2) (a : BitVec 7) (n : Bool) (d : BitVec 7)
    (s : State) : Out :=
  let c := s.c
  let vec := kindVec c n d.toNat [a.toNat]
  let regs := szRegs z.toNat
  let lanes := actLanes c vec
  let ea := globalEa c a.toNat (c.offFM z.toNat)
  let size := 2 ^ z.toNat
  let off := misaligned lanes ea size
  .next (issue s { ill := c.xp.c != 127 || (vec && !n && isS d.toNat), srcs := [(a.toNat, 2)],
                   dsts := if n then [] else [(d.toNat, regs)], vec := vec }
    (ifGoes s vec <| if c.inH && !off.isEmpty then wholeFault s vec 0x10 off ea
     else
      let addr := ea (lanes.headD 0)
      if trailing s then orForward s fun s f => finishLoad s vec n d.toNat regs lanes f addr
      else
        let s1 := if off.isEmpty then settleFor s (lanes.map ea) size else settle s
        let s2 := if ordAcquires o.toNat then acquireLoad s1 scp.toNat pol.toNat size lanes ea else s1
        let (s3, out) := ldgAccess s2 (!c.isVec a.toNat) pol.toNat size lanes ea
        let f := out.item c vec
        finishLoad (forward s3 f) vec n d.toNat regs lanes f addr))

/-- A prefetch of one lane: a request for its line, dropped when the address fails (R215). -/
def prefetchLane (pol : Nat) (s : State) (ea : DWord) : State :=
  match probe s .load ea with
  | (s1, .ok pa) =>
    if inMain pa then
      { s1 with homeQ := s1.homeQ ++ [⟨s1.grp.core, s1.grp.wg, s1.grp.gid, lineOf pa, .fetch pol⟩] }
    else s1
  | (s1, .error _) => s1

def execLdgPf (z : BitVec 3) (_scp : BitVec 2) (pol : BitVec 2) (a : BitVec 7) (s : State) : Out :=
  let c := s.c
  let vec := c.isVec a.toNat
  let ea := globalEa c a.toNat (c.offFM z.toNat)
  .next (issue s { ill := c.xp.c != 127, srcs := [(a.toNat, 2)], vec := vec }
    (retire (if curDet s || trailing s then s
      else (actLanes c vec).foldl (fun s l => prefetchLane pol.toNat s (ea l)) s) 4 .empty))

/-! ### stg (R216) -/

/-- The stores of a plain stg: under way as a page walk, or settled at once when every page is cached (R213, R316). -/
def stgPlain (s : State) (one : Bool) (z pol scp : Nat) (ls : List WalkLane) : State :=
  let s1 := settleFor s (ls.map (·.va)) (2 ^ z)
  let k : Walk := { core := s1.grp.core, wg := s1.grp.wg, gid := s1.grp.gid, npc := s1.c.npc, twin := s1.c.twin, size := z,
                    pol := pol, scp := scp, one := one, stuck := false, lanes := ls }
  let s2 := { s1 with walks := s1.walks ++ [k] }
  if cachedFor s1 s1.grp.core s1.grp.wg ls then resolveWalk s2 k else s2

/-- The stores of a stg that enters a buffer (R202, R206): translated at issue, with one record for the lanes that fault.
A commit buffer has an entry for each lane (R372). -/
def stgBuffered (s : State) (one : Bool) (z pol scp : Nat) (ls : List WalkLane) : State :=
  let mask := laneMask (ls.map (·.lane))
  let find (l : Lane) : WalkLane := (ls.find? (·.lane == l)).getD ⟨l, 0, []⟩
  let (s1, rs) := probeAll s .store (fun l => (find l).va) (ls.map (·.lane))
  let bad := (fails rs).map fun x => (find x.1, x.2)
  if !bad.isEmpty && decide (16 ≤ sfCount s1 s1.grp.core) then stallAt s1 .buffer
  else if overflows s1 (oks rs).length then abortIl1 s1 s1.grp.wg true
  else
    let s2 := (accessing (one && curIl s == 0) (oks rs)).foldl (fun s x => storeOut s x.1 pol scp (find x.1).va x.2 (find x.1).data mask) s1
    let s3 := match sfEntry s2 s2.grp.core s2.grp.wg s2.grp.gid s2.grp.role s2.c.npc s2.c.twin z bad with
      | none => s2
      | some e => addSf s2 e
    retire (unstall s3) 4 .empty

/-- A checked member's stores: into its commit buffer, translated at commit (R207, R363). -/
def stgChecked (s : State) (pol scp : Nat) (ls : List WalkLane) : State :=
  let mask := laneMask (ls.map (·.lane))
  retire (ls.foldl (fun s l => bufferStore s (.store l.lane l.va [] l.data pol scp) mask) s) 4 .empty

/-- The stores of a release stg at its commit point: performed once, by the leading member, after the commit of those before (R207, R377 step
6). -/
def stgReleased (s : State) (one : Bool) (z pol scp : Nat) (ls : List WalkLane) : State :=
  if trailing s then retire s 4 .empty
  else
    let k : Walk := { core := s.grp.core, wg := s.grp.wg, gid := s.grp.gid, npc := s.c.npc, twin := s.c.twin, size := z, pol := pol, scp := scp,
                      one := one, stuck := false, lanes := ls }
    retire (drainGroup (resolveWalk { s with walks := s.walks ++ [k] } k) s.grp.wg s.grp.gid) 4 .empty

/-- The misaligned stg that is not buffered: bytes in lane order (R367). -/
def stgEmulated (s : State) (vec : Bool) (pol scp : Nat) (lanes : List Lane) (ea : Lane → DWord) (data : Lane → List Byte) : State :=
  let (s1, bad) := emuStores (globalPutByte pol scp (laneMask lanes)) ea data lanes (settle s)
  finishStore s1 vec bad

/-- A buffered misaligned stg of the trailing member: the lanes and bytes that its leading one stored, and its faults (R375). -/
def stgFollows (pol scp : Nat) (released : Bool) (lanes : List Lane) (ea : Lane → DWord) (data : Lane → List Byte) (s : State) : State :=
  orForward s fun s f =>
    let made := if released then [] else lanes.filter fun l => f.vals[l] != 0
    let s1 := made.foldl (fun s l => bufferStore s (.store l (ea l) [] ((data l).take f.vals[l].toNat) pol scp) (laneMask made)) s
    if f.fmask = 0 then retire s1 4 .empty else laneFault s1 f.cause f.fmask f.addr

/-- A misaligned stg into a commit buffer, one entry for each lane (R367, R372); at the commit point of a release it is performed (R207). -/
def stgPieces (s : State) (vec : Bool) (pol scp : Nat) (released : Bool) (lanes : List Lane) (ea : Lane → DWord) (data : Lane → List Byte) :
    State :=
  if trailing s then stgFollows pol scp released lanes ea data s
  else
    let (s1, ps) := probeLanes ea data lanes (settle s)
    let made := ps.filter fun p => !p.ok.isEmpty
    let mask := laneMask (made.map (·.lane))
    let bad := ps.filterMap fun p => p.err.map fun e => (p.lane, e.1, e.2)
    if overflows s1 made.length then abortIl1 s1 s1.grp.wg true
    else
      let put (s : State) (p : LanePieces) : State :=
        if released then p.ok.foldl (fun s x => match curWg s with
          | some w => commitStore s w s.grp.gid (curReq s) pol (ea p.lane) x.1 x.2
          | none => s) s
        else bufferStore s (.store p.lane (ea p.lane) (if curIl s = 2 then [] else p.ok.map (·.1)) p.bytes pol scp) mask
      let s2 := made.foldl put s1
      let s3 := if released then drainGroup s2 s.grp.wg s.grp.gid else s2
      let counts := made.map fun p => (p.lane, BitVec.ofNat 128 p.bytes.length)
      finishStore (forward s3 (LaneOut.item ⟨counts, bad⟩ s.c vec)) vec bad

def execStg (z : BitVec 3) (o : BitVec 2) (scp : BitVec 2) (pol : BitVec 2) (a : BitVec 7) (d : BitVec 7) (s : State) : Out :=
  let c := s.c
  let vec := c.isVec a.toNat || c.isVec d.toNat
  let lanes := actLanes c vec
  let ea := globalEa c a.toNat (c.offFM z.toNat)
  let data := storeData c d.toNat z.toNat
  let off := misaligned lanes ea (2 ^ z.toNat)
  let ls := lanes.map fun l => (⟨l, ea l, data l⟩ : WalkLane)
  let one := oneAccess c a.toNat lanes data
  let rel := ordReleases o.toNat
  let act (released : Bool) (s : State) : State :=
    if !off.isEmpty then
      (if curIl s = 0 then stgEmulated s vec pol.toNat scp.toNat lanes ea data
       else stgPieces s vec pol.toNat scp.toNat released lanes ea data)
    else if curIl s = 2 then
      (if released then stgReleased s one z.toNat pol.toNat scp.toNat ls else stgChecked s pol.toNat scp.toNat ls)
    else if curIl s = 1 || curDet s then stgBuffered s one z.toNat pol.toNat scp.toNat ls
    else retire (stgPlain s one z.toNat pol.toNat scp.toNat ls) 4 .empty
  .next (issue s { ill := c.xp.c != 127, srcs := [(d.toNat, szRegs z.toNat), (a.toNat, 2)], vec := vec }
    (ifGoes s vec <| if c.inH && !off.isEmpty then wholeFault s vec 0x10 off ea
     else
      let ev := mkEvent s 1 (cmpItems lanes ea (fun l => leNat (data l)) (2 ^ z.toNat) pol.toNat scp.toNat)
      if rel && curIl s == 2 then commitPoint s (some ev) true (act true)
      else match compareEvent s ev with
        | .wait s1 => s1
        | .go s1 => afterRelease s1 rel (act false)))

/-! ### atg (R218 to R220) -/

/-- An atg, its lanes checked, performed in lane order, its old values under way. -/
def atgAct (op : Amo) (o scp pol : Nat) (vec wide : Bool) (lanes : List Lane) (ea : Lane → DWord) (x cmp : Lane → Nat) (d : Nat)
    (s : State) : State :=
  let regs := if wide then 2 else 1
  let addr := ea (lanes.headD 0)
  if trailing s then orForward s fun s f => finishLoad s vec false d regs lanes f addr
  else
    let (s1, rs) := probeAll (settleFor s (lanes.map ea) (if wide then 8 else 4)) (.atomic op) ea lanes
    let (s2, vs) := rmwLanes false op wide pol ea x cmp (oks rs) s1
    let s3 := if (oks rs).isEmpty then s2 else noteAtomic s2
    let s4 := if ordAcquires o then acquire s3 scp else s3
    let f := LaneOut.item ⟨vs, (fails rs).map fun x => (x.1, x.2, ea x.1)⟩ s.c vec
    finishLoad (forward s4 f) vec false d regs lanes f addr

def atgIns (op : Amo) (o scp pol : BitVec 2) (a d : BitVec 7) (s : State) : Out :=
  let c := s.c
  let cas := op == .cas
  let wide := c.wideFA
  let regs := if wide then 2 else 1
  let cc := c.xp.c
  let vec := kindVec c false d.toNat (if cas then [a.toNat, d.toNat, cc] else [a.toNat, d.toNat])
  let lanes := actLanes c vec
  let ea := globalEa c a.toNat c.offFA
  let off := misaligned lanes ea (if wide then 8 else 4)
  let x := opnd c d.toNat wide
  let cmp := fun l => if cas then opnd c cc wide l else 0
  let act := atgAct op o.toNat scp.toNat pol.toNat vec wide lanes ea x cmp d.toNat
  .next (issue s { ill := (cas != (cc != 127)) || (wide && op.float) || (vec && isS d.toNat),
                   srcs := (d.toNat, regs) :: (a.toNat, 2) :: (if cas then [(cc, regs)] else []), dsts := [(d.toNat, regs)],
                   vec := vec }
    (ifGoes s vec <| if !off.isEmpty then wholeFault s vec 0x10 off ea
     else if curIl s = 2 then
      commitPoint s (some (mkEvent s 3 (cmpItems lanes ea (fun l => x l + cmp l * 2 ^ 64) (if wide then 8 else 4) pol.toNat scp.toNat)))
        true act
     else afterRelease s (ordReleases o.toNat) act))

def execAtgAdd (o scp pol : BitVec 2) (a d : BitVec 7) (s : State) : Out := atgIns .add o scp pol a d s
def execAtgSub (o scp pol : BitVec 2) (a d : BitVec 7) (s : State) : Out := atgIns .sub o scp pol a d s
def execAtgMin (o scp pol : BitVec 2) (a d : BitVec 7) (s : State) : Out := atgIns .min o scp pol a d s
def execAtgMax (o scp pol : BitVec 2) (a d : BitVec 7) (s : State) : Out := atgIns .max o scp pol a d s
def execAtgUmin (o scp pol : BitVec 2) (a d : BitVec 7) (s : State) : Out := atgIns .umin o scp pol a d s
def execAtgUmax (o scp pol : BitVec 2) (a d : BitVec 7) (s : State) : Out := atgIns .umax o scp pol a d s
def execAtgAnd (o scp pol : BitVec 2) (a d : BitVec 7) (s : State) : Out := atgIns .and o scp pol a d s
def execAtgOr (o scp pol : BitVec 2) (a d : BitVec 7) (s : State) : Out := atgIns .or o scp pol a d s
def execAtgXor (o scp pol : BitVec 2) (a d : BitVec 7) (s : State) : Out := atgIns .xor o scp pol a d s
def execAtgXchg (o scp pol : BitVec 2) (a d : BitVec 7) (s : State) : Out := atgIns .xchg o scp pol a d s
def execAtgCas (o scp pol : BitVec 2) (a d : BitVec 7) (s : State) : Out := atgIns .cas o scp pol a d s
def execAtgFadd (o scp pol : BitVec 2) (a d : BitVec 7) (s : State) : Out := atgIns .fadd o scp pol a d s
def execAtgFmin (o scp pol : BitVec 2) (a d : BitVec 7) (s : State) : Out := atgIns .fmin o scp pol a d s
def execAtgFmax (o scp pol : BitVec 2) (a d : BitVec 7) (s : State) : Out := atgIns .fmax o scp pol a d s
def execAtgInc (o scp pol : BitVec 2) (a d : BitVec 7) (s : State) : Out := atgIns .inc o scp pol a d s
def execAtgDec (o scp pol : BitVec 2) (a d : BitVec 7) (s : State) : Out := atgIns .dec o scp pol a d s

end Sys2Proof.Machine
end

