-- ==== Sys2Proof/Machine/Half16.lean ====
section
/-! DEFINITION. The sixteen 16-bit forms (R42, R121): the effect of the 32-bit counterpart with A = D, no prefix, no
modifiers, nearest-even rounding. -/
namespace Sys2Proof.Machine

/-- No modifiers: nearest-even (R121). -/
def plainMods : Mods := ⟨.rn, false, false, false, 0⟩

/-- mov ignores D as a source (R42). -/
def execMov16 (b : BitVec 6) (d : BitVec 5) (s : State) : Out :=
  .next (laneIns 2 s.c.xpw.isSome false [b6 b] false d.toNat (fun c l => c.rd (b6 b) l) s)

def execIadd16 (b : BitVec 6) (d : BitVec 5) (s : State) : Out := ins16 (fun x y => x + y) b d s
def execIsub16 (b : BitVec 6) (d : BitVec 5) (s : State) : Out := ins16 (fun x y => x - y) b d s
def execImul16 (b : BitVec 6) (d : BitVec 5) (s : State) : Out := ins16 (fun x y => x * y) b d s
def execAnd16 (b : BitVec 6) (d : BitVec 5) (s : State) : Out := ins16 (fun x y => x &&& y) b d s
def execOr16 (b : BitVec 6) (d : BitVec 5) (s : State) : Out := ins16 (fun x y => x ||| y) b d s
def execXor16 (b : BitVec 6) (d : BitVec 5) (s : State) : Out := ins16 (fun x y => x ^^^ y) b d s
def execShl16 (b : BitVec 6) (d : BitVec 5) (s : State) : Out := ins16 (fun x y => shlBy x y.toNat) b d s
def execShr16 (b : BitVec 6) (d : BitVec 5) (s : State) : Out := ins16 (fun x y => shrBy x y.toNat) b d s
def execSar16 (b : BitVec 6) (d : BitVec 5) (s : State) : Out := ins16 (fun x y => sarBy x y.toNat) b d s
def execImin16 (b : BitVec 6) (d : BitVec 5) (s : State) : Out := ins16 imin32 b d s
def execImax16 (b : BitVec 6) (d : BitVec 5) (s : State) : Out := ins16 imax32 b d s
def execFadd16 (b : BitVec 6) (d : BitVec 5) (s : State) : Out := ins16 (on32 (addF fF32 plainMods)) b d s
def execFmul16 (b : BitVec 6) (d : BitVec 5) (s : State) : Out := ins16 (on32 (mulF fF32 plainMods)) b d s
def execFmax16 (b : BitVec 6) (d : BitVec 5) (s : State) : Out := ins16 (on32 (pickF fF32 plainMods false true)) b d s

/-- fmac: D = D + B * t0, rounded once; t0 must hold a result (R121). -/
def execFmac (b : BitVec 6) (d : BitVec 5) (s : State) : Out :=
  .next (laneIns 2 s.c.xpw.isSome false [d.toNat, b6 b, 120] false d.toNat
    (fun c l => fma32 false false plainMods (c.rd (b6 b) l) (c.rd 120 l) (c.rd d.toNat l)) s)

end Sys2Proof.Machine
end

