-- ==== Sys2Proof/Machine/LocalMem.lean ====
section
/-! DEFINITION. Local memory: LDL, STL, ATL and the window onto a cohort (R221 to R224). -/
namespace Sys2Proof.Machine

/-- The member of the issuing workgroup's cohort that an index names, while it is resident on the same cluster (R221). -/
def cohortMember (s : State) (w : Workgroup) (k : Nat) : Option Workgroup :=
  match stageOf s w.ref with
  | none => none
  | some st =>
    let n := st.cx * st.cy
    if n ≤ k then none
    else s.wgs.find? fun v => v.grid == w.grid && v.pos == w.pos && v.curve % max n 1 == k && !v.finished && clusterOf v.core == clusterOf w.core

/-- Where a local offset leads: workgroup and offset in its allocation; none when it is out of bounds or refused (R221, R222). -/
def locTarget (s : State) (write : Bool) (n : Nat) (off : DWord) : Option (Nat × Nat) :=
  match curWg s with
  | none => none
  | some w =>
    let x := off.toNat % 2 ^ 32
    if !bitAt x 31 then (if x + n ≤ w.size then some (w.key, x) else none)
    else if bits x 24 19 != 0 then none
    else match cohortMember s w (bits x 30 25) with
      | none => none
      | some v =>
        let o := bits x 18 0
        if v.size < o + n then none
        else if v.key = w.key then some (w.key, o)
        else if (part s w.ref.part).det || (write && ilOf s w != 0) || !feature s 6 then none
        else some (v.key, o)

def locBytes (s : State) (t : Nat × Nat) (n : Nat) : List Byte :=
  match wgOf s t.1 with
  | none => []
  | some w => locRead w s.grp.role t.2 n

/-- A write at a bank, logged first in a checked workgroup (R378). -/
def locPut (s : State) (t : Nat × Nat) (bs : List Byte) : State := locWrite (logUndo s t.1 t.2 bs.length) t.1 s.grp.role t.2 bs

/-- Lanes whose offset is out of bounds or refused. -/
def outside (s : State) (write : Bool) (n : Nat) (lanes : List Lane) (ea : Lane → DWord) : List Lane :=
  lanes.filter fun l => (locTarget s write n (ea l)).isNone

def localByte (s : State) (ea : DWord) : State × Except (BitVec 8) Byte :=
  match locTarget s false 1 ea with
  | none => (s, .error 0x15)
  | some t => (s, .ok ((locBytes s t 1).headD 0))

def localPutByte (s : State) (ea : DWord) (b : Byte) : State × Option (BitVec 8) :=
  match locTarget s true 1 ea with
  | none => (s, some 0x15)
  | some t => (locPut s t [b], none)

def execLdl (i : BitVec 7) (z : BitVec 3) (a : BitVec 7) (n : Bool) (d : BitVec 7) (s : State) : Out :=
  let c := s.c
  let vec := kindVec c n d.toNat [a.toNat]
  let regs := szRegs z.toNat
  let size := 2 ^ z.toNat
  let lanes := actLanes c vec
  let ea := localEa c a.toNat (c.offFLM i z.toNat)
  let off := misaligned lanes ea size
  let out := outside s false size lanes ea
  let addr := ea (lanes.headD 0)
  .next (issue s { ill := c.xp.c != 127 || (vec && !n && isS d.toNat), srcs := [(a.toNat, 1)],
                   dsts := if n then [] else [(d.toNat, regs)], vec := vec }
    (if !off.isEmpty then
      (if c.inH then wholeFault s vec 0x10 off ea
       else let (s1, o) := emuLoads localByte ea size lanes s; finishLoad s1 vec n d.toNat regs lanes (o.item c vec) addr)
     else if !out.isEmpty then wholeFault s vec 0x15 out ea
     else
      let vals := lanes.map fun l => (l, bytesVal (((locTarget s false size (ea l)).map fun t => locBytes s t size).getD []))
      finishLoad s vec n d.toNat regs lanes (LaneOut.item ⟨vals, []⟩ c vec) addr))

def execStl (i : BitVec 7) (z : BitVec 3) (a : BitVec 7) (d : BitVec 7) (s : State) : Out :=
  let c := s.c
  let vec := c.isVec a.toNat || c.isVec d.toNat
  let size := 2 ^ z.toNat
  let lanes := actLanes c vec
  let ea := localEa c a.toNat (c.offFLM i z.toNat)
  let data := storeData c d.toNat z.toNat
  let off := misaligned lanes ea size
  let out := outside s true size lanes ea
  .next (issue s { ill := c.xp.c != 127, srcs := [(d.toNat, szRegs z.toNat), (a.toNat, 1)], vec := vec }
    (if !off.isEmpty then
      (if c.inH then wholeFault s vec 0x10 off ea
       else let (s1, bad) := emuStores (fun _ => localPutByte) ea data lanes s; finishStore s1 vec bad)
     else if !out.isEmpty then wholeFault s vec 0x15 out ea
     else retire (lanes.foldl (fun s l => match locTarget s true size (ea l) with
       | some t => locPut s t (data l)
       | none => s) s) 4 .empty))

/-! ### atl (R224) -/

/-- The lanes of an atl, one at a time in increasing lane number (R219). -/
def atlLanes (op : Amo) (wide : Bool) (ea : Lane → DWord) (x c : Lane → Nat) : List Lane → State → State × List (Lane × BitVec 128)
  | [], s => (s, [])
  | l :: ls, s =>
    let n := if wide then 8 else 4
    match locTarget s true n (ea l) with
    | none => atlLanes op wide ea x c ls s
    | some t =>
      let old := leNat (locBytes s t n)
      let (s2, vs) := atlLanes op wide ea x c ls (locPut s t (leBytes n (op.apply (8 * n) old (x l) (c l))))
      (s2, (l, BitVec.ofNat 128 old) :: vs)

def atlIns (op : Amo) (o scp : BitVec 2) (a d : BitVec 7) (s : State) : Out :=
  let c := s.c
  let cas := op == .cas
  let wide := c.wideFA
  let regs := if wide then 2 else 1
  let cc := c.xp.c
  let vec := kindVec c false d.toNat (if cas then [a.toNat, d.toNat, cc] else [a.toNat, d.toNat])
  let lanes := actLanes c vec
  let size := if wide then 8 else 4
  let ea := localEa c a.toNat c.offFA
  let off := misaligned lanes ea size
  let out := outside s true size lanes ea
  let x := opnd c d.toNat wide
  let cmp := fun l => if cas then opnd c cc wide l else 0
  let act (s : State) : State :=
    let (s1, vs) := atlLanes op wide ea x cmp lanes s
    let s2 := if ordAcquires o.toNat && !trailing s then acquire s1 scp.toNat else s1
    finishLoad s2 vec false d.toNat regs lanes (LaneOut.item ⟨vs, []⟩ c vec) (ea (lanes.headD 0))
  .next (issue s { ill := (cas != (cc != 127)) || (wide && op.float) || (vec && isS d.toNat),
                   srcs := (d.toNat, regs) :: (a.toNat, 1) :: (if cas then [(cc, regs)] else []), dsts := [(d.toNat, regs)],
                   vec := vec }
    (ifGoes s vec <| if !off.isEmpty then wholeFault s vec 0x10 off ea
     else if !out.isEmpty then wholeFault s vec 0x15 out ea
     else afterRelease s (ordReleases o.toNat) fun s =>
      match compareEvent s (mkEvent s 3 (cmpItems lanes ea (fun l => x l + cmp l * 2 ^ 64) size 0 scp.toNat)) with
      | .wait s1 => s1
      | .go s1 => act (unstall s1)))

def execAtlAdd (o scp : BitVec 2) (a d : BitVec 7) (s : State) : Out := atlIns .add o scp a d s
def execAtlSub (o scp : BitVec 2) (a d : BitVec 7) (s : State) : Out := atlIns .sub o scp a d s
def execAtlMin (o scp : BitVec 2) (a d : BitVec 7) (s : State) : Out := atlIns .min o scp a d s
def execAtlMax (o scp : BitVec 2) (a d : BitVec 7) (s : State) : Out := atlIns .max o scp a d s
def execAtlUmin (o scp : BitVec 2) (a d : BitVec 7) (s : State) : Out := atlIns .umin o scp a d s
def execAtlUmax (o scp : BitVec 2) (a d : BitVec 7) (s : State) : Out := atlIns .umax o scp a d s
def execAtlAnd (o scp : BitVec 2) (a d : BitVec 7) (s : State) : Out := atlIns .and o scp a d s
def execAtlOr (o scp : BitVec 2) (a d : BitVec 7) (s : State) : Out := atlIns .or o scp a d s
def execAtlXor (o scp : BitVec 2) (a d : BitVec 7) (s : State) : Out := atlIns .xor o scp a d s
def execAtlXchg (o scp : BitVec 2) (a d : BitVec 7) (s : State) : Out := atlIns .xchg o scp a d s
def execAtlCas (o scp : BitVec 2) (a d : BitVec 7) (s : State) : Out := atlIns .cas o scp a d s
def execAtlFadd (o scp : BitVec 2) (a d : BitVec 7) (s : State) : Out := atlIns .fadd o scp a d s
def execAtlFmin (o scp : BitVec 2) (a d : BitVec 7) (s : State) : Out := atlIns .fmin o scp a d s
def execAtlFmax (o scp : BitVec 2) (a d : BitVec 7) (s : State) : Out := atlIns .fmax o scp a d s
def execAtlInc (o scp : BitVec 2) (a d : BitVec 7) (s : State) : Out := atlIns .inc o scp a d s
def execAtlDec (o scp : BitVec 2) (a d : BitVec 7) (s : State) : Out := atlIns .dec o scp a d s

end Sys2Proof.Machine
end

