-- ==== Sys2Proof/Machine/Move.lean ====
section
/-! DEFINITION. Moves, lane access, special registers and immediates: MOVX and MOVI (R54, R103 to R105, R338, R355). -/
namespace Sys2Proof.Machine

def execMov (a : BitVec 7) (n : Bool) (d : BitVec 7) (s : State) : Out := ins2 noMods (fun _ x => x) a n d s

/-! ### Special registers -/

/-- Indices of lane scope (R54). -/
def laneScope (i : Nat) : Bool := i == 0 || i == 13

/-- The fault a read of an index raises, if any (R54, R338, R355). Indices 32 to 39 are for supervisor routines; those are Clasan code outside the
manual, each one step of this model, so no step of a program enters one (assumption 47). -/
def sprdFault (c : Ctx) (i : Nat) : Option (BitVec 8) :=
  if i < 16 then none
  else if i < 22 then (if c.inH then none else some 0x02)
  else if i < 24 then none
  else if i < 32 then some 0x01
  else if i < 40 then (if c.sup then none else some 0x02)
  else if i < 48 then some 0x01
  else if i < 56 then (if c.inH then none else some 0x02)
  else some 0x01

/-- Lane flags of the selected lane (R355 index 55). -/
def laneFlags (c : Ctx) : Word :=
  let i := c.selLane.toNat
  let l : Lane := Fin.ofNat 32 i
  BitVec.ofNat 32 (bit (c.parkM.getLsbD i) + bit (c.waitM.getLsbD i) * 2 + bit (c.barM.getLsbD i) * 4 +
    (c.barN[l]).toNat * 16 + bit (c.exitM.getLsbD i) * 256)

/-- The contents of a special register in a lane (R54, R355). -/
def sprdValue (s : State) (i : Nat) (l : Lane) : Word :=
  let c := s.c
  let w := curWg s
  let st := curStage s
  let n (x : Nat) : Word := BitVec.ofNat 32 x
  match i with
  | 0 => n l.val
  | 1 => n s.grp.gid.val
  | 2 => n ((w.map fun w => w.wgid.1).getD 0)
  | 3 => n ((w.map fun w => w.wgid.2.1).getD 0)
  | 4 => n ((w.map fun w => w.wgid.2.2).getD 0)
  | 5 => n ((st.map (·.gx)).getD 0)
  | 6 => n ((st.map (·.gy)).getD 0)
  | 7 => n ((st.map (·.gz)).getD 0)
  | 8 => n ((w.map fun w => w.ref.stage).getD 0)
  | 9 => n ((w.map fun w => match w.cls with
      | .shuttle => 0
      | .beam => 1).getD 0)
  | 10 => n ((w.map fun w => clusterOf w.core).getD 0)
  | 11 => n (curIl s)
  | 12 => c.icount
  | 13 => c.npc
  | 14 => c.parkM
  | 15 => c.part
  | 16 => c.frame.cause.setWidth 32
  | 17 => c.frame.addr.extractLsb' 0 32
  | 18 => c.frame.addr.extractLsb' 32 32
  | 19 => c.frame.npc
  | 20 => c.frame.twin
  | 21 => c.frame.mask
  | 22 => n (bit (curSec s))
  | 23 => n ((w.map fun w => tenField w.ref.part w.ref.tenant).getD 0)
  | 32 => n ((w.map fun w => (part s w.ref.part).func.toNat).getD 0)
  | 33 => n ((w.map fun w => tenField w.ref.part w.ref.tenant).getD 0)
  | 34 => n (((s.place.cl[clusterOf s.grp.core]?).map (·.toNat)).getD 0)
  | 35 => n ((w.map fun w => (tenant s w.ref.part w.ref.tenant).tways.toNat).getD 0)
  | 36 => (w.map fun w => (tenant s w.ref.part w.ref.tenant).ttbr.extractLsb' 0 32).getD 0
  | 37 => (w.map fun w => (tenant s w.ref.part w.ref.tenant).ttbr.extractLsb' 32 32).getD 0
  | 38 => n (((w.bind fun w => partVf s w.ref.part).map fun f => (s.vfs[f]).st).getD 0)
  | 48 => (w.map (·.ckpt)).getD 0
  | 49 => (w.map (·.rolls)).getD 0
  | 50 => c.recD.extractLsb' 0 32
  | 51 => c.recD.extractLsb' 32 32
  | 52 => c.recS
  | 53 => c.selLane.setWidth 32
  | 54 => c.lpc[c.selLane.toNat]
  | 55 => laneFlags c
  | _ => 0

/-- sprd (R103, R104): its A field is the index; a vector D takes the value in every enabled lane. DESIGN CHOICE (assumption 34): with N set,
D is ignored for the result and yet gives the kind, since the instruction has no register source (R34, R37). -/
def execSprd (a : BitVec 7) (n : Bool) (d : BitVec 7) (s : State) : Out :=
  let x := s.c.xp
  let k := a.toNat
  let vec := isV d.toNat
  .next (laneIns 4 (x.c != 127 || !modsLegal x.e noMods || sprdFault s.c k == some 0x01)
    (sprdFault s.c k == some 0x02 || (laneScope k && !vec)) [] n d.toNat (fun _ l => sprdValue s k l) s)

/-- The validity of a part value (R124). -/
def partOk (x : Word) : Bool := decide (1 ≤ x.toNat ∧ x.toNat ≤ 5)

/-- A handler's write to a lane's flags is forbidden (R355). -/
def flagsBad (c : Ctx) (x : Word) : Bool :=
  x.getLsbD 1 || x.getLsbD 2 || (x.getLsbD 0 && c.exitM.getLsbD c.selLane.toNat)

/-- The bit of the selected lane. -/
def Ctx.selBit (c : Ctx) : Mask := BitVec.ofNat 32 (2 ^ c.selLane.toNat)

/-- A handler's write to lane lpc or lane flags (R355). -/
def writeLane (c : Ctx) (i : Nat) (x : Word) : Ctx :=
  let c1 := c.releaseLanes c.selBit
  if i = 54 then { c1 with lpc := c.lpc.set c.selLane.toNat x c.selLane.isLt }
  else if c.exitM.getLsbD c.selLane.toNat then c
  else { c1 with parkM := if x.getLsbD 0 then c.parkM ||| c.selBit else c.parkM &&& ~~~c.selBit }

/-- The fault a write of an index raises, if any (R54, R104, R338, R355). -/
def spwrFault (c : Ctx) (i : Nat) : Option (BitVec 8) :=
  if i = 15 then none
  else if i < 24 then some 0x02
  else if i < 32 then some 0x01
  else if i < 40 then some 0x02
  else if i < 48 then some 0x01
  else if 56 ≤ i then some 0x01
  else if !c.inH || i < 53 then some 0x02
  else none

/-- The write would give the register a value that it may not take: the check belongs to the write (R124, R355). -/
def spwrBad (c : Ctx) (i : Nat) (x : Word) : Bool := if i = 15 then !partOk x else i == 55 && flagsBad c x

/-- spwr (R103, R104, R355): a scalar-unit write of a special register. -/
def execSpwr (b a : BitVec 7) (s : State) : Out :=
  let c := s.c
  let x := c.xp
  let k := a.toNat
  let v := c.rd b.toNat 0
  let f := spwrFault c k
  .next (issue s { ill := x.c != 127 || !modsLegal x.e noMods || f == some 0x01, bad := c.isVec b.toNat || f == some 0x02,
                   late := c.goes && spwrBad c k v, srcs := [(b.toNat, 1)] }
    (retire (if !c.goes then s else modC s fun c =>
      if k = 15 then { c with part := v }
      else if k = 53 then { c with selLane := v.setWidth 5 }
      else writeLane c k v) 4 .empty))

/-! ### Lane access on the scalar unit (R103) -/

/-- The checks shared by rdlane, wrlane, rfl and ptom: no C, no modifier, the kind of D. -/
def unitIll (c : Ctx) : Bool := c.xp.c != 127 || !modsLegal c.xp.e noMods

def execRdlane (b a : BitVec 7) (n : Bool) (d : BitVec 7) (s : State) : Out :=
  let c := s.c
  let l : Lane := Fin.ofNat 32 (c.rd b.toNat 0).toNat
  .next (issue s { ill := unitIll c || (!n && isV d.toNat), bad := c.isVec b.toNat, srcs := [(a.toNat, 1), (b.toNat, 1)],
                   dsts := if n then [] else [(d.toNat, 1)] }
    (finishScal s 4 n d.toNat c.goes (c.rd a.toNat l)))

def execWrlane (b a : BitVec 7) (n : Bool) (d : BitVec 7) (s : State) : Out :=
  let c := s.c
  let l : Lane := Fin.ofNat 32 (c.rd b.toNat 0).toNat
  .next (issue s { ill := unitIll c || (!n && isS d.toNat), bad := c.isVec a.toNat || c.isVec b.toNat,
                   srcs := [(a.toNat, 1), (b.toNat, 1)], dsts := if n then [] else [(d.toNat, 1)] }
    (finishVec s 4 n d.toNat (if c.goes then BitVec.ofNat 32 (2 ^ l.val) else 0) fun _ => c.rd a.toNat 0))

def execRfl (a : BitVec 7) (n : Bool) (d : BitVec 7) (s : State) : Out :=
  let c := s.c
  .next (issue s { ill := unitIll c || (!n && isV d.toNat), srcs := [(a.toNat, 1)], dsts := if n then [] else [(d.toNat, 1)] }
    (finishScal s 4 n d.toNat c.goes (c.rd a.toNat (lowest c.actMask))))

def execMovp (a : BitVec 7) (n : Bool) (d : BitVec 7) (s : State) : Out :=
  let c := s.c
  .next (issue s { ill := unitIll c || (!n && isS d.toNat), bad := decide (64 ≤ a.toNat),
                   dsts := if n then [] else [(d.toNat, 1)], vec := true }
    (finishVec s 4 n d.toNat c.enabled fun l => BitVec.ofNat 32 (bit (c.pred a.toNat l))))

def execPtom (a : BitVec 7) (n : Bool) (d : BitVec 7) (s : State) : Out :=
  let c := s.c
  .next (issue s { ill := unitIll c || (!n && isV d.toNat), bad := decide (64 ≤ a.toNat),
                   dsts := if n then [] else [(d.toNat, 1)] }
    (finishScal s 4 n d.toNat c.goes (c.actMask &&& c.predMask a.toNat)))

/-- movi (R105): an XP supplies bits [31:17] and no guard; its other payload bits are zero (R38). DESIGN CHOICE (assumption 34): with N set, D is
ignored for the result and yet gives the kind, since the instruction has no register source (R34, R37). -/
def execMovi (i : BitVec 17) (n : Bool) (d : BitVec 7) (s : State) : Out :=
  let c := s.c
  let v : Word := match c.xpw with
    | none => i.signExtend 32
    | some w => w.extractLsb' 0 15 ++ i
  let ill := match c.xpw with
    | none => false
    | some w => w.extractLsb' 15 10 != 0
  .next (issueM s { ill := ill, dsts := if n then [] else [(d.toNat, 1)], vec := isV d.toNat } c.actMask
    (if isV d.toNat then finishVec s 4 n d.toNat c.actMask fun _ => v else finishScal s 4 n d.toNat true v))

end Sys2Proof.Machine
end

