-- ==== Sys2Proof/Machine/Order.lean ====
section
/-! DEFINITION. Ordering tickets: ORDER (R290 to R293). -/
namespace Sys2Proof.Machine

/-- Ticket and VOID of object k as its bank holds them; where the block no longer translates, a value left open. -/
def ticketNow (s : State) (w : Workgroup) (k : Nat) : Nat × Word :=
  match ticketPa s w k with
  | some pa => (ticketOf s pa, ticketValue s pa)
  | none => (Config.lostQueueWord s.fresh (16 * k) % 2 ^ 32, BitVec.ofNat 32 (Config.lostQueueWord s.fresh (16 * k)))

/-- An ORDER form, once its object is known. -/
def orderIns (a d : BitVec 7) (s : State) (k : Workgroup → Nat → State → State) : Out :=
  let c := s.c
  .next (issue s { ill := !bareXp c || isV d.toNat, bad := c.isVec a.toNat, srcs := [(a.toNat, 1)], dsts := [(d.toNat, 1)] }
    (if !c.goes then retire s 4 .empty
     else match curWg s with
      | none => s
      | some w => if entryTkn w.entry ≤ scal c a then faultAt s 4 0x02 c.actMask 0 else k w (scal c a) (touchTickets s w.ref.part w.ref.tenant w.entry)))

/-- A request held at the bank: D is pending on both members of a pair, which the value reaches together (R291, R293). -/
def holdOrdw (s : State) (w : Workgroup) (d pa : Nat) : State :=
  let f : FwdItem := { vals := Vector.replicate 32 0, fmask := 0, cause := heldMark, addr := BitVec.ofNat 64 pa }
  let s1 := forward s f
  let s2 := { s1 with held := s1.held ++ [⟨w.key, w.ten, pa, w.rank, .ordw s1.grp.gid d⟩] }
  retire (modC s2 fun c => c.setPend d 1) 4 .empty

/-- ordw: the turn of the workgroup, now or once its bank grants it; an acquire (R291, R293). -/
def execOrdw (a : BitVec 7) (d : BitVec 7) (s : State) : Out :=
  orderIns a d s fun w k s =>
    if trailing s then orForward s fun s f =>
      if f.cause = heldMark then retire (modC s fun c => c.setPend d.toNat 1) 4 .empty else finishLoad s false false d.toNat 1 [0] f 0
    else
      let (t, v) := ticketNow s w k
      match ticketPa s w k with
      | some pa => if t = w.rank then scalarResult (acquire s 2) d.toNat 1 (v.setWidth 128) else holdOrdw s w d.toNat pa
      | none => scalarResult (acquire s 2) d.toNat 1 (v.setWidth 128)

/-- ordp passes the turn on; a release (R291, R293). In an IL1 stage and in a deterministic partition the advance is left to the
retirement. -/
def ordpAct (w : Workgroup) (k d : Nat) (s : State) : State :=
  if trailing s then trailResult s d 1
  else released s fun s =>
    let det := (part s w.ref.part).det
    let go := !w.passed.contains k && (det || (ticketNow s w k).1 == w.rank)
    let s1 := if go then modWg s w.key fun w =>
        { w with passed := k :: w.passed, duePass := if det || curIl s == 1 then w.duePass ++ [k] else w.duePass }
      else s
    let s2 := if go && !det && curIl s != 1 then (match ticketPa s w k with
        | some pa => advanceTicket s1 pa false
        | none => s1) else s1
    scalarResult s2 d 1 (BitVec.ofNat 128 (bit go))

def execOrdp (a : BitVec 7) (d : BitVec 7) (s : State) : Out :=
  orderIns a d s fun w k s => commitPoint s (some (opEvent s 3 (BitVec.ofNat 64 k) w.rank)) true (ordpAct w k d.toNat)

def execOrdr (a : BitVec 7) (d : BitVec 7) (s : State) : Out :=
  orderIns a d s fun w k s =>
    if trailing s then trailResult s d.toNat 1 else scalarResult s d.toNat 1 ((ticketNow s w k).2.setWidth 128)

end Sys2Proof.Machine
end

