-- ==== Sys2Proof/Machine/Vm.lean ====
section
/-! DEFINITION. Live migration of virtual functions: commands, dirty tracking, the state stream (R328 to R334). -/
namespace Sys2Proof.Machine

def setVf (s : State) (f : Fin 16) (g : VfCtl → VfCtl) : State := { s with vfs := s.vfs.set f (g s.vfs[f]) }

/-- The partition that a virtual function owns (R328). -/
def vfPart (s : State) (f : Fin 16) : Option (Fin 8) := (List.finRange 8).find? fun p => (part s p).en && partVf s p == some f

/-- A command that its state does not take (R329). -/
def vfRefuse (s : State) (f : Fin 16) : State := setVf s f fun v => { v with err := true, ecode := 1 }

/-- The stream is malformed or does not match (R329, R331). -/
def vfFail (s : State) (f : Fin 16) (code : Nat) : State := setVf s f fun v => { v with st := 5, err := true, ecode := code }

/-- A workgroup belongs to a partition. -/
def inPart (s : State) (p : Fin 8) (wg : Nat) : Bool := ((wgOf s wg).map fun w => w.ref.part == p).getD false

/-- Stores of a partition under way reach their places (R330 step 3, R332). -/
def drainPart (s : State) (p : Fin 8) : State :=
  homeDrain ((s.walks.filter fun k => inPart s p k.wg).foldl resolveWalk s) fun r => inPart s p r.wg

/-- PRECOPY (R329, R332). -/
def execPrecopy (f : Fin 16) (s : State) : Out :=
  .next (host s fun s => if (s.vfs[f]).st = 0 ∧ (vfPart s f).isSome then
      setVf s f fun v => { v with st := 1, tracking := true } else vfRefuse s f)

/-- STOP (R330): from now on posts are refused, launches stop and groups halt. -/
def execStop (f : Fin 16) (s : State) : Out :=
  .next (host s fun s => if (s.vfs[f]).st ≤ 1 then setVf s f fun v => { v with st := 2 } else vfRefuse s f)

/-- Every group of the partition has halted, its issued tasks are complete, its stores are in place. -/
def partQuiet (s : State) (p : Fin 8) : Bool :=
  (s.wgs.all fun w => w.ref.part != p || wgHalted s w.key) && s.engq.all (fun t => !inPart s p t.wg) &&
  s.walks.all fun k => !inPart s p k.wg

/-- STOP_COMPLETE (R330 steps 2 to 7, R334). -/
def execStopComplete (f : Fin 16) (s : State) : Out :=
  .next (if (s.vfs[f]).st = 2 then
    match vfPart s f with
    | none => setVf s f fun v => { v with st := 3 }
    | some p =>
      let s1 := drainPart s p
      if partQuiet s1 p then setVf s1 f fun v => { v with st := 3 } else s1
  else s)

/-- SNAP (R332): writes accepted before it have their bits in the bitmap left. -/
def execSnap (f : Fin 16) (s : State) : Out :=
  .next (host s fun s => if (s.vfs[f]).st = 1 then
      let s1 := match vfPart s f with
        | some p => drainPart s p
        | none => s
      setVf s1 f fun v => { v with cur := !v.cur, snapping := true, snapdone := false }
    else vfRefuse s f)

/-- SNAP_COMPLETE (R332): in whatever state the function is meanwhile. -/
def execSnapComplete (f : Fin 16) (s : State) : Out :=
  .next (if (s.vfs[f]).snapping then setVf s f fun v => { v with snapping := false, snapdone := true } else s)

/-! ### The stream (R333) -/

/-- The clusters of a mask, in order. -/
def clustersOf (m : Mask) : List Nat := (List.range 32).filter fun k => m.getLsbD k

/-- Cells of the partition's screed banks, from the first bank on. -/
def screedCells (s : State) (q : Partition) : List Host.Cell :=
  let a := screedFirst + q.bfirst.toNat * 0x40000
  (s.mem.filter fun x => decide (a ≤ x.1 ∧ x.1 < a + q.bcnt.toNat * 0x40000)).map fun x => (x.1 - a, x.2)

/-- The state of a stopped partition. -/
def makeImage (s : State) (f : Fin 16) (p : Fin 8) : VmImage :=
  let q := part s p
  let a := screedFirst + q.bfirst.toNat * 0x40000
  let key (w : Nat) : Bool := inPart s p w
  { key := s.fresh, stepping := s.cfg.stepping, version := Config.streamVersion, det := q.det, bcnt := q.bcnt.toNat, clusters := q.clmask,
    root := q.root.toNat, bank := a,
    pipes := s.pipes.filter fun x => x.part == p, groups := (allGroups s).filter fun g => key g.wg,
    wgs := s.wgs.filter fun w => w.ref.part == p, grids := s.grids.filter fun g => g.ref.part == p,
    relaunch := s.relaunch.filter fun w => w.ref.part == p,
    marks := (s.marks.filter fun m => decide (a ≤ m.1 ∧ m.1 < a + q.bcnt.toNat * 0x40000)),
    engq := s.readyQ.filter (fun t => key t.wg), held := s.held.filter fun h => decide (a ≤ h.pa ∧ h.pa < a + q.bcnt.toNat * 0x40000),
    sfq := s.sfq.filter fun e => key e.wg, mail := s.mbox[f.succ], screed := screedCells s q,
    creels := s.creels.filter (fun c => q.clmask.getLsbD (engCluster c.1).val),
    creelTen := s.creelTen.filter (fun c => q.clmask.getLsbD (engCluster c.1.1).val),
    nodes := s.nodes.filter fun n => n.parent != 0 && n.rcb != q.root.toNat && (chainOf s n.rcb).any fun x => x.rcb == q.root.toNat }

/-- A record of the stream: its length, its type, its contents, padded. DESIGN CHOICE (assumption 46): the length counts the header and the
contents, not the padding. -/
def streamRec (type : Nat) (body : List Byte) : List Byte :=
  let n := 8 + body.length
  leBytes 4 n ++ leBytes 2 type ++ [0, 0] ++ body ++ List.replicate ((16 - n % 16) % 16) 0

/-- A record whose contents are only for the device to read back: a function of what it carries. -/
def freeRec (type : Nat) (carried : List Byte) : List Byte := streamRec (Config.recordType type) (Config.recordBody type carried)

def cellBytes (m : List Host.Cell) : List Byte := m.flatMap fun x => leBytes 8 x.1 ++ [x.2]

def stampBytes (n : Nat) : List Byte := leBytes 8 n

/-- A resident pipeline: its RCBs, its images and the digest of its code. -/
def pipeBytes (p : Pipeline) : List Byte :=
  stampBytes p.rcb ++ stampBytes p.index ++ stampBytes p.sbase.toNat ++ stampBytes p.bbase.toNat ++ stampBytes p.ssize ++ stampBytes p.bsize ++
  p.stages.flatMap (fun st => stampBytes st.rcb) ++ p.digest

/-- The counters of an RCB. -/
def nodeBytes (n : Node) : List Byte :=
  stampBytes n.rcb ++ stampBytes (BitVec.ofInt 64 n.bal).toNat ++ stampBytes n.debt ++ stampBytes n.used ++ stampBytes n.launch.toNat

/-- A workgroup's local memory on both members, and its kicks. -/
def wgBytes (w : Workgroup) : List Byte :=
  stampBytes w.key ++ cellBytes w.mem ++ cellBytes w.memT ++ w.kicks.flatMap fun k => stampBytes k.key ++ k.recs.flatMap fun r => r.bytes

/-- A buffered store of a group. -/
def storeBytes (g : Group) : List Byte :=
  g.cbuf.flatMap fun e => match e.op with
    | .store l va _ bs _ _ => stampBytes l.val ++ stampBytes va.toNat ++ bs
    | .scrSt l va _ bs => stampBytes l.val ++ stampBytes va.toNat ++ bs
    | .push stage bs => stampBytes stage ++ bs

/-- A fault record of a core's queue. -/
def faultBytes (e : SfEnt) : List Byte := stampBytes e.core ++ stampBytes e.wg ++ [e.cause] ++ stampBytes e.va.toNat

/-- The first record: the stepping and the version. -/
def firstRec (stepping : Byte) (version : Nat) : List Byte := streamRec (Config.recordType 0) (stepping :: leBytes 4 version)

/-- The records of a state stream (R333): the stepping and the version; each halted group's save record and rows; the banks, the pipelines, the
counters, the mailboxes, the workgroups with their local memory and kicks, the creels, the buffered stores and the fault records. -/
def streamOf (im : VmImage) : List Byte :=
  firstRec im.stepping im.version ++
  im.groups.flatMap (fun g => streamRec (Config.recordType 1) (g.saveRecord (im.sfq.any fun e => e.wg == g.wg && e.gid == g.gid && e.role == g.role) ++ g.rows)) ++
  freeRec 2 (cellBytes im.screed) ++ im.pipes.flatMap (fun p => freeRec 3 (pipeBytes p)) ++ im.nodes.flatMap (fun n => freeRec 4 (nodeBytes n)) ++
  im.mail.toList.flatMap (fun m => freeRec 5 (m.held.getD [])) ++ im.wgs.flatMap (fun w => freeRec 6 (wgBytes w)) ++
  im.creels.flatMap (fun c => freeRec 7 (cellBytes c.2)) ++ im.groups.flatMap (fun g => freeRec 8 (storeBytes g)) ++
  im.sfq.flatMap fun e => freeRec 9 (faultBytes e)

/-- The bytes that the window offers of those that are left: some, at most the window's 64 KiB. -/
def chunkLen (left : Nat) : Nat := min left (1 + Config.chunkBytes left % 65536)

/-- WINLEN for what is left of a stream; bit 31 marks the last chunk. -/
def VfCtl.show (v : VfCtl) : VfCtl :=
  let n := v.stream.length
  { v with winlen := BitVec.ofNat 32 (chunkLen n + (if 0 < n ∧ chunkLen n = n then 2 ^ 31 else 0)) }

/-- SAVE. -/
def execSave (f : Fin 16) (s : State) : Out :=
  .next (host s fun s => match (s.vfs[f]).st, vfPart s f with
    | 3, some p =>
      let im := makeImage s f p
      setVf { tick s with streams := s.streams ++ [im] } f fun v => { v with stream := streamOf im }.show
    | _, _ => vfRefuse s f)

/-- The destination of a source's cluster: the k-th of one mask for the k-th of the other. -/
def mapCluster (src dst : Mask) (c : Nat) : Nat := ((clustersOf dst)[(clustersOf src).idxOf c]?).getD c

def mapCore (src dst : Mask) (core : Nat) : Nat := 8 * mapCluster src dst (clusterOf core) + core % 8

/-- Every checked pair of the source maps to a pair. -/
def pairsMap (im : VmImage) (dst : Mask) : Bool :=
  (im.wgs.filter fun w => im.groups.any fun g => g.wg == w.key && g.role == .trail).all fun w =>
    let c := clusterOf w.core
    mapCluster im.clusters dst c % 2 == 0 && mapCluster im.clusters dst (c + 1) == mapCluster im.clusters dst c + 1

/-- The code for which a stream is refused, or 0. -/
def loadCode (s : State) (p : Fin 8) (im : VmImage) : Nat :=
  let q := part s p
  if im.stepping != s.cfg.stepping || im.version != Config.streamVersion then 3
  else if im.det != q.det || im.bcnt != q.bcnt.toNat || (clustersOf im.clusters).length != (clustersOf q.clmask).length ||
      !pairsMap im q.clmask then 4
  else 0

/-- A reference, a workgroup, a group and an engine of the source, as they are named at the destination. -/
def mapRef (p : Fin 8) (r : StageRef) : StageRef := { r with part := p }

def mapHeld (im : VmImage) (p : Fin 8) (a off : Nat) (h : HeldReq) : HeldReq :=
  { h with wg := h.wg + off, ten := (p, h.ten.2), pa := h.pa - im.bank + a }

def mapMig (im : VmImage) (dst : Mask) (a : MigAttempt) : MigAttempt :=
  { a with st := match a.st with
    | .granted c => .granted (mapCore im.clusters dst c)
    | x => x }

def mapWg (im : VmImage) (p : Fin 8) (dst : Mask) (a off : Nat) (w : Workgroup) : Workgroup :=
  { w with key := w.key + off, ref := mapRef p w.ref, grid := w.grid + off, core := mapCore im.clusters dst w.core,
           ckptAt := w.ckptAt + off, kicks := w.kicks.map (fun k => { k with key := k.key + off }), mig := w.mig.map (mapMig im dst),
           snap := { w.snap with mig := w.snap.mig.map (mapMig im dst), held := w.snap.held.map (mapHeld im p a off) } }

def mapGroup (im : VmImage) (dst : Mask) (off now : Nat) (g : Group) : Group :=
  { g with wg := g.wg + off, core := mapCore im.clusters dst g.core, halted := true, heldSince := now,
           undo := g.undo.map fun u => { u with wg := u.wg + off, at_ := u.at_ + off } }

def mapEngine (im : VmImage) (dst : Mask) : EngineId → EngineId
  | .matrix c i => .matrix (Fin.ofNat 32 (mapCluster im.clusters dst c.val)) i
  | .copy c => .copy (Fin.ofNat 32 (mapCluster im.clusters dst c.val))

/-- A stream that has arrived whole becomes state of the destination, its screed that of the partition's banks; its groups are halted
until RUN. -/
def install (s : State) (f : Fin 16) (p : Fin 8) (im : VmImage) : State :=
  let q := part s p
  let off := s.fresh
  let a := screedFirst + q.bfirst.toNat * 0x40000
  let move (pa : Nat) : Nat := pa - im.bank + a
  let s0 := { s with mem := s.mem.filter fun x => !decide (a ≤ x.1 ∧ x.1 < a + q.bcnt.toNat * 0x40000) }
  let s1 := im.screed.foldl (fun s x => { s with mem := Memory.set s.mem (a + x.1) x.2 }) s0
  let s2 := im.creels.foldl (fun s c => setCreel s (mapEngine im q.clmask c.1) c.2)
    { s1 with creelTen := im.creelTen.map (fun u => ((mapEngine im q.clmask u.1.1, u.1.2), (p, u.2.2))) ++
        s1.creelTen.filter fun u => !q.clmask.getLsbD (engCluster u.1.1).val }
  let s3 := { s2 with mbox := s2.mbox.set f.succ im.mail }
  let s4 := (im.nodes.map fun n => if n.parent = im.root then { n with parent := q.root.toNat } else n).foldl addNode s3
  { s4 with
    fresh := off + im.key + 1,
    readyQ := s4.readyQ ++ im.engq.map (fun t => { t with eng := mapEngine im q.clmask t.eng, wg := t.wg + off, kick := t.kick + off,
                                                           since := s.now }),
    pipes := s4.pipes ++ im.pipes.map (fun x => { x with part := p }),
    wgs := s4.wgs ++ im.wgs.map (mapWg im p q.clmask a off),
    relaunch := s4.relaunch ++ im.relaunch.map (mapWg im p q.clmask a off),
    grids := s4.grids ++ im.grids.map (fun g => { g with key := g.key + off, ref := mapRef p g.ref }),
    others := s4.others ++ im.groups.map (mapGroup im q.clmask off s.now),
    marks := s4.marks ++ im.marks.map (fun m => (move m.1, m.2)),
    held := s4.held ++ im.held.map (mapHeld im p a off),
    sfq := s4.sfq ++ im.sfq.map fun e => { e with wg := e.wg + off, core := mapCore im.clusters q.clmask e.core } }

/-- LOAD: a running function with no resident pipeline accepts a stream; which one the bytes that the host supplies tell. -/
def execLoad (f : Fin 16) (_k : Nat) (s : State) : Out :=
  .next (host s fun s => match (s.vfs[f]).st, vfPart s f with
    | 0, some p =>
      if partHoldsPipe s p then vfRefuse s f
      else setVf s f fun v => { v with st := 4, stream := [], win := [], whole := false, winlen := 0 }
    | _, _ => vfRefuse s f)

/-- A list begins with another. -/
def startsWith (xs ys : List Byte) : Bool := xs.take ys.length == ys

/-- The bytes begin with the header of a first record, as far as they go. -/
def beginsFirst (bytes : List Byte) : Bool := startsWith ((firstRec 0 0).take 8) (bytes.take 8)

/-- A first record of another stepping or version: none while it has not arrived whole. -/
def otherMaker (s : State) (bytes : List Byte) : Bool :=
  beginsFirst bytes && decide (13 ≤ bytes.length) && !startsWith bytes ((firstRec s.cfg.stepping Config.streamVersion).take 13)

/-- Bytes of a stream have been supplied: one of another stepping or version is refused for it, another must be a stream that a device has written;
one that is whole is installed, or refused for what it does not match. -/
def supplied (s : State) (f : Fin 16) (bytes : List Byte) : State :=
  if otherMaker s bytes then vfFail s f 3
  else if beginsFirst bytes && decide (bytes.length < 13) then setVf s f fun v => { v with stream := bytes }
  else match s.streams.find? fun im => startsWith (streamOf im) bytes, vfPart s f with
    | some im, some p =>
      if bytes.length < (streamOf im).length then setVf s f fun v => { v with stream := bytes }
      else match loadCode s p im with
        | 0 => setVf (install s f p im) f fun v => { v with stream := bytes, whole := true }
        | c => vfFail s f c
    | _, _ => vfFail s f 2

/-- WINACK_WRITE: that many bytes of the window are consumed, or supplied (R331). -/
def execWinackWrite (f : Fin 16) (n : BitVec 32) (s : State) : Out :=
  .next (host s fun s =>
    let v := s.vfs[f]
    let k := min (n.toNat % 2 ^ 31) 65536
    if v.st = 3 then setVf s f fun v => { v with stream := v.stream.drop k }.show
    else if v.st = 4 ∧ v.whole = false then supplied s f (v.stream ++ Memory.read v.win 0 k)
    else s)

/-- Checked pairs of the partition's workgroups are formed again. -/
def formPairs (s : State) (p : Fin 8) : State :=
  (s.wgs.filter fun w => w.ref.part == p && ilOf s w == 2 && !w.finished).foldl (fun s w => formPair s (pairIx (clusterOf w.core))) s

/-- RUN (R329): the halted work resumes and tracking ends; a stream not yet whole is malformed. -/
def execRun (f : Fin 16) (s : State) : Out :=
  .next (host s fun s =>
    let v := s.vfs[f]
    let go (s : State) : State :=
      let s1 := setVf s f fun v => { v with st := 0, tracking := false, stream := [], win := [], whole := false, winlen := 0 }
      match vfPart s1 f with
      | some p => resumeWgs (formPairs s1 p) fun w => w.ref.part == p
      | none => s1
    if v.st = 3 then go s
    else if v.st = 4 then (if v.whole then go s else vfFail s f 2)
    else vfRefuse s f)

end Sys2Proof.Machine
end

