-- ==== Sys2Proof/Machine/Ssp.lean ====
section
/-! DEFINITION. The SSP and errors: decisions on mismatches, rollback, permanent failure, self-test and spares (R376, R379 to R386),
uncorrectable errors (R366). -/
namespace Sys2Proof.Machine

/-! ### Mismatches (R376, R380 to R382) -/

/-- COMPARE_TIMEOUT: the trailing member has not shown the leading one's oldest event (kind 6). -/
def execCompareTimeout (w : Nat) (g : Fin 16) (s : State) : Out :=
  .next (match groupAt s w g .lead, wgOf s w with
    | some l, some x => match l.cmp with
      | e :: _ =>
        if ilOf s x != 2 || (s.pairs[pairIx (clusterOf x.core)]).stopped then s
        else asGroup s w g .lead fun s => mismatch s 6 0 0 e.npc e.twin 0 0
      | [] => s
    | _, _ => s)

def setPair (s : State) (k : Fin 16) (f : Pair → Pair) : State := { s with pairs := s.pairs.set k (f s.pairs[k]) }

/-- Every checked workgroup of a pair rolls back to its checkpoint (R382 steps 1 and 2). -/
def rollbackPair (s : State) (k : Fin 16) : State := (checkedWgs s k).foldl rollbackWg s

/-- A rollback: index 49 of the mismatched workgroup goes up, the record is written (R380, R382). -/
def decideRollback (s : State) (k : Fin 16) (w : Workgroup) (m : Mismatch) : State :=
  let s1 := modWg (rollbackPair s k) w.key fun w => { w with rolls := w.rolls + 1 }
  setPair (mismatchRecord s1 w m 7 0) k fun p => { p with mis := some { m with action := 1 }, rolled := true }

/-- Where the next record of a domain will stand, or 0 when it will be lost (R351). -/
def nextRecord (s : State) (d : Fin 64) : Nat :=
  let x := s.domains[d]
  if x.en && decide ((x.head - x.tail).toNat < 2 ^ x.rlog) then x.rbase.toNat + 64 * (x.head.toNat % 2 ^ x.rlog) else 0

/-- A permanent mismatch (R383): the domain's work is discarded, the record written, the other checked work rolled back, and with
SPARE both clusters are suspended for their self-test. -/
def decidePermanent (s : State) (k : Fin 16) (w : Workgroup) (m : Mismatch) : State :=
  let d := stageDomain s w.ref
  let s1 := fatalDiscard s d
  let pa := nextRecord s1 d
  let s2 := rollbackPair (mismatchRecord s1 w m 6 0) k
  if s.policy.spare then
    let c : Fin 32 := ⟨2 * k.val, by omega⟩
    let c' : Fin 32 := ⟨2 * k.val + 1, by omega⟩
    setPair (suspend (suspend s2 c) c') k fun p =>
      { p with mis := some { m with action := 2 }, rolled := true, testing := true, testAt := s.now, recPa := pa }
  else setPair s2 k fun p => { p with mis := some { m with action := 2 }, rolled := true }

/-- SSP_DECISION (R381). -/
def execSspDecision (k : Fin 16) (s : State) : Out :=
  .next (match (s.pairs[k]).mis with
    | none => s
    | some m =>
      if m.action != 0 || !(s.pairs[k]).stopped then s
      else match wgOf s m.wg with
        | none => setPair (rollbackPair s k) k fun p => { p with rolled := true }
        | some w => if permanent s w m then decidePermanent s k w m else decideRollback s k w m)

/-- PAIR_RELEASE (R382 step 4). -/
def execPairRelease (k : Fin 16) (s : State) : Out :=
  .next (if (s.pairs[k]).stopped && (s.pairs[k]).rolled then
    dissolvePair (setPair s k fun p => { p with stopped := false, mis := none, rolled := false }) k
  else s)

/-! ### Spares (R384, R385) -/

/-- The lowest physical cluster neither faulty nor mapped. DESIGN CHOICE (assumption 65): R384 does not say which spare is taken. -/
def spareCluster (s : State) : Option Nat :=
  (List.range 34).find? fun x => !s.place.phfault.getLsbD x && s.place.cl.toList.all fun y => y.toNat != x

/-- IL1 workgroups of a cluster are aborted (R374). -/
def abortOn (s : State) (c : Fin 32) : State :=
  ((s.wgs.filter fun w => inCluster s w c && ilOf s w == 1).map (·.key)).foldl (fun s k => abortIl1 s k false) s

/-- The cores of a physical cluster go out of use: their owned words are written back, their copies are gone (R198). -/
def leaveCores (s : State) (c : Fin 32) : State := (List.finRange 6).foldl (fun s i => loseState s ⟨c, .core i⟩) s

/-- No spare is left: the cluster stays suspended and its work is lost (R385, R386). -/
def loseCluster (s : State) (c : Fin 32) : State :=
  let doms := ((s.wgs.filter fun w => inCluster s w c).map fun w => stageDomain s w.ref).eraseDups
  let s1 := leaveCores (doms.foldl fatalDiscard s) c
  putRecord s1 (rootDomain s1) { type := 11, cause := 0, inner := 1, fatal := !doms.isEmpty, clus := c.val }

/-- Retirement of a suspended logical cluster (R384). -/
def retireCluster (s0 : State) (c : Fin 32) : State :=
  let s := leaveCores (abortOn s0 c) c
  match (if s.policy.spares = 0 then none else spareCluster s) with
  | none => loseCluster s c
  | some x =>
    let p := s.place
    let old := (p.cl[c]).toNat
    let s1 := { s with place := { p with phfault := p.phfault ||| BitVec.ofNat 34 (2 ^ old), cl := p.cl.set c (BitVec.ofNat 6 x) },
                       policy := { s.policy with spares := s.policy.spares - 1 } }
    let s2 := { s1 with units := s1.units.set c ((s1.units[c]).map fun _ => ⟨.G0, s.now, false⟩) }
    let s3 := unsuspend s2 c
    putRecord s3 (rootDomain s3) { type := 11, cause := 0, clus := c.val }

/-- Both clusters passed: bit 31 of INNER in the record of type 6 (R383). -/
def bothPassed (s : State) (pa : Nat) : State :=
  if pa = 0 then s
  else devWrite s ⟨none, none⟩ (pa + 4) (leBytes 4 (leNat (devRead s (pa + 4) 4) % 2 ^ 31 + 2 ^ 31))

/-- SELF_TEST_COMPLETE (R383): 2.5 ms, which is 3,000,000 engine-clock cycles, after the clusters were suspended. -/
def execSelfTestComplete (k : Fin 16) (failLead failTrail : Bool) (s : State) : Out :=
  let c : Fin 32 := ⟨2 * k.val, by omega⟩
  let c' : Fin 32 := ⟨2 * k.val + 1, by omega⟩
  let p := s.pairs[k]
  .next (if p.testing && decide (p.testAt + 3000000 ≤ s.now) && clusterQuiet s c && clusterQuiet s c' then
    let s1 := setPair s k fun p => { p with testing := false, recPa := 0 }
    let s2 := if failLead then retireCluster s1 c else unsuspend s1 c
    let s3 := if failTrail then retireCluster s2 c' else unsuspend s2 c'
    if failLead || failTrail then s3 else bothPassed s3 p.recPa
  else s)

/-! ### Uncorrectable errors (R366) -/

/-- The domain of a partition's own RCB. -/
def partDomain (s : State) (p : Fin 8) : Fin 64 :=
  let b := readRcb s (part s p).root.toNat
  if rcbGood b 1 && rcbFdset b then Fin.ofNat 64 (rcbFdom b) else rootDomain s

/-- The partition that owns the place of an error: that of the bank, or that whose tenant an L2 line is charged to (R310). -/
def storageOwner (s : State) (pa : Nat) : Option (Fin 8) :=
  if inScreed pa then (List.finRange 8).find? fun p => (part s p).ownsBank (bankOf pa)
  else ((s.l2.find? fun l => l.line == lineOf pa).bind (·.tenant)).map (·.1)

/-- The domain of an error with no requester: the owning partition's, or the device root's. -/
def storageDomain (s : State) (pa : Nat) : Fin 64 :=
  match storageOwner s pa with
  | some p => partDomain s p
  | none => rootDomain s

/-- The home repairs a line: no L1 holds it, every word is H with no sharer, the home data as read. -/
def repairLine (s : State) (line : Nat) : State :=
  { s with l1 := s.l1.filter fun l => l.line != line, hed := s.hed.filter fun h => h.line != line }

/-- An error met by one member of a pair alone (kind 7). -/
def memberError (s : State) (w : Nat) (g : Fin 16) : State :=
  asGroup s w g .lead fun s => mismatch s 7 0 0 s.c.npc s.c.twin 0 0

/-- An error of a group by its stage's level: an IL1 workgroup is aborted; in a pair, one that a member meets alone is a mismatch, one that both
meet alike is a fault of both; else `k`. -/
def groupError (s : State) (w : Nat) (g : Fin 16) (both : Bool) (k : State → State) : State :=
  match wgOf s w with
  | none => s
  | some x =>
    if ilOf s x = 1 then abortIl1 s w false
    else if ilOf s x = 2 then
      (if (s.pairs[pairIx (clusterOf x.core)]).stopped then s
       else if both then asGroup (asGroup s w g .lead k) w g .trail k
       else memberError s w g)
    else k s

/-- The oldest result under way of the group at the issue stage carries the error to the SELV that names it. -/
def spoilResult (s : State) : State :=
  modG s fun x => { x with arr := match x.arr with
    | a :: rest => { a with bad := true } :: rest
    | [] => [] }

/-- A fatal error of a group, with its record (R386). -/
def fatalError (s : State) (w : Nat) (g : Fin 16) (r : Rec) : State :=
  match wgOf s w with
  | none => s
  | some x => fatalDiscard (groupRecord s w g { r with fatal := true }) (stageDomain s x.ref)

/-- An error in a lane's read: the instruction has completed, an after-instruction fault follows; the group resumes at the next one, its XP with it. -/
def laneReadError (s : State) : State :=
  let c := s.c
  if s.grp.wg = 0 || s.grp.ended then s
  else if s.grp.phase = .between then
    takeFault s { cause := 0x60, addr := 0, npc := c.lastNpc, twin := c.twin, mask := c.live, after := true, noRun := true } 0
  else
    takeFault s { cause := 0x60, addr := 0, npc := c.lastNpc, twin := c.twin, mask := c.actMask, after := true } c.npc

/-- An error in the code fetched: the group stops at the instruction. -/
def fetchError (s : State) : State :=
  if s.grp.phase = .inRun then faultAt s 4 0x60 s.c.actMask (s.c.run.pc.setWidth 64) else s

/-- UNCORRECTABLE_ECC (R366). -/
def execUncorrectableEcc (e : EccSite) (s : State) : Out :=
  .next (match e with
    | .storage pa => putRecord s (storageDomain s pa) { type := 13, cause := 0x60, addr := pa }
    | .heddleTag pa => putRecord (repairLine s (lineOf pa)) (storageDomain s pa) { type := 13, cause := 0x60, addr := pa }
    | .heddleRequest w g pa => fatalError (repairLine s (lineOf pa)) w g { type := 13, cause := 0x60, addr := pa / 128 * 128 }
    | .laneRead both => groupError s s.grp.wg s.grp.gid both laneReadError
    | .fetch both => groupError s s.grp.wg s.grp.gid both fetchError
    | .loadData w g both => match wgOf s w with
      | none => s
      | some x => if ilOf s x = 2 then groupError s w g both spoilResult else asGroup s w g .lead spoilResult
    | .stateBlock w g both => groupError s w g both fun s =>
        if s.grp.is w g .trail then s else fatalError s w g { type := 12, cause := 0x50, inner := 0x60 }
    | .commitBuffer w g => fatalError s w g { type := 13, cause := 0x60 })

end Sys2Proof.Machine
end

