-- ==== Sys2Proof/Machine/Registers.lean ====
section
/-! DEFINITION. BAR0: how a host write or read reaches the registers of each block (R299, R300, R302, R304, R305, R309, R321, R325,
R327, R331, R340, R345, R351). -/
namespace Sys2Proof.Machine

/-! ### Helpers -/

/-- Half of a 64-bit register is written. -/
def setHalf (x : DWord) (hi : Bool) (v : Nat) : DWord :=
  if hi then BitVec.ofNat 64 (v % 2 ^ 32 * 2 ^ 32 + x.toNat % 2 ^ 32) else BitVec.ofNat 64 (x.toNat / 2 ^ 32 * 2 ^ 32 + v % 2 ^ 32)

def halfOf (x : DWord) (hi : Bool) : Nat := if hi then x.toNat / 2 ^ 32 else x.toNat % 2 ^ 32

/-- A register's field keeps only some of its bits. -/
def keepBits (x : DWord) (hi lo : Nat) : DWord := BitVec.ofNat 64 (bits x.toNat hi lo * 2 ^ lo)

/-- The state that a meaning answers. -/
def after (o : Out) (s : State) : State :=
  match o with
  | .next t => t
  | _ => s

/-! ### Device block (R300) -/

/-- DEVROOT: written only while no partition is enabled; the root's node takes its place. -/
def writeDevroot (s : State) (hi : Bool) (v : Nat) : State :=
  if s.parts.toList.any (·.en) then s
  else
    let a := setHalf s.dev.devroot hi v
    { s with dev := { s.dev with devroot := a }, nodes := s.nodes.map fun n => if n.parent = 0 then { n with rcb := a.toNat } else n }

def readDevice (s : State) (off : Nat) : Nat :=
  match off with
  | 0x00 => ident
  | 0x04 => bit s.dev.secok * 2 ^ 16 + s.dev.code.toNat * 256 + s.dev.stage
  | 0x08 => halfOf s.dev.devroot false
  | 0x0C => halfOf s.dev.devroot true
  | 0x10 => s.dev.secerr.toNat
  | _ => 0

/-! ### Tenant blocks (R305, R307) -/

/-- CTXCMD: its code chooses the command (R307). -/
def contextCommand (s : State) (p : Fin 8) (t : Fin 9) (code : Nat) (sec : Bool) : State :=
  match code with
  | 1 => after (execReside p t sec s) s
  | 2 => after (execRelease p t sec s) s
  | 3 => after (execPreempt p t sec s) s
  | 4 => after (execContextReset p t sec s) s
  | 5 => after (execResume p t sec s) s
  | n => after (execCtxcmdInvalid p t (BitVec.ofNat 32 n) sec s) s

def writeTenant (s : State) (p : Fin 8) (t : Fin 9) (off v : Nat) (sec : Bool) : State :=
  match off with
  | 0x00 => writeTenantEn s p t (bitAt v 0)
  | 0x04 => writeShares s p t fun x => { x with tclmask := BitVec.ofNat 32 v }
  | 0x08 => writeShares s p t fun x => { x with tways := BitVec.ofNat 16 v }
  | 0x0C => setTenant s p t fun x => { x with occlim := BitVec.ofNat 20 v }
  | 0x18 => writeShares s p t fun x => { x with ttbr := keepBits (setHalf x.ttbr false v) 43 13 }
  | 0x1C => writeShares s p t fun x => { x with ttbr := keepBits (setHalf x.ttbr true v) 43 13 }
  | 0x20 => contextCommand s p t v sec
  | 0x24 => setTenant s p t fun x => { x with ctxdl := min v 1000000 }
  | 0x28 => setTenant s p t fun x => { x with ctxarg := setHalf x.ctxarg false v }
  | 0x2C => setTenant s p t fun x => { x with ctxarg := setHalf x.ctxarg true v }
  | 0x30 => setTenant s p t fun x => { x with lost := x.lost && !bitAt v 3 }
  | 0x38 => setTenant s p t fun x => { x with hostbase := setHalf x.hostbase false v }
  | 0x3C => setTenant s p t fun x => { x with hostbase := setHalf x.hostbase true v }
  | 0x40 => setTenant s p t fun x => { x with apbase := setHalf x.apbase false v }
  | 0x44 => setTenant s p t fun x => { x with apbase := setHalf x.apbase true v }
  | _ => s

def readTenant (s : State) (p : Fin 8) (t : Fin 9) (off : Nat) : Nat :=
  let x := tenant s p t
  match off with
  | 0x00 => bit x.en
  | 0x04 => x.tclmask.toNat
  | 0x08 => x.tways.toNat
  | 0x0C => x.occlim.toNat
  | 0x10 => if x.en then occOf s (p, t) else 0
  | 0x14 => x.hitx.toNat
  | 0x18 => halfOf x.ttbr false
  | 0x1C => halfOf x.ttbr true
  | 0x24 => x.ctxdl
  | 0x28 => halfOf x.ctxarg false
  | 0x2C => halfOf x.ctxarg true
  | 0x30 => x.reason.toNat * 256 + bit x.lost * 8 + x.ctxstat
  | 0x38 => halfOf x.hostbase false
  | 0x3C => halfOf x.hostbase true
  | 0x40 => halfOf x.apbase false
  | 0x44 => halfOf x.apbase true
  | _ => 0

/-! ### Partition blocks (R304) -/

def writePartReg (s : State) (p : Fin 8) (off v : Nat) : State :=
  match off with
  | 0x000 => writePart s p (BitVec.ofNat 5 (bits v 8 4)) (bitAt v 2) (bitAt v 1) (bitAt v 0)
  | 0x004 => writeUnits s p fun q => { q with clmask := BitVec.ofNat 32 v }
  | 0x008 => writeUnits s p fun q => { q with bcnt := BitVec.ofNat 10 (bits v 25 16), bfirst := BitVec.ofNat 10 (bits v 9 0) }
  | 0x00C => setPart s p fun q => { q with ways := BitVec.ofNat 16 v }
  | 0x010 => setPart s p fun q => { q with bw := BitVec.ofNat 8 v }
  | 0x018 => writeUnits s p fun q => { q with root := setHalf q.root false v }
  | 0x01C => writeUnits s p fun q => { q with root := setHalf q.root true v }
  | 0x020 => setPart s p fun q => { q with cfgerr := q.cfgerr && !bitAt v 1 }
  | _ => s

/-- A partition block: the secure rule first (R302), then the partition's own registers or a tenant's. -/
def writePartBlock (s : State) (p : Fin 8) (off v : Nat) (sec : Bool) : State :=
  if !sec && ((part s p).world || (off == 0 && bitAt v 2)) then countSecErr s
  else if h : 0x100 ≤ off ∧ off < 0xA00 then writeTenant s p ⟨off / 0x100 - 1, by omega⟩ (off % 0x100) v sec
  else writePartReg s p off v

def readPartReg (q : Partition) (off : Nat) : Nat :=
  match off with
  | 0x000 => q.func.toNat * 16 + bit q.world * 4 + bit q.det * 2 + bit q.en
  | 0x004 => q.clmask.toNat
  | 0x008 => q.bcnt.toNat * 65536 + q.bfirst.toNat
  | 0x00C => q.ways.toNat
  | 0x010 => q.bw.toNat
  | 0x018 => halfOf q.root false
  | 0x01C => halfOf q.root true
  | 0x020 => q.errc.toNat * 256 + bit q.cfgerr * 2 + bit q.run
  | _ => 0

/-- A read of a secure partition's registers from outside the stream returns zero (R302). -/
def readPartBlock (s : State) (p : Fin 8) (off : Nat) (sec : Bool) : Nat :=
  if !sec && (part s p).world then 0
  else if h : 0x100 ≤ off ∧ off < 0xA00 then readTenant s p ⟨off / 0x100 - 1, by omega⟩ (off % 0x100)
  else readPartReg (part s p) off

/-! ### Place tables, SSP policy and rings (R309, R351) -/

/-- Every bit of CLSUSP that a write changes. -/
def writeClsusp (s : State) (v : Nat) : State :=
  (List.finRange 32).foldl (fun s c =>
    if bitAt v c.val && !s.place.susp.getLsbD c.val then suspend s c
    else if !bitAt v c.val && s.place.susp.getLsbD c.val then unsuspend s c
    else s) s

def writePlace (s : State) (off v : Nat) : State :=
  let w := BitVec.ofNat 32 v
  if off < 0x80 then after (execPlaceTableWrite .cluster (off / 4) w s) s
  else if 0x100 ≤ off ∧ off < 0x200 then after (execPlaceTableWrite .slice ((off - 0x100) / 4) w s) s
  else if 0x400 ≤ off ∧ off < 0xC00 then after (execPlaceTableWrite .bank ((off - 0x400) / 4) w s) s
  else if off = 0x1000 then writeClsusp s v
  else if off = 0x1018 then { s with place := { s.place with plerr := s.place.plerr &&& ~~~BitVec.ofNat 8 v } }
  else s

def readPlace (s : State) (off : Nat) : Nat :=
  let p := s.place
  if off < 0x80 then ((p.cl[off / 4]?).map (·.toNat)).getD 0
  else if 0x100 ≤ off ∧ off < 0x200 then ((p.sl[(off - 0x100) / 4]?).map (·.toNat)).getD 0
  else if 0x400 ≤ off ∧ off < 0xC00 then ((p.sb[(off - 0x400) / 4]?).map (·.toNat)).getD 0
  else if off = 0x1000 then p.susp.toNat
  else if off = 0x1004 then p.suspd.toNat
  else if off = 0x1010 then p.phfault.toNat % 2 ^ 32
  else if off = 0x1014 then p.phfault.toNat / 2 ^ 32
  else if off = 0x1018 then p.plerr.toNat
  else 0

/-- The domain and register of an offset in the SSP block. -/
def writeSsp (s : State) (off v : Nat) (sec : Bool) : State :=
  if off = 0 then { s with policy := { s.policy with spare := bitAt v 7, il1re := bitAt v 6, il1lim := bits v 5 4, retry := bits v 1 0 } }
  else if h : 0x100 ≤ off ∧ off < 0x900 then
    let d : Fin 64 := ⟨(off - 0x100) / 32, by omega⟩
    domWrite s d sec fun s => match (off - 0x100) % 32 with
      | 0x00 => setDomain s d fun x => if x.en then x else { x with rbase := keepBits (setHalf x.rbase false v) 43 12 }
      | 0x04 => setDomain s d fun x => if x.en then x else { x with rbase := keepBits (setHalf x.rbase true v) 43 12 }
      | 0x08 => writeRing s d v
      | 0x10 => setDomain s d fun x => { x with tail := BitVec.ofNat 32 v }
      | _ => s
  else s

def readSsp (s : State) (off : Nat) (sec : Bool) : Nat :=
  let y := s.policy
  if off = 0 then bit y.spare * 128 + bit y.il1re * 64 + y.il1lim * 16 + y.retry
  else if off = 4 then y.spares
  else if off = 8 then y.cecnt.toNat
  else if h : 0x100 ≤ off ∧ off < 0x900 then
    let d : Fin 64 := ⟨(off - 0x100) / 32, by omega⟩
    let x := s.domains[d]
    if domainSecure s d && !sec then 0
    else match (off - 0x100) % 32 with
      | 0x00 => halfOf x.rbase false
      | 0x04 => halfOf x.rbase true
      | 0x08 => bit x.en * 2 ^ 31 + x.func.toNat * 2 ^ 16 + x.vec.toNat * 256 + x.rlog
      | 0x0C => x.head.toNat
      | 0x10 => x.tail.toNat
      | 0x14 => x.lost.toNat
      | _ => 0
  else 0

/-! ### Invalidation, bindings, virtual functions (R321, R327, R331) -/

def writeInv (s : State) (off v : Nat) : State :=
  if s.inv.go then s
  else match off with
    | 0x00 => { s with inv := { s.inv with tiva := setHalf s.inv.tiva false (v / 4096 * 4096) } }
    | 0x04 => { s with inv := { s.inv with tiva := setHalf s.inv.tiva true v } }
    | 0x08 => { s with inv := { s.inv with tipages := BitVec.ofNat 32 v } }
    | 0x0C =>
      let tn := BitVec.ofNat 8 (bits v 11 4)
      let kind := BitVec.ofNat 3 v
      if bitAt v 31 then startInv s tn kind else { s with inv := { s.inv with tenant := tn, kind := kind } }
    | _ => s

def readInv (s : State) (off : Nat) : Nat :=
  match off with
  | 0x00 => halfOf s.inv.tiva false
  | 0x04 => halfOf s.inv.tiva true
  | 0x08 => s.inv.tipages.toNat
  | 0x0C => bit s.inv.go * 2 ^ 31 + s.inv.tenant.toNat * 16 + s.inv.kind.toNat
  | _ => 0

def writeBind (s : State) (n : Fin 256) (off v : Nat) : State :=
  let b := s.binds[n]
  match off with
  | 0x0 => writeBinding s n (bitAt v 31) (bitAt v 30) (BitVec.ofNat 5 (bits v 28 24)) (BitVec.ofNat 4 (bits v 19 16)) (BitVec.ofNat 3 v)
  | 0x8 => if b.en then s else setBinding s n { b with stage := setHalf b.stage false v }
  | 0xC => if b.en then s else setBinding s n { b with stage := setHalf b.stage true v }
  | _ => s

def readBind (s : State) (n : Fin 256) (off : Nat) : Nat :=
  let b := s.binds[n]
  match off with
  | 0x0 => bit b.en * 2 ^ 31 + bit b.world * 2 ^ 30 + b.func.toNat * 2 ^ 24 + b.slot.toNat * 2 ^ 16 + b.vec.toNat
  | 0x8 => halfOf b.stage false
  | 0xC => halfOf b.stage true
  | _ => 0

/-- VMCMD (R329). -/
def vmCommand (s : State) (f : Fin 16) (code : Nat) : State :=
  match code with
  | 1 => after (execPrecopy f s) s
  | 2 => after (execStop f s) s
  | 3 => after (execSnap f s) s
  | 4 => after (execRun f s) s
  | 5 => after (execLoad f 0 s) s
  | 6 => after (execSave f s) s
  | _ => vfRefuse s f

def writeVf (s : State) (f : Fin 16) (off v : Nat) : State :=
  match off with
  | 0x00 => vmCommand s f v
  | 0x04 => setVf s f fun x => { x with err := x.err && !bitAt v 9 }
  | 0x08 => setVf s f fun x => { x with dirtybase := keepBits (setHalf x.dirtybase false v) 63 22 }
  | 0x0C => setVf s f fun x => { x with dirtybase := setHalf x.dirtybase true v }
  | 0x14 => after (execWinackWrite f (BitVec.ofNat 32 v) s) s
  | _ => s

/-- The migration data window of a VF (R299, R333): the stream's next bytes while it is read out, what the host wrote while one is supplied. -/
def readWindow (s : State) (f : Fin 16) (o : Nat) : Nat :=
  let x := s.vfs[f]
  leNat ((List.range 4).map fun i =>
    if x.st = 3 then (if o + i < x.winlen.toNat % 2 ^ 31 then (x.stream[o + i]?).getD 0 else 0) else Memory.get x.win (o + i))

def writeWindow (s : State) (f : Fin 16) (o v : Nat) : State :=
  if (s.vfs[f]).st = 4 then setVf s f fun x => { x with win := Memory.write x.win o (leBytes 4 v) } else s

def readVf (s : State) (f : Fin 16) (off : Nat) : Nat :=
  let x := s.vfs[f]
  match off with
  | 0x04 => x.ecode * 2 ^ 12 + bit x.err * 2 ^ 9 + bit x.snapdone * 256 + bit x.cur * 128 + x.st
  | 0x08 => halfOf x.dirtybase false
  | 0x0C => halfOf x.dirtybase true
  | 0x10 => x.winlen.toNat
  | _ => 0

/-! ### Attestation and mailboxes (R325, R345) -/

def writeAttest (s : State) (f : Fin 17) (off v : Nat) : State :=
  let a := s.attest[f]
  if off < 0x20 then
    { s with attest := s.attest.set f { a with nonce := Vector.ofFn fun i =>
        if off ≤ i.val ∧ i.val < off + 4 then BitVec.ofNat 8 (v / 256 ^ (i.val - off)) else a.nonce[i] } }
  else if off = 0x20 then
    (if v = 1 then after (execAttestDevice f s) s else if v = 2 then after (execAttestTenant f s) s else s)
  else if off = 0x28 && f.val == 0 then { s with attest := s.attest.set f { a with aten := BitVec.ofNat 8 v } }
  else s

def readAttest (s : State) (f : Fin 17) (off : Nat) : Nat :=
  let a := s.attest[f]
  if off < 0x20 then bytesAt a.nonce.toList off 4
  else if off = 0x24 then bit a.busy * 2 ^ 31 + a.alen.toNat
  else if off = 0x28 then
    atenOf s f
  else if 0x1000 ≤ off ∧ off < 0x2000 then bytesAt a.report (off - 0x1000) 4
  else 0

def writeSlot (s : State) (f : Fin 17) (k : Fin 16) (off v : Nat) : State :=
  if off = 0x40 then setSlot s f k fun m => { m with drop := m.drop && !bitAt v 3, refused := m.refused && !bitAt v 1 }
  else if off = 0x44 then setSlot s f k fun m => { m with irqen := bitAt v 0 }
  else s

def readSlot (s : State) (f : Fin 17) (k : Fin 16) (off : Nat) : Nat :=
  let m := slotOf s f k
  if off = 0x40 then
    m.posted.toNat * 65536 + bit m.drop * 8 + bit (bindingOf s f k).isNone * 4 + bit m.refused * 2 + bit m.held.isSome
  else if off = 0x44 then bit m.irqen
  else 0

/-! ### The blocks (R299) -/

/-- The mailbox slot and offset that an access of a function falls in, if any. -/
def mailboxAt (f : Fin 17) (off : Nat) : Option (Fin 16 × Nat) :=
  let base := if f.val = 0 then 0x090000 else 0
  if h : base ≤ off ∧ off < base + 0x1000 then some (⟨(off - base) / 0x100, by omega⟩, (off - base) % 0x100) else none

/-- The offset within the attestation block, if an access falls there. -/
def attestAt (f : Fin 17) (off : Nat) : Option Nat :=
  let base := if f.val = 0 then 0x080000 else 0xE000
  if base ≤ off ∧ off < base + 0x2000 then some (off - base) else none

/-- The offset within a function's MSI-X table, if an access falls there (R299, R322). -/
def msixAt (f : Fin 17) (off : Nat) : Option Nat :=
  let base := if f.val = 0 then 0x0A0000 else 0x8000
  let n := if f.val = 0 then 64 else 8
  if base ≤ off ∧ off < base + 16 * n then some ((off - base) / 4) else none

/-- A word of an MSI-X table: a vector's message address, data and mask. PRESUMED (assumption 48): the entry of 16 bytes is that of PCI Express,
whose mask bits are set at reset and are the only bits of their word. -/
def readMsix (s : State) (f : Fin 17) (k : Nat) : Nat := (((s.msix[f]).find? fun x => x.1 == k).map (·.2.toNat)).getD (if k % 4 = 3 then 1 else 0)

def writeMsix (s : State) (f : Fin 17) (k v : Nat) : State :=
  let w : Word := BitVec.ofNat 32 (if k % 4 = 3 then v % 2 else if k % 4 = 0 then v / 4 * 4 else v)
  let rest := (s.msix[f]).filter fun x => x.1 != k
  { s with msix := s.msix.set f (if w.toNat = (if k % 4 = 3 then 1 else 0) then rest else
      (rest.filter fun x => decide (x.1 < k)) ++ (k, w) :: rest.filter fun x => decide (k < x.1)) }

/-- A 4-byte write of the physical function to one of its blocks. -/
def writePf (s : State) (off v : Nat) (sec : Bool) : State :=
  let o := off % 0x10000
  match off / 0x10000 with
  | 0 => if o = 0x08 then writeDevroot s false v else if o = 0x0C then writeDevroot s true v else s
  | 1 => if h : o / 0x1000 < 8 then writePartBlock s ⟨o / 0x1000, h⟩ (o % 0x1000) v sec else s
  | 2 => writePlace s o v
  | 3 => writeSsp s o v sec
  | 4 => writeInv s o v
  | 5 => if h : o / 16 < 256 then writeBind s ⟨o / 16, h⟩ (o % 16) v else s
  | 6 => if h : o / 0x100 < 16 then writeVf s ⟨o / 0x100, h⟩ (o % 0x100) v else s
  | 7 => if h : o / 64 < 16 then after (execQryMaskWrite ⟨o / 64, h⟩ (Fin.ofNat 16 (o % 64 / 4)) (BitVec.ofNat 32 v) s) s else s
  | b => if h : 0x10 ≤ b ∧ b < 0x20 then writeWindow s ⟨b - 0x10, by omega⟩ o v else s

/-- A 4-byte write of any function. -/
def writeReg (s : State) (f : Fin 17) (off v : Nat) (sec : Bool) : State :=
  if s.dev.stage = 2 then (if f.val = 0 && decide (off < 0x10000) then writePf s off v sec else s)
  else host s fun s => match mailboxAt f off, attestAt f off, msixAt f off with
    | some (k, o), _, _ => writeSlot s f k o v
    | none, some o, _ => writeAttest s f o v
    | none, none, some k => writeMsix s f k v
    | none, none, none => if f.val = 0 then writePf s off v sec else s

/-- Bytes of a value, the least significant first. -/
def valueBytes (q : HostWrite) : List Byte := leBytes q.size q.val.toNat

/-- A 4-byte write that the secure rule refuses: to a secure partition's registers or a WORLD bit, or to a secure domain's ring (R302, R351). -/
def secRefused (s : State) (f : Fin 17) (off v : Nat) (sec : Bool) : Bool :=
  let o := off % 0x10000
  f.val == 0 && s.dev.stage != 2 && !sec &&
    (if off / 0x10000 = 1 then
      (if h : o / 0x1000 < 8 then (part s ⟨o / 0x1000, h⟩).world || (o % 0x1000 == 0 && bitAt v 2) else false)
    else if off / 0x10000 = 3 then
      (if h : 0x100 ≤ o ∧ o < 0x900 then domainSecure s ⟨(o - 0x100) / 32, by omega⟩ else false)
    else false)

/-- The words of a write in increasing order; one of 8 bytes that the secure rule refuses in either word is dropped whole and counted once (R302). -/
def writeWords (s : State) (q : HostWrite) : State :=
  let lo := q.val.toNat % 2 ^ 32
  let hi := q.val.toNat / 2 ^ 32
  if q.size ≠ 8 then writeReg s q.func q.off lo q.secure
  else if secRefused s q.func q.off lo q.secure || secRefused s q.func (q.off + 4) hi q.secure then host s countSecErr
  else writeReg (writeReg s q.func q.off lo q.secure) q.func (q.off + 4) hi q.secure

/-- REGISTER_WRITE (R299): naturally aligned accesses of 4 or 8 bytes; any other is answered with Unsupported Request. A message
area takes the write whole; elsewhere its words are written in increasing order. -/
def execRegisterWrite (q : HostWrite) (s : State) : Out :=
  .next (if !funcOn s q.func || !(q.size == 4 || q.size == 8) || q.off % q.size != 0 then answer s (.unsupported q.func.val)
    else match mailboxAt q.func q.off with
      | some (k, o) =>
        if h : o < 64 then after (execMbdataWrite q.func k ⟨o, h⟩ (valueBytes q) s) s else writeWords s q
      | none => writeWords s q)

/-- A 4-byte read of the physical function. -/
def readPf (s : State) (off : Nat) (sec : Bool) : Nat :=
  let o := off % 0x10000
  match off / 0x10000 with
  | 0 => readDevice s o
  | 1 => if h : o / 0x1000 < 8 then readPartBlock s ⟨o / 0x1000, h⟩ (o % 0x1000) sec else 0
  | 2 => readPlace s o
  | 3 => readSsp s o sec
  | 4 => readInv s o
  | 5 => if h : o / 16 < 256 then readBind s ⟨o / 16, h⟩ (o % 16) else 0
  | 6 => if h : o / 0x100 < 16 then readVf s ⟨o / 0x100, h⟩ (o % 0x100) else 0
  | 7 => if h : o / 64 < 16 then ((s.qmask[o / 64])[Fin.ofNat 16 (o % 64 / 4)]).toNat else 0
  | b =>
    if h : 0x10 ≤ b ∧ b < 0x20 then readWindow s ⟨b - 0x10, by omega⟩ o
    else if 0x80 ≤ b && sec then
      Config.secureMirror (s.cfg.regions.map fun r => (r.base, r.limit, r.en)) s.cfg.wgworld (off - 0x800000) % 2 ^ 32
    else 0

def readReg (s : State) (f : Fin 17) (off : Nat) (sec : Bool) : Nat :=
  if s.dev.stage = 2 then (if f.val = 0 && decide (off < 0x10000) then readPf s off sec else 0)
  else match mailboxAt f off, attestAt f off, msixAt f off with
    | some (k, o), _, _ => readSlot s f k o
    | none, some o, _ => readAttest s f o
    | none, none, some k => readMsix s f k
    | none, none, none => if f.val = 0 then readPf s off sec else 0

/-- A host read of BAR0 (R299). -/
def hostRead (s : State) (q : HostRead) : State :=
  if !funcOn s q.func || !(q.size == 4 || q.size == 8) || q.off % q.size != 0 then answer s (.unsupported q.func.val)
  else answer s (.data q.func.val (leBytes 4 (readReg s q.func q.off q.secure) ++
    if q.size = 8 then leBytes 4 (readReg s q.func (q.off + 4) q.secure) else []))

end Sys2Proof.Machine
end

