-- ==== Sys2Proof/Machine/Scale.lean ====
section
/-! DEFINITION. Scale-and-accumulate: SCACC (R169). -/
namespace Sys2Proof.Machine

/-- scale2 of two E8M0 bytes: their product, NaN when either byte is 0xFF (R77, R169). -/
def scale2 (x : Nat) : FVal := (e8m0 (x % 256)).mul (e8m0 (x / 256 % 256))

/-- A scaled factor, read as f32 or as a signed integer (R169). -/
def scFactor (int : Bool) (m : Mods) (x : Word) : FVal := if int then ofInt x.toInt else in32 m x

/-- q + a * scale2(b), rounded once (R169). -/
def scaccWord (int : Bool) (m : Mods) (x y q : Word) : Word :=
  out32 m (sumVals m.rm [in32 m q, (scFactor int m x).mul (scale2 y.toNat)])

/-- d + a * scale2(b[15:0]) + c * scale2(b[31:16]), rounded once (R169). -/
def scacc2Word (int : Bool) (m : Mods) (x y z q : Word) : Word :=
  out32 m (sumVals m.rm [in32 m q, (scFactor int m x).mul (scale2 y.toNat), (scFactor int m z).mul (scale2 (y.toNat / 65536))])

def scmulWord (m : Mods) (x y : Word) : Word := out32 m ((in32 m x).mul (scale2 y.toNat))

/-- The forms that read A, B, C and D: C is required and N must be clear (R169). -/
def insDC (ill : Bool) (f : Mods → Word → Word → Word → Word → Word) (b a : BitVec 7) (n : Bool) (d : BitVec 7) (s : State) : Out :=
  let x := s.c.xp
  .next (laneIns 4 (ill || n || x.c == 127 || !modsLegal x.e fpAll) false [a.toNat, b.toNat, x.c, d.toNat] n d.toNat
    (fun c l => f (modsOf x.e) (c.rd a.toNat l) (c.rd b.toNat l) (c.rd x.c l) (c.rd d.toNat l)) s)

def execScacc (b a : BitVec 7) (n : Bool) (d : BitVec 7) (s : State) : Out := insQ fpAll (scaccWord false) b a n d s
def execScacc2 (b a : BitVec 7) (n : Bool) (d : BitVec 7) (s : State) : Out := insDC false (scacc2Word false) b a n d s
def execScmul (b a : BitVec 7) (n : Bool) (d : BitVec 7) (s : State) : Out := ins3 fpAll scmulWord b a n d s
def execScaci (b a : BitVec 7) (n : Bool) (d : BitVec 7) (s : State) : Out := insQ fpAll (scaccWord true) b a n d s

/-- scaci2 is experimental: stepping A1 only, and withheld when its feature is masked (R53, R337). -/
def execScaci2 (b a : BitVec 7) (n : Bool) (d : BitVec 7) (s : State) : Out :=
  insDC (!feature s 0) (scacc2Word true) b a n d s

end Sys2Proof.Machine
end

