-- ==== Sys2Proof/Machine/Screed.lean ====
section
/-! DEFINITION. Screed bank operations: SCR (R225, R226). -/
namespace Sys2Proof.Machine

/-- A read-modify-write at the banks. -/
def scrAct (op : Amo) (o scp : Nat) (vec wide : Bool) (lanes : List Lane) (ea : Lane → DWord) (x cmp : Lane → Nat) (d : Nat)
    (s : State) : State :=
  let regs := if wide then 2 else 1
  let addr := ea (lanes.headD 0)
  if trailing s then orForward s fun s f => finishLoad s vec false d regs lanes f addr
  else
    let (s1, rs) := probeAll s .scrRmw ea lanes
    let (s2, vs) := rmwLanes true op wide 1 ea x cmp (oks rs) s1
    let s3 := if (oks rs).isEmpty then s2 else noteAtomic s2
    let s4 := if ordAcquires o then acquire s3 scp else s3
    let f := LaneOut.item ⟨vs, (fails rs).map fun x => (x.1, x.2, ea x.1)⟩ s.c vec
    finishLoad (forward s4 f) vec false d regs lanes f addr

/-- An scr read-modify-write (R225, R226). A release orders no access of the lane path (R200). -/
def scrIns (op : Amo) (o scp : BitVec 2) (a d : BitVec 7) (s : State) : Out :=
  let c := s.c
  let cas := op == .cas
  let wide := c.wideFA
  let regs := if wide then 2 else 1
  let cc := c.xp.c
  let vec := kindVec c false d.toNat (if cas then [a.toNat, d.toNat, cc] else [a.toNat, d.toNat])
  let lanes := actLanes c vec
  let ea := globalEa c a.toNat c.offFA
  let off := misaligned lanes ea (if wide then 8 else 4)
  let x := opnd c d.toNat wide
  let cmp := fun l => if cas then opnd c cc wide l else 0
  let act := scrAct op o.toNat scp.toNat vec wide lanes ea x cmp d.toNat
  .next (issue s { ill := (cas != (cc != 127)) || (wide && op.float) || (vec && isS d.toNat),
                   srcs := (d.toNat, regs) :: (a.toNat, 2) :: (if cas then [(cc, regs)] else []), dsts := [(d.toNat, regs)],
                   vec := vec }
    (ifGoes s vec <| if !off.isEmpty then wholeFault s vec 0x10 off ea
     else if curIl s = 2 then
      commitPoint s (some (mkEvent s 1 (cmpItems lanes ea (fun l => x l + cmp l * 2 ^ 64) (if wide then 8 else 4) 0 scp.toNat)))
        true act
     else act s))

/-- scr ld: the w bits at ea; an acquire when ORD is 1 (R226). -/
def execScrLd (o scp : BitVec 2) (a d : BitVec 7) (s : State) : Out :=
  let c := s.c
  let wide := c.wideFA
  let regs := if wide then 2 else 1
  let vec := kindVec c false d.toNat [a.toNat]
  let lanes := actLanes c vec
  let ea := globalEa c a.toNat c.offFA
  let size := if wide then 8 else 4
  let off := misaligned lanes ea size
  let addr := ea (lanes.headD 0)
  .next (issue s { ill := c.xp.c != 127 || (vec && isS d.toNat), srcs := [(a.toNat, 2)], dsts := [(d.toNat, regs)], vec := vec }
    (ifGoes s vec <| if !off.isEmpty then wholeFault s vec 0x10 off ea
     else if trailing s then orForward s fun s f => finishLoad s vec false d.toNat regs lanes f addr
     else
      let (s1, rs) := probeAll (if ordAcquires o.toNat then acquire s scp.toNat else s) .scrLoad ea lanes
      let (s2, vs) := if c.isVec a.toNat then loadLanes s1 1 size (oks rs) else loadOnce s1 1 size (oks rs)
      let f := LaneOut.item ⟨vs, (fails rs).map fun x => (x.1, x.2, ea x.1)⟩ c vec
      finishLoad (forward s2 f) vec false d.toNat regs lanes f addr))

/-- A translated screed store of a lane leaves for its buffer or its bank (R202, R206, R207); at the commit point of a release it is performed. -/
def scrStoreOut (released : Bool) (s : State) (l : Lane) (va : DWord) (pa : Nat) (bs : List Byte) (mask : Mask) : State :=
  match curWg s with
  | none => s
  | some w =>
    if ilOf s w != 0 && !released then bufferStore s (.scrSt l va pa bs) mask
    else if (part s w.ref.part).det then addDet s w.key s.grp.gid (.write va pa bs) bs.length
    else { s with mem := Memory.write s.mem pa bs }

/-- The lanes of an scr st: precise faults, the others stored in lane order; of a trailing member those whose leading lanes did not fault. -/
def scrStAct (released one vec : Bool) (lanes : List Lane) (ea : Lane → DWord) (data : Lane → List Byte) (s : State) : State :=
  let mask := laneMask lanes
  if trailing s then
    orForward s fun s f =>
      let s1 := if released then s else (lanes.filter fun l => standFor s.c vec [l] &&& f.fmask == 0).foldl
        (fun s l => bufferStore s (.scrSt l (ea l) 0 (data l)) mask) s
      if f.fmask = 0 then retire s1 4 .empty else laneFault s1 f.cause f.fmask f.addr
  else
    let (s1, rs) := probeAll s .scrStore ea lanes
    if overflows s1 (oks rs).length then abortIl1 s1 s1.grp.wg true
    else
      let s2 := (accessing (one && (curIl s == 0 || released)) (oks rs)).foldl (fun s x => scrStoreOut released s x.1 (ea x.1) x.2 (data x.1) mask) s1
      let bad := (fails rs).map fun x => (x.1, x.2, ea x.1)
      finishStore (forward s2 (LaneOut.item ⟨[], bad⟩ s.c vec)) vec bad

/-- scr st: writes the low w bits of D at ea; a release when ORD is 2 (R226), which orders no access of the lane path (R200). -/
def execScrSt (o scp : BitVec 2) (a d : BitVec 7) (s : State) : Out :=
  let c := s.c
  let wide := c.wideFA
  let regs := if wide then 2 else 1
  let size := if wide then 8 else 4
  let vec := c.isVec a.toNat || c.isVec d.toNat
  let lanes := actLanes c vec
  let ea := globalEa c a.toNat c.offFA
  let data := fun l => leBytes size (opnd c d.toNat wide l)
  let off := misaligned lanes ea size
  let act (released : Bool) := scrStAct released (oneAccess c a.toNat lanes data) vec lanes ea data
  let rel := ordReleases o.toNat
  .next (issue s { ill := c.xp.c != 127, srcs := [(d.toNat, regs), (a.toNat, 2)], vec := vec }
    (ifGoes s vec <| if !off.isEmpty then wholeFault s vec 0x10 off ea
     else
      let ev := mkEvent s 1 (cmpItems lanes ea (fun l => leNat (data l)) size 0 scp.toNat)
      if rel && curIl s == 2 then commitPoint s (some ev) true (act true)
      else match compareEvent s ev with
        | .wait s1 => s1
        | .go s1 => act false (unstall s1)))

def execScrAdd (o scp : BitVec 2) (a d : BitVec 7) (s : State) : Out := scrIns .add o scp a d s
def execScrFadd (o scp : BitVec 2) (a d : BitVec 7) (s : State) : Out := scrIns .fadd o scp a d s
def execScrMin (o scp : BitVec 2) (a d : BitVec 7) (s : State) : Out := scrIns .min o scp a d s
def execScrMax (o scp : BitVec 2) (a d : BitVec 7) (s : State) : Out := scrIns .max o scp a d s
def execScrAnd (o scp : BitVec 2) (a d : BitVec 7) (s : State) : Out := scrIns .and o scp a d s
def execScrOr (o scp : BitVec 2) (a d : BitVec 7) (s : State) : Out := scrIns .or o scp a d s
def execScrXor (o scp : BitVec 2) (a d : BitVec 7) (s : State) : Out := scrIns .xor o scp a d s
def execScrFmax (o scp : BitVec 2) (a d : BitVec 7) (s : State) : Out := scrIns .fmax o scp a d s
def execScrXchg (o scp : BitVec 2) (a d : BitVec 7) (s : State) : Out := scrIns .xchg o scp a d s
def execScrCas (o scp : BitVec 2) (a d : BitVec 7) (s : State) : Out := scrIns .cas o scp a d s

end Sys2Proof.Machine
end

