-- ==== Sys2Proof/Machine/SpecialFn.lean ====
section
/-! DEFINITION. The special functions (R113): each returns its exact function of the input rounded once. Square roots and
reciprocals are exact; the transcendental functions are computed in fixed point with 576 fraction bits, far beyond what any
f32 input needs to settle its rounding. -/
namespace Sys2Proof.Machine

/-- Fraction bits of the fixed-point numbers. -/
def fixP : Nat := 576

def fixOne : Nat := 2 ^ 576

/-- ln 2 in units of 2^-576, and pi in units of 2^-736. -/
def ln2Fix : Nat :=
  0xb17217f7d1cf79abc9e3b39803f2f6af40f343267298b62d8a0d175b8baafa2be7b876206debac98559552fb4afa1b10ed2eae35c138214427573b291169b8253e96ca16224ae8c5

def piFix : Nat :=
  0x3243f6a8885a308d313198a2e03707344a4093822299f31d0082efa98ec4e6c89452821e638d01377be5466cf34e90c6cc0ac29b7c97c50dd3f84d5b5b54709179216d5d98979fb1bd1310ba698dfb5ac2ffd72dbd01adfb7b8e1afed

/-- A result known to lie in the open interval (k, k + 1) units of 2^-576: it rounds as the middle of that interval does. -/
def between (neg : Bool) (k : Nat) : FVal := .fin neg (2 * k + 1) (2 * fixOne)

/-- The whole part of a square root, by Newton's rule from above. -/
def isqrtFrom (n : Nat) : Nat → Nat → Nat
  | 0, x => x
  | fuel + 1, x =>
    let y := (x + n / x) / 2
    if x ≤ y then x else isqrtFrom n fuel y

def isqrt (n : Nat) : Nat := if n = 0 then 0 else isqrtFrom n 700 (2 ^ (Nat.log2 n / 2 + 1))

/-- The square root of num / den, both positive: exact when it is rational, else to within one fine unit. -/
def sqrtVal (num den : Nat) : FVal :=
  let m := num * den
  let r := isqrt m
  if r * r = m then .fin false r den
  else
    let k := isqrt (m * fixOne * fixOne)
    .fin false (2 * k + 1) (2 * fixOne * den)

/-- 2^(f / 2^576) for 0 ≤ f < 2^576, in units of 2^-576: the series of exp at f ln 2. -/
def exp2Frac (f : Nat) : Nat :=
  let z := f * ln2Fix / fixOne
  ((List.range 120).foldl (fun (st : Nat × Nat) k => (st.1 + st.2, st.2 * z / fixOne / (k + 1))) (0, fixOne)).1

/-- The inverse hyperbolic tangent of z / 2^576, z at most one third of 2^576. -/
def atanhFix (z : Nat) : Nat :=
  let z2 := z * z / fixOne
  ((List.range 200).foldl (fun (st : Nat × Nat) k => (st.1 + st.2 / (2 * k + 1), st.2 * z2 / fixOne)) (0, z)).1

/-- Sine and cosine of r / 2^576 for r of magnitude at most pi / 4. -/
def sinFix (r : Nat) : Nat :=
  let r2 := r * r / fixOne
  ((List.range 60).foldl (fun (st : Int × Nat) k =>
    (st.1 + (if k % 2 = 0 then (st.2 : Int) else -(st.2 : Int)), st.2 * r2 / fixOne / ((2 * k + 2) * (2 * k + 3)))) ((0 : Int), r)).1.toNat

def cosFix (r : Nat) : Nat :=
  let r2 := r * r / fixOne
  ((List.range 60).foldl (fun (st : Int × Nat) k =>
    (st.1 + (if k % 2 = 0 then (st.2 : Int) else -(st.2 : Int)), st.2 * r2 / fixOne / ((2 * k + 1) * (2 * k + 2)))) ((0 : Int), fixOne)).1.toNat

/-- Argument reduction (R113): the quadrant of a = num / den and the signed rest in fine units. -/
def reduceArg (num den : Nat) : Nat × Int :=
  let half := piFix / 2
  let x := num * 2 ^ 736
  let k := (2 * x + half * den) / (2 * half * den)
  (k % 4, ((x : Int) - (k * half * den : Nat)) / (den * 2 ^ 160 : Nat))

/-- Sine of a signed angle given by its quadrant and rest: quadrant 1 turns it into a cosine. -/
def sinQuad (q : Nat) (r : Int) (neg : Bool) : FVal :=
  let q := q % 4
  let odd := q % 2 = 1
  let k := if odd then cosFix r.natAbs else sinFix r.natAbs
  let sign := decide (2 ≤ q) != (!odd && decide (r < 0))
  between (sign != neg) k

/-- 2^x for a finite x = ±num / den. -/
def exp2Val (neg : Bool) (num den : Nat) : FVal :=
  let x := max (-600) (min 600 (signedNum neg num / (den : Int)))
  let f := if (signedNum neg num / (den : Int)) = x then ((signedNum neg num - x * den) * fixOne / den).toNat else 0
  let exact := (signedNum neg num) % (den : Int) = 0
  if exact then scaled false 1 x
  else (between false (exp2Frac f)).mul (scaled false 1 x)

/-- log2 of num / den, both positive. -/
def log2Val (num den : Nat) : FVal :=
  let e := flog2 num den
  let n := if 0 ≤ e then num else num * 2 ^ (-e).toNat
  let d := if 0 ≤ e then den * 2 ^ e.toNat else den
  if n = d then ofInt e
  else
    let z := (n - d) * fixOne / (n + d)
    let l := 2 * atanhFix z * fixOne / ln2Fix
    let t : Int := e * fixOne + l
    if 0 ≤ t then between false t.toNat else between true (-t - 1).toNat

/-- tanh of a positive num / den; beyond 20 the result no longer changes. -/
def tanhVal (neg : Bool) (num den : Nat) : FVal :=
  let x := min (num * fixOne / den) (20 * fixOne)
  let y := 2 * x * fixOne / ln2Fix
  let e := exp2Frac (y % fixOne) * 2 ^ (y / fixOne)
  between neg ((e - fixOne) * fixOne / (e + fixOne))

/-- The value each special function has at an input value (R113). -/
def sfuRcp : FVal → FVal
  | .nan => .nan
  | .inf neg => .fin neg 0 1
  | .fin neg num den => if num = 0 then .inf neg else .fin neg den num

def sfuRsq : FVal → FVal
  | .nan => .nan
  | .inf neg => if neg then .nan else .fin false 0 1
  | .fin neg num den => if num = 0 then .inf neg else if neg then .nan else sqrtVal den num

def sfuSqrt : FVal → FVal
  | .nan => .nan
  | .inf neg => if neg then .nan else .inf false
  | .fin neg num den => if num = 0 then .fin neg 0 1 else if neg then .nan else sqrtVal num den

def sfuLg2 : FVal → FVal
  | .nan => .nan
  | .inf neg => if neg then .nan else .inf false
  | .fin neg num den => if num = 0 then .inf true else if neg then .nan else log2Val num den

def sfuEx2 : FVal → FVal
  | .nan => .nan
  | .inf neg => if neg then .fin false 0 1 else .inf false
  | .fin neg num den => exp2Val neg num den

def sfuSin : FVal → FVal
  | .nan => .nan
  | .inf _ => .nan
  | .fin neg num den =>
    if num = 0 then .fin neg 0 1
    else
      let (q, r) := reduceArg num den
      sinQuad q r neg

def sfuCos : FVal → FVal
  | .nan => .nan
  | .inf _ => .nan
  | .fin _ num den =>
    if num = 0 then .fin false 1 1
    else
      let (q, r) := reduceArg num den
      sinQuad (q + 1) r false

def sfuTanh : FVal → FVal
  | .nan => .nan
  | .inf neg => .fin neg 1 1
  | .fin neg num den => if num = 0 then .fin neg 0 1 else tanhVal neg num den

/-- An SFU instruction (R48, R113): nearest-even, the flush modifier honoured, long-latency. -/
def sfuIns (f : FVal → FVal) (a : BitVec 7) (n : Bool) (d : BitVec 7) (s : State) : Out :=
  let c := s.c
  let x := c.xp
  let m : Mods := { modsOf x.e with rm := .rn, sat := false }
  let vec := kindVec c n d.toNat [a.toNat]
  let v (l : Lane) : BitVec 128 := (out32 m (f (in32 m (c.rd a.toNat l)))).setWidth 128
  .next (issue s
    { ill := x.c != 127 || !modsLegal x.e fpFtz || (vec && !n && isS d.toNat), srcs := [(a.toNat, 1)],
      dsts := if n then [] else [(d.toNat, 1)], vec := vec }
    (if n || (!vec && !c.goes) then retire s 4 .empty
     else finishLate true s 4 d.toNat 1 (!vec) c.enabled v 0))

def execFrcp (a : BitVec 7) (n : Bool) (d : BitVec 7) (s : State) : Out := sfuIns sfuRcp a n d s
def execFrsq (a : BitVec 7) (n : Bool) (d : BitVec 7) (s : State) : Out := sfuIns sfuRsq a n d s
def execFsqrt (a : BitVec 7) (n : Bool) (d : BitVec 7) (s : State) : Out := sfuIns sfuSqrt a n d s
def execFlg2 (a : BitVec 7) (n : Bool) (d : BitVec 7) (s : State) : Out := sfuIns sfuLg2 a n d s
def execFex2 (a : BitVec 7) (n : Bool) (d : BitVec 7) (s : State) : Out := sfuIns sfuEx2 a n d s
def execFsin (a : BitVec 7) (n : Bool) (d : BitVec 7) (s : State) : Out := sfuIns sfuSin a n d s
def execFcos (a : BitVec 7) (n : Bool) (d : BitVec 7) (s : State) : Out := sfuIns sfuCos a n d s
def execFtanh (a : BitVec 7) (n : Bool) (d : BitVec 7) (s : State) : Out := sfuIns sfuTanh a n d s

end Sys2Proof.Machine
end

