-- ==== Sys2Proof/Machine/Sys.lean ====
section
/-! DEFINITION. System instructions: SYS (R335 to R340, R368 to R371). -/
namespace Sys2Proof.Machine

/-- trap and brk (R369): every lane of the mask moves to the fall-through, and the group takes an after-instruction fault at that
run boundary when some lane takes the instruction. -/
def afterIns (s : State) (i : Issue) (cause : BitVec 8) (addr : DWord) : State :=
  let npc := s.c.npc
  pauseIns s i fun c take => if take = 0 then c else { c with leave := .after cause addr npc take }

def plainXp (c : Ctx) : Bool := c.xp.c == 127 && c.xp.e == 0

def execTrap (a : BitVec 7) (s : State) : Out :=
  let c := s.c
  .next (afterIns s { ill := !plainXp c, bad := c.isVec a.toNat, srcs := [(a.toNat, 1)] } 0x20
    ((c.rd a.toNat (lowest c.run.act)).setWidth 64))

def execBrk (s : State) : Out := .next (afterIns s { ill := !plainXp s.c } 0x21 0)

/-- rett (R356, R371): the SELV that follows carries it out; outside a handler it is illegal. -/
def rettIns (fin : Bool) (s : State) : State :=
  issueM s { ill := !s.c.inH || !plainXp s.c, xfer := true } (s.c.actMask &&& s.c.guard)
    (retire (modC s fun c => { c with leave := if c.goes then .rett fin else .jump c.fall }) 4 .empty)

def execRett (s : State) : Out := .next (rettIns false s)

def execRettEnd (s : State) : Out := .next (rettIns true s)

/-- Clusters in a mask. -/
def countBits (m : Mask) : Nat := (lanesOf m).length

/-- Complete even and odd pairs in a mask. -/
def countPairs (m : Mask) : Nat := ((List.range 16).filter fun k => m.getLsbD (2 * k) && m.getLsbD (2 * k + 1)).length

/-- leaf(a) (R336). -/
def qryLeaf (s : State) (w : Workgroup) (a : Nat) : Nat :=
  let p := part s w.ref.part
  let t := tenant s w.ref.part w.ref.tenant
  match a with
  | 0 => 0x41900400 + s.cfg.stepping.toNat
  | 1 => featureLeaf s
  | 3 => countBits t.tclmask + 2 ^ 8 * countPairs t.tclmask + 2 ^ 16 * bit p.det + 2 ^ 17 * bit p.world
  | 4 => 2 ^ 16 * p.bcnt.toNat + p.bfirst.toNat
  | 5 => t.tways.toNat
  | 6 => 131072
  | 7 => 32 * 2 ^ 24 + 96 * 2 ^ 16 + 384
  | _ => 0

/-- mask(a) (R340). -/
def qryMask (s : State) (w : Workgroup) (a : Nat) : Word :=
  match partVf s w.ref.part with
  | some f => ((s.qmask[f])[a]?).getD 0
  | none => BitVec.allOnes 32

def qryValue (s : State) (a : Nat) : Word :=
  match curWg s with
  | none => 0
  | some w => if a < 16 then BitVec.ofNat 32 (qryLeaf s w a) &&& qryMask s w a else 0

/-- qry (R335): long-latency; performed once in a checked pair. -/
def execQry (a : BitVec 7) (d : BitVec 7) (s : State) : Out :=
  let c := s.c
  let vec := kindVec c false d.toNat [a.toNat]
  let lanes := actLanes c vec
  let vals := lanes.map fun l => (l, (qryValue s (c.rd a.toNat l).toNat).setWidth 128)
  let f := LaneOut.item ⟨vals, []⟩ c vec
  .next (issue s { ill := !plainXp c || (vec && isS d.toNat), srcs := [(a.toNat, 1)], dsts := [(d.toNat, 1)], vec := vec }
    (if trailing s then orForward s fun s f => finishLoad s vec false d.toNat 1 lanes f 0
     else finishLoad (forward s f) vec false d.toNat 1 lanes f 0))

/-- ckpt (R370): a commit point in an IL2 stage; elsewhere, in a handler, and where its guard is false (R41), nothing but the latches. -/
def execCkpt (s : State) : Out :=
  .next (issue s { ill := !plainXp s.c }
    (if s.c.inH || !s.c.goes then retire s 4 .empty else commitPoint s none true fun s => retire s 4 .empty))

end Sys2Proof.Machine
end

