-- ==== Sys2Proof/Machine/Dispatch.lean ====
section
/-! DEFINITION. One arm per constructor of Instr: a direct call of its meaning. -/
namespace Sys2Proof.Machine

def exec (i : Instr) (s : State) : Host.Outcome State Fault Refusal :=
  match i with
  | .iadd b a n d => Sys2Proof.Machine.execIadd b a n d s
  | .isub b a n d => Sys2Proof.Machine.execIsub b a n d s
  | .imul b a n d => Sys2Proof.Machine.execImul b a n d s
  | .imulh b a n d => Sys2Proof.Machine.execImulh b a n d s
  | .imulhu b a n d => Sys2Proof.Machine.execImulhu b a n d s
  | .iadds b a n d => Sys2Proof.Machine.execIadds b a n d s
  | .isubs b a n d => Sys2Proof.Machine.execIsubs b a n d s
  | .iabsd b a n d => Sys2Proof.Machine.execIabsd b a n d s
  | .iaddi i1 a n d => Sys2Proof.Machine.execIaddi i1 a n d s
  | .imuli i1 a n d => Sys2Proof.Machine.execImuli i1 a n d s
  | .andi i1 a n d => Sys2Proof.Machine.execAndi i1 a n d s
  | .ori i1 a n d => Sys2Proof.Machine.execOri i1 a n d s
  | .xori i1 a n d => Sys2Proof.Machine.execXori i1 a n d s
  | .shli i1 a n d => Sys2Proof.Machine.execShli i1 a n d s
  | .shri i1 a n d => Sys2Proof.Machine.execShri i1 a n d s
  | .sari i1 a n d => Sys2Proof.Machine.execSari i1 a n d s
  | .and b a n d => Sys2Proof.Machine.execAnd b a n d s
  | .or b a n d => Sys2Proof.Machine.execOr b a n d s
  | .xor b a n d => Sys2Proof.Machine.execXor b a n d s
  | .andn b a n d => Sys2Proof.Machine.execAndn b a n d s
  | .orn b a n d => Sys2Proof.Machine.execOrn b a n d s
  | .xnor b a n d => Sys2Proof.Machine.execXnor b a n d s
  | .shl b a n d => Sys2Proof.Machine.execShl b a n d s
  | .shr b a n d => Sys2Proof.Machine.execShr b a n d s
  | .sar b a n d => Sys2Proof.Machine.execSar b a n d s
  | .rotl b a n d => Sys2Proof.Machine.execRotl b a n d s
  | .imin b a n d => Sys2Proof.Machine.execImin b a n d s
  | .imax b a n d => Sys2Proof.Machine.execImax b a n d s
  | .umin b a n d => Sys2Proof.Machine.execUmin b a n d s
  | .umax b a n d => Sys2Proof.Machine.execUmax b a n d s
  | .iaddc b a n d => Sys2Proof.Machine.execIaddc b a n d s
  | .isubb b a n d => Sys2Proof.Machine.execIsubb b a n d s
  | .iabs a n d => Sys2Proof.Machine.execIabs a n d s
  | .ineg a n d => Sys2Proof.Machine.execIneg a n d s
  | .not a n d => Sys2Proof.Machine.execNot a n d s
  | .popc a n d => Sys2Proof.Machine.execPopc a n d s
  | .clz a n d => Sys2Proof.Machine.execClz a n d s
  | .ctz a n d => Sys2Proof.Machine.execCtz a n d s
  | .brev a n d => Sys2Proof.Machine.execBrev a n d s
  | .bswap a n d => Sys2Proof.Machine.execBswap a n d s
  | .bfx b a n d => Sys2Proof.Machine.execBfx b a n d s
  | .bfxu b a n d => Sys2Proof.Machine.execBfxu b a n d s
  | .bfi b a n d => Sys2Proof.Machine.execBfi b a n d s
  | .fshl b a n d => Sys2Proof.Machine.execFshl b a n d s
  | .fshr b a n d => Sys2Proof.Machine.execFshr b a n d s
  | .lea b a n d => Sys2Proof.Machine.execLea b a n d s
  | .sel b a n d => Sys2Proof.Machine.execSel b a n d s
  | .imad b a n d => Sys2Proof.Machine.execImad b a n d s
  | .mov a n d => Sys2Proof.Machine.execMov a n d s
  | .sprd a n d => Sys2Proof.Machine.execSprd a n d s
  | .spwr b a => Sys2Proof.Machine.execSpwr b a s
  | .rdlane b a n d => Sys2Proof.Machine.execRdlane b a n d s
  | .wrlane b a n d => Sys2Proof.Machine.execWrlane b a n d s
  | .rfl a n d => Sys2Proof.Machine.execRfl a n d s
  | .movp a n d => Sys2Proof.Machine.execMovp a n d s
  | .ptom a n d => Sys2Proof.Machine.execPtom a n d s
  | .movi i1 n d => Sys2Proof.Machine.execMovi i1 n d s
  | .eq b a g x p => Sys2Proof.Machine.execEq b a g x p s
  | .ne b a g x p => Sys2Proof.Machine.execNe b a g x p s
  | .lt b a g x p => Sys2Proof.Machine.execLt b a g x p s
  | .le b a g x p => Sys2Proof.Machine.execLe b a g x p s
  | .ltu b a g x p => Sys2Proof.Machine.execLtu b a g x p s
  | .leu b a g x p => Sys2Proof.Machine.execLeu b a g x p s
  | .tst b a g x p => Sys2Proof.Machine.execTst b a g x p s
  | .tstz b a g x p => Sys2Proof.Machine.execTstz b a g x p s
  | .feq b a g x p => Sys2Proof.Machine.execFeq b a g x p s
  | .fne b a g x p => Sys2Proof.Machine.execFne b a g x p s
  | .flt b a g x p => Sys2Proof.Machine.execFlt b a g x p s
  | .fle b a g x p => Sys2Proof.Machine.execFle b a g x p s
  | .fgt b a g x p => Sys2Proof.Machine.execFgt b a g x p s
  | .fge b a g x p => Sys2Proof.Machine.execFge b a g x p s
  | .funord b a g x p => Sys2Proof.Machine.execFunord b a g x p s
  | .ford b a g x p => Sys2Proof.Machine.execFord b a g x p s
  | .pand b a g x p => Sys2Proof.Machine.execPand b a g x p s
  | .por b a g x p => Sys2Proof.Machine.execPor b a g x p s
  | .pxor b a g x p => Sys2Proof.Machine.execPxor b a g x p s
  | .pandn b a g x p => Sys2Proof.Machine.execPandn b a g x p s
  | .pnot a g x p => Sys2Proof.Machine.execPnot a g x p s
  | .pmov a g x p => Sys2Proof.Machine.execPmov a g x p s
  | .pclr g x p => Sys2Proof.Machine.execPclr g x p s
  | .pset g x p => Sys2Proof.Machine.execPset g x p s
  | .eqImm i1 a g x p => Sys2Proof.Machine.execEqImm i1 a g x p s
  | .neImm i1 a g x p => Sys2Proof.Machine.execNeImm i1 a g x p s
  | .ltImm i1 a g x p => Sys2Proof.Machine.execLtImm i1 a g x p s
  | .leImm i1 a g x p => Sys2Proof.Machine.execLeImm i1 a g x p s
  | .ltuImm i1 a g x p => Sys2Proof.Machine.execLtuImm i1 a g x p s
  | .leuImm i1 a g x p => Sys2Proof.Machine.execLeuImm i1 a g x p s
  | .tstImm i1 a g x p => Sys2Proof.Machine.execTstImm i1 a g x p s
  | .tstzImm i1 a g x p => Sys2Proof.Machine.execTstzImm i1 a g x p s
  | .fadd b a n d => Sys2Proof.Machine.execFadd b a n d s
  | .fsub b a n d => Sys2Proof.Machine.execFsub b a n d s
  | .fmul b a n d => Sys2Proof.Machine.execFmul b a n d s
  | .fmin b a n d => Sys2Proof.Machine.execFmin b a n d s
  | .fmax b a n d => Sys2Proof.Machine.execFmax b a n d s
  | .fminn b a n d => Sys2Proof.Machine.execFminn b a n d s
  | .fmaxn b a n d => Sys2Proof.Machine.execFmaxn b a n d s
  | .fcpsgn b a n d => Sys2Proof.Machine.execFcpsgn b a n d s
  | .ffma b a n d => Sys2Proof.Machine.execFfma b a n d s
  | .ffms b a n d => Sys2Proof.Machine.execFfms b a n d s
  | .fnma b a n d => Sys2Proof.Machine.execFnma b a n d s
  | .fnms b a n d => Sys2Proof.Machine.execFnms b a n d s
  | .hfma2 b a n d => Sys2Proof.Machine.execHfma2 b a n d s
  | .bfma2 b a n d => Sys2Proof.Machine.execBfma2 b a n d s
  | .idp4 b a n d => Sys2Proof.Machine.execIdp4 b a n d s
  | .hdp2 b a n d => Sys2Proof.Machine.execHdp2 b a n d s
  | .hadd2 b a n d => Sys2Proof.Machine.execHadd2 b a n d s
  | .hsub2 b a n d => Sys2Proof.Machine.execHsub2 b a n d s
  | .hmul2 b a n d => Sys2Proof.Machine.execHmul2 b a n d s
  | .hmax2 b a n d => Sys2Proof.Machine.execHmax2 b a n d s
  | .badd2 b a n d => Sys2Proof.Machine.execBadd2 b a n d s
  | .bsub2 b a n d => Sys2Proof.Machine.execBsub2 b a n d s
  | .bmul2 b a n d => Sys2Proof.Machine.execBmul2 b a n d s
  | .bmax2 b a n d => Sys2Proof.Machine.execBmax2 b a n d s
  | .frcp a n d => Sys2Proof.Machine.execFrcp a n d s
  | .frsq a n d => Sys2Proof.Machine.execFrsq a n d s
  | .fsqrt a n d => Sys2Proof.Machine.execFsqrt a n d s
  | .flg2 a n d => Sys2Proof.Machine.execFlg2 a n d s
  | .fex2 a n d => Sys2Proof.Machine.execFex2 a n d s
  | .fsin a n d => Sys2Proof.Machine.execFsin a n d s
  | .fcos a n d => Sys2Proof.Machine.execFcos a n d s
  | .ftanh a n d => Sys2Proof.Machine.execFtanh a n d s
  | .cvt r s1 f a n d => Sys2Proof.Machine.execCvt r s1 f a n d s
  | .pk2h b a n d => Sys2Proof.Machine.execPk2h b a n d s
  | .pk2bf b a n d => Sys2Proof.Machine.execPk2bf b a n d s
  | .upkhl a n d => Sys2Proof.Machine.execUpkhl a n d s
  | .upkhh a n d => Sys2Proof.Machine.execUpkhh a n d s
  | .upkbl a n d => Sys2Proof.Machine.execUpkbl a n d s
  | .upkbh a n d => Sys2Proof.Machine.execUpkbh a n d s
  | .perm8 b a n d => Sys2Proof.Machine.execPerm8 b a n d s
  | .frndn a n d => Sys2Proof.Machine.execFrndn a n d s
  | .frndz a n d => Sys2Proof.Machine.execFrndz a n d s
  | .frndd a n d => Sys2Proof.Machine.execFrndd a n d s
  | .frndu a n d => Sys2Proof.Machine.execFrndu a n d s
  | .ffrac a n d => Sys2Proof.Machine.execFfrac a n d s
  | .fclass a n d => Sys2Proof.Machine.execFclass a n d s
  | .fgetexp a n d => Sys2Proof.Machine.execFgetexp a n d s
  | .fldexp b a n d => Sys2Proof.Machine.execFldexp b a n d s
  | .scacc b a n d => Sys2Proof.Machine.execScacc b a n d s
  | .scacc2 b a n d => Sys2Proof.Machine.execScacc2 b a n d s
  | .scmul b a n d => Sys2Proof.Machine.execScmul b a n d s
  | .scaci b a n d => Sys2Proof.Machine.execScaci b a n d s
  | .scaci2 b a n d => Sys2Proof.Machine.execScaci2 b a n d s
  | .shfop k o m a n d => Sys2Proof.Machine.execShfop k o m a n d s
  | .perm b a n d => Sys2Proof.Machine.execPerm b a n d s
  | .permt b a n d => Sys2Proof.Machine.execPermt b a n d s
  | .perms b a n d => Sys2Proof.Machine.execPerms b a n d s
  | .compact b a n d => Sys2Proof.Machine.execCompact b a n d s
  | .vall a g x p => Sys2Proof.Machine.execVall a g x p s
  | .vany a g x p => Sys2Proof.Machine.execVany a g x p s
  | .veq a g x p => Sys2Proof.Machine.execVeq a g x p s
  | .vfirst a g x p => Sys2Proof.Machine.execVfirst a g x p s
  | .vlast a g x p => Sys2Proof.Machine.execVlast a g x p s
  | .matchLanes a n d => Sys2Proof.Machine.execMatchLanes a n d s
  | .tfirst a n d => Sys2Proof.Machine.execTfirst a n d s
  | .tpop a n d => Sys2Proof.Machine.execTpop a n d s
  | .setpart i1 a => Sys2Proof.Machine.execSetpart i1 a s
  | .getpart n d => Sys2Proof.Machine.execGetpart n d s
  | .tileid n d => Sys2Proof.Machine.execTileid n d s
  | .tlane n d => Sys2Proof.Machine.execTlane n d s
  | .ldg z o s1 l a n d => Sys2Proof.Machine.execLdg z o s1 l a n d s
  | .ldgPf z s1 l a => Sys2Proof.Machine.execLdgPf z s1 l a s
  | .stg z o s1 l a d => Sys2Proof.Machine.execStg z o s1 l a d s
  | .atgAdd o s1 l a d => Sys2Proof.Machine.execAtgAdd o s1 l a d s
  | .atgSub o s1 l a d => Sys2Proof.Machine.execAtgSub o s1 l a d s
  | .atgMin o s1 l a d => Sys2Proof.Machine.execAtgMin o s1 l a d s
  | .atgMax o s1 l a d => Sys2Proof.Machine.execAtgMax o s1 l a d s
  | .atgUmin o s1 l a d => Sys2Proof.Machine.execAtgUmin o s1 l a d s
  | .atgUmax o s1 l a d => Sys2Proof.Machine.execAtgUmax o s1 l a d s
  | .atgAnd o s1 l a d => Sys2Proof.Machine.execAtgAnd o s1 l a d s
  | .atgOr o s1 l a d => Sys2Proof.Machine.execAtgOr o s1 l a d s
  | .atgXor o s1 l a d => Sys2Proof.Machine.execAtgXor o s1 l a d s
  | .atgXchg o s1 l a d => Sys2Proof.Machine.execAtgXchg o s1 l a d s
  | .atgCas o s1 l a d => Sys2Proof.Machine.execAtgCas o s1 l a d s
  | .atgFadd o s1 l a d => Sys2Proof.Machine.execAtgFadd o s1 l a d s
  | .atgFmin o s1 l a d => Sys2Proof.Machine.execAtgFmin o s1 l a d s
  | .atgFmax o s1 l a d => Sys2Proof.Machine.execAtgFmax o s1 l a d s
  | .atgInc o s1 l a d => Sys2Proof.Machine.execAtgInc o s1 l a d s
  | .atgDec o s1 l a d => Sys2Proof.Machine.execAtgDec o s1 l a d s
  | .ldl i1 z a n d => Sys2Proof.Machine.execLdl i1 z a n d s
  | .stl i1 z a d => Sys2Proof.Machine.execStl i1 z a d s
  | .atlAdd o s1 a d => Sys2Proof.Machine.execAtlAdd o s1 a d s
  | .atlSub o s1 a d => Sys2Proof.Machine.execAtlSub o s1 a d s
  | .atlMin o s1 a d => Sys2Proof.Machine.execAtlMin o s1 a d s
  | .atlMax o s1 a d => Sys2Proof.Machine.execAtlMax o s1 a d s
  | .atlUmin o s1 a d => Sys2Proof.Machine.execAtlUmin o s1 a d s
  | .atlUmax o s1 a d => Sys2Proof.Machine.execAtlUmax o s1 a d s
  | .atlAnd o s1 a d => Sys2Proof.Machine.execAtlAnd o s1 a d s
  | .atlOr o s1 a d => Sys2Proof.Machine.execAtlOr o s1 a d s
  | .atlXor o s1 a d => Sys2Proof.Machine.execAtlXor o s1 a d s
  | .atlXchg o s1 a d => Sys2Proof.Machine.execAtlXchg o s1 a d s
  | .atlCas o s1 a d => Sys2Proof.Machine.execAtlCas o s1 a d s
  | .atlFadd o s1 a d => Sys2Proof.Machine.execAtlFadd o s1 a d s
  | .atlFmin o s1 a d => Sys2Proof.Machine.execAtlFmin o s1 a d s
  | .atlFmax o s1 a d => Sys2Proof.Machine.execAtlFmax o s1 a d s
  | .atlInc o s1 a d => Sys2Proof.Machine.execAtlInc o s1 a d s
  | .atlDec o s1 a d => Sys2Proof.Machine.execAtlDec o s1 a d s
  | .scrAdd o s1 a d => Sys2Proof.Machine.execScrAdd o s1 a d s
  | .scrFadd o s1 a d => Sys2Proof.Machine.execScrFadd o s1 a d s
  | .scrMin o s1 a d => Sys2Proof.Machine.execScrMin o s1 a d s
  | .scrMax o s1 a d => Sys2Proof.Machine.execScrMax o s1 a d s
  | .scrAnd o s1 a d => Sys2Proof.Machine.execScrAnd o s1 a d s
  | .scrOr o s1 a d => Sys2Proof.Machine.execScrOr o s1 a d s
  | .scrXor o s1 a d => Sys2Proof.Machine.execScrXor o s1 a d s
  | .scrFmax o s1 a d => Sys2Proof.Machine.execScrFmax o s1 a d s
  | .scrXchg o s1 a d => Sys2Proof.Machine.execScrXchg o s1 a d s
  | .scrCas o s1 a d => Sys2Proof.Machine.execScrCas o s1 a d s
  | .scrLd o s1 a d => Sys2Proof.Machine.execScrLd o s1 a d s
  | .scrSt o s1 a d => Sys2Proof.Machine.execScrSt o s1 a d s
  | .fence o s1 => Sys2Proof.Machine.execFence o s1 s
  | .xfence b a o s1 => Sys2Proof.Machine.execXfence b a o s1 s
  | .drainst => Sys2Proof.Machine.execDrainst s
  | .cinv => Sys2Proof.Machine.execCinv s
  | .cflush => Sys2Proof.Machine.execCflush s
  | .tkick b a => Sys2Proof.Machine.execTkick b a s
  | .tcancel a => Sys2Proof.Machine.execTcancel a s
  | .tstat a n d => Sys2Proof.Machine.execTstat a n d s
  | .binit b a => Sys2Proof.Machine.execBinit b a s
  | .barrive b a n d => Sys2Proof.Machine.execBarrive b a n d s
  | .bexpect b a => Sys2Proof.Machine.execBexpect b a s
  | .bwait b a n d => Sys2Proof.Machine.execBwait b a n d s
  | .btest a n d => Sys2Proof.Machine.execBtest a n d s
  | .binval a => Sys2Proof.Machine.execBinval a s
  | .qpush b a => Sys2Proof.Machine.execQpush b a s
  | .qpop b d => Sys2Proof.Machine.execQpop b d s
  | .qres a d => Sys2Proof.Machine.execQres a d s
  | .qcommit b a => Sys2Proof.Machine.execQcommit b a s
  | .qlen a d => Sys2Proof.Machine.execQlen a d s
  | .ordw a d => Sys2Proof.Machine.execOrdw a d s
  | .ordp a d => Sys2Proof.Machine.execOrdp a d s
  | .ordr a d => Sys2Proof.Machine.execOrdr a d s
  | .bra i1 l g p => Sys2Proof.Machine.execBra i1 l g p s
  | .call i1 l g p => Sys2Proof.Machine.execCall i1 l g p s
  | .jmps a => Sys2Proof.Machine.execJmps a s
  | .calls a => Sys2Proof.Machine.execCalls a s
  | .ret a => Sys2Proof.Machine.execRet a s
  | .exit => Sys2Proof.Machine.execExit s
  | .knot => Sys2Proof.Machine.execKnot s
  | .bar b a => Sys2Proof.Machine.execBar b a s
  | .yield => Sys2Proof.Machine.execYield s
  | .nop => Sys2Proof.Machine.execNop s
  | .migShuttle i1 d => Sys2Proof.Machine.execMigShuttle i1 d s
  | .migBeam i1 d => Sys2Proof.Machine.execMigBeam i1 d s
  | .trap a => Sys2Proof.Machine.execTrap a s
  | .rett => Sys2Proof.Machine.execRett s
  | .rettEnd => Sys2Proof.Machine.execRettEnd s
  | .qry a d => Sys2Proof.Machine.execQry a d s
  | .ckpt => Sys2Proof.Machine.execCkpt s
  | .brk => Sys2Proof.Machine.execBrk s
  | .selv y n c b a => Sys2Proof.Machine.execSelv y n c b a s
  | .xp p => Sys2Proof.Machine.execXp p s
  | .mov16 b d => Sys2Proof.Machine.execMov16 b d s
  | .iadd16 b d => Sys2Proof.Machine.execIadd16 b d s
  | .isub16 b d => Sys2Proof.Machine.execIsub16 b d s
  | .imul16 b d => Sys2Proof.Machine.execImul16 b d s
  | .and16 b d => Sys2Proof.Machine.execAnd16 b d s
  | .or16 b d => Sys2Proof.Machine.execOr16 b d s
  | .xor16 b d => Sys2Proof.Machine.execXor16 b d s
  | .shl16 b d => Sys2Proof.Machine.execShl16 b d s
  | .shr16 b d => Sys2Proof.Machine.execShr16 b d s
  | .sar16 b d => Sys2Proof.Machine.execSar16 b d s
  | .imin16 b d => Sys2Proof.Machine.execImin16 b d s
  | .imax16 b d => Sys2Proof.Machine.execImax16 b d s
  | .fadd16 b d => Sys2Proof.Machine.execFadd16 b d s
  | .fmul16 b d => Sys2Proof.Machine.execFmul16 b d s
  | .fmax16 b d => Sys2Proof.Machine.execFmax16 b d s
  | .fmac b d => Sys2Proof.Machine.execFmac b d s
  | .powerOnReset b => Sys2Proof.Machine.execPowerOnReset b s
  | .registerWrite q => Sys2Proof.Machine.execRegisterWrite q s
  | .partitionEnable p sec => Sys2Proof.Machine.execPartitionEnable p sec s
  | .partitionDisable p sec => Sys2Proof.Machine.execPartitionDisable p sec s
  | .tenantEnable p t sec => Sys2Proof.Machine.execTenantEnable p t sec s
  | .tenantDisable p t sec => Sys2Proof.Machine.execTenantDisable p t sec s
  | .reside p t sec => Sys2Proof.Machine.execReside p t sec s
  | .release p t sec => Sys2Proof.Machine.execRelease p t sec s
  | .preempt p t sec => Sys2Proof.Machine.execPreempt p t sec s
  | .contextReset p t sec => Sys2Proof.Machine.execContextReset p t sec s
  | .resume p t sec => Sys2Proof.Machine.execResume p t sec s
  | .ctxcmdInvalid p t code sec => Sys2Proof.Machine.execCtxcmdInvalid p t code sec s
  | .contextDrained p t => Sys2Proof.Machine.execContextDrained p t s
  | .drainDeadline p t => Sys2Proof.Machine.execDrainDeadline p t s
  | .placeTableWrite k n v => Sys2Proof.Machine.execPlaceTableWrite k n v s
  | .clsuspSet c => Sys2Proof.Machine.execClsuspSet c s
  | .clsuspClear c => Sys2Proof.Machine.execClsuspClear c s
  | .clusterSuspended c => Sys2Proof.Machine.execClusterSuspended c s
  | .invalidateAll tn => Sys2Proof.Machine.execInvalidateAll tn s
  | .invalidateTenant tn => Sys2Proof.Machine.execInvalidateTenant tn s
  | .invalidateRange tn => Sys2Proof.Machine.execInvalidateRange tn s
  | .invalidationComplete => Sys2Proof.Machine.execInvalidationComplete s
  | .bindingEnable n sec => Sys2Proof.Machine.execBindingEnable n sec s
  | .bindingDisable n sec => Sys2Proof.Machine.execBindingDisable n sec s
  | .mbdataWrite f slot off bytes => Sys2Proof.Machine.execMbdataWrite f slot off bytes s
  | .heldMessageEntry f slot => Sys2Proof.Machine.execHeldMessageEntry f slot s
  | .apertureRead f off len => Sys2Proof.Machine.execApertureRead f off len s
  | .apertureWrite f off bytes => Sys2Proof.Machine.execApertureWrite f off bytes s
  | .apertureAtomic f off => Sys2Proof.Machine.execApertureAtomic f off s
  | .precopy f => Sys2Proof.Machine.execPrecopy f s
  | .stop f => Sys2Proof.Machine.execStop f s
  | .stopComplete f => Sys2Proof.Machine.execStopComplete f s
  | .snap f => Sys2Proof.Machine.execSnap f s
  | .snapComplete f => Sys2Proof.Machine.execSnapComplete f s
  | .save f => Sys2Proof.Machine.execSave f s
  | .run f => Sys2Proof.Machine.execRun f s
  | .load f k => Sys2Proof.Machine.execLoad f k s
  | .winackWrite f n => Sys2Proof.Machine.execWinackWrite f n s
  | .qryMaskWrite f leaf v => Sys2Proof.Machine.execQryMaskWrite f leaf v s
  | .attestDevice f => Sys2Proof.Machine.execAttestDevice f s
  | .attestTenant f => Sys2Proof.Machine.execAttestTenant f s
  | .attestReportDone f => Sys2Proof.Machine.execAttestReportDone f s
  | .domainRingEnable d v sec => Sys2Proof.Machine.execDomainRingEnable d v sec s
  | .chargeTick => Sys2Proof.Machine.execChargeTick s
  | .periodBoundary => Sys2Proof.Machine.execPeriodBoundary s
  | .bandwidthPeriod => Sys2Proof.Machine.execBandwidthPeriod s
  | .cohortLaunch c => Sys2Proof.Machine.execCohortLaunch c s
  | .wakeStart c => Sys2Proof.Machine.execWakeStart c s
  | .wakeComplete u => Sys2Proof.Machine.execWakeComplete u s
  | .idleToG1 u => Sys2Proof.Machine.execIdleToG1 u s
  | .g1ToG2 u => Sys2Proof.Machine.execG1ToG2 u s
  | .enterG3 u => Sys2Proof.Machine.execEnterG3 u s
  | .workgroupRetire w => Sys2Proof.Machine.execWorkgroupRetire w s
  | .ticketPass k => Sys2Proof.Machine.execTicketPass k s
  | .ordwGrant k => Sys2Proof.Machine.execOrdwGrant k s
  | .taskStart e => Sys2Proof.Machine.execTaskStart e s
  | .taskComplete e soft => Sys2Proof.Machine.execTaskComplete e soft s
  | .sliceEnd c => Sys2Proof.Machine.execSliceEnd c s
  | .groupHalt w g => Sys2Proof.Machine.execGroupHalt w g s
  | .sliceResume c => Sys2Proof.Machine.execSliceResume c s
  | .migGrant w core => Sys2Proof.Machine.execMigGrant w core s
  | .migDeadline w => Sys2Proof.Machine.execMigDeadline w s
  | .migMove w => Sys2Proof.Machine.execMigMove w s
  | .homeRequest k => Sys2Proof.Machine.execHomeRequest k s
  | .l1Eviction core line => Sys2Proof.Machine.execL1Eviction core line s
  | .translationWalkComplete k => Sys2Proof.Machine.execTranslationWalkComplete k s
  | .compareTimeout w g => Sys2Proof.Machine.execCompareTimeout w g s
  | .sspDecision k => Sys2Proof.Machine.execSspDecision k s
  | .pairRelease k => Sys2Proof.Machine.execPairRelease k s
  | .selfTestComplete k failLead failTrail => Sys2Proof.Machine.execSelfTestComplete k failLead failTrail s
  | .uncorrectableEcc e => Sys2Proof.Machine.execUncorrectableEcc e s
  | .correctedError => Sys2Proof.Machine.execCorrectedError s
  | .longLatencyResult w g r => Sys2Proof.Machine.execLongLatencyResult w g r s
  | .secureStreamKeyed => Sys2Proof.Machine.execSecureStreamKeyed s

end Sys2Proof.Machine
end

