-- ==== Sys2Proof/Machine/Duty.lean ====
section
/-! DEFINITION. What the device does of itself when no turn is prescribed (assumption 1): the first of its pending events that would
change the state. -/
namespace Sys2Proof.Machine

/-- An event that would change the state. -/
def progresses (s : State) (i : Instr) : Bool :=
  match exec i s with
  | .next t => t != s
  | _ => false

/-- Results, requests, walks and grants under way. -/
noncomputable def flowDuties (s : State) : List Instr :=
  ((allGroups s).filter fun g => !g.arr.isEmpty).map (fun g => .longLatencyResult g.wg g.gid g.role) ++
  (if s.homeQ.isEmpty then [] else [.homeRequest 0]) ++
  (List.range (min walkers s.walks.length)).map (fun k => .translationWalkComplete k) ++
  (List.range s.held.length).flatMap (fun k => [.ticketPass k, .ordwGrant k])

/-- Engines, retirements and migrations. -/
noncomputable def workDuties (s : State) : List Instr :=
  (s.readyQ.filter (issuable s)).map (fun t => .taskStart t.eng) ++ s.engq.flatMap (fun t => [.taskStart t.eng, .taskComplete t.eng 0]) ++
  (s.wgs.mergeSort fun a b => decide (a.ref.stage ≤ b.ref.stage)).map (fun w => .workgroupRetire w.key) ++
  s.wgs.flatMap (fun w => if w.mig.isEmpty then []
    else .migMove w.key :: .migDeadline w.key :: (List.range 6).map fun i => .migGrant w.key (8 * clusterOf w.core + i)) ++
  (List.finRange 16).flatMap (fun k => [.sspDecision k, .pairRelease k, .selfTestComplete k false false])

/-- The host's side. -/
noncomputable def hostDuties (s : State) : List Instr :=
  (List.finRange 17).flatMap (fun f => (List.finRange 16).filterMap fun k =>
    if (slotOf s f k).held.isSome then some (.heldMessageEntry f k) else none) ++
  [.invalidationComplete] ++
  (List.finRange 16).flatMap (fun f => [.stopComplete f, .snapComplete f]) ++
  (List.finRange 17).map (fun f => .attestReportDone f) ++
  (List.finRange 8).flatMap (fun p => (List.finRange 9).flatMap fun t => if draining s p t then [.contextDrained p t, .drainDeadline p t] else [])

/-- Clusters: slices, halts, wakes, launches. -/
noncomputable def clusterDuties (s : State) : List Instr :=
  ((allGroups s).filter fun g => g.wg != 0 && !g.halted && !g.ended).map (fun g => .groupHalt g.wg g.gid) ++
  (List.finRange 32).flatMap (fun c => [.sliceEnd c, .sliceResume c, .clusterSuspended c]) ++
  (List.finRange 32).map (fun c => .wakeStart c) ++
  (s.wakes.flatMap fun w => ([.core 0, .core 1, .core 2, .core 3, .core 4, .core 5, .matrix 0, .matrix 1, .copy] : List UnitKind).map fun k =>
    .wakeComplete ⟨w.1, k⟩) ++
  (List.finRange 32).map (fun c => .cohortLaunch c)

/-- The event that comes next of itself. -/
noncomputable def duty (s : State) : Option Instr :=
  (.periodBoundary :: flowDuties s ++ workDuties s ++ hostDuties s ++ clusterDuties s).find? (progresses s)

end Sys2Proof.Machine
end

