-- ==== Sys2Proof/Machine/Step.lean ====
section
/-! DEFINITION. One step of the device (assumption 1): the turn that the agenda names, or else the next group's next
instruction. -/
namespace Sys2Proof.Machine

/-- What the group at the issue stage does next: it begins a run, commits a full buffer, or issues the instruction at its
program counter. -/
noncomputable def issueStep (s : State) : Out :=
  match s.grp.phase with
  | .ended => .next s
  | .between => .next (beginRun s)
  | _ =>
    if bufferDue s && s.c.xpw.isNone then .next (commitBare s)
    else
      let t := touchCode s
      match fetched t with
      | .ok i => exec i t
      | .error s1 => .next s1

/-- The trailing member of a group takes the step that its leading one has taken (R375; assumption 42). -/
noncomputable def trailStep (s : State) (g : Group) : Out :=
  match issueStep (rouse (focus s g.wg g.gid .trail) (g.core + 8)) with
  | .next t => .next (backTo t s.grp)
  | r => r

/-- A group's step, and in a checked pair the trailing member's after it. -/
noncomputable def groupStep (s : State) (g : Group) : Out :=
  match issueStep s with
  | .next t => if follows s t g then trailStep t g else .next t
  | r => r

/-- A core's turn; a core with nothing to issue lets a cycle pass. -/
noncomputable def coreTurn (s : State) (core : Nat) : Out :=
  match pickGroup s core with
  | some g => groupStep (switchTo s core g) g
  | none => .next (passTime s 1)

/-- A core takes the value of a block early, for a load that a group of it is still to issue (R181; assumption 52): the group's own accesses to the
block come first, and it is one that the group may read. -/
def takeBlock (s : State) (wg : Nat) (gid : Fin 16) (va : Nat) : State :=
  asGroup s wg gid .lead fun s =>
    match curWg s, peekPa s va with
    | some w, some pa =>
      let t := drainLine (settleFor s [BitVec.ofNat 64 (va / 16 * 16)] 16) (lineOf pa)
      if s.grp.ended || (part s w.ref.part).det || !inMain pa then s
      else match probe t .load (BitVec.ofNat 64 va) with
        | (u, .ok _) =>
          let rest := u.early.filter fun e => !(e.core == u.grp.core && e.wg == wg && e.gid == gid && e.block == pa / 16)
          { u with early := ⟨u.grp.core, wg, gid, pa / 16, cohRead u (pa / 16 * 16) 16⟩ :: rest }
        | (u, .error _) => u
    | _, _ => s

/-- The turn taken when the agenda is empty: an event that is due, else a cycle while the walker holds a record that only time keeps from its
engine (R138), else an instruction, else a cycle passes. -/
noncomputable def freeTurn (s : State) : Out :=
  match duty s with
  | some i => exec i s
  | none =>
    if s.readyQ.any (unheld s) then .next (passTime s 1)
    else match nextCore s with
      | some n => coreTurn s n
      | none => .next (passTime s 1)

noncomputable def step (s : State) : Host.Outcome State Fault Refusal :=
  match s.agenda with
  | .event i :: rest => exec i { s with agenda := rest }
  | .pass n :: rest => .next (passTime { s with agenda := rest } n)
  | .read q :: rest => .next (hostRead { s with agenda := rest } q)
  | .core n :: rest => coreTurn { s with agenda := rest } n
  | .early w g va :: rest => .next (takeBlock { s with agenda := rest } w g va)
  | [] => freeTurn s

/-! ### A program's first instruction (assumption 7) -/

/-- Where the placed program and its page tables lie in main memory. -/
def placedTable : Nat := 0x1000

/-- A table entry: valid, and for the leaf writable, readable, non-secure. -/
def placedEntry (level : Nat) : Nat := (placedTable + 0x1000 * (level + 1)) + (if level = 3 then 0x4F else 1)

/-- Four tables, each with its first entry, and the code page: the instruction and a SELV. -/
def placedMem (nbits w : Nat) (m : List Host.Cell) : List Host.Cell :=
  let m1 := (List.range 4).foldl (fun m k => Memory.write m (placedTable + 0x1000 * k) (leBytes 8 (placedEntry k))) m
  Memory.write m1 (placedTable + 0x4000) (leBytes 4 (w % 2 ^ nbits) ++ leBytes 4 0x7D)

/-- The stage of the placed program: every register, one group, one workgroup. -/
def placedStage : Stage :=
  { index := 0, rcb := 0, prio := 3, cls := .shuttle, il := 0, fdom := 0, vlim := 0, sentry := 0, bentry := BitVec.allOnes 32,
    sreg := (96, 24), breg := (0, 0), loc := 0x10000, groups := 1, roles := (0, 0, 0), rolev := (0, 0, 0), gx := 1, gy := 1, gz := 1,
    cx := 1, cy := 1, migdl := 0, resCore := 0, resMat := 0, buflim := 0, qbase := 0, qlog := 1, hwm := 0, lwm := 0 }

def placedPipe : Pipeline :=
  { part := 0, tenant := 0, rcb := 0, index := 0, sbase := 0, bbase := 0, ssize := 8, bsize := 0, stages := [placedStage],
    picks := [], digest := [] }

def placedWg (key : Nat) : Workgroup :=
  { key := key, ref := ⟨0, 0, 0, 0⟩, grid := 0, pos := 0, wgid := (0, 0, 0), rank := 0, curve := 0, core := 0, cls := .shuttle,
    entry := List.replicate 64 0, index := 0, size := 0x10000, mem := [], memT := [], bars := Vector.replicate 16 ⟨false, 0, []⟩,
    barsT := Vector.replicate 16 ⟨false, 0, []⟩, resv := [], passed := [], duePass := [], kicks := [], came := [], cameT := [], mig := [], det := [],
    detBytes := 0, atomic := false, reruns := 0, finished := false, ckpt := 0, ckptAt := 0, snap := WgSnap.none, rolls := 0, visible := false, mism := [] }

/-- A group about to issue its first instruction, every lane active. -/
def placedGroup (key : Nat) : Group :=
  { Group.empty with wg := key, vbud := 96, sbud := 24, phase := .inRun,
                     c := { Ctx.launch with run := { Run.none with on := true, act := BitVec.allOnes 32 } } }

/-- The state with a program of one instruction resident and at its first issue: what loading and launching it leave. -/
def State.withFetchWord (s : State) (nbits w : Nat) : State :=
  let key := s.fresh
  let s1 := setPart s 0 fun p =>
    { p with en := true, func := 0, world := false, det := false,
             tenants := p.tenants.set 0 { p.tenants[0] with en := true, ttbr := BitVec.ofNat 64 placedTable } }
  { s1 with fresh := key + 1, grp := placedGroup key, others := s1.others.filter (·.core != 0), wgs := placedWg key :: s1.wgs,
            pipes := placedPipe :: s1.pipes, mem := placedMem nbits w s1.mem, hed := [], l1 := [], tlb := [],
            cfg := { s1.cfg with regions := [] }, agenda := [.core 0],
            units := s1.units.set 0 ((s1.units[0]).set 0 ⟨.G0, s1.now, false⟩) }

end Sys2Proof.Machine
end

