-- ==== Sys2Proof/Claims.lean ====
section
/-! DEFINITION. The words that the obligations are stated in: when an instruction meets none of the faults of R50, and what
each shape of instruction leaves behind when it completes, with everything else unchanged. -/
namespace Sys2Proof.Claims
open Sys2Proof.Machine

/-! ### When an instruction issues -/

/-- An instruction with these operands meets no fault of R50 items 1 to 4: a handler executes no vector instruction (R353), a
run holds 24 instructions (R43), every operand is in bounds, aligned and, if a latch, holds a result (R32, R49), and none is
pending (R48). Each operand is its first register code and the number of registers. -/
structure Issues (s : State) (vec : Bool) (srcs dsts : List (Nat × Nat)) : Prop where
  mode : vec = true → s.c.inH = false
  pos  : s.c.run.pos < 24
  readable : ∀ u ∈ srcs, srcBad s u = false
  writable : ∀ u ∈ dsts, dstBad s u = false
  free : again s = false → ∀ u ∈ srcs ++ dsts, isT u.1 = true ∨ s.c.isPend u.1 u.2 = false

/-- The destination list of an instruction with one destination register, which N suppresses (R37). -/
def dst (n : Bool) (d k : Nat) : List (Nat × Nat) := if n then [] else [(d, k)]

/-- The instruction has no XP that gives a third source, and its modifiers are ones it honours (R39, R40, R94). -/
def Plain (s : State) (al : Allow) : Prop := s.c.xp.c = 127 ∧ modsLegal s.c.xp.e al = true

/-! ### What completing does (R43, R49, R54, R237) -/

/-- The context of `t` with every register of `s`: what changes when any instruction completes, and nothing else. -/
def counted (s t : State) : Ctx :=
  { s.c with run := t.c.run, icount := t.c.icount, starve := t.c.starve, xpw := none, redo := none, lastNpc := s.c.npc }

/-- The run after an instruction of `size` bytes: the program counter passes it, it counts, the latches move by one and t0 takes
`t0`; a re-issue for some lanes goes on with the whole mask (R356). -/
structure Completes (s t : State) (size : Nat) (t0 : Latch) : Prop where
  pc     : t.c.run.pc = s.c.run.pc + BitVec.ofNat 32 size
  pos    : t.c.run.pos = s.c.run.pos + 1
  on     : t.c.run.on = s.c.run.on
  act    : t.c.run.act = s.c.redo.getD s.c.run.act
  first  : t.c.run.lat[0] = t0
  shift  : ∀ k (h : k < 7), t.c.run.lat[k + 1] = s.c.run.lat[k]
  icount : t.c.icount = s.c.icount + 1
  starve : t.c.starve = s.c.count.starve

/-- Every byte of every memory reads as before: main memory and screed, host memory. -/
def SameMemory (s t : State) : Prop :=
  (∀ a, Memory.get t.mem a = Memory.get s.mem a) ∧ (∀ a, cohRead t a 1 = cohRead s a 1) ∧
  (∀ a, Memory.get t.hostMem a = Memory.get s.hostMem a) ∧ t.wgs = s.wgs

/-- A vector instruction with destination D has completed: D in the enabled lanes, every other lane and register as before (R41, R49). What t0
holds in lanes that are not enabled, D's prior value or 0 under N, is the spec's for lanes of the active mask (R41) and the model's choice for
the others (assumption 29). -/
structure VecDone (s t : State) (size : Nat) (n : Bool) (d : Nat) (en : Mask) (f : Lane → Word) : Prop where
  done   : Completes s t size (latchLanes fun l => if en.getLsbD l.val then f l else if n then 0 else s.c.vreg d l)
  value  : ∀ l, n = false → en.getLsbD l.val = true → t.c.vreg d l = f l
  others : ∀ k l, k ≠ d ∨ n = true ∨ en.getLsbD l.val = false → t.c.vreg k l = s.c.vreg k l
  frame  : t = { s with grp := { s.grp with c := { counted s t with v := t.c.v } } }
  memory : SameMemory s t

/-- A scalar instruction with destination D has completed: D and t0 take the value when its guard lets it execute; s0 reads
zero whatever is written to it (R31, R41). What t0 holds under a false guard, D's prior value or 0 under N, is the model's choice (assumption
29): R41 says only that the latches move. -/
structure ScalDone (s t : State) (size : Nat) (n : Bool) (d : Nat) (go : Bool) (x : Word) : Prop where
  done   : Completes s t size (.scalar false ((if go then x else if n then 0 else s.c.sreg (d - 96)).setWidth 64))
  value  : n = false → go = true → t.c.sreg (d - 96) = if d = 96 then 0 else x
  others : ∀ k, k ≠ d - 96 ∨ n = true ∨ go = false → t.c.sreg k = s.c.sreg k
  frame  : t = { s with grp := { s.grp with c := { counted s t with s := t.c.s } } }
  memory : SameMemory s t

/-- A lane instruction has completed, as a vector or as a scalar instruction (R34, R93); `f` gives the result of a lane. -/
def LaneDone (s t : State) (size : Nat) (srcs : List Nat) (n : Bool) (d : Nat) (f : Lane → Word) : Prop :=
  if kindVec s.c n d srcs then VecDone s t size n d s.c.enabled f else ScalDone s t size n d s.c.goes (f s.c.scalarLane)

/-- The checks of a lane instruction on its operands: `Issues`, and a vector instruction has no scalar destination. -/
def LaneIssues (s : State) (srcs : List Nat) (n : Bool) (d : Nat) : Prop :=
  Issues s (kindVec s.c n d srcs) (srcs.map (·, 1)) (dst n d 1) ∧ (kindVec s.c n d srcs = true → n = true ∨ isS d = false)

/-- A predicate instruction has completed: PD in the lanes of `en`, every other lane and predicate as before; p63 reads true
whatever is written to it (R33, R106). -/
structure PredDone (s t : State) (pd : Nat) (en : Mask) (v : Lane → Bool) : Prop where
  done   : Completes s t 4 .empty
  value  : ∀ l, en.getLsbD l.val = true → t.c.pred pd l = if pd = 63 then true else v l
  others : ∀ k l, k < 64 → k ≠ pd ∨ en.getLsbD l.val = false → t.c.pred k l = s.c.pred k l
  frame  : t = { s with grp := { s.grp with c := { counted s t with p := t.c.p } } }
  memory : SameMemory s t

/-- A long-latency instruction has completed: its destination registers are pending, its result is under way for the lanes of
`mask` and t0 is empty (R48); no register has changed. `own`: a result of the core's own units, which a group switch waits for (R96, R128). -/
structure LongDone (own : Bool) (s t : State) (d regs : Nat) (scalar : Bool) (mask : Mask) (vals : Lane → BitVec 128) (addr : DWord) : Prop where
  done  : Completes s t 4 .empty
  under : t.grp.arr = s.grp.arr ++ [⟨d, regs, scalar, mask, Vector.ofFn vals, s.c.npc, addr, false, own⟩]
  frame : t.grp = { s.grp with arr := t.grp.arr, c := { counted s t with pend := (s.c.setPend d regs).pend } }

/-- Nothing but completing: no register, no memory. -/
structure PlainDone (s t : State) (size : Nat) : Prop where
  done   : Completes s t size .empty
  frame  : t = { s with grp := { s.grp with c := counted s t } }
  memory : SameMemory s t

/-! ### The arithmetic of the manual, on exact values (R67, R73) -/

/-- wrap(x, 32), or sat_s(x, 32) under the saturate modifier (R67, R68). -/
def narrow (sat : Bool) (x : Int) : Word :=
  if sat then (if x < -2147483648 then 0x80000000 else if 2147483647 < x then 0x7FFFFFFF else BitVec.ofInt 32 x) else BitVec.ofInt 32 x

/-- The saturate modifier of the XP, if there is one (R40). -/
def satOn (s : State) : Bool := s.c.xp.e / 4 % 2 == 1

/-- The immediate of an FI instruction: IMM7, or E11 and IMM7 as 18 bits, signed (R40, R97). -/
def immOf (s : State) (i : BitVec 7) : Int :=
  match s.c.xpw with
  | none => i.toInt
  | some w => (w.extractLsb' 14 11 ++ i : BitVec 18).toInt

/-- A value shifted by n32 amounts: multiplication and floored division by a power of two (R98). -/
def shiftLeft (a : Word) (n : Nat) : Word := BitVec.ofNat 32 (a.toNat * 2 ^ n)

def shiftRight (a : Word) (n : Nat) : Word := BitVec.ofNat 32 (a.toNat / 2 ^ n)

def shiftArith (a : Word) (n : Nat) : Word := BitVec.ofInt 32 (a.toInt / 2 ^ n)

/-- A word whose bits are given one by one. -/
def wordOf (f : Fin 32 → Bool) : Word := BitVec.ofFnLE f

/-- Bit i of a word, false from 32 on. -/
def bitOf (a : Word) (i : Nat) : Bool := a.getLsbD i

end Sys2Proof.Claims
end

