-- ==== Sys2Proof/Safety.lean ====
section
/-! DEFINITION. What every state of a safe run keeps: the memories stand in canonical form, so that equal memories are equal
data, and a word that the heddle calls owned is owned in the owner's L1 (R190, R195). -/
namespace Sys2Proof.Machine

/-- The local memories of a list of workgroups in canonical form. -/
def wgsWf (ws : List Workgroup) : Bool := ws.all fun w => Memory.wf w.mem && Memory.wf w.memT

def creelsWf (cs : List (EngineId × List Host.Cell)) : Bool := cs.all fun c => Memory.wf c.2

/-- Main memory, screed, host memory, local memories and creels in canonical form, those of state streams too. -/
def State.memWf (s : State) : Bool :=
  Memory.wf s.mem && Memory.wf s.hostMem && wgsWf s.wgs && creelsWf s.creels && s.streams.all fun v => wgsWf v.wgs && creelsWf v.creels

/-- The heddle's state of a word (R195). -/
def heddleWord (s : State) (line : Nat) (i : Fin 32) : WState := (hGet s line).w[i]

/-- A core's L1 word (R190). -/
def l1WordOf (s : State) (core line : Nat) (i : Fin 32) : L1Word := (l1Get s core line).w[i]

/-- Every word that the heddle calls owned stands owned in that core's L1 (R195: the owner holds the latest value). -/
def Owned (s : State) : Prop :=
  ∀ line i x, heddleWord s line i = .O x → ∃ v, l1WordOf s x line i = .own v

/-- What every step keeps. -/
def Sound (s : State) : Prop := s.memWf = true ∧ Owned s

end Sys2Proof.Machine
end

