-- ==== Sys2Proof/Certificates/Slice0/Obligations.lean ====
section
/-! DEFINITION. The statements about the model, from the manual's numbered rules. -/

open Sys2Proof Sys2Proof.Machine Sys2Proof.Claims

/-! ### Lane instructions (R93 to R121) -/

/-- A two-source lane instruction, the modifiers it honours, and its result from the saturate modifier and the two operands. -/
abbrev BinRow := (BitVec 7 → BitVec 7 → Bool → BitVec 7 → Instr) × Allow × (Bool → Word → Word → Word)

/-- Every two-source instruction of a table issues, completes and writes the table's result, with everything else unchanged. -/
def BinRows (rows : List BinRow) : Prop :=
  ∀ r ∈ rows, ∀ (b a : BitVec 7) (n : Bool) (d : BitVec 7) (s : State), Plain s r.2.1 → LaneIssues s [a.toNat, b.toNat] n d.toNat →
    ∃ t, exec (r.1 b a n d) s = .next t ∧
      LaneDone s t 4 [a.toNat, b.toNat] n d.toNat fun l => r.2.2 (satOn s) (s.c.rd a.toNat l) (s.c.rd b.toNat l)

/-- R97, R99: sums, differences, products, minima and maxima of 32-bit integers, with wrapping, saturation and the high halves. -/
def IntegerArithmeticResults : Prop :=
  BinRows [
    (.iadd, { sat := true }, fun sat x y => narrow sat (x.toInt + y.toInt)),
    (.isub, { sat := true }, fun sat x y => narrow sat (x.toInt - y.toInt)),
    (.imul, { sat := true }, fun sat x y => narrow sat (x.toInt * y.toInt)),
    (.imulh, {}, fun _ x y => (x.signExtend 64 * y.signExtend 64).extractLsb' 32 32),
    (.imulhu, {}, fun _ x y => (x.zeroExtend 64 * y.zeroExtend 64).extractLsb' 32 32),
    (.iadds, {}, fun _ x y => narrow true (x.toInt + y.toInt)),
    (.isubs, {}, fun _ x y => narrow true (x.toInt - y.toInt)),
    (.iabsd, {}, fun _ x y => if x.toInt < y.toInt then y - x else x - y),
    (.imin, {}, fun _ x y => BitVec.ofInt 32 (min x.toInt y.toInt)),
    (.imax, {}, fun _ x y => BitVec.ofInt 32 (max x.toInt y.toInt)),
    (.umin, {}, fun _ x y => BitVec.ofNat 32 (min x.toNat y.toNat)),
    (.umax, {}, fun _ x y => BitVec.ofNat 32 (max x.toNat y.toNat))]

/-- R99: the logic instructions, bit by bit. -/
def LogicResults : Prop :=
  BinRows [
    (.and, {}, fun _ x y => wordOf fun i => bitOf x i && bitOf y i),
    (.or, {}, fun _ x y => wordOf fun i => bitOf x i || bitOf y i),
    (.xor, {}, fun _ x y => wordOf fun i => bitOf x i != bitOf y i),
    (.andn, {}, fun _ x y => wordOf fun i => bitOf x i && !bitOf y i),
    (.orn, {}, fun _ x y => wordOf fun i => bitOf x i || !bitOf y i),
    (.xnor, {}, fun _ x y => wordOf fun i => bitOf x i == bitOf y i)]

/-- R97: the immediate forms; an XP widens the immediate to 18 bits. -/
def ImmediateResults : Prop :=
  ∀ r ∈ ([
    (.iaddi, fun x k => BitVec.ofInt 32 (x.toInt + k)),
    (.imuli, fun x k => BitVec.ofInt 32 (x.toInt * k)),
    (.andi, fun x k => wordOf fun i => bitOf x i && bitOf (BitVec.ofInt 32 k) i),
    (.ori, fun x k => wordOf fun i => bitOf x i || bitOf (BitVec.ofInt 32 k) i),
    (.xori, fun x k => wordOf fun i => bitOf x i != bitOf (BitVec.ofInt 32 k) i)] :
      List ((BitVec 7 → BitVec 7 → Bool → BitVec 7 → Instr) × (Word → Int → Word))),
    ∀ (i a : BitVec 7) (n : Bool) (d : BitVec 7) (s : State), s.c.xp.c = 127 → LaneIssues s [a.toNat] n d.toNat →
      ∃ t, exec (r.1 i a n d) s = .next t ∧ LaneDone s t 4 [a.toNat] n d.toNat fun l => r.2 (s.c.rd a.toNat l) (immOf s i)

/-- R98: the shifts, by a register read as n32 or by an immediate; a negative immediate raises 0x01. -/
def ShiftResults : Prop :=
  BinRows [
    (.shl, {}, fun _ x y => shiftLeft x y.toNat),
    (.shr, {}, fun _ x y => shiftRight x y.toNat),
    (.sar, {}, fun _ x y => shiftArith x y.toNat),
    (.rotl, {}, fun _ x y => wordOf fun i => bitOf x ((i.val + 32 - y.toNat % 32) % 32))] ∧
  ∀ r ∈ ([(.shli, shiftLeft), (.shri, shiftRight), (.sari, shiftArith)] :
      List ((BitVec 7 → BitVec 7 → Bool → BitVec 7 → Instr) × (Word → Nat → Word))),
    ∀ (i a : BitVec 7) (n : Bool) (d : BitVec 7) (s : State), s.c.xp.c = 127 →
      (0 ≤ immOf s i → LaneIssues s [a.toNat] n d.toNat →
        ∃ t, exec (r.1 i a n d) s = .next t ∧
          LaneDone s t 4 [a.toNat] n d.toNat fun l => r.2 (s.c.rd a.toNat l) (immOf s i).toNat) ∧
      (immOf s i < 0 → exec (r.1 i a n d) s =
        .next (faultAt s 4 0x01 (if kindVec s.c n d.toNat [a.toNat] then s.c.enabled else s.c.actMask) 0))

/-- R97 to R99: the two-source integer and logic instructions, the immediate forms and the shifts. What t0 holds outside the active
mask, and after a scalar instruction under a false guard, is the model's choice (assumption 29). -/
def Obligations.IntegerLogicAndShiftResults : Prop := IntegerArithmeticResults ∧ LogicResults ∧ ImmediateResults ∧ ShiftResults

/-- A one-source lane instruction, the modifiers it honours, and its result from the saturate modifier and the operand. -/
abbrev UnRow := (BitVec 7 → Bool → BitVec 7 → Instr) × Allow × (Bool → Word → Word)

def UnRows (rows : List UnRow) : Prop :=
  ∀ r ∈ rows, ∀ (a : BitVec 7) (n : Bool) (d : BitVec 7) (s : State), Plain s r.2.1 → LaneIssues s [a.toNat] n d.toNat →
    ∃ t, exec (r.1 a n d) s = .next t ∧ LaneDone s t 4 [a.toNat] n d.toNat fun l => r.2.2 (satOn s) (s.c.rd a.toNat l)

/-- R101, R103: the one-source integer instructions and mov. -/
def UnaryResults : Prop :=
  UnRows [
    (.iabs, { sat := true }, fun sat x => narrow sat (if x.toInt < 0 then -x.toInt else x.toInt)),
    (.ineg, { sat := true }, fun sat x => narrow sat (-x.toInt)),
    (.not, {}, fun _ x => wordOf fun i => !bitOf x i),
    (.popc, {}, fun _ x => BitVec.ofNat 32 (((List.range 32).filter (bitOf x)).length)),
    (.clz, {}, fun _ x => BitVec.ofNat 32 (((List.range 32).reverse.takeWhile fun i => !bitOf x i).length)),
    (.ctz, {}, fun _ x => BitVec.ofNat 32 (((List.range 32).takeWhile fun i => !bitOf x i).length)),
    (.brev, {}, fun _ x => wordOf fun i => bitOf x (31 - i.val)),
    (.bswap, {}, fun _ x => wordOf fun i => bitOf x (8 * (3 - i.val / 8) + i.val % 8)),
    (.mov, {}, fun _ x => x)]

/-- A lane instruction whose last operand comes from C, or from D when no C is given (R95). -/
abbrev TriRow := (BitVec 7 → BitVec 7 → Bool → BitVec 7 → Instr) × Allow × (Bool → Word → Word → Word → Word)

/-- The register of the last operand (R95). -/
def lastOp (s : State) (d : BitVec 7) : Nat := if s.c.xp.c = 127 then d.toNat else s.c.xp.c

def TriRows (rows : List TriRow) : Prop :=
  ∀ r ∈ rows, ∀ (b a : BitVec 7) (n : Bool) (d : BitVec 7) (s : State), modsLegal s.c.xp.e r.2.1 = true →
    (n = true → s.c.xp.c ≠ 127) → LaneIssues s [a.toNat, b.toNat, lastOp s d] n d.toNat →
    ∃ t, exec (r.1 b a n d) s = .next t ∧
      LaneDone s t 4 [a.toNat, b.toNat, lastOp s d] n d.toNat fun l =>
        r.2.2 (satOn s) (s.c.rd a.toNat l) (s.c.rd b.toNat l) (s.c.rd (lastOp s d) l)

/-- R102: bit fields, funnel shifts, multiply-add, lea and sel. -/
def BitFieldResults : Prop :=
  BinRows [
    (.bfx, {}, fun _ x y =>
      let p := y.toNat % 32; let len := min (y.toNat / 256 % 64) 32
      wordOf fun i => len != 0 && bitOf x (min (p + min i.val (len - 1)) 31)),
    (.bfxu, {}, fun _ x y =>
      let p := y.toNat % 32; let len := min (y.toNat / 256 % 64) 32
      wordOf fun i => decide (i.val < len) && bitOf x (p + i.val))] ∧
  TriRows [
    (.bfi, {}, fun _ x y q =>
      let p := y.toNat % 32; let len := min (y.toNat / 256 % 64) 32
      wordOf fun i => if p ≤ i.val ∧ i.val < p + len then bitOf x (i.val - p) else bitOf q i),
    (.fshl, {}, fun _ x y q => wordOf fun i => if y.toNat % 32 ≤ i.val then bitOf x (i.val - y.toNat % 32) else bitOf q (32 + i.val - y.toNat % 32)),
    (.fshr, {}, fun _ x y q => wordOf fun i => if i.val + y.toNat % 32 < 32 then bitOf q (i.val + y.toNat % 32) else bitOf x (i.val + y.toNat % 32 - 32)),
    (.imad, { sat := true }, fun sat x y q => narrow sat (x.toInt * y.toInt + q.toInt))] ∧
  (∀ (b a : BitVec 7) (n : Bool) (d : BitVec 7) (s : State), modsLegal s.c.xp.e {} = true →
    let srcs := [a.toNat, b.toNat] ++ if s.c.xp.c = 127 then [] else [s.c.xp.c]
    LaneIssues s srcs n d.toNat →
    ∃ t, exec (.lea b a n d) s = .next t ∧ LaneDone s t 4 srcs n d.toNat fun l =>
      s.c.rd a.toNat l + shiftLeft (s.c.rd b.toNat l) (if s.c.xp.c = 127 then 2 else (s.c.rd s.c.xp.c l).toNat % 32)) ∧
  (∀ (b a : BitVec 7) (n : Bool) (d : BitVec 7) (s : State), modsLegal s.c.xp.e {} = true →
    let k := if s.c.xp.c = 127 then 0 else s.c.xp.c
    k < 64 → LaneIssues s [a.toNat, b.toNat] n d.toNat →
    ∃ t, exec (.sel b a n d) s = .next t ∧ LaneDone s t 4 [a.toNat, b.toNat] n d.toNat fun l =>
      if s.c.pred k l then s.c.rd a.toNat l else s.c.rd b.toNat l)

/-- The predicates of `t` are those of `u` but for PD in the lanes of `en`; p63 never changes (R33). -/
structure PredSet (u t : State) (pd : Nat) (en : Mask) (v : Lane → Bool) : Prop where
  value  : ∀ l, en.getLsbD l.val = true → t.c.pred pd l = if pd = 63 then true else v l
  others : ∀ k l, k < 64 → k ≠ pd ∨ en.getLsbD l.val = false → t.c.pred k l = u.c.pred k l
  frame  : t = { u with grp := { u.grp with c := { u.c with p := t.c.p } } }

/-- R100: iaddc and isubb write the sum or difference with the carry predicate pC and the carry or borrow out into pC, per enabled
lane, or once for every lane of the active mask (every lane in a handler). -/
def CarryChain : Prop :=
  ∀ r ∈ ([(.iaddc, fun x y k => (BitVec.ofNat 32 (x.toNat + y.toNat + k), decide (2 ^ 32 ≤ x.toNat + y.toNat + k))),
          (.isubb, fun x y k => (BitVec.ofInt 32 ((x.toNat : Int) - y.toNat - k), decide ((x.toNat : Int) - y.toNat - k < 0)))] :
      List ((BitVec 7 → BitVec 7 → Bool → BitVec 7 → Instr) × (Word → Word → Nat → Word × Bool))),
    ∀ (b a : BitVec 7) (n : Bool) (d : BitVec 7) (s : State), s.c.xp.c < 64 → modsLegal s.c.xp.e {} = true →
      LaneIssues s [a.toNat, b.toNat] n d.toNat →
      let res := fun l => r.2 (s.c.rd a.toNat l) (s.c.rd b.toNat l) (if s.c.pred s.c.xp.c l then 1 else 0)
      ∃ u t, exec (r.1 b a n d) s = .next t ∧ LaneDone s u 4 [a.toNat, b.toNat] n d.toNat (fun l => (res l).1) ∧
        if kindVec s.c n d.toNat [a.toNat, b.toNat] then PredSet u t s.c.xp.c s.c.enabled fun l => (res l).2
        else PredSet u t s.c.xp.c (if s.c.goes then (if s.c.inH then BitVec.allOnes 32 else s.c.run.act) else 0)
          fun _ => (res s.c.scalarLane).2

/-- R100 to R103: the one-source integer instructions, the bit-field instructions and the carry chain. What t0 holds outside the active
mask, and after a scalar instruction under a false guard, is the model's choice (assumption 29), and so is the lane in which a scalar sel reads its
predicate (assumption 41). -/
def Obligations.UnaryBitFieldAndCarryResults : Prop := UnaryResults ∧ BitFieldResults ∧ CarryChain

/-- R103, R105: lane access on the scalar unit, predicates to registers and back, and immediates; a predicate number of 64 or more raises 0x02. What t0
holds outside the active mask, in the lanes that wrlane does not write, and after a scalar instruction under a false guard, is the model's choice
(assumption 29), and so is the kind of movi with N, from its D field (assumption 34). -/
def Obligations.MovesAndLaneAccess : Prop :=
  (∀ (b a : BitVec 7) (n : Bool) (d : BitVec 7) (s : State), Plain s {} → Issues s false [(a.toNat, 1), (b.toNat, 1)] (dst n d.toNat 1) →
    s.c.isVec b.toNat = false → n = true ∨ isV d.toNat = false →
    ∃ t, exec (.rdlane b a n d) s = .next t ∧
      ScalDone s t 4 n d.toNat s.c.goes (s.c.rd a.toNat (Fin.ofNat 32 (s.c.rd b.toNat 0).toNat))) ∧
  (∀ (b a : BitVec 7) (n : Bool) (d : BitVec 7) (s : State), Plain s {} → Issues s false [(a.toNat, 1), (b.toNat, 1)] (dst n d.toNat 1) →
    s.c.isVec a.toNat = false → s.c.isVec b.toNat = false → n = true ∨ isS d.toNat = false →
    ∃ t, exec (.wrlane b a n d) s = .next t ∧
      VecDone s t 4 n d.toNat (wordOf fun i => s.c.goes && i.val == (s.c.rd b.toNat 0).toNat % 32) fun _ => s.c.rd a.toNat 0) ∧
  (∀ (a : BitVec 7) (n : Bool) (d : BitVec 7) (s : State), Plain s {} → Issues s false [(a.toNat, 1)] (dst n d.toNat 1) →
    n = true ∨ isV d.toNat = false →
    ∃ t, exec (.rfl a n d) s = .next t ∧ ScalDone s t 4 n d.toNat s.c.goes (s.c.rd a.toNat (lowest s.c.actMask))) ∧
  (∀ (a : BitVec 7) (n : Bool) (d : BitVec 7) (s : State), Plain s {} → Issues s true [] (dst n d.toNat 1) → a.toNat < 64 →
    n = true ∨ isS d.toNat = false →
    ∃ t, exec (.movp a n d) s = .next t ∧
      VecDone s t 4 n d.toNat s.c.enabled fun l => if s.c.pred a.toNat l then 1 else 0) ∧
  (∀ (a : BitVec 7) (n : Bool) (d : BitVec 7) (s : State), Plain s {} → Issues s false [] (dst n d.toNat 1) → a.toNat < 64 →
    n = true ∨ isV d.toNat = false →
    ∃ t, exec (.ptom a n d) s = .next t ∧
      ScalDone s t 4 n d.toNat s.c.goes (wordOf fun i => s.c.actMask.getLsbD i.val && s.c.pred a.toNat i)) ∧
  (∀ (a : BitVec 7) (n : Bool) (d : BitVec 7) (s : State), Plain s {} → s.c.run.pos < 24 → 64 ≤ a.toNat →
    (s.c.inH = false → n = true ∨ isS d.toNat = false → exec (.movp a n d) s = .next (faultAt s 4 0x02 s.c.enabled 0)) ∧
    (n = true ∨ isV d.toNat = false → exec (.ptom a n d) s = .next (faultAt s 4 0x02 s.c.actMask 0))) ∧
  (∀ (i : BitVec 17) (n : Bool) (d : BitVec 7) (s : State), Issues s (isV d.toNat) [] (dst n d.toNat 1) →
    (∀ w, s.c.xpw = some w → w.extractLsb' 15 10 = 0) →
    let v : Word := match s.c.xpw with
      | none => i.signExtend 32
      | some w => w.extractLsb' 0 15 ++ i
    ∃ t, exec (.movi i n d) s = .next t ∧
      if isV d.toNat then VecDone s t 4 n d.toNat s.c.actMask fun _ => v else ScalDone s t 4 n d.toNat true v)

/-- The special registers of R54 and R355 that a group of workgroup `w` on stage `st` reads, index by index: lane l's value. -/
def specialRegs (s : State) (w : Workgroup) (st : Stage) : List (Nat × (Lane → Word)) :=
  let k (x : Nat) : Lane → Word := fun _ => BitVec.ofNat 32 x
  [(0, fun l => BitVec.ofNat 32 l.val), (1, k s.grp.gid.val), (2, k w.wgid.1), (3, k w.wgid.2.1), (4, k w.wgid.2.2), (5, k st.gx),
   (6, k st.gy), (7, k st.gz), (8, k w.ref.stage), (9, k (if w.cls = .shuttle then 0 else 1)), (10, k (w.core / 8)), (11, k st.il),
   (12, fun _ => s.c.icount), (13, fun _ => s.c.npc), (14, fun _ => s.c.parkM), (15, fun _ => s.c.part),
   (22, k (if (part s w.ref.part).world then 1 else 0)), (23, k (w.ref.part.val + 16 * w.ref.tenant.val))]

/-- The special registers that only a handler reads (R54, R355). -/
def handlerRegs (s : State) (w : Workgroup) : List (Nat × Word) :=
  let c := s.c
  let i := c.selLane.toNat
  let f (b : Bool) (n : Nat) : Nat := if b then n else 0
  [(16, c.frame.cause.setWidth 32), (17, c.frame.addr.extractLsb' 0 32), (18, c.frame.addr.extractLsb' 32 32), (19, c.frame.npc),
   (20, c.frame.twin), (21, c.frame.mask), (48, w.ckpt), (49, w.rolls), (50, c.recD.extractLsb' 0 32), (51, c.recD.extractLsb' 32 32),
   (52, c.recS), (53, c.selLane.setWidth 32), (54, (c.lpc[i]?).getD 0),
   (55, BitVec.ofNat 32 (f (c.parkM.getLsbD i) 1 + f (c.waitM.getLsbD i) 2 + f (c.barM.getLsbD i) 4 +
     ((c.barN[i]?).getD 0).toNat * 16 + f (c.exitM.getLsbD i) 256))]

/-- R54, R104, R338, R355: sprd reads every special register, those of lane scope into a vector D, a scalar D raising 0x02, the handler's only in a
handler, where reading one outside raises 0x02, as does reading those of supervisor routines. -/
def SpecialRegisterReads : Prop :=
  ∀ (s : State) (w : Workgroup) (st : Stage), curWg s = some w → curStage s = some st → Plain s {} →
    (∀ r ∈ specialRegs s w st, ∀ (a : BitVec 7) (n : Bool) (d : BitVec 7), a.toNat = r.1 → LaneIssues s [] n d.toNat →
      r.1 = 0 ∨ r.1 = 13 → isV d.toNat = true →
      ∃ t, exec (.sprd a n d) s = .next t ∧ LaneDone s t 4 [] n d.toNat r.2) ∧
    (∀ r ∈ specialRegs s w st, ∀ (a : BitVec 7) (n : Bool) (d : BitVec 7), a.toNat = r.1 → LaneIssues s [] n d.toNat →
      r.1 ≠ 0 → r.1 ≠ 13 →
      ∃ t, exec (.sprd a n d) s = .next t ∧ LaneDone s t 4 [] n d.toNat r.2) ∧
    (∀ (a : BitVec 7) (n : Bool) (d : BitVec 7), a.toNat = 0 ∨ a.toNat = 13 → isV d.toNat = false → LaneIssues s [] n d.toNat →
      exec (.sprd a n d) s = .next (faultAt s 4 0x02 s.c.actMask 0)) ∧
    (∀ (a : BitVec 7) (n : Bool) (d : BitVec 7), 32 ≤ a.toNat → a.toNat < 40 → s.c.sup = false → LaneIssues s [] n d.toNat →
      exec (.sprd a n d) s = .next (faultAt s 4 0x02 (if isV d.toNat then s.c.enabled else s.c.actMask) 0)) ∧
    (∀ r ∈ handlerRegs s w, ∀ (a : BitVec 7) (n : Bool) (d : BitVec 7), a.toNat = r.1 → LaneIssues s [] n d.toNat →
      (s.c.inH = true → ∃ t, exec (.sprd a n d) s = .next t ∧ LaneDone s t 4 [] n d.toNat fun _ => r.2) ∧
      (s.c.inH = false → exec (.sprd a n d) s =
        .next (faultAt s 4 0x02 (if isV d.toNat then s.c.enabled else s.c.actMask) 0)))

/-- R104, R124: spwr writes part, when the layout is valid; an invalid one raises 0x02. -/
def PartAndSelectionWrites : Prop :=
  ∀ (b a : BitVec 7) (s : State), Plain s {} → Issues s false [(b.toNat, 1)] [] → s.c.isVec b.toNat = false →
    let v := s.c.rd b.toNat 0
    (a.toNat = 15 → s.c.goes = true → 1 ≤ v.toNat ∧ v.toNat ≤ 5 →
      ∃ t, exec (.spwr b a) s = .next t ∧ Completes s t 4 .empty ∧ t.c.part = v ∧
        t = { s with grp := { s.grp with c := { counted s t with part := v } } }) ∧
    (a.toNat = 15 → s.c.goes = true → ¬ (1 ≤ v.toNat ∧ v.toNat ≤ 5) →
      exec (.spwr b a) s = .next (faultAt s 4 0x02 s.c.actMask 0)) ∧
    (a.toNat = 15 → s.c.goes = false → ∃ t, exec (.spwr b a) s = .next t ∧ PlainDone s t 4) ∧
    (a.toNat = 53 → s.c.inH = true → s.c.goes = true →
      ∃ t, exec (.spwr b a) s = .next t ∧ Completes s t 4 .empty ∧ t.c.selLane = v.setWidth 5 ∧
        t = { s with grp := { s.grp with c := { counted s t with selLane := t.c.selLane } } }) ∧
    (a.toNat < 48 → a.toNat ≠ 15 → ¬ (24 ≤ a.toNat ∧ a.toNat < 32) → ¬ (40 ≤ a.toNat ∧ a.toNat < 48) →
      exec (.spwr b a) s = .next (faultAt s 4 0x02 s.c.actMask 0))

/-- R355, R356: a handler's writes to the selected lane: its lpc, which ends its wait, and its park bit; every other lane stands as
before. -/
def HandlerLaneWrites : Prop :=
  ∀ (b a : BitVec 7) (s : State), Plain s {} → Issues s false [(b.toNat, 1)] [] → s.c.isVec b.toNat = false → s.c.inH = true →
    s.c.goes = true →
    let v := s.c.rd b.toNat 0
    let i := s.c.selLane.toNat
    a.toNat = 54 ∨ a.toNat = 55 ∧ v.getLsbD 1 = false ∧ v.getLsbD 2 = false ∧ s.c.exitM.getLsbD i = false →
      ∃ t, exec (.spwr b a) s = .next t ∧ Completes s t 4 .empty ∧
        (∀ (l : Lane), t.c.lpc[l] = if a.toNat = 54 ∧ l.val = i then v else s.c.lpc[l]) ∧
        (∀ (l : Lane), t.c.parkM.getLsbD l.val = if a.toNat = 55 ∧ l.val = i then v.getLsbD 0 else s.c.parkM.getLsbD l.val) ∧
        (∀ (l : Lane), t.c.waitM.getLsbD l.val = (s.c.waitM.getLsbD l.val && l.val != i)) ∧
        (∀ (l : Lane), t.c.barM.getLsbD l.val = (s.c.barM.getLsbD l.val && l.val != i)) ∧
        t = { s with grp := { s.grp with c := { counted s t with lpc := t.c.lpc, parkM := t.c.parkM, waitM := t.c.waitM,
                                                                  barM := t.c.barM, migM := t.c.migM, arrM := t.c.arrM } } }

/-- R54, R104, R124, R338, R355, R356: sprd, and spwr, which writes part and, in a handler, the selection and the selected lane, and raises 0x02
elsewhere. What t0 holds outside the active mask, and after a scalar instruction under a false guard, is the model's choice (assumption 29), and so is
the kind of sprd under N, from its D field (assumption 34). -/
def Obligations.SpecialRegisters : Prop := SpecialRegisterReads ∧ PartAndSelectionWrites ∧ HandlerLaneWrites

/-! ### Comparisons and predicate logic (R106 to R109) -/

/-- The value that an FP instruction writes under NG and AC (R106). -/
def underNgAc (ng ac cond prior : Bool) : Bool :=
  let v := if ng then !cond else cond
  if ac then prior && v else v

/-- An FP instruction on sources `srcs` completes with condition `cond`, per enabled lane, or once for every lane in a handler from
lane 0 (R106, R353). -/
def CompareDone (s t : State) (g x : Bool) (p : BitVec 6) (cond : Lane → Bool) : Prop :=
  PredDone s t p.toNat (if s.c.inH then (if s.c.goes then BitVec.allOnes 32 else 0) else s.c.enabled) fun l =>
    let m : Lane := if s.c.inH then 0 else l
    underNgAc g x (cond m) (s.c.pred p.toNat m)

/-- R107: the integer comparisons of two registers or of a register and a signed 7-bit immediate. -/
def IntegerComparisons : Prop :=
  ∀ r ∈ ([(.eq, .eqImm, fun x y => x == y), (.ne, .neImm, fun x y => x != y),
          (.lt, .ltImm, fun x y => decide (x.toInt < y.toInt)), (.le, .leImm, fun x y => decide (x.toInt ≤ y.toInt)),
          (.ltu, .ltuImm, fun x y => decide (x.toNat < y.toNat)), (.leu, .leuImm, fun x y => decide (x.toNat ≤ y.toNat)),
          (.tst, .tstImm, fun x y => (List.range 32).any fun i => bitOf x i && bitOf y i),
          (.tstz, .tstzImm, fun x y => (List.range 32).all fun i => !(bitOf x i && bitOf y i))] :
      List ((BitVec 7 → BitVec 7 → Bool → Bool → BitVec 6 → Instr) × (BitVec 7 → BitVec 7 → Bool → Bool → BitVec 6 → Instr) ×
        (Word → Word → Bool))),
    (∀ (b a : BitVec 7) (g x : Bool) (p : BitVec 6) (s : State), Plain s {} →
      Issues s (s.c.isVec a.toNat || s.c.isVec b.toNat) [(a.toNat, 1), (b.toNat, 1)] [] →
      ∃ t, exec (r.1 b a g x p) s = .next t ∧ CompareDone s t g x p fun l => r.2.2 (s.c.rd a.toNat l) (s.c.rd b.toNat l)) ∧
    (∀ (i a : BitVec 7) (g x : Bool) (p : BitVec 6) (s : State), Plain s {} → Issues s (s.c.isVec a.toNat) [(a.toNat, 1)] [] →
      ∃ t, exec (r.2.1 i a g x p) s = .next t ∧ CompareDone s t g x p fun l => r.2.2 (s.c.rd a.toNat l) (BitVec.ofInt 32 i.toInt))

/-- R108: the comparisons of two f32 values: false for a NaN but for fne and fun, with the two zeros equal. -/
def FloatComparisons : Prop :=
  ∀ r ∈ ([(.feq, fun nan lt gt => !nan && !lt && !gt), (.fne, fun nan lt gt => nan || lt || gt), (.flt, fun nan lt _ => !nan && lt),
          (.fle, fun nan _ gt => !nan && !gt), (.fgt, fun nan _ gt => !nan && gt), (.fge, fun nan lt _ => !nan && !lt),
          (.funord, fun nan _ _ => nan), (.ford, fun nan _ _ => !nan)] :
      List ((BitVec 7 → BitVec 7 → Bool → Bool → BitVec 6 → Instr) × (Bool → Bool → Bool → Bool))),
    ∀ (b a : BitVec 7) (g x : Bool) (p : BitVec 6) (s : State), Plain s { ftz := true } →
      Issues s (s.c.isVec a.toNat || s.c.isVec b.toNat) [(a.toNat, 1), (b.toNat, 1)] [] →
      let val := fun (r : Nat) (l : Lane) => fF32.read (s.c.xp.e / 8 % 2 == 1) (s.c.rd r l).toNat
      ∃ t, exec (r.1 b a g x p) s = .next t ∧ CompareDone s t g x p fun l =>
        r.2 ((val a.toNat l).isNan || (val b.toNat l).isNan) ((val a.toNat l).lt (val b.toNat l)) ((val b.toNat l).lt (val a.toNat l))

/-- R109: predicate logic. -/
def PredicateLogic : Prop :=
  (∀ r ∈ ([(.pand, fun x y => x && y), (.por, fun x y => x || y), (.pxor, fun x y => x != y), (.pandn, fun x y => x && !y)] :
      List ((BitVec 7 → BitVec 7 → Bool → Bool → BitVec 6 → Instr) × (Bool → Bool → Bool))),
    ∀ (b a : BitVec 7) (g x : Bool) (p : BitVec 6) (s : State), Plain s {} → Issues s false [] [] → a.toNat < 64 → b.toNat < 64 →
      ∃ t, exec (r.1 b a g x p) s = .next t ∧ CompareDone s t g x p fun l => r.2 (s.c.pred a.toNat l) (s.c.pred b.toNat l)) ∧
  (∀ r ∈ ([(.pnot, fun x => !x), (.pmov, fun x => x)] : List ((BitVec 7 → Bool → Bool → BitVec 6 → Instr) × (Bool → Bool))),
    ∀ (a : BitVec 7) (g x : Bool) (p : BitVec 6) (s : State), Plain s {} → Issues s false [] [] → a.toNat < 64 →
      ∃ t, exec (r.1 a g x p) s = .next t ∧ CompareDone s t g x p fun l => r.2 (s.c.pred a.toNat l)) ∧
  (∀ r ∈ ([(.pclr, false), (.pset, true)] : List ((Bool → Bool → BitVec 6 → Instr) × Bool)),
    ∀ (g x : Bool) (p : BitVec 6) (s : State), Plain s {} → Issues s false [] [] →
      ∃ t, exec (r.1 g x p) s = .next t ∧ CompareDone s t g x p fun _ => r.2) ∧
  (∀ (b a : BitVec 7) (g x : Bool) (p : BitVec 6) (s : State), Plain s {} → s.c.run.pos < 24 →
    (64 ≤ a.toNat ∨ 64 ≤ b.toNat → ∀ i ∈ [Instr.pand b a g x p, .por b a g x p, .pxor b a g x p, .pandn b a g x p],
      exec i s = .next (faultAt s 4 0x02 s.c.enabled 0)) ∧
    (64 ≤ a.toNat → ∀ i ∈ [Instr.pnot a g x p, .pmov a g x p], exec i s = .next (faultAt s 4 0x02 s.c.enabled 0)))

/-- R106 to R109: comparisons of integers and of f32 values, and predicate logic, under NG and AC; a predicate number of 64 or more raises 0x02. In a
handler, where the sources of predicate logic and the prior PD of AC are read in lane 0 is the model's choice (assumption 33). -/
def Obligations.Comparisons : Prop := IntegerComparisons ∧ FloatComparisons ∧ PredicateLogic

/-! ### Floating point (R69 to R75, R110 to R121) -/

/-- A two-source float instruction, the modifiers it honours, and its result from the modifiers and the two operands. -/
abbrev FloatRow := (BitVec 7 → BitVec 7 → Bool → BitVec 7 → Instr) × Allow × (Mods → Word → Word → Word)

def FloatRows (rows : List FloatRow) : Prop :=
  ∀ r ∈ rows, ∀ (b a : BitVec 7) (n : Bool) (d : BitVec 7) (s : State), Plain s r.2.1 → LaneIssues s [a.toNat, b.toNat] n d.toNat →
    ∃ t, exec (r.1 b a n d) s = .next t ∧
      LaneDone s t 4 [a.toNat, b.toNat] n d.toNat fun l => r.2.2 (modsOf s.c.xp.e) (s.c.rd a.toNat l) (s.c.rd b.toNat l)

/-- A code of a format: an exact function of the exact values of operand codes, rounded once under the modifiers (R70 to R75). -/
def rounded (f : FloatFmt) (m : Mods) (v : FVal) : Nat := f.result m.rm m.sat m.ftz v

/-- One result from two f32 operands. -/
def f32Of (g : Mods → FVal → FVal → FVal) (m : Mods) (x y : Word) : Word :=
  BitVec.ofNat 32 (rounded fF32 m (g m (fF32.read m.ftz x.toNat) (fF32.read m.ftz y.toNat)))

/-- The two halves of a word, each from the halves of the operands alone (R112). -/
def halvesOf (f : Half → Half → Half) (x y : Word) : Word :=
  (f (x.extractLsb' 16 16) (y.extractLsb' 16 16) ++ f (x.extractLsb' 0 16) (y.extractLsb' 0 16) : BitVec 32)

def halfOf (f : FloatFmt) (g : Mods → FVal → FVal → FVal) (m : Mods) (x y : Half) : Half :=
  BitVec.ofNat 16 (rounded f m (g m (f.read m.ftz x.toNat) (f.read m.ftz y.toNat)))

/-- IEEE minimum or maximum, or with `number` minimumNumber or maximumNumber: an input unchanged but for the flush of a subnormal,
-0 below +0, and the canonical NaN (R71, R110). -/
def extremum (f : FloatFmt) (number wantMax : Bool) (m : Mods) (x y : Nat) : Nat :=
  let a := f.read m.ftz x
  let b := f.read m.ftz y
  if a.isNan && b.isNan || !number && (a.isNan || b.isNan) then f.nanC
  else if a.isNan then f.flushBits m.ftz y
  else if b.isNan then f.flushBits m.ftz x
  else if (if wantMax then a.ltZ b else b.ltZ a) then f.flushBits m.ftz y else f.flushBits m.ftz x

/-- R110: fadd, fsub, fmul, the extrema and the sign copy of f32. -/
def FloatArithmetic : Prop :=
  FloatRows [
    (.fadd, { rm := true, sat := true, ftz := true }, f32Of fun m a b => FVal.add m.rm a b),
    (.fsub, { rm := true, sat := true, ftz := true }, f32Of fun m a b => FVal.add m.rm a b.neg),
    (.fmul, { rm := true, sat := true, ftz := true }, f32Of fun _ a b => a.mul b),
    (.fmin, { ftz := true }, fun m x y => BitVec.ofNat 32 (extremum fF32 false false m x.toNat y.toNat)),
    (.fmax, { ftz := true }, fun m x y => BitVec.ofNat 32 (extremum fF32 false true m x.toNat y.toNat)),
    (.fminn, { ftz := true }, fun m x y => BitVec.ofNat 32 (extremum fF32 true false m x.toNat y.toNat)),
    (.fmaxn, { ftz := true }, fun m x y => BitVec.ofNat 32 (extremum fF32 true true m x.toNat y.toNat)),
    (.fcpsgn, {}, fun _ x y => wordOf fun i => if i.val = 31 then bitOf y 31 else bitOf x i)]

/-- R112: the packed-half instructions: each half computed and rounded alone in its format. -/
def PackedHalfArithmetic : Prop :=
  FloatRows [
    (.hadd2, { rm := true, sat := true, ftz := true }, fun m => halvesOf (halfOf fF16 (fun m a b => FVal.add m.rm a b) m)),
    (.hsub2, { rm := true, sat := true, ftz := true }, fun m => halvesOf (halfOf fF16 (fun m a b => FVal.add m.rm a b.neg) m)),
    (.hmul2, { rm := true, sat := true, ftz := true }, fun m => halvesOf (halfOf fF16 (fun _ a b => a.mul b) m)),
    (.hmax2, { ftz := true }, fun m => halvesOf fun x y => BitVec.ofNat 16 (extremum fF16 false true m x.toNat y.toNat)),
    (.badd2, { rm := true, sat := true, ftz := true }, fun m => halvesOf (halfOf fBF16 (fun m a b => FVal.add m.rm a b) m)),
    (.bsub2, { rm := true, sat := true, ftz := true }, fun m => halvesOf (halfOf fBF16 (fun m a b => FVal.add m.rm a b.neg) m)),
    (.bmul2, { rm := true, sat := true, ftz := true }, fun m => halvesOf (halfOf fBF16 (fun _ a b => a.mul b) m)),
    (.bmax2, { ftz := true }, fun m => halvesOf fun x y => BitVec.ofNat 16 (extremum fBF16 false true m x.toNat y.toNat))]

/-- A fused instruction: the last operand from C or D. -/
abbrev FusedRow := (BitVec 7 → BitVec 7 → Bool → BitVec 7 → Instr) × Allow × (Mods → Word → Word → Word → Word)

/-- a * b + q in f32, the product and the addend with the signs given. -/
def fusedOf (np nq : Bool) (m : Mods) (x y q : Word) : Word :=
  let p := (fF32.read m.ftz x.toNat).mul (fF32.read m.ftz y.toNat)
  let c := fF32.read m.ftz q.toNat
  BitVec.ofNat 32 (rounded fF32 m (FVal.add m.rm (if np then p.neg else p) (if nq then c.neg else c)))

def fusedHalf (f : FloatFmt) (m : Mods) (x y q : Half) : Half :=
  BitVec.ofNat 16 (rounded f m (FVal.add m.rm ((f.read m.ftz x.toNat).mul (f.read m.ftz y.toNat)) (f.read m.ftz q.toNat)))

def fusedHalves (f : FloatFmt) (m : Mods) (x y q : Word) : Word :=
  (fusedHalf f m (x.extractLsb' 16 16) (y.extractLsb' 16 16) (q.extractLsb' 16 16) ++
    fusedHalf f m (x.extractLsb' 0 16) (y.extractLsb' 0 16) (q.extractLsb' 0 16) : BitVec 32)

/-- The scale that two E8M0 bytes give: 2^(b0 + b1 - 254), and NaN when either is 0xFF (R77, R169). -/
def scaleOf (b : Half) : FVal :=
  let x := (b.extractLsb' 0 8).toNat
  let y := (b.extractLsb' 8 8).toNat
  if x = 255 ∨ y = 255 then .nan else .fin false (2 ^ (x + y)) (2 ^ 254)

/-- perm8: byte k of the result by nibble k of the selector, from the eight bytes of a and b (R118). -/
def perm8Of (x y sel : Word) : Word :=
  let src : DWord := y ++ x
  let byte (k : Nat) : Byte :=
    let nib := (sel.extractLsb' (4 * k) 4).toNat
    let v := src.extractLsb' (8 * (nib % 8)) 8
    if nib < 8 then v else if v.getLsbD 7 then 0xFF else 0
  (byte 3 ++ byte 2 ++ byte 1 ++ byte 0 : BitVec 32)

/-- The four signed byte products of two words. -/
def byteProducts (x y : Word) : Int :=
  (x.extractLsb' 0 8).toInt * (y.extractLsb' 0 8).toInt + (x.extractLsb' 8 8).toInt * (y.extractLsb' 8 8).toInt +
  (x.extractLsb' 16 8).toInt * (y.extractLsb' 16 8).toInt + (x.extractLsb' 24 8).toInt * (y.extractLsb' 24 8).toInt

/-- R111, R118, R169: the instructions whose last operand is C or D: fused multiply-adds, dot products, perm8, scale-accumulate. -/
def FusedForms : Prop :=
  (∀ r ∈ ([
      (.ffma, { rm := true, sat := true, ftz := true }, fusedOf false false),
      (.ffms, { rm := true, sat := true, ftz := true }, fusedOf false true),
      (.fnma, { rm := true, sat := true, ftz := true }, fusedOf true false),
      (.fnms, { rm := true, sat := true, ftz := true }, fusedOf true true),
      (.hfma2, { rm := true, sat := true, ftz := true }, fusedHalves fF16),
      (.bfma2, { rm := true, sat := true, ftz := true }, fusedHalves fBF16),
      (.idp4, { sat := true }, fun m x y q => narrow m.sat (q.toInt + byteProducts x y)),
      (.hdp2, { rm := true, sat := true, ftz := true }, fun m x y q =>
        let h (w : Word) (k : Nat) := fF16.read m.ftz (w.extractLsb' (16 * k) 16).toNat
        BitVec.ofNat 32 (rounded fF32 m (sumVals m.rm [(h x 0).mul (h y 0), (h x 1).mul (h y 1), fF32.read m.ftz q.toNat]))),
      (.perm8, {}, fun _ => perm8Of),
      (.scacc, { rm := true, sat := true, ftz := true }, fun m x y q =>
        BitVec.ofNat 32 (rounded fF32 m (sumVals m.rm
          [fF32.read m.ftz q.toNat, (fF32.read m.ftz x.toNat).mul (scaleOf (y.extractLsb' 0 16))]))),
      (.scaci, { rm := true, sat := true, ftz := true }, fun m x y q =>
        BitVec.ofNat 32 (rounded fF32 m (sumVals m.rm [fF32.read m.ftz q.toNat, (ofInt x.toInt).mul (scaleOf (y.extractLsb' 0 16))])))] :
      List FusedRow),
    ∀ (b a : BitVec 7) (n : Bool) (d : BitVec 7) (s : State), modsLegal s.c.xp.e r.2.1 = true →
      (n = true → s.c.xp.c ≠ 127) → LaneIssues s [a.toNat, b.toNat, lastOp s d] n d.toNat →
      ∃ t, exec (r.1 b a n d) s = .next t ∧
        LaneDone s t 4 [a.toNat, b.toNat, lastOp s d] n d.toNat fun l =>
          r.2.2 (modsOf s.c.xp.e) (s.c.rd a.toNat l) (s.c.rd b.toNat l) (s.c.rd (lastOp s d) l)) ∧
  (∀ r ∈ ([(.scacc2, false, fun m (x : Word) => fF32.read m.ftz x.toNat), (.scaci2, true, fun _ (x : Word) => ofInt x.toInt)] :
      List ((BitVec 7 → BitVec 7 → Bool → BitVec 7 → Instr) × Bool × (Mods → Word → FVal))),
    ∀ (b a d : BitVec 7) (s : State), s.c.xp.c ≠ 127 → modsLegal s.c.xp.e { rm := true, sat := true, ftz := true } = true →
      (r.2.1 = true → feature s 0 = true) → LaneIssues s [a.toNat, b.toNat, s.c.xp.c, d.toNat] false d.toNat →
      ∃ t, exec (r.1 b a false d) s = .next t ∧
        LaneDone s t 4 [a.toNat, b.toNat, s.c.xp.c, d.toNat] false d.toNat fun l =>
          let m := modsOf s.c.xp.e
          let y := s.c.rd b.toNat l
          BitVec.ofNat 32 (rounded fF32 m (sumVals m.rm
            [fF32.read m.ftz (s.c.rd d.toNat l).toNat, (r.2.2 m (s.c.rd a.toNat l)).mul (scaleOf (y.extractLsb' 0 16)),
             (r.2.2 m (s.c.rd s.c.xp.c l)).mul (scaleOf (y.extractLsb' 16 16))])))

/-- R110 to R112, R118, R169: float arithmetic on f32 values, on packed halves, and fused with a third operand. What t0 holds outside the active
mask, and after a scalar instruction under a false guard, is the model's choice (assumption 29). -/
def Obligations.FloatResults : Prop := FloatArithmetic ∧ PackedHalfArithmetic ∧ FusedForms

/-- The class bit of R120. -/
def classBit (x : Word) : Nat :=
  let e := (x.extractLsb' 23 8).toNat
  let f := (x.extractLsb' 0 23).toNat
  match e == 255, e == 0, f == 0, bitOf x 31 with
  | true, _, true, true => 0
  | false, false, _, true => 1
  | false, true, false, true => 2
  | false, true, true, true => 3
  | false, true, true, false => 4
  | false, true, false, false => 5
  | false, false, _, false => 6
  | true, _, true, false => 7
  | true, _, false, _ => if bitOf x 22 then 9 else 8

/-- fgetexp of R120: floor(log2 |a|). -/
def exponentOf (ftz : Bool) (x : Word) : Word :=
  let e := (x.extractLsb' 23 8).toNat
  let f := (x.extractLsb' 0 23).toNat
  if e = 255 then 0x7FFFFFFF
  else if e ≠ 0 then BitVec.ofInt 32 ((e : Int) - 127)
  else if f = 0 ∨ ftz = true then 0x80000000
  else BitVec.ofInt 32 ((Nat.log2 f : Int) - 149)

/-- A value rounded to an integral one, its sign kept (R119). -/
def integralOf (mode : RMode) : FVal → FVal
  | .fin neg num den =>
    let q := num / den
    let r := num % den
    let up : Bool := match mode with
      | .rn => decide (den < 2 * r) || (decide (2 * r = den) && q % 2 == 1)
      | .rz => false
      | .rd => neg && r != 0
      | .ru => !neg && r != 0
    .fin neg (if up then q + 1 else q) 1
  | v => v

/-- R115, R117, R119, R120: one-source float instructions, packing, scaling by powers of two and conversions. Beyond 1,000 in either
direction the exponent that fldexp adds no longer changes the rounded result. What t0 holds outside the active
mask, and after a scalar instruction under a false guard, is the model's choice (assumption 29); what an integer beyond the range of e4m3, e3m2, e2m3,
e2m1 or dm8 converts to is another (assumption 38). What values `convert` gives is stated in Obligations.RoundedValues. -/
def Obligations.FloatConversions : Prop :=
  (∀ r ∈ ([
      (.frndn, { ftz := true }, fun m x => BitVec.ofNat 32 (fF32.result .rn false false (integralOf .rn (fF32.read m.ftz x.toNat)))),
      (.frndz, { ftz := true }, fun m x => BitVec.ofNat 32 (fF32.result .rn false false (integralOf .rz (fF32.read m.ftz x.toNat)))),
      (.frndd, { ftz := true }, fun m x => BitVec.ofNat 32 (fF32.result .rn false false (integralOf .rd (fF32.read m.ftz x.toNat)))),
      (.frndu, { ftz := true }, fun m x => BitVec.ofNat 32 (fF32.result .rn false false (integralOf .ru (fF32.read m.ftz x.toNat)))),
      (.ffrac, { rm := true, ftz := true }, fun m x =>
        let v := fF32.read m.ftz x.toNat
        BitVec.ofNat 32 (rounded fF32 m (FVal.add m.rm v (integralOf .rd v).neg))),
      (.fclass, {}, fun _ x => BitVec.ofNat 32 (2 ^ classBit x)),
      (.fgetexp, { ftz := true }, fun m x => exponentOf m.ftz x),
      (.upkhl, { ftz := true }, fun m x => BitVec.ofNat 32 (fF32.result .rn false m.ftz (fF16.read m.ftz (x.extractLsb' 0 16).toNat))),
      (.upkhh, { ftz := true }, fun m x => BitVec.ofNat 32 (fF32.result .rn false m.ftz (fF16.read m.ftz (x.extractLsb' 16 16).toNat))),
      (.upkbl, { ftz := true }, fun m x => BitVec.ofNat 32 (fF32.result .rn false m.ftz (fBF16.read m.ftz (x.extractLsb' 0 16).toNat))),
      (.upkbh, { ftz := true }, fun m x => BitVec.ofNat 32 (fF32.result .rn false m.ftz (fBF16.read m.ftz (x.extractLsb' 16 16).toNat)))] :
      List ((BitVec 7 → Bool → BitVec 7 → Instr) × Allow × (Mods → Word → Word))),
    ∀ (a : BitVec 7) (n : Bool) (d : BitVec 7) (s : State), Plain s r.2.1 → LaneIssues s [a.toNat] n d.toNat →
      ∃ t, exec (r.1 a n d) s = .next t ∧ LaneDone s t 4 [a.toNat] n d.toNat fun l => r.2.2 (modsOf s.c.xp.e) (s.c.rd a.toNat l)) ∧
  FloatRows [
    (.pk2h, { rm := true, sat := true, ftz := true }, fun m x y =>
      (BitVec.ofNat 16 (rounded fF16 m (fF32.read m.ftz y.toNat)) ++ BitVec.ofNat 16 (rounded fF16 m (fF32.read m.ftz x.toNat)) : BitVec 32)),
    (.pk2bf, { rm := true, sat := true, ftz := true }, fun m x y =>
      (BitVec.ofNat 16 (rounded fBF16 m (fF32.read m.ftz y.toNat)) ++ BitVec.ofNat 16 (rounded fBF16 m (fF32.read m.ftz x.toNat)) : BitVec 32)),
    (.scmul, { rm := true, sat := true, ftz := true }, fun m x y =>
      BitVec.ofNat 32 (rounded fF32 m ((fF32.read m.ftz x.toNat).mul (scaleOf (y.extractLsb' 0 16))))),
    (.fldexp, { rm := true, sat := true, ftz := true }, fun m x y =>
      BitVec.ofNat 32 (rounded fF32 m ((fF32.read m.ftz x.toNat).mul (scaled false 1 (max (-1000) (min 1000 y.toInt))))))] ∧
  (∀ (r : BitVec 2) (sf df : BitVec 4) (a : BitVec 7) (n : Bool) (d : BitVec 7) (s : State),
    Plain s { sat := !(decide (5 ≤ df.toNat ∧ df.toNat ≤ 7)), ftz := true, bs := decide (fmtWidth df.toNat ≤ 8) } →
    (s.c.xp.e / 32 % 2 = 1 → n = false) → LaneIssues s [a.toNat] n d.toNat →
    ∃ t, exec (.cvt r sf df a n d) s = .next t ∧ LaneDone s t 4 [a.toNat] n d.toNat fun l =>
      let m := modsOf s.c.xp.e
      let v := convert df.toNat sf.toNat (rmodeOf r.toNat) m.sat m.ftz (s.c.rd a.toNat l).toNat
      if m.bs then wordOf fun i => if i.val / 8 = m.byte then v.testBit (i.val % 8) else bitOf (s.c.rd d.toNat l) i
      else BitVec.ofNat 32 v)

/-! ### Exact values and their rounding (R65, R67, R69, R70, R73, R76, R78 to R82, R113) -/

/-- Exponent and fraction bits of a float format's code (R65, R69, R76). -/
def floatFields : Nat → Option (Nat × Nat)
  | 0 => some (8, 23)
  | 1 => some (5, 10)
  | 2 => some (8, 7)
  | 3 => some (5, 2)
  | 4 => some (4, 3)
  | 5 => some (3, 2)
  | 6 => some (2, 3)
  | 7 => some (2, 1)
  | _ => none

/-- Signedness and width of an integer format's code (R65). -/
def intFields : Nat → Option (Bool × Nat)
  | 9 => some (true, 32)
  | 10 => some (false, 32)
  | 11 => some (true, 16)
  | 12 => some (false, 16)
  | 13 => some (true, 8)
  | 14 => some (false, 8)
  | 15 => some (true, 4)
  | _ => none

/-- The magnitude that exponent and fraction fields give, zero and the subnormals included (R69, R76). -/
def fieldMag (ew fw c : Nat) : ℚ :=
  let e := c / 2 ^ fw % 2 ^ ew
  ((if e = 0 then c % 2 ^ fw else 2 ^ fw + c % 2 ^ fw : Nat) : ℚ) * 2 ^ (((max e 1 : Nat) : ℤ) - (2 ^ (ew - 1) - 1) - fw)

/-- The value of a dm8 byte that is neither a NaN nor an infinity, from the number of bits behind its marker (R78). -/
def dm8Real (c : Nat) : ℚ :=
  let p := c % 128
  let w := Nat.log2 p
  let ew := if w = 6 then 0 else if w = 5 ∨ w = 1 then 1 else 2
  let fw := w - ew
  let e := p / 2 ^ fw % 2 ^ ew
  let top : Nat := if w = 6 then 0 else if w = 5 then 1 else if w = 1 then 8 else 2 * (6 - w) - 2 + e % 2
  let down : Bool := if w = 5 ∨ w = 1 then e = 1 else 2 ≤ e
  if p = 0 then 0
  else (if c < 128 then 1 else -1) * (1 + 9 * (p % 2 ^ fw : Nat) / 2 ^ fw) * 10 ^ (if down then -(top : ℤ) else top)

/-- The codes of a float format or of dm8 that stand for numbers, and the numbers. -/
def finiteCode (f c : Nat) : Prop :=
  match floatFields f with
  | some (ew, fw) => c < 2 ^ (ew + fw + 1) ∧ ¬ (f < 4 ∧ c / 2 ^ fw % 2 ^ ew = 2 ^ ew - 1) ∧ ¬ (f = 4 ∧ c % 128 = 127)
  | none => c < 256 ∧ c ≠ 0x80 ∧ c % 128 ≠ 1

def codeValue (f c : Nat) : ℚ :=
  match floatFields f with
  | some (ew, fw) => if c / 2 ^ (ew + fw) % 2 = 1 then -fieldMag ew fw c else fieldMag ew fw c
  | none => dm8Real c

/-- The exact value of an operand. -/
inductive ExactValue
  | nan
  | inf (neg : Bool)
  | num (neg : Bool) (mag : ℚ)

def ExactValue.signed : ExactValue → ℚ
  | .num neg mag => if neg then -mag else mag
  | _ => 0

/-- The low bits of an operand in a format; under the flush modifier a subnormal of f32, f16 or bf16 reads as zero of its sign (R70, R82). -/
def exactOf (f : Nat) (ftz : Bool) (x : Nat) : ExactValue :=
  match floatFields f, intFields f with
  | some (ew, fw), _ =>
    let c := x % 2 ^ (ew + fw + 1)
    let neg : Bool := c / 2 ^ (ew + fw) = 1
    let e := c / 2 ^ fw % 2 ^ ew
    if f < 4 ∧ e = 2 ^ ew - 1 then (if c % 2 ^ fw = 0 then .inf neg else .nan)
    else if f = 4 ∧ c % 128 = 127 then .nan
    else .num neg (if ftz = true ∧ f < 3 ∧ e = 0 then 0 else fieldMag ew fw c)
  | none, some (signed, w) =>
    let n : ℤ := if signed then (BitVec.ofNat w x).toInt else x % 2 ^ w
    .num (n < 0) |(n : ℚ)|
  | none, none =>
    let c := x % 256
    if c = 0x80 then .nan else if c % 128 = 1 then .inf (128 ≤ c) else .num (128 ≤ c) |dm8Real c|

/-- The finite code that a mode chooses for a number within the finite range: the nearest one, a tie going to the code whose bit 0 is 0, or the neighbour
in the mode's direction (R73, R80). -/
def Chosen (mode : RMode) (f : Nat) (x : ℚ) (c : Nat) : Prop :=
  let v := codeValue f
  finiteCode f c ∧ ∀ k, finiteCode f k → match mode with
    | .rn => |x - v c| < |x - v k| ∨ |x - v c| = |x - v k| ∧ (v k = v c ∨ c % 2 = 0 ∨ k % 2 = 1)
    | .rz => |v c| ≤ |x| ∧ 0 ≤ v c * x ∧ (|v k| ≤ |x| → 0 ≤ v k * x → |v k| ≤ |v c|)
    | .rd => v c ≤ x ∧ (v k ≤ x → v k ≤ v c)
    | .ru => x ≤ v c ∧ (x ≤ v k → v c ≤ v k)

/-- The mode rounds away from zero on the side of a sign. -/
def awayMode (mode : RMode) (neg : Bool) : Bool :=
  match mode with
  | .rn => false
  | .rz => false
  | .rd => neg
  | .ru => !neg

/-- A code of magnitude `m` with a sign, the code of the largest finite magnitude, and its last place (R69, R76). -/
def withSign (ew fw : Nat) (neg : Bool) (m : Nat) : Nat := m + if neg then 2 ^ (ew + fw) else 0

def bigCode (f ew fw : Nat) : Nat := if f < 4 then (2 ^ ew - 1) * 2 ^ fw - 1 else if f = 4 then 0x7E else 2 ^ (ew + fw) - 1

def topStep (f ew fw : Nat) : ℚ := 2 ^ ((if f < 4 then (2 : ℤ) ^ ew - 2 else 2 ^ ew - 1) - (2 ^ (ew - 1) - 1) - fw)

/-- A value in a float format (R70, R73, R76, R82): the range bit saturates f32, f16 and bf16, and lets e5m2 and e4m3 overflow; an integer follows R73. -/
def InFloat (f ew fw : Nat) (mode : RMode) (range ftz whole : Bool) (v : ExactValue) (c : Nat) : Prop :=
  let inf := (2 ^ ew - 1) * 2 ^ fw
  let big := bigCode f ew fw
  match v with
  | .nan => c = if f < 3 then inf + 2 ^ (fw - 1) else if f = 3 then 0x7E else if f = 4 then 0x7F else 0
  | .inf neg => c = withSign ew fw neg (if f < 4 then inf else if f = 4 ∧ range = true then 0x7F else big)
  | .num neg mag =>
    let top := fieldMag ew fw big
    if ftz = true ∧ f < 3 ∧ 0 < mag ∧ mag < fieldMag ew fw (2 ^ fw) then c = withSign ew fw neg 0
    else if top < mag then
      let above := awayMode mode neg = true ∨ mode = .rn ∧ top + topStep f ew fw / 2 ≤ mag
      (above → c = withSign ew fw neg (
        if f < 3 then (if range then big else inf) else if f = 3 then (if range || whole then inf else big)
        else if f = 4 ∧ range = true then 0x7F else big)) ∧
      (¬ above → c = withSign ew fw neg big)
    else Chosen mode f v.signed c ∧ (c / 2 ^ (ew + fw) = 1 ↔ neg = true)

/-- A value in dm8 (R80). -/
def InDm8 (mode : RMode) (range : Bool) (v : ExactValue) (c : Nat) : Prop :=
  match v with
  | .nan => c = 0x80
  | .inf neg => c = if neg then 0x81 else 0x01
  | .num neg mag =>
    if 100000000 < mag then
      c = (if neg then 0x80 else 0) + if range = true ∧ (mode = .rn ∨ awayMode mode neg = true) then 0x01 else 0x02
    else Chosen mode 8 v.signed c

/-- A number rounded to an integer. -/
def toWhole (mode : RMode) (x : ℚ) : ℤ :=
  match mode with
  | .rn => if x - ⌊x⌋ < 1 / 2 ∨ x - ⌊x⌋ = 1 / 2 ∧ ⌊x⌋ % 2 = 0 then ⌊x⌋ else ⌊x⌋ + 1
  | .rz => if 0 ≤ x then ⌊x⌋ else ⌈x⌉
  | .rd => ⌊x⌋
  | .ru => ⌈x⌉

/-- The nearest integer of a range, and the low bits of an integer (R67). -/
def clampTo (signed : Bool) (w : Nat) (x : ℤ) : ℤ :=
  if signed then max (-2 ^ (w - 1)) (min (2 ^ (w - 1) - 1) x) else max 0 (min (2 ^ w - 1) x)

def lowBits (w : Nat) (x : ℤ) : Nat := (x % 2 ^ w).toNat

/-- A value in an integer format (R82); from an integer format it wraps, or saturates under the range bit. -/
def InWhole (signed : Bool) (w : Nat) (mode : RMode) (range whole : Bool) (v : ExactValue) (c : Nat) : Prop :=
  match v with
  | .nan => c = 0
  | .inf neg => c = lowBits w (if neg then (if signed then -2 ^ (w - 1) else 0) else if signed then 2 ^ (w - 1) - 1 else 2 ^ w - 1)
  | .num _ _ =>
    let n := toWhole mode v.signed
    c = lowBits w (if whole = true ∧ range = false then n else clampTo signed w n)

/-- R80 to R82, R116: the code that cvt gives for an operand, by the formats of its source and its destination. -/
def Converted (df sf : Nat) (mode : RMode) (range ftz : Bool) (x c : Nat) : Prop :=
  let v := exactOf sf ftz x
  let whole := (intFields sf).isSome
  if df = sf then
    match floatFields sf, intFields sf with
    | some (ew, fw), _ => c = if ftz = true ∧ sf < 3 ∧ x / 2 ^ fw % 2 ^ ew = 0 then x % 2 ^ (ew + fw + 1) / 2 ^ (ew + fw) * 2 ^ (ew + fw)
        else x % 2 ^ (ew + fw + 1)
    | none, some (_, w) => c = x % 2 ^ w
    | none, none => c = x % 256
  else match floatFields df, intFields df with
    | some (ew, fw), _ => InFloat df ew fw mode range ftz whole v c
    | none, some (signed, w) => InWhole signed w mode range whole v c
    | none, none => InDm8 mode range v c

/-- R69, R70, R73, R76, R78 to R82, R116: what rounding once gives. A result of a float instruction is its exact value in the mode, a tie going to the even
code, with overflow to infinity or saturated; a conversion gives the code of its source's exact value by the formats, with ties, overflow with and without
.sat or .ovf, infinities and NaNs. What an integer beyond the range of e4m3, e3m2, e2m3, e2m1 or dm8 converts to is the model's choice (assumption 38). -/
def Obligations.RoundedValues : Prop :=
  (∀ r ∈ [(0, fF32), (1, fF16), (2, fBF16)], ∀ (ew fw : Nat), floatFields r.1 = some (ew, fw) →
    ∀ (mode : RMode) (sat ftz neg : Bool) (num den : Nat), 0 < den →
      InFloat r.1 ew fw mode sat ftz false (.num neg ((num : ℚ) / den)) (r.2.result mode sat ftz (.fin neg num den))) ∧
  ∀ df sf : Nat, df < 16 → sf < 16 → ∀ (mode : RMode) (range ftz : Bool) (x : Nat),
    Converted df sf mode range ftz x (convert df sf mode range ftz x)

/-- A code of f32 is a rounding of a real number: no finite code is nearer, up to 2^-400, its sign is that of the number, and beyond the range, judged by the
same margin, it is an infinity. -/
def RoundsReal (y : ℝ) (c : Nat) : Prop :=
  let tiny : ℝ := 2 ^ (-400 : ℤ)
  let far : ℝ := 2 ^ 128 - 2 ^ 103
  (finiteCode 0 c ∧ |y| < far + tiny ∧ (c / 2 ^ 31 = 1 ↔ y < 0) ∧
    ∀ k, finiteCode 0 k → |y - (codeValue 0 c : ℝ)| ≤ |y - (codeValue 0 k : ℝ)| + tiny) ∨
  (c = 0x7F800000 ∧ far ≤ y + tiny) ∨ (c = 0xFF800000 ∧ y ≤ tiny - far)

/-- R113: a special function at a number where the manual gives no special value is its real function rounded once to nearest, up to a margin
of 2^-400. -/
def Obligations.SpecialFunctionValues : Prop :=
  ∀ r ∈ ([(sfuRcp, false, fun x => x⁻¹), (sfuRsq, true, fun x => (Real.sqrt x)⁻¹), (sfuSqrt, true, Real.sqrt), (sfuLg2, true, Real.logb 2),
          (sfuEx2, false, fun x => (2 : ℝ) ^ x), (sfuSin, false, Real.sin), (sfuCos, false, Real.cos), (sfuTanh, false, Real.tanh)] :
      List ((FVal → FVal) × Bool × (ℝ → ℝ))),
    ∀ x : Nat, finiteCode 0 x → codeValue 0 x ≠ 0 → (r.2.1 = true → 0 < codeValue 0 x) →
      RoundsReal (r.2.2 (codeValue 0 x : ℝ)) (fF32.result .rn false false (r.1 (fF32.value x)))

/-- R69, R73: a code that is no NaN is the rounding of its own exact value, in every mode. -/
def Obligations.FloatCodesAreFixed : Prop :=
  ∀ f ∈ [fF32, fF16, fBF16], ∀ (mode : RMode) (sat : Bool) (code : Nat), code < 2 ^ (f.signPos + 1) → (f.value code).isNan = false →
    f.result mode sat false (f.value code) = code

/-- The special functions and their special inputs and results as f32 codes (R113). -/
def sfuRows : List ((BitVec 7 → Bool → BitVec 7 → Instr) × (FVal → FVal) × List (Nat × Nat)) :=
  [(.frcp, sfuRcp, [(0, 0x7F800000), (0x80000000, 0xFF800000), (0x7F800000, 0), (0xFF800000, 0x80000000), (0x40000000, 0x3F000000)]),
   (.frsq, sfuRsq, [(0, 0x7F800000), (0x80000000, 0xFF800000), (0xBF800000, 0x7FC00000), (0x7F800000, 0), (0x40800000, 0x3F000000)]),
   (.fsqrt, sfuSqrt, [(0, 0), (0x80000000, 0x80000000), (0xBF800000, 0x7FC00000), (0x7F800000, 0x7F800000), (0x40800000, 0x40000000)]),
   (.flg2, sfuLg2, [(0, 0xFF800000), (0x80000000, 0xFF800000), (0xBF800000, 0x7FC00000), (0x7F800000, 0x7F800000), (0x3F800000, 0)]),
   (.fex2, sfuEx2, [(0xFF800000, 0), (0x7F800000, 0x7F800000), (0, 0x3F800000), (0x80000000, 0x3F800000), (0x40400000, 0x41000000),
      (0xC3160000, 0)]),
   (.fsin, sfuSin, [(0, 0), (0x80000000, 0x80000000), (0x7F800000, 0x7FC00000)]),
   (.fcos, sfuCos, [(0, 0x3F800000), (0x80000000, 0x3F800000), (0x7F800000, 0x7FC00000)]),
   (.ftanh, sfuTanh, [(0, 0), (0x80000000, 0x80000000), (0x7F800000, 0x3F800000), (0xFF800000, 0xBF800000)])]

/-- R48, R113: a special function is long-latency: D is pending, its result, rounded once to nearest-even, is under way and t0 is
empty; the special inputs give the manual's values, a NaN the canonical one, and 2^-150, which lies halfway to the least value, zero. Under N nothing is
written. What its result is at every other input is stated in Obligations.SpecialFunctionValues. -/
def Obligations.SpecialFunctions : Prop :=
  ∀ r ∈ sfuRows,
    (∀ p ∈ (0x7FC00001, 0x7FC00000) :: r.2.2, fF32.result .rn false false (r.2.1 (fF32.value p.1)) = p.2) ∧
    ∀ (a : BitVec 7) (n : Bool) (d : BitVec 7) (s : State), Plain s { ftz := true } → LaneIssues s [a.toNat] n d.toNat →
      let vec := kindVec s.c n d.toNat [a.toNat]
      let ftz := (modsOf s.c.xp.e).ftz
      (n = false → vec = true ∨ s.c.goes = true →
        ∃ t, exec (r.1 a n d) s = .next t ∧ t = { s with grp := t.grp } ∧
          LongDone true s t d.toNat 1 (!vec) s.c.enabled (fun l =>
            (BitVec.ofNat 32 (fF32.result .rn false ftz (r.2.1 (fF32.read ftz (s.c.rd a.toNat l).toNat)))).setWidth 128) 0) ∧
      (n = true ∨ vec = false ∧ s.c.goes = false → ∃ t, exec (r.1 a n d) s = .next t ∧ PlainDone s t 4)

/-- R42, R121: the 16-bit forms: D = D op B6, without prefix or modifiers, nearest-even; fmac adds the product of B and t0 to D. What t0 holds outside the active
mask, and after a scalar instruction under a false guard, is the model's choice (assumption 29). -/
def Obligations.ShortForms : Prop :=
  let m : Mods := ⟨.rn, false, false, false, 0⟩
  (∀ r ∈ ([
      (.iadd16, fun x y => x + y), (.isub16, fun x y => x - y), (.imul16, fun x y => x * y),
      (.and16, fun x y => x &&& y), (.or16, fun x y => x ||| y), (.xor16, fun x y => x ^^^ y),
      (.shl16, fun x y => shiftLeft x y.toNat), (.shr16, fun x y => shiftRight x y.toNat), (.sar16, fun x y => shiftArith x y.toNat),
      (.imin16, fun x y => BitVec.ofInt 32 (min x.toInt y.toInt)), (.imax16, fun x y => BitVec.ofInt 32 (max x.toInt y.toInt)),
      (.fadd16, f32Of (fun m a b => FVal.add m.rm a b) m), (.fmul16, f32Of (fun _ a b => a.mul b) m),
      (.fmax16, fun x y => BitVec.ofNat 32 (extremum fF32 false true m x.toNat y.toNat))] :
      List ((BitVec 6 → BitVec 5 → Instr) × (Word → Word → Word))),
    ∀ (b : BitVec 6) (d : BitVec 5) (s : State), s.c.xpw = none → LaneIssues s [d.toNat, b6 b] false d.toNat →
      ∃ t, exec (r.1 b d) s = .next t ∧
        LaneDone s t 2 [d.toNat, b6 b] false d.toNat fun l => r.2 (s.c.rd d.toNat l) (s.c.rd (b6 b) l)) ∧
  (∀ (b : BitVec 6) (d : BitVec 5) (s : State), s.c.xpw = none → LaneIssues s [b6 b] false d.toNat →
    ∃ t, exec (.mov16 b d) s = .next t ∧ LaneDone s t 2 [b6 b] false d.toNat fun l => s.c.rd (b6 b) l) ∧
  (∀ (b : BitVec 6) (d : BitVec 5) (s : State), s.c.xpw = none → LaneIssues s [d.toNat, b6 b, 120] false d.toNat →
    ∃ t, exec (.fmac b d) s = .next t ∧ LaneDone s t 2 [d.toNat, b6 b, 120] false d.toNat fun l =>
      fusedOf false false m (s.c.rd (b6 b) l) (s.c.rd 120 l) (s.c.rd d.toNat l))

/-! ### Tiles and cross-lane instructions (R122 to R135) -/

/-- The tile size T that part gives (R122). -/
def tileOf (s : State) : Nat := 2 ^ (s.c.part.toNat % 8)

/-- A lane participates: in the active mask with its guard true (R125). -/
def joins (s : State) (l : Lane) : Bool := s.c.actMask.getLsbD l.val && s.c.guard.getLsbD l.val

/-- The participating lanes of a lane's tile, in order. -/
def tileMates (s : State) (l : Lane) : List Lane :=
  (List.finRange 32).filter fun k => k.val / tileOf s == l.val / tileOf s && joins s k

/-- The source position of tile position j at distance δ (R130): none when it lies outside the tile. -/
def sourcePos (mode t δ j : Nat) : Option Nat :=
  match mode with
  | 0 => if Nat.xor j δ < t then some (Nat.xor j δ) else none
  | 1 => if j < δ then none else some (j - δ)
  | 2 => if t ≤ j + δ then none else some (j + δ)
  | _ => some (if t ≤ δ then j else (j + δ) % t)

/-- The participating lane that a shfop reads for lane l. -/
def shuffleFrom (s : State) (mode δ : Nat) (l : Lane) : Option Lane :=
  match sourcePos mode (tileOf s) δ (l.val % tileOf s) with
  | none => none
  | some p => (List.finRange 32).find? fun k => k.val == l.val / tileOf s * tileOf s + p && joins s k

/-- The operations of shfop, with the modifiers each honours (R130). -/
def shuffleOps : List (Nat × Allow × (Mods → Word → Word → Word)) :=
  [(0, {}, fun _ _ src => src), (1, { sat := true }, fun m own src => narrow m.sat (own.toInt + src.toInt)),
   (2, {}, fun _ own src => BitVec.ofInt 32 (min own.toInt src.toInt)), (3, {}, fun _ own src => BitVec.ofInt 32 (max own.toInt src.toInt)),
   (4, {}, fun _ own src => BitVec.ofNat 32 (min own.toNat src.toNat)), (5, {}, fun _ own src => BitVec.ofNat 32 (max own.toNat src.toNat)),
   (6, {}, fun _ own src => own &&& src), (7, {}, fun _ own src => own ||| src), (8, {}, fun _ own src => own ^^^ src),
   (9, { rm := true, sat := true, ftz := true }, f32Of fun m a b => FVal.add m.rm a b),
   (10, { ftz := true }, fun m x y => BitVec.ofNat 32 (extremum fF32 false false m x.toNat y.toNat)),
   (11, { ftz := true }, fun m x y => BitVec.ofNat 32 (extremum fF32 false true m x.toNat y.toNat)),
   (12, { rm := true, sat := true, ftz := true }, fun m => halvesOf (halfOf fF16 (fun m a b => FVal.add m.rm a b) m))]

/-- R130: shuffle-and-operate: each participating lane whose source lane lies in its tile and participates takes op(own, source);
the others keep D. What t0 holds outside the active mask, and in a participating lane that has no source, is the model's choice (assumption 29). -/
def Obligations.ShuffleAndOperate : Prop :=
  ∀ r ∈ shuffleOps, ∀ (k : BitVec 3) (o : BitVec 4) (m : BitVec 3) (a : BitVec 7) (n : Bool) (d : BitVec 7) (s : State),
    o.toNat = r.1 → m.toNat < 4 → k.toNat < 5 → 1 ≤ s.c.part.toNat ∧ s.c.part.toNat ≤ 5 → Plain s r.2.1 →
    Issues s true [(a.toNat, 1)] (dst n d.toNat 1) → n = true ∨ isS d.toNat = false →
    ∃ t f, exec (.shfop k o m a n d) s = .next t ∧
      VecDone s t 4 n d.toNat (wordOf fun l => joins s l && (shuffleFrom s m.toNat (2 ^ k.toNat) l).isSome) f ∧
      ∀ l j, shuffleFrom s m.toNat (2 ^ k.toNat) l = some j → f l = r.2.2 (modsOf s.c.xp.e) (s.c.rd a.toNat l) (s.c.rd a.toNat j)

/-- A permute by `src`, the lane that each lane names (R131, R132): long-latency; the lanes whose source participates take its a. -/
def PermuteDone (i : Instr) (s : State) (a : BitVec 7) (n : Bool) (d : BitVec 7) (src : Lane → Option Lane) : Prop :=
  let from_ (l : Lane) : Option Lane := (src l).filter (joins s)
  (n = true → ∃ t, exec i s = .next t ∧ PlainDone s t 4) ∧
  (n = false → ∃ t vals, exec i s = .next t ∧ t = { s with grp := t.grp } ∧
    LongDone true s t d.toNat 1 false (wordOf fun l => joins s l && (from_ l).isSome) vals 0 ∧
    ∀ l j, from_ l = some j → vals l = (s.c.rd a.toNat j).setWidth 128)

/-- R131, R132: perm reaches any lane of the group, permt and perms a lane of the tile, compact the tile's selected lanes in order. -/
def Permutes : Prop :=
  ∀ (b a : BitVec 7) (n : Bool) (d : BitVec 7) (s : State), 1 ≤ s.c.part.toNat ∧ s.c.part.toNat ≤ 5 → Plain s {} →
    n = true ∨ isS d.toNat = false →
    let inTile (l : Lane) (x : Word) : Option Lane := some (Fin.ofNat 32 (l.val / tileOf s * tileOf s + x.toNat % tileOf s))
    (Issues s true [(a.toNat, 1), (b.toNat, 1)] (dst n d.toNat 1) →
      PermuteDone (.perm b a n d) s a n d (fun l => some (Fin.ofNat 32 ((s.c.rd b.toNat l).toNat % 32))) ∧
      PermuteDone (.permt b a n d) s a n d (fun l => inTile l (s.c.rd b.toNat l)) ∧
      (s.c.isVec b.toNat = false → PermuteDone (.perms b a n d) s a n d (fun l => inTile l (s.c.rd b.toNat 0))) ∧
      (s.c.isVec b.toNat = true → exec (.perms b a n d) s = .next (faultAt s 4 0x02 s.c.enabled 0))) ∧
    (Issues s true [(a.toNat, 1)] (dst n d.toNat 1) → feature s 0 = true → b.toNat < 64 →
      PermuteDone (.compact b a n d) s a n d fun l => ((tileMates s l).filter fun k => s.c.pred b.toNat k)[l.val % tileOf s]?) ∧
    (s.c.inH = false → s.c.run.pos < 24 → feature s 0 = true → 64 ≤ b.toNat →
      exec (.compact b a n d) s = .next (faultAt s 4 0x02 s.c.enabled 0))

/-- R133: each vote writes PD in the participating lanes from its whole tile, under NG and AC; a predicate number of 64 or more raises 0x02, a modifier or
a C 0x01; no word with a reserved condition or a B is a vote. -/
def Votes : Prop :=
  (∀ (a : BitVec 7) (g x : Bool) (p : BitVec 6) (s : State), 1 ≤ s.c.part.toNat ∧ s.c.part.toNat ≤ 5 → Plain s {} →
    let votes (i : Instr) (v : Lane → Bool) : Prop :=
      ∃ t, exec i s = .next t ∧ PredDone s t p.toNat s.c.enabled fun l => underNgAc g x (v l) (s.c.pred p.toNat l)
    (s.c.inH = false → s.c.run.pos < 24 → 64 ≤ a.toNat → ∀ i ∈ [Instr.vall a g x p, .vany a g x p, .vfirst a g x p, .vlast a g x p],
      exec i s = .next (faultAt s 4 0x02 s.c.enabled 0)) ∧
    (Issues s true [] [] → a.toNat < 64 →
      votes (.vall a g x p) (fun l => (tileMates s l).all fun k => s.c.pred a.toNat k) ∧
      votes (.vany a g x p) (fun l => (tileMates s l).any fun k => s.c.pred a.toNat k) ∧
      votes (.vfirst a g x p) (fun l => ((tileMates s l).find? fun k => s.c.pred a.toNat k) == some l) ∧
      votes (.vlast a g x p) (fun l => ((tileMates s l).reverse.find? fun k => s.c.pred a.toNat k) == some l)) ∧
    (Issues s true [(a.toNat, 1)] [] →
      votes (.veq a g x p) fun l => (tileMates s l).all fun k => s.c.rd a.toNat k == s.c.rd a.toNat l)) ∧
  (∀ (a : BitVec 7) (g x : Bool) (p : BitVec 6) (s : State), ¬ Plain s {} →
    ∀ i ∈ [Instr.vall a g x p, .vany a g x p, .veq a g x p, .vfirst a g x p, .vlast a g x p], exec i s = .next (faultAt s 4 0x01 s.c.enabled 0)) ∧
  ∀ (w : Word) (rest : List Byte), w.extractLsb' 0 7 = 0x35 → 5 ≤ (w.extractLsb' 29 3).toNat ∨ w.extractLsb' 22 7 ≠ 0 →
    ∀ r, decode (leBytes 4 w.toNat ++ rest) ≠ .ok r

/-- R131 to R133: permutes, which are long-latency, and votes, which R133 gives whole. -/
def Obligations.PermutesAndVotes : Prop := Permutes ∧ Votes

/-- R134, R135: match, the tile counts, and the tile registers. -/
def TileRegisters : Prop :=
  ∀ (s : State), 1 ≤ s.c.part.toNat ∧ s.c.part.toNat ≤ 5 →
    (∀ (a : BitVec 7) (n : Bool) (d : BitVec 7), Plain s {} → n = true ∨ isS d.toNat = false →
      (Issues s true [(a.toNat, 1)] (dst n d.toNat 1) → ∃ t, exec (.matchLanes a n d) s = .next t ∧
        VecDone s t 4 n d.toNat s.c.enabled fun l => wordOf fun k => (tileMates s l).contains k && s.c.rd a.toNat k == s.c.rd a.toNat l) ∧
      (Issues s true [] (dst n d.toNat 1) → a.toNat < 64 →
        (∃ t, exec (.tfirst a n d) s = .next t ∧ VecDone s t 4 n d.toNat s.c.enabled fun l =>
          BitVec.ofNat 32 ((((tileMates s l).find? fun k => s.c.pred a.toNat k).map (·.val)).getD 32)) ∧
        (∃ t, exec (.tpop a n d) s = .next t ∧ VecDone s t 4 n d.toNat s.c.enabled fun l =>
          BitVec.ofNat 32 ((tileMates s l).filter fun k => s.c.pred a.toNat k).length)) ∧
      (s.c.inH = false → s.c.run.pos < 24 → 64 ≤ a.toNat → ∀ i ∈ [Instr.tfirst a n d, .tpop a n d],
        exec i s = .next (faultAt s 4 0x02 s.c.enabled 0))) ∧
    (∀ (n : Bool) (d : BitVec 7), s.c.xp.c = 127 → s.c.xp.e = 0 →
      (LaneIssues s [] n d.toNat → ∃ t, exec (.getpart n d) s = .next t ∧ LaneDone s t 4 [] n d.toNat fun _ => s.c.part) ∧
      (Issues s true [] (dst n d.toNat 1) → n = true ∨ isS d.toNat = false →
        (∃ t, exec (.tileid n d) s = .next t ∧ VecDone s t 4 n d.toNat s.c.enabled fun l => BitVec.ofNat 32 (l.val / tileOf s)) ∧
        (∃ t, exec (.tlane n d) s = .next t ∧ VecDone s t 4 n d.toNat s.c.enabled fun l => BitVec.ofNat 32 (l.val % tileOf s))))

/-- R123, R124, R135: setpart writes the register plus the immediate on the scalar unit; an invalid layout raises 0x02 and leaves
part as it was, and a false guard writes and raises nothing. -/
def SetPartition : Prop :=
  ∀ (i a : BitVec 7) (s : State), s.c.xp.c = 127 → Issues s false [(a.toNat, 1)] [] → s.c.isVec a.toNat = false →
    let v := s.c.rd a.toNat 0 + BitVec.ofInt 32 (immOf s i)
    (s.c.goes = false → ∃ t, exec (.setpart i a) s = .next t ∧ PlainDone s t 4) ∧
    (s.c.goes = true → 1 ≤ v.toNat ∧ v.toNat ≤ 5 →
      ∃ t, exec (.setpart i a) s = .next t ∧ Completes s t 4 .empty ∧ t.c.part = v ∧
        t = { s with grp := { s.grp with c := { counted s t with part := v } } }) ∧
    (s.c.goes = true → ¬ (1 ≤ v.toNat ∧ v.toNat ≤ 5) → exec (.setpart i a) s = .next (faultAt s 4 0x02 s.c.actMask 0))

/-- R123, R124, R134, R135: match, tile counts, tile registers and setpart; a predicate number of 64 or more raises 0x02. What t0 holds outside the active
mask, and after a scalar instruction under a false guard, is the model's choice (assumption 29), and so are the kind of getpart under N, from its D
field (assumption 34), that a handler may run getpart with a scalar D and setpart (assumption 39), and that setpart reads a scalar latch
(assumption 40). -/
def Obligations.TilesAndPartition : Prop := TileRegisters ∧ SetPartition

/-! ### Memory: coherence of single accesses (R181, R190 to R199) -/

/-- R192, R196, R197: a store under any policy, from a core or from an agent without an L1, gives its bytes to every later reader
wherever the words are kept, changes no other byte of main memory, and keeps the ownership invariant. -/
def StoredBytesAreTheLatest : Prop :=
  ∀ (s : State) (q : Req) (pol pa : Nat) (bs : List Byte), Sound s → pa % 128 + bs.length ≤ 128 →
    Sound (cohStore s q pol pa bs) ∧
    ∀ a, cohRead (cohStore s q pol pa bs) a 1 = if pa ≤ a ∧ a < pa + bs.length then [(bs[a - pa]?).getD 0] else cohRead s a 1

/-- Every copy that a core's L1 holds has the latest value of its word. -/
def CopiesCurrent (s : State) (core : Nat) : Prop :=
  ∀ line i x, (l1WordOf s core line i).value = some x → x = latest s line i

/-- R191, R197, R198: a load moves words between home and L1s under its policy and changes no byte of main memory; it binds the latest
bytes, under si when the copies that its core holds are current. -/
def LoadsBindTheLatest : Prop :=
  ∀ (s : State) (q : Req) (pol pa n : Nat), Sound s → pa % 128 + n ≤ 128 →
    Sound (cohLoad s q pol pa n).1 ∧ (∀ a, cohRead (cohLoad s q pol pa n).1 a 1 = cohRead s a 1) ∧
    (pol ≠ 2 ∨ (∀ c, q.core = some c → CopiesCurrent s c) → (cohLoad s q pol pa n).2 = cohRead s pa n)

/-- R194, R230: an acquire and cinv drop only si copies, cflush writes owned words back: no byte of main memory changes. -/
def CacheOperationsKeepMemory : Prop :=
  ∀ (s : State) (core : Nat), Sound s →
    Sound (dropSi s core) ∧ Sound (flushCore s core) ∧
    (∀ a, cohRead (dropSi s core) a 1 = cohRead s a 1) ∧ (∀ a, cohRead (flushCore s core) a 1 = cohRead s a 1) ∧
    (∀ line i x, l1WordOf (dropSi s core) core line i ≠ .si x) ∧
    (∀ line i, heddleWord (flushCore s core) line i ≠ .O core)

/-- R191, R192, R194, R196 to R198, R230: single accesses are coherent: a store gives its bytes to every later reader, a load binds the latest ones, and
cache operations change no byte. -/
def Obligations.SingleAccessesAreCoherent : Prop := StoredBytesAreTheLatest ∧ LoadsBindTheLatest ∧ CacheOperationsKeepMemory

/-! ### Local memory (R211, R219, R221 to R224) -/

/-- A byte of a workgroup's local memory, that of a member of a pair. -/
def localAt (s : State) (r : Role) (key o : Nat) : Byte :=
  match wgOf s key with
  | none => 0
  | some w => Memory.get (w.loc r) o

/-- `n` bytes from an offset, as a number. -/
def localNum (s : State) (r : Role) (key o n : Nat) : Nat := leNat ((List.range n).map fun k => localAt s r key (o + k))

/-- The lanes in which an instruction acts (R34, R41). -/
def acting (s : State) (vec : Bool) : List Lane :=
  if vec then (List.finRange 32).filter fun l => s.c.enabled.getLsbD l.val else if s.c.goes then [0] else []

/-- A load has completed (R48, R211): its registers are pending and its values under way, or with N or a false scalar guard nothing;
the rest of the group stands as before. -/
def LoadDone (s t : State) (vec n : Bool) (d regs : Nat) (vals : Lane → BitVec 128) (addr : DWord) : Prop :=
  if n = true ∨ vec = false ∧ s.c.goes = false then Completes s t 4 .empty ∧ t.grp = { s.grp with c := counted s t }
  else LongDone false s t d regs (!vec) (if vec then s.c.enabled else s.c.actMask) vals addr

/-- R221, R222: an offset below 2^31 names the workgroup's own local memory when the access lies within its allocation; above, the window
names a member of its cohort that is resident on its cluster, within that member's allocation; another member is refused in a deterministic partition, to a write of
a checked or IL1 stage, and where the cluster window is masked. -/
def LocalAddressing : Prop :=
  ∀ (s : State) (w : Workgroup) (write : Bool) (n : Nat) (off : BitVec 32), curWg s = some w →
    (off.toNat < 2 ^ 31 → locTarget s write n (off.setWidth 64) = if off.toNat + n ≤ w.size then some (w.key, off.toNat) else none) ∧
    (2 ^ 31 ≤ off.toNat → off.toNat / 2 ^ 19 % 2 ^ 6 ≠ 0 → locTarget s write n (off.setWidth 64) = none) ∧
    (2 ^ 31 ≤ off.toNat → cohortMember s w (off.toNat / 2 ^ 25 % 2 ^ 6) = none → locTarget s write n (off.setWidth 64) = none) ∧
    (∀ v, 2 ^ 31 ≤ off.toNat → off.toNat / 2 ^ 19 % 2 ^ 6 = 0 → cohortMember s w (off.toNat / 2 ^ 25 % 2 ^ 6) = some v →
      let o := off.toNat % 2 ^ 19
      let refused := (part s w.ref.part).det = true ∨ (write = true ∧ curIl s ≠ 0) ∨ feature s 6 = false
      (v.size < o + n → locTarget s write n (off.setWidth 64) = none) ∧
      (o + n ≤ v.size → v.key = w.key → locTarget s write n (off.setWidth 64) = some (w.key, o)) ∧
      (o + n ≤ v.size → v.key ≠ w.key → refused → locTarget s write n (off.setWidth 64) = none) ∧
      (o + n ≤ v.size → v.key ≠ w.key → ¬ refused → locTarget s write n (off.setWidth 64) = some (v.key, o))) ∧
    (∀ k st v, stageOf s w.ref = some st → cohortMember s w k = some v →
      k < st.cx * st.cy ∧ v ∈ s.wgs ∧ v.grid = w.grid ∧ v.pos = w.pos ∧ v.curve % (st.cx * st.cy) = k ∧ v.finished = false ∧
        v.core / 8 = w.core / 8) ∧
    (∀ k st, stageOf s w.ref = some st → cohortMember s w k = none → k < st.cx * st.cy →
      ∀ v ∈ s.wgs, v.grid = w.grid → v.pos = w.pos → v.curve % (st.cx * st.cy) = k → v.finished = true ∨ v.core / 8 ≠ w.core / 8)

/-- The lanes that a whole-instruction fault of some lanes names (R346): those lanes, or for a scalar instruction the active mask. -/
def faultLanes (s : State) (vec : Bool) (ls : List Lane) : Mask := if vec then wordOf fun k => ls.contains k else s.c.actMask

/-- R211, R223, R367: ldl of each size: the little-endian bytes of local memory, byte by byte when an address is not aligned; an aligned
access outside raises 0x15. That a misaligned one raises 0x10 in a handler is the model's choice (assumption 28), and so is that it binds its bytes as
it issues (assumption 52). -/
def LocalLoads : Prop :=
  ∀ (i : BitVec 7) (z : BitVec 3) (a : BitVec 7) (n : Bool) (d : BitVec 7) (s : State), z.toNat ≤ 4 → s.c.xp.c = 127 →
    let vec := kindVec s.c n d.toNat [a.toNat]
    let size := 2 ^ z.toNat
    let regs := szRegs z.toNat
    let lanes := acting s vec
    let ea := localEa s.c a.toNat (immOf s i * (2 ^ z.toNat : Nat))
    Issues s vec [(a.toNat, 1)] (dst n d.toNat regs) → (vec = true → n = true ∨ isS d.toNat = false) →
    (∀ tgt : Lane → Nat × Nat, (∀ l ∈ lanes, (ea l).toNat % size = 0 ∧ locTarget s false size (ea l) = some (tgt l)) →
      ∃ t vals, exec (.ldl i z a n d) s = .next t ∧ t = { s with grp := t.grp } ∧
        LoadDone s t vec n d.toNat regs vals (ea (lanes.headD 0)) ∧
        ∀ l ∈ lanes, vals l = BitVec.ofNat 128 (localNum s s.grp.role (tgt l).1 (tgt l).2 size)) ∧
    ((∃ l ∈ lanes, (ea l).toNat % size ≠ 0) → s.c.inH = false →
      ∀ tgt : Lane → Nat → Nat × Nat, (∀ l ∈ lanes, ∀ k < size, locTarget s false 1 (ea l + BitVec.ofNat 64 k) = some (tgt l k)) →
      ∃ t vals, exec (.ldl i z a n d) s = .next t ∧ t = { s with grp := t.grp } ∧
        LoadDone s t vec n d.toNat regs vals (ea (lanes.headD 0)) ∧
        ∀ l ∈ lanes, vals l = BitVec.ofNat 128 (leNat ((List.range size).map fun k => localAt s s.grp.role (tgt l k).1 (tgt l k).2))) ∧
    (s.c.inH = true → ∀ l rest, (lanes.filter fun l => (ea l).toNat % size != 0) = l :: rest →
      exec (.ldl i z a n d) s = .next (faultAt s 4 0x10 (faultLanes s vec (l :: rest)) (ea l))) ∧
    ((∀ l ∈ lanes, (ea l).toNat % size = 0) → ∀ l rest, (lanes.filter fun l => (locTarget s false size (ea l)).isNone) = l :: rest →
      exec (.ldl i z a n d) s = .next (faultAt s 4 0x15 (faultLanes s vec (l :: rest)) (ea l)))

/-- R211, R221, R223, R367: where a local access goes, and ldl, with the model's choices of assumptions 28 and 52. -/
def Obligations.LocalAddressingAndLoads : Prop := LocalAddressing ∧ LocalLoads

/-- Byte k of a store's operand in a lane (R211): of a register, an even and odd pair, or four registers. -/
def operandByte (s : State) (d z : Nat) (l : Lane) (k : Nat) : Byte :=
  if z = 3 then (s.c.rd64 d l).extractLsb' (8 * k) 8 else (s.c.rd (d + k / 4) l).extractLsb' (8 * (k % 4)) 8

/-- What a byte reads as after stores of lanes, the later lane last: byte k of lane l goes to `tgt l k`. -/
def storedByte {α : Type} [DecidableEq α] (lanes : List Lane) (size : Nat) (tgt : Lane → Nat → α) (data : Lane → Nat → Byte) (x : α)
    (old : Byte) : Byte :=
  lanes.foldl (fun b l => (List.range size).foldl (fun b k => if tgt l k = x then data l k else b) b) old

/-- Only local memory has changed outside the group, and in workgroups that exist only their bytes of one member and the notes of the tasks that arrived
at barrier objects; the model's count of events (fresh) numbers the entries of an undo log. -/
structure LocalOnly (s t : State) : Prop where
  rest   : t = { s with wgs := t.wgs, grp := t.grp, fresh := t.fresh }
  fields : (t.wgs.map fun w => { w with mem := [], memT := [], came := [], cameT := [] }) =
            s.wgs.map fun w => { w with mem := [], memT := [], came := [], cameT := [] }
  other  : ∀ key o, localAt t (otherRole s.grp.role) key o = localAt s (otherRole s.grp.role) key o

/-- The notes of the tasks that arrived at barrier objects stay (R173). -/
def SameCame (s t : State) : Prop := (t.wgs.map fun w => (w.came, w.cameT)) = s.wgs.map fun w => (w.came, w.cameT)

/-- R211, R219, R223, R367: stl writes each acting lane's bytes, the higher lane where lanes overlap, and no other byte. The 0x10 of a misaligned one in
a handler is the model's choice (assumption 28). -/
def LocalStores : Prop :=
  ∀ (i : BitVec 7) (z : BitVec 3) (a d : BitVec 7) (s : State), z.toNat ≤ 4 → s.c.xp.c = 127 → s.memWf = true →
    let vec := s.c.isVec a.toNat || s.c.isVec d.toNat
    let size := 2 ^ z.toNat
    let lanes := acting s vec
    let ea := localEa s.c a.toNat (immOf s i * (2 ^ z.toNat : Nat))
    Issues s vec [(d.toNat, szRegs z.toNat), (a.toNat, 1)] [] →
    (∀ tgt : Lane → Nat → Nat × Nat,
      (∀ l ∈ lanes, (ea l).toNat % size = 0 ∧ ∃ key o, locTarget s true size (ea l) = some (key, o) ∧ ∀ k < size, tgt l k = (key, o + k)) ∨
      (s.c.inH = false ∧ (∃ l ∈ lanes, (ea l).toNat % size ≠ 0) ∧
        ∀ l ∈ lanes, ∀ k < size, locTarget s true 1 (ea l + BitVec.ofNat 64 k) = some (tgt l k)) →
      ∃ t, exec (.stl i z a d) s = .next t ∧ Completes s t 4 .empty ∧ LocalOnly s t ∧ SameCame s t ∧
        t.grp = { s.grp with undo := t.grp.undo, c := counted s t } ∧
        ∀ key o, (wgOf s key).isSome = true → localAt t s.grp.role key o =
          storedByte lanes size tgt (operandByte s d.toNat z.toNat) (key, o) (localAt s s.grp.role key o)) ∧
    (s.c.inH = true → ∀ l rest, (lanes.filter fun l => (ea l).toNat % size != 0) = l :: rest →
      exec (.stl i z a d) s = .next (faultAt s 4 0x10 (faultLanes s vec (l :: rest)) (ea l))) ∧
    ((∀ l ∈ lanes, (ea l).toNat % size = 0) → ∀ l rest, (lanes.filter fun l => (locTarget s true size (ea l)).isNone) = l :: rest →
      exec (.stl i z a d) s = .next (faultAt s 4 0x15 (faultLanes s vec (l :: rest)) (ea l)))

/-! ### Read-modify-write (R218 to R220, R224, R226) -/

/-- An operation: its rows in atl, atg and scr, whether it needs f32 operands or a compare operand, and the new value of a w-bit word
from the old value, the operand and the compare operand (R218). -/
structure AtomicRow where
  op    : Amo
  atl   : BitVec 2 → BitVec 2 → BitVec 7 → BitVec 7 → Instr
  atg   : BitVec 2 → BitVec 2 → BitVec 2 → BitVec 7 → BitVec 7 → Instr
  scr   : Option (BitVec 2 → BitVec 2 → BitVec 7 → BitVec 7 → Instr)
  float : Bool
  cas   : Bool
  new   : Nat → Nat → Nat → Nat → Nat

/-- A w-bit number read as a signed one (R67). -/
def signed (w x : Nat) : Int := if x < 2 ^ (w - 1) then x else (x : Int) - (2 ^ w : Nat)

/-- An f32 operation of R218: nearest-even, subnormals kept. -/
def onF32 (f : Mods → Word → Word → Word) (old x : Nat) : Nat := (f ⟨.rn, false, false, false, 0⟩ (BitVec.ofNat 32 old) (BitVec.ofNat 32 x)).toNat

/-- R218, R226: the sixteen operations. -/
def atomicRows : List AtomicRow :=
  [⟨.add, .atlAdd, .atgAdd, some .scrAdd, false, false, fun w old x _ => (old + x) % 2 ^ w⟩,
   ⟨.sub, .atlSub, .atgSub, none, false, false, fun w old x _ => (((old : Int) - x) % (2 ^ w : Nat)).toNat⟩,
   ⟨.min, .atlMin, .atgMin, some .scrMin, false, false, fun w old x _ => if signed w x < signed w old then x else old⟩,
   ⟨.max, .atlMax, .atgMax, some .scrMax, false, false, fun w old x _ => if signed w old < signed w x then x else old⟩,
   ⟨.umin, .atlUmin, .atgUmin, none, false, false, fun _ old x _ => min old x⟩,
   ⟨.umax, .atlUmax, .atgUmax, none, false, false, fun _ old x _ => max old x⟩,
   ⟨.and, .atlAnd, .atgAnd, some .scrAnd, false, false, fun _ old x _ => old &&& x⟩,
   ⟨.or, .atlOr, .atgOr, some .scrOr, false, false, fun _ old x _ => old ||| x⟩,
   ⟨.xor, .atlXor, .atgXor, some .scrXor, false, false, fun _ old x _ => old ^^^ x⟩,
   ⟨.xchg, .atlXchg, .atgXchg, some .scrXchg, false, false, fun _ _ x _ => x⟩,
   ⟨.cas, .atlCas, .atgCas, some .scrCas, false, true, fun _ old x c => if old = c then x else old⟩,
   ⟨.fadd, .atlFadd, .atgFadd, some .scrFadd, true, false, fun _ => fun old x _ => onF32 (f32Of fun m a b => FVal.add m.rm a b) old x⟩,
   ⟨.fmin, .atlFmin, .atgFmin, none, true, false, fun _ => fun old x _ =>
      onF32 (fun m x y => BitVec.ofNat 32 (extremum fF32 false false m x.toNat y.toNat)) old x⟩,
   ⟨.fmax, .atlFmax, .atgFmax, some .scrFmax, true, false, fun _ => fun old x _ =>
      onF32 (fun m x y => BitVec.ofNat 32 (extremum fF32 false true m x.toNat y.toNat)) old x⟩,
   ⟨.inc, .atlInc, .atgInc, none, false, false, fun _ old x _ => if x ≤ old then 0 else old + 1⟩,
   ⟨.dec, .atlDec, .atgDec, none, false, false, fun _ old x _ => if old = 0 ∨ x < old then x else old - 1⟩]

/-- The operands of a read-modify-write (R40, R218): W, the offset, the registers and the three operands in a lane. -/
def wideOp (s : State) : Bool := s.c.xp.e % 2 == 1

def atomicOffset (s : State) : Int := (BitVec.ofNat 10 (s.c.xp.e / 2)).toInt * (if wideOp s then 8 else 4)

def opBytes (s : State) : Nat := if wideOp s then 8 else 4

def opRegs (s : State) : Nat := if wideOp s then 2 else 1

def operand (s : State) (r : Nat) (l : Lane) : Nat := if wideOp s then (s.c.rd64 r l).toNat else (s.c.rd r l).toNat

def newAt (s : State) (r : AtomicRow) (d : Nat) (old : Nat) (l : Lane) : Nat :=
  r.new (8 * opBytes s) old (operand s d l) (if r.cas then operand s s.c.xp.c l else 0)

/-- The value that lane l meets when the lanes go one at a time in increasing number (R219). -/
def metBy {α β : Type} [DecidableEq α] (new : β → Lane → β) (word : Lane → α) (init : α → β) (lanes : List Lane) (l : Lane) : β :=
  (lanes.filter fun k => decide (k < l) && decide (word k = word l)).foldl new (init (word l))

/-- The value that a word holds after every lane. -/
def leftIn {α β : Type} [DecidableEq α] (new : β → Lane → β) (word : Lane → α) (init : α → β) (lanes : List Lane) (x : α) : β :=
  (lanes.filter fun k => decide (word k = x)).foldl new (init x)

/-- The operands of a read-modify-write are in order: C given with cas alone, no 64-bit float, and the checks of R50. -/
def AtomicIssues (s : State) (r : AtomicRow) (a d aRegs : Nat) (vec : Bool) : Prop :=
  (r.cas = true ↔ s.c.xp.c ≠ 127) ∧ (r.float = true → wideOp s = false) ∧ (vec = true → isS d = false) ∧
  Issues s vec ((d, opRegs s) :: (a, aRegs) :: if r.cas then [(s.c.xp.c, opRegs s)] else []) [(d, opRegs s)]

def atomicVec (s : State) (r : AtomicRow) (a d : Nat) : Bool := kindVec s.c false d (if r.cas then [a, d, s.c.xp.c] else [a, d])

/-- The group is in a run of unchecked, undeterministic work that stands alone: no request, walk or buffered act of its own is under
way, no value was taken early, and its partition's pages are not tracked. -/
structure PlainAccess (s : State) (w : Workgroup) : Prop where
  wg      : curWg s = some w
  il      : curIl s = 0
  det     : (part s w.ref.part).det = false
  inRun   : s.grp.phase = .inRun
  queue   : s.homeQ = []
  walks   : s.walks = []
  early   : s.early = []
  buffer  : s.grp.cbuf = []
  clean   : ∀ f, partVf s w.ref.part = some f → (s.vfs[f]).tracking = false

/-- The compared event of an atomic of a checked workgroup (R376). -/
def atomicEvent (s : State) (r : AtomicRow) (d : Nat) (lanes : List Lane) (ea : Lane → DWord) (pol scp : Nat) : CmpEvent :=
  let cmp := fun l => if r.cas then operand s s.c.xp.c l else 0
  { kind := 3, npc := s.c.npc, twin := s.c.twin, lpcs := [], exitM := 0, waitM := 0,
    items := lanes.map fun l => ⟨l.val, ea l, BitVec.ofNat 128 (operand s d l + cmp l * 2 ^ 64), BitVec.ofNat 16 (2 ^ opBytes s - 1), pol, scp⟩ }

/-- R218, R219, R224, R376: each atl: lanes one at a time in increasing number, each lane taking the old value of its word. In a checked workgroup the leading
member keeps the event for its comparison, and the trailing member goes on when its own is the same and waits while the leading one has not come to it. -/
def LocalAtomics : Prop :=
  ∀ r ∈ atomicRows, ∀ (o scp : BitVec 2) (a d : BitVec 7) (s : State) (w : Workgroup), curWg s = some w → s.grp.phase = .inRun →
    s.homeQ = [] → s.walks = [] → s.early = [] → Sound s →
    let vec := atomicVec s r a.toNat d.toNat
    let n := opBytes s
    let lanes := acting s vec
    let ea := localEa s.c a.toNat (atomicOffset s)
    let new := newAt s r d.toNat
    let event := atomicEvent s r d.toNat lanes ea 0 scp.toNat
    AtomicIssues s r a.toNat d.toNat 1 vec →
    let acts := vec = true ∨ s.c.goes = true
    (∀ tgt : Lane → Nat × Nat, (∀ l ∈ lanes, (ea l).toNat % n = 0 ∧ locTarget s true n (ea l) = some (tgt l)) →
      let init := fun x : Nat × Nat => localNum s s.grp.role x.1 x.2 n
      let done (cmp : List CmpEvent) (t : State) : Prop := ∃ vals,
        LoadDone { s with grp := { s.grp with undo := t.grp.undo, cmp := cmp } } t vec false d.toNat (opRegs s) vals (ea (lanes.headD 0)) ∧
        LocalOnly { s with l1 := t.l1, others := t.others } t ∧ SameCame s t ∧ (∀ x, cohRead t x 1 = cohRead s x 1) ∧ (curIl s ≠ 2 → t.grp.undo = s.grp.undo) ∧
        (∀ l ∈ lanes, vals l = BitVec.ofNat 128 (metBy new tgt init lanes l)) ∧
        (∀ l ∈ lanes, localNum t s.grp.role (tgt l).1 (tgt l).2 n = leftIn new tgt init lanes (tgt l)) ∧
        ∀ key x, (∀ l ∈ lanes, key = (tgt l).1 → x < (tgt l).2 ∨ (tgt l).2 + n ≤ x) → localAt t s.grp.role key x = localAt s s.grp.role key x
      (curIl s ≠ 2 ∨ ¬ acts → ∃ t, exec (r.atl o scp a d) s = .next t ∧ done s.grp.cmp t ∧ t.others = s.others) ∧
      (curIl s = 2 → acts → s.grp.role = .lead → ∃ t, exec (r.atl o scp a d) s = .next t ∧ done (s.grp.cmp ++ [event]) t ∧ t.others = s.others) ∧
      (curIl s = 2 → acts → s.grp.role = .trail → ∀ p, partner s = some p → ((allGroups s).map fun g => (g.wg, g.gid, g.role)).Nodup →
        (∀ rest, p.cmp = event :: rest → ∃ t, exec (r.atl o scp a d) s = .next t ∧ done s.grp.cmp t ∧
          groupAt t s.grp.wg s.grp.gid .lead = some { p with cmp := rest } ∧ ∀ g ∈ s.others, g ≠ p → g ∈ t.others) ∧
        (p.cmp = [] → exec (r.atl o scp a d) s = .next { s with grp := { s.grp with phase := .stalled .commit } }))) ∧
    (∀ l rest, (lanes.filter fun l => (ea l).toNat % n != 0) = l :: rest →
      exec (r.atl o scp a d) s = .next (faultAt s 4 0x10 (faultLanes s vec (l :: rest)) (ea l))) ∧
    ((∀ l ∈ lanes, (ea l).toNat % n = 0) → ∀ l rest, (lanes.filter fun l => (locTarget s true n (ea l)).isNone) = l :: rest →
      exec (r.atl o scp a d) s = .next (faultAt s 4 0x15 (faultLanes s vec (l :: rest)) (ea l)))

/-- R211, R218, R219, R223, R224, R367, R376: stl and atl, with the model's choice of assumption 28. -/
def Obligations.LocalStoresAndAtomics : Prop := LocalStores ∧ LocalAtomics

/-! ### Global memory and screed (R210 to R220, R225, R226) -/

/-- A byte at a physical address as work of a workgroup reads it: host memory, screed, or the latest in main memory. -/
def byteAt (s : State) (w : Workgroup) (pa : Nat) : Byte :=
  if inHost pa then Memory.get s.hostMem (hostAddr s w.ref.part w.ref.tenant pa)
  else if inScreed pa then Memory.get s.mem pa
  else (cohRead s pa 1).headD 0

def numAt (s : State) (w : Workgroup) (pa n : Nat) : Nat := leNat ((List.range n).map fun k => byteAt s w (pa + k))

/-- A global or screed address: the register pair plus the offset, 64 bits (R210). -/
def globalAt (s : State) (a : Nat) (off : Int) (l : Lane) : DWord := s.c.rd64 a l + BitVec.ofInt 64 off

/-- Every acting lane translates and passes the checks of R212, to these physical addresses, each within one line; lanes of one address share
its translation. -/
def Translates (s : State) (u : Use) (lanes : List Lane) (ea : Lane → DWord) (pas : Lane → Nat) (n : Nat) : Prop :=
  (probeAll s u ea lanes).2 = lanes.map (fun l => (l, .ok (pas l))) ∧ (∀ l ∈ lanes, (ea l).toNat % n = 0 ∧ pas l % n = 0) ∧
    ∀ l ∈ lanes, ∀ k ∈ lanes, ea l = ea k → pas l = pas k

/-- A store instruction with a scalar base makes one access when its lanes' data are equal (R210). -/
def onceOnly (s : State) (a : BitVec 7) (lanes : List Lane) (data : Lane → List Byte) : Bool :=
  !s.c.isVec a.toNat && lanes.all fun l => data l == data (lanes.headD 0)

def noHits (p : Partition) : Partition := { p with tenants := p.tenants.map fun x => ({ x with hitx := 0 } : Tenant) }

/-- Only the memory system has changed beside the group at issue and its workgroup: bytes, ownership and copies, L2 residency,
cached translations, and the counts of L2 hits; no value has been taken early. -/
structure MemoryOnly (s t : State) : Prop where
  rest  : t = { s with grp := t.grp, wgs := t.wgs, mem := t.mem, hostMem := t.hostMem, hed := t.hed, l1 := t.l1, l2 := t.l2,
                       tlb := t.tlb, homeQ := t.homeQ, walks := t.walks, early := t.early, parts := t.parts, fresh := t.fresh }
  parts : ∀ p, noHits (part t p) = noHits (part s p)
  early : ∀ e ∈ t.early, e ∈ s.early

/-- The page of an address is in the core's cache of at most 64 entries (R315), where one translation covers it. -/
def CoreCached (s : State) (w : Workgroup) (va : DWord) : Prop :=
  (s.tlb.filter fun e => e.owner == .core s.grp.core).length ≤ 64 ∧ (va.toNat < 2 ^ 49 → ∃ x, tlbFind s (.core s.grp.core) w.ref.part w.ref.tenant va.toNat = some x ∧
    ∀ e ∈ s.tlb, e.covers (.core s.grp.core) w.ref.part w.ref.tenant va.toNat = true → e.xl = x)

/-- The first fault of a lane's bytes, with its address. -/
def firstFault (ea : DWord) (size : Nat) (r : Nat → Except (BitVec 8) Nat) : Option (Nat × BitVec 8 × DWord) :=
  (List.range size).findSome? fun k => match r k with
    | .ok _ => none
    | .error c => some (k, c, ea + BitVec.ofNat 64 k)

/-- The lanes that fault, each with its first fault. -/
def faulting (lanes : List Lane) (ea : Lane → DWord) (size : Nat) (r : Lane → Nat → Except (BitVec 8) Nat) : List (Lane × BitVec 8 × DWord) :=
  lanes.filterMap fun l => (firstFault (ea l) size (r l)).map fun x => (l, x.2)

/-- A per-lane fault has entered the handler. -/
def LaneFaulted (s t : State) (h : PickRec) (bad : Mask) (cause : BitVec 8) (addr : DWord) : Prop :=
  t.c.inH = true ∧ t.c.run = { Run.none with on := true, pc := h.pc, act := bad } ∧ t.c.frame.cause = cause ∧ t.c.frame.mask = bad ∧
    t.c.frame.addr = addr ∧ t.c.frame.npc = s.c.npc ∧ t.c.frame.perLane = true ∧ t.c.frame.resume = s.c.run.pc + 4 ∧
    t.c.parkM = s.c.parkM ||| bad ∧ t.c.v = s.c.v ∧ t.c.s = s.c.s ∧ t.c.p = s.c.p

/-- R178, R367: outside a handler a misaligned ldg is emulated byte by byte, aligned lanes with it: each lane has the bytes of its addresses; a lane
with a byte that faults takes that fault, with the byte's address, while the others have their results under way. -/
def EmulatedLoads : Prop :=
  ∀ (z : BitVec 3) (o scp pol : BitVec 2) (a : BitVec 7) (n : Bool) (d : BitVec 7) (s : State) (w : Workgroup), PlainAccess s w → Sound s →
    z.toNat ≤ 4 → s.c.xp.c = 127 → s.c.inH = false → (pol = 2 → CopiesCurrent s s.grp.core) →
    let vec := kindVec s.c n d.toNat [a.toNat]
    let lanes := acting s vec
    let size := 2 ^ z.toNat
    let ea := globalAt s a.toNat ((BitVec.ofNat 11 s.c.xp.e).toInt * (size : Nat))
    let r := fun (l : Lane) (k : Nat) => (probe s .load (ea l + BitVec.ofNat 64 k)).2
    Issues s vec [(a.toNat, 2)] (dst n d.toNat (szRegs z.toNat)) → (vec = true → n = true ∨ isS d.toNat = false) →
    (∃ l ∈ lanes, (ea l).toNat % size ≠ 0) → (∀ l ∈ lanes, ∀ k < size, CoreCached s w (ea l + BitVec.ofNat 64 k)) →
    (∀ pas : Lane → Nat → Nat, (∀ l ∈ lanes, ∀ k < size, r l k = .ok (pas l k)) →
      ∃ t vals, exec (.ldg z o scp pol a n d) s = .next t ∧ MemoryOnly s t ∧ t.wgs = s.wgs ∧ (∀ x, byteAt t w x = byteAt s w x) ∧
        LoadDone s t vec n d.toNat (szRegs z.toNat) vals (ea (lanes.headD 0)) ∧
        ∀ l ∈ lanes, vals l = BitVec.ofNat 128 (leNat ((List.range size).map fun k => byteAt s w (pas l k)))) ∧
    ∀ l c va rest h, faulting lanes ea size r = (l, c, va) :: rest → handlerOf s = some h →
      ∃ t, exec (.ldg z o scp pol a n d) s = .next t ∧ LaneFaulted s t h (faultLanes s vec (l :: rest.map (·.1))) c va ∧
        ∀ x, byteAt t w x = byteAt s w x

/-- R178, R367: outside a handler a misaligned stg is emulated byte by byte, in lane order: its bytes are stored or on their way to their homes, in
a lane with a byte that faults those before it; such lanes fault precisely. -/
def EmulatedStores : Prop :=
  ∀ (z : BitVec 3) (o scp pol : BitVec 2) (a d : BitVec 7) (s : State) (w : Workgroup), PlainAccess s w → Sound s →
    z.toNat ≤ 4 → s.c.xp.c = 127 → s.c.inH = false →
    let vec := s.c.isVec a.toNat || s.c.isVec d.toNat
    let lanes := acting s vec
    let size := 2 ^ z.toNat
    let ea := globalAt s a.toNat ((BitVec.ofNat 11 s.c.xp.e).toInt * (size : Nat))
    let r := fun (l : Lane) (k : Nat) => (probe s .store (ea l + BitVec.ofNat 64 k)).2
    let made := fun l => List.range (((firstFault (ea l) size (r l)).map (·.1)).getD size)
    Issues s vec [(d.toNat, szRegs z.toNat), (a.toNat, 2)] [] →
    (∃ l ∈ lanes, (ea l).toNat % size ≠ 0) → (∀ l ∈ lanes, ∀ k < size, CoreCached s w (ea l + BitVec.ofNat 64 k)) →
    ∀ pas : Lane → Nat → Nat, (∀ l ∈ lanes, ∀ k ∈ made l, r l k = .ok (pas l k)) →
      let here := fun l k => pol == 0 || !inMain (pas l k)
      let stored (t : State) : Prop := MemoryOnly s t ∧ t.wgs = s.wgs ∧ t.walks = [] ∧
        (∀ x, byteAt t w x = lanes.foldl (fun b l => (made l).foldl (fun b k =>
          if here l k = true ∧ pas l k = x then operandByte s d.toNat z.toNat l k else b) b) (byteAt s w x)) ∧
        t.homeQ = lanes.flatMap fun l => ((made l).filter fun k => !here l k).map fun k =>
          ⟨s.grp.core, s.grp.wg, s.grp.gid, pas l k / 128, .store pol.toNat (pas l k) [operandByte s d.toNat z.toNat l k]⟩
      (faulting lanes ea size r = [] →
        ∃ t, exec (.stg z o scp pol a d) s = .next t ∧ stored t ∧ Completes s t 4 .empty ∧ t.grp = { s.grp with c := counted s t }) ∧
      ∀ l c va rest h, faulting lanes ea size r = (l, c, va) :: rest → handlerOf s = some h →
        ∃ t, exec (.stg z o scp pol a d) s = .next t ∧ LaneFaulted s t h (faultLanes s vec (l :: rest.map (·.1))) c va ∧ stored t

/-- R191, R211, R214, R215, R226: ldg and scr ld bind the bytes at their addresses in every acting lane and change no byte;
ldg.pf sends one request for each lane's line. That a misaligned ldg raises 0x10 in a handler is the model's choice (assumption 28), and so is when a load
binds its bytes (assumption 52). -/
def PlainLoads : Prop :=
  ∀ (s : State) (w : Workgroup), PlainAccess s w → Sound s →
    (∀ (z : BitVec 3) (o scp pol : BitVec 2) (a : BitVec 7) (n : Bool) (d : BitVec 7), z.toNat ≤ 4 → s.c.xp.c = 127 →
      let vec := kindVec s.c n d.toNat [a.toNat]
      let lanes := acting s vec
      let size := 2 ^ z.toNat
      let ea := globalAt s a.toNat ((BitVec.ofNat 11 s.c.xp.e).toInt * (size : Nat))
      Issues s vec [(a.toNat, 2)] (dst n d.toNat (szRegs z.toNat)) → (vec = true → n = true ∨ isS d.toNat = false) →
      (∀ pas : Lane → Nat, Translates s .load lanes ea pas size → (pol = 2 → CopiesCurrent s s.grp.core) →
        ∃ t vals, exec (.ldg z o scp pol a n d) s = .next t ∧ MemoryOnly s t ∧ t.wgs = s.wgs ∧ (∀ x, byteAt t w x = byteAt s w x) ∧
          LoadDone s t vec n d.toNat (szRegs z.toNat) vals (ea (lanes.headD 0)) ∧
          ∀ l ∈ lanes, vals l = BitVec.ofNat 128 (numAt s w (pas l) size)) ∧
      (s.c.inH = true → ∀ l rest, (lanes.filter fun l => (ea l).toNat % size != 0) = l :: rest →
        exec (.ldg z o scp pol a n d) s = .next (faultAt s 4 0x10 (faultLanes s vec (l :: rest)) (ea l)))) ∧
    (∀ (z : BitVec 3) (scp pol : BitVec 2) (a : BitVec 7), s.c.xp.c = 127 →
      let vec := s.c.isVec a.toNat
      let lanes := acting s vec
      let ea := globalAt s a.toNat ((BitVec.ofNat 11 s.c.xp.e).toInt * (2 ^ z.toNat : Nat))
      Issues s vec [(a.toNat, 2)] [] →
      ∀ pas : Lane → Nat, (probeAll s .load ea lanes).2 = lanes.map (fun l => (l, .ok (pas l))) → (∀ l ∈ lanes, inMain (pas l) = true) →
        ∃ t, exec (.ldgPf z scp pol a) s = .next t ∧ MemoryOnly s t ∧ t.wgs = s.wgs ∧ (∀ x, byteAt t w x = byteAt s w x) ∧
          Completes s t 4 .empty ∧ t.grp = { s.grp with c := counted s t } ∧
          t.homeQ = lanes.map fun l => ⟨s.grp.core, s.grp.wg, s.grp.gid, pas l / 128, .fetch pol.toNat⟩) ∧
    (∀ (o scp : BitVec 2) (a d : BitVec 7), s.c.xp.c = 127 →
      let vec := kindVec s.c false d.toNat [a.toNat]
      let lanes := acting s vec
      let ea := globalAt s a.toNat (atomicOffset s)
      Issues s vec [(a.toNat, 2)] [(d.toNat, opRegs s)] → (vec = true → isS d.toNat = false) →
      ∀ pas : Lane → Nat, Translates s .scrLoad lanes ea pas (opBytes s) →
        ∃ t vals, exec (.scrLd o scp a d) s = .next t ∧ MemoryOnly s t ∧ t.wgs = s.wgs ∧ (∀ x, byteAt t w x = byteAt s w x) ∧
          LoadDone s t vec false d.toNat (opRegs s) vals (ea (lanes.headD 0)) ∧
          ∀ l ∈ lanes, vals l = BitVec.ofNat 128 (numAt s w (pas l) (opBytes s)))

/-- The first value that was taken early for loads of the group at issue, of the block of an address. -/
def earlyAt (s : State) (pa : Nat) : Option EarlyBlock :=
  s.early.find? fun e => e.core == s.grp.core && e.wg == s.grp.wg && e.gid == s.grp.gid && e.block == pa / 16

/-- R181, R182, R394: a turn may take the latest bytes of a block early for loads that a group is still to issue, and a load of the block then binds those
bytes, once, unless it is an acquire. When bytes are taken early is the model's choice (assumption 52). -/
def EarlyValues : Prop :=
  ∀ (s : State) (w : Workgroup), PlainAccess { s with early := [] } w → Sound s → s.grp.role = .lead → s.grp.wg ≠ 0 →
    (∀ va pa rest, peekPa s va = some pa → (probe s .load (BitVec.ofNat 64 va)).2 = .ok pa → inMain pa = true →
      ∃ t, step { s with agenda := .early s.grp.wg s.grp.gid va :: rest } = .next t ∧ t.agenda = rest ∧ t.grp = s.grp ∧ t.wgs = s.wgs ∧
        (∀ x, byteAt t w x = byteAt s w x) ∧ (earlyAt t pa).map (·.data) = some ((List.range 16).map fun k => byteAt s w (pa / 16 * 16 + k))) ∧
    ∀ (z : BitVec 3) (o scp pol : BitVec 2) (a : BitVec 7) (n : Bool) (d : BitVec 7) (pas : Lane → Nat) (e : EarlyBlock),
      let size := 2 ^ z.toNat
      let ea := globalAt s a.toNat ((BitVec.ofNat 11 s.c.xp.e).toInt * (size : Nat))
      z.toNat ≤ 4 → s.c.xp.c = 127 → kindVec s.c n d.toNat [a.toNat] = false → s.c.goes = true →
      Issues s false [(a.toNat, 2)] (dst n d.toNat (szRegs z.toNat)) → Translates s .load [0] ea pas size → inMain (pas 0) = true →
      (pol = 2 → CopiesCurrent s s.grp.core) → earlyAt s (pas 0) = some e →
      ∃ t vals, exec (.ldg z o scp pol a n d) s = .next t ∧ MemoryOnly s t ∧ t.wgs = s.wgs ∧ (∀ x, byteAt t w x = byteAt s w x) ∧
        LoadDone s t false n d.toNat (szRegs z.toNat) vals (ea 0) ∧ earlyAt t (pas 0) = none ∧
        vals 0 = BitVec.ofNat 128 (if o.toNat % 2 = 1 then numAt s w (pas 0) size else leNat ((e.data.drop (pas 0 % 16)).take size))

/-- R178, R181, R182, R191, R211, R214, R215, R226, R367, R394: ldg, ldg.pf and scr ld, bytes taken early, and the misaligned ldg, with the
model's choices of assumptions 28 and 52. -/
def Obligations.GlobalLoads : Prop := PlainLoads ∧ EarlyValues ∧ EmulatedLoads

/-- R192, R196, R210, R213, R216, R226, R316: stg performs its owned stores and its stores to the host in lane order and sends the others to
their homes, as one access where the base is scalar and the lanes' data are equal, or when a page is not cached waits for a walk; scr st writes its bank. -/
def GlobalStores : Prop :=
  ∀ (s : State) (w : Workgroup), PlainAccess s w → Sound s → s.c.xp.c = 127 →
    (∀ (z : BitVec 3) (o scp pol : BitVec 2) (a d : BitVec 7), z.toNat ≤ 4 →
      let vec := s.c.isVec a.toNat || s.c.isVec d.toNat
      let lanes := acting s vec
      let size := 2 ^ z.toNat
      let ea := globalAt s a.toNat ((BitVec.ofNat 11 s.c.xp.e).toInt * (size : Nat))
      let data := fun l => (List.range size).map (operandByte s d.toNat z.toNat l)
      let once := onceOnly s a lanes data
      let cached := fun l => (tlbHit s s.grp.core w.ref.part w.ref.tenant (ea l).toNat).isSome
      Issues s vec [(d.toNat, szRegs z.toNat), (a.toNat, 2)] [] → (∀ l ∈ lanes, (ea l).toNat % size = 0) →
      (∀ pas : Lane → Nat, Translates s .store lanes ea pas size → (∀ l ∈ lanes, cached l = true) →
        let acts := if once then lanes.take 1 else lanes
        let here := acts.filter fun l => pol == 0 || !inMain (pas l)
        let away := acts.filter fun l => !(pol == 0 || !inMain (pas l))
        ∃ t, exec (.stg z o scp pol a d) s = .next t ∧ MemoryOnly s t ∧ t.wgs = s.wgs ∧ t.walks = [] ∧
          Completes s t 4 .empty ∧ t.grp = { s.grp with c := counted s t } ∧
          (∀ x, byteAt t w x = storedByte here size (fun l k => pas l + k) (operandByte s d.toNat z.toNat) x (byteAt s w x)) ∧
          t.homeQ = away.map fun l => ⟨s.grp.core, s.grp.wg, s.grp.gid, pas l / 128, .store pol.toNat (pas l) (data l)⟩) ∧
      ((∃ l ∈ lanes, (ea l).toNat < 2 ^ 49 ∧ cached l = false) →
        ∃ t, exec (.stg z o scp pol a d) s = .next t ∧ Completes s t 4 .empty ∧
          t = { s with grp := { s.grp with c := counted s t }, walks := t.walks } ∧
          t.walks = [{ core := s.grp.core, wg := s.grp.wg, gid := s.grp.gid, npc := s.c.npc, twin := s.c.twin, size := z.toNat,
                       pol := pol.toNat, scp := scp.toNat, one := once, stuck := false, lanes := lanes.map fun l => ⟨l, ea l, data l⟩ }])) ∧
    (∀ (o scp : BitVec 2) (a d : BitVec 7),
      let vec := s.c.isVec a.toNat || s.c.isVec d.toNat
      let lanes := acting s vec
      let ea := globalAt s a.toNat (atomicOffset s)
      Issues s vec [(d.toNat, opRegs s), (a.toNat, 2)] [] →
      ∀ pas : Lane → Nat, Translates s .scrStore lanes ea pas (opBytes s) →
        ∃ t, exec (.scrSt o scp a d) s = .next t ∧ MemoryOnly s t ∧ t.wgs = s.wgs ∧
          Completes s t 4 .empty ∧ t.grp = { s.grp with c := counted s t } ∧
          ∀ x, byteAt t w x = storedByte lanes (opBytes s) (fun l k => pas l + k)
            (fun l k => BitVec.ofNat 8 (operand s d.toNat l / 256 ^ k)) x (byteAt s w x))

/-- R193, R218 to R220, R226: each atg and each read-modify-write of scr: lanes one at a time in increasing number, each taking the
old value of its word; the words take the last values and no other byte changes; the workgroup has made an unbuffered atomic. -/
def Obligations.GlobalAtomics : Prop :=
  ∀ r ∈ atomicRows, ∀ (o scp pol : BitVec 2) (a d : BitVec 7) (s : State) (w : Workgroup), PlainAccess s w → Sound s →
    let vec := atomicVec s r a.toNat d.toNat
    let n := opBytes s
    let lanes := acting s vec
    let ea := globalAt s a.toNat (atomicOffset s)
    let new := newAt s r d.toNat
    AtomicIssues s r a.toNat d.toNat 2 vec →
    let performs := fun (u : Use) (i : Instr) => ∀ pas : Lane → Nat, Translates s u lanes ea pas n →
      let init := fun pa => numAt s w pa n
      ∃ t vals, exec i s = .next t ∧ MemoryOnly s t ∧ t.homeQ = [] ∧ t.walks = [] ∧
        LoadDone s t vec false d.toNat (opRegs s) vals (ea (lanes.headD 0)) ∧
        t.wgs = (if lanes.isEmpty then s.wgs else s.wgs.map fun v => if v.key = s.grp.wg then { v with atomic := true, visible := true } else v) ∧
        (∀ l ∈ lanes, vals l = BitVec.ofNat 128 (metBy new pas init lanes l)) ∧
        (∀ l ∈ lanes, numAt t w (pas l) n = leftIn new pas init lanes (pas l)) ∧
        ∀ x, (∀ l ∈ lanes, x < pas l ∨ pas l + n ≤ x) → byteAt t w x = byteAt s w x
    performs (.atomic r.op) (r.atg o scp pol a d) ∧ (∀ f, r.scr = some f → performs .scrRmw (f o scp a d)) ∧
    (∀ l rest, (lanes.filter fun l => (ea l).toNat % n != 0) = l :: rest →
      exec (r.atg o scp pol a d) s = .next (faultAt s 4 0x10 (faultLanes s vec (l :: rest)) (ea l)))

/-- The group is in a run of work at an integrity level, with nothing of its own under way. -/
structure BufferedAccess (s : State) (w : Workgroup) (il : Nat) : Prop where
  wg    : curWg s = some w
  il    : curIl s = il
  lead  : s.grp.role = .lead
  inRun : s.grp.phase = .inRun
  queue : s.homeQ = []
  walks : s.walks = []

/-- R202, R206, R207, R289, R363, R372: the stg of an IL1 group enters its commit buffer translated, that of a deterministic workgroup its
own buffer, that of the leading member of a checked pair its commit buffer untranslated: no byte of memory changes. A commit buffer has an entry for each
lane, also where the instruction makes one access (assumption 50). -/
def BufferedStores : Prop :=
  ∀ (z : BitVec 3) (o scp pol : BitVec 2) (a d : BitVec 7) (s : State) (w : Workgroup), z.toNat ≤ 4 → s.c.xp.c = 127 → Sound s →
    let vec := s.c.isVec a.toNat || s.c.isVec d.toNat
    let lanes := acting s vec
    let size := 2 ^ z.toNat
    let ea := globalAt s a.toNat ((BitVec.ofNat 11 s.c.xp.e).toInt * (size : Nat))
    let data := fun l => (List.range size).map (operandByte s d.toNat z.toNat l)
    let once := onceOnly s a lanes data
    let entry := fun (l : Lane) (pas : List Nat) =>
      (⟨.store l (ea l) pas (data l) pol.toNat scp.toNat, s.c.npc, s.c.twin, wordOf fun k => lanes.contains k⟩ : BufEnt)
    Issues s vec [(d.toNat, szRegs z.toNat), (a.toNat, 2)] [] → (∀ l ∈ lanes, (ea l).toNat % size = 0) →
    (∀ pas : Lane → Nat, BufferedAccess s w 1 → Translates s .store lanes ea pas size →
      poolUsed s s.grp.wg + lanes.length ≤ 256 * (groupsOf s s.grp.wg .lead).length →
      ∃ t, exec (.stg z o scp pol a d) s = .next t ∧ MemoryOnly s t ∧ t.wgs = s.wgs ∧ (∀ x, byteAt t w x = byteAt s w x) ∧
        Completes s t 4 .empty ∧ t.grp = { s.grp with c := counted s t, cbuf := s.grp.cbuf ++ lanes.map fun l => entry l [pas l] }) ∧
    (∀ pas : Lane → Nat, BufferedAccess s w 0 → (part s w.ref.part).det = true → Translates s .store lanes ea pas size →
      (∀ l ∈ lanes, inHost (pas l) = false) →
      ∃ t, exec (.stg z o scp pol a d) s = .next t ∧ MemoryOnly s t ∧ (∀ x, byteAt t w x = byteAt s w x) ∧
        Completes s t 4 .empty ∧ t.grp = { s.grp with c := counted s t } ∧
        t.wgs = s.wgs.map fun v => if v.key = w.key then
          { v with det := v.det ++ (if once then lanes.take 1 else lanes).map (fun l => (s.grp.gid, .write (ea l) (pas l) (data l))),
                   detBytes := v.detBytes + (if once then lanes.take 1 else lanes).length * size } else v) ∧
    (BufferedAccess s w 2 → ordReleases o.toNat = false → vec = true ∨ s.c.goes = true →
      ∃ t, exec (.stg z o scp pol a d) s = .next t ∧ Completes s t 4 .empty ∧
        t = { s with grp := { s.grp with
                                c := counted s t
                                cbuf := s.grp.cbuf ++ lanes.map fun l => entry l []
                                cmp := s.grp.cmp ++ [{ kind := 1, npc := s.c.npc, twin := s.c.twin, lpcs := [], exitM := 0, waitM := 0,
                                                       items := lanes.map fun l => ⟨l.val, ea l, BitVec.ofNat 128 (leNat (data l)),
                                                         BitVec.ofNat 16 (2 ^ size - 1), pol.toNat, scp.toNat⟩ }] } })

/-- R178, R192, R196, R202, R206, R207, R213, R216, R226, R289, R316, R363, R367, R372: stg and scr st, performed, sent home, waiting for a walk, emulated
when misaligned, or buffered by the work's integrity level or determinism (assumption 50). -/
def Obligations.GlobalAndBufferedStores : Prop := GlobalStores ∧ EmulatedStores ∧ BufferedStores

/-- R212, R213, R313: the fault of one address by the checks in their order. -/
def AddressChecks : Prop :=
  ∀ (s : State) (w : Workgroup) (u : Use) (va : DWord), curWg s = some w →
    let store := u = .store ∨ u = .scrStore
    let trans : BitVec 8 := if store then 0x13 else 0x11
    let prot : BitVec 8 := if store then 0x14 else 0x12
    let sec := (part s w.ref.part).world
    let found := (lookup s s.grp.core w.ref.part w.ref.tenant va.toNat).2
    (2 ^ 49 ≤ va.toNat → (probe s u va).2 = .error trans) ∧
    (va.toNat < 2 ^ 49 → found = .bad → (probe s u va).2 = .error trans) ∧
    (va.toNat < 2 ^ 49 → found = .world → (probe s u va).2 = .error 0x17) ∧
    ∀ x, va.toNat < 2 ^ 49 → found = .ok x →
      let pa := x.frame + (va.toNat - x.base)
      let s1 := (lookup s s.grp.core w.ref.part w.ref.tenant va.toNat).1
      let reads := !store
      let writes := decide store || u.access == .atomic
      ((x.ns = false ∧ sec = false) ∨ (backed pa = true ∧ x.ns = secureAt s1 pa) → (probe s u va).2 = .error 0x17) ∧
      (x.ns = true ∨ sec = true → (backed pa = true → x.ns = !secureAt s1 pa) →
        ((reads = true ∧ x.pr = false) ∨ (writes = true ∧ x.w = false) ∨ backed pa = false → (probe s u va).2 = .error prot) ∧
        ((reads = true → x.pr = true) → (writes = true → x.w = true) → backed pa = true →
          (u.screed = true → (probe s u va).2 =
            if inScreed pa = true ∧ (part s1 w.ref.part).ownsBank (bankOf pa) = true then .ok pa else .error 0x16) ∧
          (u.screed = false → inScreed pa = true → (probe s u va).2 = .error prot) ∧
          (u = .load ∨ u = .store → inScreed pa = false → (probe s u va).2 = .ok pa) ∧
          (∀ op, u = .atomic op → inScreed pa = false → inHost pa = false → (probe s u va).2 = .ok pa) ∧
          (∀ op, u = .atomic op → inHost pa = true → op ≠ .add → op ≠ .xchg → op ≠ .cas → (probe s u va).2 = .error 0x12)))

/-- The lanes of an access by the answers to their checks: those that pass, with their addresses, and those that fault, with their causes. -/
def passed (rs : List (Lane × Except (BitVec 8) Nat)) : List Lane := (oks rs).map (·.1)

/-- Lane l is the lowest that faults, with its cause; the lanes that pass go to these addresses, where lanes of one address go to one. -/
structure SomeFault (rs : List (Lane × Except (BitVec 8) Nat)) (ea : Lane → DWord) (pas : Lane → Nat) (n : Nat) (l : Lane) (c : BitVec 8)
    (rest : List Lane) : Prop where
  lowest : ∃ xs, fails rs = (l, c) :: xs ∧ xs.map (·.1) = rest
  goods  : ∀ x ∈ oks rs, x.2 = pas x.1 ∧ (ea x.1).toNat % n = 0 ∧ x.2 % n = 0
  same   : ∀ j ∈ passed rs, ∀ k ∈ passed rs, ea j = ea k → pas j = pas k

/-- The results of the lanes that did not fault are under way (R213); with N or without such a lane there are none. -/
def ResultsOf (s t : State) (n : Bool) (d regs : Nat) (good : Mask) (lanes : List Lane) (val : Lane → BitVec 128) : Prop :=
  if n = true ∨ good = 0 then t.grp.arr = s.grp.arr
  else t.c.isPend d 1 = true ∧ ∃ v, t.grp.arr = s.grp.arr ++ [v] ∧ v.reg = d ∧ v.nregs = regs ∧ v.mask = good ∧ ∀ l ∈ lanes, v.vals[l] = val l

/-- A group outside its handler, and the handler it enters. -/
structure MayFault (s : State) (w : Workgroup) (h : PickRec) : Prop where
  plain   : PlainAccess s w
  sound   : Sound s
  handler : handlerOf s = some h
  outside : s.c.inH = false

/-- R213, R346, R352: ldg and scr ld of which some lanes fault: those lanes enter the handler, and the others have the bytes of their addresses under way. -/
def FaultingLoads : Prop :=
  ∀ (a d : BitVec 7) (o scp : BitVec 2) (s : State) (w : Workgroup) (h : PickRec), MayFault s w h → s.c.xp.c = 127 →
    let faults := fun (i : Instr) (n : Bool) (u : Use) (size : Nat) (off : Int) (regs : Nat) (current : Prop) =>
      let vec := kindVec s.c n d.toNat [a.toNat]
      let lanes := acting s vec
      let ea := globalAt s a.toNat off
      let rs := (probeAll s u ea lanes).2
      Issues s vec [(a.toNat, 2)] (dst n d.toNat regs) → (vec = true → n = true ∨ isS d.toNat = false) → (∀ l ∈ lanes, (ea l).toNat % size = 0) → current →
      ∀ pas l c rest, SomeFault rs ea pas size l c rest →
        let bad := faultLanes s vec (l :: rest)
        ∃ t, exec i s = .next t ∧ LaneFaulted s t h bad c (ea l) ∧ t.c.icount = s.c.icount ∧ t.wgs = s.wgs ∧ (∀ x, byteAt t w x = byteAt s w x) ∧
          ResultsOf s t n d.toNat regs ((if vec then s.c.enabled else s.c.actMask) &&& ~~~bad) (passed rs) fun k => BitVec.ofNat 128 (numAt s w (pas k) size)
    (∀ (z : BitVec 3) (pol : BitVec 2) (n : Bool), z.toNat ≤ 4 →
      faults (.ldg z o scp pol a n d) n .load (2 ^ z.toNat) ((BitVec.ofNat 11 s.c.xp.e).toInt * (2 ^ z.toNat : Nat)) (szRegs z.toNat)
        (pol = 2 → CopiesCurrent s s.grp.core)) ∧
    faults (.scrLd o scp a d) false .scrLoad (opBytes s) (atomicOffset s) (opRegs s) True

/-- R213, R219, R226, R346, R352: atg and the read-modify-writes of scr of which some lanes fault: the others are performed, with their results under way,
before those lanes enter the handler. -/
def FaultingAtomics : Prop :=
  ∀ r ∈ atomicRows, ∀ (o scp pol : BitVec 2) (a d : BitVec 7) (s : State) (w : Workgroup) (h : PickRec), MayFault s w h →
    let vec := atomicVec s r a.toNat d.toNat
    let n := opBytes s
    let lanes := acting s vec
    let ea := globalAt s a.toNat (atomicOffset s)
    let new := newAt s r d.toNat
    let init := fun pa => numAt s w pa n
    AtomicIssues s r a.toNat d.toNat 2 vec → (∀ l ∈ lanes, (ea l).toNat % n = 0) →
    let faults := fun (u : Use) (i : Instr) => ∀ pas l c rest, SomeFault (probeAll s u ea lanes).2 ea pas n l c rest →
      let good := passed (probeAll s u ea lanes).2
      let bad := faultLanes s vec (l :: rest)
      ∃ t, exec i s = .next t ∧ LaneFaulted s t h bad c (ea l) ∧ t.homeQ = [] ∧
        t.wgs = (if good.isEmpty then s.wgs else s.wgs.map fun v => if v.key = s.grp.wg then { v with atomic := true, visible := true } else v) ∧
        ResultsOf s t false d.toNat (opRegs s) ((if vec then s.c.enabled else s.c.actMask) &&& ~~~bad) good
          (fun k => BitVec.ofNat 128 (metBy new pas init good k)) ∧
        (∀ k ∈ good, numAt t w (pas k) n = leftIn new pas init good (pas k)) ∧
        ∀ x, (∀ k ∈ good, x < pas k ∨ pas k + n ≤ x) → byteAt t w x = byteAt s w x
    faults (.atomic r.op) (r.atg o scp pol a d) ∧ ∀ f, r.scr = some f → faults .scrRmw (f o scp a d)

/-- R213, R226, R316, R346, R352, R360, R361: scr st of which some lanes fault stores the others and enters the handler with those; stg goes on, its other lanes
stored, with one record of the lanes that fault, which wait for a place while the queue of the core is full. -/
def FaultingStores : Prop :=
  ∀ (o scp pol : BitVec 2) (a d : BitVec 7) (s : State) (w : Workgroup) (h : PickRec), MayFault s w h → s.c.xp.c = 127 →
    let vec := s.c.isVec a.toNat || s.c.isVec d.toNat
    let lanes := acting s vec
    (let ea := globalAt s a.toNat (atomicOffset s)
     let rs := (probeAll s .scrStore ea lanes).2
     Issues s vec [(d.toNat, opRegs s), (a.toNat, 2)] [] → (∀ l ∈ lanes, (ea l).toNat % opBytes s = 0) →
     ∀ pas l c rest, SomeFault rs ea pas (opBytes s) l c rest →
       ∃ t, exec (.scrSt o scp a d) s = .next t ∧ LaneFaulted s t h (faultLanes s vec (l :: rest)) c (ea l) ∧ t.wgs = s.wgs ∧ t.grp.arr = s.grp.arr ∧
         ∀ x, byteAt t w x = storedByte (passed rs) (opBytes s) (fun l k => pas l + k)
           (fun l k => BitVec.ofNat 8 (operand s d.toNat l / 256 ^ k)) x (byteAt s w x)) ∧
    ∀ z : BitVec 3, z.toNat ≤ 4 →
      let size := 2 ^ z.toNat
      let ea := globalAt s a.toNat ((BitVec.ofNat 11 s.c.xp.e).toInt * (size : Nat))
      let data := fun l => (List.range size).map (operandByte s d.toNat z.toNat l)
      let once := onceOnly s a lanes data
      let rs := (probeAll s .store ea lanes).2
      let held := (s.sfq.filter fun e => e.core == s.grp.core).length
      Issues s vec [(d.toNat, szRegs z.toNat), (a.toNat, 2)] [] → (∀ l ∈ lanes, (ea l).toNat % size = 0) →
      (∀ l ∈ lanes, (ea l).toNat < 2 ^ 49 → (tlbHit s s.grp.core w.ref.part w.ref.tenant (ea l).toNat).isSome = true) →
      (∃ g ∈ allGroups s, g.wg = s.grp.wg ∧ g.gid = s.grp.gid ∧ g.role = .lead ∧ g.phase ≠ .ended) →
      ∀ pas l c rest, SomeFault rs ea pas size l c rest →
        let acts := passed (if once then rs.take 1 else rs)
        let here := acts.filter fun l => pol == 0 || !inMain (pas l)
        let away := acts.filter fun l => !(pol == 0 || !inMain (pas l))
        ∃ t, exec (.stg z o scp pol a d) s = .next t ∧ MemoryOnly { s with sfq := t.sfq } t ∧ t.wgs = s.wgs ∧
          Completes s t 4 .empty ∧ t.grp = { s.grp with c := counted s t } ∧
          (∀ x, byteAt t w x = storedByte here size (fun l k => pas l + k) (operandByte s d.toNat z.toNat) x (byteAt s w x)) ∧
          t.homeQ = (away.map fun l => ⟨s.grp.core, s.grp.wg, s.grp.gid, pas l / 128, .store pol.toNat (pas l) (data l)⟩) ∧
          (held < 16 → t.walks = [] ∧ ∃ e, t.sfq = s.sfq ++ [e] ∧ e.core = s.grp.core ∧ e.wg = s.grp.wg ∧ e.gid = s.grp.gid ∧ e.role = .lead ∧
            e.cause = c ∧ e.va = (ea l).setWidth 49 ∧ (e.highva = true ↔ 2 ^ 49 ≤ (ea l).toNat) ∧ e.npc = s.c.npc ∧ e.twin = s.c.twin ∧
            e.data = BitVec.ofNat 64 (leNat ((data l).take 8)) ∧ ∀ i : Lane, e.mask.getLsbD i.val = (l :: rest).contains i) ∧
          (16 ≤ held → t.sfq = s.sfq ∧
            t.walks = [{ core := s.grp.core, wg := s.grp.wg, gid := s.grp.gid, npc := s.c.npc, twin := s.c.twin, size := z.toNat,
                         pol := pol.toNat, scp := scp.toNat, one := once, stuck := true, lanes := (l :: rest).map fun k => ⟨k, ea k, data k⟩ }])

/-- R212, R213, R219, R226, R313, R316, R346, R352, R360, R361: the fault of one address by the checks in their order, and what the accesses of each kind do of
which some lanes fault. -/
def Obligations.AccessFaults : Prop := AddressChecks ∧ FaultingLoads ∧ FaultingAtomics ∧ FaultingStores

/-- A request under way that its home can carry out: of a workgroup whose pages are not tracked, within one line of main memory. -/
def PlainRequest (s : State) (r : HomeReq) : Prop :=
  (∃ v, wgOf s r.wg = some v ∧ ∀ f, partVf s v.ref.part = some f → (s.vfs[f]).tracking = false) ∧
    ∀ pol pa bs, r.kind = .store pol pa bs → inMain pa = true ∧ pa % 128 + bs.length ≤ 128

/-- A byte after stores of some requests have landed, in their order. -/
def landed (rs : List HomeReq) (a : Nat) (old : Byte) : Byte :=
  rs.foldl (fun b r => match r.kind with
    | .store _ pa bs => if pa ≤ a ∧ a < pa + bs.length then (bs[a - pa]?).getD b else b
    | .fetch _ => b) old

/-- R182, R194, R227 to R230, R362: fences and cache operations: the requests that a release waits for, at any scope, are carried out, with those before
them at the same lines, and their bytes land; every other byte stays; an acquire at cluster scope or wider drops the core's si copies, and at any scope no
value that was taken early for its group is used after it; cinv and cflush act on the core's L1, xfence waits for its classes of tasks, drainst delivers a
store-fault record; no register changes. -/
def Obligations.FencesAndCacheOperations : Prop :=
  ∀ (s : State) (w : Workgroup), curWg s = some w → curIl s ≠ 2 → s.grp.phase = .inRun → s.walks = [] → s.c.xpw = none → Sound s →
    Issues s false [] [] →
    let mine := (s.homeQ.filter fun r => r.wg == s.grp.wg && r.gid == s.grp.gid).map (·.line)
    let fenced (rel : Bool) (acq : Option Nat) (i : Instr) : Prop :=
      let done := if rel then s.homeQ.filter fun r => mine.contains r.line else []
      ∃ t, exec i s = .next t ∧ Completes s t 4 .empty ∧ t.grp = { s.grp with c := counted s t } ∧ MemoryOnly s t ∧ t.wgs = s.wgs ∧
        t.homeQ = (if rel then s.homeQ.filter fun r => !mine.contains r.line else s.homeQ) ∧
        (∀ n, acq = some n → (n ≠ 0 → ∀ line k x, l1WordOf t s.grp.core line k ≠ .si x) ∧
          ∀ e ∈ t.early, ¬ (e.wg = s.grp.wg ∧ e.gid = s.grp.gid) ∨ n ≠ 0 ∧ e.core ≠ s.grp.core) ∧
        ((∀ r ∈ done, PlainRequest s r) → ∀ x, byteAt t w x = landed done x (byteAt s w x)) ∧
        (done = [] → t = { s with grp := t.grp, l1 := t.l1, early := t.early })
    let acquires (o scp : BitVec 2) (after : Bool) : Option Nat := if o != 2 && after then some scp.toNat else none
    (∀ o scp : BitVec 2, fenced (o != 1) (acquires o scp true) (.fence o scp)) ∧
    (∀ (clb cla : BitVec 4) (o scp : BitVec 2),
      let open_ := w.kicks.any fun k => k.gid == s.grp.gid && k.recs.any fun r =>
        !(r.state == .done || r.state == .cancelled || r.state == .rejected) &&
          (cla.getLsbD 1 && rKind r.bytes == 1 || cla.getLsbD 2 && rKind r.bytes == 2)
      (open_ = false → fenced (o != 1 && cla.getLsbD 0) (acquires o scp (clb.getLsbD 0)) (.xfence clb cla o scp)) ∧
      (open_ = true → exec (.xfence clb cla o scp) s = .next { s with grp := { s.grp with phase := .stalled .drain } })) ∧
    ((s.c.inH = true ∨ nextSf s = none) → fenced true none .drainst) ∧
    (∀ e h, s.c.inH = false → nextSf s = some e → s.homeQ = [] → handlerOf s = some h →
      ∃ t, exec .drainst s = .next t ∧ t.c.inH = true ∧ t.c.run.pc = h.pc ∧ t.c.frame.cause = e.cause ∧ t.c.frame.imprecise = true ∧
        t.c.frame.mask = e.mask ∧ t.c.frame.npc = s.c.npc ∧ t.c.frame.twin = e.twin ∧ t.c.recD = e.data ∧ t.sfq = s.sfq.erase e) ∧
    fenced false (some 2) .cinv ∧
    (∃ t, exec .cflush s = .next t ∧ Completes s t 4 .empty ∧ t.grp = { s.grp with c := counted s t } ∧ MemoryOnly s t ∧
      t.homeQ = s.homeQ ∧ (∀ x, byteAt t w x = byteAt s w x) ∧ ∀ line k, heddleWord t line k ≠ .O s.grp.core)

/-! ### Tasks and barrier objects (R153, R154, R156 to R159, R167, R168, R170) -/

/-- The barrier object at a local offset (R157), with the reserved bits that stand there. -/
def objAt (s : State) (r : Role) (key o : Nat) : BarObj :=
  let word (k : Nat) := localNum s r key (o + 4 * k) 4
  { phase := word 0 / 2 ^ 31 % 2 == 1, inv := word 0 / 2 ^ 30 % 2 == 1, pend := word 0 % 2 ^ 16, init := word 1 % 2 ^ 16,
    txb := BitVec.ofNat 32 (word 2), status := BitVec.ofNat 32 (word 3), resv := word 0 / 2 ^ 16 % 2 ^ 14, resvI := word 1 / 2 ^ 16 }

/-- The actions of R158 on a live object: bytes, an arrival, the end of a phase; an invalidated object does not change. -/
def addTxb (x : Word) (b : BarObj) : BarObj := if b.inv then b else { b with txb := b.txb + x }

def arrival (b : BarObj) : BarObj :=
  if b.inv then b else if b.pend = 0 then { b with status := b.status ||| 0x800 } else { b with pend := b.pend - 1 }

def phaseEnd (b : BarObj) : BarObj :=
  if b.inv = false ∧ b.pend = 0 ∧ b.txb = 0 then { b with phase := !b.phase, pend := b.init } else b

/-- A BARO form that meets no fault: its lanes act on their objects one at a time in increasing number, its result is what each lane
saw, other bytes stay; a lane off 16 bytes raises 0x10, an object outside the allocation 0x15, before any lane acts. -/
def BarrierForm (i : Instr) (s : State) (w : Workgroup) (a : BitVec 7) (srcs : List Nat) (res : Option (Bool × BitVec 7))
    (act : Lane → BarObj → BarObj) (out : Lane → BarObj → Word) : Prop :=
  let vec := match res with
    | some (n, d) => kindVec s.c n d.toNat srcs
    | none => srcs.any s.c.isVec
  let dsts := match res with
    | some (n, d) => dst n d.toNat 1
    | none => []
  let lanes := acting s vec
  let off := fun l => (s.c.rd a.toNat l).toNat
  let obj := fun o => objAt s s.grp.role w.key o
  let met := fun l => metBy (fun o l => act l o) off obj lanes l
  Issues s vec (srcs.map (·, 1)) dsts → (vec = true → ∀ n d, res = some (n, d) → n = true ∨ isS d.toNat = false) →
  ((∀ l ∈ lanes, off l % 16 = 0 ∧ off l + 16 ≤ w.size) →
    ∃ t, exec i s = .next t ∧ LocalOnly { s with l1 := t.l1, early := t.early } t ∧ (∀ e ∈ t.early, e ∈ s.early) ∧ (∀ x, cohRead t x 1 = cohRead s x 1) ∧
      (∀ l ∈ lanes, objAt t s.grp.role w.key (off l) = leftIn (fun o l => act l o) off obj lanes (off l)) ∧
      (∀ key x, (∀ l ∈ lanes, key = w.key → x < off l ∨ off l + 16 ≤ x) → localAt t s.grp.role key x = localAt s s.grp.role key x) ∧
      match res with
      | none => Completes s t 4 .empty ∧ t.grp = { s.grp with c := counted s t }
      | some (n, d) => ∃ u, t.grp = u.grp ∧ LaneDone s u 4 srcs n d.toNat fun l => if vec then out l (met l) else out 0 (met 0)) ∧
  (∀ l rest, (lanes.filter fun l => off l % 16 != 0) = l :: rest →
    exec i s = .next (faultAt s 4 0x10 (faultLanes s vec (l :: rest)) (BitVec.ofNat 64 (off l)))) ∧
  ((∀ l ∈ lanes, off l % 16 = 0) → ∀ l rest, (lanes.filter fun l => decide (w.size < off l + 16)) = l :: rest →
    exec i s = .next (faultAt s 4 0x15 (faultLanes s vec (l :: rest)) (BitVec.ofNat 64 (off l))))

/-- R157, R158, R168: binit, barrive, bexpect, bwait, btest and binval on barrier objects. What t0 holds outside the active
mask, and after a scalar instruction under a false guard, is the model's choice (assumption 29). -/
def Obligations.BarrierObjects : Prop :=
  ∀ (b a : BitVec 7) (n : Bool) (d : BitVec 7) (s : State) (w : Workgroup), curWg s = some w → curIl s ≠ 2 → s.grp.phase = .inRun → Sound s →
    s.c.xp.c = 127 → s.c.xp.e = 0 →
    (∀ k ∈ s.walks, ¬ (k.wg = s.grp.wg ∧ k.gid = s.grp.gid)) → (∀ r ∈ s.homeQ, ¬ (r.wg = s.grp.wg ∧ r.gid = s.grp.gid)) →
    let x := fun l => s.c.rd b.toNat l
    let vec := [a.toNat, b.toNat].any s.c.isVec
    ((∀ l ∈ acting s vec, (x l).toNat % 2 ^ 16 ≠ 0) →
      BarrierForm (.binit b a) s w a [a.toNat, b.toNat] none
        (fun l _ => { phase := false, inv := false, pend := (x l).toNat % 2 ^ 16, init := (x l).toNat % 2 ^ 16, txb := 0, status := 0 })
        (fun _ _ => 0)) ∧
    (Issues s vec [(a.toNat, 1), (b.toNat, 1)] [] → ∀ l rest, ((acting s vec).filter fun l => (x l).toNat % 2 ^ 16 == 0) = l :: rest →
      exec (.binit b a) s = .next (faultAt s 4 0x02 (faultLanes s vec (l :: rest)) 0)) ∧
    BarrierForm (.barrive b a n d) s w a [a.toNat, b.toNat] (some (n, d)) (fun l o => phaseEnd (arrival (addTxb (x l) o)))
      (fun _ o => if o.phase then 1 else 0) ∧
    BarrierForm (.bexpect b a) s w a [a.toNat, b.toNat] none (fun l o => phaseEnd (addTxb (x l) o)) (fun _ _ => 0) ∧
    BarrierForm (.bwait b a n d) s w a [a.toNat, b.toNat] (some (n, d)) (fun _ o => o)
      (fun l o => if o.inv = true ∨ o.phase ≠ bitOf (x l) 0 then o.status else 0xFFFFFFFF) ∧
    BarrierForm (.btest a n d) s w a [a.toNat] (some (n, d)) (fun _ o => o)
      (fun _ o => BitVec.ofNat 32 ((if o.phase then 2 ^ 31 else 0) + (if o.inv then 2 ^ 30 else 0) + o.resv * 2 ^ 16 + o.pend)) ∧
    BarrierForm (.binval a) s w a [a.toNat] none (fun _ o => { o with inv := true, status := o.status ||| 0x1000 }) (fun _ _ => 0)

/-- A scalar operand. -/
def scalarOf (s : State) (a : BitVec 7) : Nat := (s.c.rd a.toNat s.c.scalarLane).toNat

/-- The record that a kick of an unchecked workgroup takes at a local offset (R153, R154). -/
def snapshot (s : State) (w : Workgroup) (o : Nat) : TaskRec :=
  let b := (List.range 64).map fun k => localAt s .lead w.key (o + k)
  { off := o, bytes := b, bytesT := b, state := .pending, count := leNat ((b.drop 2).take 1), issued := false, err := 0, fault := 0 }

/-- The STAT word of a record in local memory (R147). -/
def statWord (s : State) (w : Workgroup) (o : Nat) : Nat := localNum s .lead w.key (o + 4) 4

/-- R153, R154, R156, R167, R170: tkick snapshots its list and hands the records without predecessors to the walker, or rejects a malformed list as a
whole; tcancel cancels the records still pending; tstat reads STAT words; and the checks that come first. That every record of a rejected list or of a
cancelled kick is marked before any is finished is the model's choice (assumption 12), and so is which of two kicks of one list tcancel names (assumption
62). -/
def Obligations.TaskInstructions : Prop :=
  ∀ (b a : BitVec 7) (n : Bool) (d : BitVec 7) (s : State) (w : Workgroup), PlainAccess s w → s.grp.role = .lead → Sound s →
    s.c.xp.c = 127 → s.c.xp.e = 0 →
    let list := scalarOf s a
    let count := scalarOf s b
    let recs := (List.range count).map fun i => snapshot s w (list + 64 * i)
    let busy := ((s.wgs.filter fun v => v.core == w.core).map fun v => v.kicks.length).sum
    let left := w.kicks.filter fun k => !k.recs.all fun r => r.state == .done || r.state == .cancelled || r.state == .rejected
    (Issues s false [(a.toNat, 1), (b.toNat, 1)] [] → s.c.isVec a.toNat = false → s.c.isVec b.toNat = false →
      (s.c.goes = false → ∃ t, exec (.tkick b a) s = .next t ∧ PlainDone s t 4) ∧
      (s.c.goes = true →
        (count = 0 ∨ 256 < count → exec (.tkick b a) s = .next (faultAt s 4 0x02 s.c.actMask 0)) ∧
        (1 ≤ count → count ≤ 256 → list % 64 ≠ 0 → exec (.tkick b a) s = .next (faultAt s 4 0x10 s.c.actMask (BitVec.ofNat 64 list))) ∧
        (1 ≤ count → count ≤ 256 → list % 64 = 0 →
          (w.size < list + 64 * count → exec (.tkick b a) s = .next (faultAt s 4 0x15 s.c.actMask (BitVec.ofNat 64 list))) ∧
          (list + 64 * count ≤ w.size → 16 ≤ busy → exec (.tkick b a) s = .next { s with grp := { s.grp with phase := .stalled .kicks } }) ∧
          (list + 64 * count ≤ w.size → busy < 16 → (∀ k ∈ w.kicks, k.key ≠ s.fresh) → (∀ q ∈ s.readyQ, q.kick ≠ s.fresh) →
            (listBad recs = false → (∀ r ∈ recs, recErr (fmtMasked s w.ref.part r.bytes) 0 w.size list count r.bytes = 0) →
              ∃ t v, exec (.tkick b a) s = .next t ∧ Completes s t 4 .empty ∧ t.grp = { s.grp with c := counted s t } ∧ curWg t = some v ∧
                v.kicks = left ++ [⟨s.fresh, s.grp.gid, list, recs⟩] ∧ t.engq = s.engq ∧
                t.readyQ = s.readyQ ++ (recs.filter fun r => r.count == 0).map (fun r => ⟨engineOf w r.bytes, w.key, s.fresh, r.off, false, s.now⟩) ∧
                ∀ r ∈ recs, statWord t w r.off = 1) ∧
            (listBad recs = true → (∀ r ∈ recs, rBar r.bytes = 0xFFFFFFFF) →
              ∃ t v, exec (.tkick b a) s = .next t ∧ Completes s t 4 .empty ∧ t.grp = { s.grp with c := counted s t } ∧ curWg t = some v ∧
                v.kicks = left ∧ t.engq = s.engq ∧ t.readyQ = s.readyQ ∧ ∀ r ∈ recs, statWord t w r.off = 2 ^ 24 + 5))))) ∧
    (Issues s false [(a.toNat, 1)] [] → s.c.isVec a.toNat = false → s.c.goes = true →
      (list % 64 ≠ 0 → exec (.tcancel a) s = .next (faultAt s 4 0x10 s.c.actMask (BitVec.ofNat 64 list))) ∧
      (list % 64 = 0 → w.size < list + 64 → exec (.tcancel a) s = .next (faultAt s 4 0x15 s.c.actMask (BitVec.ofNat 64 list))) ∧
      (list % 64 = 0 → list + 64 ≤ w.size →
        (w.kicks.find? (·.list == list) = none → ∃ t, exec (.tcancel a) s = .next t ∧ PlainDone s t 4) ∧
        ∀ k, w.kicks.find? (·.list == list) = some k → w.kicks.find? (·.key == k.key) = some k → (k.recs.map (·.off)).Nodup →
          (∀ r ∈ k.recs, r.off % 64 = 0 ∧ rBar r.bytes = 0xFFFFFFFF ∧ (r.issued = true ↔ r.state ≠ .pending) ∧ r.state ≠ .none) →
          ∃ t, exec (.tcancel a) s = .next t ∧ Completes s t 4 .empty ∧ t.grp = { s.grp with c := counted s t } ∧ t.engq = s.engq ∧ t.readyQ = s.readyQ ∧
            ∀ r ∈ k.recs, statWord t w r.off = if r.state = .pending then 2 ^ 25 + 4 else statWord s w r.off)) ∧
    (let vec := kindVec s.c n d.toNat [a.toNat]
     let lanes := acting s vec
     let off := fun l => (s.c.rd a.toNat l).toNat
     Issues s vec [(a.toNat, 1)] (dst n d.toNat 1) → (vec = true → n = true ∨ isS d.toNat = false) →
      ((∀ l ∈ lanes, off l % 64 = 0 ∧ off l + 64 ≤ w.size) →
        ∃ t vals, exec (.tstat a n d) s = .next t ∧ t = { s with grp := t.grp, l1 := t.l1 } ∧ (∀ x, cohRead t x 1 = cohRead s x 1) ∧
          LoadDone s t vec n d.toNat 1 vals (BitVec.ofNat 64 (off (lanes.headD 0))) ∧
          (∀ l ∈ lanes, vals l = BitVec.ofNat 128 (statWord s w (off l))) ∧
          ((∃ l ∈ lanes, statWord s w (off l) % 8 = 3) → ∀ line k x, l1WordOf t s.grp.core line k ≠ .si x)) ∧
      (∀ l rest, (lanes.filter fun l => off l % 64 != 0) = l :: rest →
        exec (.tstat a n d) s = .next (faultAt s 4 0x10 (faultLanes s vec (l :: rest)) (BitVec.ofNat 64 (off l)))))

/-! ### Queues and tickets (R282 to R293) -/

/-- A 32-bit word of screed. -/
def screedWord (s : State) (pa : Nat) : Nat := leNat ((List.range 4).map fun k => Memory.get s.mem (pa + k))

/-- The queue of a stage stands whole at a physical address of screed (R282): HEAD, COMMIT, RESV and CLAIM, then its slots. -/
def QueueAt (s : State) (r : StageRef) (st : Stage) (pa : Nat) : Prop :=
  ∀ off, off < 64 + 64 * 2 ^ st.qlog → qAddr s r st off = some (pa + off) ∧ inScreed (pa + off) = true

/-- Slot of index i. -/
def slotPa (st : Stage) (pa i : Nat) : Nat := pa + 64 + 64 * (i % 2 ^ st.qlog)

/-- A scalar long-latency result of one value (R48). -/
def ScalarLong (s t : State) (d regs : Nat) (x : BitVec 128) : Prop :=
  ∃ vals, LongDone false s t d regs true s.c.actMask vals 0 ∧ vals 0 = x

/-- What translations leave of memory and the partitions (R310): words may have moved between L1s and their homes, L2 hits count; beside that the named
bytes have changed. -/
structure Walked (s t : State) (named : Nat → Prop) : Prop where
  parts : ∀ p, noHits (part t p) = noHits (part s p)
  main  : ∀ x, inMain x = true → cohRead t x 1 = cohRead s x 1
  bytes : ∀ x, inMain x = false → ¬ named x → Memory.get t.mem x = Memory.get s.mem x

/-- Beside the group and its workgroup, an instruction of a queue or a ticket changes the named bytes of screed, the marks, the si copies of its core, and
what its translations change. -/
structure ScreedOnly (s t : State) (named : Nat → Prop) : Prop extends Walked s t named where
  rest : t = { s with grp := t.grp, wgs := t.wgs, mem := t.mem, hed := t.hed, l1 := t.l1, l2 := t.l2, parts := t.parts, fresh := t.fresh, marks := t.marks,
                      held := t.held }

/-- Nothing of a queue or a ticket has changed, nor of the workgroup. -/
def ScreedRead (s t : State) : Prop := ScreedOnly s t (fun _ => False) ∧ t.wgs = s.wgs ∧ t.marks = s.marks ∧ t.held = s.held

/-- The bytes from `a` to below `b`. -/
def within (a b : Nat) (x : Nat) : Prop := a ≤ x ∧ x < b

/-- R282, R285, R286, R288, R289: qpush, qpop, qres, qcommit and qlen on a queue that stands in screed, their waits and their checks. -/
def QueueInstructions : Prop :=
  ∀ (b a d : BitVec 7) (s : State) (w : Workgroup) (st : Stage) (pa : Nat), PlainAccess s w → Sound s → s.c.xp.c = 127 → s.c.xp.e = 0 →
    s.c.goes = true →
    let r : StageRef := { w.ref with stage := scalarOf s a }
    let off := scalarOf s b
    let head := screedWord s pa
    let commit := screedWord s (pa + 4)
    let resv := screedWord s (pa + 8)
    let full := (resv + 2 ^ 32 - head) % 2 ^ 32 = 2 ^ st.qlog
    let committed (t : State) (i : Nat) : Prop :=
      (s.marks = [] → commit = i → screedWord t (pa + 4) = (i + 1) % 2 ^ 32 ∧ t.marks = []) ∧
      (commit ≠ i → (∀ m ∈ s.marks, m.1 = pa → m.2 ≠ commit) → screedWord t (pa + 4) = commit ∧ t.marks = (pa, i) :: s.marks)
    st.qlog ≤ 16 → scalarOf s a < 32 →
    (stageOf s r = some st → QueueAt s r st pa →
      (Issues s false [(a.toNat, 1), (b.toNat, 1)] [] → s.c.isVec a.toNat = false → s.c.isVec b.toNat = false →
        (off % 64 ≠ 0 → exec (.qpush b a) s = .next (faultAt s 4 0x10 s.c.actMask (BitVec.ofNat 64 off))) ∧
        (off % 64 = 0 → w.size < off + 64 → exec (.qpush b a) s = .next (faultAt s 4 0x15 s.c.actMask (BitVec.ofNat 64 off))) ∧
        (off % 64 = 0 → off + 64 ≤ w.size → full → exec (.qpush b a) s = .next { s with grp := { s.grp with phase := .stalled .queueFull } }) ∧
        (off % 64 = 0 → off + 64 ≤ w.size → ¬ full →
          ∃ t, exec (.qpush b a) s = .next t ∧ Completes s t 4 .empty ∧ t.grp = { s.grp with c := counted s t } ∧ t.wgs = s.wgs ∧
            ScreedOnly s t (fun x => within (pa + 4) (pa + 12) x ∨ within (slotPa st pa resv) (slotPa st pa resv + 64) x) ∧
            screedWord t (pa + 8) = (resv + 1) % 2 ^ 32 ∧ committed t resv ∧
            ∀ k < 64, Memory.get t.mem (slotPa st pa resv + k) = localAt s s.grp.role w.key (off + k))) ∧
      (Issues s false [(a.toNat, 1)] [(d.toNat, 2)] → s.c.isVec a.toNat = false → isV d.toNat = false →
        (16 ≤ w.resv.length → exec (.qres a d) s = .next (faultAt s 4 0x02 s.c.actMask 0)) ∧
        (w.resv.length < 16 → full → exec (.qres a d) s = .next { s with grp := { s.grp with phase := .stalled .queueFull } }) ∧
        (w.resv.length < 16 → ¬ full →
          ∃ t, exec (.qres a d) s = .next t ∧ ScreedOnly s t (within (pa + 8) (pa + 12)) ∧ screedWord t (pa + 8) = (resv + 1) % 2 ^ 32 ∧
            ScalarLong s t d.toNat 2 (BitVec.ofNat 128 ((st.qbase.toNat + 64 + 64 * (resv % 2 ^ st.qlog)) % 2 ^ 64)) ∧
            t.wgs = s.wgs.map fun v => if v.key = w.key then { v with resv := v.resv ++ [(r.stage, resv)] } else v)) ∧
      (Issues s false [(a.toNat, 1), (b.toNat, 2)] [] → s.c.isVec a.toNat = false → s.c.isVec b.toNat = false →
        let va := (s.c.rd64 b.toNat s.c.scalarLane).toNat
        (∀ i, (w.resv.find? fun x => x.1 == r.stage && (st.qbase.toNat + 64 + 64 * (x.2 % 2 ^ st.qlog)) % 2 ^ 64 == va) = some (r.stage, i) →
          ∃ t, exec (.qcommit b a) s = .next t ∧ Completes s t 4 .empty ∧ t.grp = { s.grp with c := counted s t } ∧
            ScreedOnly s t (within (pa + 4) (pa + 8)) ∧ committed t i ∧
            t.wgs = s.wgs.map fun v => if v.key = s.grp.wg then { v with resv := v.resv.erase (r.stage, i) } else v) ∧
        ((∀ x ∈ w.resv, x.1 = r.stage → (st.qbase.toNat + 64 + 64 * (x.2 % 2 ^ st.qlog)) % 2 ^ 64 ≠ va) →
          exec (.qcommit b a) s = .next (faultAt s 4 0x02 s.c.actMask 0))) ∧
      (Issues s false [(a.toNat, 1)] [(d.toNat, 1)] → s.c.isVec a.toNat = false → isV d.toNat = false →
        ∃ t, exec (.qlen a d) s = .next t ∧ ScreedRead s t ∧ ScalarLong s t d.toNat 1 (BitVec.ofNat 128 ((commit + 2 ^ 32 - head) % 2 ^ 32)))) ∧
    (stageOf s r = none → s.c.isVec a.toNat = false → s.c.isVec b.toNat = false → isV d.toNat = false →
      (Issues s false [(a.toNat, 1), (b.toNat, 1)] [] → exec (.qpush b a) s = .next (faultAt s 4 0x02 s.c.actMask 0)) ∧
      (Issues s false [(a.toNat, 1)] [(d.toNat, 2)] → exec (.qres a d) s = .next (faultAt s 4 0x02 s.c.actMask 0)) ∧
      (Issues s false [(a.toNat, 1)] [(d.toNat, 1)] → exec (.qlen a d) s = .next (faultAt s 4 0x02 s.c.actMask 0))) ∧
    (stageOf s w.ref = some st → QueueAt s w.ref st pa → Issues s false [(b.toNat, 1)] [(d.toNat, 1)] → s.c.isVec b.toNat = false →
      isV d.toNat = false → off % 64 = 0 → off + 64 ≤ w.size →
      let entry := (List.range 64).map fun k => Memory.get s.mem (slotPa st pa head + k)
      (screedWord s (pa + 12) % 2 = 1 ∨ head = commit →
        ∃ t, exec (.qpop b d) s = .next t ∧ ScreedRead s t ∧ ScalarLong s t d.toNat 1 0) ∧
      (screedWord s (pa + 12) % 2 = 0 → head ≠ commit → entryVoid entry = false → entryBad s w.ref.part w.ref.tenant entry = none →
        ∃ t, exec (.qpop b d) s = .next t ∧ ScreedOnly s t (within pa (pa + 4)) ∧ ScalarLong s t d.toNat 1 1 ∧ screedWord t pa = (head + 1) % 2 ^ 32 ∧
          (∀ k < 64, localAt t s.grp.role w.key (off + k) = Memory.get s.mem (slotPa st pa head + k)) ∧
          (∀ x, x < off ∨ off + 64 ≤ x → localAt t s.grp.role w.key x = localAt s s.grp.role w.key x) ∧
          ∀ line k x, l1WordOf t s.grp.core line k ≠ .si x))

/-- R290 to R293: ordr reads a ticket, ordw takes the turn or is held at its bank, ordp passes the turn on once; an object the grid does not
have raises 0x02. -/
def TicketInstructions : Prop :=
  ∀ (a d : BitVec 7) (s : State) (w : Workgroup), PlainAccess s w → Sound s → s.c.xp.c = 127 → s.c.xp.e = 0 → s.c.goes = true →
    Issues s false [(a.toNat, 1)] [(d.toNat, 1)] → s.c.isVec a.toNat = false → isV d.toNat = false →
    let k := scalarOf s a
    let tkn := leNat ((w.entry.drop 56).take 8) / 2 ^ 49 % 8
    (tkn ≤ k → exec (.ordr a d) s = .next (faultAt s 4 0x02 s.c.actMask 0) ∧ exec (.ordw a d) s = .next (faultAt s 4 0x02 s.c.actMask 0) ∧
      exec (.ordp a d) s = .next (faultAt s 4 0x02 s.c.actMask 0)) ∧
    ∀ pa, k < tkn → ticketPa s w k = some pa → inScreed pa = true → pa % 4 = 0 →
      let ticket := screedWord s pa
      let value := BitVec.ofNat 128 (ticket % 2 ^ 31 + screedWord s (pa + 4) / 2 ^ 31 % 2 * 2 ^ 31)
      (∃ t, exec (.ordr a d) s = .next t ∧ ScreedRead s t ∧ ScalarLong s t d.toNat 1 value) ∧
      (ticket = w.rank →
        ∃ t, exec (.ordw a d) s = .next t ∧ ScreedRead s t ∧ ScalarLong s t d.toNat 1 value ∧ ∀ line i x, l1WordOf t s.grp.core line i ≠ .si x) ∧
      (ticket ≠ w.rank →
        ∃ t, exec (.ordw a d) s = .next t ∧ Completes s t 4 .empty ∧ ScreedOnly s t (fun _ => False) ∧ t.wgs = s.wgs ∧ t.marks = s.marks ∧
          t.grp = { s.grp with c := { counted s t with pend := (s.c.setPend d.toNat 1).pend } } ∧
          t.held = s.held ++ [⟨w.key, w.ten, pa, w.rank, .ordw s.grp.gid d.toNat⟩]) ∧
      (ticket = w.rank → k ∉ w.passed →
        ∃ t, exec (.ordp a d) s = .next t ∧ ScreedOnly s t (within pa (pa + 4)) ∧ ScalarLong s t d.toNat 1 1 ∧
          screedWord t pa = (ticket + 1) % 2 ^ 32 ∧
          t.wgs = s.wgs.map fun v => if v.key = w.key then { v with passed := k :: v.passed } else v) ∧
      (ticket ≠ w.rank ∨ k ∈ w.passed →
        ∃ t, exec (.ordp a d) s = .next t ∧ ScreedRead s t ∧ ScalarLong s t d.toNat 1 0)

/-- R282, R285, R286, R288 to R293: the queue and the ticket instructions. -/
def Obligations.QueuesAndTickets : Prop := QueueInstructions ∧ TicketInstructions

/-! ### Runs and control (R38, R43 to R49, R234 to R238, R267 to R277, R294, R295) -/

/-- The fall-through of a transfer: the address after the SELV that follows it (R269). -/
def fallThrough (s : State) : Word := s.c.run.pc + 8

/-- The lanes of the run, those of the whole mask when it issues again for some of them (R356). -/
def ofRun (s : State) (l : Lane) : Bool := (s.c.redo.getD s.c.run.act).getLsbD l.val

/-- The lanes that take a transfer (R269); in a handler lane 0 decides (R353). -/
def taking (s : State) (cond : Lane → Bool) (l : Lane) : Bool :=
  if s.c.inH then l.val == 0 && cond 0 else s.c.run.act.getLsbD l.val && cond l

/-- A transfer: when every target of a taking lane passes the test of R268 the lanes move, or in a handler the handler, if a SELV follows, and
cause 0x05 is raised if none does; otherwise cause 0x04 with the failing lanes and the lowest failing target, and nothing moves. -/
def TransferForm (i : Instr) (s : State) (cond : Lane → Bool) (tgt : Lane → Int) (link : Option Nat) (m : Mask) : Prop :=
  let ok := fun l => 0 ≤ tgt l ∧ runEntry s (tgt l).toNat = true
  let selv := selvAt s (s.c.run.pc.toNat + 4)
  ((∀ l, taking s cond l = true → ok l) → selv = false → exec i s = .next (faultAt s 4 0x05 m 0)) ∧
  ((∀ l, taking s cond l = true → ok l) → selv = true →
    ∃ t, exec i s = .next t ∧ Completes s t 4 .empty ∧ SameMemory s t ∧
      t = { s with grp := { s.grp with c := { counted s t with v := t.c.v, lpc := t.c.lpc, leave := t.c.leave } } } ∧
      (∀ k l, t.c.vreg k l = if link = some k ∧ taking s cond l = true then fallThrough s else s.c.vreg k l) ∧
      if s.c.inH then
        t.c.lpc = s.c.lpc ∧ t.c.leave = .jump (if cond 0 then BitVec.ofInt 32 (tgt 0) else fallThrough s)
      else t.c.leave = .moved ∧ ∀ l : Lane, t.c.lpc[l] =
        if taking s cond l then BitVec.ofInt 32 (tgt l) else if ofRun s l then fallThrough s else s.c.lpc[l]) ∧
  ∀ l rest, ((List.finRange 32).filter fun l => taking s cond l && !(decide (0 ≤ tgt l) && runEntry s (tgt l).toNat)) = l :: rest →
    exec i s = .next (faultAt s 4 0x04 (wordOf fun k => (l :: rest).contains k)
      (BitVec.ofInt 64 (rest.foldl (fun m k => min m (tgt k)) (tgt l))))

/-- R45, R50, R267 to R271, R277: bra, call, jmps, calls and ret, each with a SELV after it. That a handler's call or calls writes the link in lane 0
alone is assumption 17. -/
def ControlTransfers : Prop :=
  ∀ (i : BitVec 17) (al ng : Bool) (p : BitVec 6) (a : BitVec 7) (s : State),
    let off : Int := match s.c.xpw with
      | none => i.toInt
      | some w => (w ++ i : BitVec 42).toInt
    let branch := fun _ : Lane => (s.c.npc.toNat : Int) + 2 * off
    let cond := fun l => al || (s.c.pred p.toNat l != ng)
    let reg := fun l => ((s.c.rd a.toNat l).toNat : Int)
    let guarded := fun l : Lane => s.c.guard.getLsbD l.val
    let link := if s.c.xp.c = 127 then 95 else s.c.xp.c
    let m := s.c.actMask &&& s.c.guard
    (Issues s false [] [] → TransferForm (.bra i al ng p) s cond branch none s.c.actMask) ∧
    (Issues s false [] [(95, 1)] → TransferForm (.call i al ng p) s cond branch (some 95) s.c.actMask) ∧
    (s.c.xp.e = 0 →
      (s.c.xp.c = 127 → Issues s false [(a.toNat, 1)] [] →
        (s.c.isVec a.toNat = false → TransferForm (.jmps a) s guarded reg none m) ∧ TransferForm (.ret a) s guarded reg none m) ∧
      (Issues s false [(a.toNat, 1)] [(link, 1)] → s.c.isVec a.toNat = false → isV link = true →
        TransferForm (.calls a) s guarded reg (some link) m))

/-- R38, R234, R272 to R276: the lanes that exit, wait at a knot or a bar, or yield; nop and the prefix; in a handler the four forms
raise 0x01, and so does a prefix before a prefix. -/
def PausesAndPrefixes : Prop :=
  ∀ (b a : BitVec 7) (x : BitVec 25) (s : State), Issues s false [] [] →
    (s.c.xpw = none → exec (.xp x) s =
      .next { s with grp := { s.grp with c := { s.c with xpw := some x, run := { s.c.run with pc := s.c.run.pc + 4 } } } }) ∧
    (s.c.xpw ≠ none → exec (.xp x) s = .next (faultAt s 4 0x01 s.c.actMask 0)) ∧
    (s.c.xp.c = 127 → s.c.xp.e = 0 →
      let take := fun l : Lane => s.c.run.act.getLsbD l.val && s.c.guard.getLsbD l.val
      let mask := wordOf take
      let paused (i : Instr) (f : State → Prop) : Prop :=
        ∃ t, exec i s = .next t ∧ Completes s t 4 .empty ∧ SameMemory s t ∧ f t ∧
          t = { s with grp := { s.grp with
                                  c := { counted s t with
                                    lpc := t.c.lpc
                                    exitM := t.c.exitM
                                    waitM := t.c.waitM
                                    barM := t.c.barM
                                    barN := t.c.barN
                                    barA := t.c.barA
                                    leave := t.c.leave } } }
      let same (t : State) : Prop := t.c.exitM = s.c.exitM ∧ t.c.waitM = s.c.waitM ∧ t.c.barM = s.c.barM ∧ t.c.barN = s.c.barN ∧ t.c.barA = s.c.barA
      let falls (t : State) : Prop := ∀ l : Lane, t.c.lpc[l] = if ofRun s l then fallThrough s else s.c.lpc[l]
      let illegal (i : Instr) : Prop := exec i s = .next (faultAt s 4 0x01 (s.c.actMask &&& s.c.guard) 0)
      (∃ t, exec .nop s = .next t ∧ PlainDone s t 4) ∧
      (s.c.inH = true → illegal .exit ∧ illegal .knot ∧ illegal .yield ∧ illegal (.bar b a)) ∧
      (s.c.inH = false → (∀ l, take l = true → ofRun s l = true) → selvAt s (s.c.run.pc.toNat + 4) = true →
        paused .exit (fun t => t.c.exitM = s.c.exitM ||| mask ∧ t.c.waitM = s.c.waitM ∧ t.c.barM = s.c.barM ∧ t.c.barN = s.c.barN ∧
          t.c.barA = s.c.barA ∧ t.c.leave = .moved ∧
          ∀ l : Lane, t.c.lpc[l] = if take l then s.c.lpc[l] else if ofRun s l then fallThrough s else s.c.lpc[l]) ∧
        paused .knot (fun t => t.c.exitM = s.c.exitM ∧ t.c.waitM = s.c.waitM ||| mask ∧ t.c.barM = s.c.barM ∧ t.c.barN = s.c.barN ∧
          t.c.barA = s.c.barA ∧ t.c.leave = .moved ∧ falls t) ∧
        paused .yield (fun t => same t ∧ t.c.leave = (if mask = 0 then .moved else .yielded) ∧ falls t) ∧
        (b.toNat < 16 → Issues s false [(a.toNat, 1)] [] → s.c.isVec a.toNat = false →
          paused (.bar b a) fun t => t.c.exitM = s.c.exitM ∧ t.c.waitM = s.c.waitM ||| mask ∧ t.c.barM = s.c.barM ||| mask ∧ t.c.leave = .moved ∧
            falls t ∧ ∀ l : Lane, t.c.barN[l] = (if take l then BitVec.ofNat 4 b.toNat else s.c.barN[l]) ∧
              t.c.barA[l] = if take l then s.c.rd a.toNat (lowest s.c.run.act) else s.c.barA[l])))

/-- R38, R45, R234, R267 to R277: transfers, and the lanes that exit, wait or yield; nop and the prefix. That a handler's call or calls writes the link
in lane 0 alone is assumption 17. -/
def Obligations.ControlAndPauses : Prop := ControlTransfers ∧ PausesAndPrefixes

/-- A record reaches the ring of a domain (R350, R351): its cause and type stand first in its slot, HEAD and SEQ advance and its vector is
signalled; without room or enable it is counted as lost. -/
def Reported (s t : State) (dom : Fin 64) (cause : BitVec 8) (type : Nat) : Prop :=
  let d := s.domains[dom]
  let pa := d.rbase.toNat + 64 * (d.head.toNat % 2 ^ d.rlog)
  if d.en = true ∧ (d.head - d.tail).toNat < 2 ^ d.rlog then
    devRead t pa 2 = [cause, BitVec.ofNat 8 type] ∧ (t.domains[dom]).head = d.head + 1 ∧ (t.domains[dom]).seq = d.seq + 1 ∧
      t.out = s.out ++ [.msix d.func.toNat d.vec.toNat]
  else (t.domains[dom]).lost = (if d.lost = 0xFFFFFFFF then d.lost else d.lost + 1) ∧ (t.domains[dom]).seq = d.seq + 1

/-- A group that has ended (R235): every lane exited, nothing waits, no frame. -/
def EndedGroup (g : Group) : Prop :=
  g.phase = .ended ∧ g.c.exitM = BitVec.allOnes 32 ∧ g.c.waitM = 0 ∧ g.c.parkM = 0 ∧ g.c.run = Run.none ∧ g.c.inH = false

/-- The group at the issue stage has ended. -/
def Ended (t : State) : Prop := EndedGroup t.grp

/-- The registers that a SELV names (R47): the first NW of its three, s0 aside. -/
def named (n : BitVec 2) (c b a : BitVec 7) : List Nat := (([a.toNat, b.toNat, c.toNat]).take n.toNat).filter (· != 96)

/-- A SELV may close the run: its registers are in bounds and none is still awaited (R48), none carries an error, every group stands once. -/
structure SelvCloses (s : State) (names : List Nat) : Prop where
  prefix_ : s.c.xpw = none
  inRun   : s.grp.phase = .inRun
  group   : s.grp.wg ≠ 0
  once    : ((allGroups s).map fun g => (g.wg, g.gid, g.role)).Nodup
  legal   : ∀ r ∈ names, isT r = false ∧ regBad s r 1 = false
  arrived : ∀ r ∈ names, unwritten s r = false
  clean   : ∀ m ∈ s.c.eccs, m.reg ∉ names
  il      : curIl s ≠ 2

/-- The context of a group whose SELV has closed its run: the lanes of the run stand at the next address or where their transfer left them; pending are the
registers that it does not name, of results whose first register it does not name. A pending register stands in State beside the first one of its result. -/
structure RunClosed (s : State) (names : List Nat) (c : Ctx) : Prop where
  run    : c.run = { Run.none with pc := c.run.pc }
  next   : s.c.inH = true → s.c.leave = .none → c.run.pc = s.c.run.pc + 4
  jump   : ∀ pc, s.c.leave = .jump pc → c.run.pc = pc
  lanes  : ∀ l : Lane, c.lpc[l] = if s.c.leave = .none ∧ s.c.inH = false ∧ s.c.run.act.getLsbD l.val = true then s.c.run.pc + 4 else s.c.lpc[l]
  left   : ∀ r, c.isPend r 1 = true ↔ ∃ u ∈ s.c.pend, u.2 = r ∧ u.1 ∉ names ∧ r ∉ names
  frame  : c = { s.c with pend := c.pend, lpc := c.lpc, run := c.run, redo := none, leave := .none,
                          eccs := s.c.eccs.filter fun m => !names.contains m.reg }

/-- The group of `s`, between runs and with context `c`, in `t`. -/
def Stands (s t : State) (gave : Bool) (c : Ctx) : Prop :=
  groupAt t s.grp.wg s.grp.gid s.grp.role = some { s.grp with phase := .between, stamp := s.fresh, gave := gave, c := c }

/-- A ready group of the core. -/
def readyOn (t : State) (core : Nat) (h : Group) : Prop := h ∈ allGroups t ∧ h.core = core ∧ readyGroup h = true

/-- The core turns to the ready group that R238 puts first among those that may be chosen, if there is one. -/
def TurnsTo (s t : State) (may : Group → Prop) : Prop :=
  (∃ h, readyOn t s.grp.core h ∧ may h) →
    readyOn t s.grp.core t.grp ∧ may t.grp ∧ ∀ h, readyOn t s.grp.core h → may h → before t h t.grp = false

/-- Lanes that waited go on. -/
def freed (c : Ctx) (m : Mask) : Ctx :=
  { c with waitM := c.waitM &&& ~~~m, barM := c.barM &&& ~~~m, migM := c.migM &&& ~~~m, arrM := c.arrM &&& ~~~m }

/-- Enough of a workgroup's groups have arrived at a barrier: its expected number, or all that have not ended (R274). -/
def met (b : WgBar) (alive : Nat) : Bool :=
  b.opened && decide ((if b.expected = 0 then alive else min b.expected alive) ≤ b.arrived.length)

/-- The lanes of a context of group `gid` that wait at barriers that are over. -/
def letGo (bars : Vector WgBar 16) (ends : Fin 16 → Bool) (gid : Fin 16) (c : Ctx) : Mask :=
  wordOf fun l => c.barM.getLsbD l.val && ends ((c.barN[l]).toFin) && (bars[((c.barN[l]).toFin : Fin 16)]).arrived.contains gid

/-- The barriers of a workgroup at which enough have arrived let the lanes of the groups that arrived go on, with an acquire of the core, and begin anew; the
group at issue has context `c` before. -/
structure BarriersSettle (s t : State) (w : Workgroup) (bars : Vector WgBar 16) (ends : Fin 16 → Bool) : Prop where
  wg     : wgOf t w.key = some { w with bars := Vector.ofFn fun n => if ends n then ⟨false, 0, []⟩ else bars[n] }
  wgs    : ∀ k, k ≠ w.key → wgOf t k = wgOf s k
  groups : ∀ h ∈ s.others, groupAt t h.wg h.gid h.role = some
             (if h.wg = w.key ∧ h.role = .lead then { h with c := freed h.c (letGo bars ends h.gid h.c) } else h)
  copies : (∃ n, ends n = true) → ∀ line k x, l1WordOf t w.core line k ≠ .si x
  same   : (∀ n, ends n = false) → t.l1 = s.l1
  bytes  : ∀ a, cohRead t a 1 = cohRead s a 1

/-- R43 to R49, R235, R236, R238, R274 to R276: a SELV waits for the registers it names; then it closes the run and the core turns to the ready
group that R238 puts first, after a yield to another if one is ready. With no lane live, the lanes that wait at a knot with the lowest continuation go
on, those at a bar arrive there with their group and all who arrived go on once enough have, and with none waiting the group ends, with a record if
lanes are parked. Which lane's A a bar takes is the model's choice (assumption 59). -/
def Obligations.RunEnds : Prop :=
  ∀ (y : Bool) (n : BitVec 2) (c b a : BitVec 7) (s : State),
    let names := named n c b a
    let selv := exec (.selv y n c b a) s
    let any := fun _ : Group => True
    (s.c.xpw ≠ none ∨ (∃ r ∈ names, isT r = true) → selv = .next (faultAt s 4 0x01 s.c.actMask 0)) ∧
    (s.c.xpw = none → (∀ r ∈ names, isT r = false) → (∃ r ∈ names, regBad s r 1 = true) → selv = .next (faultAt s 4 0x02 s.c.actMask 0)) ∧
    (s.c.xpw = none → (∀ r ∈ names, isT r = false ∧ regBad s r 1 = false) → (∃ r ∈ names, unwritten s r = true) →
      selv = .next { s with grp := { s.grp with phase := .stalled .selv } }) ∧
    (SelvCloses s names → (s.c.inH = true ∨ s.c.live ≠ 0) → (s.c.leave = .none ∨ s.c.leave = .moved ∨ ∃ pc, s.c.leave = .jump pc) →
      ∃ t k, selv = .next t ∧ SameMemory s t ∧ t.fresh = s.fresh + 1 ∧ RunClosed s names k ∧ Stands s t s.grp.gave k ∧ TurnsTo s t any) ∧
    (SelvCloses s names → s.c.inH = false → s.c.live ≠ 0 → s.c.leave = .yielded →
      let other := fun g : Group => ¬ (g.wg = s.grp.wg ∧ g.gid = s.grp.gid ∧ g.role = s.grp.role)
      ∃ t k, selv = .next t ∧ SameMemory s t ∧ t.fresh = s.fresh + 1 ∧ RunClosed s names k ∧ Stands s t true k ∧
        TurnsTo s t other ∧ ((∀ h, readyOn t s.grp.core h → ¬ other h) → TurnsTo s t any)) ∧
    ∀ w, SelvCloses s names → s.c.inH = false → s.c.live = 0 → (s.c.leave = .none ∨ s.c.leave = .moved) → s.grp.role = .lead → curWg s = some w →
      s.walks = [] → s.homeQ = [] → nextSf s = none →
      let alive := ((groupsOf s w.key .lead).filter fun g => !g.ended).length
      (s.c.waitM ≠ 0 → ∃ k, RunClosed s names k ∧
        let waits := fun l : Lane => s.c.waitM.getLsbD l.val
        let low := fun l : Lane => waits l && decide (∀ m, waits m = true → (k.lpc[l]).toNat ≤ (k.lpc[m]).toNat)
        let knots := wordOf fun l => low l && !s.c.barM.getLsbD l.val && !s.c.migM.getLsbD l.val
        let bars := wordOf fun l => low l && s.c.barM.getLsbD l.val
        (∀ l, low l = true → s.c.migM.getLsbD l.val = true → s.c.arrM.getLsbD l.val = true) →
        (bars &&& ~~~s.c.arrM = 0 → ∃ t, selv = .next t ∧ SameMemory s t ∧ Stands s t s.grp.gave (freed k knots) ∧ TurnsTo s t any) ∧
        (bars &&& ~~~s.c.arrM ≠ 0 →
          let m : Fin 16 := (s.c.barN[lowest bars]).toFin
          let old := w.bars[m]
          let now : WgBar := ⟨true, if old.opened then old.expected else (s.c.barA[lowest bars]).toNat, old.arrived ++ [s.grp.gid]⟩
          let all := w.bars.set m now
          let ends := fun j : Fin 16 => j == m && met now alive
          let mine := { freed k knots with arrM := (freed k knots).arrM ||| bars }
          ∃ t, selv = .next t ∧ BarriersSettle s t w all ends ∧ Stands s t s.grp.gave (freed mine (letGo all ends s.grp.gid mine)) ∧ TurnsTo s t any)) ∧
      (s.c.waitM = 0 →
        ∃ t g, selv = .next t ∧ groupAt t s.grp.wg s.grp.gid s.grp.role = some g ∧ EndedGroup g ∧ TurnsTo s t any ∧
          (s.c.parkM = 0 → BarriersSettle s t w w.bars fun n => met w.bars[n] (alive - 1)) ∧
          (s.c.parkM ≠ 0 → Sound s → Reported s t (stageDomain s w.ref) s.c.fCause 1))

/-- R45, R259, R294, R295: the lanes of a mig wait at its pick point's address in this image, with what they named; an unknown pick
point raises 0x02, and one whose address is no run entry 0x04. -/
def Obligations.MigrationInstructions : Prop :=
  ∀ (i d : BitVec 7) (s : State) (w : Workgroup) (p : Pipeline), curWg s = some w → pipeOf s w.ref = some p → s.c.xp.c = 127 → s.c.xp.g = 127 →
    0 ≤ immOf s i → isV d.toNat = false → s.c.inH = false → Issues s false [] [(d.toNat, 1)] →
    (∀ l : Lane, s.c.run.act.getLsbD l.val = true → ofRun s l = true) → selvAt s (s.c.run.pc.toNat + 4) = true →
    let found := p.picks.find? fun r => r.cls == w.cls && r.n == (immOf s i).toNat && r.stage == w.ref.stage
    ∀ m ∈ [(Instr.migShuttle i d, CoreClass.shuttle), (.migBeam i d, .beam)],
      (found = none → exec m.1 s = .next (faultAt s 4 0x02 s.c.actMask 0)) ∧
      (∀ r, found = some r → runEntry s r.pc.toNat = false → exec m.1 s = .next (faultAt s 4 0x04 s.c.actMask (r.pc.setWidth 64))) ∧
      ∀ r, found = some r → runEntry s r.pc.toNat = true → ∃ t, exec m.1 s = .next t ∧ Completes s t 4 .empty ∧ SameMemory s t ∧
        t.c.waitM = s.c.waitM ||| s.c.run.act ∧ t.c.migM = s.c.migM ||| s.c.run.act ∧ t.c.leave = .moved ∧
        (∀ l : Lane, t.c.lpc[l] = (if s.c.run.act.getLsbD l.val then r.pc else if ofRun s l then fallThrough s else s.c.lpc[l]) ∧
          t.c.migW[l] = if s.c.run.act.getLsbD l.val then ⟨(immOf s i).toNat, m.2, d.toNat, s.c.npc⟩ else s.c.migW[l]) ∧
        t = { s with grp := { s.grp with
                                c := { counted s t with
                                  lpc := t.c.lpc
                                  waitM := t.c.waitM
                                  migM := t.c.migM
                                  migW := t.c.migW
                                  leave := t.c.leave } } }

/-! ### Exceptions (R50, R346 to R358, R369, R371) -/

/-- R50: the checks of an instruction in their order: illegal forms, the length of the run, the SELV after a transfer, operands, pending
registers, a value that may not be written; the first that fails is the fault, and nothing else happens. -/
def FaultPriority : Prop :=
  ∀ (s t : State) (i : Issue) (m : Mask),
    let ill := i.ill = true ∨ (s.c.inH = true ∧ (i.vec = true ∨ i.hdl = false))
    let long := 24 ≤ s.c.run.pos
    let open_ := i.xfer = true ∧ selvAt s (s.c.run.pc.toNat + 4) = false
    let bad := i.bad = true ∨ (∃ u ∈ i.srcs, srcBad s u = true) ∨ ∃ u ∈ i.dsts, dstBad s u = true
    let pending := again s = false ∧ ∃ u ∈ i.srcs ++ i.dsts, isT u.1 = false ∧ s.c.isPend u.1 u.2 = true
    (ill → issueM s i m t = faultAt s i.size 0x01 m 0) ∧
    (¬ ill → long → issueM s i m t = faultAt s i.size 0x04 m 0) ∧
    (¬ ill → ¬ long → open_ → issueM s i m t = faultAt s i.size 0x05 m 0) ∧
    (¬ ill → ¬ long → ¬ open_ → bad → issueM s i m t = faultAt s i.size 0x02 m 0) ∧
    (¬ ill → ¬ long → ¬ open_ → ¬ bad → pending → issueM s i m t = faultAt s i.size 0x03 m 0) ∧
    (¬ ill → ¬ long → ¬ open_ → ¬ bad → ¬ pending → i.late = true → issueM s i m t = faultAt s i.size 0x02 m 0) ∧
    (¬ ill → ¬ long → ¬ open_ → ¬ bad → ¬ pending → i.late = false → issueM s i m t = t)

/-- R346, R347, R352, R354, R358: a precise fault enters the stage's handler with its frame saved and no other register changed; without a
handler the group ends with a record of type 1, and in a handler with one of type 12. -/
def TakingAnException : Prop :=
  ∀ (s : State) (w : Workgroup) (size : Nat) (cause : BitVec 8) (mask : Mask) (addr : DWord), curWg s = some w →
    let t := faultAt s size cause mask addr
    let resume := s.c.run.pc + BitVec.ofNat 32 size
    (∀ h, s.c.inH = false → handlerOf s = some h →
      t = { s with grp := { s.grp with
                              phase := .inRun
                              c := { s.c with
                                lpc := t.c.lpc
                                run := { Run.none with on := true, pc := h.pc, act := mask }
                                shadow := { s.c.run with pc := s.c.npc, act := s.c.redo.getD s.c.run.act }
                                inH := true
                                frameOn := true
                                frame := t.c.frame
                                fCause := cause
                                fAddr := addr
                                xpw := none
                                redo := none
                                leave := .none } } } ∧
      t.c.frame = { cause := cause, after := false, perLane := false, imprecise := false, resume := resume, addr := addr, npc := s.c.npc,
                    twin := s.c.twin, mask := mask, s18 := Vector.ofFn fun i => s.c.sreg (i.val + 1),
                    p07 := Vector.ofFn fun i => wordOf fun l => s.c.pred i.val l, part := s.c.part, runNpc := s.c.npc, lpcs := t.c.lpc } ∧
      ∀ l : Lane, t.c.lpc[l] = if ofRun s l then (if s.c.run.act.getLsbD l.val then s.c.npc else resume) else s.c.lpc[l]) ∧
    (Sound s → s.grp.role = .lead → nextSf s = none →
      (s.c.inH = false → handlerOf s = none → Ended t ∧ Reported s t (stageDomain s w.ref) cause 1) ∧
      (s.c.inH = true → Ended t ∧ Reported s t (stageDomain s w.ref) 0x50 12))

/-- R50, R346, R347, R352, R354, R358: which fault an instruction raises, and what raising it does. -/
def Obligations.PreciseFaults : Prop := FaultPriority ∧ TakingAnException

/-- R336, R337, R340: the leaves of qry for the function that owns the partition. -/
def leaf (s : State) (w : Workgroup) (a : Nat) : Word :=
  let p := part s w.ref.part
  let tcl := (tenant s w.ref.part w.ref.tenant).tclmask
  let clusters := ((List.range 32).filter fun k => tcl.getLsbD k).length
  let pairs := ((List.range 16).filter fun k => tcl.getLsbD (2 * k) && tcl.getLsbD (2 * k + 1)).length
  let x : Nat := match a with
    | 0 => 0x41900400 + s.cfg.stepping.toNat
    | 1 => if s.cfg.stepping = 0x41 then 0x7F else 0x7E
    | 3 => clusters + 2 ^ 8 * pairs + (if p.det then 2 ^ 16 else 0) + (if p.world then 2 ^ 17 else 0)
    | 4 => 2 ^ 16 * p.bcnt.toNat + p.bfirst.toNat
    | 5 => (tenant s w.ref.part w.ref.tenant).tways.toNat
    | 6 => 0x20000
    | 7 => 0x20600180
    | _ => 0
  let mask : Word := if h : 1 ≤ p.func.toNat ∧ p.func.toNat ≤ 16 then (s.qmask[p.func.toNat - 1][a % 16]) else 0xFFFFFFFF
  if a < 16 then BitVec.ofNat 32 x &&& mask else 0

/-- R335 to R340, R355, R356, R369 to R371: trap and brk leave their fault to the boundary of the run, rett and rett end leave the return, qry
reads its leaves, and ckpt of an unchecked stage only completes. -/
def SystemInstructions : Prop :=
  ∀ (a d : BitVec 7) (s : State) (w : Workgroup), curWg s = some w → s.c.xp.c = 127 → s.c.xp.e = 0 →
    let take := fun l : Lane => s.c.run.act.getLsbD l.val && s.c.guard.getLsbD l.val
    let mask := wordOf take
    let left (t : State) : Prop := Completes s t 4 .empty ∧ SameMemory s t ∧
      t = { s with grp := { s.grp with c := { counted s t with lpc := t.c.lpc, leave := t.c.leave } } }
    let traps (i : Instr) (cause : BitVec 8) (addr : DWord) : Prop :=
      ∃ t, exec i s = .next t ∧ left t ∧ (∀ l : Lane, t.c.lpc[l] = if ofRun s l then fallThrough s else s.c.lpc[l]) ∧
        t.c.leave = if mask = 0 then .moved else .after cause addr s.c.npc mask
    (s.c.inH = false → (∀ l, take l = true → ofRun s l = true) → selvAt s (s.c.run.pc.toNat + 4) = true →
      (Issues s false [(a.toNat, 1)] [] → s.c.isVec a.toNat = false →
        traps (.trap a) 0x20 ((s.c.rd a.toNat (lowest s.c.run.act)).setWidth 64)) ∧
      (Issues s false [] [] → traps .brk 0x21 0)) ∧
    (Issues s false [] [] → ∀ r ∈ [(Instr.rett, false), (.rettEnd, true)],
      (s.c.inH = false → exec r.1 s = .next (faultAt s 4 0x01 (s.c.actMask &&& s.c.guard) 0)) ∧
      (s.c.inH = true → selvAt s (s.c.run.pc.toNat + 4) = true →
        ∃ t, exec r.1 s = .next t ∧ left t ∧ t.c.lpc = s.c.lpc ∧ t.c.leave = if s.c.goes then .rett r.2 else .jump (fallThrough s))) ∧
    (Issues s false [] [] → curIl s ≠ 2 ∨ s.c.inH = true → ∃ t, exec .ckpt s = .next t ∧ PlainDone s t 4) ∧
    (let vec := kindVec s.c false d.toNat [a.toNat]
     curIl s ≠ 2 → Issues s vec [(a.toNat, 1)] [(d.toNat, 1)] → (vec = true → isS d.toNat = false) →
      ∃ t vals, exec (.qry a d) s = .next t ∧ t = { s with grp := t.grp } ∧ LoadDone s t vec false d.toNat 1 vals 0 ∧
        ∀ l ∈ acting s vec, vals l = (leaf s w (s.c.rd a.toNat l).toNat).setWidth 128)

/-- R123, R356, R358, R369, R371: at the SELV after it, a trap enters the handler as an after-instruction fault; rett restores the
frame's registers and resumes the interrupted run, again for the lanes that stand at the faulting instruction; rett end ends the group. -/
def HandlerBoundaries : Prop :=
  ∀ (y : Bool) (c b a : BitVec 7) (s : State) (w : Workgroup), SelvCloses s [] → curWg s = some w → nextSf s = none →
    (∀ cause addr npc mask h, s.c.inH = false → s.c.leave = .after cause addr npc mask → handlerOf s = some h →
      ∃ t, exec (.selv y 0 c b a) s = .next t ∧ t.c.inH = true ∧ t.c.run = { Run.none with on := true, pc := h.pc, act := mask } ∧
        t.c.frame.cause = cause ∧ t.c.frame.addr = addr ∧ t.c.frame.npc = npc ∧ t.c.frame.mask = mask ∧ t.c.frame.after = true ∧
        t.c.shadow = Run.none ∧ t.c.lpc = s.c.lpc ∧ t.c.v = s.c.v ∧ t.c.s = s.c.s ∧ t.c.p = s.c.p) ∧
    (s.c.leave = .rett true → Sound s → s.grp.role = .lead →
      ∃ t, exec (.selv y 0 c b a) s = .next t ∧ Ended t ∧ Reported s t (stageDomain s w.ref) s.c.frame.cause 1) ∧
    (s.c.leave = .rett false →
      let f := s.c.frame
      let live := fun l : Lane => s.c.live.getLsbD l.val
      let fits := ∀ l : Lane, live l = true → s.c.lpc[l] = f.lpcs[l] ∨ runEntry s (s.c.lpc[l]).toNat = true
      let again_ := wordOf fun l => s.c.shadow.on && s.c.shadow.act.getLsbD l.val && live l && s.c.lpc[l] == f.runNpc
      let resumed := wordOf fun l => s.c.shadow.on && s.c.shadow.act.getLsbD l.val && live l &&
        (s.c.lpc[l] == f.runNpc || s.c.lpc[l] == f.resume)
      (¬ fits → Sound s → s.grp.role = .lead →
        ∃ t, exec (.selv y 0 c b a) s = .next t ∧ Ended t ∧ Reported s t (stageDomain s w.ref) 0x50 12) ∧
      (fits → s.c.live ≠ 0 → ∃ t g, exec (.selv y 0 c b a) s = .next t ∧ SameMemory s t ∧ groupAt t s.grp.wg s.grp.gid s.grp.role = some g ∧
        g.c.inH = false ∧ g.c.frameOn = false ∧ g.c.shadow = Run.none ∧ g.c.part = f.part ∧ g.c.v = s.c.v ∧
        (∀ k < 24, g.c.sreg k = if h : 1 ≤ k ∧ k ≤ 8 then f.s18[k - 1] else s.c.sreg k) ∧
        (∀ k < 64, ∀ l : Lane, g.c.pred k l = if h : k < 8 then f.p07[k].getLsbD l.val else s.c.pred k l) ∧
        g.c.lpc = s.c.lpc ∧
        (again_ ≠ 0 → g.phase = .inRun ∧ g.c.run = { s.c.shadow with act := again_ } ∧ g.c.redo = some resumed) ∧
        (again_ = 0 → resumed ≠ 0 → g.phase = .inRun ∧ g.c.run.pc = f.resume ∧ g.c.run.act = resumed ∧
          g.c.run.pos = s.c.shadow.pos + if f.perLane then 1 else 0) ∧
        (resumed = 0 → g.phase = .between ∧ g.c.run = Run.none)))

/-- R123, R335 to R340, R355, R356, R358, R369 to R371: trap, brk, qry, ckpt, rett and rett end, and the boundary at which a trap enters and a return leaves the handler. -/
def Obligations.SystemInstructionsAndReturns : Prop := SystemInstructions ∧ HandlerBoundaries

/-! ### Encoding (R29, R35 to R42, R51) -/

/-- R29, R35, R38, R42, R51: words that the manual writes out from its formats, and the instructions they stand for. -/
def Obligations.WordsOfTheManual : Prop :=
  ∀ r ∈ ([(0x0A008103, 4, .iaddi 5 1 false 2), (0x40C14021, 4, .fmul 3 2 true 0), (0x017C0221, 4, .fadd 5 120 false 4), (0xC09C, 2, .fmax16 48 4),
      (0x10BE, 2, .fmac 4 5), (0x00048D7F, 4, .xp 0x91A), (0x2B3C038F, 4, .movi 0x5678 false 7), (0xC3050707, 4, .iaddc 12 10 false 14),
      (0xC0000095, 4, .pclr false false 1), (0x22410343, 4, .stg 2 0 2 1 2 6), (0x26810441, 4, .ldg 2 1 2 2 2 false 8), (0x02810545, 4, .atgAdd 0 2 2 2 10),
      (0x424080B1, 4, .shfop 2 1 1 1 false 1), (0x1B338051, 4, .tkick 108 103), (0x39B23053, 4, .barrive 102 100 false 96),
      (0xFFFB5FE1, 4, .bra (-10) true false 63), (0x00340069, 4, .trap 104), (0x80000065, 4, .knot), (0x2002847D, 4, .selv false 2 0 10 8)] :
      List (Nat × Nat × Instr)),
    decode (leBytes r.2.1 r.1) = .ok (r.2.2, r.2.1)

/-- R29, R35, R42, R51: decoding undoes encoding: the bytes of every well-formed instruction, whatever follows them, decode to that
instruction with every operand as it was, and to its length. -/
def Obligations.DecodingUndoesEncoding : Prop :=
  ∀ (i : Instr) (c : Code) (rest : List Byte), i.wf = true → encode i = some c → decode (c.bytes ++ rest) = .ok (i, c.size)

/-- R8, R35, R42, R51: only encodings decode: bytes that decode to an instruction begin with the encoding of that instruction, which is
well-formed, so that no word has a second meaning and no bit of it is ignored. -/
def Obligations.OnlyEncodingsDecode : Prop :=
  ∀ (bs : List Byte) (i : Instr) (n : Nat), decode bs = .ok (i, n) →
    i.wf = true ∧ ∃ c, encode i = some c ∧ n = c.size ∧ c.bytes = bs.take n

/-! ### The machine -/

/-- The state in which a core's turn finds its group: the group at the issue stage, the others of the core and those of the trailing core of its pair with what
its own units compute for them written (R96, R128), none of them after a yield any more (R276), the core's unit at G0 as of now (R238, R263). -/
def turned (s : State) (core : Nat) (g : Group) : State :=
  let wrote (x : Group) : Group := if x.wg = g.wg ∧ x.gid = g.gid then x else x.landOwn
  let f := focus (mapGroups s fun x => if x.core = core ∨ x.role = .trail ∧ x.core = core + 8 then { wrote x with gave := false } else x) g.wg g.gid g.role
  setUnit f (coreUnit core) ⟨.G0, s.now, false⟩

/-- The state in which a leading member's trailing one issues after it. -/
def turnedTrail (t : State) (g : Group) : State := setUnit (focus t g.wg g.gid .trail) (coreUnit (g.core + 8)) ⟨.G0, t.now, false⟩

/-- A group's step, and in a checked pair the trailing member's after it, when the leading one has moved and the other not with it. -/
noncomputable def followed (u : State) (g : Group) (o : Out) : Out :=
  match o with
  | .next t => if follows u t g then trailStep t g else .next t
  | r => r

/-- The bytes at the group's program counter decode to an instruction: one halfword, or two when bit 0 of the first is set (R29). -/
def Fetches (u : State) (i : Instr) : Prop :=
  ∃ lo, fetchHalf u u.c.run.pc.toNat = some lo ∧
    ((lo.toNat % 2 = 0 ∧ decode (leBytes 2 lo.toNat) = .ok (i, 2)) ∨
     ∃ hi, lo.toNat % 2 = 1 ∧ fetchHalf u (u.c.run.pc.toNat + 2) = some hi ∧ decode (leBytes 2 lo.toNat ++ leBytes 2 hi.toNat) = .ok (i, 4))

/-- R29, R30, R346, R375: the step of a core whose group stands in a run is exec of the instruction that the bytes at its program counter decode to, with their
pages translated for the fetch, which changes no byte; bytes that decode to none raise 0x01, and so do bytes outside the image, with their offset. In a
checked pair the trailing member takes the same step after the leading one, and a group without one takes it alone. The model's choices: the agenda
names the turn, and an empty agenda lets an event that is due go first, then the next core; a turn of an event is exec of that event, and time passes up
to the end of a period (assumption 1); the two members step together (assumption 42); which lanes a pattern that is no instruction faults in
(assumption 37). -/
def Obligations.StepRunsTheDecodedInstruction : Prop :=
  ∀ (s s1 : State) (core : Nat) (g : Group),
    ((∃ rest, s.agenda = .core core :: rest ∧ s1 = { s with agenda := rest }) ∨
      (s.agenda = [] ∧ duty s = none ∧ s.readyQ = [] ∧ nextCore s = some core ∧ s1 = s)) →
    pickGroup s1 core = some g →
    let u := turned s1 core g
    let v := touchCode u
    (u.grp.phase ≠ .ended → u.grp.phase ≠ .between → bufferDue u = false ∨ u.c.xpw ≠ none →
      (∀ i, Fetches v i → step s = followed u g (exec i v)) ∧
      (∀ lo, fetchHalf v v.c.run.pc.toNat = some lo → lo.toNat % 2 = 0 → (∃ e, decode (leBytes 2 lo.toNat) = .error e) →
        step s = followed u g (.next (faultAt v 2 0x01 v.c.actMask 0))) ∧
      (∀ lo hi, fetchHalf v v.c.run.pc.toNat = some lo → fetchHalf v (v.c.run.pc.toNat + 2) = some hi → lo.toNat % 2 = 1 →
        (∃ e, decode (leBytes 2 lo.toNat ++ leBytes 2 hi.toNat) = .error e) →
        step s = followed u g (.next (faultAt v 4 0x01 (if refusedVec v.c (hi ++ lo) then v.c.enabled else v.c.actMask) 0))) ∧
      (fetchHalf v v.c.run.pc.toNat = none → step s = followed u g (.next (faultAt v 4 0x01 v.c.actMask (BitVec.ofNat 64 v.c.run.pc.toNat)))) ∧
      (∀ lo, fetchHalf v v.c.run.pc.toNat = some lo → lo.toNat % 2 = 1 → fetchHalf v (v.c.run.pc.toNat + 2) = none →
        step s = followed u g (.next (faultAt v 4 0x01 v.c.actMask (BitVec.ofNat 64 (v.c.run.pc.toNat + 2)))))) ∧
    (Sound u → MemoryOnly u v ∧ v.grp = u.grp ∧ v.wgs = u.wgs ∧ ∀ x, cohRead v x 1 = cohRead u x 1) ∧
    (∀ t, groupAt t g.wg g.gid .trail = none → followed u g (.next t) = .next t) ∧
    (∀ t i r, let x := turnedTrail t g
      x.grp.phase ≠ .ended → x.grp.phase ≠ .between → bufferDue x = false ∨ x.c.xpw ≠ none → Fetches (touchCode x) i → exec i (touchCode x) = .next r →
        follows u t g = true → followed u g (.next t) = .next (backTo r t.grp)) ∧
    (∀ i rest, step { s with agenda := .event i :: rest } = exec i { s with agenda := rest }) ∧
    ∀ n rest, s.now + n ≤ 1200000 * (s.periods + 1) →
      step { s with agenda := .pass n :: rest } = .next { s with agenda := rest, now := s.now + n }

/-- R43, R44, R235, R237, R362: the step of a core whose group stands between runs begins its next run at the lowest continuation of its live
lanes, of those that have starved if there are any, with the lanes that stand there; a store-fault record of the group is delivered in its place. In a checked
pair the trailing member follows (assumption 42). -/
def Obligations.StepBeginsRuns : Prop :=
  ∀ (s : State) (core : Nat) (g : Group) (rest : List Turn), s.agenda = .core core :: rest → pickGroup { s with agenda := rest } core = some g →
    let u := turned { s with agenda := rest } core g
    u.grp.phase = .between → u.c.inH = false → u.c.live ≠ 0 →
    let starved := fun l : Lane => u.c.live.getLsbD l.val && decide (4096 ≤ u.c.starve[l])
    let first := fun l : Lane => if ∃ k, starved k = true then starved l else u.c.live.getLsbD l.val
    (nextSf u = none → ∃ t, step s = followed u g (.next t) ∧
      t = { u with grp := { u.grp with phase := .inRun, c := { u.c with run := t.c.run, starve := t.c.starve } } } ∧
      t.c.run = { Run.none with on := true, pc := t.c.run.pc, act := t.c.run.act } ∧
      (∃ l, first l = true ∧ t.c.run.pc = u.c.lpc[l]) ∧ (∀ l, first l = true → t.c.run.pc.toNat ≤ (u.c.lpc[l]).toNat) ∧
      ∀ l : Lane, t.c.run.act.getLsbD l.val = (u.c.live.getLsbD l.val && u.c.lpc[l] == t.c.run.pc) ∧
        t.c.starve[l] = if t.c.run.act.getLsbD l.val then 0 else u.c.starve[l]) ∧
    ∀ e h, nextSf u = some e → handlerOf u = some h → (∀ w, curWg u = some w → w.openMig = none) →
      ∃ t, step s = followed u g (.next t) ∧ t.c.inH = true ∧ t.c.run.pc = h.pc ∧ t.c.frame.cause = e.cause ∧ t.c.frame.npc = e.npc ∧ t.c.frame.mask = e.mask ∧
        t.c.frame.imprecise = true ∧ t.c.shadow = Run.none ∧ t.c.lpc = u.c.lpc ∧ t.sfq = u.sfq.erase e

/-- R237: each instruction that a group issues outside a handler adds one to the starvation count of every live lane that is not in the active mask of
its run, up to 4,096; the count of a lane of the mask is zero, and so is that of a lane that waits, is parked or has exited; a prefix counts with
its instruction. A run begins at the lowest continuation of the live lanes that have starved, with every live lane that stands there, or of all live lanes
when none has starved. -/
def Obligations.StarvationCounts : Prop :=
  ∀ (s : State), s.c.inH = false →
    let live := fun l : Lane => !s.c.exitM.getLsbD l.val && !s.c.waitM.getLsbD l.val && !s.c.parkM.getLsbD l.val
    let counts (t : State) : Prop := ∀ l : Lane, t.c.starve[l] = if ofRun s l then 0 else if live l then min 4096 (s.c.starve[l] + 1) else 0
    (∀ t size t0, Completes s t size t0 → counts t) ∧
    (Issues s false [] [] → s.c.xp.c = 127 → s.c.xp.e = 0 → ∃ t, exec .nop s = .next t ∧ counts t) ∧
    (∀ x, Issues s false [] [] → s.c.xpw = none → ∃ t, exec (.xp x) s = .next t ∧ t.c.starve = s.c.starve) ∧
    let starved := fun l : Lane => live l && decide (s.c.starve[l] = 4096)
    let first := fun l : Lane => if ∃ k, starved k = true then starved l else live l
    (∀ l : Lane, s.c.starve[l] ≤ 4096) → nextSf s = none → (∃ l, live l = true) →
      let u := beginRun s
      (∃ l, first l = true ∧ u.c.run.pc = s.c.lpc[l]) ∧ (∀ l, first l = true → u.c.run.pc.toNat ≤ (s.c.lpc[l]).toNat) ∧
      ∀ l : Lane, u.c.run.act.getLsbD l.val = (live l && s.c.lpc[l] == u.c.run.pc) ∧
        u.c.starve[l] = if u.c.run.act.getLsbD l.val then 0 else s.c.starve[l]

/-- R300, R304, R305, R309, R326, R340, R343, R351: what module reset leaves where the manual gives a value; beside it, memory that reads zero (assumption 3), identity place
tables (assumption 4) and zero in fields for which the manual gives none (assumption 10). -/
def Obligations.ResetValues : Prop :=
  let s := State.reset
  s.dev.stage = 0 ∧ s.dev.code = 0 ∧ s.dev.secok = false ∧ s.dev.devroot = 0 ∧ s.dev.secerr = 0 ∧
  (∀ p : Fin 8, (part s p).en = false ∧ (part s p).run = false ∧ ∀ t : Fin 9, (tenant s p t).en = false ∧ (tenant s p t).ctxstat = 0) ∧
  (∀ k : Fin 32, (s.place.cl[k]).toNat = k.val) ∧ (∀ k : Fin 64, (s.place.sl[k]).toNat = k.val) ∧ (∀ k : Fin 512, (s.place.sb[k]).toNat = k.val) ∧
  s.place.susp = 0 ∧ (∀ c : Fin 32, ∀ u : Fin 9, ((s.units[c])[u]).st = .G3) ∧
  s.policy.il1re = false ∧ s.policy.spare = false ∧ s.policy.il1lim = 1 ∧ s.policy.retry = 2 ∧ s.policy.spares = 2 ∧ s.policy.cecnt = 0 ∧
  (∀ d : Fin 64, (s.domains[d]).en = false ∧ (s.domains[d]).head = 0 ∧ (s.domains[d]).tail = 0 ∧ (s.domains[d]).lost = 0 ∧ (s.domains[d]).seq = 0 ∧
    (s.domains[d]).rlog = 6) ∧
  (∀ f k : Fin 16, (s.qmask[f])[k] = 0xFFFFFFFF) ∧ (∀ b : Fin 256, (s.binds[b]).en = false) ∧ (∀ f : Fin 16, (s.vfs[f]).st = 0) ∧
  (∀ f : Fin 17, ∀ k : Fin 16, ((s.mbox[f])[k]).held = none) ∧ s.wgs = [] ∧ s.others = [] ∧ s.pipes = [] ∧ s.mem = []

/-- The model's own invariant holds at reset: memories in canonical form, owned words with their owners (R195). -/
def Obligations.SoundAtReset : Prop := Sound State.reset

/-- R190, R195: every step of the device, whatever turn it takes, keeps the memories in canonical form and keeps every word that the heddle calls
owned in its owner's L1, so that the latest value of a word can always be read. -/
def Obligations.StepKeepsSound : Prop := ∀ s t : State, Sound s → step s = .next t → Sound t

/-! ### Boot, attestation and the registers of the host (R11, R299 to R309, R321, R340 to R345, R348, R351) -/

/-- The units of a kind that the configuration record does not mark faulty, in order: the field of faults stands at an offset (R11). -/
def goodOnes (r : List Byte) (off len n : Nat) : List Nat :=
  (List.range n).filter fun k => leNat ((r.drop off).take len) / 2 ^ k % 2 == 0

/-- What every attestation report covers (R345). -/
def deviceBody (s : State) (f : Fin 17) : List Byte :=
  (s.attest[f]).nonce.toList ++ leBytes 4 0x41900441 ++ leBytes 4 (Config.firmwareVersion s.cfg.firmware).toNat ++
  leBytes 4 (leNat ((s.cfg.body.drop 8).take 4)) ++ (Config.shake256 s.cfg.firmware).toList ++ (Config.shake256 s.cfg.body).toList ++
  (Config.shake256 (placeBytes s.place)).toList

/-- A signature of an object is accepted: the key's digest is the fused one, and the signature verifies over the object's digest (R342). -/
def accepted (key object sig : List Byte) : Bool :=
  decide (Config.shake256 key = Config.fusedKey) && Config.falconVerify key (Config.shake256 object) sig

/-- R11, R302, R342 to R345, R348: module reset boots with every register at its reset value and the place tables that skip faulty units, or stops
with the code of the first check that fails; a report covers the state at its command and is signed; the secure stream; corrected errors. The limit on
functions that answer is the model's reading (assumption 43); main memory that reads zero after power-on is assumption 3, the configuration before boot
assumption 4, the functions of the external standards assumption 5, and zero in fields for which the manual gives no reset value assumption 10. -/
def Obligations.BootAndAttestation : Prop :=
  ∀ (b : BootInput) (f : Fin 17) (s : State),
    let r := b.record.take 512
    let signed := leNat ((b.record.drop 512).take 2)
    let clusters := goodOnes r 0x10 8 34
    let slices := goodOnes r 0x18 16 66
    let banks := goodOnes r 0x28 72 528
    let checks : List (Bool × Nat) := [(accepted b.key b.firmware b.fwSig, 1),
      (decide (Config.antiRollback ≤ (Config.firmwareVersion b.firmware).toNat), 2),
      (decide (signed ≤ 1330 ∧ 514 + signed ≤ b.record.length) && accepted b.key r ((b.record.drop 514).take signed), 3),
      (decide (Config.antiRollback ≤ leNat ((r.drop 8).take 4)), 4), (!recBad r, 8), (leNat ((r.drop 12).take 1) == 0x41, 5),
      (decide (32 ≤ clusters.length ∧ 64 ≤ slices.length ∧ 512 ≤ banks.length), 6), (b.train, 7)]
    let fresh (d : DevRegs) : State :=
      { State.reset with hostMem := s.hostMem, streams := s.streams, out := s.out, agenda := s.agenda, fresh := s.fresh, dev := d }
    (∀ c rest, (checks.filter fun c => !c.1) = c :: rest →
      exec (.powerOnReset b) s = .next (fresh { State.reset.dev with stage := 2, code := BitVec.ofNat 8 c.2 })) ∧
    ((∀ c ∈ checks, c.1 = true) → ∃ t, exec (.powerOnReset b) s = .next t ∧
      t = { fresh { State.reset.dev with stage := 1 } with
              place := t.place
              cfg := t.cfg
              policy := { State.reset.policy with spares := clusters.length - 32 } } ∧
      (∀ k : Fin 32, clusters[k.val]? = some (t.place.cl[k]).toNat) ∧ (∀ k : Fin 64, slices[k.val]? = some (t.place.sl[k]).toNat) ∧
      (∀ k : Fin 512, banks[k.val]? = some (t.place.sb[k]).toNat) ∧ t.place.susp = 0 ∧ t.place.suspd = 0 ∧ t.place.plerr = 0 ∧
      (∀ k < 34, t.place.phfault.getLsbD k = !clusters.contains k) ∧
      t.cfg.stepping = 0x41 ∧ t.cfg.vfLimit = leNat ((r.drop 13).take 1) ∧ t.cfg.body = r ∧ t.cfg.firmware = b.firmware) ∧
    (s.dev.stage = 1 →
      exec .secureStreamKeyed s = .next { s with dev := { s.dev with secok := true } } ∧
      (∀ i ∈ [Instr.attestDevice f, .attestTenant f], (s.attest[f]).busy = true ∨ s.cfg.vfLimit < f.val → exec i s = .next s) ∧
      ((s.attest[f]).busy = false → f.val ≤ s.cfg.vfLimit →
        exec (.attestDevice f) s = .next { s with attest := s.attest.set f { s.attest[f] with busy := true, cmd := 1, taken := deviceBody s f } } ∧
        exec (.attestTenant f) s =
          .next { s with attest := s.attest.set f { s.attest[f] with busy := true, cmd := 2, taken := deviceBody s f ++ tenantReport s f } })) ∧
    ((s.attest[f]).busy = false → exec (.attestReportDone f) s = .next s) ∧
    ((s.attest[f]).busy = true → ∃ t, exec (.attestReportDone f) s = .next t ∧ t = { s with attest := t.attest } ∧
      (∀ k : Fin 17, k ≠ f → t.attest[k] = s.attest[k]) ∧ (t.attest[f]).busy = false ∧ (t.attest[f]).nonce = (s.attest[f]).nonce ∧
      (t.attest[f]).report = (s.attest[f]).taken ++ Config.falconSign (Config.shake256 (s.attest[f]).taken).toList ++ Config.certificate ∧
      (t.attest[f]).alen.toNat = (t.attest[f]).report.length % 2 ^ 13) ∧
    exec .correctedError s =
      .next { s with policy := { s.policy with cecnt := if s.policy.cecnt = 0xFFFFFFFF then 0xFFFFFFFF else s.policy.cecnt + 1 } }

/-- The refused secure access is counted (R302). -/
def secureRefused (s : State) : State :=
  { s with dev := { s.dev with secerr := if s.dev.secerr = 0xFFFFFFFF then 0xFFFFFFFF else s.dev.secerr + 1 } }

/-- A 4-byte write of the physical function is refused (R302): from outside the secure stream, to the registers of a secure partition, with the WORLD bit to
a partition's first word, or to the ring of a domain in which a secure partition has a stage (assumption 20). -/
def RefusedWord (s : State) (g : Fin 17) (off : Nat) (w : Word) (sec : Bool) : Prop :=
  g.val = 0 ∧ sec = false ∧
    ((∃ p : Fin 8, 0x10000 + 0x1000 * p.val ≤ off ∧ off < 0x11000 + 0x1000 * p.val ∧
        ((part s p).world = true ∨ (off = 0x10000 + 0x1000 * p.val ∧ w.getLsbD 2 = true))) ∨
      ∃ d : Fin 64, 0x30100 + 32 * d.val ≤ off ∧ off < 0x30120 + 32 * d.val ∧
        ∃ q ∈ s.pipes, (part s q.part).world = true ∧ ∃ st ∈ q.stages, st.fdom % 64 = d.val)

/-- R299, R300, R302, R306, R322: a register write of another size, misaligned, or of a function above the limit (assumption 43) is answered with
Unsupported Request; 8 bytes outside a message area are two writes in increasing order, but when either would be refused they are dropped together and
counted once; a write to a command register is its event, and one to a plain field sets the field; the units of an enabled partition are not written. -/
def RegisterWrites : Prop :=
  ∀ (s : State) (p : Fin 8) (t : Fin 9) (f k l : Fin 16) (g : Fin 17) (d : Fin 64) (n : Fin 256) (v : BitVec 64) (sec : Bool),
    let q := part s p
    let b := s.binds[n]
    let w : Word := v.setWidth 32
    let blk := 0x10000 + 0x1000 * p.val
    let ten := blk + 0x100 * (t.val + 1)
    let vf := 0x60000 + 0x100 * f.val
    let wr (off : Nat) (x : BitVec 64) : Instr := .registerWrite ⟨0, off, 4, x, sec⟩
    let slot := (if g.val = 0 then 0x090000 else 0) + 0x100 * k.val
    (∀ off size, ¬ ((size = 4 ∨ size = 8) ∧ off % size = 0) ∨ s.cfg.vfLimit < g.val →
      exec (.registerWrite ⟨g, off, size, v, sec⟩) s = .next { s with out := s.out ++ [.unsupported g.val] }) ∧
    (∀ off u, off % 8 = 0 → g.val ≤ s.cfg.vfLimit → (∀ x, mailboxAt g off = some x → 64 ≤ x.2) →
      let refused := RefusedWord s g off w sec ∨ RefusedWord s g (off + 4) ((v >>> 32).setWidth 32) sec
      (s.dev.stage = 1 → refused → exec (.registerWrite ⟨g, off, 8, v, sec⟩) s = .next (secureRefused s)) ∧
      (¬ refused → exec (.registerWrite ⟨g, off, 4, v, sec⟩) s = .next u →
        exec (.registerWrite ⟨g, off, 8, v, sec⟩) s = exec (.registerWrite ⟨g, off + 4, 4, v >>> 32, sec⟩) u)) ∧
    (∀ off (h : off < 64), off % 4 = 0 → g.val ≤ s.cfg.vfLimit →
      exec (.registerWrite ⟨g, slot + off, 4, v, sec⟩) s = exec (.mbdataWrite g k ⟨off, h⟩ (leBytes 4 w.toNat)) s) ∧
    (∀ r ∈ ([(ten + 0x20, 1, .reside p t sec), (ten + 0x20, 2, .release p t sec), (ten + 0x20, 3, .preempt p t sec),
        (ten + 0x20, 4, .contextReset p t sec), (ten + 0x20, 5, .resume p t sec), (ten, 1, .tenantEnable p t sec), (ten, 0, .tenantDisable p t sec),
        (vf, 1, .precopy f), (vf, 2, .stop f), (vf, 3, .snap f), (vf, 4, .run f), (vf, 5, .load f 0), (vf, 6, .save f), (vf + 0x14, v, .winackWrite f w),
        (0x70000 + 64 * f.val + 4 * l.val, v, .qryMaskWrite f l w), (0x30108 + 32 * d.val, v, .domainRingEnable d w sec),
        (blk, BitVec.ofNat 64 (q.func.toNat * 16 + bit q.world * 4 + bit q.det * 2 + 1), .partitionEnable p sec),
        (0x20000 + 4 * (n.val % 32), v, .placeTableWrite .cluster (n.val % 32) w), (0x20100 + 4 * d.val, v, .placeTableWrite .slice d.val w),
        (0x20400 + 4 * n.val, v, .placeTableWrite .bank n.val w),
        (0x4000C, 0x80000001 + 16 * BitVec.ofNat 64 n.val, .invalidateAll (BitVec.ofNat 8 n.val)),
        (0x4000C, 0x80000002 + 16 * BitVec.ofNat 64 n.val, .invalidateTenant (BitVec.ofNat 8 n.val)),
        (0x4000C, 0x80000003 + 16 * BitVec.ofNat 64 n.val, .invalidateRange (BitVec.ofNat 8 n.val)),
        (0x50000 + 16 * n.val, BitVec.ofNat 64 (2 ^ 31 + bit b.world * 2 ^ 30 + b.func.toNat * 2 ^ 24 + b.slot.toNat * 2 ^ 16 + b.vec.toNat),
          .bindingEnable n sec),
        (0x80020, 1, .attestDevice 0), (0x80020, 2, .attestTenant 0)] : List (Nat × BitVec 64 × Instr)),
      exec (wr r.1 r.2.1) s = exec r.2.2 s) ∧
    (5 < w.toNat → exec (wr (ten + 0x20) v) s = exec (.ctxcmdInvalid p t w sec) s) ∧
    (s.dev.stage = 1 →
      (q.world = true → sec = false → ∀ o < 0x1000, o % 4 = 0 → exec (wr (blk + o) v) s = .next (secureRefused s)) ∧
      ((q.world = true → sec = true) → ∀ r ∈ ([(blk + 0x0C, setPart s p fun x => { x with ways := v.setWidth 16 }),
          (blk + 0x10, setPart s p fun x => { x with bw := v.setWidth 8 }),
          (ten + 0x0C, setTenant s p t fun x => { x with occlim := v.setWidth 20 }),
          (ten + 0x24, setTenant s p t fun x => { x with ctxdl := min w.toNat 1000000 }),
          (ten + 0x28, setTenant s p t fun x => { x with ctxarg := x.ctxarg.extractLsb' 32 32 ++ w }),
          (ten + 0x2C, setTenant s p t fun x => { x with ctxarg := w ++ x.ctxarg.extractLsb' 0 32 }),
          (0x30000, { s with policy := { s.policy with spare := v.getLsbD 7, il1re := v.getLsbD 6, il1lim := w.toNat / 16 % 4, retry := w.toNat % 4 } })] :
          List (Nat × State)),
        exec (wr r.1 v) s = .next r.2) ∧
      ((q.world = true → sec = true) → ∀ r ∈ ([(blk + 0x04, fun x => { x with clmask := w }),
          (blk + 0x08, fun x => { x with bfirst := v.extractLsb' 0 10, bcnt := v.extractLsb' 16 10 }),
          (blk + 0x18, fun x => { x with root := x.root.extractLsb' 32 32 ++ w }),
          (blk + 0x1C, fun x => { x with root := w ++ x.root.extractLsb' 0 32 })] : List (Nat × (Partition → Partition))),
        exec (wr r.1 v) s = .next (setPart s p (if q.en then fun x => { x with cfgerr := true, errc := 4 } else r.2))))

/-- R299, R300, R302, R305, R306, R322: host reads of registers: of another size, misaligned, or of a function above the limit they are answered with
Unsupported Request, a secure partition reads zero outside the stream; a word written to an MSI-X table reads back, in the layout that is the
model's choice (assumption 48). -/
def RegisterReads : Prop :=
  ∀ (s : State) (rest : List Turn) (p : Fin 8) (x : Fin 9) (g : Fin 17) (off size : Nat) (sec : Bool) (v : BitVec 64),
    let q := part s p
    let y := tenant s p x
    let blk := 0x10000 + 0x1000 * p.val
    let ten := blk + 0x100 * (x.val + 1)
    let msix := if g.val = 0 then 0x0A0000 else 0x8000
    let reads (u : State) (f : Fin 17) (o n : Nat) (out : HostOut) : Prop :=
      step { u with agenda := .read ⟨f, o, n, sec⟩ :: rest } = .next { u with agenda := rest, out := u.out ++ [out] }
    let word (o n : Nat) : Prop := reads s 0 o 4 (.data 0 (leBytes 4 n))
    (¬ ((size = 4 ∨ size = 8) ∧ off % size = 0) ∨ s.cfg.vfLimit < g.val → reads s g off size (.unsupported g.val)) ∧
    (s.dev.stage = 1 ∨ s.dev.stage = 2 →
      word 0x00 0x41900441 ∧ word 0x04 ((if s.dev.secok then 2 ^ 16 else 0) + s.dev.code.toNat * 256 + s.dev.stage) ∧
      word 0x08 (s.dev.devroot.toNat % 2 ^ 32) ∧ word 0x0C (s.dev.devroot.toNat / 2 ^ 32) ∧ word 0x10 s.dev.secerr.toNat) ∧
    (s.dev.stage = 1 →
      (q.world = true → sec = false → ∀ o < 0x1000, o % 4 = 0 → word (blk + o) 0) ∧
      ((q.world = true → sec = true) →
        word blk (q.func.toNat * 16 + (if q.world then 4 else 0) + (if q.det then 2 else 0) + if q.en then 1 else 0) ∧
        word (blk + 0x04) q.clmask.toNat ∧ word (blk + 0x08) (q.bcnt.toNat * 65536 + q.bfirst.toNat) ∧ word (blk + 0x0C) q.ways.toNat ∧
        word (blk + 0x20) (q.errc.toNat * 256 + (if q.cfgerr then 2 else 0) + if q.run then 1 else 0) ∧
        word (ten + 0x04) y.tclmask.toNat ∧ word (ten + 0x14) y.hitx.toNat ∧ word (ten + 0x20) 0 ∧ word (ten + 0x24) y.ctxdl ∧
        word (ten + 0x30) (y.reason.toNat * 256 + (if y.lost then 8 else 0) + y.ctxstat)) ∧
      ∀ k, g.val ≤ s.cfg.vfLimit → k < (if g.val = 0 then 256 else 32) →
        ∃ t, exec (.registerWrite ⟨g, msix + 4 * k, 4, v, sec⟩) s = .next t ∧ t = { s with msix := t.msix } ∧
          reads t g (msix + 4 * k) 4 (.data g.val (leBytes 4
            (if k % 4 = 3 then v.toNat % 2 else if k % 4 = 0 then v.toNat % 2 ^ 32 / 4 * 4 else v.toNat % 2 ^ 32))))

/-- A write to a partition's registers may be made: boot is over, and a secure partition is written from the secure stream (R302). -/
def Admitted (s : State) (p : Fin 8) (sec : Bool) : Prop := s.dev.stage = 1 ∧ ((part s p).world = true → sec = true)

/-- A write is refused: it changes nothing, sets CFGERR and loads ERRC (R306). -/
def Refused (i : Instr) (s : State) (p : Fin 8) (code : Byte) : Prop :=
  exec i s = .next (setPart s p fun q => { q with cfgerr := true, errc := code })

/-- Some other enabled partition. -/
def Rival (s : State) (p : Fin 8) (f : Partition → Prop) : Prop := ∃ o, o ≠ p ∧ (part s o).en = true ∧ f (part s o)

/-- The counters of an RCB as they are written when its node becomes resident: BAL is REFILL under BUDSET, the rest zero (R239, R241). -/
def startCounters (b : List Byte) : List Byte :=
  leBytes 4 (if leNat (b.take 4) / 2 ^ 17 % 2 = 1 then leNat ((b.drop 16).take 4) else 0) ++ List.replicate 12 0

/-- R165, R239, R302, R304 to R306, R310, R329: enabling and disabling partitions and tenants, with the refusals of each in the order of their codes. Two
partitions clash when they share a cluster or a bank, so an empty bank range clashes with none (assumption 11). -/
def Obligations.PartitionsAndTenants : Prop :=
  ∀ (p : Fin 8) (x : Fin 9) (sec : Bool) (s : State),
    let q := part s p
    let y := tenant s p x
    let root := q.root.toNat
    let clash := 512 < q.bfirst.toNat + q.bcnt.toNat ∨
      Rival s p fun o => q.clmask &&& o.clmask ≠ 0 ∨ ∃ n, q.ownsBank n = true ∧ o.ownsBank n = true
    let twice := q.func ≠ 0 ∧ (q.world = true ∨ Rival s p fun o => o.func = q.func)
    let rootless := s.dev.devroot = 0 ∨ rcbAt root = false ∨ rcbGood (readRcb s root) 1 = false ∨
      leNat (((readRcb s root).drop 8).take 8) ≠ s.dev.devroot.toNat
    let resident := ∃ pl ∈ s.pipes, pl.part = p ∧ pl.tenant = x
    let outside := (∃ k < 32, y.tclmask.getLsbD k = true ∧ q.clmask.getLsbD k = false) ∨ (∃ k < 16, y.tways.getLsbD k = true ∧ q.ways.getLsbD k = false) ∨
      ∀ k < 16, y.tways.getLsbD k = true → s.cfg.wgworld.getLsbD (k / 4) ≠ q.world
    let mixed := if x = 0 then ∃ u : Fin 9, u ≠ 0 ∧ (tenant s p u).en = true else (tenant s p 0).en = true
    (s.dev.stage = 1 → q.world = true → ∀ i ∈ [Instr.partitionEnable p false, .partitionDisable p false, .tenantEnable p x false, .tenantDisable p x false],
      exec i s = .next (secureRefused s)) ∧
    (Admitted s p sec → q.en = false →
      (clash → Refused (.partitionEnable p sec) s p 1) ∧ (¬ clash → twice → Refused (.partitionEnable p sec) s p 2) ∧
      (¬ clash → ¬ twice → rootless → Refused (.partitionEnable p sec) s p 3) ∧
      (¬ clash → ¬ twice → ¬ rootless → Sound s → ∃ t, exec (.partitionEnable p sec) s = .next t ∧
        t = { s with parts := t.parts, creels := t.creels, creelTen := t.creelTen, nodes := t.nodes, mem := t.mem, hed := t.hed, l1 := t.l1 } ∧
        (∀ o, part t o = if o = p then { q with en := true, run := true } else part s o) ∧
        (∀ (c : Fin 32) (i : Fin 2), creelOf t (.matrix c i) = if q.clmask.getLsbD c.val then [] else creelOf s (.matrix c i)) ∧
        (∀ u, u ∈ t.creelTen ↔ u ∈ s.creelTen ∧ ∀ c i, q.clmask.getLsbD c.val = true → u.1.1 ≠ .matrix c i) ∧
        (∀ a, a ≠ root → nodeOf t a = nodeOf s a) ∧
        (∀ a, nodeOf s root ≠ none ∨ a < root + 0x40 ∨ root + 0x50 ≤ a → devRead t a 1 = devRead s a 1) ∧
        (nodeOf s root = none → nodeOf t root = some (nodeFor root s.dev.devroot.toNat (readRcb s root)) ∧
          devRead t (root + 0x40) 16 = startCounters (readRcb s root)))) ∧
    (Admitted s p sec → q.en = true →
      ((∃ pl ∈ s.pipes, pl.part = p) → Refused (.partitionDisable p sec) s p 5) ∧
      ((∀ pl ∈ s.pipes, pl.part ≠ p) → ∃ t, exec (.partitionDisable p sec) s = .next t ∧
        t = { s with parts := t.parts, nodes := t.nodes, slices := t.slices, vfs := t.vfs } ∧
        (∀ o, part t o = if o = p then { q with en := false, run := false } else part s o) ∧
        (∀ m, m ∈ t.nodes ↔ m ∈ s.nodes ∧ (m.rcb ≠ root ∨ m.parent = 0)) ∧
        (∀ c : Fin 32, t.slices[c] = if q.clmask.getLsbD c.val then ⟨none, s.now, none⟩ else s.slices[c]) ∧
        ∀ f : Fin 16, t.vfs[f] = if q.func.toNat = f.val + 1 ∧ (s.vfs[f]).st = 5 then { s.vfs[f] with st := 0 } else s.vfs[f])) ∧
    (Admitted s p sec → y.en = false →
      (outside → Refused (.tenantEnable p x sec) s p 6) ∧ (¬ outside → mixed → Refused (.tenantEnable p x sec) s p 7) ∧
      (¬ outside → ¬ mixed → resident → Refused (.tenantEnable p x sec) s p 8) ∧
      (¬ outside → ¬ mixed → ¬ resident → exec (.tenantEnable p x sec) s = .next (setTenant s p x fun y => { y with en := true }))) ∧
    (Admitted s p sec → y.en = true →
      (resident → Refused (.tenantDisable p x sec) s p 8) ∧
      (¬ resident → ∃ t, exec (.tenantDisable p x sec) s = .next t ∧
        t = { setTenant s p x (fun y => { y with en := false }) with
                l2 := s.l2.map fun l => if l.tenant = some (p, x) then { l with tenant := none } else l }))

/-- R306, R340, R341, R351: bandwidth shares take effect at a bandwidth period; qry masks are written while no pipeline of the function's partition is
resident; the control word of a fault-domain ring is ignored when a field is out of range, and setting EN zeroes the counters. -/
def MasksRingsAndBandwidth : Prop :=
  ∀ (f l : Fin 16) (d : Fin 64) (v : Word) (sec : Bool) (s : State),
    let x := s.domains[d]
    let rlog := v.toNat % 32
    let func := v.toNat / 2 ^ 16 % 32
    let put (y : Domain) : State := { s with domains := s.domains.set d y }
    (∃ t, exec .bandwidthPeriod s = .next t ∧ t = { s with parts := t.parts } ∧ ∀ p, part t p = { part s p with bwNow := (part s p).bw }) ∧
    (s.dev.stage = 1 →
      ((∃ p, (part s p).func.toNat = f.val + 1 ∧ ∃ pl ∈ s.pipes, pl.part = p) → exec (.qryMaskWrite f l v) s = .next s) ∧
      ((∀ p, (part s p).func.toNat = f.val + 1 → ∀ pl ∈ s.pipes, pl.part ≠ p) →
        exec (.qryMaskWrite f l v) s = .next { s with qmask := s.qmask.set f ((s.qmask[f]).set l v) }) ∧
      (sec = false → (∃ pl ∈ s.pipes, (part s pl.part).world = true ∧ ∃ st ∈ pl.stages, st.fdom % 64 = d.val) →
        exec (.domainRingEnable d v sec) s = .next (secureRefused s)) ∧
      (sec = true ∨ (∀ pl ∈ s.pipes, (part s pl.part).world = true → ∀ st ∈ pl.stages, st.fdom % 64 ≠ d.val) →
        (rlog < 6 ∨ 16 < rlog ∨ 16 < func → exec (.domainRingEnable d v sec) s = .next s) ∧
        (6 ≤ rlog → rlog ≤ 16 → func ≤ 16 →
          (x.en = true → exec (.domainRingEnable d v sec) s = .next (put { x with en := v.getLsbD 31, vec := v.extractLsb' 8 8 })) ∧
          (x.en = false → v.getLsbD 31 = false →
            exec (.domainRingEnable d v sec) s =
              .next (put { x with vec := v.extractLsb' 8 8, func := BitVec.ofNat 5 func, rlog := rlog })) ∧
          (x.en = false → v.getLsbD 31 = true →
            exec (.domainRingEnable d v sec) s =
              .next (put { x with en := true, vec := v.extractLsb' 8 8, func := BitVec.ofNat 5 func, rlog := rlog, head := 0, tail := 0, lost := 0, seq := 0 })))))

/-- R299, R300, R302, R305, R306, R322, R340, R341, R351: register writes and reads, the qry masks, the rings and the bandwidth period. How a
function above the limit answers is assumption 43, which fault domains count as secure assumption 20, and the layout of an MSI-X table assumption 48. -/
def Obligations.RegisterWritesMasksAndRings : Prop := RegisterWrites ∧ RegisterReads ∧ MasksRingsAndBandwidth

/-! ### Contexts, place tables and translations (R245 to R258, R307 to R309, R321) -/

/-- A context command is taken: the write is admitted and no command is under way (R307). -/
def Taken (s : State) (p : Fin 8) (x : Fin 9) (sec : Bool) : Prop := Admitted s p sec ∧ (tenant s p x).ctxstat ≠ 1

/-- The command ends at once with this status, and reason. -/
def endsWith (s : State) (p : Fin 8) (x : Fin 9) (stat : Nat) (reason : Byte) : State :=
  setTenant s p x fun y => { y with ctxstat := stat, reason := reason }

/-- The checks of RESIDE that a well-formed record fails, by REASON (R308). -/
def residencyFails (s : State) (p : Fin 8) (x : Fin 9) (l : Loaded) : Nat → Prop
  | 2 => l.picks = .error 2
  | 3 => ∃ st ∈ l.pipe.stages, fitsAtMost st < st.cx * st.cy
  | 4 => ∃ st ∈ l.pipe.stages, st.il = 2 ∧ ∀ k < 16, (part s p).clmask.getLsbD (2 * k) = false ∨ (part s p).clmask.getLsbD (2 * k + 1) = false
  | 5 => l.scode = none ∨ l.bcode = none ∨ l.picks = .error 5
  | 6 => maskedUse s p l = true
  | 7 => ∃ st ∈ l.pipe.stages, st.sentry = 0xFFFFFFFF ∧ st.bentry = 0xFFFFFFFF
  | 8 => ∃ st ∈ l.pipe.stages, st.vlim ≠ 0 ∧ ((st.sentry ≠ 0xFFFFFFFF ∧ st.vlim < st.maxV .shuttle) ∨ (st.bentry ≠ 0xFFFFFFFF ∧ st.vlim < st.maxV .beam))
  | 10 => ∃ st ∈ l.pipe.stages, queueOk s p x st = false
  | _ => False

/-- Work of a pipeline remains (R307). -/
def workLeft (s : State) (pl : Pipeline) : Prop :=
  (∃ w ∈ s.wgs ++ s.relaunch, pl.owns w.ref = true) ∨ ∃ g ∈ s.grids, pl.owns g.ref = true ∧ g.held = true

/-- The fault domain that the nearest RCB of a chain sets, or the device's (R18). -/
def domainOf (s : State) (chain : List (List Byte)) : Fin 64 :=
  match chain.find? fun b => leNat (b.take 4) / 2 ^ 19 % 2 == 1 with
  | some b => Fin.ofNat 64 (leNat ((b.drop 0x18).take 4))
  | none => rootDomain s

/-- R19, R21, R239, R241, R243, R257, R258, R282, R292, R307, R308, R386: RESIDE, RELEASE, PREEMPT, RESUME, RESET, unknown commands, the end of a drain
and its deadline; a command written while one is under way is dropped and LOST set. The type of the record that reports a rejection is left open
(assumption 45); the domain of a device root that is malformed or names none is 0 (assumption 54), and REASON codes that the manual does not name are assumption 16. -/
def Obligations.ContextCommands : Prop :=
  ∀ (p : Fin 8) (x : Fin 9) (code : Word) (sec : Bool) (s : State),
    let y := tenant s p x
    let mine := fun r : StageRef => r.part = p ∧ r.tenant = x
    let gone := ∀ w ∈ s.wgs ++ s.relaunch, ¬ mine w.ref
    let doms := fun d : Fin 64 => ∃ pl ∈ s.pipes, pl.part = p ∧ pl.tenant = x ∧ ∃ st ∈ pl.stages, Fin.ofNat 64 st.fdom = d
    let wiped (t : State) : Prop := (tenant t p x).ctxstat = 4 ∧ (∀ w ∈ t.wgs ++ t.relaunch, ¬ mine w.ref ∧ ¬ doms (stageDomain s w.ref)) ∧
      (∀ g ∈ t.grids, ¬ mine g.ref) ∧ (∀ h ∈ t.held, h.ten ≠ (p, x)) ∧
      ∀ w ∈ s.wgs, ¬ mine w.ref → ¬ doms (stageDomain s w.ref) → ∃ v ∈ t.wgs, v.key = w.key
    (Admitted s p sec → y.ctxstat = 1 → ∀ i ∈ [Instr.reside p x sec, .release p x sec, .preempt p x sec, .contextReset p x sec, .resume p x sec,
      .ctxcmdInvalid p x code sec], exec i s = .next (setTenant s p x fun y => { y with lost := true })) ∧
    (Taken s p x sec →
      exec (.preempt p x sec) s = .next (setTenant s p x fun y => { y with hold := true, ctxstat := 1, drainAt := s.now }) ∧
      exec (.resume p x sec) s = .next (setTenant s p x fun y => { y with hold := false, ctxstat := 2 }) ∧
      exec (.ctxcmdInvalid p x code sec) s = .next (endsWith s p x 5 1) ∧
      (loadPipe s p x = none → exec (.reside p x sec) s = .next (endsWith s p x 5 2)) ∧
      (∀ l, loadPipe s p x = some l →
        (∀ k, residencyFails s p x l k → (∀ j < k, ¬ residencyFails s p x l j) →
          let e := endsWith s p x 5 (BitVec.ofNat 8 k)
          (k ≠ 3 → k ≠ 4 → Sound s → ∃ t, exec (.reside p x sec) s = .next t ∧ Walked e t (fun _ => False) ∧
            t = { s with parts := t.parts, mem := t.mem, hed := t.hed, l1 := t.l1, l2 := t.l2, fresh := t.fresh }) ∧
          (k = 3 ∨ k = 4 → Sound s → ∃ t, exec (.reside p x sec) s = .next t ∧ (∀ o, noHits (part t o) = noHits (part e o)) ∧
            t = { s with parts := t.parts, mem := t.mem, hed := t.hed, l1 := t.l1, l2 := t.l2, fresh := t.fresh, domains := t.domains, out := t.out } ∧
            Reported s t (domainOf s (l.above.map (·.2))) 0 (Config.rejectType k).toNat)) ∧
        ((∀ k, ¬ residencyFails s p x l k) → Sound s → (nodeOf s (part s p).root.toNat).isSome = true → ∃ t d, exec (.reside p x sec) s = .next t ∧
          t = { s with pipes := s.pipes ++ [{ l.pipe with digest := d }], parts := t.parts, nodes := t.nodes, marks := t.marks, mem := t.mem,
                       hed := t.hed, l1 := t.l1, l2 := t.l2, fresh := t.fresh } ∧
          (∀ o, noHits (part t o) = noHits (part (setTenant s p x fun y => { y with ctxstat := 2 }) o)) ∧
          (∀ a, (nodeOf s a).isSome = true → nodeOf t a = nodeOf s a) ∧
          (∀ a b, (a, b) ∈ l.rcbs → (nodeOf t a).isSome = true ∧ (nodeOf s a = none → devRead t (a + 0x40) 16 = startCounters b)) ∧
          ∀ st pa, l.pipe.stages = [st] → QueueAt s ⟨p, x, l.pipe.index, st.index⟩ st pa →
            (∀ k < 64, Memory.get t.mem (pa + k) = 0) ∧ ∀ a, inScreed a = true → a < pa ∨ pa + 64 ≤ a → Memory.get t.mem a = Memory.get s.mem a)) ∧
      (pipeAt s p x y.ctxarg.toNat = none → exec (.release p x sec) s = .next (endsWith s p x 5 2)) ∧
      (∀ pl, pipeAt s p x y.ctxarg.toNat = some pl →
        (workLeft s pl → exec (.release p x sec) s = .next (endsWith s p x 5 9)) ∧
        (¬ workLeft s pl → ∃ t, exec (.release p x sec) s = .next t ∧ t.pipes = s.pipes.erase pl ∧ tenant t p x = { y with ctxstat := 2 } ∧
          t.wgs = s.wgs ∧ t.grp = s.grp ∧ t.others = s.others ∧ (∀ g, g ∈ t.grids ↔ g ∈ s.grids ∧ pl.owns g.ref = false) ∧
          ∀ n : Fin 256, (s.binds[n]).en = true → (s.binds[n]).stage.toNat ∈ pl.stages.map (·.rcb) → (t.binds[n]).en = false)) ∧
      ((s.wgs.map (·.key)).Nodup → ∃ t, exec (.contextReset p x sec) s = .next t ∧ wiped t)) ∧
    (y.ctxstat = 1 → y.hold = true → gone → exec (.contextDrained p x) s = .next (setTenant s p x fun y => { y with ctxstat := 3 })) ∧
    (y.ctxstat ≠ 1 ∨ y.hold = false ∨ ¬ gone → exec (.contextDrained p x) s = .next s) ∧
    (y.ctxstat = 1 → y.hold = true → ¬ gone → y.ctxdl ≠ 0 → y.drainAt + 1200 * y.ctxdl ≤ s.now → (s.wgs.map (·.key)).Nodup →
      ∃ t, exec (.drainDeadline p x) s = .next t ∧ wiped t) ∧
    (y.ctxstat ≠ 1 ∨ y.hold = false ∨ gone ∨ y.ctxdl = 0 ∨ s.now < y.drainAt + 1200 * y.ctxdl → exec (.drainDeadline p x) s = .next s)

/-- A place-table write: refused with PLERR while the unit is not suspended, out of range, faulty or in use; else the entry changes. -/
def PlaceRule (s : State) (k : PlaceKind) (n : Nat) (v : Word) (units x : Nat) (quiet taken : Prop) (done : Place) : Prop :=
  let err (e : Byte) : State := { s with place := { s.place with plerr := e } }
  (¬ quiet → exec (.placeTableWrite k n v) s = .next (err 1)) ∧
  (quiet → units ≤ x → exec (.placeTableWrite k n v) s = .next (err 3)) ∧
  (quiet → x < units → taken → exec (.placeTableWrite k n v) s = .next (err 2)) ∧
  (quiet → x < units → ¬ taken → exec (.placeTableWrite k n v) s = .next { s with place := done })

/-- A group's budget is within the limit now in force for its stage (R256). -/
def WithinLimit (s : State) (st : Stage) (g : Group) : Prop := vlimNow s st = 0 ∨ g.vbud ≤ vlimNow s st

/-- Groups and workgroups stand once each; no record is written over an RCB while groups resume. -/
structure MayResume (s : State) : Prop where
  keys  : (s.wgs.map (·.key)).Nodup
  once  : ((allGroups s).map fun g => (g.wg, g.gid, g.role)).Nodup
  quiet : (∀ d : Fin 64, (s.domains[d]).en = false) ∨ ∀ g ∈ allGroups s, g.halted = true → ∀ w st, wgOf s g.wg = some w → stageOf s w.ref = some st →
            WithinLimit s st g

/-- Every halted group of the workgroups that resume goes on in its slot, charged from now on, with everything it holds as before, save one whose
budget is above the limit, which stays halted; every other group stays as it is (R256). A slot that another workgroup's group shares may be spilled. -/
def ResumedAll (s t : State) (which : Workgroup → Prop) : Prop :=
  ∀ w ∈ s.wgs, ∀ g ∈ allGroups s, g.wg = w.key →
    let alone := ∀ h ∈ allGroups s, h.core = g.core → h.slot = g.slot → h.wg = g.wg
    let fits := ∀ st, stageOf s w.ref = some st → WithinLimit s st g
    let stands (h : Group) : Prop := ∃ n, groupAt t g.wg g.gid g.role = some { h with spilled := n } ∧ (alone → n = h.spilled)
    (which w → g.halted = true → g.phase ≠ .ended → fits → stands { g with halted := false, heldSince := s.now, spilled := 0 }) ∧
    (¬ which w ∨ g.phase ≠ .ended ∧ (g.halted = false ∨ ¬ fits) → stands g)

/-- Engines that run a task: one, and of a checked stage one of each cluster of the pair (R173). -/
def enginesOn (s : State) (t : EngTask) : Nat := if (wgOf s t.wg).map (ilOf s) = some 2 then 2 else 1

/-- An engine that runs a task stands on a cluster. -/
def runsOn (s : State) (t : EngTask) (c : Fin 32) : Prop := engCluster t.eng = c ∨ (enginesOn s t = 2 ∧ engCluster t.eng + 1 = c)

/-- R256, R309: place tables, CLSUSP and SUSPD; clearing a CLSUSP bit resumes the halted groups, within the limit that their RCBs hold now (assumption 26). -/
def PlaceTablesAndSuspension : Prop :=
  ∀ (v : Word) (c : Fin 32) (sl : Fin 64) (sb : Fin 512) (s : State),
    let pl := s.place
    let all := ∀ k < 32, pl.suspd.getLsbD k = true
    let bitc : Mask := BitVec.ofNat 32 (2 ^ c.val)
    let cleared : State := { s with place := { pl with susp := pl.susp &&& ~~~bitc, suspd := pl.suspd &&& ~~~bitc } }
    let quiet := (∀ g ∈ allGroups s, g.core / 8 % 32 ≠ c.val ∨ g.wg = 0 ∨ g.halted = true ∨ g.phase = .ended) ∧ ∀ t ∈ s.engq, ¬ runsOn s t c
    (s.dev.stage = 1 →
      (let x := v.toNat % 64
       PlaceRule s .cluster c.val v 34 x (pl.suspd.getLsbD c.val = true)
        (pl.phfault.getLsbD x = true ∨ ∃ k : Fin 32, k ≠ c ∧ (pl.cl[k]).toNat = x) { pl with cl := pl.cl.set c (BitVec.ofNat 6 x) }) ∧
      (let x := v.toNat % 128
       PlaceRule s .slice sl.val v 66 x all
        (pl.slfault.getLsbD x = true ∨ ∃ k : Fin 64, k ≠ sl ∧ (pl.sl[k]).toNat = x) { pl with sl := pl.sl.set sl (BitVec.ofNat 7 x) }) ∧
      (let x := v.toNat % 1024
       PlaceRule s .bank sb.val v 528 x all
        (pl.sbfault.getLsbD x = true ∨ ∃ k : Fin 512, k ≠ sb ∧ (pl.sb[k]).toNat = x) { pl with sb := pl.sb.set sb (BitVec.ofNat 10 x) }) ∧
      exec (.clsuspSet c) s = .next { s with place := { pl with susp := pl.susp ||| bitc } } ∧
      (pl.susp.getLsbD c.val = false → exec (.clsuspClear c) s = .next s) ∧
      (pl.susp.getLsbD c.val = true →
        ((∀ w ∈ s.wgs, inCluster s w c = false) → exec (.clsuspClear c) s = .next cleared) ∧
        (MayResume s → ∃ t, exec (.clsuspClear c) s = .next t ∧ t.place = cleared.place ∧
          ResumedAll s t fun w => inCluster s w c = true ∧ mustHalt cleared w = false))) ∧
    (pl.susp.getLsbD c.val = true → quiet →
      exec (.clusterSuspended c) s = .next { s with place := { pl with suspd := pl.suspd ||| bitc } }) ∧
    (pl.susp.getLsbD c.val = false ∨ ¬ quiet → exec (.clusterSuspended c) s = .next s)

/-- R321: an invalidation sets GO with its tenant and kind, and is ignored while GO is 1; at its end every cached translation that it covers is gone,
every other stays, and GO is 0. -/
def TranslationInvalidation : Prop :=
  ∀ (n : Byte) (s : State),
    let v := s.inv
    let covered := fun e : TlbEnt =>
      let own := e.ten.val * 16 + e.part.val = v.tenant.toNat
      v.kind = 1 ∨ (v.kind = 2 ∧ own) ∨
        (v.kind = 3 ∧ own ∧ e.base < v.tiva.toNat + v.tipages.toNat * 4096 ∧ v.tiva.toNat < e.base + e.size)
    (s.dev.stage = 1 → ∀ i ∈ [(Instr.invalidateAll n, (1 : BitVec 3)), (.invalidateTenant n, 2), (.invalidateRange n, 3)],
      (v.go = true → exec i.1 s = .next s) ∧
      (v.go = false → exec i.1 s = .next { s with inv := { v with go := true, tenant := n, kind := i.2 } })) ∧
    (v.go = false → exec .invalidationComplete s = .next s) ∧
    (v.go = true → ∃ t, exec .invalidationComplete s = .next t ∧ t.inv = { v with go := false } ∧
      (∀ e, e ∈ t.tlb ↔ e ∈ s.tlb ∧ ¬ covered e) ∧ t.grp = s.grp ∧ t.others = s.others ∧ t.wgs = s.wgs ∧
      (s.homeQ = [] → t = { s with tlb := t.tlb, inv := t.inv }))

/-- R256, R309, R321: place tables, suspension, and the invalidation of translations. That a resumption reads the limit from the RCB again is
assumption 26. -/
def Obligations.PlacesAndTranslations : Prop := PlaceTablesAndSuspension ∧ TranslationInvalidation

/-! ### Mailboxes and apertures (R299, R302, R322 to R327, R330) -/

/-- A message has entered a queue, as by a push (R285, R326). -/
def EntryPushed (s t : State) (st : Stage) (pa : Nat) (msg : List Byte) : Prop :=
  let resv := screedWord s (pa + 8)
  screedWord t (pa + 8) = (resv + 1) % 2 ^ 32 ∧
    (∀ k < 64, Memory.get t.mem (slotPa st pa resv + k) = (msg[k]?).getD 0) ∧
    (s.marks = [] → screedWord s (pa + 4) = resv → screedWord t (pa + 4) = (resv + 1) % 2 ^ 32 ∧ t.marks = []) ∧
    (screedWord s (pa + 4) ≠ resv → (∀ m ∈ s.marks, m.1 = pa → m.2 ≠ screedWord s (pa + 4)) →
      screedWord t (pa + 4) = screedWord s (pa + 4) ∧ t.marks = (pa, resv) :: s.marks) ∧
    Walked s t fun a => within (pa + 4) (pa + 12) a ∨ within (slotPa st pa resv) (slotPa st pa resv + 64) a

/-- The queue has no room (R285). -/
def queueFull (s : State) (st : Stage) (pa : Nat) : Prop := (screedWord s (pa + 8) + 2 ^ 32 - screedWord s pa) % 2 ^ 32 = 2 ^ st.qlog

/-- The one enabled binding of a slot. -/
def BoundBy (s : State) (f : Fin 17) (k : Fin 16) (n : Fin 256) : Prop :=
  let names := fun j : Fin 256 => (s.binds[j]).en = true ∧ (s.binds[j]).func.toNat = f.val ∧ (s.binds[j]).slot.toNat = k.val
  names n ∧ ∀ j, names j → j = n

/-- The function is stopping, stopped, resuming or in error (R330). -/
def functionStopped (s : State) (f : Fin 17) : Prop := ∃ v : Fin 16, f.val = v.val + 1 ∧ 2 ≤ (s.vfs[v]).st

/-- Messages wait for the queue of a stage, one of them held at a time of which `q` is true (R326). -/
def WaitsFor (s : State) (stage : DWord) (q : Nat → Prop) : Prop :=
  ∃ (j : Fin 256) (g : Fin 17) (i : Fin 16), (s.binds[j]).en = true ∧ (s.binds[j]).stage = stage ∧ (s.binds[j]).func.toNat = g.val ∧
    (s.binds[j]).slot.toNat = i.val ∧ ((s.mbox[g])[i]).held ≠ none ∧ q ((s.mbox[g])[i]).heldAt

/-- R16, R299, R322, R325 to R327, R330: message writes are staged, and posted by the write of the last bytes: into the bound queue, or held while it
is full or earlier messages wait for it; writes while a message is held, or from VMCMD STOP to RUN, are refused, and while no binding names
the slot discarded; a held message enters once there is room and those held before it have entered. That the write of the last bytes posts a message
is assumption 19. A function above the limit is absent (assumption 43). -/
def Obligations.Mailboxes : Prop :=
  ∀ (f : Fin 17) (k : Fin 16) (off : Fin 64) (bytes : List Byte) (n : Fin 256) (sec : Bool) (s : State), s.dev.stage = 1 → Sound s →
    let size := bytes.length
    let m := (s.mbox[f])[k]
    let b := s.binds[n]
    let put (x : MbSlot) : Vector (Vector MbSlot 16) 17 := s.mbox.set f ((s.mbox[f]).set k x)
    let data : Vector Byte 64 := Vector.ofFn fun i => if off.val ≤ i.val ∧ i.val < off.val + size then (bytes[i.val - off.val]?).getD 0 else m.data[i]
    let here := f.val ≤ s.cfg.vfLimit
    let good := here ∧ (size = 4 ∨ size = 8) ∧ off.val % size = 0
    let wr := Instr.mbdataWrite f k off bytes
    (¬ good → exec wr s = .next { s with out := s.out ++ [.unsupported f.val] }) ∧
    (good → (∀ j : Fin 256, ¬ ((s.binds[j]).en = true ∧ (s.binds[j]).func.toNat = f.val ∧ (s.binds[j]).slot.toNat = k.val)) → exec wr s = .next s) ∧
    (BoundBy s f k n →
      (good → m.held ≠ none ∨ functionStopped s f → exec wr s = .next { s with mbox := put { m with refused := true } }) ∧
      (good → m.held = none → ¬ functionStopped s f → off.val + size < 64 → exec wr s = .next { s with mbox := put { m with data := data } }) ∧
      ∀ r st pa, firstStage s b.stage.toNat = some (r, st) → st.qlog ≤ 16 → QueueAt s r st pa →
        let earlier := WaitsFor s b.stage fun a => a < m.heldAt
        (good → m.held = none → ¬ functionStopped s f → off.val + size = 64 →
          let blocked := queueFull s st pa ∨ WaitsFor s b.stage fun _ => True
          (blocked → exec wr s = .next { s with fresh := s.fresh + 1, mbox := put { m with data := data, held := some data.toList, heldAt := s.fresh } }) ∧
          (¬ blocked → ∃ t, exec wr s = .next t ∧ EntryPushed s t st pa data.toList ∧
            t = { s with mem := t.mem, hed := t.hed, l1 := t.l1, l2 := t.l2, parts := t.parts, fresh := t.fresh, marks := t.marks,
                         mbox := put { m with data := data, posted := m.posted + 1, held := none } })) ∧
        (queueFull s st pa ∨ functionStopped s f ∨ earlier → exec (.heldMessageEntry f k) s = .next s) ∧
        ∀ msg, m.held = some msg → ¬ queueFull s st pa → ¬ functionStopped s f → ¬ earlier →
          ∃ t, exec (.heldMessageEntry f k) s = .next t ∧ (msg.length = 64 → EntryPushed s t st pa msg) ∧
            t = { s with
                    mem := t.mem
                    hed := t.hed
                    l1 := t.l1
                    l2 := t.l2
                    parts := t.parts
                    fresh := t.fresh
                    marks := t.marks
                    mbox := put { m with posted := m.posted + 1, held := none }
                    out := if m.irqen then s.out ++ [.msix f.val b.vec.toNat] else s.out }) ∧
    (m.held = none → exec (.heldMessageEntry f k) s = .next s) ∧
    (let may := b.func.toNat ≤ 16 ∧ (∃ r st, firstStage s b.stage.toNat = some (r, st) ∧ (part s r.part).func = b.func ∧ (part s r.part).world = b.world) ∧
       ∀ j : Fin 256, j ≠ n → ¬ ((s.binds[j]).en = true ∧ (s.binds[j]).func = b.func ∧ (s.binds[j]).slot = b.slot)
     (b.en = true ∨ ¬ may → exec (.bindingEnable n sec) s = .next s) ∧
     (b.en = false → may → exec (.bindingEnable n sec) s = .next { s with binds := s.binds.set n { b with en := true } })) ∧
    (b.en = false → exec (.bindingDisable n sec) s = .next s) ∧
    (b.en = true →
      let bound := b.func.toNat = f.val ∧ b.slot.toNat = k.val
      let unbound : State := { s with binds := s.binds.set n { b with en := false } }
      (bound → m.held ≠ none → exec (.bindingDisable n sec) s = .next { unbound with
        mbox := put { m with held := none, drop := true }, out := if m.irqen then s.out ++ [.msix f.val b.vec.toNat] else s.out }) ∧
      (bound → m.held = none → exec (.bindingDisable n sec) s = .next unbound) ∧ (17 ≤ b.func.toNat → exec (.bindingDisable n sec) s = .next unbound))

/-- A byte of a function's aperture is reached: it translates, is permitted, in the right world, and lies in main memory or in the partition's
screed (R322, R323). -/
def ApertureByte (s : State) (p : Fin 8) (x : Fin 9) (kind : Access) (va pa : Nat) : Prop :=
  va < 2 ^ 49 ∧ (∃ e, (lookupDev s p x va).2 = .ok e ∧ e.pa va = pa ∧ e.permits kind = true ∧ worldOk s (part s p).world e pa = true) ∧
    (inMain pa = true ∨ (inScreed pa = true ∧ (part s p).ownsBank (bankOf pa) = true))

/-- A byte of main memory or screed by its physical address. -/
def plainByte (s : State) (pa : Nat) : Byte := if inScreed pa then Memory.get s.mem pa else (cohRead s pa 1).headD 0

/-- Every byte reads as before; words may have moved between L1s and their homes. -/
def SameBytes (s t : State) : Prop :=
  (∀ a, inScreed a = true → Memory.get t.mem a = Memory.get s.mem a) ∧ (∀ a, inMain a = true → cohRead t a 1 = cohRead s a 1) ∧
    t.hostMem = s.hostMem ∧ t.wgs = s.wgs ∧ t.grp = s.grp ∧ t.others = s.others

/-- R302, R322, R323, R330, R332: the host reads and writes a tenant's memory through the aperture of its function, but while the function is stopping or
stopped; a read that fails is answered with Unsupported Request and reported, a write that fails is dropped and reported, an AtomicOp is not supported.
A function above the limit is absent (assumption 43); a byte's place in a partition's memory is checked as assumption 20 says. -/
def Obligations.Apertures : Prop :=
  ∀ (f : Fin 17) (off len : Nat) (bytes : List Byte) (s : State), s.dev.stage = 1 → Sound s →
    let stopped := ∃ v : Fin 16, f.val = v.val + 1 ∧ ((s.vfs[v]).st = 2 ∨ (s.vfs[v]).st = 3)
    let shut (n : Nat) := ownTenant s f = none ∨ stopped ∨ s.cfg.vfLimit < f.val ∨ (if f.val = 0 then 2 ^ 36 else 2 ^ 33) < off + n
    (shut len → exec (.apertureRead f off len) s = .next { s with out := s.out ++ [.unsupported f.val, .aer f.val] }) ∧
    (shut bytes.length → exec (.apertureWrite f off bytes) s = .next { s with out := s.out ++ [.aer f.val] }) ∧
    exec (.apertureAtomic f off) s = .next { s with out := s.out ++ [.unsupported f.val] } ∧
    ∀ p x, ownTenant s f = some (p, x) → s.homeQ = [] → (∀ g, partVf s p = some g → (s.vfs[g]).tracking = false) →
      let va := fun k => (tenant s p x).apbase.toNat + off + k
      (¬ shut len →
        (∀ pas : Nat → Nat, (∀ k < len, ApertureByte s p x .load (va k) (pas k)) →
          ∃ t bs, exec (.apertureRead f off len) s = .next t ∧ SameBytes s t ∧ t.out = s.out ++ [.data f.val bs] ∧
            bs.length = len ∧ ∀ k < len, bs[k]? = some (plainByte s (pas k))) ∧
        (∀ k < len, (∀ pa, ¬ ApertureByte s p x .load (va k) pa) →
          ∃ t, exec (.apertureRead f off len) s = .next t ∧ SameBytes s t ∧ t.out = s.out ++ [.unsupported f.val, .aer f.val])) ∧
      (¬ shut bytes.length →
        (∀ pas : Nat → Nat, (∀ k < bytes.length, ApertureByte s p x .store (va k) (pas k)) →
          (∀ j < bytes.length, ∀ k < bytes.length, pas j = pas k → j = k) →
          ∃ t, exec (.apertureWrite f off bytes) s = .next t ∧ t.grp = s.grp ∧ t.others = s.others ∧ t.wgs = s.wgs ∧ t.out = s.out ∧
            (∀ k < bytes.length, plainByte t (pas k) = (bytes[k]?).getD 0) ∧
            ∀ a, inMain a = true ∨ inScreed a = true → (∀ k < bytes.length, a ≠ pas k) → plainByte t a = plainByte s a) ∧
        (∀ k < bytes.length, (∀ pa, ¬ ApertureByte s p x .store (va k) pa) →
          ∃ t, exec (.apertureWrite f off bytes) s = .next t ∧ SameBytes s t ∧ t.out = s.out ++ [.aer f.val]))

/-! ### Virtual functions (R328 to R334) -/

/-- The one enabled partition that a virtual function owns (R328). -/
def OwnedBy (s : State) (f : Fin 16) (p : Fin 8) : Prop :=
  let owns := fun o : Fin 8 => (part s o).en = true ∧ (part s o).func.toNat = f.val + 1
  owns p ∧ ∀ o, owns o → o = p

/-- Every group of the partition has halted, no task of it is issued, no store of it is still being translated (R330). -/
def quietPart (s : State) (p : Fin 8) : Prop :=
  (∀ w ∈ s.wgs, w.ref.part = p → ∀ g ∈ allGroups s, g.wg = w.key → g.halted = true ∨ g.phase = .ended) ∧
    (∀ t ∈ s.engq, inPart s p t.wg = false) ∧ ∀ k ∈ s.walks, inPart s p k.wg = false

/-- The window offers the next bytes of a stream: at least one, at most 64 KiB of those left; bit 31 of WINLEN marks the last chunk (R331). -/
structure Shows (x : VfCtl) (left : List Byte) : Prop where
  stream : x.stream = left
  most   : x.winlen.toNat % 2 ^ 31 ≤ min left.length 65536
  some   : left ≠ [] → 0 < x.winlen.toNat % 2 ^ 31
  last   : x.winlen.getLsbD 31 = true ↔ left ≠ [] ∧ x.winlen.toNat % 2 ^ 31 = left.length

/-- R328 to R332: PRECOPY, STOP and its end, SNAP and its end, RUN; a command that the state does not take sets ERR and ECODE 1; RUN resumes the
halted work within the limit that its RCBs hold now (assumption 26), and before a stream is whole it fails. -/
def MigrationStates : Prop :=
  ∀ (f : Fin 16) (p : Fin 8) (s : State),
    let v := s.vfs[f]
    let put (x : VfCtl) : State := { s with vfs := s.vfs.set f x }
    let refused := put { v with err := true, ecode := 1 }
    let ran := put { v with st := 0, tracking := false, stream := [], win := [], whole := false, winlen := 0 }
    (s.dev.stage = 1 →
      (v.st = 0 → OwnedBy s f p → exec (.precopy f) s = .next (put { v with st := 1, tracking := true })) ∧
      (v.st ≠ 0 → exec (.precopy f) s = .next refused) ∧
      (v.st ≤ 1 → exec (.stop f) s = .next (put { v with st := 2 })) ∧ (1 < v.st → exec (.stop f) s = .next refused) ∧
      (v.st = 1 → OwnedBy s f p → ∃ t, exec (.snap f) s = .next t ∧ t.vfs = s.vfs.set f { v with cur := !v.cur, snapping := true, snapdone := false } ∧
        (∀ r ∈ t.homeQ, inPart s p r.wg = false) ∧
        ((∀ r ∈ s.homeQ, inPart s p r.wg = false) → (∀ k ∈ s.walks, inPart s p k.wg = false) →
          t = put { v with cur := !v.cur, snapping := true, snapdone := false })) ∧
      (v.st ≠ 1 → exec (.snap f) s = .next refused) ∧
      (v.st = 3 ∨ (v.st = 4 ∧ v.whole = true) → OwnedBy s f p →
        ((∀ w ∈ s.wgs, w.ref.part ≠ p) → exec (.run f) s = .next ran) ∧
        (MayResume s → ∃ t, exec (.run f) s = .next t ∧ t.vfs = ran.vfs ∧ ResumedAll s t fun w => w.ref.part = p ∧ mustHalt ran w = false)) ∧
      (v.st = 4 → v.whole = false → exec (.run f) s = .next (put { v with st := 5, err := true, ecode := 2 })) ∧
      (v.st ≠ 3 → v.st ≠ 4 → exec (.run f) s = .next refused)) ∧
    (v.st ≠ 2 → exec (.stopComplete f) s = .next s) ∧
    (v.st = 2 → OwnedBy s f p →
      (quietPart s p → ∃ t, exec (.stopComplete f) s = .next t ∧ t.vfs = s.vfs.set f { v with st := 3 } ∧ (∀ r ∈ t.homeQ, inPart s p r.wg = false) ∧
        ((∀ r ∈ s.homeQ, inPart s p r.wg = false) → t = put { v with st := 3 })) ∧
      (¬ quietPart s p → (∀ k ∈ s.walks, inPart s p k.wg = false) → (∀ r ∈ s.homeQ, inPart s p r.wg = false) → exec (.stopComplete f) s = .next s)) ∧
    (v.snapping = true → exec (.snapComplete f) s = .next (put { v with snapping := false, snapdone := true })) ∧
    (v.snapping = false → exec (.snapComplete f) s = .next s)

/-- R299, R329, R331, R333: SAVE puts the stopped partition's state into a stream whose first record holds the stepping and the version, and the window
offers it; each WINACK consumes so many bytes, or supplies so many to a LOAD; a first record of another stepping or version is refused as soon as it has
arrived, bytes that begin no stream are malformed, a whole stream that does not fit is refused, and one that fits puts the state in place with every group
halted. The contents of the records and the count in a record's length are the model's choices (assumption 46), and so are the window's chunks (13) and
which streams a device can be given (21). -/
def StateStreams : Prop :=
  ∀ (f : Fin 16) (p : Fin 8) (k : Nat) (n : Word) (s : State), s.dev.stage = 1 →
    let v := s.vfs[f]
    let q := part s p
    let base := screedFirst + q.bfirst.toNat * 0x40000
    let put (x : VfCtl) : State := { s with vfs := s.vfs.set f x }
    let refused := put { v with err := true, ecode := 1 }
    let failed (i : Instr) (code : Nat) := exec i s = .next (put { v with st := 5, err := true, ecode := code })
    let count := min (n.toNat % 2 ^ 31) 65536
    (v.st ≠ 3 → exec (.save f) s = .next refused) ∧
    (v.st = 3 → OwnedBy s f p → s.memWf = true → ∃ t im x, exec (.save f) s = .next t ∧
      t = { s with streams := s.streams ++ [im], vfs := s.vfs.set f x, fresh := s.fresh + 1 } ∧
      x = { v with stream := x.stream, winlen := x.winlen } ∧ Shows x (streamOf im) ∧
      (streamOf im).take 13 = leBytes 4 13 ++ leBytes 2 (Config.recordType 0) ++ [0, 0] ++ s.cfg.stepping :: leBytes 4 Config.streamVersion ∧
      im.stepping = s.cfg.stepping ∧ im.version = Config.streamVersion ∧ im.det = q.det ∧ im.bcnt = q.bcnt.toNat ∧ im.clusters = q.clmask ∧
      (∀ w, w ∈ im.wgs ↔ w ∈ s.wgs ∧ w.ref.part = p) ∧ (∀ g, g ∈ im.groups ↔ g ∈ allGroups s ∧ inPart s p g.wg = true) ∧
      (∀ x, x ∈ im.pipes ↔ x ∈ s.pipes ∧ x.part = p) ∧ im.mail = s.mbox[f.val + 1] ∧
      ∀ a < q.bcnt.toNat * 0x40000, Memory.get im.screed a = Memory.get s.mem (base + a)) ∧
    (v.st ≠ 0 → exec (.load f k) s = .next refused) ∧
    (v.st = 0 → OwnedBy s f p →
      ((∃ x ∈ s.pipes, x.part = p) → exec (.load f k) s = .next refused) ∧
      ((∀ x ∈ s.pipes, x.part ≠ p) →
        exec (.load f k) s = .next (put { v with st := 4, stream := [], win := [], whole := false, winlen := 0 }))) ∧
    (v.st = 3 → ∃ x, exec (.winackWrite f n) s = .next (put x) ∧ x = { v with stream := x.stream, winlen := x.winlen } ∧ Shows x (v.stream.drop count)) ∧
    (∀ o rest sec, v.st = 3 → o % 4 = 0 → o + 4 ≤ v.winlen.toNat % 2 ^ 31 → o + 4 ≤ v.stream.length → o < 65536 →
      step { s with agenda := .read ⟨0, 0x100000 + 0x10000 * f.val + o, 4, sec⟩ :: rest } =
        .next { s with agenda := rest, out := s.out ++ [.data 0 ((v.stream.drop o).take 4)] }) ∧
    (∀ o (x : BitVec 64) sec, v.st = 4 → o % 4 = 0 → o < 65536 → Memory.wf v.win = true →
      ∃ w, exec (.registerWrite ⟨0, 0x100000 + 0x10000 * f.val + o, 4, x, sec⟩) s = .next (put { v with win := w }) ∧
        ∀ a, Memory.get w a = if o ≤ a ∧ a < o + 4 then BitVec.ofNat 8 (x.toNat / 256 ^ (a - o)) else Memory.get v.win a) ∧
    (v.st ≠ 3 → v.st ≠ 4 ∨ v.whole = true → exec (.winackWrite f n) s = .next s) ∧
    (v.st = 4 → v.whole = false → OwnedBy s f p →
      let bytes := v.stream ++ (List.range count).map (Memory.get v.win)
      let begins := fun im : VmImage => bytes <+: streamOf im
      let head := leBytes 4 13 ++ leBytes 2 (Config.recordType 0) ++ [0, 0]
      let mine := head ++ s.cfg.stepping :: leBytes 4 Config.streamVersion
      let short := bytes.length < 13 ∧ bytes.take 8 <+: head
      let foreign := 13 ≤ bytes.length ∧ head <+: bytes ∧ ¬ mine <+: bytes
      (short → exec (.winackWrite f n) s = .next (put { v with stream := bytes })) ∧
      (foreign → failed (.winackWrite f n) 3) ∧
      (¬ short → ¬ foreign → (∀ im ∈ s.streams, ¬ begins im) → failed (.winackWrite f n) 2) ∧
      ∀ im ∈ s.streams, ¬ short → ¬ foreign → begins im → (∀ x ∈ s.streams, begins x → x = im) →
        let other := im.stepping ≠ s.cfg.stepping ∨ im.version ≠ Config.streamVersion
        let shape := im.det = q.det ∧ im.bcnt = q.bcnt.toNat ∧ (clustersOf im.clusters).length = (clustersOf q.clmask).length ∧ pairsMap im q.clmask = true
        (bytes ≠ streamOf im → exec (.winackWrite f n) s = .next (put { v with stream := bytes })) ∧
        (bytes = streamOf im → (other → failed (.winackWrite f n) 3) ∧ (¬ other → ¬ shape → failed (.winackWrite f n) 4)) ∧
        (bytes = streamOf im → ¬ other → shape → s.memWf = true → Memory.wf im.screed = true → q.root ≠ 0 →
          (∀ x ∈ im.nodes, x.parent ≠ 0 ∧ inMain (x.rcb + 255) = true) →
          ∃ t, exec (.winackWrite f n) s = .next t ∧ t.vfs = s.vfs.set f { v with stream := bytes, whole := true } ∧
            (∀ a < q.bcnt.toNat * 0x40000, Memory.get t.mem (base + a) = Memory.get im.screed a) ∧
            (∀ x ∈ im.pipes, { x with part := p } ∈ t.pipes) ∧ t.mbox = s.mbox.set (f.val + 1) im.mail ∧
            (∀ x ∈ im.nodes, (nodeOf t x.rcb).isSome = true) ∧
            (∀ w ∈ im.wgs, ∃ u ∈ t.wgs, u.ref = { w.ref with part := p } ∧ u.wgid = w.wgid ∧ u.mem = w.mem ∧ u.rank = w.rank) ∧
            (∀ w ∈ s.wgs, w ∈ t.wgs) ∧ t.grp = s.grp ∧
            ∀ g ∈ im.groups, ∃ h ∈ t.others, h.gid = g.gid ∧ h.role = g.role ∧ h.c = g.c ∧ h.halted = true ∧
              ∀ i a b : Nat, (clustersOf im.clusters)[i]? = some a → (clustersOf q.clmask)[i]? = some b → g.core / 8 = a →
                h.core = 8 * b + g.core % 8))

/-- R328 to R333: the states of a virtual function's migration and its state streams. That RUN resumes within a limit read from the RCBs again is
assumption 26, how a stream is supplied and recognised assumption 21, that a LOAD replaces the screed assumption 13, and the records of a stream are
assumption 46. -/
def Obligations.MigrationStatesAndStreams : Prop := MigrationStates ∧ StateStreams

/-! ### Budgets and power (R18, R239 to R242, R263 to R266) -/

/-- The RCB of the stage that a workgroup's work is charged to. -/
def chargedTo (s : State) (wg : Nat) : Option Nat := ((wgOf s wg).bind fun w => stageOf s w.ref).map (·.rcb)

/-- How often a node stands among the payers of a workgroup's stage (R18). -/
def timesCharged (s : State) (wg r : Nat) : Nat := ((chargedTo s wg).map fun a => (payers s a).count r).getD 0

/-- What a node is charged up to a time for some of the groups, in 1/1,200 token: 4 tokens a microsecond for a shuttle slot, 1 for a beam slot; nothing
for a group that is halted, nor for an ended group of a workgroup whose groups have all halted or ended (R240, R256). -/
def slotsDue (s : State) (at_ : Nat) (gs : List Group) (r : Nat) : Nat :=
  (gs.map fun g =>
    let mine := (allGroups s).filter fun h => h.wg == g.wg
    if g.halted = true ∨ (g.phase = .ended ∧ (∃ h ∈ mine, h.halted = true) ∧ ∀ h ∈ mine, h.halted = true ∨ h.phase = .ended) then 0
    else (if g.core % 8 < 2 then 4 else 1) * (at_ - g.heldSince) * timesCharged s g.wg r).sum

/-- What a node is charged up to a time, with 32 tokens a microsecond for each running engine (R240). -/
def allDue (s : State) (at_ r : Nat) : Nat :=
  slotsDue s at_ (allGroups s) r +
    (s.engq.map fun t => if t.started then 32 * enginesOn s t * (at_ - t.since) * timesCharged s t.wg r else 0).sum

/-- Every charge up to now is taken. -/
def charged (s : State) : State :=
  { s with
      grp := { s.grp with heldSince := max s.grp.heldSince s.now }
      others := s.others.map fun g => { g with heldSince := max g.heldSince s.now }
      engq := s.engq.map fun t => if t.started then { t with since := max t.since s.now } else t
      nodes := s.nodes.map fun n => { n with bal := n.bal - (allDue s s.now n.rcb : Nat), used := n.used + allDue s s.now n.rcb } }

/-- Where the counters of a node stand: in its RCB (R239). -/
def nodeRcb (s : State) (n : Node) : Nat := if n.parent = 0 then s.dev.devroot.toNat else n.rcb

/-- R18, R239 to R242: the charge of slots and engines; once a period of 1 ms is over, what is still due is charged, every node with a budget takes its
REFILL and keeps a negative balance, a borrower repays up to a quarter of its REFILL to its lender, and each RCB's counters are written. -/
def Obligations.BudgetsAndPeriods : Prop :=
  ∀ s : State,
    let u := charged s
    exec .chargeTick s = .next u ∧
    (s.now < 1200000 * (s.periods + 1) → exec .periodBoundary s = .next s) ∧
    (1200000 * (s.periods + 1) ≤ s.now → ∃ t, exec .periodBoundary s = .next t ∧ t.periods = s.periods + 1 ∧
      t.grp = u.grp ∧ t.others = u.others ∧ t.engq = u.engq ∧ t.wgs = s.wgs ∧ t.pipes = s.pipes ∧ (∀ n ∈ t.nodes, n.used = 0) ∧
      ((∀ n ∈ s.nodes, n.debt = 0 ∧ n.loans = []) →
        t.nodes = u.nodes.map fun n => { n with bal := if n.budset = true ∨ n.parent = 0 then (n.refill : Int) * 1200 + min n.bal 0 else n.bal, used := 0 }) ∧
      (∀ a b x, a ∈ u.nodes → b ∈ u.nodes → a ≠ b → (s.nodes.map (·.rcb)).Nodup → a.budset = true → b.budset = true → b.loans = [(a.rcb, x)] →
        b.debt = x → 0 < x → (∀ n ∈ u.nodes, n ≠ b → n.debt = 0 ∧ n.loans = []) →
        let y := min x (b.refill / 4)
        nodeOf t a.rcb = some { a with bal := ((a.refill : Int) + y) * 1200 + min a.bal 0, used := 0 } ∧
        nodeOf t b.rcb = some { b with bal := ((b.refill : Int) - y) * 1200 + min b.bal 0, debt := x - y, used := 0,
                                       loans := if y = x then [] else [(a.rcb, x - y)] }) ∧
      (Sound s → (s.nodes.map (nodeRcb s)).Nodup → (s.nodes.map (·.rcb)).Nodup → (∀ n ∈ s.nodes, rcbAt (nodeRcb s n) = true) →
        ∀ n ∈ u.nodes, ∀ m, nodeOf t n.rcb = some m → devRead t (nodeRcb s n + 0x40) 16 =
          leBytes 4 (BitVec.ofInt 32 (if n.budset = true ∨ n.parent = 0 then m.bal / 1200 else 0)).toNat ++ leBytes 4 m.debt ++
            leBytes 4 (n.used / 1200) ++ leBytes 4 n.launch.toNat))

/-- Nothing on a cluster asks for a wake beyond what waits already, and no reserve defers one (R264 to R266). -/
def NoNewWake (s : State) (c : Fin 32) : Prop :=
  critStages s = [] ∧ sleepers s c = [] ∧ (∀ t ∈ s.engq, ¬ runsOn s t c) ∧
    ∀ w ∈ s.wgs, inCluster s w c = true → (stageOf s w.ref).map (·.prio) ≠ some 1

/-- Engine-clock cycles from a wake to work (R263), at 1.2 GHz. -/
def wakeCycles : PState → Nat
  | .G3 => 25 * 1200
  | .G2 => 720
  | _ => 0

/-- R12, R165, R198, R263 to R265: wakes start by class and age, at most two in 250 ns in a cluster; a request that waits goes up to the class of a stage
that comes to need the unit too; a wake ends after its time, a creel from G3 reads zero; idle units go down after their times, and an unused unit to G3
without its state; the engines of a cluster that holds a CRIT workgroup stay awake. The cores and engines that a reserve counts are assumption 64. -/
def Obligations.PowerStates : Prop :=
  ∀ (c : Fin 32) (u : UnitId) (s : State),
    let x := unitOf s u
    let recent := s.wakes.filter fun w => decide (s.now < w.2 + 300)
    let started := (recent.filter fun w => w.1 == c).length
    (NoNewWake s c → 2 ≤ started ∨ (∀ q ∈ s.wakeQ, q.unit.cluster ≠ c) → exec (.wakeStart c) s = .next { s with wakes := recent }) ∧
    (NoNewWake s c → started < 2 → ∀ q ∈ s.wakeQ, q.unit.cluster = c →
      (∀ r ∈ s.wakeQ, r ≠ q → r.unit.cluster = c → q.prio < r.prio ∨ (q.prio = r.prio ∧ q.at_ < r.at_)) →
      exec (.wakeStart c) s =
        .next (setUnit { s with wakes := (c, s.now) :: recent, wakeQ := s.wakeQ.erase q } q.unit { unitOf s q.unit with since := s.now, waking := true })) ∧
    (∀ g, critStages s = [] → sleepers s c = [g] → s.wakeQ = [] → s.wakes = [] → s.engq = [] → heldWarm s c = false →
      (unitOf s (coreUnit g.core)).waking = false → ∃ t, exec (.wakeStart c) s = .next t ∧ (unitOf t (coreUnit g.core)).waking = true ∧
        (unitOf t (coreUnit g.core)).since = s.now ∧ t = { s with units := t.units, wakes := [(c, s.now)] }) ∧
    (∀ g w st q, critStages s = [] → sleepers s c = [g] → wgOf s g.wg = some w → stageOf s w.ref = some st → s.wakeQ = [q] → q.unit = coreUnit g.core →
      s.engq = [] → heldWarm s c = false → (unitOf s (coreUnit g.core)).waking = false → 2 ≤ started →
      exec (.wakeStart c) s = .next { s with wakes := recent, wakeQ := [{ q with prio := min q.prio st.prio }] }) ∧
    (x.waking = true → x.since + wakeCycles x.st ≤ s.now →
      ∃ t, exec (.wakeComplete u) s = .next t ∧ t = { setUnit s u ⟨.G0, s.now, false⟩ with creels := t.creels, creelTen := t.creelTen } ∧
        let cold (e : EngineId) : Prop := x.st = .G3 ∧ engineUnit e = u ∧ u.kind ≠ .copy
        (∀ e, cold e → creelOf t e = []) ∧ (∀ e, ¬ cold e → creelOf t e = creelOf s e) ∧
          ∀ y, y ∈ t.creelTen ↔ y ∈ s.creelTen ∧ ¬ cold y.1.1) ∧
    (x.waking = false ∨ s.now < x.since + wakeCycles x.st → exec (.wakeComplete u) s = .next s) ∧
    (let idle := match u.kind with
       | .core i => if i.val < 2 then 20 else 32
       | _ => 32
     (x.st = .G0 → unitBusy s u = false → x.since + idle ≤ s.now → exec (.idleToG1 u) s = .next (setUnit s u ⟨.G1, s.now, false⟩)) ∧
     (x.st ≠ .G0 ∨ unitBusy s u = true ∨ s.now < x.since + idle → exec (.idleToG1 u) s = .next s)) ∧
    (x.st = .G1 → unitBusy s u = false → x.since + 60000 ≤ s.now → mustStayWarm s u = false →
      exec (.g1ToG2 u) s = .next (setUnit s u ⟨.G2, s.now, false⟩)) ∧
    (x.st ≠ .G1 ∨ unitBusy s u = true ∨ s.now < x.since + 60000 ∨ mustStayWarm s u = true → exec (.g1ToG2 u) s = .next s) ∧
    (unitEmpty s u = false ∨ x.waking = true ∨ mustStayWarm s u = true → exec (.enterG3 u) s = .next s) ∧
    ((∃ w ∈ s.wgs, inCluster s w u.cluster = true ∧ (stageOf s w.ref).map (·.prio) = some 1) → (∀ i, u.kind ≠ .core i) →
      exec (.g1ToG2 u) s = .next s ∧ exec (.enterG3 u) s = .next s) ∧
    (unitEmpty s u = true → x.waking = false → mustStayWarm s u = false →
      ((∀ i, u.kind ≠ .core i) → exec (.enterG3 u) s = .next (setUnit s u ⟨.G3, s.now, false⟩)) ∧
      ∀ i, u.kind = .core i → Sound s → s.homeQ = [] → ∃ t, exec (.enterG3 u) s = .next t ∧ unitOf t u = ⟨.G3, s.now, false⟩ ∧ SameBytes s t ∧
        let core := 8 * u.cluster.val + i.val
        (∀ l ∈ t.l1, l.core ≠ core) ∧ (∀ e ∈ t.tlb, e.owner ≠ .core core) ∧ ∀ line j, heddleWord t line j ≠ .O core)

/-! ### Launching, slices, retirement (R15, R244 to R256, R279, R290 to R292) -/

/-- A cohort of one workgroup may launch on a core: its stage is first in the order of R245, its nodes below the root have positive balances
(R18) once the charges of every microsecond that has ended are taken (R240), and the core that R15 gives it is awake. -/
structure MayLaunch (s : State) (c : Fin 32) (r : StageRef) (st : Stage) (core : Nat) : Prop where
  first   : ∃ rest, stageOrder s c = (r, st) :: rest
  again   : s.relaunch = []
  single  : st.cx = 1 ∧ st.cy = 1 ∧ st.groups ≤ 16 ∧ st.il ≠ 2
  prio    : st.prio ≠ 1 ∧ critStages s = []
  funds   : ∀ a ∈ payers s st.rcb, ∃ n, nodeOf s a = some n ∧ (n.parent = 0 ∨ (allDue s (s.now / 1200 * 1200) a : Int) < n.bal)
  room    : placeOn s (r.part, r.tenant) st c.val false (fun _ => true) = some core ∧ coreAwake s st core = true

/-- The workgroup that a cohort starts, and its groups (R244, R249, R279): at the class's entry, local memory zero, launch registers within the scalar
budget, everything else as a group begins. -/
def Launched (t : State) (key core : Nat) (st : Stage) (g : Grid) (det : Bool) : Prop :=
  let cls : CoreClass := if core % 8 < 2 then .shuttle else .beam
  let entry (k : CoreClass) : Word := if k = .shuttle then st.sentry else st.bentry
  let sbud := if cls = .shuttle then st.sreg.2 else st.breg.2
  (∃ w ∈ t.wgs, w.key = key ∧ w.ref = g.ref ∧ w.grid = g.key ∧ w.pos = g.launched ∧ w.wgid = cohortXyz st g.launched ∧
    w.rank = (if det then g.launched else g.wgs) ∧ w.core = core ∧ w.cls = cls ∧ w.entry = g.entry ∧ w.index = g.index ∧ w.size = st.loc ∧ w.mem = []) ∧
  ∀ i < st.groups, ∃ h ∈ t.others, h.wg = key ∧ h.gid.val = i ∧ h.role = .lead ∧ h.core = core ∧ h.phase = .between ∧ h.halted = false ∧
    h.vbud = st.vbudOf cls i ∧ h.sbud = sbud ∧
    h.c = { Ctx.launch with s := h.c.s, lpc := Vector.replicate 32 (entry cls), twin := entry (if cls = .shuttle then .beam else .shuttle) } ∧
    ∀ k < 24, h.c.s[k]? = some (if sbud ≤ k then 0 else if 1 ≤ k ∧ k ≤ 14 then BitVec.ofNat 32 (leNat ((g.entry.drop (4 * (k - 1))).take 4))
      else if k = 15 then BitVec.ofNat 32 (g.index % 65536 * 65536 + g.ref.pipe % 65536)
      else if k = 23 then BitVec.ofNat 32 st.loc - BitVec.ofNat 32 (2048 * i) else 0)

/-- R15, R244 to R249, R279: the walker of a cluster launches a cohort of the stage that comes first; it takes the entry at HEAD and claims the queue for a
new grid, pops it with the last cohort, and does nothing when no stage may launch. Which core a cohort takes is the model's choice (assumption 15). -/
def Obligations.CohortLaunches : Prop :=
  ∀ (c : Fin 32) (s : State),
    (s.relaunch = [] → stageOrder s c = [] → exec (.cohortLaunch c) s = .next s) ∧
    ∀ r st core, MayLaunch s c r st core → Sound s →
      let det := (part s r.part).det
      (∀ g, openGrid s r = some g → (s.grids.map (·.key)).Nodup →
        let last := st.gx * st.gy * st.gz ≤ g.launched + 1
        ∃ t, exec (.cohortLaunch c) s = .next t ∧ Launched t s.fresh core st g det ∧ t.lastLaunch = s.lastLaunch.set c (some r) ∧
          unitOf t (coreUnit core) = ⟨.G0, s.now, false⟩ ∧ (∀ w ∈ s.wgs, w ∈ t.wgs) ∧
          t.grids = s.grids.map (fun x => if x = g then { g with launched := g.launched + 1, wgs := g.wgs + 1, held := decide (¬ last) } else x) ∧
          (((chainOf s st.rcb).map (·.rcb)).Nodup → ∀ n ∈ chainOf s st.rcb, (nodeOf t n.rcb).map (·.launch) = some (n.launch + 1)) ∧
          (¬ last → t.mem = s.mem) ∧
          (last → ∀ pa, QueueAt s r st pa → screedWord t pa = (screedWord s pa + 1) % 2 ^ 32 ∧ screedWord t (pa + 12) = 0)) ∧
      ∀ pa, openGrid s r = none → det = false → QueueAt s r st pa → st.qlog ≤ 16 →
        let head := screedWord s pa
        let e := (List.range 64).map fun k => Memory.get s.mem (slotPa st pa head + k)
        (screedWord s (pa + 4) + 2 ^ 32 - head) % 2 ^ 32 ≠ 0 → leNat (e.drop 56) = 0 → 1 < st.gx * st.gy * st.gz →
        ∃ t key, exec (.cohortLaunch c) s = .next t ∧ s.fresh ≤ key ∧
          let g : Grid := ⟨key, r, e, head, 0, [], 0, true⟩
          Launched t (key + 1) core st g false ∧
          t.grids = s.grids.map (fun x => if x.key = key then { x with launched := x.launched + 1, wgs := x.wgs + 1, held := true } else x) ++
            [{ g with launched := 1, wgs := 1 }] ∧
          screedWord t pa = head ∧ screedWord t (pa + 12) = 1 ∧ screedWord t (pa + 4) = screedWord s (pa + 4)

/-- The tenants of a cluster other than one that are active there, in turn order (R252). -/
def waitingTurns (s : State) (c : Fin 32) (x : Fin 8 × Fin 9) : List (Fin 8 × Fin 9) := (turnsAfter s c x).filter (activeOn s c)

/-- A group stands at a halt point: at a run boundary, in front of a run's first instruction, or stalled where it may wait for long (R253). -/
def AtHaltPoint (g : Group) : Prop :=
  g.phase = .between ∨ (g.phase = .inRun ∧ g.c.run.pos = 0 ∧ g.c.xpw = none) ∨ g.phase = .stalled .queueFull ∨ g.phase = .stalled .kicks ∨
    g.phase = .stalled .selv

/-- A group whose slot has been charged up to now. -/
def paidUp (s : State) (g : Group) : Group := { g with heldSince := max g.heldSince s.now }

/-- A group as it halts: the results of its core's own units written (R96, R128), charged up to now. -/
def asHalted (s : State) (g : Group) : Group := { (paidUp s g).landOwn with halted := true }

/-- R252 to R256: a slice ends when it has lasted its length or its tenant has no work, and another tenant is active, or when CRIT work waits; halted groups
keep what they hold and their slots are charged up to now and no longer; the members of a checked pair, which take the same steps (assumption 42), halt
together; the incoming tenant's groups resume once all have halted. -/
def SlicesAndHalts : Prop :=
  ∀ (c : Fin 32) (key : Nat) (gid : Fin 16) (s : State),
    let sl := s.slices[c]
    (sl.cur = none ∨ sl.next ≠ none → exec (.sliceEnd c) s = .next s) ∧
    (∀ x, sl.cur = some x → sl.next = none →
      let crit := (turnsAfter s c x).filter (critWaits s)
      let ended := activeOn s c x = false ∨ sl.since + sliceLen s x ≤ s.now
      let change (y : Fin 8 × Fin 9) : State := { s with slices := s.slices.set c { sl with next := some y } }
      (crit = [] ∨ critResident s c x = true → ¬ ended ∨ waitingTurns s c x = [] → exec (.sliceEnd c) s = .next s) ∧
      ((∀ w ∈ s.wgs, w.openMig = none) →
        (∀ y ys, critResident s c x = false → crit = y :: ys → exec (.sliceEnd c) s = .next (change y)) ∧
        (∀ y ys, crit = [] ∨ critResident s c x = true → ended → waitingTurns s c x = y :: ys → exec (.sliceEnd c) s = .next (change y)))) ∧
    (∀ w g, wgOf s key = some w → groupAt s key gid .lead = some g →
      let mine := (allGroups s).filter fun h => h.wg == key
      let paid := s.nodes.map fun n => { n with bal := n.bal - (slotsDue s s.now mine n.rcb : Nat), used := n.used + slotsDue s s.now mine n.rcb }
      (mustHalt s w = false ∨ ¬ AtHaltPoint g ∨ g.halted = true → exec (.groupHalt key gid) s = .next s) ∧
      (mustHalt s w = true → AtHaltPoint g → g.halted = false → ((allGroups s).map fun g => (g.wg, g.gid, g.role)).Nodup →
        ∃ t, exec (.groupHalt key gid) s = .next t ∧ t = { s with grp := t.grp, others := t.others, nodes := paid } ∧
          (∀ h ∈ allGroups s, (h.wg ≠ key → h ∈ allGroups t) ∧ (h.wg = key → h.gid ≠ gid → paidUp s h ∈ allGroups t)) ∧
          groupAt t key gid .lead = some (asHalted s g) ∧ groupAt t key gid .trail = (groupAt s key gid .trail).map (asHalted s))) ∧
    (sl.cur = none ∨ sl.next = none → exec (.sliceResume c) s = .next s) ∧
    (∀ x y, sl.cur = some x → sl.next = some y →
      let halted := ∀ w ∈ s.wgs, w.ten = x → inCluster s w c = true → ∀ g ∈ allGroups s, g.wg = w.key → g.halted = true ∨ g.phase = .ended
      let now : State := { s with slices := s.slices.set c ⟨some y, s.now, none⟩ }
      (¬ halted → exec (.sliceResume c) s = .next s) ∧
      (halted → (∀ w ∈ s.wgs, ¬ (w.ten = y ∧ inCluster s w c = true)) → exec (.sliceResume c) s = .next now) ∧
      (halted → MayResume s → ∃ t, exec (.sliceResume c) s = .next t ∧ t.slices = now.slices ∧
        ResumedAll s t fun w => w.ten = y ∧ inCluster s w c = true ∧ mustHalt now w = false))

/-- A workgroup at its retirement: its groups have ended, its kicks are complete, nothing of it is under way, its function runs (R247, R330). -/
structure Leaving (s : State) (x : Workgroup) : Prop where
  found    : wgOf s x.key = some x ∧ x.key ≠ 0 ∧ (s.wgs.map (·.key)).Nodup
  ended    : ∀ g ∈ allGroups s, g.wg = x.key → g.phase = .ended
  kicks    : x.kicks = []
  settled  : s.homeQ = [] ∧ ∀ k ∈ s.walks, k.wg ≠ x.key
  closed   : x.finished = false ∧ x.resv = []
  function : vfStopped s x.ref.part = false

/-- A pass stands at the bank of each ticket that a workgroup has not passed, as a state `u` translates its address. -/
def PassesLeft (u s t : State) (x : Workgroup) : Prop :=
  (∀ k pa, k < entryTkn x.entry → k ∉ x.passed → k ∉ x.duePass → ticketPa u x k = some pa → ⟨x.key, x.ten, pa, x.rank, .pass⟩ ∈ t.held) ∧
    ∀ h ∈ s.held, h.wg ≠ x.key → h ∈ t.held

/-- It has gone: its storage is free, every other group and workgroup stays, its passes stand at their banks. -/
def LeftBy (u s t : State) (x : Workgroup) : Prop :=
  t.wgs = s.wgs.filter (fun w => w.key != x.key) ∧ (∀ g, g ∈ allGroups t ∧ g.wg ≠ 0 ↔ g ∈ allGroups s ∧ g.wg ≠ 0 ∧ g.wg ≠ x.key) ∧ PassesLeft u s t x

/-- Its tickets are passed after its last writes. -/
def Left (s t : State) (x : Workgroup) : Prop := LeftBy t s t x

/-- A byte after some writes, in their order. -/
def laid (ws : List (Nat × List Byte)) (a : Nat) (old : Byte) : Byte :=
  ws.foldl (fun b w => if w.1 ≤ a ∧ a < w.1 + w.2.length then (w.2[a - w.1]?).getD b else b) old

/-- The writes of the entries of a commit buffer: the blocks of a global store, a screed store (R372). -/
def bufWrites (es : List BufEnt) : List (Nat × List Byte) :=
  es.flatMap fun e => match e.op with
    | .store _ va pas bs _ _ => pas.zip ((cutBlocks va bs).map (·.2))
    | .scrSt _ _ pa bs => [(pa, bs)]
    | .push _ _ => []

/-- Writes, each within one block of 16 bytes of main memory or screed. -/
def BlockWrites (ws : List (Nat × List Byte)) : Prop :=
  ∀ x ∈ ws, 0 < x.2.length ∧ x.1 % 16 + x.2.length ≤ 16 ∧ (inMain x.1 = true ∨ inScreed x.1 = true)

/-- R247, R251, R292, R330: a workgroup retires once all its groups have ended and its kicks are complete, while its function runs: its storage is free, it
leaves its passes, and its cohort retires with its last workgroup, the grid with its last cohort. -/
def WorkgroupRetirement : Prop :=
  ∀ (x : Workgroup) (s : State), wgOf s x.key = some x → x.finished = false →
    ((∃ g ∈ allGroups s, g.wg = x.key ∧ g.phase ≠ .ended) ∨ x.kicks ≠ [] ∨ vfStopped s x.ref.part = true → exec (.workgroupRetire x.key) s = .next s) ∧
    (Leaving s x → x.duePass = [] → ilOf s x = 0 → (part s x.ref.part).det = false →
      ∃ t, exec (.workgroupRetire x.key) s = .next t ∧ Left s t x ∧ t.mem = s.mem ∧
        ∀ g st, g ∈ s.grids → g.key = x.grid → (s.grids.map (·.key)).Nodup → stageOf s g.ref = some st →
          (∀ w ∈ s.wgs, w.grid = g.key → w.pos = x.pos → w = x) → (∀ w ∈ s.relaunch, ¬ (w.grid = g.key ∧ w.pos = x.pos)) → x.pos ∉ g.retired →
          if st.cohorts ≤ g.retired.length + 1 ∧ st.cohorts ≤ g.launched then ∀ h ∈ t.grids, h.key ≠ g.key
          else { g with retired := g.retired ++ [x.pos] } ∈ t.grids)

/-- R206, R207, R289, R372: the buffer of an IL1 workgroup is committed at its retirement, its groups by increasing id and each in program order; it waits
while the queue of a buffered push has no room. -/
def BufferedRetirement : Prop :=
  ∀ (x : Workgroup) (s : State), Sound s → Leaving s x → x.duePass = [] → ilOf s x = 1 → (part s x.ref.part).det = false →
    let es := ((List.finRange 16).filterMap fun i => groupAt s x.key i .lead).flatMap (·.cbuf)
    ((∀ e ∈ es, ∀ k bs, e.op ≠ .push k bs) → BlockWrites (bufWrites es) →
      ∃ t, exec (.workgroupRetire x.key) s = .next t ∧ Left s t x ∧ ∀ a, byteAt t x a = laid (bufWrites es) a (byteAt s x a)) ∧
    ∀ e k bs st pa, es = [e] → e.op = .push k bs → k < 32 → bs.length = 64 → stageOf s { x.ref with stage := k } = some st →
      QueueAt s { x.ref with stage := k } st pa → st.qlog ≤ 16 →
      (queueFull s st pa → exec (.workgroupRetire x.key) s = .next s) ∧
      ((screedWord s (pa + 8) + 2 ^ 32 - screedWord s pa) % 2 ^ 32 < 2 ^ st.qlog →
        ∃ t, exec (.workgroupRetire x.key) s = .next t ∧ Left s t x ∧ EntryPushed s t st pa bs)

/-- The writes in the buffer of a workgroup of a deterministic partition, which holds nothing else and is within its limit (R202, R250). -/
def detWrites (w : Workgroup) : List (Nat × List Byte) :=
  w.det.filterMap fun e => match e.2 with
    | .write _ pa bs => some (pa, bs)
    | _ => none

def DetWriter (s : State) (w : Workgroup) : Prop :=
  (∀ e ∈ w.det, ∃ va pa bs, e.2 = .write va pa bs) ∧ BlockWrites (detWrites w) ∧
    ∀ st, stageOf s w.ref = some st → w.detBytes ≤ st.buflim * 1024

/-- Some of the writes touch a word. -/
def touchesWord (ws : List (Nat × List Byte)) (k : Nat) : Prop := ∃ x ∈ ws, x.1 / 4 ≤ k ∧ k ≤ (x.1 + x.2.length - 1) / 4

/-- Two workgroups of one pipeline. -/
def samePipe (x y : Workgroup) : Prop := x.ref.part = y.ref.part ∧ x.ref.tenant = y.ref.tenant ∧ x.ref.pipe = y.ref.pipe

/-- R202 to R204, R250, R251, R292, R293: a workgroup of a deterministic partition that ends leaves its advances and its passes, and keeps its buffer until
every workgroup of its cohort has ended and the cohorts before it have retired; then the buffers merge in curve order: a word that a lower workgroup wrote
stays as it wrote it, and a conflict is reported; a stage of lower index that has work to merge goes first. -/
def DeterministicRetirement : Prop :=
  ∀ (x : Workgroup) (g : Grid) (s : State), Sound s → Leaving s x → ilOf s x = 0 → (part s x.ref.part).det = true → g ∈ s.grids → g.key = x.grid →
    (s.grids.map (·.key)).Nodup → s.relaunch = [] → (stageOf s x.ref).isSome = true →
    let mates := s.wgs.filter fun w => w.grid == x.grid
    let next := x.pos ∉ g.retired ∧ ∀ k < x.pos, k ∈ g.retired
    (∀ v ∈ s.wgs, samePipe v x → v.ref.stage < x.ref.stage → exec (.workgroupRetire v.key) s ≠ .next s → exec (.workgroupRetire x.key) s = .next s) ∧
    ((∀ v ∈ s.wgs, samePipe v x → x.ref.stage ≤ v.ref.stage) →
    ((∃ w ∈ mates, w.key ≠ x.key ∧ w.pos = x.pos ∧ w.finished = false) → next →
      ∃ t, exec (.workgroupRetire x.key) s = .next t ∧ wgOf t x.key = some { x with finished := true, mem := [], memT := [], size := 0 } ∧
        (∀ h ∈ allGroups t, h.wg ≠ x.key) ∧ t.mem = s.mem ∧ t.grids = s.grids ∧ PassesLeft s s t x ∧
        ∀ k ∈ x.duePass, ∀ pa, ticketPa s x k = some pa → ⟨x.key, x.ten, pa, x.rank, .advance⟩ ∈ t.held) ∧
    (mates = [x] → next → DetWriter s x →
      ∃ t, exec (.workgroupRetire x.key) s = .next t ∧ LeftBy s s t x ∧ ∀ a, byteAt t x a = laid (detWrites x) a (byteAt s x a)) ∧
    ∀ y, mates = [x, y] ∨ mates = [y, x] → x.key ≠ y.key → y.pos = x.pos → y.ref = x.ref → y.finished = true → next →
      DetWriter s x → DetWriter s y → x.curve ≠ y.curve →
      let lo := if x.curve < y.curve then x else y
      let hi := if x.curve < y.curve then y else x
      ∃ t, exec (.workgroupRetire x.key) s = .next t ∧ (∀ w ∈ t.wgs, w.grid ≠ x.grid) ∧
        ((s.domains[stageDomain s x.ref]).en = false → ∀ a,
          (touchesWord (detWrites lo) (a / 4) → byteAt t x a = laid (detWrites lo) a (byteAt s x a)) ∧
          (¬ touchesWord (detWrites lo) (a / 4) → byteAt t x a = laid (detWrites hi) a (byteAt s x a))) ∧
        ∀ pa bs cs, detWrites lo = [(pa, cs)] → detWrites hi = [(pa, bs)] → pa % 4 = 0 → bs.length = 4 → cs.length = 4 →
          Reported s t (stageDomain s x.ref) 0x30 3)

/-- The members of every group of a checked workgroup stand at one place with equal contexts, and every event was compared equal (R377). -/
def Agreed (s : State) (w : Workgroup) : Prop :=
  ∀ g ∈ allGroups s, g.wg = w.key → g.phase ≠ .inRun ∧ g.arr = [] ∧
    (g.role = .lead → g.cmp = [] ∧ ∃ q, groupAt s w.key g.gid .trail = some q ∧ q.c = g.c ∧ q.phase = g.phase)

/-- What the buffers of a checked workgroup write when they hold screed stores only: where one group alone writes, its stores in program order. -/
def BuffersLanded (s t : State) (w : Workgroup) : Prop :=
  ∀ g ∈ allGroups s, g.wg = w.key → g.role = .lead → ∀ a,
    (∀ h ∈ allGroups s, h.wg = w.key → h.role = .lead → h ≠ g → ∀ x ∈ bufWrites h.cbuf, ¬ within x.1 (x.1 + x.2.length) a) →
      byteAt t w a = laid (bufWrites g.cbuf) a (byteAt s w a)

/-- R207, R370, R375, R377: a checked workgroup commits at a ckpt and at its retirement: once both members of every group have come there with every event
compared equal, snapshots are taken, the buffers are performed and emptied, the checkpoint id goes up and both members go on, the group at the
ckpt with a snapshot behind it; members whose snapshots' digests differ stop the pair with a mismatch of kind 5, which holds both digests. The members
of a pair take the same steps (assumption 42); what a checkpoint keeps beside the groups' snapshots is assumption 23. -/
def CheckedCommits : Prop :=
  ∀ (w : Workgroup) (k : Fin 16) (s : State), Sound s → wgOf s w.key = some w → w.key ≠ 0 → (s.wgs.map (·.key)).Nodup → ilOf s w = 2 →
    (part s w.ref.part).det = false → ((allGroups s).map fun g => (g.wg, g.gid, g.role)).Nodup → w.core / 8 / 2 % 16 = k.val →
    (∀ g ∈ allGroups s, g.wg = w.key → g.core / 8 / 2 % 16 = k.val) → (s.pairs[k]).stopped = false → s.homeQ = [] → s.walks = [] →
    let leads := (allGroups s).filter fun g => g.wg == w.key && g.role == .lead
    let screedOnly := ∀ g ∈ leads, BlockWrites (bufWrites g.cbuf) ∧ ∀ e ∈ g.cbuf, ∃ l va pa bs, e.op = .scrSt l va pa bs ∧ inScreed pa = true
    let ordws := s.held.filter fun h => h.wg == w.key && h.kind.isOrdw
    let apart := ∃ g ∈ leads, g.phase = .inRun ∨ g.cmp ≠ [] ∨ ∀ q, groupAt s w.key g.gid .trail = some q → q.c.icount ≠ g.c.icount ∨ q.phase ≠ g.phase
    let differ := (∀ g ∈ leads, g.phase ≠ .inRun ∧ g.arr = [] ∧ g.cmp = [] ∧ ∃ q, groupAt s w.key g.gid .trail = some q ∧ q.phase = g.phase ∧ q.arr = [] ∧
        q.c.icount = g.c.icount ∧ q.c.run.pc = g.c.run.pc) ∧
      ∃ g ∈ leads, ∃ q, groupAt s w.key g.gid .trail = some q ∧ q.c ≠ g.c ∧ q.digest ≠ g.digest
    let told (t : State) : Prop := (t.pairs[k]).stopped = true ∧ t.mem = s.mem ∧
      ∃ m, (t.pairs[k]).mis = some m ∧ m.kind = 5 ∧ m.wg = w.key ∧ m.ckpt = w.ckpt ∧ m.action = 0 ∧
        ∃ g ∈ leads, ∃ q, groupAt s w.key g.gid .trail = some q ∧ m.gid = g.gid ∧ m.npc = g.c.npc ∧ m.twin = g.c.twin ∧
          m.lead = g.digest.setWidth 128 ∧ m.trail = q.digest.setWidth 128
    (s.grp.wg = w.key → s.grp.role = .lead → s.c.inH = false → Issues s false [] [] → s.c.xpw = none →
      (s.grp.phase = .inRun → exec .ckpt s = .next { s with grp := { s.grp with phase := .stalled .commit } }) ∧
      (s.grp.phase = .stalled .commit →
        (apart → exec .ckpt s = .next s) ∧
        (differ → ∃ t, exec .ckpt s = .next t ∧ told t) ∧
        (Agreed s w → screedOnly → ∃ t n, exec .ckpt s = .next t ∧ BuffersLanded s t w ∧
          wgOf t w.key = some { w with snap := ⟨w.bars, w.barsT, w.mig, ordws⟩, ckpt := w.ckpt + 1, ckptAt := n, rolls := 0, mism := [],
                                       visible := w.visible || leads.any fun g => !g.cbuf.isEmpty } ∧
          Completes s t 4 .empty ∧ t.grp.phase = .inRun ∧ t.c = counted s t ∧
          (∃ q, groupAt t w.key s.grp.gid .trail = some q ∧ q.c = t.c ∧ q.phase = .inRun) ∧
          ∀ h ∈ allGroups t, h.wg = w.key → h.cbuf = [] ∧ h.undo = [] ∧
            if h.gid = s.grp.gid then h.snap = some ⟨h.c, [], .inRun, h.migK⟩
            else h.snap = some ⟨h.c, [], if h.phase = .stalled .commit then .inRun else h.phase, h.migK⟩))) ∧
    (Leaving s w → w.duePass = [] →
      (apart → exec (.workgroupRetire w.key) s = .next s) ∧
      (differ → ∃ t, exec (.workgroupRetire w.key) s = .next t ∧ told t) ∧
      (Agreed s w → screedOnly → ∃ t, exec (.workgroupRetire w.key) s = .next t ∧ Left s t w ∧ BuffersLanded s t w))

/-- R202 to R207, R247, R250 to R256, R292, R370, R372, R377: slices, halts and resumption; the retirement of unbuffered, IL1, checked and deterministic
workgroups; the commit points of checked ones. That the members of a pair go in step is assumption 42, that a resumption reads the limit from the RCB again
assumption 26, and details of the merge are assumption 23. -/
def Obligations.SlicesHaltsAndRetirement : Prop :=
  SlicesAndHalts ∧ WorkgroupRetirement ∧ BufferedRetirement ∧ DeterministicRetirement ∧ CheckedCommits

/-! ### Engines, held tickets, migrations (R87 to R90, R138 to R166, R173, R251, R259 to R262, R291 to R293) -/

/-- The running task of an engine, its workgroup of an unchecked stage, its kick and its record, which names no successor. -/
structure Running (s : State) (t : EngTask) (w : Workgroup) (k : Kick) (r : TaskRec) : Prop where
  first : s.engq.find? (fun x => x.eng == t.eng && x.started) = some t
  wg    : wgOf s t.wg = some w ∧ ilOf s w ≠ 2
  kick  : kickOf s t.wg t.kick = some k ∧ recOf s t.wg t.kick t.off = some r
  alone : leNat ((r.bytes.take 4)) / 2 ^ 8 % 16 = 0

/-- What the end of a task changes beside memory: it leaves its queue, its engine is idle from now on, its time is charged, a corrected error that it met
counts (R155, R240, R348). -/
def TaskEnded (s u : State) (t : EngTask) (soft : BitVec 4) : Prop :=
  u = { s with wgs := u.wgs, engq := s.engq.erase t, nodes := u.nodes, units := u.units, policy := u.policy } ∧
    u.policy = (if soft.getLsbD 0 ∧ s.policy.cecnt ≠ 0xFFFFFFFF then { s.policy with cecnt := s.policy.cecnt + 1 } else s.policy) ∧
    u.units = (setUnit s (engineUnit t.eng) ⟨.G0, s.now, false⟩).units ∧
    u.nodes = s.nodes.map fun n =>
      let due := 32 * (s.now - t.since) * (((chargedTo s t.wg).map fun a => (payers s a).count n.rcb).getD 0)
      { n with bal := n.bal - (due : Nat), used := n.used + due }

/-- The barrier that a record names, if any, is an object of 16 bytes within the allocation, apart from the bytes that satisfy a test. -/
def BarrierApart (w : Workgroup) (b : List Byte) (p : Nat → Prop) : Prop :=
  rBar b = 0xFFFFFFFF ∨ (rBar b % 16 = 0 ∧ rBar b + 16 ≤ w.size ∧ ∀ k < 16, ¬ p (rBar b + k))

/-- A record that is ready, of a cluster whose walker may issue it now: 12 cycles have passed, and its work is not held (R138, R172). -/
structure ReadyRecord (s : State) (q : EngTask) (w : Workgroup) (r : TaskRec) : Prop where
  only   : s.readyQ = [q] ∧ q.started = false
  wg     : wgOf s q.wg = some w ∧ ilOf s w ≠ 2
  record : recOf s q.wg q.kick q.off = some r ∧ r.issued = false ∧ r.state.over = false
  due    : q.since + 12 ≤ s.now ∧ heldBack s w = false

/-- The engines that run a task: of a checked stage the one of the same place on the second cluster of the pair too (R173). -/
def runners (s : State) (t : EngTask) : List EngineId :=
  if enginesOn s t = 1 then [t.eng] else [t.eng, match t.eng with
    | .matrix c i => .matrix (c + 1) i
    | .copy c => .copy (c + 1)]

/-- The tenant that a unit of a creel belongs to (R165). -/
def unitTenant (s : State) (e : EngineId) (n : Nat) : Option (Fin 8 × Fin 9) := (s.creelTen.find? fun y => y.1 == (e, n)).map (·.2)

/-- R138, R151, R154, R163, R165, R166, R172, R173: the walker of a cluster issues a record once it has been ready for 12 cycles and its work is not held, and
finishes a JOIN; an engine takes the first task of its queue when it is awake and idle and the creel's units are free, of a checked stage both engines that run
it; a weight stream's slot is no longer valid from then on, and its units are its tenant's. -/
def Obligations.TaskStarts : Prop :=
  ∀ (e : EngineId) (s : State), Sound s →
    let awake (x : EngineId) : Prop := (unitOf s (engineUnit x)).st = .G0 ∨ (unitOf s (engineUnit x)).st = .G1
    let none_ := ∀ t ∈ s.engq, t.eng ≠ e
    ((∀ q ∈ s.readyQ, engCluster q.eng ≠ engCluster e ∨ s.now < q.since + 12 ∨ ∃ w, wgOf s q.wg = some w ∧ heldBack s w = true) →
      (none_ → exec (.taskStart e) s = .next s) ∧
      ∀ t, (s.engq.find? fun t => t.eng == e) = some t →
        let b := taskBytes s t
        let both := ∀ x ∈ runners s t, awake x
        (t.started = true ∨ ¬ both ∨ creelBusy s t = true → exec (.taskStart e) s = .next s) ∧
        (t.started = false → both → creelBusy s t = false → ∃ u, exec (.taskStart e) s = .next u ∧
          u = { s with creels := u.creels, creelTen := u.creelTen, engq := u.engq, units := u.units } ∧
          (∀ x ∈ runners s t, unitOf u (engineUnit x) = ⟨.G0, s.now, false⟩) ∧
          (∀ k, (∀ x ∈ runners s t, k ≠ engineUnit x) → unitOf u k = unitOf s k) ∧
          u.engq = s.engq.map (fun x => if x = t then { t with started := true, since := s.now } else x) ∧
          (rKind b ≠ 1 ∨ cMode b ≠ 2 → u.creels = s.creels ∧ u.creelTen = s.creelTen) ∧
          ∀ w, rKind b = 1 → cMode b = 2 → wgOf s t.wg = some w → ∀ m : EngineId,
            let loads := ∃ x ∈ runners s t, m = .matrix (engCluster x) (recEngine b)
            (∀ o, Memory.get (creelOf u m) o = if loads ∧ o = slotStart b * 65536 + 0x88 then 0 else Memory.get (creelOf s m) o) ∧
            ∀ n, unitTenant u m n = if loads ∧ slotStart b ≤ n ∧ n < slotStart b + (256 + (cRowb b - 128) + 65535) / 65536 then some w.ten
              else unitTenant s m n)) ∧
    ∀ q w r, ReadyRecord s q w r → engCluster q.eng = engCluster e →
      let issued (u : State) : Prop := u.readyQ = [] ∧ localNum u .lead q.wg (q.off + 4) 4 = 2 ∧
        (recOf u q.wg q.kick q.off).map (·.issued) = some true ∧
        (∀ o, o < q.off + 4 ∨ q.off + 8 ≤ o → localAt u .lead q.wg o = localAt s .lead q.wg o)
      (rKind r.bytes ≠ 3 → none_ → q.eng ≠ e ∨ ¬ awake e → ∃ u, exec (.taskStart e) s = .next u ∧ issued u ∧
        u = { s with wgs := u.wgs, readyQ := u.readyQ, engq := s.engq ++ [{ q with since := s.now }],
                     wakeQ := (requestWake s (engineUnit q.eng) (((stageOf s w.ref).map (·.prio)).getD 3) false).wakeQ }) ∧
      (rKind r.bytes ≠ 3 → s.engq = [] → q.eng = e → awake e → ∃ u, exec (.taskStart e) s = .next u ∧ issued u ∧
        u = { s with wgs := u.wgs, readyQ := u.readyQ, engq := [{ q with started := true, since := s.now }], creels := u.creels,
                     creelTen := u.creelTen, units := u.units }) ∧
      let own (o : Nat) : Prop := q.off + 4 ≤ o ∧ o < q.off + 8
      let bar := rBar r.bytes
      (rKind r.bytes = 3 → none_ → leNat (r.bytes.take 4) / 2 ^ 8 % 16 = 0 → BarrierApart w r.bytes own →
        ∃ u, exec (.taskStart e) s = .next u ∧ u = { s with wgs := u.wgs, readyQ := [] } ∧ localNum u .lead q.wg (q.off + 4) 4 = 3 ∧
          (bar ≠ 0xFFFFFFFF → objAt u .lead q.wg bar = phaseEnd (arrival (objAt s .lead q.wg bar))) ∧
          ∀ o, ¬ own o → bar = 0xFFFFFFFF ∨ o < bar ∨ bar + 16 ≤ o → localAt u .lead q.wg o = localAt s .lead q.wg o)

/-! ### What a COPY leaves (R142, R149, R155, R158, R160 to R165) -/

/-- A byte that a COPY reads or writes: a local offset, a physical address, or an offset in the creel of the matrix engine that its record names. -/
inductive CopyCell
  | loc (o : Nat)
  | phys (pa : Nat)
  | slot (o : Nat)
deriving DecidableEq, Repr

/-- The matrix engine of a record's creel, on the cluster of the workgroup. -/
def creelEngine (w : Workgroup) (b : List Byte) : EngineId := .matrix (Fin.ofNat 32 (w.core / 8)) (recEngine b)

def cellByte (s : State) (w : Workgroup) (b : List Byte) : CopyCell → Byte
  | .loc o => localAt s .lead w.key o
  | .phys pa => byteAt s w pa
  | .slot o => Memory.get (creelOf s (creelEngine w b)) o

/-- The cached translation that covers an address for the workgroup's core, the only one (R315). -/
def Covered (s : State) (w : Workgroup) (va : Nat) (x : Xl) : Prop :=
  (s.tlb.filter fun e => e.owner == .core w.core).length ≤ 64 ∧ tlbFind s (.core w.core) w.ref.part w.ref.tenant va = some x ∧
    ∀ e ∈ s.tlb, e.covers (.core w.core) w.ref.part w.ref.tenant va = true → e.xl = x

/-- An address of a side in global memory, or in screed, passes the checks of R303, R212 and R313, to a physical address. -/
def Passes (s : State) (w : Workgroup) (screed write : Bool) (va pa : Nat) (x : Xl) : Prop :=
  pa = x.frame + (va - x.base) ∧ (x.ns = true ∨ (part s w.ref.part).world = true) ∧ x.ns = !secureAt s pa ∧
    (if write then x.w else x.pr) = true ∧ backed pa = true ∧
    if screed then inScreed pa = true ∧ (part s w.ref.part).ownsBank (bankOf pa) = true else inScreed pa = false

/-- A byte of a side by its space, 0 global, 1 screed, 2 local, can be accessed, and where it stands. -/
def Reaches (s : State) (w : Workgroup) (space : Nat) (write : Bool) (a : Nat) (c : CopyCell) : Prop :=
  if space = 2 then a < w.size ∧ c = .loc a
  else a < 2 ^ 49 ∧ ∃ x pa, Covered s w a x ∧ Passes s w (space == 1) write a pa x ∧ c = .phys pa

/-- A byte of a side stops the copy with an error of R155: BND, XLAT or PROT. -/
def Stops (s : State) (w : Workgroup) (space : Nat) (write : Bool) (a err : Nat) : Prop :=
  if space = 2 then write = false ∧ w.size ≤ a ∧ err = 2 ^ 10
  else (2 ^ 49 ≤ a ∧ err = 2 ^ 5) ∨ (a < 2 ^ 49 ∧ err = 2 ^ 6 ∧ ∃ x, Covered s w a x ∧ ∀ pa, ¬ Passes s w (space == 1) write a pa x)

/-- The error bits of a task in the status word, with the offset of the first record that reports one beyond a corrected error (R158, R159). -/
def noted (err off : Nat) (o : BarObj) : BarObj :=
  let x := o.status ||| BitVec.ofNat 32 err
  { o with status := if 2 ≤ err ∧ o.status.getLsbD 15 = false then BitVec.ofNat 32 (x.toNat % 2 ^ 15 + 2 ^ 15 + off / 64 % 2 ^ 13 * 2 ^ 16) else x }

/-- The checks of R161 to R163 on a code table and `len` bytes of chunks that decode to `size` bytes. -/
def StreamGood (table chunk : Nat → Byte) (len size : Nat) : Prop :=
  let length (x : Nat) : Nat := (table (x / 2)).toNat / (if x % 2 = 0 then 1 else 16) % 16
  let number := (len + 4095) / 4096
  let count (i : Nat) : Nat := (chunk (4096 * i)).toNat + 256 * (chunk (4096 * i + 1)).toNat
  (∀ x < 256, length x ≤ 12) ∧ ((List.range 256).map fun x => if length x = 0 then 0 else 2 ^ (12 - length x)).sum = 2 ^ 12 ∧
    (∀ i < number, 4096 * i + 4 ≤ len ∧ chunk (4096 * i + 2) = 0 ∧ chunk (4096 * i + 3) = 0 ∧ 1 ≤ count i ∧ count i ≤ 32736) ∧
    ((List.range number).map count).sum = size

/-- A COPY record as R152 admits it. -/
structure CopyForm (b : List Byte) : Prop where
  kind   : rKind b = 1
  spaces : cSsp b ≤ 2 ∧ cMode b ≤ 2 ∧ (cMode b = 2 ↔ cDsp b = 3)
  stream : cMode b = 2 → cRows b = 1 ∧ 128 ≤ cRowb b

/-- Source and destination addresses of byte j of row i (R149, R160). -/
def copyFrom (s : State) (w : Workgroup) (b : List Byte) (i j : Nat) : Nat :=
  cSrc b + (if cMode b = 1 then localNum s .lead w.key (cSstr b + 4 * i) 4 * cRowb b else i * cSstr b) + j

def copyTo (b : List Byte) (i j : Nat) : Nat := cDst b + i * cDstr b + j

/-- R142, R149, R155, R158, R160 to R165, R170, R303, R313: the end of a COPY, strided, gathered or a weight stream, from local or global memory or screed
to any of them or to a creel: each byte at its destination, up to the first that cannot be accessed, and no other byte changed; the header of a weight
stream's slot, with the checks of its table and its chunks; STAT, FAULT and the barrier. That all its bytes are moved in one step is the model's choice
(assumption 57). -/
def Obligations.CopyResults : Prop :=
  ∀ (t : EngTask) (soft : BitVec 4) (w : Workgroup) (k : Kick) (r : TaskRec) (s : State), Sound s → Running s t w k r → CopyForm r.bytes →
    let b := r.bytes
    let cell (u : State) (c : CopyCell) : Byte := cellByte u w b c
    let own (o : Nat) : Prop := (t.off + 4 ≤ o ∧ o < t.off + 8) ∨ (t.off + 0x38 ≤ o ∧ o < t.off + 0x40)
    let inObj (o : Nat) : Prop := rBar b ≠ 0xFFFFFFFF ∧ rBar b ≤ o ∧ o < rBar b + 16
    let base := slotStart b * 65536
    let mine := creelEngine w b
    ∀ (src dst : Nat → Nat → CopyCell),
      let all (i j : Nat) : Prop := i < cRows b ∧ j < cRowb b
      let readable (i j : Nat) : Prop := Reaches s w (cSsp b) false (copyFrom s w b i j) (src i j)
      let writable (i j : Nat) : Prop :=
        if cMode b = 2 then dst i j = .slot (base + if j < 128 then j else j + 128) else Reaches s w (cDsp b) true (copyTo b i j) (dst i j)
      let moves (upto : Nat → Nat → Prop) (stopped : Bool) (err fault : Nat) : Prop :=
        let at_ (c : CopyCell) : Prop := ∃ i j, upto i j ∧ c = dst i j
        let header (c : CopyCell) : Prop := cMode b = 2 ∧ ∃ o, base + 0x80 ≤ o ∧ o < base + 0x100 ∧ c = .slot o
        let good := stopped = false ∧ StreamGood (fun o => cell s (src 0 o)) (fun o => cell s (src 0 (128 + o))) (cRowb b - 128) (cDstr b)
        let refused := cMode b = 2 ∧ stopped = false ∧ ¬ good
        ∀ report : Nat, (refused → report = 2 ^ 4) → (¬ refused → report = err) →
        (∀ i j, upto i j → readable i j ∧ writable i j) →
        (∀ i j i' j', upto i j → upto i' j' → src i j ≠ dst i' j' ∧ (dst i j = dst i' j' → i = i' ∧ j = j')) →
        (∀ i j, upto i j → (∀ o, own o → dst i j ≠ .loc o) ∧
          (cMode b = 1 → ∀ o, cSstr b ≤ o → o < cSstr b + 4 * cRows b → dst i j ≠ .loc o)) →
        BarrierApart w b (fun o => at_ (.loc o) ∨ own o) →
        ∃ u, exec (.taskComplete t.eng soft) s = .next u ∧
          TaskEnded { s with mem := u.mem, hostMem := u.hostMem, hed := u.hed, l1 := u.l1, l2 := u.l2, tlb := u.tlb, parts := u.parts,
                             fresh := u.fresh, creels := u.creels } u t soft ∧
          (∀ p, noHits (part u p) = noHits (part s p)) ∧
          (cSsp b = 2 → 2 ≤ cDsp b → u = { s with wgs := u.wgs, engq := u.engq, nodes := u.nodes, units := u.units, policy := u.policy, creels := u.creels }) ∧
          (∀ i j, upto i j → cell u (dst i j) = cell s (src i j)) ∧
          (∀ c, ¬ at_ c → ¬ header c → (∀ o, own o ∨ inObj o → c ≠ .loc o) → cell u c = cell s c) ∧
          (cMode b ≠ 2 → u.creels = s.creels) ∧ (∀ m, m ≠ mine → creelOf u m = creelOf s m) ∧
          (cMode b = 2 →
            let head (o n : Nat) : Nat := leNat (Memory.read (creelOf u mine) (base + o) n)
            head 0x80 4 = cDstr b ∧ head 0x84 4 = cRowb b - 128 ∧ (head 0x88 1 = 1 ↔ good) ∧ (head 0x88 1 = 2 ↔ ¬ good) ∧
              head 0x89 1 = w.ref.tenant.val * 16 + w.ref.part.val ∧ ∀ o, 0x8A ≤ o → o < 0x100 → head o 1 = 0) ∧
          localNum u .lead t.wg (t.off + 4) 4 = (soft.toNat + report) * 2 ^ 16 + 3 ∧ localNum u .lead t.wg (t.off + 0x38) 8 = fault ∧
          (rBar b ≠ 0xFFFFFFFF → objAt u .lead t.wg (rBar b) =
            phaseEnd (noted (soft.toNat + report) t.off
              ((if rArrv b then arrival else id) (addTxb (0 - BitVec.ofNat 32 (cRowb b * cRows b)) (objAt s .lead t.wg (rBar b))))))
      (cSsp b ≠ 2 ∨ cDsp b < 2 → s.homeQ = [] ∧ (part s w.ref.part).det = false ∧ ∀ f, partVf s w.ref.part = some f → (s.vfs[f]).tracking = false) →
      moves all false 0 0 ∧
      ∀ i0 j0 a err, all i0 j0 →
        (Stops s w (cSsp b) false (copyFrom s w b i0 j0) err ∧ a = copyFrom s w b i0 j0) ∨
          (readable i0 j0 ∧ cDsp b < 2 ∧ Stops s w (cDsp b) true (copyTo b i0 j0) err ∧ a = copyTo b i0 j0) →
        moves (fun i j => all i j ∧ (i < i0 ∨ (i = i0 ∧ j < j0))) true err (a % 2 ^ 49)

/-! ### What a MATX leaves (R83 to R90, R142 to R145, R155, R158, R164, R165) -/

/-- The exact product of two operands (R85). -/
def exactTimes : ExactValue → ExactValue → ExactValue
  | .num a x, .num b y => .num (a != b) (x * y)
  | .inf a, .inf b => .inf (a != b)
  | .inf a, .num b y => if y = 0 then .nan else .inf (a != b)
  | .num a x, .inf b => if x = 0 then .nan else .inf (a != b)
  | _, _ => .nan

/-- An exact sum; a zero is negative only where every addend is a negative zero (R74, R87). -/
def ExactSum (xs : List ExactValue) (v : ExactValue) : Prop :=
  match v with
  | .nan => .nan ∈ xs ∨ (.inf false ∈ xs ∧ .inf true ∈ xs)
  | .inf neg => .nan ∉ xs ∧ .inf neg ∈ xs ∧ .inf (!neg) ∉ xs
  | .num neg mag => (∀ x ∈ xs, ∃ n m, x = .num n m) ∧ 0 ≤ mag ∧ v.signed = (xs.map ExactValue.signed).sum ∧
      (mag = 0 → (neg = true ↔ ∀ x ∈ xs, x = .num true 0))

/-- A value rounded to nearest, ties to even, at `fb` fraction bits, the least place being 2^low (R84, R86). -/
def RoundedTo (fb : Nat) (low : ℤ) (v r : ExactValue) : Prop :=
  match v with
  | .num neg mag => (mag = 0 ∧ r = .num neg 0) ∨ ∃ e : ℤ, (2 : ℚ) ^ e ≤ mag ∧ mag < (2 : ℚ) ^ (e + 1) ∧
      r = .num neg (toWhole .rn (mag / 2 ^ max (e - fb) low) * 2 ^ max (e - fb) low)
  | v => r = v

/-- The multiplier-format value of an operand (R84). -/
def Multiplier (f x : Nat) (v : ExactValue) : Prop := if f = 8 then RoundedTo 15 (-527) (exactOf 8 false x) v else v = exactOf f false x

/-- The dot product of R87 from `c` over groups of eight products, the accumulator rounded by R86. -/
def Dotted (c : ExactValue) (product : Nat → ExactValue) (groups : Nat) (v : ExactValue) : Prop :=
  ∃ acc : Nat → ExactValue, acc 0 = c ∧ acc groups = v ∧ ∀ g < groups, ∃ sum near total,
    ExactSum ((List.range 8).map fun t => product (8 * g + t)) sum ∧ RoundedTo 23 (-533) sum near ∧
      ExactSum [acc g, near] total ∧ RoundedTo 23 (-533) total (acc (g + 1))

/-- The largest finite value of an output format (R88). -/
def largest (f : Nat) : ℚ :=
  match floatFields f with
  | some (ew, fw) => fieldMag ew fw (bigCode f ew fw)
  | none => 100000000

/-- round_out of a float element (R88). -/
def RoundedOut (f : Nat) (v : ExactValue) (c : Nat) : Prop :=
  match floatFields f with
  | some (ew, fw) => InFloat f ew fw .rn false false false v c
  | none => InDm8 .rn false v c

/-- Bytes of an element, or 0 for the formats of which two share a byte; the bytes of `n` elements (R142). -/
def elementBytes (f : Nat) : Nat := if f = 7 ∨ f = 15 then 0 else if f = 1 ∨ f = 2 then 2 else if f = 0 ∨ f = 9 then 4 else 1

def manyBytes (f n : Nat) : Nat := if elementBytes f = 0 then n / 2 else n * elementBytes f

/-- The element of an operand format that begins at a byte: that of an odd index along K in the high half where two share it (R142). -/
def elementAt (f : Nat) (byte : Nat → Byte) (p k : Nat) : Nat :=
  match elementBytes f with
  | 0 => (byte p).toNat / (if k % 2 = 1 then 16 else 1) % 16
  | 2 => (byte p).toNat + 256 * (byte (p + 1)).toNat
  | _ => (byte p).toNat

/-- A MATX record whose formats, K split and extents R150 and R152 admit. -/
structure MatxForm (b : List Byte) : Prop where
  kind  : rKind b = 2
  split : mKs b ≤ 2 ∧ 0 < mK b ∧ mK b % 32 = 0
  tiles : mM b % 128 = 0 ∧ mN b % 128 = 0
  types : (1 ≤ mAf b ∧ mAf b ≤ 8 ∧ 1 ≤ mBf b ∧ mBf b ≤ 8 ∧ (mDf b ≤ 4 ∨ mDf b = 8)) ∨
    ((mAf b = 13 ∨ mAf b = 15) ∧ (mBf b = 13 ∨ mBf b = 15) ∧ mDf b = 9)

/-- R83 to R90, R142 to R145, R155, R158, R164, R165: the end of a MATX of any operand and output formats: each element of each partial tile is the rounded
dot product of A and of the slot's decoded B in the order of the manual, with C in the first partial, or the saturated 48-bit integer sum; STAT, with its decode
and overflow errors, and the barrier follow. What a 16-bit element beyond an odd decoded size and a short chunk that is not needed do is the model's
choice (assumption 56), and so is that all elements are written in one step (assumption 57). -/
def Obligations.MatrixResults : Prop :=
  ∀ (t : EngTask) (soft : BitVec 4) (w : Workgroup) (k : Kick) (r : TaskRec) (s : State), Sound s → Running s t w k r → MatxForm r.bytes →
    let b := r.bytes
    let whole := mDf b = 9
    let kper := if mKs b = 1 then 32 else if mKs b = 2 then 64 else mK b
    let size := elementBytes (mDf b)
    let place (sz i j : Nat) : Nat :=
      if mLay b then ((i / 128 * (mN b / 128) + j / 128) * 16384 + i % 128 * 128 + j % 128) * sz else i * mDstr b + j * sz
    let isCell (q i j : Nat) : Prop := q < mK b / kper ∧ i < mM b ∧ j < mN b
    let cell (q i j : Nat) : Nat := mDoff b + q * mPstr b + place size i j
    let cAt (i j : Nat) : Nat := mCoff b + place 4 i j
    let written (o : Nat) : Prop := ∃ q i j, isCell q i j ∧ cell q i j ≤ o ∧ o < cell q i j + size
    let own (o : Nat) : Prop := t.off + 4 ≤ o ∧ o < t.off + 8
    let inObj (o : Nat) : Prop := rBar b ≠ 0xFFFFFFFF ∧ rBar b ≤ o ∧ o < rBar b + 16
    let engine := creelEngine w b
    let slot := creelOf s engine
    let base := slotStart b * 65536
    let len := leNat (Memory.read slot (base + 0x84) 4)
    let valid := (Memory.get slot (base + 0x88)).getLsbD 0 = true ∧ (Memory.get slot (base + 0x89)).toNat = w.ref.tenant.val * 16 + w.ref.part.val ∧
      ∀ n x, slotStart b ≤ n → n < slotStart b + (256 + len + 65535) / 65536 → unitTenant s engine n = some x → x = w.ten
    let decoded := leNat (Memory.read slot (base + 0x80) 4)
    let data := decodeStream (Memory.read slot base 128) (Memory.read slot (base + 256) len)
    let bad := ¬ valid ∨ data.2 = true ∨ decoded < mBoff b + manyBytes (mBf b) (mK b * mN b)
    ∀ byteB : Nat → Byte, (∀ x, (valid ∧ x < decoded → byteB x = (data.1[x]?).getD 0) ∧ (¬ (valid ∧ x < decoded) → byteB x = 0)) →
      let elemA (i x : Nat) : Nat := elementAt (mAf b) (localAt s .lead t.wg) (mAoff b + i * mAstr b + manyBytes (mAf b) x) x
      let elemB (x j : Nat) : Nat := elementAt (mBf b) byteB
        (mBoff b + match elementBytes (mBf b) with
          | 0 => j / 128 * mK b * 64 + x / 2 * 128 + j % 128
          | 2 => j / 128 * mK b * 256 + x * 256 + 2 * (j % 128)
          | _ => j / 128 * mK b * 128 + x * 128 + j % 128) x
      let cWord (q i j : Nat) : Nat := if mCen b = true ∧ q = 0 then localNum s .lead t.wg (cAt i j) 4 else 0
      let value (f x : Nat) : Int := if f = 15 then (BitVec.ofNat 4 x).toInt else (BitVec.ofNat 8 x).toInt
      let acc (q i j : Nat) : Int := (BitVec.ofInt 48 ((BitVec.ofNat 32 (cWord q i j)).toInt + ((List.range kper).map fun x =>
        value (mAf b) (elemA i (q * kper + x)) * value (mBf b) (elemB (q * kper + x) j)).sum)).toInt
      let dot (q i j : Nat) (v : ExactValue) : Prop := ∃ (x y : Nat → ExactValue),
        (∀ n, Multiplier (mAf b) (elemA i (q * kper + n)) (x n) ∧ Multiplier (mBf b) (elemB (q * kper + n) j) (y n)) ∧
          Dotted (exactOf 0 false (cWord q i j)) (fun n => exactTimes (x n) (y n)) (kper / 8) v
      let beyond (q i j : Nat) : Prop :=
        (whole ∧ (acc q i j < -2147483648 ∨ 2147483647 < acc q i j)) ∨ (¬ whole ∧ ∃ neg mag, dot q i j (.num neg mag) ∧ largest (mDf b) < mag)
      (∀ q i j q' i' j', isCell q i j → isCell q' i' j' → (q, i, j) ≠ (q', i', j') → cell q i j + size ≤ cell q' i' j' ∨ cell q' i' j' + size ≤ cell q i j) →
      (mCen b = true → (mCoff b = mDoff b ∧ size = 4) ∨ ∀ i < mM b, ∀ j < mN b, ∀ x < 4, ¬ written (cAt i j + x)) →
      (∀ o, written o → ¬ own o) → BarrierApart w b (fun o => written o ∨ own o) →
      ∃ u, exec (.taskComplete t.eng soft) s = .next u ∧ TaskEnded s u t soft ∧
        (∀ q i j, isCell q i j →
          let c := localNum u .lead t.wg (cell q i j) size
          (whole → BitVec.ofNat 32 c = narrow true (acc q i j)) ∧ (¬ whole → ∃ v, dot q i j v ∧ RoundedOut (mDf b) v c)) ∧
        (∀ o, ¬ written o → ¬ own o → ¬ inObj o → localAt u .lead t.wg o = localAt s .lead t.wg o) ∧
        let stat := localNum u .lead t.wg (t.off + 4) 4
        stat % 2 ^ 16 = 3 ∧ stat / 2 ^ 16 % 2 ^ 4 = soft.toNat ∧ stat < 2 ^ 24 ∧ stat.testBit 21 = false ∧ stat.testBit 22 = false ∧
        (stat.testBit 20 = true ↔ bad) ∧ (stat.testBit 23 = true ↔ ∃ q i j, isCell q i j ∧ beyond q i j) ∧
        (rBar b ≠ 0xFFFFFFFF → objAt u .lead t.wg (rBar b) = phaseEnd (noted (stat / 2 ^ 16) t.off (arrival (objAt s .lead t.wg (rBar b)))))

/-- R251, R291 to R293: a pass whose turn has come advances the ticket with VOID set, an advance that a workgroup of a deterministic partition left
without it; an ordw whose turn has come gets the ticket's value, both members of a pair, with an acquire; one whose turn has not come waits on. -/
def Obligations.HeldTickets : Prop :=
  ∀ (k : Nat) (h : HeldReq) (s : State), Sound s → s.held[k]? = some h →
    let ticket := screedWord s h.pa
    let upper := screedWord s (h.pa + 4)
    ((h.kind = .pass ∨ h.kind = .advance) →
      exec (.ordwGrant k) s = .next s ∧ (ticket ≠ h.rank → exec (.ticketPass k) s = .next s) ∧
      (ticket = h.rank → ∃ t, exec (.ticketPass k) s = .next t ∧ t = { s with mem := t.mem, held := s.held.eraseIdx k } ∧
        screedWord t h.pa = (ticket + 1) % 2 ^ 32 ∧ screedWord t (h.pa + 4) = (if h.kind = .pass then upper % 2 ^ 31 + 2 ^ 31 else upper) ∧
        ∀ a, a < h.pa ∨ h.pa + 8 ≤ a → Memory.get t.mem a = Memory.get s.mem a)) ∧
    ∀ gid dst, h.kind = .ordw gid dst →
      exec (.ticketPass k) s = .next s ∧ (ticket ≠ h.rank → exec (.ordwGrant k) s = .next s) ∧
      (ticket = h.rank → ((allGroups s).map fun g => (g.wg, g.gid, g.role)).Nodup →
        ∃ t, exec (.ordwGrant k) s = .next t ∧
          t = { s with grp := t.grp, others := t.others, l1 := t.l1, early := t.early, held := s.held.eraseIdx k } ∧
          (∀ role g, groupAt s h.wg gid role = some g → groupAt t h.wg gid role = some { g with arr := g.arr ++
            [⟨dst, 1, true, 1, Vector.replicate 32 (BitVec.ofNat 128 (ticket % 2 ^ 31 + upper / 2 ^ 31 % 2 * 2 ^ 31)), 0, 0, false, false⟩] }) ∧
          (∀ x ∈ allGroups s, ¬ (x.wg = h.wg ∧ x.gid = gid) → x ∈ allGroups t) ∧ (∀ a, inMain a = true → cohRead t a 1 = cohRead s a 1) ∧
          ∀ g, groupAt s h.wg gid .lead = some g → (∀ line i x, l1WordOf t g.core line i ≠ .si x) ∧ ∀ e ∈ t.early, e.core ≠ g.core)

/-- The one open attempt of a workgroup, its groups known each by one record. -/
structure Attempting (s : State) (w : Workgroup) (st : Stage) (a : MigAttempt) : Prop where
  wg    : wgOf s w.key = some w ∧ stageOf s w.ref = some st
  one   : w.mig = [a] ∧ a.st = .opened
  once  : ((allGroups s).map fun g => (g.wg, g.gid, g.role)).Nodup ∧ (s.wgs.map (·.key)).Nodup ∧ ∀ g ∈ allGroups s, g.wg = w.key → g.role = .lead
  since : a.since ≤ s.now

/-- The destination registers that a group's migs named. -/
def migDests (g : Group) : List Nat :=
  (((List.finRange 32).filter fun l => g.c.migM.getLsbD l.val).map fun l => (g.c.migW[l]).dst).filter isS

/-- The group has received a migration's result in every named destination. -/
def GotResult (g h : Group) (x : Word) : Prop :=
  h.c.v = g.c.v ∧ h.c.p = g.c.p ∧ h.c.lpc = g.c.lpc ∧
    ∀ i < 24, h.c.sreg i = if i ≠ 0 ∧ 96 + i ∈ migDests g then x else g.c.sreg i

/-- R239, R257, R259 to R262, R265: a slot of the class asked for, beside the room of the reserves of other stages (their cores are assumption 64), is granted
once every group has arrived and every kick is complete; past its deadline the attempt is
refused and its groups go on with 0; a granted workgroup goes on in the other image with the registers and the bytes that the pick record carries. When it moves, and its twin PC, are assumption 22. -/
def Obligations.Migrations : Prop :=
  ∀ (w : Workgroup) (st : Stage) (a : MigAttempt) (core : Nat) (s : State), Attempting s w st a →
    let inTime := st.migdl = 0 ∨ s.now < a.since + 1200 * st.migdl
    let arrived := ∀ g ∈ allGroups s, g.wg = w.key → g.phase = .ended ∨ g.gid ∈ a.arrived
    let fits := core % 8 < 6 ∧ core / 8 = w.core / 8 ∧ (if core % 8 < 2 then CoreClass.shuttle else .beam) = a.cls ∧ st.hasImage a.cls = true ∧
      roomOn s w.ten st core = true ∧ (st.vlim = 0 ∨ st.maxV a.cls ≤ st.vlim)
    let may := arrived ∧ w.kicks = [] ∧ inTime ∧ mustHalt s w = false ∧ fits
    (¬ may → exec (.migGrant w.key core) s = .next s) ∧
    let s0 : State := { s with wgs := s.wgs.map fun v => if v.key = w.key then { w with mig := [{ a with st := .granted core }] } else v }
    let room := reservesKept s s0 w.ref = true
    (may → ¬ room → exec (.migGrant w.key core) s = .next s) ∧
    (may → room → (unitOf s (coreUnit core)).awake = true → ∃ t, exec (.migGrant w.key core) s = .next t ∧
      t = { s0 with grp := t.grp, others := t.others } ∧
      (∀ g ∈ allGroups s, g.wg ≠ w.key → g ∈ allGroups t) ∧
      ∀ g ∈ allGroups s, g.wg = w.key → ∃ h, groupAt t g.wg g.gid g.role = some h ∧ GotResult g h 1 ∧ h.c.migM = g.c.migM ∧ h.c.waitM = g.c.waitM) ∧
    (may → room → (unitOf s (coreUnit core)).awake = false → (unitOf s (coreUnit core)).waking = false → (∀ q ∈ s.wakeQ, q.unit ≠ coreUnit core) →
      exec (.migGrant w.key core) s = .next { s with wakeQ := s.wakeQ ++ [⟨coreUnit core, st.prio, false, s.now⟩] }) ∧
    (inTime → exec (.migDeadline w.key) s = .next s) ∧
    (¬ inTime → a.arrived.Nodup → ∃ t, exec (.migDeadline w.key) s = .next t ∧ t = { s with grp := t.grp, others := t.others, wgs := t.wgs } ∧
      (∀ v ∈ t.wgs, v.key = w.key → v.openMig = none) ∧
      ∀ g ∈ allGroups s, g.wg = w.key → g.gid ∈ a.arrived → ∃ h, groupAt t g.wg g.gid g.role = some h ∧ GotResult g h 0 ∧ h.c.migM = 0 ∧
        h.c.waitM = g.c.waitM &&& ~~~g.c.migM ∧ h.phase = g.phase ∧
        h.c.twin = (match pickRec s w g.c.migTerm.pick with
          | some r => if st.entryPc (otherClass w.cls) = 0xFFFFFFFF then 0xFFFFFFFF else r.other
          | none => 0xFFFFFFFF)) ∧
    ∀ r,
      let cls : CoreClass := if core % 8 < 2 then .shuttle else .beam
      (w.kicks ≠ [] → exec (.migMove w.key) s0 = .next s0) ∧
      (w.kicks = [] → pickRec s0 w a.pick = some r → ∃ t v, exec (.migMove w.key) s0 = .next t ∧ wgOf t w.key = some v ∧
          v.core = core ∧ v.cls = cls ∧ v.openMig = none ∧ (∀ o, Memory.get v.mem o = if o < r.carry then Memory.get w.mem o else 0) ∧
          ∀ g ∈ allGroups s, g.wg = w.key → g.phase ≠ .ended → g.arr = [] → ∃ h, groupAt t g.wg g.gid g.role = some h ∧
            h.core = core ∧ h.vbud = st.vbudOf cls g.gid.val ∧ h.c.twin = r.pc ∧ h.c.part = g.c.part ∧ h.c.icount = g.c.icount ∧
            h.c.exitM = g.c.exitM ∧ h.c.waitM = 0 ∧ h.c.parkM = 0 ∧ h.c.run = Run.none ∧
            (∀ l : Lane, h.c.lpc[l] = (if g.c.exitM.getLsbD l.val then g.c.lpc[l] else r.other) ∧ h.c.starve[l] = 0) ∧
            ((r.entries.map fun e => (e.1, e.2.2)).Nodup → (∀ e ∈ r.entries, e.1 ≤ 2 ∧ (e.1 = 2 → e.2.2 < 64)) →
              (∀ n < 96, ∀ l, h.c.vreg n l = match r.entries.find? fun e => e.1 == 0 && e.2.2 == n with
                | some e => g.c.vreg e.2.1 l
                | none => 0) ∧
              (∀ n, 1 ≤ n → n < 24 → h.c.sreg n = match r.entries.find? fun e => e.1 == 1 && e.2.2 == 96 + n with
                | some e => g.c.sreg (e.2.1 - 96)
                | none => 0) ∧
              ∀ n < 63, ∀ l : Lane, h.c.pred n l = match r.entries.find? fun e => e.1 == 2 && e.2.2 == n with
                | some e => g.c.pred e.2.1 l
                | none => false))

/-! ### The memory system's turns and recovery (R48, R196 to R198, R316, R360, R361, R366, R374, R379 to R386) -/

/-- R48, R192, R196, R198, R316, R360, R361: a home performs the oldest request of a line; an evicted L1 line goes home; of the sixteen oldest walks one that returns sends its stores to
their homes or makes one record, and stays while the record queue is full, and the misses of its cluster to the same page go on with it; the oldest result of a group is written in its lanes and its registers stay pending. -/
def Obligations.MemorySystemTurns : Prop :=
  ∀ (k core line : Nat) (wg : Nat) (gid : Fin 16) (role : Role) (s : State), Sound s →
    (s.homeQ[k]? = none → exec (.homeRequest k) s = .next s) ∧
    (∀ i r x, s.homeQ[i]? = some r → (∃ r', s.homeQ[k]? = some r' ∧ r'.line = r.line) → (∀ j < i, ∀ r', s.homeQ[j]? = some r' → r'.line ≠ r.line) →
      wgOf s r.wg = some x → (∀ f, partVf s x.ref.part = some f → (s.vfs[f]).tracking = false) →
      ∃ t, exec (.homeRequest k) s = .next t ∧ t.homeQ = s.homeQ.eraseIdx i ∧ t.grp = s.grp ∧ t.others = s.others ∧ t.wgs = s.wgs ∧
        (∀ pol pa bs, r.kind = .store pol pa bs → inMain pa = true → pa % 128 + bs.length ≤ 128 →
          ∀ a, cohRead t a 1 = if pa ≤ a ∧ a < pa + bs.length then [(bs[a - pa]?).getD 0] else cohRead s a 1) ∧
        (∀ pol, r.kind = .fetch pol → SameBytes s t)) ∧
    (∃ t, exec (.l1Eviction core line) s = .next t ∧ SameBytes s t ∧ t = { s with mem := t.mem, hed := t.hed, l1 := t.l1 } ∧
      (∀ l ∈ t.l1, ¬ (l.core = core ∧ l.line = line)) ∧ (∀ i, heddleWord t line i ≠ .O core) ∧
      ∀ l ∈ s.l1, l.line ≠ line → l ∈ t.l1) ∧
    (s.walks[k]? = none → exec (.translationWalkComplete k) s = .next s) ∧
    (16 ≤ k → exec (.translationWalkComplete k) s = .next s) ∧
    (∀ wk x, k < 16 → s.walks[k]? = some wk → wgOf s wk.wg = some x → s.walks.count wk = 1 → ilOf s x ≠ 2 → (part s x.ref.part).det = false →
      (∀ y ∈ s.walks, y ≠ wk → sameMiss s wk y = false) →
      let held := (s.sfq.filter fun e => e.core == wk.core).length
      (wk.stuck = true → 16 ≤ held → exec (.translationWalkComplete k) s = .next s) ∧
      (∀ pas : Lane → Nat, (wk.stuck = true → held < 16) → (walkLanes s wk x wk.lanes).2 = wk.lanes.map (fun l => (l, .ok (pas l.lane))) → wk.pol ≠ 0 → (∀ l ∈ wk.lanes, inMain (pas l.lane) = true) →
        ∃ t, exec (.translationWalkComplete k) s = .next t ∧ SameBytes s t ∧ t.walks = s.walks.erase wk ∧ t.sfq = s.sfq ∧
          t.homeQ = s.homeQ ++ (if wk.one then wk.lanes.take 1 else wk.lanes).map fun l => ⟨wk.core, wk.wg, wk.gid, pas l.lane / 128, .store wk.pol (pas l.lane) l.data⟩) ∧
      ∀ l0 ls (causes : Lane → BitVec 8), wk.lanes = l0 :: ls → (walkLanes s wk x wk.lanes).2 = wk.lanes.map (fun l => (l, .error (causes l.lane))) →
        (16 ≤ held → ∃ t, exec (.translationWalkComplete k) s = .next t ∧ SameBytes s t ∧ t.sfq = s.sfq ∧ t.homeQ = s.homeQ ∧
          t.walks = s.walks.map fun y => if y = wk then { wk with stuck := true } else y) ∧
        (held < 16 → (∃ g ∈ allGroups s, g.wg = wk.wg ∧ g.gid = wk.gid ∧ g.role = .lead ∧ g.phase ≠ .ended) →
          ∃ t e, exec (.translationWalkComplete k) s = .next t ∧ SameBytes s t ∧ t.walks = s.walks.erase wk ∧ t.sfq = s.sfq ++ [e] ∧ t.homeQ = s.homeQ ∧
            e.core = wk.core ∧ e.wg = wk.wg ∧ e.gid = wk.gid ∧ e.cause = causes l0.lane ∧ e.va = l0.va.setWidth 49 ∧ e.npc = wk.npc ∧ e.twin = wk.twin ∧
            e.data = BitVec.ofNat 64 (leNat (l0.data.take 8)) ∧ (e.highva = true ↔ 2 ^ 49 ≤ l0.va.toNat) ∧
            ∀ i : Lane, e.mask.getLsbD i.val = (wk.lanes.map (·.lane)).contains i)) ∧
    (∀ wk y x (pas : Lane → Nat), s.walks = [wk, y] → wk ≠ y → wgOf s wk.wg = some x → (walkLanes s wk x wk.lanes).2 = wk.lanes.map (fun l => (l, .ok (pas l.lane))) →
      sameMiss s wk y = true → y.core = wk.core → wk.lanes.length ≤ 32 → (∀ l ∈ y.lanes, ∃ l' ∈ wk.lanes, l'.va.toNat / 4096 = l.va.toNat / 4096) →
      (s.sfq.filter fun e => e.core == wk.core).length < 16 → ∃ t, exec (.translationWalkComplete 0) s = .next t ∧ t.walks = []) ∧
    ∀ g, groupAt s wg gid role = some g → ((allGroups s).map fun g => (g.wg, g.gid, g.role)).Nodup →
      (g.arr = [] → exec (.longLatencyResult wg gid role) s = .next s) ∧
      ∀ a rest, g.arr = a :: rest → (a.nregs ≤ 4 ∧ if a.scalar then isS a.reg = true ∧ isS (a.reg + a.nregs - 1) = true else a.reg + a.nregs ≤ 96) →
        ∃ t h, exec (.longLatencyResult wg gid role) s = .next t ∧ t = { s with grp := t.grp, others := t.others } ∧
          groupAt t wg gid role = some h ∧ h = { g with arr := rest, c := { g.c with v := h.c.v, s := h.c.s, eccs := h.c.eccs } } ∧
          (∀ x ∈ allGroups s, x ≠ g → x ∈ allGroups t) ∧
          (∀ n < 96, ∀ l : Lane, h.c.vreg n l = if a.scalar = false ∧ a.reg ≤ n ∧ n < a.reg + a.nregs ∧ a.mask.getLsbD l.val = true
            then (a.vals[l]).extractLsb' (32 * (n - a.reg)) 32 else g.c.vreg n l) ∧
          (∀ n, 1 ≤ n → n < 24 → h.c.sreg n = if a.scalar = true ∧ a.reg ≤ 96 + n ∧ 96 + n < a.reg + a.nregs
            then (a.vals[0]).extractLsb' (32 * (96 + n - a.reg)) 32 else g.c.sreg n) ∧
          h.c.eccs = if a.bad then g.c.eccs ++ [⟨a.reg, a.npc, a.addr⟩] else g.c.eccs

/-- A workgroup of a checked stage on a pair. -/
def CheckedOn (s : State) (k : Fin 16) (w : Workgroup) : Prop := w ∈ s.wgs ∧ ilOf s w = 2 ∧ w.core / 8 / 2 % 16 = k.val

/-- R20, R21, R350, R376, R378 to R385: a missing event stops the pair; the SSP rolls a mismatch back, every checked group to its checkpoint with the bytes of
its undo log, oldest last, and the ordws that were held there, with a record of type 7; or for one that is permanent it discards its domain's work, with
a record of type 6, and with SPARE tests both clusters; the pair is released; a cluster that fails its self-test is replaced by a spare. That it is the lowest
spare is the model's choice (assumption 65); that each member reads its own records and creel, and that the event says which cluster fails its test, is
assumption 24. -/
def Obligations.CheckedPairRecovery : Prop :=
  ∀ (k : Fin 16) (key : Nat) (gid : Fin 16) (failLead failTrail : Bool) (s : State), Sound s → (s.wgs.map (·.key)).Nodup →
    ((allGroups s).map fun g => (g.wg, g.gid, g.role)).Nodup →
    let p := s.pairs[k]
    let c : Fin 32 := ⟨2 * k.val, by omega⟩
    let c' : Fin 32 := ⟨2 * k.val + 1, by omega⟩
    (∀ w g, wgOf s key = some w → groupAt s key gid .lead = some g → g.core / 8 = w.core / 8 → CheckedOn s k w → key ≠ 0 → s.grp.wg ≠ 0 →
      (g.cmp = [] ∨ p.stopped = true → exec (.compareTimeout key gid) s = .next s) ∧
      (∀ e es, g.cmp = e :: es → p.stopped = false → ∃ t m, exec (.compareTimeout key gid) s = .next t ∧ (t.pairs[k]).stopped = true ∧
        (t.pairs[k]).mis = some m ∧ m.wg = key ∧ m.gid = gid ∧ m.kind = 6 ∧ m.npc = e.npc ∧ m.twin = e.twin ∧ m.lane = 0 ∧ m.action = 0 ∧
        m.count = w.mism.length + 1 ∧ m.ckpt = w.ckpt ∧ (∀ j, j ≠ k → t.pairs[j] = s.pairs[j]) ∧ t.mem = s.mem ∧
        (wgOf t key).map (·.mism) = some (w.mism ++ [⟨6, e.npc, 0⟩]))) ∧
    (p.stopped = false ∨ p.mis = none ∨ (∃ m, p.mis = some m ∧ m.action ≠ 0) → exec (.sspDecision k) s = .next s) ∧
    (∀ m w, p.stopped = true → p.mis = some m → m.action = 0 → wgOf s m.wg = some w →
      let dom := stageDomain s w.ref
      let permanent := (∃ x ∈ w.mism.take (w.mism.length - 1), x = ⟨m.kind, m.npc, m.lane⟩) ∨ s.policy.retry < m.count ∨ (w.ckpt = 0 ∧ w.visible = true)
      (¬ permanent → ∃ t, exec (.sspDecision k) s = .next t ∧ Reported s t dom 0x70 7 ∧
        (t.pairs[k]).mis = some { m with action := 1 } ∧ (t.pairs[k]).rolled = true ∧ (t.pairs[k]).stopped = true ∧
        (wgOf t w.key).map (·.rolls) = some (w.rolls + 1) ∧
        ∀ v, CheckedOn s k v → ∀ g ∈ allGroups s, g.wg = v.key → ∀ n, g.snap = some n →
          (∃ h, groupAt t g.wg g.gid g.role = some h ∧ h.c = n.ctx ∧ h.arr = n.arr ∧ h.phase = n.phase ∧ h.cbuf = [] ∧ h.undo = [] ∧ h.cmp = [] ∧ h.fwd = []) ∧
          ((∀ v ∈ s.wgs, ∀ h ∈ v.snap.held, h.wg = v.key ∧ h.kind.isOrdw = true) →
            ∀ h, h.wg = v.key → h.kind.isOrdw = true → (h ∈ t.held ↔ h ∈ v.snap.held)) ∧
          (s.engq = [] → (∀ x ∈ s.wgs, x.kicks = []) → (∀ x ∈ allGroups s, ∀ u ∈ x.undo, u.wg = x.wg) → ∀ (r : Role) (o : Nat),
            let covers (u : UndoEnt) : Prop := (∃ x ∈ allGroups s, x.wg = v.key ∧ x.role = r ∧ u ∈ x.undo) ∧ u.off ≤ o ∧ o < u.off + u.old.length
            (∀ u, covers u → (∀ y, covers y → y ≠ u → u.at_ < y.at_) → localAt t r v.key o = (u.old[o - u.off]?).getD 0) ∧
              ((∀ u, ¬ covers u) → localAt t r v.key o = localAt s r v.key o))) ∧
      (permanent → ∃ t, exec (.sspDecision k) s = .next t ∧
        (s.engq = [] → Reported (fatalDiscard s dom) t dom 0x70 6 ∧
          (s.policy.spare = true →
            let d := (fatalDiscard s dom).domains[dom]
            (t.pairs[k]).recPa = if d.en = true ∧ (d.head - d.tail).toNat < 2 ^ d.rlog then d.rbase.toNat + 64 * (d.head.toNat % 2 ^ d.rlog) else 0)) ∧ (∀ u ∈ t.wgs, stageDomain s u.ref ≠ dom) ∧
        (∀ u ∈ s.wgs, stageDomain s u.ref ≠ dom → ∃ v ∈ t.wgs, v.key = u.key) ∧
        (∀ x, (t.place.susp.getLsbD x = true ↔ s.place.susp.getLsbD x = true ∨ (s.policy.spare = true ∧ (x = c.val ∨ x = c'.val)))) ∧
        ((t.pairs[k]).testing = true ↔ s.policy.spare = true ∨ p.testing = true))) ∧
    (p.stopped = false ∨ p.rolled = false → exec (.pairRelease k) s = .next s) ∧
    (p.stopped = true → p.rolled = true → ∃ t, exec (.pairRelease k) s = .next t ∧
      t = { s with pairs := s.pairs.set k { p with stopped := false, mis := none, rolled := false, formed := (t.pairs[k]).formed } } ∧
      ((∃ w, CheckedOn s k w ∧ w.finished = false) → (t.pairs[k]).formed = p.formed) ∧
      ((∀ w, CheckedOn s k w → w.finished = true) → (t.pairs[k]).formed = false)) ∧
    (let quiet := fun x : Fin 32 => (∀ g ∈ allGroups s, g.core / 8 % 32 ≠ x.val ∨ g.wg = 0 ∨ g.halted = true ∨ g.phase = .ended) ∧
       ∀ t ∈ s.engq, ¬ runsOn s t x
     let due := p.testing = true ∧ p.testAt + 3000000 ≤ s.now ∧ quiet c ∧ quiet c'
     let empty := ∀ w ∈ s.wgs, inCluster s w c = false ∧ inCluster s w c' = false
     (¬ due → exec (.selfTestComplete k failLead failTrail) s = .next s) ∧
     (due → empty → ∃ t, exec (.selfTestComplete k false false) s = .next t ∧ (t.pairs[k]).testing = false ∧ t.place.cl = s.place.cl ∧
        t.policy = s.policy ∧ (∀ x : Fin 32, t.place.susp.getLsbD x.val = (s.place.susp.getLsbD x.val && x != c && x != c')) ∧
        (p.recPa ≠ 0 → p.recPa % 64 = 0 → inMain p.recPa = true →
          ∃ inner, devRead t (p.recPa + 4) 4 = leBytes 4 (inner % 2 ^ 31 + 2 ^ 31) ∧ devRead s (p.recPa + 4) 4 = leBytes 4 inner)) ∧
     (due → empty → s.homeQ = [] → ∀ x, 0 < s.policy.spares → x < 34 → s.place.phfault.getLsbD x = false → (∀ i : Fin 32, (s.place.cl[i]).toNat ≠ x) →
        (∀ y < x, s.place.phfault.getLsbD y = true ∨ ∃ i : Fin 32, (s.place.cl[i]).toNat = y) → (s.place.cl[c]).toNat < 34 →
        ∃ t, exec (.selfTestComplete k true false) s = .next t ∧ (t.pairs[k]).testing = false ∧ (t.place.cl[c]).toNat = x ∧
          t.place.phfault.getLsbD (s.place.cl[c]).toNat = true ∧ t.policy = { s.policy with spares := s.policy.spares - 1 } ∧
          t.place.susp.getLsbD c.val = false ∧ Reported s t (rootDomain s) 0 11) ∧
     (due → empty → s.homeQ = [] → s.policy.spares = 0 → ∃ t, exec (.selfTestComplete k true false) s = .next t ∧ (t.pairs[k]).testing = false ∧ t.place.cl = s.place.cl ∧
        t.place.susp.getLsbD c.val = s.place.susp.getLsbD c.val ∧ Reported s t (rootDomain s) 0 11))

/-- R48, R350, R366, R374, R386: an uncorrectable error by where it is met: in storage it is reported; in a heddle tag the line is repaired, and the domain of a request that
met it is lost; read by a lane it is an after-instruction fault; in code a fault at the instruction; in loaded data it is delivered at the SELV; an IL1 workgroup is
aborted and launched again when the policy allows; met by one member of a pair alone it is a mismatch of kind 7, by both alike a fault of both. Whether both members
meet an error alike is said by the event (assumption 24). -/
def Obligations.UncorrectableErrors : Prop :=
  ∀ (pa wg : Nat) (gid : Fin 16) (both : Bool) (s : State), Sound s → (s.wgs.map (·.key)).Nodup →
    let repaired (t : State) : Prop := (∀ core i, l1WordOf t core (pa / 128) i = .inv) ∧ ∀ i, heddleWord t (pa / 128) i = .H
    let lost (t : State) (w : Workgroup) : Prop := ∀ u ∈ t.wgs, stageDomain s u.ref ≠ stageDomain s w.ref
    let once := ((allGroups s).map fun g => (g.wg, g.gid, g.role)).Nodup
    let mine := s.grp.wg = wg ∧ s.grp.gid = gid ∧ s.grp.role = .lead ∧ wg ≠ 0
    (∃ t, exec (.uncorrectableEcc (.storage pa)) s = .next t ∧ Reported s t (storageDomain s pa) 0x60 13 ∧ t.wgs = s.wgs ∧ t.grp = s.grp) ∧
    (inScreed pa = false → ∀ l x, (s.l2.find? fun l => l.line == pa / 128) = some l → l.tenant = some x → storageDomain s pa = partDomain s x.1) ∧
    (inScreed pa = true → (∀ p, (part s p).ownsBank (bankOf pa) = false) → storageDomain s pa = rootDomain s) ∧
    (∃ t, exec (.uncorrectableEcc (.heddleTag pa)) s = .next t ∧ t.wgs = s.wgs ∧ t.grp = s.grp ∧
      ((s.domains[storageDomain s pa]).en = false → repaired t ∧ t.mem = s.mem)) ∧
    (∀ w, wgOf s wg = some w →
      (∃ t, exec (.uncorrectableEcc (.heddleRequest wg gid pa)) s = .next t ∧ lost t w) ∧
      (∃ t, exec (.uncorrectableEcc (.commitBuffer wg gid)) s = .next t ∧ lost t w) ∧
      (ilOf s w = 0 → s.grp.role = .lead → ∃ t, exec (.uncorrectableEcc (.stateBlock wg gid both)) s = .next t ∧ lost t w) ∧
      (ilOf s w ≠ 2 → ∀ g a rest, groupAt s wg gid .lead = some g → g.arr = a :: rest → once →
        ∃ t, exec (.uncorrectableEcc (.loadData wg gid both)) s = .next t ∧ t = { s with grp := t.grp, others := t.others } ∧
          groupAt t wg gid .lead = some { g with arr := { a with bad := true } :: rest }) ∧
      (ilOf s w = 1 → s.policy.il1re = true → w.reruns < s.policy.il1lim → w.atomic = false → wg ≠ 0 →
        ∀ e ∈ [EccSite.stateBlock wg gid both] ++ (if s.grp.wg = wg then [.laneRead both, .fetch both] else []),
          ∃ t, exec (.uncorrectableEcc e) s = .next t ∧ (∀ u ∈ t.wgs, u.key ≠ wg) ∧ (∀ g ∈ allGroups t, g.wg ≠ wg) ∧
            { w with reruns := w.reruns + 1, passed := [], duePass := [] } ∈ t.relaunch) ∧
      (∀ (k : Fin 16) (g q : Group), ilOf s w = 2 → once → w.core / 8 / 2 % 16 = k.val → (s.pairs[k]).stopped = false → g.core / 8 / 2 % 16 = k.val →
        groupAt s wg gid .lead = some g → groupAt s wg gid .trail = some q →
        (∀ e ∈ [EccSite.stateBlock wg gid false, .loadData wg gid false] ++ (if s.grp.wg = wg ∧ s.grp.gid = gid then [.laneRead false, .fetch false] else []),
          ∃ t m, exec (.uncorrectableEcc e) s = .next t ∧ (t.pairs[k]).stopped = true ∧ (t.pairs[k]).mis = some m ∧ m.kind = 7 ∧ m.wg = wg ∧ m.gid = gid ∧
            m.npc = g.c.npc ∧ t.mem = s.mem) ∧
        ∀ h, mine → handlerOf s = some h → (∀ x ∈ [g, q], x.phase = .inRun ∧ x.c.inH = false) → ∃ t, exec (.uncorrectableEcc (.fetch true)) s = .next t ∧
          (t.pairs[k]).stopped = false ∧ ∀ x ∈ [g, q], ∃ y, groupAt t wg gid x.role = some y ∧ y.c.inH = true ∧ y.c.frame.cause = 0x60 ∧ y.c.run.pc = h.pc ∧
            y.c.frame.npc = x.c.npc)) ∧
    (∀ w, curWg s = some w → ilOf s w = 0 → s.grp.wg ≠ 0 → s.grp.phase = .inRun →
      exec (.uncorrectableEcc (.fetch both)) s = .next (faultAt s 4 0x60 s.c.actMask (s.c.run.pc.setWidth 64)) ∧
      ∀ h, s.c.inH = false → handlerOf s = some h → ∃ t, exec (.uncorrectableEcc (.laneRead both)) s = .next t ∧ t.c.inH = true ∧
        t.c.run = { Run.none with on := true, pc := h.pc, act := s.c.actMask } ∧ t.c.frame.cause = 0x60 ∧ t.c.frame.after = true ∧ t.c.frame.addr = 0 ∧
        t.c.frame.npc = s.c.lastNpc ∧ t.c.frame.mask = s.c.actMask ∧ t.c.frame.resume = s.c.npc ∧ t.c.v = s.c.v ∧ t.c.s = s.c.s ∧ t.c.p = s.c.p)
end

