-- ==== Sys2Proof/Laws/Memory.lean ====
section
/-! SUPPORT. Byte memories: reading back a write, the bytes a write leaves alone, and that every write keeps the canonical form. -/
namespace Sys2Proof.Machine

theorem Memory.get_below (t : List Host.Cell) (k : Nat) (hall : t.all (fun c => decide (k < c.1)) = true) (y : Nat) (hy : y ≤ k) :
    Memory.get t y = 0 := by
  induction t with
  | nil => rfl
  | cons d t ih =>
    rw [List.all_cons, Bool.and_eq_true, decide_eq_true_eq] at hall
    obtain ⟨a, b⟩ := d
    have h1 : y ≠ a := by have := hall.1; simp only at this; omega
    simp only [Memory.get, if_neg h1]
    exact ih hall.2

theorem Memory.get_set (m : List Host.Cell) (a : Nat) (b : Byte) (x : Nat) (h : Memory.wf m = true) :
    Memory.get (Memory.set m a b) x = if x = a then b else Memory.get m x := by
  induction m with
  | nil =>
    by_cases hb : b = 0
    · subst hb; simp [Memory.set, Memory.get]
    · simp only [Memory.set, if_neg hb, Memory.get]
  | cons c t ih =>
    obtain ⟨k, v⟩ := c
    simp only [Memory.wf, Bool.and_eq_true, bne_iff_ne, ne_eq] at h
    obtain ⟨⟨hv, hall⟩, ht⟩ := h
    have hlt := Memory.get_below t k hall
    simp only [Memory.set]
    split
    · rename_i hak
      by_cases hb : b = 0
      · rw [if_pos hb]
        by_cases hx : x = a
        · rw [if_pos hx, hx, hb]
          simp only [Memory.get]
          rw [if_neg (by omega)]
          exact hlt a (by omega)
        · rw [if_neg hx]
      · rw [if_neg hb]
        simp only [Memory.get]
    · split
      · rename_i hak
        subst hak
        by_cases hb : b = 0
        · rw [if_pos hb]
          by_cases hx : x = a
          · rw [if_pos hx, hx, hb]; exact hlt a (by omega)
          · rw [if_neg hx]
            simp only [Memory.get, if_neg hx]
        · rw [if_neg hb]
          simp only [Memory.get]
          by_cases hx : x = a
          · rw [if_pos hx, if_pos hx]
          · rw [if_neg hx, if_neg hx, if_neg hx]
      · rename_i h1 h2
        simp only [Memory.get]
        rw [ih ht]
        by_cases hx : x = k
        · rw [if_pos hx, if_pos hx, if_neg (by omega)]
        · rw [if_neg hx, if_neg hx]

theorem Memory.all_set (m : List Host.Cell) (a : Nat) (b : Byte) (k : Nat) (hk : k < a)
    (h : m.all (fun c => decide (k < c.1)) = true) : (Memory.set m a b).all (fun c => decide (k < c.1)) = true := by
  induction m with
  | nil => by_cases hb : b = 0 <;> simp [Memory.set, hb, hk]
  | cons c t ih =>
    simp only [List.all_cons, Bool.and_eq_true, decide_eq_true_eq] at h
    simp only [Memory.set]
    split
    · split
      · simp only [List.all_cons, h.2, Bool.and_true, decide_eq_true_eq]; exact h.1
      · simp only [List.all_cons, h.2, Bool.and_true, Bool.and_eq_true, decide_eq_true_eq]; exact ⟨hk, h.1⟩
    · split
      · split
        · exact h.2
        · simp only [List.all_cons, h.2, Bool.and_true, decide_eq_true_eq]; exact hk
      · simp only [List.all_cons, Bool.and_eq_true, decide_eq_true_eq]; exact ⟨h.1, ih h.2⟩

/-- A byte written keeps the canonical form. -/
theorem Memory.wf_set (m : List Host.Cell) (a : Nat) (b : Byte) (h : Memory.wf m = true) : Memory.wf (Memory.set m a b) = true := by
  induction m with
  | nil =>
    by_cases hb : b = 0
    · simp only [Memory.set, if_pos hb, Memory.wf]
    · have hb' : (b != 0) = true := by simpa using hb
      simp only [Memory.set, if_neg hb, Memory.wf, hb', List.all_nil, Bool.and_self]
  | cons c t ih =>
    obtain ⟨k, v⟩ := c
    have h' := h
    simp only [Memory.wf, Bool.and_eq_true, bne_iff_ne, ne_eq] at h
    obtain ⟨⟨hv, hall⟩, ht⟩ := h
    simp only [Memory.set]
    split
    · rename_i hak
      by_cases hb : b = 0
      · simpa [hb] using h'
      · rw [if_neg hb]
        have h2 : t.all (fun c => decide (a < c.1)) = true := by
          rw [List.all_eq_true] at hall ⊢
          intro c hc
          have := of_decide_eq_true (hall c hc)
          exact decide_eq_true (by omega)
        have hb' : (b != 0) = true := by simpa using hb
        have h3 : ((k, v) :: t).all (fun c => decide (a < c.1)) = true := by
          rw [List.all_cons, h2, Bool.and_true]; exact decide_eq_true hak
        rw [Memory.wf, hb', h3, h']
        rfl
    · split
      · rename_i hak
        subst hak
        by_cases hb : b = 0
        · simpa [hb] using ht
        · have hb' : (b != 0) = true := by simpa using hb
          rw [if_neg hb, Memory.wf, hb', hall, ht]
          rfl
      · rename_i h1 h2
        have hv' : (v != 0) = true := by simpa using hv
        rw [Memory.wf, hv', ih ht, Memory.all_set t a b k (by omega) hall]
        rfl

theorem Memory.wf_write (m : List Host.Cell) (a : Nat) (bs : List Byte) (h : Memory.wf m = true) :
    Memory.wf (Memory.write m a bs) = true := by
  induction bs generalizing m a with
  | nil => exact h
  | cons b t ih => exact ih _ _ (Memory.wf_set _ _ _ h)

/-- A byte after a write: the string's where the string lies, else what it was. -/
theorem Memory.get_write (m : List Host.Cell) (a : Nat) (bs : List Byte) (x : Nat) (h : Memory.wf m = true) :
    Memory.get (Memory.write m a bs) x = if a ≤ x ∧ x < a + bs.length then (bs[x - a]?).getD 0 else Memory.get m x := by
  induction bs generalizing m a with
  | nil => simp only [Memory.write, List.length_nil]; rw [if_neg (by omega)]
  | cons b t ih =>
    simp only [Memory.write, List.length_cons]
    rw [ih _ _ (Memory.wf_set _ _ _ h), Memory.get_set _ _ _ _ h]
    by_cases hx : x = a
    · subst hx
      rw [if_neg (by omega), if_pos rfl, if_pos (by omega)]
      simp
    · by_cases h1 : a + 1 ≤ x ∧ x < a + 1 + t.length
      · rw [if_pos h1, if_pos (by omega)]
        have : x - a = x - (a + 1) + 1 := by omega
        rw [this, List.getElem?_cons_succ]
      · rw [if_neg h1, if_neg hx, if_neg (by omega)]

theorem Memory.length_read (m : List Host.Cell) (a n : Nat) : (Memory.read m a n).length = n := by
  induction n generalizing a with
  | zero => rfl
  | succ k ih => simp [Memory.read, ih]

theorem Memory.getElem?_read (m : List Host.Cell) (a n i : Nat) (h : i < n) : (Memory.read m a n)[i]? = some (Memory.get m (a + i)) := by
  induction n generalizing a i with
  | zero => omega
  | succ k ih =>
    cases i with
    | zero => simp [Memory.read]
    | succ j => simp only [Memory.read, List.getElem?_cons_succ]; rw [ih (a + 1) j (by omega)]; congr 2; omega

/-- Reading what was just written. -/
theorem Memory.read_write (m : List Host.Cell) (a : Nat) (bs : List Byte) (h : Memory.wf m = true) :
    Memory.read (Memory.write m a bs) a bs.length = bs := by
  apply List.ext_getElem?
  intro i
  by_cases hi : i < bs.length
  · rw [Memory.getElem?_read _ _ _ _ hi, Memory.get_write _ _ _ _ h, if_pos (by omega), Nat.add_sub_cancel_left]
    simp [hi]
  · rw [List.getElem?_eq_none (by rw [Memory.length_read]; omega), List.getElem?_eq_none (by omega)]

/-- Reading bytes that a write does not touch. -/
theorem Memory.read_write_apart (m : List Host.Cell) (a : Nat) (bs : List Byte) (x n : Nat) (h : Memory.wf m = true)
    (hd : x + n ≤ a ∨ a + bs.length ≤ x) : Memory.read (Memory.write m a bs) x n = Memory.read m x n := by
  apply List.ext_getElem?
  intro i
  by_cases hi : i < n
  · rw [Memory.getElem?_read _ _ _ _ hi, Memory.getElem?_read _ _ _ _ hi, Memory.get_write _ _ _ _ h, if_neg (by omega)]
  · rw [List.getElem?_eq_none (by rw [Memory.length_read]; omega), List.getElem?_eq_none (by rw [Memory.length_read]; omega)]

theorem length_leBytes (n x : Nat) : (leBytes n x).length = n := by
  induction n generalizing x with
  | zero => rfl
  | succ k ih => simp [leBytes, ih]

/-- The number that the bytes of a number hold. -/
theorem leNat_leBytes (n x : Nat) : leNat (leBytes n x) = x % 256 ^ n := by
  induction n generalizing x with
  | zero => simp [leBytes, leNat, Nat.mod_one]
  | succ k ih =>
    simp only [leBytes, leNat, ih, BitVec.toNat_ofNat]
    have h : 256 ^ (k + 1) = 256 * 256 ^ k := by rw [Nat.pow_succ, Nat.mul_comm]
    rw [h, Nat.mod_mul]

end Sys2Proof.Machine
end

