-- ==== Sys2Proof/Laws/Coherence.lean ====
section
/-! SUPPORT. The heddle and the L1 copies: what each movement of a word leaves in the heddle, in every L1 and at home, that it keeps
the ownership invariant, and what it does to the latest value of each word (R190, R195 to R198). -/
namespace Sys2Proof.Machine

/-! ### Heddle words -/

theorem hGet_hSet (s : State) (h : HLine) (line : Nat) : hGet (hSet s h) line = if line = h.line then h else hGet s line := by
  unfold hGet hSet
  have hf : ∀ l, l ≠ h.line → (s.hed.filter (·.line != h.line)).find? (·.line == l) = s.hed.find? (·.line == l) := by
    intro l hl
    rw [List.find?_filter]
    congr 1; funext x
    by_cases hx : x.line = l
    · simp [hx, hl]
    · simp [hx]
  by_cases hl : line = h.line
  · subst hl
    simp only [if_true]
    split
    · rename_i hc
      have : (s.hed.filter (·.line != h.line)).find? (·.line == h.line) = none := by
        rw [List.find?_filter, List.find?_eq_none]; intro x _; simp
      simp only [this, Option.getD_none]; exact hc.symm
    · simp
  · simp only [if_neg hl]
    split
    · rw [hf _ hl]
    · have : h.line ≠ line := fun e => hl e.symm
      simp only [List.find?_cons]
      rw [show (h.line == line) = false by simpa using this]
      simp only [hf _ hl]

theorem hGet_line (s : State) (line : Nat) : (hGet s line).line = line := by
  unfold hGet
  cases h : s.hed.find? (·.line == line) with
  | none => rfl
  | some x => simpa using List.find?_some h

theorem l1Get_core (s : State) (core line : Nat) : (l1Get s core line).core = core ∧ (l1Get s core line).line = line := by
  unfold l1Get
  cases h : s.l1.find? (fun l => l.core == core && l.line == line) with
  | none => exact ⟨rfl, rfl⟩
  | some x => simpa using List.find?_some h

theorem l1Get_l1Set (s : State) (l : L1Line) (core line : Nat) :
    l1Get (l1Set s l) core line = if core = l.core ∧ line = l.line then l else l1Get s core line := by
  unfold l1Get l1Set
  have hf : ¬ (core = l.core ∧ line = l.line) →
      (s.l1.filter fun x => !(x.core == l.core && x.line == l.line)).find? (fun x => x.core == core && x.line == line) =
        s.l1.find? fun x => x.core == core && x.line == line := by
    intro hn
    rw [List.find?_filter]
    congr 1; funext x
    by_cases hx : x.core = core ∧ x.line = line
    · have : ¬ (core = l.core ∧ line = l.line) := hn
      obtain ⟨rfl, rfl⟩ := hx
      have hb : (x.core == l.core && x.line == l.line) = false := by
        cases hb : (x.core == l.core && x.line == l.line) with
        | false => rfl
        | true => exact absurd (by simpa using hb) this
      simp [hb]
    · have : (x.core == core && x.line == line) = false := by
        cases hb : (x.core == core && x.line == line) with
        | false => rfl
        | true => exact absurd (by simpa using hb) hx
      simp [this]
  by_cases hc : core = l.core ∧ line = l.line
  · obtain ⟨rfl, rfl⟩ := hc
    simp only [and_self, if_true]
    split
    · rename_i h
      have : (s.l1.filter fun x => !(x.core == l.core && x.line == l.line)).find? (fun x => x.core == l.core && x.line == l.line) = none := by
        rw [List.find?_filter, List.find?_eq_none]
        intro x _
        cases (x.core == l.core && x.line == l.line) <;> simp
      simp only [this, Option.getD_none]; exact h.symm
    · simp
  · simp only [if_neg hc]
    split
    · rw [hf hc]
    · have : (l.core == core && l.line == line) = false := by
        rw [Bool.and_eq_false_iff, beq_eq_false_iff_ne, beq_eq_false_iff_ne]
        by_cases h1 : l.core = core
        · exact .inr fun h2 => hc ⟨h1.symm, h2.symm⟩
        · exact .inl h1
      simp only [List.find?_cons, this]
      simp only [hf hc]

@[simp] theorem heddle_hSetWord (s : State) (ln : Nat) (j : Fin 32) (x : WState) (line : Nat) (i : Fin 32) :
    heddleWord (hSetWord s ln j x) line i = if line = ln ∧ i = j then x else heddleWord s line i := by
  unfold heddleWord hSetWord
  rw [hGet_hSet]
  simp only [hGet_line]
  by_cases hl : line = ln
  · subst hl
    by_cases hi : i = j
    · subst hi; simp
    · have : ¬ (j.val = i.val) := fun h => hi (Fin.ext h.symm)
      simp [hi, this]
  · simp [hl]

@[simp] theorem l1_hSetWord (s : State) (ln : Nat) (j : Fin 32) (x : WState) (c line : Nat) (i : Fin 32) :
    l1WordOf (hSetWord s ln j x) c line i = l1WordOf s c line i := rfl

@[simp] theorem home_hSetWord (s : State) (ln : Nat) (j : Fin 32) (x : WState) (line : Nat) (i : Fin 32) :
    homeWord (hSetWord s ln j x) line i = homeWord s line i := rfl

@[simp] theorem heddle_l1SetWord (s : State) (c ln : Nat) (j : Fin 32) (x : L1Word) (line : Nat) (i : Fin 32) :
    heddleWord (l1SetWord s c ln j x) line i = heddleWord s line i := rfl

@[simp] theorem l1_l1SetWord (s : State) (c ln : Nat) (j : Fin 32) (x : L1Word) (c' line : Nat) (i : Fin 32) :
    l1WordOf (l1SetWord s c ln j x) c' line i = if c' = c ∧ line = ln ∧ i = j then x else l1WordOf s c' line i := by
  unfold l1WordOf l1SetWord
  simp only []
  rw [l1Get_l1Set]
  have e := l1Get_core s c ln
  simp only [e.1, e.2]
  by_cases hc : c' = c ∧ line = ln
  · obtain ⟨rfl, rfl⟩ := hc
    by_cases hi : i = j
    · subst hi; simp
    · have : ¬ (j.val = i.val) := fun h => hi (Fin.ext h.symm)
      simp [hi, this]
  · have : ¬ (c' = c ∧ line = ln ∧ i = j) := fun h => hc ⟨h.1, h.2.1⟩
    simp [hc, this]

@[simp] theorem home_l1SetWord (s : State) (c ln : Nat) (j : Fin 32) (x : L1Word) (line : Nat) (i : Fin 32) :
    homeWord (l1SetWord s c ln j x) line i = homeWord s line i := rfl

@[simp] theorem heddle_setHomeWord (s : State) (ln : Nat) (j : Fin 32) (x : Word) (line : Nat) (i : Fin 32) :
    heddleWord (setHomeWord s ln j x) line i = heddleWord s line i := rfl

@[simp] theorem l1_setHomeWord (s : State) (ln : Nat) (j : Fin 32) (x : Word) (c line : Nat) (i : Fin 32) :
    l1WordOf (setHomeWord s ln j x) c line i = l1WordOf s c line i := rfl

theorem home_setHomeWord (s : State) (hm : Memory.wf s.mem = true) (ln : Nat) (j : Fin 32) (x : Word) (line : Nat) (i : Fin 32) :
    homeWord (setHomeWord s ln j x) line i = if line = ln ∧ i = j then x else homeWord s line i := by
  unfold homeWord setHomeWord
  have hl := length_leBytes 4 x.toNat
  by_cases h : line = ln ∧ i = j
  · obtain ⟨rfl, rfl⟩ := h
    have := Memory.read_write s.mem (line * 128 + i.val * 4) (leBytes 4 x.toNat) hm
    rw [hl] at this
    simp only [and_self, if_true, this, leNat_leBytes]
    have := x.isLt
    apply BitVec.eq_of_toNat_eq
    simp; omega
  · rw [if_neg h, Memory.read_write_apart _ _ _ _ _ hm]
    rw [hl]
    have h1 := i.isLt
    have h2 := j.isLt
    have : line ≠ ln ∨ i.val ≠ j.val := by
      by_contra hc
      push Not at hc
      exact h ⟨hc.1, Fin.ext hc.2⟩
    omega

/-! ### The latest value of a word -/

theorem latest_eq (s : State) (line : Nat) (i : Fin 32) : latest s line i =
    match heddleWord s line i with
    | .O x => (l1WordOf s x line i).value.getD (homeWord s line i)
    | _ => homeWord s line i := rfl

theorem latest_owned (s : State) (line : Nat) (i : Fin 32) (x : Nat) (v : Word) (h : heddleWord s line i = .O x)
    (hv : l1WordOf s x line i = .own v) : latest s line i = v := by
  rw [latest_eq, h]; simp only [hv]; rfl

theorem latest_home (s : State) (line : Nat) (i : Fin 32) (h : ∀ x, heddleWord s line i ≠ .O x) : latest s line i = homeWord s line i := by
  rw [latest_eq]
  cases hw : heddleWord s line i with
  | O x => exact absurd hw (h x)
  | H => rfl
  | S => rfl

/-- A movement of words that changes no word's latest value and keeps what a sound state keeps. -/
structure Moved (s t : State) : Prop where
  wf     : Memory.wf t.mem = true
  owned  : Owned t
  latest : ∀ line i, latest t line i = Machine.latest s line i

theorem Moved.refl {s : State} (hm : Memory.wf s.mem = true) (ho : Owned s) : Moved s s := ⟨hm, ho, fun _ _ => rfl⟩

theorem Moved.trans {s t u : State} (h1 : Moved s t) (h2 : Moved t u) : Moved s u :=
  ⟨h2.wf, h2.owned, fun l i => by rw [h2.latest, h1.latest]⟩

theorem Moved.foldl {α : Type} (f : State → α → State) (xs : List α) (s : State) (hm : Memory.wf s.mem = true) (ho : Owned s)
    (h : ∀ s a, Memory.wf s.mem = true → Owned s → Moved s (f s a)) : Moved s (xs.foldl f s) := by
  induction xs generalizing s with
  | nil => exact .refl hm ho
  | cons a xs ih =>
    have h1 := h s a hm ho
    exact h1.trans (ih _ h1.wf h1.owned)

/-- The same heddle, L1 and home words. -/
theorem Moved.of_same {s t : State} (hm : Memory.wf s.mem = true) (ho : Owned s) (h1 : t.hed = s.hed) (h2 : t.l1 = s.l1)
    (h3 : t.mem = s.mem) : Moved s t := by
  have e1 : ∀ line i, heddleWord t line i = heddleWord s line i := fun line i => by simp only [heddleWord, hGet, h1]
  have e2 : ∀ c line i, l1WordOf t c line i = l1WordOf s c line i := fun c line i => by simp only [l1WordOf, l1Get, h2]
  have e3 : ∀ line i, homeWord t line i = homeWord s line i := fun line i => by simp only [homeWord, h3]
  refine ⟨by rw [h3]; exact hm, fun line i x h => ?_, fun line i => ?_⟩
  · rw [e1] at h; rw [e2]; exact ho line i x h
  · simp only [latest_eq, e1, e2, e3]

theorem ownerWord_eq (s : State) (c line : Nat) (i : Fin 32) :
    ownerWord s c line i = (l1WordOf s c line i).value.getD (homeWord s line i) := rfl

theorem latest_of_owner {s : State} {line : Nat} {i : Fin 32} {x : Nat} (h : heddleWord s line i = .O x) :
    latest s line i = ownerWord s x line i := by
  rw [latest_eq, h]; rfl

/-- An owned word goes home (R196). -/
theorem moved_hRevoke (s : State) (line : Nat) (i : Fin 32) (st : WState) (hst : ∀ x, st ≠ .O x) (hm : Memory.wf s.mem = true)
    (ho : Owned s) : Moved s (hRevoke s line i st) := by
  unfold hRevoke
  split
  · rename_i x hx
    change heddleWord s line i = .O x at hx
    have hm' : Memory.wf (setHomeWord s line i (ownerWord s x line i)).mem = true := Memory.wf_write _ _ _ hm
    refine ⟨hm', fun ln j y hy => ?_, fun ln j => ?_⟩
    · rw [heddle_hSetWord] at hy
      by_cases h : ln = line ∧ j = i
      · rw [if_pos h] at hy; exact absurd hy (hst y)
      · rw [if_neg h, heddle_l1SetWord, heddle_setHomeWord] at hy
        obtain ⟨v, hv⟩ := ho ln j y hy
        refine ⟨v, ?_⟩
        rw [l1_hSetWord, l1_l1SetWord, if_neg fun e => h e.2, l1_setHomeWord, hv]
    · rw [latest_eq]
      simp only [heddle_hSetWord, l1_hSetWord, home_hSetWord, l1_l1SetWord, home_l1SetWord, heddle_l1SetWord, heddle_setHomeWord,
        l1_setHomeWord, home_setHomeWord s hm]
      by_cases h : ln = line ∧ j = i
      · obtain ⟨rfl, rfl⟩ := h
        simp only [and_self, if_true]
        rw [latest_of_owner hx]
      · simp only [h, and_false, if_false]
        exact (latest_eq s ln j).symm
  · exact .refl hm ho

theorem find_filter_map {α : Type} (f : α → α) (q p : α → Bool) (hp : ∀ x, p (f x) = p x) (xs : List α) (e : α)
    (h : xs.find? p = some e) (hq : q (f e) = true) : ((xs.map f).filter q).find? p = some (f e) := by
  induction xs with
  | nil => cases h
  | cons x xs ih =>
    rw [List.find?_cons] at h
    rw [List.map_cons]
    cases hx : p x with
    | true =>
      rw [hx] at h
      obtain rfl : x = e := by simpa using h
      rw [List.filter_cons_of_pos hq, List.find?_cons, hp, hx]
    | false =>
      rw [hx] at h
      by_cases hqx : q (f x) = true
      · rw [List.filter_cons_of_pos hqx, List.find?_cons, hp, hx]; exact ih h
      · rw [List.filter_cons_of_neg hqx]; exact ih h

/-- L1 lines that are changed in words that are not owned, and then dropped when nothing is left: every owned word stays. -/
theorem l1_own_kept (s : State) (f : L1Line → L1Line) (q : L1Line → Bool) (hc : ∀ l, (f l).core = l.core ∧ (f l).line = l.line)
    (hw : ∀ l (i : Fin 32) v, l.w[i] = .own v → (f l).w[i] = .own v) (hq : ∀ l (i : Fin 32) v, l.w[i] = .own v → q l = true)
    (t : State) (ht : t.l1 = (s.l1.map f).filter q) (c line : Nat) (i : Fin 32) (v : Word) (h : l1WordOf s c line i = .own v) :
    l1WordOf t c line i = .own v := by
  unfold l1WordOf l1Get at h ⊢
  cases hf : s.l1.find? (fun l => l.core == c && l.line == line) with
  | none =>
    rw [hf] at h
    simp [L1Line.clear] at h
  | some e =>
    rw [hf] at h
    have he : e.w[i] = .own v := h
    have := find_filter_map f q (fun l => l.core == c && l.line == line) (fun x => by simp only [(hc x).1, (hc x).2]) s.l1 e hf
      (hq _ i v (hw e i v he))
    rw [ht, this]
    exact hw e i v he

/-- A change of the heddle and the L1s that keeps every owned word with its owner, every other word unowned, and home as it is. -/
theorem Moved.of_owned {s t : State} (hm : Memory.wf s.mem = true) (ho : Owned s) (h3 : t.mem = s.mem)
    (hh : ∀ line i x, heddleWord t line i = .O x ↔ heddleWord s line i = .O x)
    (hl : ∀ c line i v, heddleWord s line i = .O c → l1WordOf s c line i = .own v → l1WordOf t c line i = .own v) : Moved s t := by
  have e3 : ∀ line i, homeWord t line i = homeWord s line i := fun line i => by simp only [homeWord, h3]
  refine ⟨by rw [h3]; exact hm, fun line i x h => ?_, fun line i => ?_⟩
  · have h' := (hh line i x).1 h
    obtain ⟨v, hv⟩ := ho line i x h'
    exact ⟨v, hl x line i v h' hv⟩
  · by_cases h : ∃ x, heddleWord s line i = .O x
    · obtain ⟨x, hx⟩ := h
      obtain ⟨v, hv⟩ := ho line i x hx
      rw [latest_owned s line i x v hx hv, latest_owned t line i x v ((hh line i x).2 hx) (hl x line i v hx hv)]
    · have h' : ∀ x, heddleWord s line i ≠ .O x := fun x e => h ⟨x, e⟩
      rw [latest_home s line i h', latest_home t line i fun x e => h' x ((hh line i x).1 e), e3]

theorem hGet_hInvalidate (s : State) (line ln : Nat) : hGet (hInvalidate s line) ln =
    if ln = line then { hGet s line with sharers := 0, w := (hGet s line).w.map fun x => match x with
      | .S => .H
      | y => y } else hGet s ln := by
  have h := hGet_line s line
  unfold hInvalidate
  rw [hGet_hSet]
  by_cases hl : ln = line
  · exact Eq.trans (if_pos (by rw [hl]; exact h.symm)) (if_pos hl).symm
  · exact Eq.trans (if_neg (by rw [show (HLine.line _) = line from h]; exact hl)) (if_neg hl).symm

/-- The wi copies of the sharers go (R196). -/
theorem moved_hInvalidate (s : State) (line : Nat) (hm : Memory.wf s.mem = true) (ho : Owned s) : Moved s (hInvalidate s line) := by
  refine Moved.of_owned hm ho rfl (fun ln i x => ?_) fun c ln i v _ hv => ?_
  · unfold heddleWord
    rw [hGet_hInvalidate]
    by_cases hl : ln = line
    · subst hl
      rw [if_pos rfl]
      simp only [Fin.getElem_fin, Vector.getElem_map]
      cases hw : (hGet s ln).w[i.val] <;> simp
    · rw [if_neg hl]
  · refine l1_own_kept s (fun l => if l.line = line && (hGet s line).sharers.getLsbD (clusterOf l.core) then
        { l with w := l.w.map fun x => match x with
            | .wi _ => .inv
            | y => y }
      else l) (fun l => l.w.toList.any (· != .inv)) (fun l => ?_) (fun l i v h => ?_) (fun l i v h => ?_) _ rfl c ln i v hv
    · split <;> exact ⟨rfl, rfl⟩
    · split
      · simp only [Fin.getElem_fin, Vector.getElem_map] at h ⊢
        rw [h]
      · exact h
    · rw [List.any_eq_true]
      exact ⟨.own v, by rw [← h]; simp, rfl⟩

theorem heddle_hInvalidate (s : State) (line : Nat) (i : Fin 32) (h : heddleWord s line i = .S) :
    heddleWord (hInvalidate s line) line i = .H := by
  unfold heddleWord at h ⊢
  rw [hGet_hInvalidate, if_pos rfl]
  simp only [Fin.getElem_fin, Vector.getElem_map] at h ⊢
  rw [h]

/-- An acquire drops si copies alone (R194). -/
theorem moved_dropSi (s : State) (core : Nat) (hm : Memory.wf s.mem = true) (ho : Owned s) : Moved s (dropSi s core) := by
  refine Moved.of_owned hm ho rfl (fun ln i x => Iff.rfl) fun c ln i v _ hv => ?_
  refine l1_own_kept s (fun l => if l.core = core then
      { l with w := l.w.map fun x => match x with
          | .si _ => .inv
          | y => y } else l) (fun l => l.w.toList.any (· != .inv)) (fun l => ?_) (fun l i v h => ?_) (fun l i v h => ?_) _ rfl c ln i v hv
  · split <;> exact ⟨rfl, rfl⟩
  · split
    · simp only [Fin.getElem_fin, Vector.getElem_map] at h ⊢
      rw [h]
    · exact h
  · rw [List.any_eq_true]
    exact ⟨.own v, by rw [← h]; simp, rfl⟩

@[simp] theorem heddle_setOwnerSlot (s : State) (ln : Nat) (j : Fin 32) (c line : Nat) (i : Fin 32) :
    heddleWord (setOwnerSlot s ln j c) line i = heddleWord s line i := rfl

@[simp] theorem l1_setOwnerSlot (s : State) (ln : Nat) (j : Fin 32) (c x line : Nat) (i : Fin 32) :
    l1WordOf (setOwnerSlot s ln j c) x line i = l1WordOf s x line i := rfl

/-- The data slot of an owned word holds no value of it (R195). -/
theorem moved_setOwnerSlot (s : State) (line : Nat) (i : Fin 32) (c y : Nat) (hm : Memory.wf s.mem = true) (ho : Owned s)
    (hy : heddleWord s line i = .O y) : Moved s (setOwnerSlot s line i c) := by
  refine ⟨Memory.wf_write _ _ _ hm, fun ln j z hz => ho ln j z hz, fun ln j => ?_⟩
  by_cases h : ln = line ∧ j = i
  · obtain ⟨rfl, rfl⟩ := h
    obtain ⟨v, hv⟩ := ho ln j y hy
    exact (latest_owned (setOwnerSlot s ln j c) ln j y v hy hv).trans (latest_owned s ln j y v hy hv).symm
  · have e : homeWord (setOwnerSlot s line i c) ln j = homeWord s ln j :=
      (home_setHomeWord s hm line i _ ln j).trans (if_neg h)
    simp only [latest_eq, heddle_setOwnerSlot, l1_setOwnerSlot, e]

/-- A word's ownership is taken (R197). -/
theorem heddle_takeOwn (s : State) (q line : Nat) (i : Fin 32) : heddleWord (takeOwn s q line i) line i = .O q := by
  unfold takeOwn
  split
  · rename_i x hx
    split
    · rename_i h; subst h; exact hx
    · exact (heddle_hSetWord _ _ _ _ _ _).trans (if_pos ⟨rfl, rfl⟩)
  · exact (heddle_hSetWord _ _ _ _ _ _).trans (if_pos ⟨rfl, rfl⟩)
  · exact (heddle_hSetWord _ _ _ _ _ _).trans (if_pos ⟨rfl, rfl⟩)

theorem owned_value (s : State) (ho : Owned s) {line : Nat} {i : Fin 32} {x : Nat} (h : heddleWord s line i = .O x) :
    l1WordOf s x line i = .own (latest s line i) := by
  obtain ⟨v, hv⟩ := ho line i x h
  rw [hv, latest_owned s line i x v h hv]

/-- Ownership moves, the value stays (R197). -/
theorem moved_takeOwn (s : State) (q line : Nat) (i : Fin 32) (hm : Memory.wf s.mem = true) (ho : Owned s) :
    Moved s (takeOwn s q line i) := by
  have take : ∀ s : State, Memory.wf s.mem = true → Owned s → (∀ x, heddleWord s line i ≠ .O x) →
      Moved s (hSetWord (l1SetWord s q line i (.own (homeWord s line i))) line i (.O q)) := by
    intro s hm ho hn
    refine ⟨hm, fun ln j y hy => ?_, fun ln j => ?_⟩
    · rw [heddle_hSetWord] at hy
      by_cases h : ln = line ∧ j = i
      · rw [if_pos h] at hy
        obtain rfl : q = y := by injection hy
        exact ⟨homeWord s line i, by rw [l1_hSetWord, l1_l1SetWord, if_pos ⟨rfl, h⟩]⟩
      · rw [if_neg h, heddle_l1SetWord] at hy
        obtain ⟨v, hv⟩ := ho ln j y hy
        exact ⟨v, by rw [l1_hSetWord, l1_l1SetWord, if_neg fun e => h e.2, hv]⟩
    · rw [latest_eq]
      simp only [heddle_hSetWord, l1_hSetWord, home_hSetWord, l1_l1SetWord, home_l1SetWord, heddle_l1SetWord]
      by_cases h : ln = line ∧ j = i
      · obtain ⟨rfl, rfl⟩ := h
        simp only [and_self, if_true]
        rw [latest_home s ln j hn]
        rfl
      · simp only [h, and_false, if_false]
        exact (latest_eq s ln j).symm
  have slot : ∀ s s1 : State, Moved s (hSetWord s1 line i (.O q)) → Moved s (setOwnerSlot (hSetWord s1 line i (.O q)) line i q) :=
    fun s s1 h => h.trans (moved_setOwnerSlot _ line i q q h.wf h.owned ((heddle_hSetWord _ _ _ _ _ _).trans (if_pos ⟨rfl, rfl⟩)))
  unfold takeOwn
  split
  · rename_i x hx
    change heddleWord s line i = .O x at hx
    split
    · exact .refl hm ho
    · rename_i hq
      refine slot s _ ⟨hm, fun ln j y hy => ?_, fun ln j => ?_⟩
      · rw [heddle_hSetWord] at hy
        by_cases h : ln = line ∧ j = i
        · rw [if_pos h] at hy
          obtain rfl : q = y := by injection hy
          exact ⟨ownerWord s x line i, by rw [l1_hSetWord, l1_l1SetWord, if_pos ⟨rfl, h⟩]⟩
        · rw [if_neg h, heddle_l1SetWord, heddle_l1SetWord] at hy
          obtain ⟨v, hv⟩ := ho ln j y hy
          exact ⟨v, by rw [l1_hSetWord, l1_l1SetWord, if_neg fun e => h e.2, l1_l1SetWord, if_neg fun e => h e.2, hv]⟩
      · rw [latest_eq]
        simp only [heddle_hSetWord, l1_hSetWord, home_hSetWord, l1_l1SetWord, home_l1SetWord, heddle_l1SetWord]
        by_cases h : ln = line ∧ j = i
        · obtain ⟨rfl, rfl⟩ := h
          simp only [and_self, if_true]
          rw [latest_of_owner hx]
          rfl
        · simp only [h, and_false, if_false]
          exact (latest_eq s ln j).symm
  · rename_i hx
    have h1 := moved_hInvalidate s line hm ho
    refine h1.trans (slot _ _ (take _ h1.wf h1.owned fun x => ?_))
    rw [heddle_hInvalidate s line i hx]
    simp
  · rename_i hx
    change heddleWord s line i = .H at hx
    exact slot s _ (take s hm ho fun x => by rw [hx]; simp)

/-- A copy that is not owned is written, in a core that does not own the word. -/
theorem moved_l1Set_copy (s : State) (c line : Nat) (i : Fin 32) (x : L1Word) (hm : Memory.wf s.mem = true) (ho : Owned s)
    (hn : heddleWord s line i ≠ .O c) : Moved s (l1SetWord s c line i x) := by
  refine Moved.of_owned hm ho rfl (fun ln j y => Iff.rfl) fun c' ln j v h hv => ?_
  rw [l1_l1SetWord, if_neg, hv]
  rintro ⟨rfl, rfl, rfl⟩
  exact hn h

theorem moved_updateCopy (s : State) (q : Option Nat) (line : Nat) (i : Fin 32) (v : Word) (hm : Memory.wf s.mem = true)
    (ho : Owned s) : Moved s (updateCopy s q line i v) := by
  unfold updateCopy
  split
  · exact .refl hm ho
  · rename_i c
    have key : ∀ x y, l1WordOf s c line i = x → (∀ w, x ≠ .own w) → Moved s (l1SetWord s c line i y) := by
      intro x y hx hn
      refine moved_l1Set_copy s c line i y hm ho fun h => ?_
      obtain ⟨w, hw⟩ := ho line i c h
      exact hn w (hx ▸ hw)
    split
    · rename_i x hx; exact key _ _ hx (by simp)
    · rename_i x hx; exact key _ _ hx (by simp)
    · exact .refl hm ho

/-- A word takes a new value: every other word keeps its latest value. -/
structure Written (s t : State) (line : Nat) (i : Fin 32) (v : Word) : Prop where
  wf     : Memory.wf t.mem = true
  owned  : Owned t
  latest : ∀ ln j, latest t ln j = if ln = line ∧ j = i then v else Machine.latest s ln j

theorem Moved.written {s t u : State} {line : Nat} {i : Fin 32} {v : Word} (h1 : Moved s t) (h2 : Written t u line i v) :
    Written s u line i v := ⟨h2.wf, h2.owned, fun l j => by rw [h2.latest, h1.latest]⟩

theorem Written.moved {s t u : State} {line : Nat} {i : Fin 32} {v : Word} (h1 : Written s t line i v) (h2 : Moved t u) :
    Written s u line i v := ⟨h2.wf, h2.owned, fun l j => by rw [h2.latest, h1.latest]⟩

theorem written_setHome (s : State) (line : Nat) (i : Fin 32) (v : Word) (hm : Memory.wf s.mem = true) (ho : Owned s)
    (hn : ∀ x, heddleWord s line i ≠ .O x) : Written s (setHomeWord s line i v) line i v := by
  refine ⟨Memory.wf_write _ _ _ hm, fun ln j y hy => ho ln j y hy, fun ln j => ?_⟩
  rw [latest_eq]
  simp only [heddle_setHomeWord, l1_setHomeWord, home_setHomeWord s hm]
  by_cases h : ln = line ∧ j = i
  · obtain ⟨rfl, rfl⟩ := h
    simp only [and_self, if_true]
  · simp only [h, if_false]
    exact (latest_eq s ln j).symm

theorem heddle_setHome_updateCopy (s : State) (q : Option Nat) (line : Nat) (i : Fin 32) (v : Word) (ln : Nat) (j : Fin 32) :
    heddleWord (updateCopy s q line i v) ln j = heddleWord s ln j := by
  unfold updateCopy
  split
  · rfl
  · split <;> rfl

theorem heddle_hRevoke (s : State) (line : Nat) (i : Fin 32) (x : Nat) (st : WState) (h : heddleWord s line i = .O x) :
    heddleWord (hRevoke s line i st) line i = st := by
  unfold hRevoke
  split
  · rw [heddle_hSetWord, if_pos ⟨rfl, rfl⟩]
  · rename_i hx; exact absurd h (hx x)

/-- Store wt of a word (R197): the word is unowned and takes its value at home. -/
theorem written_writeHome (s : State) (q : Option Nat) (line : Nat) (i : Fin 32) (v : Word) (hm : Memory.wf s.mem = true)
    (ho : Owned s) : Written s (writeHome s q line i v) line i v ∧ ∀ x, heddleWord (writeHome s q line i v) line i ≠ .O x := by
  unfold writeHome
  have fin : ∀ s1 : State, Moved s s1 → (∀ x, heddleWord s1 line i ≠ .O x) →
      Written s (updateCopy (setHomeWord s1 line i v) q line i v) line i v ∧
        ∀ x, heddleWord (updateCopy (setHomeWord s1 line i v) q line i v) line i ≠ .O x := by
    intro s1 h1 hn
    have h2 := written_setHome s1 line i v h1.wf h1.owned hn
    refine ⟨h1.written (h2.moved (moved_updateCopy _ q line i v h2.wf h2.owned)), fun x => ?_⟩
    rw [heddle_setHome_updateCopy]
    exact hn x
  dsimp only
  split
  · rename_i hx
    exact fin _ (moved_hInvalidate s line hm ho) fun x => by rw [heddle_hInvalidate s line i hx]; simp
  · rename_i y hx
    exact fin _ (moved_hRevoke s line i .H (by simp) hm ho) fun x => by rw [heddle_hRevoke s line i y .H hx]; simp
  · rename_i hx
    change heddleWord s line i = .H at hx
    exact fin _ (.refl hm ho) fun x => by rw [hx]; simp

/-- The owner of a word writes its copy. -/
theorem written_own (s : State) (c line : Nat) (i : Fin 32) (v : Word) (hm : Memory.wf s.mem = true) (ho : Owned s)
    (h : heddleWord s line i = .O c) : Written s (l1SetWord s c line i (.own v)) line i v := by
  refine ⟨hm, fun ln j y hy => ?_, fun ln j => ?_⟩
  · rw [heddle_l1SetWord] at hy
    by_cases he : ln = line ∧ j = i
    · obtain ⟨rfl, rfl⟩ := he
      rw [h] at hy
      obtain rfl : c = y := by injection hy
      exact ⟨v, by rw [l1_l1SetWord, if_pos ⟨rfl, rfl, rfl⟩]⟩
    · obtain ⟨w, hw⟩ := ho ln j y hy
      exact ⟨w, by rw [l1_l1SetWord, if_neg fun e => he e.2, hw]⟩
  · rw [latest_eq]
    simp only [l1_l1SetWord, home_l1SetWord, heddle_l1SetWord]
    by_cases he : ln = line ∧ j = i
    · obtain ⟨rfl, rfl⟩ := he
      simp only [and_self, if_true, h]
      rfl
    · simp only [he, and_false, if_false]
      exact (latest_eq s ln j).symm

/-- One word written under any store policy (R192, R197). -/
theorem written_writeWord (s : State) (q : Option Nat) (pol line : Nat) (i : Fin 32) (v : Word) (hm : Memory.wf s.mem = true)
    (ho : Owned s) : Written s (writeWord s q pol line i v) line i v := by
  unfold writeWord
  split
  · rename_i c
    have h1 := moved_takeOwn s c line i hm ho
    exact h1.written (written_own _ c line i v h1.wf h1.owned (heddle_takeOwn s c line i))
  · rename_i c
    obtain ⟨h1, h2⟩ := written_writeHome s (some c) line i v hm ho
    exact h1.moved (moved_l1Set_copy _ c line i _ h1.wf h1.owned (h2 c))
  · unfold writeFwd
    split
    · rename_i x hx
      have h1 := written_own s x line i v hm ho hx
      exact h1.moved (moved_updateCopy _ q line i v h1.wf h1.owned)
    · exact (written_writeHome s q line i v hm ho).1
  · exact (written_writeHome s q line i v hm ho).1

end Sys2Proof.Machine
end

