-- ==== Sys2Proof/Laws/Decode.lean ====
section
/-! SUPPORT. Reading a field of a packed word gives the field back, one lemma per field of each format of R35. -/
namespace Sys2Proof.Laws

theorem bit_lt (b : Bool) : bit b < 2 := by cases b <;> decide

theorem bit_eq_one (b : Bool) : (bit b == 1) = b := by cases b <;> decide

@[simp] theorem packF3_fn (maj : Nat) (fn : Nat) (b : BitVec 7) (a : BitVec 7) (n : Bool) (d : BitVec 7) (hm : maj < 64) (h : fn < 8) : (fld (packF3 maj fn b a n d) 29 3).toNat = fn := by
  have := b.isLt; have := a.isLt; have := bit_lt n; have := d.isLt
  simp only [fld, packF3, BitVec.toNat_ofNat]; omega

@[simp] theorem packF3_b (maj : Nat) (fn : Nat) (b : BitVec 7) (a : BitVec 7) (n : Bool) (d : BitVec 7) (hm : maj < 64) : fld (packF3 maj fn b a n d) 22 7 = b := by
  have := b.isLt; have := a.isLt; have := bit_lt n; have := d.isLt
  apply BitVec.eq_of_toNat_eq
  simp only [fld, packF3, BitVec.toNat_ofNat]; omega

@[simp] theorem packF3_a (maj : Nat) (fn : Nat) (b : BitVec 7) (a : BitVec 7) (n : Bool) (d : BitVec 7) (hm : maj < 64) : fld (packF3 maj fn b a n d) 15 7 = a := by
  have := b.isLt; have := a.isLt; have := bit_lt n; have := d.isLt
  apply BitVec.eq_of_toNat_eq
  simp only [fld, packF3, BitVec.toNat_ofNat]; omega

@[simp] theorem packF3_n (maj : Nat) (fn : Nat) (b : BitVec 7) (a : BitVec 7) (n : Bool) (d : BitVec 7) (hm : maj < 64) : flag (packF3 maj fn b a n d) 14 = n := by
  have := b.isLt; have := a.isLt; have := bit_lt n; have := d.isLt
  have e : (packF3 maj fn b a n d).toNat / 2 ^ 14 % 2 = bit n := by simp only [packF3, BitVec.toNat_ofNat]; omega
  unfold flag; rw [e]; exact bit_eq_one n

@[simp] theorem packF3_d (maj : Nat) (fn : Nat) (b : BitVec 7) (a : BitVec 7) (n : Bool) (d : BitVec 7) (hm : maj < 64) : fld (packF3 maj fn b a n d) 7 7 = d := by
  have := b.isLt; have := a.isLt; have := bit_lt n; have := d.isLt
  apply BitVec.eq_of_toNat_eq
  simp only [fld, packF3, BitVec.toNat_ofNat]; omega

@[simp] theorem packF3_maj (maj : Nat) (fn : Nat) (b : BitVec 7) (a : BitVec 7) (n : Bool) (d : BitVec 7) (hm : maj < 64) : (fld (packF3 maj fn b a n d) 1 6).toNat = maj := by
  have := b.isLt; have := a.isLt; have := bit_lt n; have := d.isLt
  simp only [fld, packF3, BitVec.toNat_ofNat]; omega

@[simp] theorem packFI_i (maj : Nat) (i : BitVec 7) (fn : Nat) (a : BitVec 7) (n : Bool) (d : BitVec 7) (hm : maj < 64) (hf : fn < 8) : fld (packFI maj i fn a n d) 25 7 = i := by
  have := i.isLt; have := a.isLt; have := bit_lt n; have := d.isLt
  apply BitVec.eq_of_toNat_eq
  simp only [fld, packFI, BitVec.toNat_ofNat]; omega

@[simp] theorem packFI_fn (maj : Nat) (i : BitVec 7) (fn : Nat) (a : BitVec 7) (n : Bool) (d : BitVec 7) (hm : maj < 64) (h : fn < 8) : (fld (packFI maj i fn a n d) 22 3).toNat = fn := by
  have := i.isLt; have := a.isLt; have := bit_lt n; have := d.isLt
  simp only [fld, packFI, BitVec.toNat_ofNat]; omega

@[simp] theorem packFI_a (maj : Nat) (i : BitVec 7) (fn : Nat) (a : BitVec 7) (n : Bool) (d : BitVec 7) (hm : maj < 64) : fld (packFI maj i fn a n d) 15 7 = a := by
  have := i.isLt; have := a.isLt; have := bit_lt n; have := d.isLt
  apply BitVec.eq_of_toNat_eq
  simp only [fld, packFI, BitVec.toNat_ofNat]; omega

@[simp] theorem packFI_n (maj : Nat) (i : BitVec 7) (fn : Nat) (a : BitVec 7) (n : Bool) (d : BitVec 7) (hm : maj < 64) : flag (packFI maj i fn a n d) 14 = n := by
  have := i.isLt; have := a.isLt; have := bit_lt n; have := d.isLt
  have e : (packFI maj i fn a n d).toNat / 2 ^ 14 % 2 = bit n := by simp only [packFI, BitVec.toNat_ofNat]; omega
  unfold flag; rw [e]; exact bit_eq_one n

@[simp] theorem packFI_d (maj : Nat) (i : BitVec 7) (fn : Nat) (a : BitVec 7) (n : Bool) (d : BitVec 7) (hm : maj < 64) : fld (packFI maj i fn a n d) 7 7 = d := by
  have := i.isLt; have := a.isLt; have := bit_lt n; have := d.isLt
  apply BitVec.eq_of_toNat_eq
  simp only [fld, packFI, BitVec.toNat_ofNat]; omega

@[simp] theorem packFI_maj (maj : Nat) (i : BitVec 7) (fn : Nat) (a : BitVec 7) (n : Bool) (d : BitVec 7) (hm : maj < 64) : (fld (packFI maj i fn a n d) 1 6).toNat = maj := by
  have := i.isLt; have := a.isLt; have := bit_lt n; have := d.isLt
  simp only [fld, packFI, BitVec.toNat_ofNat]; omega

@[simp] theorem packFL_i (maj : Nat) (i : BitVec 17) (n : Bool) (d : BitVec 7) (hm : maj < 64) : fld (packFL maj i n d) 15 17 = i := by
  have := i.isLt; have := bit_lt n; have := d.isLt
  apply BitVec.eq_of_toNat_eq
  simp only [fld, packFL, BitVec.toNat_ofNat]; omega

@[simp] theorem packFL_n (maj : Nat) (i : BitVec 17) (n : Bool) (d : BitVec 7) (hm : maj < 64) : flag (packFL maj i n d) 14 = n := by
  have := i.isLt; have := bit_lt n; have := d.isLt
  have e : (packFL maj i n d).toNat / 2 ^ 14 % 2 = bit n := by simp only [packFL, BitVec.toNat_ofNat]; omega
  unfold flag; rw [e]; exact bit_eq_one n

@[simp] theorem packFL_d (maj : Nat) (i : BitVec 17) (n : Bool) (d : BitVec 7) (hm : maj < 64) : fld (packFL maj i n d) 7 7 = d := by
  have := i.isLt; have := bit_lt n; have := d.isLt
  apply BitVec.eq_of_toNat_eq
  simp only [fld, packFL, BitVec.toNat_ofNat]; omega

@[simp] theorem packFL_maj (maj : Nat) (i : BitVec 17) (n : Bool) (d : BitVec 7) (hm : maj < 64) : (fld (packFL maj i n d) 1 6).toNat = maj := by
  have := i.isLt; have := bit_lt n; have := d.isLt
  simp only [fld, packFL, BitVec.toNat_ofNat]; omega

@[simp] theorem packFP_fn (maj : Nat) (fn : Nat) (b : BitVec 7) (a : BitVec 7) (g : Bool) (x : Bool) (p : BitVec 6) (hm : maj < 64) (h : fn < 8) : (fld (packFP maj fn b a g x p) 29 3).toNat = fn := by
  have := b.isLt; have := a.isLt; have := bit_lt g; have := bit_lt x; have := p.isLt
  simp only [fld, packFP, BitVec.toNat_ofNat]; omega

@[simp] theorem packFP_b (maj : Nat) (fn : Nat) (b : BitVec 7) (a : BitVec 7) (g : Bool) (x : Bool) (p : BitVec 6) (hm : maj < 64) : fld (packFP maj fn b a g x p) 22 7 = b := by
  have := b.isLt; have := a.isLt; have := bit_lt g; have := bit_lt x; have := p.isLt
  apply BitVec.eq_of_toNat_eq
  simp only [fld, packFP, BitVec.toNat_ofNat]; omega

@[simp] theorem packFP_a (maj : Nat) (fn : Nat) (b : BitVec 7) (a : BitVec 7) (g : Bool) (x : Bool) (p : BitVec 6) (hm : maj < 64) : fld (packFP maj fn b a g x p) 15 7 = a := by
  have := b.isLt; have := a.isLt; have := bit_lt g; have := bit_lt x; have := p.isLt
  apply BitVec.eq_of_toNat_eq
  simp only [fld, packFP, BitVec.toNat_ofNat]; omega

@[simp] theorem packFP_g (maj : Nat) (fn : Nat) (b : BitVec 7) (a : BitVec 7) (g : Bool) (x : Bool) (p : BitVec 6) (hm : maj < 64) : flag (packFP maj fn b a g x p) 14 = g := by
  have := b.isLt; have := a.isLt; have := bit_lt g; have := bit_lt x; have := p.isLt
  have e : (packFP maj fn b a g x p).toNat / 2 ^ 14 % 2 = bit g := by simp only [packFP, BitVec.toNat_ofNat]; omega
  unfold flag; rw [e]; exact bit_eq_one g

@[simp] theorem packFP_x (maj : Nat) (fn : Nat) (b : BitVec 7) (a : BitVec 7) (g : Bool) (x : Bool) (p : BitVec 6) (hm : maj < 64) : flag (packFP maj fn b a g x p) 13 = x := by
  have := b.isLt; have := a.isLt; have := bit_lt g; have := bit_lt x; have := p.isLt
  have e : (packFP maj fn b a g x p).toNat / 2 ^ 13 % 2 = bit x := by simp only [packFP, BitVec.toNat_ofNat]; omega
  unfold flag; rw [e]; exact bit_eq_one x

@[simp] theorem packFP_p (maj : Nat) (fn : Nat) (b : BitVec 7) (a : BitVec 7) (g : Bool) (x : Bool) (p : BitVec 6) (hm : maj < 64) : fld (packFP maj fn b a g x p) 7 6 = p := by
  have := b.isLt; have := a.isLt; have := bit_lt g; have := bit_lt x; have := p.isLt
  apply BitVec.eq_of_toNat_eq
  simp only [fld, packFP, BitVec.toNat_ofNat]; omega

@[simp] theorem packFP_maj (maj : Nat) (fn : Nat) (b : BitVec 7) (a : BitVec 7) (g : Bool) (x : Bool) (p : BitVec 6) (hm : maj < 64) : (fld (packFP maj fn b a g x p) 1 6).toNat = maj := by
  have := b.isLt; have := a.isLt; have := bit_lt g; have := bit_lt x; have := p.isLt
  simp only [fld, packFP, BitVec.toNat_ofNat]; omega

@[simp] theorem packFM_f1 (maj : Nat) (f1 : Nat) (z : BitVec 3) (o : BitVec 2) (s : BitVec 2) (l : BitVec 2) (a : BitVec 7) (n : Bool) (d : BitVec 7) (hm : maj < 64) (h : f1 < 2) : bit (flag (packFM maj f1 z o s l a n d) 31) = f1 := by
  have := z.isLt; have := o.isLt; have := s.isLt; have := l.isLt; have := a.isLt; have := bit_lt n; have := d.isLt
  have e : (packFM maj f1 z o s l a n d).toNat / 2 ^ 31 % 2 = f1 := by simp only [packFM, BitVec.toNat_ofNat]; omega
  unfold flag; rw [e]; interval_cases f1 <;> rfl

@[simp] theorem packFM_z (maj : Nat) (f1 : Nat) (z : BitVec 3) (o : BitVec 2) (s : BitVec 2) (l : BitVec 2) (a : BitVec 7) (n : Bool) (d : BitVec 7) (hm : maj < 64) : fld (packFM maj f1 z o s l a n d) 28 3 = z := by
  have := z.isLt; have := o.isLt; have := s.isLt; have := l.isLt; have := a.isLt; have := bit_lt n; have := d.isLt
  apply BitVec.eq_of_toNat_eq
  simp only [fld, packFM, BitVec.toNat_ofNat]; omega

@[simp] theorem packFM_o (maj : Nat) (f1 : Nat) (z : BitVec 3) (o : BitVec 2) (s : BitVec 2) (l : BitVec 2) (a : BitVec 7) (n : Bool) (d : BitVec 7) (hm : maj < 64) : fld (packFM maj f1 z o s l a n d) 26 2 = o := by
  have := z.isLt; have := o.isLt; have := s.isLt; have := l.isLt; have := a.isLt; have := bit_lt n; have := d.isLt
  apply BitVec.eq_of_toNat_eq
  simp only [fld, packFM, BitVec.toNat_ofNat]; omega

@[simp] theorem packFM_s (maj : Nat) (f1 : Nat) (z : BitVec 3) (o : BitVec 2) (s : BitVec 2) (l : BitVec 2) (a : BitVec 7) (n : Bool) (d : BitVec 7) (hm : maj < 64) : fld (packFM maj f1 z o s l a n d) 24 2 = s := by
  have := z.isLt; have := o.isLt; have := s.isLt; have := l.isLt; have := a.isLt; have := bit_lt n; have := d.isLt
  apply BitVec.eq_of_toNat_eq
  simp only [fld, packFM, BitVec.toNat_ofNat]; omega

@[simp] theorem packFM_l (maj : Nat) (f1 : Nat) (z : BitVec 3) (o : BitVec 2) (s : BitVec 2) (l : BitVec 2) (a : BitVec 7) (n : Bool) (d : BitVec 7) (hm : maj < 64) : fld (packFM maj f1 z o s l a n d) 22 2 = l := by
  have := z.isLt; have := o.isLt; have := s.isLt; have := l.isLt; have := a.isLt; have := bit_lt n; have := d.isLt
  apply BitVec.eq_of_toNat_eq
  simp only [fld, packFM, BitVec.toNat_ofNat]; omega

@[simp] theorem packFM_a (maj : Nat) (f1 : Nat) (z : BitVec 3) (o : BitVec 2) (s : BitVec 2) (l : BitVec 2) (a : BitVec 7) (n : Bool) (d : BitVec 7) (hm : maj < 64) : fld (packFM maj f1 z o s l a n d) 15 7 = a := by
  have := z.isLt; have := o.isLt; have := s.isLt; have := l.isLt; have := a.isLt; have := bit_lt n; have := d.isLt
  apply BitVec.eq_of_toNat_eq
  simp only [fld, packFM, BitVec.toNat_ofNat]; omega

@[simp] theorem packFM_n (maj : Nat) (f1 : Nat) (z : BitVec 3) (o : BitVec 2) (s : BitVec 2) (l : BitVec 2) (a : BitVec 7) (n : Bool) (d : BitVec 7) (hm : maj < 64) : flag (packFM maj f1 z o s l a n d) 14 = n := by
  have := z.isLt; have := o.isLt; have := s.isLt; have := l.isLt; have := a.isLt; have := bit_lt n; have := d.isLt
  have e : (packFM maj f1 z o s l a n d).toNat / 2 ^ 14 % 2 = bit n := by simp only [packFM, BitVec.toNat_ofNat]; omega
  unfold flag; rw [e]; exact bit_eq_one n

@[simp] theorem packFM_d (maj : Nat) (f1 : Nat) (z : BitVec 3) (o : BitVec 2) (s : BitVec 2) (l : BitVec 2) (a : BitVec 7) (n : Bool) (d : BitVec 7) (hm : maj < 64) : fld (packFM maj f1 z o s l a n d) 7 7 = d := by
  have := z.isLt; have := o.isLt; have := s.isLt; have := l.isLt; have := a.isLt; have := bit_lt n; have := d.isLt
  apply BitVec.eq_of_toNat_eq
  simp only [fld, packFM, BitVec.toNat_ofNat]; omega

@[simp] theorem packFM_maj (maj : Nat) (f1 : Nat) (z : BitVec 3) (o : BitVec 2) (s : BitVec 2) (l : BitVec 2) (a : BitVec 7) (n : Bool) (d : BitVec 7) (hm : maj < 64) : (fld (packFM maj f1 z o s l a n d) 1 6).toNat = maj := by
  have := z.isLt; have := o.isLt; have := s.isLt; have := l.isLt; have := a.isLt; have := bit_lt n; have := d.isLt
  simp only [fld, packFM, BitVec.toNat_ofNat]; omega

@[simp] theorem packFA_op (maj : Nat) (op : Nat) (o : BitVec 2) (s : BitVec 2) (l : BitVec 2) (a : BitVec 7) (n : Bool) (d : BitVec 7) (hm : maj < 64) (h : op < 16) : (fld (packFA maj op o s l a n d) 28 4).toNat = op := by
  have := o.isLt; have := s.isLt; have := l.isLt; have := a.isLt; have := bit_lt n; have := d.isLt
  simp only [fld, packFA, BitVec.toNat_ofNat]; omega

@[simp] theorem packFA_o (maj : Nat) (op : Nat) (o : BitVec 2) (s : BitVec 2) (l : BitVec 2) (a : BitVec 7) (n : Bool) (d : BitVec 7) (hm : maj < 64) : fld (packFA maj op o s l a n d) 26 2 = o := by
  have := o.isLt; have := s.isLt; have := l.isLt; have := a.isLt; have := bit_lt n; have := d.isLt
  apply BitVec.eq_of_toNat_eq
  simp only [fld, packFA, BitVec.toNat_ofNat]; omega

@[simp] theorem packFA_s (maj : Nat) (op : Nat) (o : BitVec 2) (s : BitVec 2) (l : BitVec 2) (a : BitVec 7) (n : Bool) (d : BitVec 7) (hm : maj < 64) : fld (packFA maj op o s l a n d) 24 2 = s := by
  have := o.isLt; have := s.isLt; have := l.isLt; have := a.isLt; have := bit_lt n; have := d.isLt
  apply BitVec.eq_of_toNat_eq
  simp only [fld, packFA, BitVec.toNat_ofNat]; omega

@[simp] theorem packFA_l (maj : Nat) (op : Nat) (o : BitVec 2) (s : BitVec 2) (l : BitVec 2) (a : BitVec 7) (n : Bool) (d : BitVec 7) (hm : maj < 64) : fld (packFA maj op o s l a n d) 22 2 = l := by
  have := o.isLt; have := s.isLt; have := l.isLt; have := a.isLt; have := bit_lt n; have := d.isLt
  apply BitVec.eq_of_toNat_eq
  simp only [fld, packFA, BitVec.toNat_ofNat]; omega

@[simp] theorem packFA_a (maj : Nat) (op : Nat) (o : BitVec 2) (s : BitVec 2) (l : BitVec 2) (a : BitVec 7) (n : Bool) (d : BitVec 7) (hm : maj < 64) : fld (packFA maj op o s l a n d) 15 7 = a := by
  have := o.isLt; have := s.isLt; have := l.isLt; have := a.isLt; have := bit_lt n; have := d.isLt
  apply BitVec.eq_of_toNat_eq
  simp only [fld, packFA, BitVec.toNat_ofNat]; omega

@[simp] theorem packFA_n (maj : Nat) (op : Nat) (o : BitVec 2) (s : BitVec 2) (l : BitVec 2) (a : BitVec 7) (n : Bool) (d : BitVec 7) (hm : maj < 64) : flag (packFA maj op o s l a n d) 14 = n := by
  have := o.isLt; have := s.isLt; have := l.isLt; have := a.isLt; have := bit_lt n; have := d.isLt
  have e : (packFA maj op o s l a n d).toNat / 2 ^ 14 % 2 = bit n := by simp only [packFA, BitVec.toNat_ofNat]; omega
  unfold flag; rw [e]; exact bit_eq_one n

@[simp] theorem packFA_d (maj : Nat) (op : Nat) (o : BitVec 2) (s : BitVec 2) (l : BitVec 2) (a : BitVec 7) (n : Bool) (d : BitVec 7) (hm : maj < 64) : fld (packFA maj op o s l a n d) 7 7 = d := by
  have := o.isLt; have := s.isLt; have := l.isLt; have := a.isLt; have := bit_lt n; have := d.isLt
  apply BitVec.eq_of_toNat_eq
  simp only [fld, packFA, BitVec.toNat_ofNat]; omega

@[simp] theorem packFA_maj (maj : Nat) (op : Nat) (o : BitVec 2) (s : BitVec 2) (l : BitVec 2) (a : BitVec 7) (n : Bool) (d : BitVec 7) (hm : maj < 64) : (fld (packFA maj op o s l a n d) 1 6).toNat = maj := by
  have := o.isLt; have := s.isLt; have := l.isLt; have := a.isLt; have := bit_lt n; have := d.isLt
  simp only [fld, packFA, BitVec.toNat_ofNat]; omega

@[simp] theorem packFLM_i (maj : Nat) (i : BitVec 7) (z : BitVec 3) (a : BitVec 7) (n : Bool) (d : BitVec 7) (hm : maj < 64) : fld (packFLM maj i z a n d) 25 7 = i := by
  have := i.isLt; have := z.isLt; have := a.isLt; have := bit_lt n; have := d.isLt
  apply BitVec.eq_of_toNat_eq
  simp only [fld, packFLM, BitVec.toNat_ofNat]; omega

@[simp] theorem packFLM_z (maj : Nat) (i : BitVec 7) (z : BitVec 3) (a : BitVec 7) (n : Bool) (d : BitVec 7) (hm : maj < 64) : fld (packFLM maj i z a n d) 22 3 = z := by
  have := i.isLt; have := z.isLt; have := a.isLt; have := bit_lt n; have := d.isLt
  apply BitVec.eq_of_toNat_eq
  simp only [fld, packFLM, BitVec.toNat_ofNat]; omega

@[simp] theorem packFLM_a (maj : Nat) (i : BitVec 7) (z : BitVec 3) (a : BitVec 7) (n : Bool) (d : BitVec 7) (hm : maj < 64) : fld (packFLM maj i z a n d) 15 7 = a := by
  have := i.isLt; have := z.isLt; have := a.isLt; have := bit_lt n; have := d.isLt
  apply BitVec.eq_of_toNat_eq
  simp only [fld, packFLM, BitVec.toNat_ofNat]; omega

@[simp] theorem packFLM_n (maj : Nat) (i : BitVec 7) (z : BitVec 3) (a : BitVec 7) (n : Bool) (d : BitVec 7) (hm : maj < 64) : flag (packFLM maj i z a n d) 14 = n := by
  have := i.isLt; have := z.isLt; have := a.isLt; have := bit_lt n; have := d.isLt
  have e : (packFLM maj i z a n d).toNat / 2 ^ 14 % 2 = bit n := by simp only [packFLM, BitVec.toNat_ofNat]; omega
  unfold flag; rw [e]; exact bit_eq_one n

@[simp] theorem packFLM_d (maj : Nat) (i : BitVec 7) (z : BitVec 3) (a : BitVec 7) (n : Bool) (d : BitVec 7) (hm : maj < 64) : fld (packFLM maj i z a n d) 7 7 = d := by
  have := i.isLt; have := z.isLt; have := a.isLt; have := bit_lt n; have := d.isLt
  apply BitVec.eq_of_toNat_eq
  simp only [fld, packFLM, BitVec.toNat_ofNat]; omega

@[simp] theorem packFLM_maj (maj : Nat) (i : BitVec 7) (z : BitVec 3) (a : BitVec 7) (n : Bool) (d : BitVec 7) (hm : maj < 64) : (fld (packFLM maj i z a n d) 1 6).toNat = maj := by
  have := i.isLt; have := z.isLt; have := a.isLt; have := bit_lt n; have := d.isLt
  simp only [fld, packFLM, BitVec.toNat_ofNat]; omega

@[simp] theorem packFC_r (maj : Nat) (r : BitVec 2) (s : BitVec 4) (f : BitVec 4) (a : BitVec 7) (n : Bool) (d : BitVec 7) (hm : maj < 64) : fld (packFC maj r s f a n d) 30 2 = r := by
  have := r.isLt; have := s.isLt; have := f.isLt; have := a.isLt; have := bit_lt n; have := d.isLt
  apply BitVec.eq_of_toNat_eq
  simp only [fld, packFC, BitVec.toNat_ofNat]; omega

@[simp] theorem packFC_s (maj : Nat) (r : BitVec 2) (s : BitVec 4) (f : BitVec 4) (a : BitVec 7) (n : Bool) (d : BitVec 7) (hm : maj < 64) : fld (packFC maj r s f a n d) 26 4 = s := by
  have := r.isLt; have := s.isLt; have := f.isLt; have := a.isLt; have := bit_lt n; have := d.isLt
  apply BitVec.eq_of_toNat_eq
  simp only [fld, packFC, BitVec.toNat_ofNat]; omega

@[simp] theorem packFC_f (maj : Nat) (r : BitVec 2) (s : BitVec 4) (f : BitVec 4) (a : BitVec 7) (n : Bool) (d : BitVec 7) (hm : maj < 64) : fld (packFC maj r s f a n d) 22 4 = f := by
  have := r.isLt; have := s.isLt; have := f.isLt; have := a.isLt; have := bit_lt n; have := d.isLt
  apply BitVec.eq_of_toNat_eq
  simp only [fld, packFC, BitVec.toNat_ofNat]; omega

@[simp] theorem packFC_a (maj : Nat) (r : BitVec 2) (s : BitVec 4) (f : BitVec 4) (a : BitVec 7) (n : Bool) (d : BitVec 7) (hm : maj < 64) : fld (packFC maj r s f a n d) 15 7 = a := by
  have := r.isLt; have := s.isLt; have := f.isLt; have := a.isLt; have := bit_lt n; have := d.isLt
  apply BitVec.eq_of_toNat_eq
  simp only [fld, packFC, BitVec.toNat_ofNat]; omega

@[simp] theorem packFC_n (maj : Nat) (r : BitVec 2) (s : BitVec 4) (f : BitVec 4) (a : BitVec 7) (n : Bool) (d : BitVec 7) (hm : maj < 64) : flag (packFC maj r s f a n d) 14 = n := by
  have := r.isLt; have := s.isLt; have := f.isLt; have := a.isLt; have := bit_lt n; have := d.isLt
  have e : (packFC maj r s f a n d).toNat / 2 ^ 14 % 2 = bit n := by simp only [packFC, BitVec.toNat_ofNat]; omega
  unfold flag; rw [e]; exact bit_eq_one n

@[simp] theorem packFC_d (maj : Nat) (r : BitVec 2) (s : BitVec 4) (f : BitVec 4) (a : BitVec 7) (n : Bool) (d : BitVec 7) (hm : maj < 64) : fld (packFC maj r s f a n d) 7 7 = d := by
  have := r.isLt; have := s.isLt; have := f.isLt; have := a.isLt; have := bit_lt n; have := d.isLt
  apply BitVec.eq_of_toNat_eq
  simp only [fld, packFC, BitVec.toNat_ofNat]; omega

@[simp] theorem packFC_maj (maj : Nat) (r : BitVec 2) (s : BitVec 4) (f : BitVec 4) (a : BitVec 7) (n : Bool) (d : BitVec 7) (hm : maj < 64) : (fld (packFC maj r s f a n d) 1 6).toNat = maj := by
  have := r.isLt; have := s.isLt; have := f.isLt; have := a.isLt; have := bit_lt n; have := d.isLt
  simp only [fld, packFC, BitVec.toNat_ofNat]; omega

@[simp] theorem packFSH_k (maj : Nat) (k : BitVec 3) (o : BitVec 4) (m : BitVec 3) (a : BitVec 7) (n : Bool) (d : BitVec 7) (hm : maj < 64) : fld (packFSH maj k o m a n d) 29 3 = k := by
  have := k.isLt; have := o.isLt; have := m.isLt; have := a.isLt; have := bit_lt n; have := d.isLt
  apply BitVec.eq_of_toNat_eq
  simp only [fld, packFSH, BitVec.toNat_ofNat]; omega

@[simp] theorem packFSH_o (maj : Nat) (k : BitVec 3) (o : BitVec 4) (m : BitVec 3) (a : BitVec 7) (n : Bool) (d : BitVec 7) (hm : maj < 64) : fld (packFSH maj k o m a n d) 25 4 = o := by
  have := k.isLt; have := o.isLt; have := m.isLt; have := a.isLt; have := bit_lt n; have := d.isLt
  apply BitVec.eq_of_toNat_eq
  simp only [fld, packFSH, BitVec.toNat_ofNat]; omega

@[simp] theorem packFSH_m (maj : Nat) (k : BitVec 3) (o : BitVec 4) (m : BitVec 3) (a : BitVec 7) (n : Bool) (d : BitVec 7) (hm : maj < 64) : fld (packFSH maj k o m a n d) 22 3 = m := by
  have := k.isLt; have := o.isLt; have := m.isLt; have := a.isLt; have := bit_lt n; have := d.isLt
  apply BitVec.eq_of_toNat_eq
  simp only [fld, packFSH, BitVec.toNat_ofNat]; omega

@[simp] theorem packFSH_a (maj : Nat) (k : BitVec 3) (o : BitVec 4) (m : BitVec 3) (a : BitVec 7) (n : Bool) (d : BitVec 7) (hm : maj < 64) : fld (packFSH maj k o m a n d) 15 7 = a := by
  have := k.isLt; have := o.isLt; have := m.isLt; have := a.isLt; have := bit_lt n; have := d.isLt
  apply BitVec.eq_of_toNat_eq
  simp only [fld, packFSH, BitVec.toNat_ofNat]; omega

@[simp] theorem packFSH_n (maj : Nat) (k : BitVec 3) (o : BitVec 4) (m : BitVec 3) (a : BitVec 7) (n : Bool) (d : BitVec 7) (hm : maj < 64) : flag (packFSH maj k o m a n d) 14 = n := by
  have := k.isLt; have := o.isLt; have := m.isLt; have := a.isLt; have := bit_lt n; have := d.isLt
  have e : (packFSH maj k o m a n d).toNat / 2 ^ 14 % 2 = bit n := by simp only [packFSH, BitVec.toNat_ofNat]; omega
  unfold flag; rw [e]; exact bit_eq_one n

@[simp] theorem packFSH_d (maj : Nat) (k : BitVec 3) (o : BitVec 4) (m : BitVec 3) (a : BitVec 7) (n : Bool) (d : BitVec 7) (hm : maj < 64) : fld (packFSH maj k o m a n d) 7 7 = d := by
  have := k.isLt; have := o.isLt; have := m.isLt; have := a.isLt; have := bit_lt n; have := d.isLt
  apply BitVec.eq_of_toNat_eq
  simp only [fld, packFSH, BitVec.toNat_ofNat]; omega

@[simp] theorem packFSH_maj (maj : Nat) (k : BitVec 3) (o : BitVec 4) (m : BitVec 3) (a : BitVec 7) (n : Bool) (d : BitVec 7) (hm : maj < 64) : (fld (packFSH maj k o m a n d) 1 6).toNat = maj := by
  have := k.isLt; have := o.isLt; have := m.isLt; have := a.isLt; have := bit_lt n; have := d.isLt
  simp only [fld, packFSH, BitVec.toNat_ofNat]; omega

@[simp] theorem packFF_zz (maj : Nat) (b : BitVec 4) (a : BitVec 4) (o : BitVec 2) (s : BitVec 2) (fn : Nat) (hm : maj < 64) (hf : fn < 8) : fld (packFF maj b a o s fn) 22 10 = 0#10 := by
  have := b.isLt; have := a.isLt; have := o.isLt; have := s.isLt
  apply BitVec.eq_of_toNat_eq
  simp only [fld, packFF, BitVec.toNat_ofNat]; omega

@[simp] theorem packFF_b (maj : Nat) (b : BitVec 4) (a : BitVec 4) (o : BitVec 2) (s : BitVec 2) (fn : Nat) (hm : maj < 64) (hf : fn < 8) : fld (packFF maj b a o s fn) 18 4 = b := by
  have := b.isLt; have := a.isLt; have := o.isLt; have := s.isLt
  apply BitVec.eq_of_toNat_eq
  simp only [fld, packFF, BitVec.toNat_ofNat]; omega

@[simp] theorem packFF_a (maj : Nat) (b : BitVec 4) (a : BitVec 4) (o : BitVec 2) (s : BitVec 2) (fn : Nat) (hm : maj < 64) (hf : fn < 8) : fld (packFF maj b a o s fn) 14 4 = a := by
  have := b.isLt; have := a.isLt; have := o.isLt; have := s.isLt
  apply BitVec.eq_of_toNat_eq
  simp only [fld, packFF, BitVec.toNat_ofNat]; omega

@[simp] theorem packFF_o (maj : Nat) (b : BitVec 4) (a : BitVec 4) (o : BitVec 2) (s : BitVec 2) (fn : Nat) (hm : maj < 64) (hf : fn < 8) : fld (packFF maj b a o s fn) 12 2 = o := by
  have := b.isLt; have := a.isLt; have := o.isLt; have := s.isLt
  apply BitVec.eq_of_toNat_eq
  simp only [fld, packFF, BitVec.toNat_ofNat]; omega

@[simp] theorem packFF_s (maj : Nat) (b : BitVec 4) (a : BitVec 4) (o : BitVec 2) (s : BitVec 2) (fn : Nat) (hm : maj < 64) (hf : fn < 8) : fld (packFF maj b a o s fn) 10 2 = s := by
  have := b.isLt; have := a.isLt; have := o.isLt; have := s.isLt
  apply BitVec.eq_of_toNat_eq
  simp only [fld, packFF, BitVec.toNat_ofNat]; omega

@[simp] theorem packFF_fn (maj : Nat) (b : BitVec 4) (a : BitVec 4) (o : BitVec 2) (s : BitVec 2) (fn : Nat) (hm : maj < 64) (h : fn < 8) : (fld (packFF maj b a o s fn) 7 3).toNat = fn := by
  have := b.isLt; have := a.isLt; have := o.isLt; have := s.isLt
  simp only [fld, packFF, BitVec.toNat_ofNat]; omega

@[simp] theorem packFF_maj (maj : Nat) (b : BitVec 4) (a : BitVec 4) (o : BitVec 2) (s : BitVec 2) (fn : Nat) (hm : maj < 64) : (fld (packFF maj b a o s fn) 1 6).toNat = maj := by
  have := b.isLt; have := a.isLt; have := o.isLt; have := s.isLt
  simp only [fld, packFF, BitVec.toNat_ofNat]; omega

@[simp] theorem packFB_i (maj : Nat) (i : BitVec 17) (l : Bool) (g : Bool) (p : BitVec 6) (hm : maj < 64) : fld (packFB maj i l g p) 15 17 = i := by
  have := i.isLt; have := bit_lt l; have := bit_lt g; have := p.isLt
  apply BitVec.eq_of_toNat_eq
  simp only [fld, packFB, BitVec.toNat_ofNat]; omega

@[simp] theorem packFB_l (maj : Nat) (i : BitVec 17) (l : Bool) (g : Bool) (p : BitVec 6) (hm : maj < 64) : flag (packFB maj i l g p) 14 = l := by
  have := i.isLt; have := bit_lt l; have := bit_lt g; have := p.isLt
  have e : (packFB maj i l g p).toNat / 2 ^ 14 % 2 = bit l := by simp only [packFB, BitVec.toNat_ofNat]; omega
  unfold flag; rw [e]; exact bit_eq_one l

@[simp] theorem packFB_g (maj : Nat) (i : BitVec 17) (l : Bool) (g : Bool) (p : BitVec 6) (hm : maj < 64) : flag (packFB maj i l g p) 13 = g := by
  have := i.isLt; have := bit_lt l; have := bit_lt g; have := p.isLt
  have e : (packFB maj i l g p).toNat / 2 ^ 13 % 2 = bit g := by simp only [packFB, BitVec.toNat_ofNat]; omega
  unfold flag; rw [e]; exact bit_eq_one g

@[simp] theorem packFB_p (maj : Nat) (i : BitVec 17) (l : Bool) (g : Bool) (p : BitVec 6) (hm : maj < 64) : fld (packFB maj i l g p) 7 6 = p := by
  have := i.isLt; have := bit_lt l; have := bit_lt g; have := p.isLt
  apply BitVec.eq_of_toNat_eq
  simp only [fld, packFB, BitVec.toNat_ofNat]; omega

@[simp] theorem packFB_maj (maj : Nat) (i : BitVec 17) (l : Bool) (g : Bool) (p : BitVec 6) (hm : maj < 64) : (fld (packFB maj i l g p) 1 6).toNat = maj := by
  have := i.isLt; have := bit_lt l; have := bit_lt g; have := p.isLt
  simp only [fld, packFB, BitVec.toNat_ofNat]; omega

@[simp] theorem packFS_zz (maj : Nat) (y : Bool) (n : BitVec 2) (c : BitVec 7) (b : BitVec 7) (a : BitVec 7) (hm : maj < 64) : flag (packFS maj y n c b a) 31 = false := by
  have := bit_lt y; have := n.isLt; have := c.isLt; have := b.isLt; have := a.isLt
  have e : (packFS maj y n c b a).toNat / 2 ^ 31 % 2 = 0 := by simp only [packFS, BitVec.toNat_ofNat]; omega
  unfold flag; rw [e]; rfl

@[simp] theorem packFS_y (maj : Nat) (y : Bool) (n : BitVec 2) (c : BitVec 7) (b : BitVec 7) (a : BitVec 7) (hm : maj < 64) : flag (packFS maj y n c b a) 30 = y := by
  have := bit_lt y; have := n.isLt; have := c.isLt; have := b.isLt; have := a.isLt
  have e : (packFS maj y n c b a).toNat / 2 ^ 30 % 2 = bit y := by simp only [packFS, BitVec.toNat_ofNat]; omega
  unfold flag; rw [e]; exact bit_eq_one y

@[simp] theorem packFS_n (maj : Nat) (y : Bool) (n : BitVec 2) (c : BitVec 7) (b : BitVec 7) (a : BitVec 7) (hm : maj < 64) : fld (packFS maj y n c b a) 28 2 = n := by
  have := bit_lt y; have := n.isLt; have := c.isLt; have := b.isLt; have := a.isLt
  apply BitVec.eq_of_toNat_eq
  simp only [fld, packFS, BitVec.toNat_ofNat]; omega

@[simp] theorem packFS_c (maj : Nat) (y : Bool) (n : BitVec 2) (c : BitVec 7) (b : BitVec 7) (a : BitVec 7) (hm : maj < 64) : fld (packFS maj y n c b a) 21 7 = c := by
  have := bit_lt y; have := n.isLt; have := c.isLt; have := b.isLt; have := a.isLt
  apply BitVec.eq_of_toNat_eq
  simp only [fld, packFS, BitVec.toNat_ofNat]; omega

@[simp] theorem packFS_b (maj : Nat) (y : Bool) (n : BitVec 2) (c : BitVec 7) (b : BitVec 7) (a : BitVec 7) (hm : maj < 64) : fld (packFS maj y n c b a) 14 7 = b := by
  have := bit_lt y; have := n.isLt; have := c.isLt; have := b.isLt; have := a.isLt
  apply BitVec.eq_of_toNat_eq
  simp only [fld, packFS, BitVec.toNat_ofNat]; omega

@[simp] theorem packFS_a (maj : Nat) (y : Bool) (n : BitVec 2) (c : BitVec 7) (b : BitVec 7) (a : BitVec 7) (hm : maj < 64) : fld (packFS maj y n c b a) 7 7 = a := by
  have := bit_lt y; have := n.isLt; have := c.isLt; have := b.isLt; have := a.isLt
  apply BitVec.eq_of_toNat_eq
  simp only [fld, packFS, BitVec.toNat_ofNat]; omega

@[simp] theorem packFS_maj (maj : Nat) (y : Bool) (n : BitVec 2) (c : BitVec 7) (b : BitVec 7) (a : BitVec 7) (hm : maj < 64) : (fld (packFS maj y n c b a) 1 6).toNat = maj := by
  have := bit_lt y; have := n.isLt; have := c.isLt; have := b.isLt; have := a.isLt
  simp only [fld, packFS, BitVec.toNat_ofNat]; omega

@[simp] theorem packFX_p (maj : Nat) (p : BitVec 25) (hm : maj < 64) : fld (packFX maj p) 7 25 = p := by
  have := p.isLt
  apply BitVec.eq_of_toNat_eq
  simp only [fld, packFX, BitVec.toNat_ofNat]; omega

@[simp] theorem packFX_maj (maj : Nat) (p : BitVec 25) (hm : maj < 64) : (fld (packFX maj p) 1 6).toNat = maj := by
  have := p.isLt
  simp only [fld, packFX, BitVec.toNat_ofNat]; omega

theorem pack16_op (op : Nat) (b : BitVec 6) (d : BitVec 5) (h : op < 16) :
    (pack16 op b d).toNat / 2 % 16 = op := by
  have := b.isLt; have := d.isLt
  simp only [pack16, BitVec.toNat_ofNat]; omega

theorem pack16_b (op : Nat) (b : BitVec 6) (d : BitVec 5) (h : op < 16) :
    BitVec.ofNat 6 ((pack16 op b d).toNat / 2 ^ 10) = b := by
  have := b.isLt; have := d.isLt
  apply BitVec.eq_of_toNat_eq
  simp only [pack16, BitVec.toNat_ofNat]; omega

theorem pack16_d (op : Nat) (b : BitVec 6) (d : BitVec 5) (h : op < 16) :
    BitVec.ofNat 5 ((pack16 op b d).toNat / 2 ^ 5) = d := by
  have := b.isLt; have := d.isLt
  apply BitVec.eq_of_toNat_eq
  simp only [pack16, BitVec.toNat_ofNat]; omega

end Sys2Proof.Laws
end

