-- ==== Sys2Proof/Laws/Dispatch.lean ====
section
/-! SUPPORT. One equation of exec for each constructor of Instr, so that no proof unfolds the dispatch. -/
namespace Sys2Proof.Machine

set_option Elab.async false

@[simp] theorem exec_iadd (b : BitVec 7) (a : BitVec 7) (n : Bool) (d : BitVec 7) (s : State) : exec (.iadd b a n d) s = execIadd b a n d s := by simp only [exec]
@[simp] theorem exec_isub (b : BitVec 7) (a : BitVec 7) (n : Bool) (d : BitVec 7) (s : State) : exec (.isub b a n d) s = execIsub b a n d s := by simp only [exec]
@[simp] theorem exec_imul (b : BitVec 7) (a : BitVec 7) (n : Bool) (d : BitVec 7) (s : State) : exec (.imul b a n d) s = execImul b a n d s := by simp only [exec]
@[simp] theorem exec_imulh (b : BitVec 7) (a : BitVec 7) (n : Bool) (d : BitVec 7) (s : State) : exec (.imulh b a n d) s = execImulh b a n d s := by simp only [exec]
@[simp] theorem exec_imulhu (b : BitVec 7) (a : BitVec 7) (n : Bool) (d : BitVec 7) (s : State) : exec (.imulhu b a n d) s = execImulhu b a n d s := by simp only [exec]
@[simp] theorem exec_iadds (b : BitVec 7) (a : BitVec 7) (n : Bool) (d : BitVec 7) (s : State) : exec (.iadds b a n d) s = execIadds b a n d s := by simp only [exec]
@[simp] theorem exec_isubs (b : BitVec 7) (a : BitVec 7) (n : Bool) (d : BitVec 7) (s : State) : exec (.isubs b a n d) s = execIsubs b a n d s := by simp only [exec]
@[simp] theorem exec_iabsd (b : BitVec 7) (a : BitVec 7) (n : Bool) (d : BitVec 7) (s : State) : exec (.iabsd b a n d) s = execIabsd b a n d s := by simp only [exec]
@[simp] theorem exec_iaddi (i1 : BitVec 7) (a : BitVec 7) (n : Bool) (d : BitVec 7) (s : State) : exec (.iaddi i1 a n d) s = execIaddi i1 a n d s := by simp only [exec]
@[simp] theorem exec_imuli (i1 : BitVec 7) (a : BitVec 7) (n : Bool) (d : BitVec 7) (s : State) : exec (.imuli i1 a n d) s = execImuli i1 a n d s := by simp only [exec]
@[simp] theorem exec_andi (i1 : BitVec 7) (a : BitVec 7) (n : Bool) (d : BitVec 7) (s : State) : exec (.andi i1 a n d) s = execAndi i1 a n d s := by simp only [exec]
@[simp] theorem exec_ori (i1 : BitVec 7) (a : BitVec 7) (n : Bool) (d : BitVec 7) (s : State) : exec (.ori i1 a n d) s = execOri i1 a n d s := by simp only [exec]
@[simp] theorem exec_xori (i1 : BitVec 7) (a : BitVec 7) (n : Bool) (d : BitVec 7) (s : State) : exec (.xori i1 a n d) s = execXori i1 a n d s := by simp only [exec]
@[simp] theorem exec_shli (i1 : BitVec 7) (a : BitVec 7) (n : Bool) (d : BitVec 7) (s : State) : exec (.shli i1 a n d) s = execShli i1 a n d s := by simp only [exec]
@[simp] theorem exec_shri (i1 : BitVec 7) (a : BitVec 7) (n : Bool) (d : BitVec 7) (s : State) : exec (.shri i1 a n d) s = execShri i1 a n d s := by simp only [exec]
@[simp] theorem exec_sari (i1 : BitVec 7) (a : BitVec 7) (n : Bool) (d : BitVec 7) (s : State) : exec (.sari i1 a n d) s = execSari i1 a n d s := by simp only [exec]
@[simp] theorem exec_and (b : BitVec 7) (a : BitVec 7) (n : Bool) (d : BitVec 7) (s : State) : exec (.and b a n d) s = execAnd b a n d s := by simp only [exec]
@[simp] theorem exec_or (b : BitVec 7) (a : BitVec 7) (n : Bool) (d : BitVec 7) (s : State) : exec (.or b a n d) s = execOr b a n d s := by simp only [exec]
@[simp] theorem exec_xor (b : BitVec 7) (a : BitVec 7) (n : Bool) (d : BitVec 7) (s : State) : exec (.xor b a n d) s = execXor b a n d s := by simp only [exec]
@[simp] theorem exec_andn (b : BitVec 7) (a : BitVec 7) (n : Bool) (d : BitVec 7) (s : State) : exec (.andn b a n d) s = execAndn b a n d s := by simp only [exec]
@[simp] theorem exec_orn (b : BitVec 7) (a : BitVec 7) (n : Bool) (d : BitVec 7) (s : State) : exec (.orn b a n d) s = execOrn b a n d s := by simp only [exec]
@[simp] theorem exec_xnor (b : BitVec 7) (a : BitVec 7) (n : Bool) (d : BitVec 7) (s : State) : exec (.xnor b a n d) s = execXnor b a n d s := by simp only [exec]
@[simp] theorem exec_shl (b : BitVec 7) (a : BitVec 7) (n : Bool) (d : BitVec 7) (s : State) : exec (.shl b a n d) s = execShl b a n d s := by simp only [exec]
@[simp] theorem exec_shr (b : BitVec 7) (a : BitVec 7) (n : Bool) (d : BitVec 7) (s : State) : exec (.shr b a n d) s = execShr b a n d s := by simp only [exec]
@[simp] theorem exec_sar (b : BitVec 7) (a : BitVec 7) (n : Bool) (d : BitVec 7) (s : State) : exec (.sar b a n d) s = execSar b a n d s := by simp only [exec]
@[simp] theorem exec_rotl (b : BitVec 7) (a : BitVec 7) (n : Bool) (d : BitVec 7) (s : State) : exec (.rotl b a n d) s = execRotl b a n d s := by simp only [exec]
@[simp] theorem exec_imin (b : BitVec 7) (a : BitVec 7) (n : Bool) (d : BitVec 7) (s : State) : exec (.imin b a n d) s = execImin b a n d s := by simp only [exec]
@[simp] theorem exec_imax (b : BitVec 7) (a : BitVec 7) (n : Bool) (d : BitVec 7) (s : State) : exec (.imax b a n d) s = execImax b a n d s := by simp only [exec]
@[simp] theorem exec_umin (b : BitVec 7) (a : BitVec 7) (n : Bool) (d : BitVec 7) (s : State) : exec (.umin b a n d) s = execUmin b a n d s := by simp only [exec]
@[simp] theorem exec_umax (b : BitVec 7) (a : BitVec 7) (n : Bool) (d : BitVec 7) (s : State) : exec (.umax b a n d) s = execUmax b a n d s := by simp only [exec]
@[simp] theorem exec_iaddc (b : BitVec 7) (a : BitVec 7) (n : Bool) (d : BitVec 7) (s : State) : exec (.iaddc b a n d) s = execIaddc b a n d s := by simp only [exec]
@[simp] theorem exec_isubb (b : BitVec 7) (a : BitVec 7) (n : Bool) (d : BitVec 7) (s : State) : exec (.isubb b a n d) s = execIsubb b a n d s := by simp only [exec]
@[simp] theorem exec_iabs (a : BitVec 7) (n : Bool) (d : BitVec 7) (s : State) : exec (.iabs a n d) s = execIabs a n d s := by simp only [exec]
@[simp] theorem exec_ineg (a : BitVec 7) (n : Bool) (d : BitVec 7) (s : State) : exec (.ineg a n d) s = execIneg a n d s := by simp only [exec]
@[simp] theorem exec_not (a : BitVec 7) (n : Bool) (d : BitVec 7) (s : State) : exec (.not a n d) s = execNot a n d s := by simp only [exec]
@[simp] theorem exec_popc (a : BitVec 7) (n : Bool) (d : BitVec 7) (s : State) : exec (.popc a n d) s = execPopc a n d s := by simp only [exec]
@[simp] theorem exec_clz (a : BitVec 7) (n : Bool) (d : BitVec 7) (s : State) : exec (.clz a n d) s = execClz a n d s := by simp only [exec]
@[simp] theorem exec_ctz (a : BitVec 7) (n : Bool) (d : BitVec 7) (s : State) : exec (.ctz a n d) s = execCtz a n d s := by simp only [exec]
@[simp] theorem exec_brev (a : BitVec 7) (n : Bool) (d : BitVec 7) (s : State) : exec (.brev a n d) s = execBrev a n d s := by simp only [exec]
@[simp] theorem exec_bswap (a : BitVec 7) (n : Bool) (d : BitVec 7) (s : State) : exec (.bswap a n d) s = execBswap a n d s := by simp only [exec]
@[simp] theorem exec_bfx (b : BitVec 7) (a : BitVec 7) (n : Bool) (d : BitVec 7) (s : State) : exec (.bfx b a n d) s = execBfx b a n d s := by simp only [exec]
@[simp] theorem exec_bfxu (b : BitVec 7) (a : BitVec 7) (n : Bool) (d : BitVec 7) (s : State) : exec (.bfxu b a n d) s = execBfxu b a n d s := by simp only [exec]
@[simp] theorem exec_bfi (b : BitVec 7) (a : BitVec 7) (n : Bool) (d : BitVec 7) (s : State) : exec (.bfi b a n d) s = execBfi b a n d s := by simp only [exec]
@[simp] theorem exec_fshl (b : BitVec 7) (a : BitVec 7) (n : Bool) (d : BitVec 7) (s : State) : exec (.fshl b a n d) s = execFshl b a n d s := by simp only [exec]
@[simp] theorem exec_fshr (b : BitVec 7) (a : BitVec 7) (n : Bool) (d : BitVec 7) (s : State) : exec (.fshr b a n d) s = execFshr b a n d s := by simp only [exec]
@[simp] theorem exec_lea (b : BitVec 7) (a : BitVec 7) (n : Bool) (d : BitVec 7) (s : State) : exec (.lea b a n d) s = execLea b a n d s := by simp only [exec]
@[simp] theorem exec_sel (b : BitVec 7) (a : BitVec 7) (n : Bool) (d : BitVec 7) (s : State) : exec (.sel b a n d) s = execSel b a n d s := by simp only [exec]
@[simp] theorem exec_imad (b : BitVec 7) (a : BitVec 7) (n : Bool) (d : BitVec 7) (s : State) : exec (.imad b a n d) s = execImad b a n d s := by simp only [exec]
@[simp] theorem exec_mov (a : BitVec 7) (n : Bool) (d : BitVec 7) (s : State) : exec (.mov a n d) s = execMov a n d s := by simp only [exec]
@[simp] theorem exec_sprd (a : BitVec 7) (n : Bool) (d : BitVec 7) (s : State) : exec (.sprd a n d) s = execSprd a n d s := by simp only [exec]
@[simp] theorem exec_spwr (b : BitVec 7) (a : BitVec 7) (s : State) : exec (.spwr b a) s = execSpwr b a s := by simp only [exec]
@[simp] theorem exec_rdlane (b : BitVec 7) (a : BitVec 7) (n : Bool) (d : BitVec 7) (s : State) : exec (.rdlane b a n d) s = execRdlane b a n d s := by simp only [exec]
@[simp] theorem exec_wrlane (b : BitVec 7) (a : BitVec 7) (n : Bool) (d : BitVec 7) (s : State) : exec (.wrlane b a n d) s = execWrlane b a n d s := by simp only [exec]
@[simp] theorem exec_rfl (a : BitVec 7) (n : Bool) (d : BitVec 7) (s : State) : exec (.rfl a n d) s = execRfl a n d s := by simp only [exec]
@[simp] theorem exec_movp (a : BitVec 7) (n : Bool) (d : BitVec 7) (s : State) : exec (.movp a n d) s = execMovp a n d s := by simp only [exec]
@[simp] theorem exec_ptom (a : BitVec 7) (n : Bool) (d : BitVec 7) (s : State) : exec (.ptom a n d) s = execPtom a n d s := by simp only [exec]
@[simp] theorem exec_movi (i1 : BitVec 17) (n : Bool) (d : BitVec 7) (s : State) : exec (.movi i1 n d) s = execMovi i1 n d s := by simp only [exec]
@[simp] theorem exec_eq (b : BitVec 7) (a : BitVec 7) (g : Bool) (x : Bool) (p : BitVec 6) (s : State) : exec (.eq b a g x p) s = execEq b a g x p s := by simp only [exec]
@[simp] theorem exec_ne (b : BitVec 7) (a : BitVec 7) (g : Bool) (x : Bool) (p : BitVec 6) (s : State) : exec (.ne b a g x p) s = execNe b a g x p s := by simp only [exec]
@[simp] theorem exec_lt (b : BitVec 7) (a : BitVec 7) (g : Bool) (x : Bool) (p : BitVec 6) (s : State) : exec (.lt b a g x p) s = execLt b a g x p s := by simp only [exec]
@[simp] theorem exec_le (b : BitVec 7) (a : BitVec 7) (g : Bool) (x : Bool) (p : BitVec 6) (s : State) : exec (.le b a g x p) s = execLe b a g x p s := by simp only [exec]
@[simp] theorem exec_ltu (b : BitVec 7) (a : BitVec 7) (g : Bool) (x : Bool) (p : BitVec 6) (s : State) : exec (.ltu b a g x p) s = execLtu b a g x p s := by simp only [exec]
@[simp] theorem exec_leu (b : BitVec 7) (a : BitVec 7) (g : Bool) (x : Bool) (p : BitVec 6) (s : State) : exec (.leu b a g x p) s = execLeu b a g x p s := by simp only [exec]
@[simp] theorem exec_tst (b : BitVec 7) (a : BitVec 7) (g : Bool) (x : Bool) (p : BitVec 6) (s : State) : exec (.tst b a g x p) s = execTst b a g x p s := by simp only [exec]
@[simp] theorem exec_tstz (b : BitVec 7) (a : BitVec 7) (g : Bool) (x : Bool) (p : BitVec 6) (s : State) : exec (.tstz b a g x p) s = execTstz b a g x p s := by simp only [exec]
@[simp] theorem exec_feq (b : BitVec 7) (a : BitVec 7) (g : Bool) (x : Bool) (p : BitVec 6) (s : State) : exec (.feq b a g x p) s = execFeq b a g x p s := by simp only [exec]
@[simp] theorem exec_fne (b : BitVec 7) (a : BitVec 7) (g : Bool) (x : Bool) (p : BitVec 6) (s : State) : exec (.fne b a g x p) s = execFne b a g x p s := by simp only [exec]
@[simp] theorem exec_flt (b : BitVec 7) (a : BitVec 7) (g : Bool) (x : Bool) (p : BitVec 6) (s : State) : exec (.flt b a g x p) s = execFlt b a g x p s := by simp only [exec]
@[simp] theorem exec_fle (b : BitVec 7) (a : BitVec 7) (g : Bool) (x : Bool) (p : BitVec 6) (s : State) : exec (.fle b a g x p) s = execFle b a g x p s := by simp only [exec]
@[simp] theorem exec_fgt (b : BitVec 7) (a : BitVec 7) (g : Bool) (x : Bool) (p : BitVec 6) (s : State) : exec (.fgt b a g x p) s = execFgt b a g x p s := by simp only [exec]
@[simp] theorem exec_fge (b : BitVec 7) (a : BitVec 7) (g : Bool) (x : Bool) (p : BitVec 6) (s : State) : exec (.fge b a g x p) s = execFge b a g x p s := by simp only [exec]
@[simp] theorem exec_funord (b : BitVec 7) (a : BitVec 7) (g : Bool) (x : Bool) (p : BitVec 6) (s : State) : exec (.funord b a g x p) s = execFunord b a g x p s := by simp only [exec]
@[simp] theorem exec_ford (b : BitVec 7) (a : BitVec 7) (g : Bool) (x : Bool) (p : BitVec 6) (s : State) : exec (.ford b a g x p) s = execFord b a g x p s := by simp only [exec]
@[simp] theorem exec_pand (b : BitVec 7) (a : BitVec 7) (g : Bool) (x : Bool) (p : BitVec 6) (s : State) : exec (.pand b a g x p) s = execPand b a g x p s := by simp only [exec]
@[simp] theorem exec_por (b : BitVec 7) (a : BitVec 7) (g : Bool) (x : Bool) (p : BitVec 6) (s : State) : exec (.por b a g x p) s = execPor b a g x p s := by simp only [exec]
@[simp] theorem exec_pxor (b : BitVec 7) (a : BitVec 7) (g : Bool) (x : Bool) (p : BitVec 6) (s : State) : exec (.pxor b a g x p) s = execPxor b a g x p s := by simp only [exec]
@[simp] theorem exec_pandn (b : BitVec 7) (a : BitVec 7) (g : Bool) (x : Bool) (p : BitVec 6) (s : State) : exec (.pandn b a g x p) s = execPandn b a g x p s := by simp only [exec]
@[simp] theorem exec_pnot (a : BitVec 7) (g : Bool) (x : Bool) (p : BitVec 6) (s : State) : exec (.pnot a g x p) s = execPnot a g x p s := by simp only [exec]
@[simp] theorem exec_pmov (a : BitVec 7) (g : Bool) (x : Bool) (p : BitVec 6) (s : State) : exec (.pmov a g x p) s = execPmov a g x p s := by simp only [exec]
@[simp] theorem exec_pclr (g : Bool) (x : Bool) (p : BitVec 6) (s : State) : exec (.pclr g x p) s = execPclr g x p s := by simp only [exec]
@[simp] theorem exec_pset (g : Bool) (x : Bool) (p : BitVec 6) (s : State) : exec (.pset g x p) s = execPset g x p s := by simp only [exec]
@[simp] theorem exec_eqImm (i1 : BitVec 7) (a : BitVec 7) (g : Bool) (x : Bool) (p : BitVec 6) (s : State) : exec (.eqImm i1 a g x p) s = execEqImm i1 a g x p s := by simp only [exec]
@[simp] theorem exec_neImm (i1 : BitVec 7) (a : BitVec 7) (g : Bool) (x : Bool) (p : BitVec 6) (s : State) : exec (.neImm i1 a g x p) s = execNeImm i1 a g x p s := by simp only [exec]
@[simp] theorem exec_ltImm (i1 : BitVec 7) (a : BitVec 7) (g : Bool) (x : Bool) (p : BitVec 6) (s : State) : exec (.ltImm i1 a g x p) s = execLtImm i1 a g x p s := by simp only [exec]
@[simp] theorem exec_leImm (i1 : BitVec 7) (a : BitVec 7) (g : Bool) (x : Bool) (p : BitVec 6) (s : State) : exec (.leImm i1 a g x p) s = execLeImm i1 a g x p s := by simp only [exec]
@[simp] theorem exec_ltuImm (i1 : BitVec 7) (a : BitVec 7) (g : Bool) (x : Bool) (p : BitVec 6) (s : State) : exec (.ltuImm i1 a g x p) s = execLtuImm i1 a g x p s := by simp only [exec]
@[simp] theorem exec_leuImm (i1 : BitVec 7) (a : BitVec 7) (g : Bool) (x : Bool) (p : BitVec 6) (s : State) : exec (.leuImm i1 a g x p) s = execLeuImm i1 a g x p s := by simp only [exec]
@[simp] theorem exec_tstImm (i1 : BitVec 7) (a : BitVec 7) (g : Bool) (x : Bool) (p : BitVec 6) (s : State) : exec (.tstImm i1 a g x p) s = execTstImm i1 a g x p s := by simp only [exec]
@[simp] theorem exec_tstzImm (i1 : BitVec 7) (a : BitVec 7) (g : Bool) (x : Bool) (p : BitVec 6) (s : State) : exec (.tstzImm i1 a g x p) s = execTstzImm i1 a g x p s := by simp only [exec]
@[simp] theorem exec_fadd (b : BitVec 7) (a : BitVec 7) (n : Bool) (d : BitVec 7) (s : State) : exec (.fadd b a n d) s = execFadd b a n d s := by simp only [exec]
@[simp] theorem exec_fsub (b : BitVec 7) (a : BitVec 7) (n : Bool) (d : BitVec 7) (s : State) : exec (.fsub b a n d) s = execFsub b a n d s := by simp only [exec]
@[simp] theorem exec_fmul (b : BitVec 7) (a : BitVec 7) (n : Bool) (d : BitVec 7) (s : State) : exec (.fmul b a n d) s = execFmul b a n d s := by simp only [exec]
@[simp] theorem exec_fmin (b : BitVec 7) (a : BitVec 7) (n : Bool) (d : BitVec 7) (s : State) : exec (.fmin b a n d) s = execFmin b a n d s := by simp only [exec]
@[simp] theorem exec_fmax (b : BitVec 7) (a : BitVec 7) (n : Bool) (d : BitVec 7) (s : State) : exec (.fmax b a n d) s = execFmax b a n d s := by simp only [exec]
@[simp] theorem exec_fminn (b : BitVec 7) (a : BitVec 7) (n : Bool) (d : BitVec 7) (s : State) : exec (.fminn b a n d) s = execFminn b a n d s := by simp only [exec]
@[simp] theorem exec_fmaxn (b : BitVec 7) (a : BitVec 7) (n : Bool) (d : BitVec 7) (s : State) : exec (.fmaxn b a n d) s = execFmaxn b a n d s := by simp only [exec]
@[simp] theorem exec_fcpsgn (b : BitVec 7) (a : BitVec 7) (n : Bool) (d : BitVec 7) (s : State) : exec (.fcpsgn b a n d) s = execFcpsgn b a n d s := by simp only [exec]
@[simp] theorem exec_ffma (b : BitVec 7) (a : BitVec 7) (n : Bool) (d : BitVec 7) (s : State) : exec (.ffma b a n d) s = execFfma b a n d s := by simp only [exec]
@[simp] theorem exec_ffms (b : BitVec 7) (a : BitVec 7) (n : Bool) (d : BitVec 7) (s : State) : exec (.ffms b a n d) s = execFfms b a n d s := by simp only [exec]
@[simp] theorem exec_fnma (b : BitVec 7) (a : BitVec 7) (n : Bool) (d : BitVec 7) (s : State) : exec (.fnma b a n d) s = execFnma b a n d s := by simp only [exec]
@[simp] theorem exec_fnms (b : BitVec 7) (a : BitVec 7) (n : Bool) (d : BitVec 7) (s : State) : exec (.fnms b a n d) s = execFnms b a n d s := by simp only [exec]
@[simp] theorem exec_hfma2 (b : BitVec 7) (a : BitVec 7) (n : Bool) (d : BitVec 7) (s : State) : exec (.hfma2 b a n d) s = execHfma2 b a n d s := by simp only [exec]
@[simp] theorem exec_bfma2 (b : BitVec 7) (a : BitVec 7) (n : Bool) (d : BitVec 7) (s : State) : exec (.bfma2 b a n d) s = execBfma2 b a n d s := by simp only [exec]
@[simp] theorem exec_idp4 (b : BitVec 7) (a : BitVec 7) (n : Bool) (d : BitVec 7) (s : State) : exec (.idp4 b a n d) s = execIdp4 b a n d s := by simp only [exec]
@[simp] theorem exec_hdp2 (b : BitVec 7) (a : BitVec 7) (n : Bool) (d : BitVec 7) (s : State) : exec (.hdp2 b a n d) s = execHdp2 b a n d s := by simp only [exec]
@[simp] theorem exec_hadd2 (b : BitVec 7) (a : BitVec 7) (n : Bool) (d : BitVec 7) (s : State) : exec (.hadd2 b a n d) s = execHadd2 b a n d s := by simp only [exec]
@[simp] theorem exec_hsub2 (b : BitVec 7) (a : BitVec 7) (n : Bool) (d : BitVec 7) (s : State) : exec (.hsub2 b a n d) s = execHsub2 b a n d s := by simp only [exec]
@[simp] theorem exec_hmul2 (b : BitVec 7) (a : BitVec 7) (n : Bool) (d : BitVec 7) (s : State) : exec (.hmul2 b a n d) s = execHmul2 b a n d s := by simp only [exec]
@[simp] theorem exec_hmax2 (b : BitVec 7) (a : BitVec 7) (n : Bool) (d : BitVec 7) (s : State) : exec (.hmax2 b a n d) s = execHmax2 b a n d s := by simp only [exec]
@[simp] theorem exec_badd2 (b : BitVec 7) (a : BitVec 7) (n : Bool) (d : BitVec 7) (s : State) : exec (.badd2 b a n d) s = execBadd2 b a n d s := by simp only [exec]
@[simp] theorem exec_bsub2 (b : BitVec 7) (a : BitVec 7) (n : Bool) (d : BitVec 7) (s : State) : exec (.bsub2 b a n d) s = execBsub2 b a n d s := by simp only [exec]
@[simp] theorem exec_bmul2 (b : BitVec 7) (a : BitVec 7) (n : Bool) (d : BitVec 7) (s : State) : exec (.bmul2 b a n d) s = execBmul2 b a n d s := by simp only [exec]
@[simp] theorem exec_bmax2 (b : BitVec 7) (a : BitVec 7) (n : Bool) (d : BitVec 7) (s : State) : exec (.bmax2 b a n d) s = execBmax2 b a n d s := by simp only [exec]
@[simp] theorem exec_frcp (a : BitVec 7) (n : Bool) (d : BitVec 7) (s : State) : exec (.frcp a n d) s = execFrcp a n d s := by simp only [exec]
@[simp] theorem exec_frsq (a : BitVec 7) (n : Bool) (d : BitVec 7) (s : State) : exec (.frsq a n d) s = execFrsq a n d s := by simp only [exec]
@[simp] theorem exec_fsqrt (a : BitVec 7) (n : Bool) (d : BitVec 7) (s : State) : exec (.fsqrt a n d) s = execFsqrt a n d s := by simp only [exec]
@[simp] theorem exec_flg2 (a : BitVec 7) (n : Bool) (d : BitVec 7) (s : State) : exec (.flg2 a n d) s = execFlg2 a n d s := by simp only [exec]
@[simp] theorem exec_fex2 (a : BitVec 7) (n : Bool) (d : BitVec 7) (s : State) : exec (.fex2 a n d) s = execFex2 a n d s := by simp only [exec]
@[simp] theorem exec_fsin (a : BitVec 7) (n : Bool) (d : BitVec 7) (s : State) : exec (.fsin a n d) s = execFsin a n d s := by simp only [exec]
@[simp] theorem exec_fcos (a : BitVec 7) (n : Bool) (d : BitVec 7) (s : State) : exec (.fcos a n d) s = execFcos a n d s := by simp only [exec]
@[simp] theorem exec_ftanh (a : BitVec 7) (n : Bool) (d : BitVec 7) (s : State) : exec (.ftanh a n d) s = execFtanh a n d s := by simp only [exec]
@[simp] theorem exec_cvt (r : BitVec 2) (s1 : BitVec 4) (f : BitVec 4) (a : BitVec 7) (n : Bool) (d : BitVec 7) (s : State) : exec (.cvt r s1 f a n d) s = execCvt r s1 f a n d s := by simp only [exec]
@[simp] theorem exec_pk2h (b : BitVec 7) (a : BitVec 7) (n : Bool) (d : BitVec 7) (s : State) : exec (.pk2h b a n d) s = execPk2h b a n d s := by simp only [exec]
@[simp] theorem exec_pk2bf (b : BitVec 7) (a : BitVec 7) (n : Bool) (d : BitVec 7) (s : State) : exec (.pk2bf b a n d) s = execPk2bf b a n d s := by simp only [exec]
@[simp] theorem exec_upkhl (a : BitVec 7) (n : Bool) (d : BitVec 7) (s : State) : exec (.upkhl a n d) s = execUpkhl a n d s := by simp only [exec]
@[simp] theorem exec_upkhh (a : BitVec 7) (n : Bool) (d : BitVec 7) (s : State) : exec (.upkhh a n d) s = execUpkhh a n d s := by simp only [exec]
@[simp] theorem exec_upkbl (a : BitVec 7) (n : Bool) (d : BitVec 7) (s : State) : exec (.upkbl a n d) s = execUpkbl a n d s := by simp only [exec]
@[simp] theorem exec_upkbh (a : BitVec 7) (n : Bool) (d : BitVec 7) (s : State) : exec (.upkbh a n d) s = execUpkbh a n d s := by simp only [exec]
@[simp] theorem exec_perm8 (b : BitVec 7) (a : BitVec 7) (n : Bool) (d : BitVec 7) (s : State) : exec (.perm8 b a n d) s = execPerm8 b a n d s := by simp only [exec]
@[simp] theorem exec_frndn (a : BitVec 7) (n : Bool) (d : BitVec 7) (s : State) : exec (.frndn a n d) s = execFrndn a n d s := by simp only [exec]
@[simp] theorem exec_frndz (a : BitVec 7) (n : Bool) (d : BitVec 7) (s : State) : exec (.frndz a n d) s = execFrndz a n d s := by simp only [exec]
@[simp] theorem exec_frndd (a : BitVec 7) (n : Bool) (d : BitVec 7) (s : State) : exec (.frndd a n d) s = execFrndd a n d s := by simp only [exec]
@[simp] theorem exec_frndu (a : BitVec 7) (n : Bool) (d : BitVec 7) (s : State) : exec (.frndu a n d) s = execFrndu a n d s := by simp only [exec]
@[simp] theorem exec_ffrac (a : BitVec 7) (n : Bool) (d : BitVec 7) (s : State) : exec (.ffrac a n d) s = execFfrac a n d s := by simp only [exec]
@[simp] theorem exec_fclass (a : BitVec 7) (n : Bool) (d : BitVec 7) (s : State) : exec (.fclass a n d) s = execFclass a n d s := by simp only [exec]
@[simp] theorem exec_fgetexp (a : BitVec 7) (n : Bool) (d : BitVec 7) (s : State) : exec (.fgetexp a n d) s = execFgetexp a n d s := by simp only [exec]
@[simp] theorem exec_fldexp (b : BitVec 7) (a : BitVec 7) (n : Bool) (d : BitVec 7) (s : State) : exec (.fldexp b a n d) s = execFldexp b a n d s := by simp only [exec]
@[simp] theorem exec_scacc (b : BitVec 7) (a : BitVec 7) (n : Bool) (d : BitVec 7) (s : State) : exec (.scacc b a n d) s = execScacc b a n d s := by simp only [exec]
@[simp] theorem exec_scacc2 (b : BitVec 7) (a : BitVec 7) (n : Bool) (d : BitVec 7) (s : State) : exec (.scacc2 b a n d) s = execScacc2 b a n d s := by simp only [exec]
@[simp] theorem exec_scmul (b : BitVec 7) (a : BitVec 7) (n : Bool) (d : BitVec 7) (s : State) : exec (.scmul b a n d) s = execScmul b a n d s := by simp only [exec]
@[simp] theorem exec_scaci (b : BitVec 7) (a : BitVec 7) (n : Bool) (d : BitVec 7) (s : State) : exec (.scaci b a n d) s = execScaci b a n d s := by simp only [exec]
@[simp] theorem exec_scaci2 (b : BitVec 7) (a : BitVec 7) (n : Bool) (d : BitVec 7) (s : State) : exec (.scaci2 b a n d) s = execScaci2 b a n d s := by simp only [exec]
@[simp] theorem exec_shfop (k : BitVec 3) (o : BitVec 4) (m : BitVec 3) (a : BitVec 7) (n : Bool) (d : BitVec 7) (s : State) : exec (.shfop k o m a n d) s = execShfop k o m a n d s := by simp only [exec]
@[simp] theorem exec_perm (b : BitVec 7) (a : BitVec 7) (n : Bool) (d : BitVec 7) (s : State) : exec (.perm b a n d) s = execPerm b a n d s := by simp only [exec]
@[simp] theorem exec_permt (b : BitVec 7) (a : BitVec 7) (n : Bool) (d : BitVec 7) (s : State) : exec (.permt b a n d) s = execPermt b a n d s := by simp only [exec]
@[simp] theorem exec_perms (b : BitVec 7) (a : BitVec 7) (n : Bool) (d : BitVec 7) (s : State) : exec (.perms b a n d) s = execPerms b a n d s := by simp only [exec]
@[simp] theorem exec_compact (b : BitVec 7) (a : BitVec 7) (n : Bool) (d : BitVec 7) (s : State) : exec (.compact b a n d) s = execCompact b a n d s := by simp only [exec]
@[simp] theorem exec_vall (a : BitVec 7) (g : Bool) (x : Bool) (p : BitVec 6) (s : State) : exec (.vall a g x p) s = execVall a g x p s := by simp only [exec]
@[simp] theorem exec_vany (a : BitVec 7) (g : Bool) (x : Bool) (p : BitVec 6) (s : State) : exec (.vany a g x p) s = execVany a g x p s := by simp only [exec]
@[simp] theorem exec_veq (a : BitVec 7) (g : Bool) (x : Bool) (p : BitVec 6) (s : State) : exec (.veq a g x p) s = execVeq a g x p s := by simp only [exec]
@[simp] theorem exec_vfirst (a : BitVec 7) (g : Bool) (x : Bool) (p : BitVec 6) (s : State) : exec (.vfirst a g x p) s = execVfirst a g x p s := by simp only [exec]
@[simp] theorem exec_vlast (a : BitVec 7) (g : Bool) (x : Bool) (p : BitVec 6) (s : State) : exec (.vlast a g x p) s = execVlast a g x p s := by simp only [exec]
@[simp] theorem exec_matchLanes (a : BitVec 7) (n : Bool) (d : BitVec 7) (s : State) : exec (.matchLanes a n d) s = execMatchLanes a n d s := by simp only [exec]
@[simp] theorem exec_tfirst (a : BitVec 7) (n : Bool) (d : BitVec 7) (s : State) : exec (.tfirst a n d) s = execTfirst a n d s := by simp only [exec]
@[simp] theorem exec_tpop (a : BitVec 7) (n : Bool) (d : BitVec 7) (s : State) : exec (.tpop a n d) s = execTpop a n d s := by simp only [exec]
@[simp] theorem exec_setpart (i1 : BitVec 7) (a : BitVec 7) (s : State) : exec (.setpart i1 a) s = execSetpart i1 a s := by simp only [exec]
@[simp] theorem exec_getpart (n : Bool) (d : BitVec 7) (s : State) : exec (.getpart n d) s = execGetpart n d s := by simp only [exec]
@[simp] theorem exec_tileid (n : Bool) (d : BitVec 7) (s : State) : exec (.tileid n d) s = execTileid n d s := by simp only [exec]
@[simp] theorem exec_tlane (n : Bool) (d : BitVec 7) (s : State) : exec (.tlane n d) s = execTlane n d s := by simp only [exec]
@[simp] theorem exec_ldg (z : BitVec 3) (o : BitVec 2) (s1 : BitVec 2) (l : BitVec 2) (a : BitVec 7) (n : Bool) (d : BitVec 7) (s : State) : exec (.ldg z o s1 l a n d) s = execLdg z o s1 l a n d s := by simp only [exec]
@[simp] theorem exec_ldgPf (z : BitVec 3) (s1 : BitVec 2) (l : BitVec 2) (a : BitVec 7) (s : State) : exec (.ldgPf z s1 l a) s = execLdgPf z s1 l a s := by simp only [exec]
@[simp] theorem exec_stg (z : BitVec 3) (o : BitVec 2) (s1 : BitVec 2) (l : BitVec 2) (a : BitVec 7) (d : BitVec 7) (s : State) : exec (.stg z o s1 l a d) s = execStg z o s1 l a d s := by simp only [exec]
@[simp] theorem exec_atgAdd (o : BitVec 2) (s1 : BitVec 2) (l : BitVec 2) (a : BitVec 7) (d : BitVec 7) (s : State) : exec (.atgAdd o s1 l a d) s = execAtgAdd o s1 l a d s := by simp only [exec]
@[simp] theorem exec_atgSub (o : BitVec 2) (s1 : BitVec 2) (l : BitVec 2) (a : BitVec 7) (d : BitVec 7) (s : State) : exec (.atgSub o s1 l a d) s = execAtgSub o s1 l a d s := by simp only [exec]
@[simp] theorem exec_atgMin (o : BitVec 2) (s1 : BitVec 2) (l : BitVec 2) (a : BitVec 7) (d : BitVec 7) (s : State) : exec (.atgMin o s1 l a d) s = execAtgMin o s1 l a d s := by simp only [exec]
@[simp] theorem exec_atgMax (o : BitVec 2) (s1 : BitVec 2) (l : BitVec 2) (a : BitVec 7) (d : BitVec 7) (s : State) : exec (.atgMax o s1 l a d) s = execAtgMax o s1 l a d s := by simp only [exec]
@[simp] theorem exec_atgUmin (o : BitVec 2) (s1 : BitVec 2) (l : BitVec 2) (a : BitVec 7) (d : BitVec 7) (s : State) : exec (.atgUmin o s1 l a d) s = execAtgUmin o s1 l a d s := by simp only [exec]
@[simp] theorem exec_atgUmax (o : BitVec 2) (s1 : BitVec 2) (l : BitVec 2) (a : BitVec 7) (d : BitVec 7) (s : State) : exec (.atgUmax o s1 l a d) s = execAtgUmax o s1 l a d s := by simp only [exec]
@[simp] theorem exec_atgAnd (o : BitVec 2) (s1 : BitVec 2) (l : BitVec 2) (a : BitVec 7) (d : BitVec 7) (s : State) : exec (.atgAnd o s1 l a d) s = execAtgAnd o s1 l a d s := by simp only [exec]
@[simp] theorem exec_atgOr (o : BitVec 2) (s1 : BitVec 2) (l : BitVec 2) (a : BitVec 7) (d : BitVec 7) (s : State) : exec (.atgOr o s1 l a d) s = execAtgOr o s1 l a d s := by simp only [exec]
@[simp] theorem exec_atgXor (o : BitVec 2) (s1 : BitVec 2) (l : BitVec 2) (a : BitVec 7) (d : BitVec 7) (s : State) : exec (.atgXor o s1 l a d) s = execAtgXor o s1 l a d s := by simp only [exec]
@[simp] theorem exec_atgXchg (o : BitVec 2) (s1 : BitVec 2) (l : BitVec 2) (a : BitVec 7) (d : BitVec 7) (s : State) : exec (.atgXchg o s1 l a d) s = execAtgXchg o s1 l a d s := by simp only [exec]
@[simp] theorem exec_atgCas (o : BitVec 2) (s1 : BitVec 2) (l : BitVec 2) (a : BitVec 7) (d : BitVec 7) (s : State) : exec (.atgCas o s1 l a d) s = execAtgCas o s1 l a d s := by simp only [exec]
@[simp] theorem exec_atgFadd (o : BitVec 2) (s1 : BitVec 2) (l : BitVec 2) (a : BitVec 7) (d : BitVec 7) (s : State) : exec (.atgFadd o s1 l a d) s = execAtgFadd o s1 l a d s := by simp only [exec]
@[simp] theorem exec_atgFmin (o : BitVec 2) (s1 : BitVec 2) (l : BitVec 2) (a : BitVec 7) (d : BitVec 7) (s : State) : exec (.atgFmin o s1 l a d) s = execAtgFmin o s1 l a d s := by simp only [exec]
@[simp] theorem exec_atgFmax (o : BitVec 2) (s1 : BitVec 2) (l : BitVec 2) (a : BitVec 7) (d : BitVec 7) (s : State) : exec (.atgFmax o s1 l a d) s = execAtgFmax o s1 l a d s := by simp only [exec]
@[simp] theorem exec_atgInc (o : BitVec 2) (s1 : BitVec 2) (l : BitVec 2) (a : BitVec 7) (d : BitVec 7) (s : State) : exec (.atgInc o s1 l a d) s = execAtgInc o s1 l a d s := by simp only [exec]
@[simp] theorem exec_atgDec (o : BitVec 2) (s1 : BitVec 2) (l : BitVec 2) (a : BitVec 7) (d : BitVec 7) (s : State) : exec (.atgDec o s1 l a d) s = execAtgDec o s1 l a d s := by simp only [exec]
@[simp] theorem exec_ldl (i1 : BitVec 7) (z : BitVec 3) (a : BitVec 7) (n : Bool) (d : BitVec 7) (s : State) : exec (.ldl i1 z a n d) s = execLdl i1 z a n d s := by simp only [exec]
@[simp] theorem exec_stl (i1 : BitVec 7) (z : BitVec 3) (a : BitVec 7) (d : BitVec 7) (s : State) : exec (.stl i1 z a d) s = execStl i1 z a d s := by simp only [exec]
@[simp] theorem exec_atlAdd (o : BitVec 2) (s1 : BitVec 2) (a : BitVec 7) (d : BitVec 7) (s : State) : exec (.atlAdd o s1 a d) s = execAtlAdd o s1 a d s := by simp only [exec]
@[simp] theorem exec_atlSub (o : BitVec 2) (s1 : BitVec 2) (a : BitVec 7) (d : BitVec 7) (s : State) : exec (.atlSub o s1 a d) s = execAtlSub o s1 a d s := by simp only [exec]
@[simp] theorem exec_atlMin (o : BitVec 2) (s1 : BitVec 2) (a : BitVec 7) (d : BitVec 7) (s : State) : exec (.atlMin o s1 a d) s = execAtlMin o s1 a d s := by simp only [exec]
@[simp] theorem exec_atlMax (o : BitVec 2) (s1 : BitVec 2) (a : BitVec 7) (d : BitVec 7) (s : State) : exec (.atlMax o s1 a d) s = execAtlMax o s1 a d s := by simp only [exec]
@[simp] theorem exec_atlUmin (o : BitVec 2) (s1 : BitVec 2) (a : BitVec 7) (d : BitVec 7) (s : State) : exec (.atlUmin o s1 a d) s = execAtlUmin o s1 a d s := by simp only [exec]
@[simp] theorem exec_atlUmax (o : BitVec 2) (s1 : BitVec 2) (a : BitVec 7) (d : BitVec 7) (s : State) : exec (.atlUmax o s1 a d) s = execAtlUmax o s1 a d s := by simp only [exec]
@[simp] theorem exec_atlAnd (o : BitVec 2) (s1 : BitVec 2) (a : BitVec 7) (d : BitVec 7) (s : State) : exec (.atlAnd o s1 a d) s = execAtlAnd o s1 a d s := by simp only [exec]
@[simp] theorem exec_atlOr (o : BitVec 2) (s1 : BitVec 2) (a : BitVec 7) (d : BitVec 7) (s : State) : exec (.atlOr o s1 a d) s = execAtlOr o s1 a d s := by simp only [exec]
@[simp] theorem exec_atlXor (o : BitVec 2) (s1 : BitVec 2) (a : BitVec 7) (d : BitVec 7) (s : State) : exec (.atlXor o s1 a d) s = execAtlXor o s1 a d s := by simp only [exec]
@[simp] theorem exec_atlXchg (o : BitVec 2) (s1 : BitVec 2) (a : BitVec 7) (d : BitVec 7) (s : State) : exec (.atlXchg o s1 a d) s = execAtlXchg o s1 a d s := by simp only [exec]
@[simp] theorem exec_atlCas (o : BitVec 2) (s1 : BitVec 2) (a : BitVec 7) (d : BitVec 7) (s : State) : exec (.atlCas o s1 a d) s = execAtlCas o s1 a d s := by simp only [exec]
@[simp] theorem exec_atlFadd (o : BitVec 2) (s1 : BitVec 2) (a : BitVec 7) (d : BitVec 7) (s : State) : exec (.atlFadd o s1 a d) s = execAtlFadd o s1 a d s := by simp only [exec]
@[simp] theorem exec_atlFmin (o : BitVec 2) (s1 : BitVec 2) (a : BitVec 7) (d : BitVec 7) (s : State) : exec (.atlFmin o s1 a d) s = execAtlFmin o s1 a d s := by simp only [exec]
@[simp] theorem exec_atlFmax (o : BitVec 2) (s1 : BitVec 2) (a : BitVec 7) (d : BitVec 7) (s : State) : exec (.atlFmax o s1 a d) s = execAtlFmax o s1 a d s := by simp only [exec]
@[simp] theorem exec_atlInc (o : BitVec 2) (s1 : BitVec 2) (a : BitVec 7) (d : BitVec 7) (s : State) : exec (.atlInc o s1 a d) s = execAtlInc o s1 a d s := by simp only [exec]
@[simp] theorem exec_atlDec (o : BitVec 2) (s1 : BitVec 2) (a : BitVec 7) (d : BitVec 7) (s : State) : exec (.atlDec o s1 a d) s = execAtlDec o s1 a d s := by simp only [exec]
@[simp] theorem exec_scrAdd (o : BitVec 2) (s1 : BitVec 2) (a : BitVec 7) (d : BitVec 7) (s : State) : exec (.scrAdd o s1 a d) s = execScrAdd o s1 a d s := by simp only [exec]
@[simp] theorem exec_scrFadd (o : BitVec 2) (s1 : BitVec 2) (a : BitVec 7) (d : BitVec 7) (s : State) : exec (.scrFadd o s1 a d) s = execScrFadd o s1 a d s := by simp only [exec]
@[simp] theorem exec_scrMin (o : BitVec 2) (s1 : BitVec 2) (a : BitVec 7) (d : BitVec 7) (s : State) : exec (.scrMin o s1 a d) s = execScrMin o s1 a d s := by simp only [exec]
@[simp] theorem exec_scrMax (o : BitVec 2) (s1 : BitVec 2) (a : BitVec 7) (d : BitVec 7) (s : State) : exec (.scrMax o s1 a d) s = execScrMax o s1 a d s := by simp only [exec]
@[simp] theorem exec_scrAnd (o : BitVec 2) (s1 : BitVec 2) (a : BitVec 7) (d : BitVec 7) (s : State) : exec (.scrAnd o s1 a d) s = execScrAnd o s1 a d s := by simp only [exec]
@[simp] theorem exec_scrOr (o : BitVec 2) (s1 : BitVec 2) (a : BitVec 7) (d : BitVec 7) (s : State) : exec (.scrOr o s1 a d) s = execScrOr o s1 a d s := by simp only [exec]
@[simp] theorem exec_scrXor (o : BitVec 2) (s1 : BitVec 2) (a : BitVec 7) (d : BitVec 7) (s : State) : exec (.scrXor o s1 a d) s = execScrXor o s1 a d s := by simp only [exec]
@[simp] theorem exec_scrFmax (o : BitVec 2) (s1 : BitVec 2) (a : BitVec 7) (d : BitVec 7) (s : State) : exec (.scrFmax o s1 a d) s = execScrFmax o s1 a d s := by simp only [exec]
@[simp] theorem exec_scrXchg (o : BitVec 2) (s1 : BitVec 2) (a : BitVec 7) (d : BitVec 7) (s : State) : exec (.scrXchg o s1 a d) s = execScrXchg o s1 a d s := by simp only [exec]
@[simp] theorem exec_scrCas (o : BitVec 2) (s1 : BitVec 2) (a : BitVec 7) (d : BitVec 7) (s : State) : exec (.scrCas o s1 a d) s = execScrCas o s1 a d s := by simp only [exec]
@[simp] theorem exec_scrLd (o : BitVec 2) (s1 : BitVec 2) (a : BitVec 7) (d : BitVec 7) (s : State) : exec (.scrLd o s1 a d) s = execScrLd o s1 a d s := by simp only [exec]
@[simp] theorem exec_scrSt (o : BitVec 2) (s1 : BitVec 2) (a : BitVec 7) (d : BitVec 7) (s : State) : exec (.scrSt o s1 a d) s = execScrSt o s1 a d s := by simp only [exec]
@[simp] theorem exec_fence (o : BitVec 2) (s1 : BitVec 2) (s : State) : exec (.fence o s1) s = execFence o s1 s := by simp only [exec]
@[simp] theorem exec_xfence (b : BitVec 4) (a : BitVec 4) (o : BitVec 2) (s1 : BitVec 2) (s : State) : exec (.xfence b a o s1) s = execXfence b a o s1 s := by simp only [exec]
@[simp] theorem exec_drainst (s : State) : exec (.drainst) s = execDrainst s := by simp only [exec]
@[simp] theorem exec_cinv (s : State) : exec (.cinv) s = execCinv s := by simp only [exec]
@[simp] theorem exec_cflush (s : State) : exec (.cflush) s = execCflush s := by simp only [exec]
@[simp] theorem exec_tkick (b : BitVec 7) (a : BitVec 7) (s : State) : exec (.tkick b a) s = execTkick b a s := by simp only [exec]
@[simp] theorem exec_tcancel (a : BitVec 7) (s : State) : exec (.tcancel a) s = execTcancel a s := by simp only [exec]
@[simp] theorem exec_tstat (a : BitVec 7) (n : Bool) (d : BitVec 7) (s : State) : exec (.tstat a n d) s = execTstat a n d s := by simp only [exec]
@[simp] theorem exec_binit (b : BitVec 7) (a : BitVec 7) (s : State) : exec (.binit b a) s = execBinit b a s := by simp only [exec]
@[simp] theorem exec_barrive (b : BitVec 7) (a : BitVec 7) (n : Bool) (d : BitVec 7) (s : State) : exec (.barrive b a n d) s = execBarrive b a n d s := by simp only [exec]
@[simp] theorem exec_bexpect (b : BitVec 7) (a : BitVec 7) (s : State) : exec (.bexpect b a) s = execBexpect b a s := by simp only [exec]
@[simp] theorem exec_bwait (b : BitVec 7) (a : BitVec 7) (n : Bool) (d : BitVec 7) (s : State) : exec (.bwait b a n d) s = execBwait b a n d s := by simp only [exec]
@[simp] theorem exec_btest (a : BitVec 7) (n : Bool) (d : BitVec 7) (s : State) : exec (.btest a n d) s = execBtest a n d s := by simp only [exec]
@[simp] theorem exec_binval (a : BitVec 7) (s : State) : exec (.binval a) s = execBinval a s := by simp only [exec]
@[simp] theorem exec_qpush (b : BitVec 7) (a : BitVec 7) (s : State) : exec (.qpush b a) s = execQpush b a s := by simp only [exec]
@[simp] theorem exec_qpop (b : BitVec 7) (d : BitVec 7) (s : State) : exec (.qpop b d) s = execQpop b d s := by simp only [exec]
@[simp] theorem exec_qres (a : BitVec 7) (d : BitVec 7) (s : State) : exec (.qres a d) s = execQres a d s := by simp only [exec]
@[simp] theorem exec_qcommit (b : BitVec 7) (a : BitVec 7) (s : State) : exec (.qcommit b a) s = execQcommit b a s := by simp only [exec]
@[simp] theorem exec_qlen (a : BitVec 7) (d : BitVec 7) (s : State) : exec (.qlen a d) s = execQlen a d s := by simp only [exec]
@[simp] theorem exec_ordw (a : BitVec 7) (d : BitVec 7) (s : State) : exec (.ordw a d) s = execOrdw a d s := by simp only [exec]
@[simp] theorem exec_ordp (a : BitVec 7) (d : BitVec 7) (s : State) : exec (.ordp a d) s = execOrdp a d s := by simp only [exec]
@[simp] theorem exec_ordr (a : BitVec 7) (d : BitVec 7) (s : State) : exec (.ordr a d) s = execOrdr a d s := by simp only [exec]
@[simp] theorem exec_bra (i1 : BitVec 17) (l : Bool) (g : Bool) (p : BitVec 6) (s : State) : exec (.bra i1 l g p) s = execBra i1 l g p s := by simp only [exec]
@[simp] theorem exec_call (i1 : BitVec 17) (l : Bool) (g : Bool) (p : BitVec 6) (s : State) : exec (.call i1 l g p) s = execCall i1 l g p s := by simp only [exec]
@[simp] theorem exec_jmps (a : BitVec 7) (s : State) : exec (.jmps a) s = execJmps a s := by simp only [exec]
@[simp] theorem exec_calls (a : BitVec 7) (s : State) : exec (.calls a) s = execCalls a s := by simp only [exec]
@[simp] theorem exec_ret (a : BitVec 7) (s : State) : exec (.ret a) s = execRet a s := by simp only [exec]
@[simp] theorem exec_exit (s : State) : exec (.exit) s = execExit s := by simp only [exec]
@[simp] theorem exec_knot (s : State) : exec (.knot) s = execKnot s := by simp only [exec]
@[simp] theorem exec_bar (b : BitVec 7) (a : BitVec 7) (s : State) : exec (.bar b a) s = execBar b a s := by simp only [exec]
@[simp] theorem exec_yield (s : State) : exec (.yield) s = execYield s := by simp only [exec]
@[simp] theorem exec_nop (s : State) : exec (.nop) s = execNop s := by simp only [exec]
@[simp] theorem exec_migShuttle (i1 : BitVec 7) (d : BitVec 7) (s : State) : exec (.migShuttle i1 d) s = execMigShuttle i1 d s := by simp only [exec]
@[simp] theorem exec_migBeam (i1 : BitVec 7) (d : BitVec 7) (s : State) : exec (.migBeam i1 d) s = execMigBeam i1 d s := by simp only [exec]
@[simp] theorem exec_trap (a : BitVec 7) (s : State) : exec (.trap a) s = execTrap a s := by simp only [exec]
@[simp] theorem exec_rett (s : State) : exec (.rett) s = execRett s := by simp only [exec]
@[simp] theorem exec_rettEnd (s : State) : exec (.rettEnd) s = execRettEnd s := by simp only [exec]
@[simp] theorem exec_qry (a : BitVec 7) (d : BitVec 7) (s : State) : exec (.qry a d) s = execQry a d s := by simp only [exec]
@[simp] theorem exec_ckpt (s : State) : exec (.ckpt) s = execCkpt s := by simp only [exec]
@[simp] theorem exec_brk (s : State) : exec (.brk) s = execBrk s := by simp only [exec]
@[simp] theorem exec_selv (y : Bool) (n : BitVec 2) (c : BitVec 7) (b : BitVec 7) (a : BitVec 7) (s : State) : exec (.selv y n c b a) s = execSelv y n c b a s := by simp only [exec]
@[simp] theorem exec_xp (p : BitVec 25) (s : State) : exec (.xp p) s = execXp p s := by simp only [exec]
@[simp] theorem exec_mov16 (b : BitVec 6) (d : BitVec 5) (s : State) : exec (.mov16 b d) s = execMov16 b d s := by simp only [exec]
@[simp] theorem exec_iadd16 (b : BitVec 6) (d : BitVec 5) (s : State) : exec (.iadd16 b d) s = execIadd16 b d s := by simp only [exec]
@[simp] theorem exec_isub16 (b : BitVec 6) (d : BitVec 5) (s : State) : exec (.isub16 b d) s = execIsub16 b d s := by simp only [exec]
@[simp] theorem exec_imul16 (b : BitVec 6) (d : BitVec 5) (s : State) : exec (.imul16 b d) s = execImul16 b d s := by simp only [exec]
@[simp] theorem exec_and16 (b : BitVec 6) (d : BitVec 5) (s : State) : exec (.and16 b d) s = execAnd16 b d s := by simp only [exec]
@[simp] theorem exec_or16 (b : BitVec 6) (d : BitVec 5) (s : State) : exec (.or16 b d) s = execOr16 b d s := by simp only [exec]
@[simp] theorem exec_xor16 (b : BitVec 6) (d : BitVec 5) (s : State) : exec (.xor16 b d) s = execXor16 b d s := by simp only [exec]
@[simp] theorem exec_shl16 (b : BitVec 6) (d : BitVec 5) (s : State) : exec (.shl16 b d) s = execShl16 b d s := by simp only [exec]
@[simp] theorem exec_shr16 (b : BitVec 6) (d : BitVec 5) (s : State) : exec (.shr16 b d) s = execShr16 b d s := by simp only [exec]
@[simp] theorem exec_sar16 (b : BitVec 6) (d : BitVec 5) (s : State) : exec (.sar16 b d) s = execSar16 b d s := by simp only [exec]
@[simp] theorem exec_imin16 (b : BitVec 6) (d : BitVec 5) (s : State) : exec (.imin16 b d) s = execImin16 b d s := by simp only [exec]
@[simp] theorem exec_imax16 (b : BitVec 6) (d : BitVec 5) (s : State) : exec (.imax16 b d) s = execImax16 b d s := by simp only [exec]
@[simp] theorem exec_fadd16 (b : BitVec 6) (d : BitVec 5) (s : State) : exec (.fadd16 b d) s = execFadd16 b d s := by simp only [exec]
@[simp] theorem exec_fmul16 (b : BitVec 6) (d : BitVec 5) (s : State) : exec (.fmul16 b d) s = execFmul16 b d s := by simp only [exec]
@[simp] theorem exec_fmax16 (b : BitVec 6) (d : BitVec 5) (s : State) : exec (.fmax16 b d) s = execFmax16 b d s := by simp only [exec]
@[simp] theorem exec_fmac (b : BitVec 6) (d : BitVec 5) (s : State) : exec (.fmac b d) s = execFmac b d s := by simp only [exec]
@[simp] theorem exec_powerOnReset (b : BootInput) (s : State) : exec (.powerOnReset b) s = execPowerOnReset b s := by simp only [exec]
@[simp] theorem exec_registerWrite (q : HostWrite) (s : State) : exec (.registerWrite q) s = execRegisterWrite q s := by simp only [exec]
@[simp] theorem exec_partitionEnable (p : Fin 8) (sec : Bool) (s : State) : exec (.partitionEnable p sec) s = execPartitionEnable p sec s := by simp only [exec]
@[simp] theorem exec_partitionDisable (p : Fin 8) (sec : Bool) (s : State) : exec (.partitionDisable p sec) s = execPartitionDisable p sec s := by simp only [exec]
@[simp] theorem exec_tenantEnable (p : Fin 8) (t : Fin 9) (sec : Bool) (s : State) : exec (.tenantEnable p t sec) s = execTenantEnable p t sec s := by simp only [exec]
@[simp] theorem exec_tenantDisable (p : Fin 8) (t : Fin 9) (sec : Bool) (s : State) : exec (.tenantDisable p t sec) s = execTenantDisable p t sec s := by simp only [exec]
@[simp] theorem exec_reside (p : Fin 8) (t : Fin 9) (sec : Bool) (s : State) : exec (.reside p t sec) s = execReside p t sec s := by simp only [exec]
@[simp] theorem exec_release (p : Fin 8) (t : Fin 9) (sec : Bool) (s : State) : exec (.release p t sec) s = execRelease p t sec s := by simp only [exec]
@[simp] theorem exec_preempt (p : Fin 8) (t : Fin 9) (sec : Bool) (s : State) : exec (.preempt p t sec) s = execPreempt p t sec s := by simp only [exec]
@[simp] theorem exec_contextReset (p : Fin 8) (t : Fin 9) (sec : Bool) (s : State) : exec (.contextReset p t sec) s = execContextReset p t sec s := by simp only [exec]
@[simp] theorem exec_resume (p : Fin 8) (t : Fin 9) (sec : Bool) (s : State) : exec (.resume p t sec) s = execResume p t sec s := by simp only [exec]
@[simp] theorem exec_ctxcmdInvalid (p : Fin 8) (t : Fin 9) (code : BitVec 32) (sec : Bool) (s : State) : exec (.ctxcmdInvalid p t code sec) s = execCtxcmdInvalid p t code sec s := by simp only [exec]
@[simp] theorem exec_contextDrained (p : Fin 8) (t : Fin 9) (s : State) : exec (.contextDrained p t) s = execContextDrained p t s := by simp only [exec]
@[simp] theorem exec_drainDeadline (p : Fin 8) (t : Fin 9) (s : State) : exec (.drainDeadline p t) s = execDrainDeadline p t s := by simp only [exec]
@[simp] theorem exec_placeTableWrite (k : PlaceKind) (n : Nat) (v : BitVec 32) (s : State) : exec (.placeTableWrite k n v) s = execPlaceTableWrite k n v s := by simp only [exec]
@[simp] theorem exec_clsuspSet (c : Fin 32) (s : State) : exec (.clsuspSet c) s = execClsuspSet c s := by simp only [exec]
@[simp] theorem exec_clsuspClear (c : Fin 32) (s : State) : exec (.clsuspClear c) s = execClsuspClear c s := by simp only [exec]
@[simp] theorem exec_clusterSuspended (c : Fin 32) (s : State) : exec (.clusterSuspended c) s = execClusterSuspended c s := by simp only [exec]
@[simp] theorem exec_invalidateAll (tn : BitVec 8) (s : State) : exec (.invalidateAll tn) s = execInvalidateAll tn s := by simp only [exec]
@[simp] theorem exec_invalidateTenant (tn : BitVec 8) (s : State) : exec (.invalidateTenant tn) s = execInvalidateTenant tn s := by simp only [exec]
@[simp] theorem exec_invalidateRange (tn : BitVec 8) (s : State) : exec (.invalidateRange tn) s = execInvalidateRange tn s := by simp only [exec]
@[simp] theorem exec_invalidationComplete (s : State) : exec (.invalidationComplete) s = execInvalidationComplete s := by simp only [exec]
@[simp] theorem exec_bindingEnable (n : Fin 256) (sec : Bool) (s : State) : exec (.bindingEnable n sec) s = execBindingEnable n sec s := by simp only [exec]
@[simp] theorem exec_bindingDisable (n : Fin 256) (sec : Bool) (s : State) : exec (.bindingDisable n sec) s = execBindingDisable n sec s := by simp only [exec]
@[simp] theorem exec_mbdataWrite (f : Fin 17) (slot : Fin 16) (off : Fin 64) (bytes : List (BitVec 8)) (s : State) : exec (.mbdataWrite f slot off bytes) s = execMbdataWrite f slot off bytes s := by simp only [exec]
@[simp] theorem exec_heldMessageEntry (f : Fin 17) (slot : Fin 16) (s : State) : exec (.heldMessageEntry f slot) s = execHeldMessageEntry f slot s := by simp only [exec]
@[simp] theorem exec_apertureRead (f : Fin 17) (off : Nat) (len : Nat) (s : State) : exec (.apertureRead f off len) s = execApertureRead f off len s := by simp only [exec]
@[simp] theorem exec_apertureWrite (f : Fin 17) (off : Nat) (bytes : List (BitVec 8)) (s : State) : exec (.apertureWrite f off bytes) s = execApertureWrite f off bytes s := by simp only [exec]
@[simp] theorem exec_apertureAtomic (f : Fin 17) (off : Nat) (s : State) : exec (.apertureAtomic f off) s = execApertureAtomic f off s := by simp only [exec]
@[simp] theorem exec_precopy (f : Fin 16) (s : State) : exec (.precopy f) s = execPrecopy f s := by simp only [exec]
@[simp] theorem exec_stop (f : Fin 16) (s : State) : exec (.stop f) s = execStop f s := by simp only [exec]
@[simp] theorem exec_stopComplete (f : Fin 16) (s : State) : exec (.stopComplete f) s = execStopComplete f s := by simp only [exec]
@[simp] theorem exec_snap (f : Fin 16) (s : State) : exec (.snap f) s = execSnap f s := by simp only [exec]
@[simp] theorem exec_snapComplete (f : Fin 16) (s : State) : exec (.snapComplete f) s = execSnapComplete f s := by simp only [exec]
@[simp] theorem exec_save (f : Fin 16) (s : State) : exec (.save f) s = execSave f s := by simp only [exec]
@[simp] theorem exec_run (f : Fin 16) (s : State) : exec (.run f) s = execRun f s := by simp only [exec]
@[simp] theorem exec_load (f : Fin 16) (k : Nat) (s : State) : exec (.load f k) s = execLoad f k s := by simp only [exec]
@[simp] theorem exec_winackWrite (f : Fin 16) (n : BitVec 32) (s : State) : exec (.winackWrite f n) s = execWinackWrite f n s := by simp only [exec]
@[simp] theorem exec_qryMaskWrite (f : Fin 16) (leaf : Fin 16) (v : BitVec 32) (s : State) : exec (.qryMaskWrite f leaf v) s = execQryMaskWrite f leaf v s := by simp only [exec]
@[simp] theorem exec_attestDevice (f : Fin 17) (s : State) : exec (.attestDevice f) s = execAttestDevice f s := by simp only [exec]
@[simp] theorem exec_attestTenant (f : Fin 17) (s : State) : exec (.attestTenant f) s = execAttestTenant f s := by simp only [exec]
@[simp] theorem exec_attestReportDone (f : Fin 17) (s : State) : exec (.attestReportDone f) s = execAttestReportDone f s := by simp only [exec]
@[simp] theorem exec_domainRingEnable (d : Fin 64) (v : BitVec 32) (sec : Bool) (s : State) : exec (.domainRingEnable d v sec) s = execDomainRingEnable d v sec s := by simp only [exec]
@[simp] theorem exec_chargeTick (s : State) : exec (.chargeTick) s = execChargeTick s := by simp only [exec]
@[simp] theorem exec_periodBoundary (s : State) : exec (.periodBoundary) s = execPeriodBoundary s := by simp only [exec]
@[simp] theorem exec_bandwidthPeriod (s : State) : exec (.bandwidthPeriod) s = execBandwidthPeriod s := by simp only [exec]
@[simp] theorem exec_cohortLaunch (c : Fin 32) (s : State) : exec (.cohortLaunch c) s = execCohortLaunch c s := by simp only [exec]
@[simp] theorem exec_wakeStart (c : Fin 32) (s : State) : exec (.wakeStart c) s = execWakeStart c s := by simp only [exec]
@[simp] theorem exec_wakeComplete (u : UnitId) (s : State) : exec (.wakeComplete u) s = execWakeComplete u s := by simp only [exec]
@[simp] theorem exec_idleToG1 (u : UnitId) (s : State) : exec (.idleToG1 u) s = execIdleToG1 u s := by simp only [exec]
@[simp] theorem exec_g1ToG2 (u : UnitId) (s : State) : exec (.g1ToG2 u) s = execG1ToG2 u s := by simp only [exec]
@[simp] theorem exec_enterG3 (u : UnitId) (s : State) : exec (.enterG3 u) s = execEnterG3 u s := by simp only [exec]
@[simp] theorem exec_workgroupRetire (w : Nat) (s : State) : exec (.workgroupRetire w) s = execWorkgroupRetire w s := by simp only [exec]
@[simp] theorem exec_ticketPass (k : Nat) (s : State) : exec (.ticketPass k) s = execTicketPass k s := by simp only [exec]
@[simp] theorem exec_ordwGrant (k : Nat) (s : State) : exec (.ordwGrant k) s = execOrdwGrant k s := by simp only [exec]
@[simp] theorem exec_taskStart (e : EngineId) (s : State) : exec (.taskStart e) s = execTaskStart e s := by simp only [exec]
@[simp] theorem exec_taskComplete (e : EngineId) (soft : BitVec 4) (s : State) : exec (.taskComplete e soft) s = execTaskComplete e soft s := by simp only [exec]
@[simp] theorem exec_sliceEnd (c : Fin 32) (s : State) : exec (.sliceEnd c) s = execSliceEnd c s := by simp only [exec]
@[simp] theorem exec_groupHalt (w : Nat) (g : Fin 16) (s : State) : exec (.groupHalt w g) s = execGroupHalt w g s := by simp only [exec]
@[simp] theorem exec_sliceResume (c : Fin 32) (s : State) : exec (.sliceResume c) s = execSliceResume c s := by simp only [exec]
@[simp] theorem exec_migGrant (w : Nat) (core : Nat) (s : State) : exec (.migGrant w core) s = execMigGrant w core s := by simp only [exec]
@[simp] theorem exec_migDeadline (w : Nat) (s : State) : exec (.migDeadline w) s = execMigDeadline w s := by simp only [exec]
@[simp] theorem exec_migMove (w : Nat) (s : State) : exec (.migMove w) s = execMigMove w s := by simp only [exec]
@[simp] theorem exec_homeRequest (k : Nat) (s : State) : exec (.homeRequest k) s = execHomeRequest k s := by simp only [exec]
@[simp] theorem exec_l1Eviction (core : Nat) (line : Nat) (s : State) : exec (.l1Eviction core line) s = execL1Eviction core line s := by simp only [exec]
@[simp] theorem exec_translationWalkComplete (k : Nat) (s : State) : exec (.translationWalkComplete k) s = execTranslationWalkComplete k s := by simp only [exec]
@[simp] theorem exec_compareTimeout (w : Nat) (g : Fin 16) (s : State) : exec (.compareTimeout w g) s = execCompareTimeout w g s := by simp only [exec]
@[simp] theorem exec_sspDecision (k : Fin 16) (s : State) : exec (.sspDecision k) s = execSspDecision k s := by simp only [exec]
@[simp] theorem exec_pairRelease (k : Fin 16) (s : State) : exec (.pairRelease k) s = execPairRelease k s := by simp only [exec]
@[simp] theorem exec_selfTestComplete (k : Fin 16) (failLead : Bool) (failTrail : Bool) (s : State) : exec (.selfTestComplete k failLead failTrail) s = execSelfTestComplete k failLead failTrail s := by simp only [exec]
@[simp] theorem exec_uncorrectableEcc (e : EccSite) (s : State) : exec (.uncorrectableEcc e) s = execUncorrectableEcc e s := by simp only [exec]
@[simp] theorem exec_correctedError (s : State) : exec (.correctedError) s = execCorrectedError s := by simp only [exec]
@[simp] theorem exec_longLatencyResult (w : Nat) (g : Fin 16) (r : Role) (s : State) : exec (.longLatencyResult w g r) s = execLongLatencyResult w g r s := by simp only [exec]
@[simp] theorem exec_secureStreamKeyed (s : State) : exec (.secureStreamKeyed) s = execSecureStreamKeyed s := by simp only [exec]

end Sys2Proof.Machine
end

