-- ==== Sys2Proof/Laws/State.lean ====
section
/-! SUPPORT. What the shared updates of the state leave in each field, one lemma for each field and update, so that no later proof unfolds a
record update. -/
namespace Sys2Proof.Machine

set_option Elab.async false

/-! ### modG: the group at the issue stage -/

@[simp] theorem modG_grp (s : State) (f : Group → Group) : (modG s f).grp = f s.grp := rfl
@[simp] theorem modG_others (s : State) (f : Group → Group) : (modG s f).others = s.others := rfl
@[simp] theorem modG_wgs (s : State) (f : Group → Group) : (modG s f).wgs = s.wgs := rfl
@[simp] theorem modG_grids (s : State) (f : Group → Group) : (modG s f).grids = s.grids := rfl
@[simp] theorem modG_relaunch (s : State) (f : Group → Group) : (modG s f).relaunch = s.relaunch := rfl
@[simp] theorem modG_pipes (s : State) (f : Group → Group) : (modG s f).pipes = s.pipes := rfl
@[simp] theorem modG_lastLaunch (s : State) (f : Group → Group) : (modG s f).lastLaunch = s.lastLaunch := rfl
@[simp] theorem modG_mem (s : State) (f : Group → Group) : (modG s f).mem = s.mem := rfl
@[simp] theorem modG_hostMem (s : State) (f : Group → Group) : (modG s f).hostMem = s.hostMem := rfl
@[simp] theorem modG_hed (s : State) (f : Group → Group) : (modG s f).hed = s.hed := rfl
@[simp] theorem modG_l1 (s : State) (f : Group → Group) : (modG s f).l1 = s.l1 := rfl
@[simp] theorem modG_l2 (s : State) (f : Group → Group) : (modG s f).l2 = s.l2 := rfl
@[simp] theorem modG_homeQ (s : State) (f : Group → Group) : (modG s f).homeQ = s.homeQ := rfl
@[simp] theorem modG_early (s : State) (f : Group → Group) : (modG s f).early = s.early := rfl
@[simp] theorem modG_tlb (s : State) (f : Group → Group) : (modG s f).tlb = s.tlb := rfl
@[simp] theorem modG_walks (s : State) (f : Group → Group) : (modG s f).walks = s.walks := rfl
@[simp] theorem modG_sfq (s : State) (f : Group → Group) : (modG s f).sfq = s.sfq := rfl
@[simp] theorem modG_creels (s : State) (f : Group → Group) : (modG s f).creels = s.creels := rfl
@[simp] theorem modG_creelTen (s : State) (f : Group → Group) : (modG s f).creelTen = s.creelTen := rfl
@[simp] theorem modG_readyQ (s : State) (f : Group → Group) : (modG s f).readyQ = s.readyQ := rfl
@[simp] theorem modG_engq (s : State) (f : Group → Group) : (modG s f).engq = s.engq := rfl
@[simp] theorem modG_held (s : State) (f : Group → Group) : (modG s f).held = s.held := rfl
@[simp] theorem modG_marks (s : State) (f : Group → Group) : (modG s f).marks = s.marks := rfl
@[simp] theorem modG_nodes (s : State) (f : Group → Group) : (modG s f).nodes = s.nodes := rfl
@[simp] theorem modG_units (s : State) (f : Group → Group) : (modG s f).units = s.units := rfl
@[simp] theorem modG_wakes (s : State) (f : Group → Group) : (modG s f).wakes = s.wakes := rfl
@[simp] theorem modG_wakeQ (s : State) (f : Group → Group) : (modG s f).wakeQ = s.wakeQ := rfl
@[simp] theorem modG_slices (s : State) (f : Group → Group) : (modG s f).slices = s.slices := rfl
@[simp] theorem modG_now (s : State) (f : Group → Group) : (modG s f).now = s.now := rfl
@[simp] theorem modG_periods (s : State) (f : Group → Group) : (modG s f).periods = s.periods := rfl
@[simp] theorem modG_dev (s : State) (f : Group → Group) : (modG s f).dev = s.dev := rfl
@[simp] theorem modG_cfg (s : State) (f : Group → Group) : (modG s f).cfg = s.cfg := rfl
@[simp] theorem modG_parts (s : State) (f : Group → Group) : (modG s f).parts = s.parts := rfl
@[simp] theorem modG_place (s : State) (f : Group → Group) : (modG s f).place = s.place := rfl
@[simp] theorem modG_inv (s : State) (f : Group → Group) : (modG s f).inv = s.inv := rfl
@[simp] theorem modG_binds (s : State) (f : Group → Group) : (modG s f).binds = s.binds := rfl
@[simp] theorem modG_mbox (s : State) (f : Group → Group) : (modG s f).mbox = s.mbox := rfl
@[simp] theorem modG_vfs (s : State) (f : Group → Group) : (modG s f).vfs = s.vfs := rfl
@[simp] theorem modG_streams (s : State) (f : Group → Group) : (modG s f).streams = s.streams := rfl
@[simp] theorem modG_qmask (s : State) (f : Group → Group) : (modG s f).qmask = s.qmask := rfl
@[simp] theorem modG_attest (s : State) (f : Group → Group) : (modG s f).attest = s.attest := rfl
@[simp] theorem modG_msix (s : State) (f : Group → Group) : (modG s f).msix = s.msix := rfl
@[simp] theorem modG_policy (s : State) (f : Group → Group) : (modG s f).policy = s.policy := rfl
@[simp] theorem modG_domains (s : State) (f : Group → Group) : (modG s f).domains = s.domains := rfl
@[simp] theorem modG_pairs (s : State) (f : Group → Group) : (modG s f).pairs = s.pairs := rfl
@[simp] theorem modG_out (s : State) (f : Group → Group) : (modG s f).out = s.out := rfl
@[simp] theorem modG_agenda (s : State) (f : Group → Group) : (modG s f).agenda = s.agenda := rfl
@[simp] theorem modG_fresh (s : State) (f : Group → Group) : (modG s f).fresh = s.fresh := rfl

/-! ### modC: its context -/

@[simp] theorem modC_c (s : State) (f : Ctx → Ctx) : (modC s f).c = f s.c := rfl
@[simp] theorem modC_grp_wg (s : State) (f : Ctx → Ctx) : (modC s f).grp.wg = s.grp.wg := rfl
@[simp] theorem modC_grp_gid (s : State) (f : Ctx → Ctx) : (modC s f).grp.gid = s.grp.gid := rfl
@[simp] theorem modC_grp_role (s : State) (f : Ctx → Ctx) : (modC s f).grp.role = s.grp.role := rfl
@[simp] theorem modC_grp_core (s : State) (f : Ctx → Ctx) : (modC s f).grp.core = s.grp.core := rfl
@[simp] theorem modC_grp_slot (s : State) (f : Ctx → Ctx) : (modC s f).grp.slot = s.grp.slot := rfl
@[simp] theorem modC_grp_vbud (s : State) (f : Ctx → Ctx) : (modC s f).grp.vbud = s.grp.vbud := rfl
@[simp] theorem modC_grp_sbud (s : State) (f : Ctx → Ctx) : (modC s f).grp.sbud = s.grp.sbud := rfl
@[simp] theorem modC_grp_phase (s : State) (f : Ctx → Ctx) : (modC s f).grp.phase = s.grp.phase := rfl
@[simp] theorem modC_grp_halted (s : State) (f : Ctx → Ctx) : (modC s f).grp.halted = s.grp.halted := rfl
@[simp] theorem modC_grp_stamp (s : State) (f : Ctx → Ctx) : (modC s f).grp.stamp = s.grp.stamp := rfl
@[simp] theorem modC_grp_heldSince (s : State) (f : Ctx → Ctx) : (modC s f).grp.heldSince = s.grp.heldSince := rfl
@[simp] theorem modC_grp_spilled (s : State) (f : Ctx → Ctx) : (modC s f).grp.spilled = s.grp.spilled := rfl
@[simp] theorem modC_grp_c (s : State) (f : Ctx → Ctx) : (modC s f).grp.c = f s.grp.c := rfl
@[simp] theorem modC_grp_arr (s : State) (f : Ctx → Ctx) : (modC s f).grp.arr = s.grp.arr := rfl
@[simp] theorem modC_grp_cbuf (s : State) (f : Ctx → Ctx) : (modC s f).grp.cbuf = s.grp.cbuf := rfl
@[simp] theorem modC_grp_undo (s : State) (f : Ctx → Ctx) : (modC s f).grp.undo = s.grp.undo := rfl
@[simp] theorem modC_grp_snap (s : State) (f : Ctx → Ctx) : (modC s f).grp.snap = s.grp.snap := rfl
@[simp] theorem modC_grp_cmp (s : State) (f : Ctx → Ctx) : (modC s f).grp.cmp = s.grp.cmp := rfl
@[simp] theorem modC_grp_fwd (s : State) (f : Ctx → Ctx) : (modC s f).grp.fwd = s.grp.fwd := rfl
@[simp] theorem modC_grp_migK (s : State) (f : Ctx → Ctx) : (modC s f).grp.migK = s.grp.migK := rfl
@[simp] theorem modC_grp_migSf (s : State) (f : Ctx → Ctx) : (modC s f).grp.migSf = s.grp.migSf := rfl
@[simp] theorem modC_grp_gave (s : State) (f : Ctx → Ctx) : (modC s f).grp.gave = s.grp.gave := rfl
@[simp] theorem modC_others (s : State) (f : Ctx → Ctx) : (modC s f).others = s.others := rfl
@[simp] theorem modC_wgs (s : State) (f : Ctx → Ctx) : (modC s f).wgs = s.wgs := rfl
@[simp] theorem modC_grids (s : State) (f : Ctx → Ctx) : (modC s f).grids = s.grids := rfl
@[simp] theorem modC_relaunch (s : State) (f : Ctx → Ctx) : (modC s f).relaunch = s.relaunch := rfl
@[simp] theorem modC_pipes (s : State) (f : Ctx → Ctx) : (modC s f).pipes = s.pipes := rfl
@[simp] theorem modC_lastLaunch (s : State) (f : Ctx → Ctx) : (modC s f).lastLaunch = s.lastLaunch := rfl
@[simp] theorem modC_mem (s : State) (f : Ctx → Ctx) : (modC s f).mem = s.mem := rfl
@[simp] theorem modC_hostMem (s : State) (f : Ctx → Ctx) : (modC s f).hostMem = s.hostMem := rfl
@[simp] theorem modC_hed (s : State) (f : Ctx → Ctx) : (modC s f).hed = s.hed := rfl
@[simp] theorem modC_l1 (s : State) (f : Ctx → Ctx) : (modC s f).l1 = s.l1 := rfl
@[simp] theorem modC_l2 (s : State) (f : Ctx → Ctx) : (modC s f).l2 = s.l2 := rfl
@[simp] theorem modC_homeQ (s : State) (f : Ctx → Ctx) : (modC s f).homeQ = s.homeQ := rfl
@[simp] theorem modC_early (s : State) (f : Ctx → Ctx) : (modC s f).early = s.early := rfl
@[simp] theorem modC_tlb (s : State) (f : Ctx → Ctx) : (modC s f).tlb = s.tlb := rfl
@[simp] theorem modC_walks (s : State) (f : Ctx → Ctx) : (modC s f).walks = s.walks := rfl
@[simp] theorem modC_sfq (s : State) (f : Ctx → Ctx) : (modC s f).sfq = s.sfq := rfl
@[simp] theorem modC_creels (s : State) (f : Ctx → Ctx) : (modC s f).creels = s.creels := rfl
@[simp] theorem modC_creelTen (s : State) (f : Ctx → Ctx) : (modC s f).creelTen = s.creelTen := rfl
@[simp] theorem modC_readyQ (s : State) (f : Ctx → Ctx) : (modC s f).readyQ = s.readyQ := rfl
@[simp] theorem modC_engq (s : State) (f : Ctx → Ctx) : (modC s f).engq = s.engq := rfl
@[simp] theorem modC_held (s : State) (f : Ctx → Ctx) : (modC s f).held = s.held := rfl
@[simp] theorem modC_marks (s : State) (f : Ctx → Ctx) : (modC s f).marks = s.marks := rfl
@[simp] theorem modC_nodes (s : State) (f : Ctx → Ctx) : (modC s f).nodes = s.nodes := rfl
@[simp] theorem modC_units (s : State) (f : Ctx → Ctx) : (modC s f).units = s.units := rfl
@[simp] theorem modC_wakes (s : State) (f : Ctx → Ctx) : (modC s f).wakes = s.wakes := rfl
@[simp] theorem modC_wakeQ (s : State) (f : Ctx → Ctx) : (modC s f).wakeQ = s.wakeQ := rfl
@[simp] theorem modC_slices (s : State) (f : Ctx → Ctx) : (modC s f).slices = s.slices := rfl
@[simp] theorem modC_now (s : State) (f : Ctx → Ctx) : (modC s f).now = s.now := rfl
@[simp] theorem modC_periods (s : State) (f : Ctx → Ctx) : (modC s f).periods = s.periods := rfl
@[simp] theorem modC_dev (s : State) (f : Ctx → Ctx) : (modC s f).dev = s.dev := rfl
@[simp] theorem modC_cfg (s : State) (f : Ctx → Ctx) : (modC s f).cfg = s.cfg := rfl
@[simp] theorem modC_parts (s : State) (f : Ctx → Ctx) : (modC s f).parts = s.parts := rfl
@[simp] theorem modC_place (s : State) (f : Ctx → Ctx) : (modC s f).place = s.place := rfl
@[simp] theorem modC_inv (s : State) (f : Ctx → Ctx) : (modC s f).inv = s.inv := rfl
@[simp] theorem modC_binds (s : State) (f : Ctx → Ctx) : (modC s f).binds = s.binds := rfl
@[simp] theorem modC_mbox (s : State) (f : Ctx → Ctx) : (modC s f).mbox = s.mbox := rfl
@[simp] theorem modC_vfs (s : State) (f : Ctx → Ctx) : (modC s f).vfs = s.vfs := rfl
@[simp] theorem modC_streams (s : State) (f : Ctx → Ctx) : (modC s f).streams = s.streams := rfl
@[simp] theorem modC_qmask (s : State) (f : Ctx → Ctx) : (modC s f).qmask = s.qmask := rfl
@[simp] theorem modC_attest (s : State) (f : Ctx → Ctx) : (modC s f).attest = s.attest := rfl
@[simp] theorem modC_msix (s : State) (f : Ctx → Ctx) : (modC s f).msix = s.msix := rfl
@[simp] theorem modC_policy (s : State) (f : Ctx → Ctx) : (modC s f).policy = s.policy := rfl
@[simp] theorem modC_domains (s : State) (f : Ctx → Ctx) : (modC s f).domains = s.domains := rfl
@[simp] theorem modC_pairs (s : State) (f : Ctx → Ctx) : (modC s f).pairs = s.pairs := rfl
@[simp] theorem modC_out (s : State) (f : Ctx → Ctx) : (modC s f).out = s.out := rfl
@[simp] theorem modC_agenda (s : State) (f : Ctx → Ctx) : (modC s f).agenda = s.agenda := rfl
@[simp] theorem modC_fresh (s : State) (f : Ctx → Ctx) : (modC s f).fresh = s.fresh := rfl

/-! ### retire: the end of an instruction -/

@[simp] theorem retire_grp_wg (s : State) (size : Nat) (t0 : Latch) : (retire s size t0).grp.wg = s.grp.wg := rfl
@[simp] theorem retire_grp_gid (s : State) (size : Nat) (t0 : Latch) : (retire s size t0).grp.gid = s.grp.gid := rfl
@[simp] theorem retire_grp_role (s : State) (size : Nat) (t0 : Latch) : (retire s size t0).grp.role = s.grp.role := rfl
@[simp] theorem retire_grp_core (s : State) (size : Nat) (t0 : Latch) : (retire s size t0).grp.core = s.grp.core := rfl
@[simp] theorem retire_grp_slot (s : State) (size : Nat) (t0 : Latch) : (retire s size t0).grp.slot = s.grp.slot := rfl
@[simp] theorem retire_grp_vbud (s : State) (size : Nat) (t0 : Latch) : (retire s size t0).grp.vbud = s.grp.vbud := rfl
@[simp] theorem retire_grp_sbud (s : State) (size : Nat) (t0 : Latch) : (retire s size t0).grp.sbud = s.grp.sbud := rfl
@[simp] theorem retire_grp_phase (s : State) (size : Nat) (t0 : Latch) : (retire s size t0).grp.phase = s.grp.phase := rfl
@[simp] theorem retire_grp_halted (s : State) (size : Nat) (t0 : Latch) : (retire s size t0).grp.halted = s.grp.halted := rfl
@[simp] theorem retire_grp_stamp (s : State) (size : Nat) (t0 : Latch) : (retire s size t0).grp.stamp = s.grp.stamp := rfl
@[simp] theorem retire_grp_heldSince (s : State) (size : Nat) (t0 : Latch) : (retire s size t0).grp.heldSince = s.grp.heldSince := rfl
@[simp] theorem retire_grp_spilled (s : State) (size : Nat) (t0 : Latch) : (retire s size t0).grp.spilled = s.grp.spilled := rfl
@[simp] theorem retire_grp_arr (s : State) (size : Nat) (t0 : Latch) : (retire s size t0).grp.arr = s.grp.arr := rfl
@[simp] theorem retire_grp_cbuf (s : State) (size : Nat) (t0 : Latch) : (retire s size t0).grp.cbuf = s.grp.cbuf := rfl
@[simp] theorem retire_grp_undo (s : State) (size : Nat) (t0 : Latch) : (retire s size t0).grp.undo = s.grp.undo := rfl
@[simp] theorem retire_grp_snap (s : State) (size : Nat) (t0 : Latch) : (retire s size t0).grp.snap = s.grp.snap := rfl
@[simp] theorem retire_grp_cmp (s : State) (size : Nat) (t0 : Latch) : (retire s size t0).grp.cmp = s.grp.cmp := rfl
@[simp] theorem retire_grp_fwd (s : State) (size : Nat) (t0 : Latch) : (retire s size t0).grp.fwd = s.grp.fwd := rfl
@[simp] theorem retire_grp_migK (s : State) (size : Nat) (t0 : Latch) : (retire s size t0).grp.migK = s.grp.migK := rfl
@[simp] theorem retire_grp_migSf (s : State) (size : Nat) (t0 : Latch) : (retire s size t0).grp.migSf = s.grp.migSf := rfl
@[simp] theorem retire_grp_gave (s : State) (size : Nat) (t0 : Latch) : (retire s size t0).grp.gave = s.grp.gave := rfl
@[simp] theorem retire_others (s : State) (size : Nat) (t0 : Latch) : (retire s size t0).others = s.others := rfl
@[simp] theorem retire_wgs (s : State) (size : Nat) (t0 : Latch) : (retire s size t0).wgs = s.wgs := rfl
@[simp] theorem retire_grids (s : State) (size : Nat) (t0 : Latch) : (retire s size t0).grids = s.grids := rfl
@[simp] theorem retire_relaunch (s : State) (size : Nat) (t0 : Latch) : (retire s size t0).relaunch = s.relaunch := rfl
@[simp] theorem retire_pipes (s : State) (size : Nat) (t0 : Latch) : (retire s size t0).pipes = s.pipes := rfl
@[simp] theorem retire_lastLaunch (s : State) (size : Nat) (t0 : Latch) : (retire s size t0).lastLaunch = s.lastLaunch := rfl
@[simp] theorem retire_mem (s : State) (size : Nat) (t0 : Latch) : (retire s size t0).mem = s.mem := rfl
@[simp] theorem retire_hostMem (s : State) (size : Nat) (t0 : Latch) : (retire s size t0).hostMem = s.hostMem := rfl
@[simp] theorem retire_hed (s : State) (size : Nat) (t0 : Latch) : (retire s size t0).hed = s.hed := rfl
@[simp] theorem retire_l1 (s : State) (size : Nat) (t0 : Latch) : (retire s size t0).l1 = s.l1 := rfl
@[simp] theorem retire_l2 (s : State) (size : Nat) (t0 : Latch) : (retire s size t0).l2 = s.l2 := rfl
@[simp] theorem retire_homeQ (s : State) (size : Nat) (t0 : Latch) : (retire s size t0).homeQ = s.homeQ := rfl
@[simp] theorem retire_early (s : State) (size : Nat) (t0 : Latch) : (retire s size t0).early = s.early := rfl
@[simp] theorem retire_tlb (s : State) (size : Nat) (t0 : Latch) : (retire s size t0).tlb = s.tlb := rfl
@[simp] theorem retire_walks (s : State) (size : Nat) (t0 : Latch) : (retire s size t0).walks = s.walks := rfl
@[simp] theorem retire_sfq (s : State) (size : Nat) (t0 : Latch) : (retire s size t0).sfq = s.sfq := rfl
@[simp] theorem retire_creels (s : State) (size : Nat) (t0 : Latch) : (retire s size t0).creels = s.creels := rfl
@[simp] theorem retire_creelTen (s : State) (size : Nat) (t0 : Latch) : (retire s size t0).creelTen = s.creelTen := rfl
@[simp] theorem retire_readyQ (s : State) (size : Nat) (t0 : Latch) : (retire s size t0).readyQ = s.readyQ := rfl
@[simp] theorem retire_engq (s : State) (size : Nat) (t0 : Latch) : (retire s size t0).engq = s.engq := rfl
@[simp] theorem retire_held (s : State) (size : Nat) (t0 : Latch) : (retire s size t0).held = s.held := rfl
@[simp] theorem retire_marks (s : State) (size : Nat) (t0 : Latch) : (retire s size t0).marks = s.marks := rfl
@[simp] theorem retire_nodes (s : State) (size : Nat) (t0 : Latch) : (retire s size t0).nodes = s.nodes := rfl
@[simp] theorem retire_units (s : State) (size : Nat) (t0 : Latch) : (retire s size t0).units = s.units := rfl
@[simp] theorem retire_wakes (s : State) (size : Nat) (t0 : Latch) : (retire s size t0).wakes = s.wakes := rfl
@[simp] theorem retire_wakeQ (s : State) (size : Nat) (t0 : Latch) : (retire s size t0).wakeQ = s.wakeQ := rfl
@[simp] theorem retire_slices (s : State) (size : Nat) (t0 : Latch) : (retire s size t0).slices = s.slices := rfl
@[simp] theorem retire_now (s : State) (size : Nat) (t0 : Latch) : (retire s size t0).now = s.now := rfl
@[simp] theorem retire_periods (s : State) (size : Nat) (t0 : Latch) : (retire s size t0).periods = s.periods := rfl
@[simp] theorem retire_dev (s : State) (size : Nat) (t0 : Latch) : (retire s size t0).dev = s.dev := rfl
@[simp] theorem retire_cfg (s : State) (size : Nat) (t0 : Latch) : (retire s size t0).cfg = s.cfg := rfl
@[simp] theorem retire_parts (s : State) (size : Nat) (t0 : Latch) : (retire s size t0).parts = s.parts := rfl
@[simp] theorem retire_place (s : State) (size : Nat) (t0 : Latch) : (retire s size t0).place = s.place := rfl
@[simp] theorem retire_inv (s : State) (size : Nat) (t0 : Latch) : (retire s size t0).inv = s.inv := rfl
@[simp] theorem retire_binds (s : State) (size : Nat) (t0 : Latch) : (retire s size t0).binds = s.binds := rfl
@[simp] theorem retire_mbox (s : State) (size : Nat) (t0 : Latch) : (retire s size t0).mbox = s.mbox := rfl
@[simp] theorem retire_vfs (s : State) (size : Nat) (t0 : Latch) : (retire s size t0).vfs = s.vfs := rfl
@[simp] theorem retire_streams (s : State) (size : Nat) (t0 : Latch) : (retire s size t0).streams = s.streams := rfl
@[simp] theorem retire_qmask (s : State) (size : Nat) (t0 : Latch) : (retire s size t0).qmask = s.qmask := rfl
@[simp] theorem retire_attest (s : State) (size : Nat) (t0 : Latch) : (retire s size t0).attest = s.attest := rfl
@[simp] theorem retire_msix (s : State) (size : Nat) (t0 : Latch) : (retire s size t0).msix = s.msix := rfl
@[simp] theorem retire_policy (s : State) (size : Nat) (t0 : Latch) : (retire s size t0).policy = s.policy := rfl
@[simp] theorem retire_domains (s : State) (size : Nat) (t0 : Latch) : (retire s size t0).domains = s.domains := rfl
@[simp] theorem retire_pairs (s : State) (size : Nat) (t0 : Latch) : (retire s size t0).pairs = s.pairs := rfl
@[simp] theorem retire_out (s : State) (size : Nat) (t0 : Latch) : (retire s size t0).out = s.out := rfl
@[simp] theorem retire_agenda (s : State) (size : Nat) (t0 : Latch) : (retire s size t0).agenda = s.agenda := rfl
@[simp] theorem retire_fresh (s : State) (size : Nat) (t0 : Latch) : (retire s size t0).fresh = s.fresh := rfl
@[simp] theorem retire_c_v (s : State) (size : Nat) (t0 : Latch) : (retire s size t0).c.v = s.c.v := rfl
@[simp] theorem retire_c_s (s : State) (size : Nat) (t0 : Latch) : (retire s size t0).c.s = s.c.s := rfl
@[simp] theorem retire_c_p (s : State) (size : Nat) (t0 : Latch) : (retire s size t0).c.p = s.c.p := rfl
@[simp] theorem retire_c_lpc (s : State) (size : Nat) (t0 : Latch) : (retire s size t0).c.lpc = s.c.lpc := rfl
@[simp] theorem retire_c_exitM (s : State) (size : Nat) (t0 : Latch) : (retire s size t0).c.exitM = s.c.exitM := rfl
@[simp] theorem retire_c_waitM (s : State) (size : Nat) (t0 : Latch) : (retire s size t0).c.waitM = s.c.waitM := rfl
@[simp] theorem retire_c_parkM (s : State) (size : Nat) (t0 : Latch) : (retire s size t0).c.parkM = s.c.parkM := rfl
@[simp] theorem retire_c_barM (s : State) (size : Nat) (t0 : Latch) : (retire s size t0).c.barM = s.c.barM := rfl
@[simp] theorem retire_c_migM (s : State) (size : Nat) (t0 : Latch) : (retire s size t0).c.migM = s.c.migM := rfl
@[simp] theorem retire_c_barN (s : State) (size : Nat) (t0 : Latch) : (retire s size t0).c.barN = s.c.barN := rfl
@[simp] theorem retire_c_barA (s : State) (size : Nat) (t0 : Latch) : (retire s size t0).c.barA = s.c.barA := rfl
@[simp] theorem retire_c_arrM (s : State) (size : Nat) (t0 : Latch) : (retire s size t0).c.arrM = s.c.arrM := rfl
@[simp] theorem retire_c_migW (s : State) (size : Nat) (t0 : Latch) : (retire s size t0).c.migW = s.c.migW := rfl
@[simp] theorem retire_c_starve (s : State) (size : Nat) (t0 : Latch) : (retire s size t0).c.starve = s.c.count.starve := rfl
@[simp] theorem retire_c_part (s : State) (size : Nat) (t0 : Latch) : (retire s size t0).c.part = s.c.part := rfl
@[simp] theorem retire_c_icount (s : State) (size : Nat) (t0 : Latch) : (retire s size t0).c.icount = s.c.icount + 1 := rfl
@[simp] theorem retire_c_twin (s : State) (size : Nat) (t0 : Latch) : (retire s size t0).c.twin = s.c.twin := rfl
@[simp] theorem retire_c_pend (s : State) (size : Nat) (t0 : Latch) : (retire s size t0).c.pend = s.c.pend := rfl
@[simp] theorem retire_c_eccs (s : State) (size : Nat) (t0 : Latch) : (retire s size t0).c.eccs = s.c.eccs := rfl
@[simp] theorem retire_c_run (s : State) (size : Nat) (t0 : Latch) : (retire s size t0).c.run = { s.c.run.shift t0 with pc := s.c.run.pc + BitVec.ofNat 32 size, act := s.c.redo.getD s.c.run.act } := rfl
@[simp] theorem retire_c_shadow (s : State) (size : Nat) (t0 : Latch) : (retire s size t0).c.shadow = s.c.shadow := rfl
@[simp] theorem retire_c_xpw (s : State) (size : Nat) (t0 : Latch) : (retire s size t0).c.xpw = none := rfl
@[simp] theorem retire_c_inH (s : State) (size : Nat) (t0 : Latch) : (retire s size t0).c.inH = s.c.inH := rfl
@[simp] theorem retire_c_sup (s : State) (size : Nat) (t0 : Latch) : (retire s size t0).c.sup = s.c.sup := rfl
@[simp] theorem retire_c_frameOn (s : State) (size : Nat) (t0 : Latch) : (retire s size t0).c.frameOn = s.c.frameOn := rfl
@[simp] theorem retire_c_frame (s : State) (size : Nat) (t0 : Latch) : (retire s size t0).c.frame = s.c.frame := rfl
@[simp] theorem retire_c_fCause (s : State) (size : Nat) (t0 : Latch) : (retire s size t0).c.fCause = s.c.fCause := rfl
@[simp] theorem retire_c_fAddr (s : State) (size : Nat) (t0 : Latch) : (retire s size t0).c.fAddr = s.c.fAddr := rfl
@[simp] theorem retire_c_selLane (s : State) (size : Nat) (t0 : Latch) : (retire s size t0).c.selLane = s.c.selLane := rfl
@[simp] theorem retire_c_recD (s : State) (size : Nat) (t0 : Latch) : (retire s size t0).c.recD = s.c.recD := rfl
@[simp] theorem retire_c_recS (s : State) (size : Nat) (t0 : Latch) : (retire s size t0).c.recS = s.c.recS := rfl
@[simp] theorem retire_c_redo (s : State) (size : Nat) (t0 : Latch) : (retire s size t0).c.redo = none := rfl
@[simp] theorem retire_c_leave (s : State) (size : Nat) (t0 : Latch) : (retire s size t0).c.leave = s.c.leave := rfl
@[simp] theorem retire_c_lastNpc (s : State) (size : Nat) (t0 : Latch) : (retire s size t0).c.lastNpc = s.c.npc := rfl

/-! ### Register writes -/

@[simp] theorem setV_s (c : Ctx) (k : Nat) (m : Mask) (g : Lane → Word) : (c.setV k m g).s = c.s := by
  unfold Ctx.setV; split <;> rfl
@[simp] theorem setV_p (c : Ctx) (k : Nat) (m : Mask) (g : Lane → Word) : (c.setV k m g).p = c.p := by
  unfold Ctx.setV; split <;> rfl
@[simp] theorem setV_lpc (c : Ctx) (k : Nat) (m : Mask) (g : Lane → Word) : (c.setV k m g).lpc = c.lpc := by
  unfold Ctx.setV; split <;> rfl
@[simp] theorem setV_exitM (c : Ctx) (k : Nat) (m : Mask) (g : Lane → Word) : (c.setV k m g).exitM = c.exitM := by
  unfold Ctx.setV; split <;> rfl
@[simp] theorem setV_waitM (c : Ctx) (k : Nat) (m : Mask) (g : Lane → Word) : (c.setV k m g).waitM = c.waitM := by
  unfold Ctx.setV; split <;> rfl
@[simp] theorem setV_parkM (c : Ctx) (k : Nat) (m : Mask) (g : Lane → Word) : (c.setV k m g).parkM = c.parkM := by
  unfold Ctx.setV; split <;> rfl
@[simp] theorem setV_barM (c : Ctx) (k : Nat) (m : Mask) (g : Lane → Word) : (c.setV k m g).barM = c.barM := by
  unfold Ctx.setV; split <;> rfl
@[simp] theorem setV_migM (c : Ctx) (k : Nat) (m : Mask) (g : Lane → Word) : (c.setV k m g).migM = c.migM := by
  unfold Ctx.setV; split <;> rfl
@[simp] theorem setV_barN (c : Ctx) (k : Nat) (m : Mask) (g : Lane → Word) : (c.setV k m g).barN = c.barN := by
  unfold Ctx.setV; split <;> rfl
@[simp] theorem setV_barA (c : Ctx) (k : Nat) (m : Mask) (g : Lane → Word) : (c.setV k m g).barA = c.barA := by
  unfold Ctx.setV; split <;> rfl
@[simp] theorem setV_arrM (c : Ctx) (k : Nat) (m : Mask) (g : Lane → Word) : (c.setV k m g).arrM = c.arrM := by
  unfold Ctx.setV; split <;> rfl
@[simp] theorem setV_migW (c : Ctx) (k : Nat) (m : Mask) (g : Lane → Word) : (c.setV k m g).migW = c.migW := by
  unfold Ctx.setV; split <;> rfl
@[simp] theorem setV_starve (c : Ctx) (k : Nat) (m : Mask) (g : Lane → Word) : (c.setV k m g).starve = c.starve := by
  unfold Ctx.setV; split <;> rfl
@[simp] theorem setV_part (c : Ctx) (k : Nat) (m : Mask) (g : Lane → Word) : (c.setV k m g).part = c.part := by
  unfold Ctx.setV; split <;> rfl
@[simp] theorem setV_icount (c : Ctx) (k : Nat) (m : Mask) (g : Lane → Word) : (c.setV k m g).icount = c.icount := by
  unfold Ctx.setV; split <;> rfl
@[simp] theorem setV_twin (c : Ctx) (k : Nat) (m : Mask) (g : Lane → Word) : (c.setV k m g).twin = c.twin := by
  unfold Ctx.setV; split <;> rfl
@[simp] theorem setV_pend (c : Ctx) (k : Nat) (m : Mask) (g : Lane → Word) : (c.setV k m g).pend = c.pend := by
  unfold Ctx.setV; split <;> rfl
@[simp] theorem setV_eccs (c : Ctx) (k : Nat) (m : Mask) (g : Lane → Word) : (c.setV k m g).eccs = c.eccs := by
  unfold Ctx.setV; split <;> rfl
@[simp] theorem setV_run (c : Ctx) (k : Nat) (m : Mask) (g : Lane → Word) : (c.setV k m g).run = c.run := by
  unfold Ctx.setV; split <;> rfl
@[simp] theorem setV_shadow (c : Ctx) (k : Nat) (m : Mask) (g : Lane → Word) : (c.setV k m g).shadow = c.shadow := by
  unfold Ctx.setV; split <;> rfl
@[simp] theorem setV_xpw (c : Ctx) (k : Nat) (m : Mask) (g : Lane → Word) : (c.setV k m g).xpw = c.xpw := by
  unfold Ctx.setV; split <;> rfl
@[simp] theorem setV_inH (c : Ctx) (k : Nat) (m : Mask) (g : Lane → Word) : (c.setV k m g).inH = c.inH := by
  unfold Ctx.setV; split <;> rfl
@[simp] theorem setV_sup (c : Ctx) (k : Nat) (m : Mask) (g : Lane → Word) : (c.setV k m g).sup = c.sup := by
  unfold Ctx.setV; split <;> rfl
@[simp] theorem setV_frameOn (c : Ctx) (k : Nat) (m : Mask) (g : Lane → Word) : (c.setV k m g).frameOn = c.frameOn := by
  unfold Ctx.setV; split <;> rfl
@[simp] theorem setV_frame (c : Ctx) (k : Nat) (m : Mask) (g : Lane → Word) : (c.setV k m g).frame = c.frame := by
  unfold Ctx.setV; split <;> rfl
@[simp] theorem setV_fCause (c : Ctx) (k : Nat) (m : Mask) (g : Lane → Word) : (c.setV k m g).fCause = c.fCause := by
  unfold Ctx.setV; split <;> rfl
@[simp] theorem setV_fAddr (c : Ctx) (k : Nat) (m : Mask) (g : Lane → Word) : (c.setV k m g).fAddr = c.fAddr := by
  unfold Ctx.setV; split <;> rfl
@[simp] theorem setV_selLane (c : Ctx) (k : Nat) (m : Mask) (g : Lane → Word) : (c.setV k m g).selLane = c.selLane := by
  unfold Ctx.setV; split <;> rfl
@[simp] theorem setV_recD (c : Ctx) (k : Nat) (m : Mask) (g : Lane → Word) : (c.setV k m g).recD = c.recD := by
  unfold Ctx.setV; split <;> rfl
@[simp] theorem setV_recS (c : Ctx) (k : Nat) (m : Mask) (g : Lane → Word) : (c.setV k m g).recS = c.recS := by
  unfold Ctx.setV; split <;> rfl
@[simp] theorem setV_redo (c : Ctx) (k : Nat) (m : Mask) (g : Lane → Word) : (c.setV k m g).redo = c.redo := by
  unfold Ctx.setV; split <;> rfl
@[simp] theorem setV_leave (c : Ctx) (k : Nat) (m : Mask) (g : Lane → Word) : (c.setV k m g).leave = c.leave := by
  unfold Ctx.setV; split <;> rfl
@[simp] theorem setV_lastNpc (c : Ctx) (k : Nat) (m : Mask) (g : Lane → Word) : (c.setV k m g).lastNpc = c.lastNpc := by
  unfold Ctx.setV; split <;> rfl
@[simp] theorem setS_v (c : Ctx) (k : Nat) (x : Word) : (c.setS k x).v = c.v := by
  unfold Ctx.setS; split <;> rfl
@[simp] theorem setS_p (c : Ctx) (k : Nat) (x : Word) : (c.setS k x).p = c.p := by
  unfold Ctx.setS; split <;> rfl
@[simp] theorem setS_lpc (c : Ctx) (k : Nat) (x : Word) : (c.setS k x).lpc = c.lpc := by
  unfold Ctx.setS; split <;> rfl
@[simp] theorem setS_exitM (c : Ctx) (k : Nat) (x : Word) : (c.setS k x).exitM = c.exitM := by
  unfold Ctx.setS; split <;> rfl
@[simp] theorem setS_waitM (c : Ctx) (k : Nat) (x : Word) : (c.setS k x).waitM = c.waitM := by
  unfold Ctx.setS; split <;> rfl
@[simp] theorem setS_parkM (c : Ctx) (k : Nat) (x : Word) : (c.setS k x).parkM = c.parkM := by
  unfold Ctx.setS; split <;> rfl
@[simp] theorem setS_barM (c : Ctx) (k : Nat) (x : Word) : (c.setS k x).barM = c.barM := by
  unfold Ctx.setS; split <;> rfl
@[simp] theorem setS_migM (c : Ctx) (k : Nat) (x : Word) : (c.setS k x).migM = c.migM := by
  unfold Ctx.setS; split <;> rfl
@[simp] theorem setS_barN (c : Ctx) (k : Nat) (x : Word) : (c.setS k x).barN = c.barN := by
  unfold Ctx.setS; split <;> rfl
@[simp] theorem setS_barA (c : Ctx) (k : Nat) (x : Word) : (c.setS k x).barA = c.barA := by
  unfold Ctx.setS; split <;> rfl
@[simp] theorem setS_arrM (c : Ctx) (k : Nat) (x : Word) : (c.setS k x).arrM = c.arrM := by
  unfold Ctx.setS; split <;> rfl
@[simp] theorem setS_migW (c : Ctx) (k : Nat) (x : Word) : (c.setS k x).migW = c.migW := by
  unfold Ctx.setS; split <;> rfl
@[simp] theorem setS_starve (c : Ctx) (k : Nat) (x : Word) : (c.setS k x).starve = c.starve := by
  unfold Ctx.setS; split <;> rfl
@[simp] theorem setS_part (c : Ctx) (k : Nat) (x : Word) : (c.setS k x).part = c.part := by
  unfold Ctx.setS; split <;> rfl
@[simp] theorem setS_icount (c : Ctx) (k : Nat) (x : Word) : (c.setS k x).icount = c.icount := by
  unfold Ctx.setS; split <;> rfl
@[simp] theorem setS_twin (c : Ctx) (k : Nat) (x : Word) : (c.setS k x).twin = c.twin := by
  unfold Ctx.setS; split <;> rfl
@[simp] theorem setS_pend (c : Ctx) (k : Nat) (x : Word) : (c.setS k x).pend = c.pend := by
  unfold Ctx.setS; split <;> rfl
@[simp] theorem setS_eccs (c : Ctx) (k : Nat) (x : Word) : (c.setS k x).eccs = c.eccs := by
  unfold Ctx.setS; split <;> rfl
@[simp] theorem setS_run (c : Ctx) (k : Nat) (x : Word) : (c.setS k x).run = c.run := by
  unfold Ctx.setS; split <;> rfl
@[simp] theorem setS_shadow (c : Ctx) (k : Nat) (x : Word) : (c.setS k x).shadow = c.shadow := by
  unfold Ctx.setS; split <;> rfl
@[simp] theorem setS_xpw (c : Ctx) (k : Nat) (x : Word) : (c.setS k x).xpw = c.xpw := by
  unfold Ctx.setS; split <;> rfl
@[simp] theorem setS_inH (c : Ctx) (k : Nat) (x : Word) : (c.setS k x).inH = c.inH := by
  unfold Ctx.setS; split <;> rfl
@[simp] theorem setS_sup (c : Ctx) (k : Nat) (x : Word) : (c.setS k x).sup = c.sup := by
  unfold Ctx.setS; split <;> rfl
@[simp] theorem setS_frameOn (c : Ctx) (k : Nat) (x : Word) : (c.setS k x).frameOn = c.frameOn := by
  unfold Ctx.setS; split <;> rfl
@[simp] theorem setS_frame (c : Ctx) (k : Nat) (x : Word) : (c.setS k x).frame = c.frame := by
  unfold Ctx.setS; split <;> rfl
@[simp] theorem setS_fCause (c : Ctx) (k : Nat) (x : Word) : (c.setS k x).fCause = c.fCause := by
  unfold Ctx.setS; split <;> rfl
@[simp] theorem setS_fAddr (c : Ctx) (k : Nat) (x : Word) : (c.setS k x).fAddr = c.fAddr := by
  unfold Ctx.setS; split <;> rfl
@[simp] theorem setS_selLane (c : Ctx) (k : Nat) (x : Word) : (c.setS k x).selLane = c.selLane := by
  unfold Ctx.setS; split <;> rfl
@[simp] theorem setS_recD (c : Ctx) (k : Nat) (x : Word) : (c.setS k x).recD = c.recD := by
  unfold Ctx.setS; split <;> rfl
@[simp] theorem setS_recS (c : Ctx) (k : Nat) (x : Word) : (c.setS k x).recS = c.recS := by
  unfold Ctx.setS; split <;> rfl
@[simp] theorem setS_redo (c : Ctx) (k : Nat) (x : Word) : (c.setS k x).redo = c.redo := by
  unfold Ctx.setS; split <;> rfl
@[simp] theorem setS_leave (c : Ctx) (k : Nat) (x : Word) : (c.setS k x).leave = c.leave := by
  unfold Ctx.setS; split <;> rfl
@[simp] theorem setS_lastNpc (c : Ctx) (k : Nat) (x : Word) : (c.setS k x).lastNpc = c.lastNpc := by
  unfold Ctx.setS; split <;> rfl
@[simp] theorem setPred_v (c : Ctx) (k : Nat) (m v : Mask) : (c.setPred k m v).v = c.v := by
  unfold Ctx.setPred; split <;> rfl
@[simp] theorem setPred_s (c : Ctx) (k : Nat) (m v : Mask) : (c.setPred k m v).s = c.s := by
  unfold Ctx.setPred; split <;> rfl
@[simp] theorem setPred_lpc (c : Ctx) (k : Nat) (m v : Mask) : (c.setPred k m v).lpc = c.lpc := by
  unfold Ctx.setPred; split <;> rfl
@[simp] theorem setPred_exitM (c : Ctx) (k : Nat) (m v : Mask) : (c.setPred k m v).exitM = c.exitM := by
  unfold Ctx.setPred; split <;> rfl
@[simp] theorem setPred_waitM (c : Ctx) (k : Nat) (m v : Mask) : (c.setPred k m v).waitM = c.waitM := by
  unfold Ctx.setPred; split <;> rfl
@[simp] theorem setPred_parkM (c : Ctx) (k : Nat) (m v : Mask) : (c.setPred k m v).parkM = c.parkM := by
  unfold Ctx.setPred; split <;> rfl
@[simp] theorem setPred_barM (c : Ctx) (k : Nat) (m v : Mask) : (c.setPred k m v).barM = c.barM := by
  unfold Ctx.setPred; split <;> rfl
@[simp] theorem setPred_migM (c : Ctx) (k : Nat) (m v : Mask) : (c.setPred k m v).migM = c.migM := by
  unfold Ctx.setPred; split <;> rfl
@[simp] theorem setPred_barN (c : Ctx) (k : Nat) (m v : Mask) : (c.setPred k m v).barN = c.barN := by
  unfold Ctx.setPred; split <;> rfl
@[simp] theorem setPred_barA (c : Ctx) (k : Nat) (m v : Mask) : (c.setPred k m v).barA = c.barA := by
  unfold Ctx.setPred; split <;> rfl
@[simp] theorem setPred_arrM (c : Ctx) (k : Nat) (m v : Mask) : (c.setPred k m v).arrM = c.arrM := by
  unfold Ctx.setPred; split <;> rfl
@[simp] theorem setPred_migW (c : Ctx) (k : Nat) (m v : Mask) : (c.setPred k m v).migW = c.migW := by
  unfold Ctx.setPred; split <;> rfl
@[simp] theorem setPred_starve (c : Ctx) (k : Nat) (m v : Mask) : (c.setPred k m v).starve = c.starve := by
  unfold Ctx.setPred; split <;> rfl
@[simp] theorem setPred_part (c : Ctx) (k : Nat) (m v : Mask) : (c.setPred k m v).part = c.part := by
  unfold Ctx.setPred; split <;> rfl
@[simp] theorem setPred_icount (c : Ctx) (k : Nat) (m v : Mask) : (c.setPred k m v).icount = c.icount := by
  unfold Ctx.setPred; split <;> rfl
@[simp] theorem setPred_twin (c : Ctx) (k : Nat) (m v : Mask) : (c.setPred k m v).twin = c.twin := by
  unfold Ctx.setPred; split <;> rfl
@[simp] theorem setPred_pend (c : Ctx) (k : Nat) (m v : Mask) : (c.setPred k m v).pend = c.pend := by
  unfold Ctx.setPred; split <;> rfl
@[simp] theorem setPred_eccs (c : Ctx) (k : Nat) (m v : Mask) : (c.setPred k m v).eccs = c.eccs := by
  unfold Ctx.setPred; split <;> rfl
@[simp] theorem setPred_run (c : Ctx) (k : Nat) (m v : Mask) : (c.setPred k m v).run = c.run := by
  unfold Ctx.setPred; split <;> rfl
@[simp] theorem setPred_shadow (c : Ctx) (k : Nat) (m v : Mask) : (c.setPred k m v).shadow = c.shadow := by
  unfold Ctx.setPred; split <;> rfl
@[simp] theorem setPred_xpw (c : Ctx) (k : Nat) (m v : Mask) : (c.setPred k m v).xpw = c.xpw := by
  unfold Ctx.setPred; split <;> rfl
@[simp] theorem setPred_inH (c : Ctx) (k : Nat) (m v : Mask) : (c.setPred k m v).inH = c.inH := by
  unfold Ctx.setPred; split <;> rfl
@[simp] theorem setPred_sup (c : Ctx) (k : Nat) (m v : Mask) : (c.setPred k m v).sup = c.sup := by
  unfold Ctx.setPred; split <;> rfl
@[simp] theorem setPred_frameOn (c : Ctx) (k : Nat) (m v : Mask) : (c.setPred k m v).frameOn = c.frameOn := by
  unfold Ctx.setPred; split <;> rfl
@[simp] theorem setPred_frame (c : Ctx) (k : Nat) (m v : Mask) : (c.setPred k m v).frame = c.frame := by
  unfold Ctx.setPred; split <;> rfl
@[simp] theorem setPred_fCause (c : Ctx) (k : Nat) (m v : Mask) : (c.setPred k m v).fCause = c.fCause := by
  unfold Ctx.setPred; split <;> rfl
@[simp] theorem setPred_fAddr (c : Ctx) (k : Nat) (m v : Mask) : (c.setPred k m v).fAddr = c.fAddr := by
  unfold Ctx.setPred; split <;> rfl
@[simp] theorem setPred_selLane (c : Ctx) (k : Nat) (m v : Mask) : (c.setPred k m v).selLane = c.selLane := by
  unfold Ctx.setPred; split <;> rfl
@[simp] theorem setPred_recD (c : Ctx) (k : Nat) (m v : Mask) : (c.setPred k m v).recD = c.recD := by
  unfold Ctx.setPred; split <;> rfl
@[simp] theorem setPred_recS (c : Ctx) (k : Nat) (m v : Mask) : (c.setPred k m v).recS = c.recS := by
  unfold Ctx.setPred; split <;> rfl
@[simp] theorem setPred_redo (c : Ctx) (k : Nat) (m v : Mask) : (c.setPred k m v).redo = c.redo := by
  unfold Ctx.setPred; split <;> rfl
@[simp] theorem setPred_leave (c : Ctx) (k : Nat) (m v : Mask) : (c.setPred k m v).leave = c.leave := by
  unfold Ctx.setPred; split <;> rfl
@[simp] theorem setPred_lastNpc (c : Ctx) (k : Nat) (m v : Mask) : (c.setPred k m v).lastNpc = c.lastNpc := by
  unfold Ctx.setPred; split <;> rfl
@[simp] theorem setPend_v (c : Ctx) (k n : Nat) : (c.setPend k n).v = c.v := rfl
@[simp] theorem setPend_s (c : Ctx) (k n : Nat) : (c.setPend k n).s = c.s := rfl
@[simp] theorem setPend_p (c : Ctx) (k n : Nat) : (c.setPend k n).p = c.p := rfl
@[simp] theorem setPend_lpc (c : Ctx) (k n : Nat) : (c.setPend k n).lpc = c.lpc := rfl
@[simp] theorem setPend_exitM (c : Ctx) (k n : Nat) : (c.setPend k n).exitM = c.exitM := rfl
@[simp] theorem setPend_waitM (c : Ctx) (k n : Nat) : (c.setPend k n).waitM = c.waitM := rfl
@[simp] theorem setPend_parkM (c : Ctx) (k n : Nat) : (c.setPend k n).parkM = c.parkM := rfl
@[simp] theorem setPend_barM (c : Ctx) (k n : Nat) : (c.setPend k n).barM = c.barM := rfl
@[simp] theorem setPend_migM (c : Ctx) (k n : Nat) : (c.setPend k n).migM = c.migM := rfl
@[simp] theorem setPend_barN (c : Ctx) (k n : Nat) : (c.setPend k n).barN = c.barN := rfl
@[simp] theorem setPend_barA (c : Ctx) (k n : Nat) : (c.setPend k n).barA = c.barA := rfl
@[simp] theorem setPend_arrM (c : Ctx) (k n : Nat) : (c.setPend k n).arrM = c.arrM := rfl
@[simp] theorem setPend_migW (c : Ctx) (k n : Nat) : (c.setPend k n).migW = c.migW := rfl
@[simp] theorem setPend_starve (c : Ctx) (k n : Nat) : (c.setPend k n).starve = c.starve := rfl
@[simp] theorem setPend_part (c : Ctx) (k n : Nat) : (c.setPend k n).part = c.part := rfl
@[simp] theorem setPend_icount (c : Ctx) (k n : Nat) : (c.setPend k n).icount = c.icount := rfl
@[simp] theorem setPend_twin (c : Ctx) (k n : Nat) : (c.setPend k n).twin = c.twin := rfl
@[simp] theorem setPend_eccs (c : Ctx) (k n : Nat) : (c.setPend k n).eccs = c.eccs := rfl
@[simp] theorem setPend_run (c : Ctx) (k n : Nat) : (c.setPend k n).run = c.run := rfl
@[simp] theorem setPend_shadow (c : Ctx) (k n : Nat) : (c.setPend k n).shadow = c.shadow := rfl
@[simp] theorem setPend_xpw (c : Ctx) (k n : Nat) : (c.setPend k n).xpw = c.xpw := rfl
@[simp] theorem setPend_inH (c : Ctx) (k n : Nat) : (c.setPend k n).inH = c.inH := rfl
@[simp] theorem setPend_sup (c : Ctx) (k n : Nat) : (c.setPend k n).sup = c.sup := rfl
@[simp] theorem setPend_frameOn (c : Ctx) (k n : Nat) : (c.setPend k n).frameOn = c.frameOn := rfl
@[simp] theorem setPend_frame (c : Ctx) (k n : Nat) : (c.setPend k n).frame = c.frame := rfl
@[simp] theorem setPend_fCause (c : Ctx) (k n : Nat) : (c.setPend k n).fCause = c.fCause := rfl
@[simp] theorem setPend_fAddr (c : Ctx) (k n : Nat) : (c.setPend k n).fAddr = c.fAddr := rfl
@[simp] theorem setPend_selLane (c : Ctx) (k n : Nat) : (c.setPend k n).selLane = c.selLane := rfl
@[simp] theorem setPend_recD (c : Ctx) (k n : Nat) : (c.setPend k n).recD = c.recD := rfl
@[simp] theorem setPend_recS (c : Ctx) (k n : Nat) : (c.setPend k n).recS = c.recS := rfl
@[simp] theorem setPend_redo (c : Ctx) (k n : Nat) : (c.setPend k n).redo = c.redo := rfl
@[simp] theorem setPend_leave (c : Ctx) (k n : Nat) : (c.setPend k n).leave = c.leave := rfl
@[simp] theorem setPend_lastNpc (c : Ctx) (k n : Nat) : (c.setPend k n).lastNpc = c.lastNpc := rfl

end Sys2Proof.Machine
end

