-- ==== Sys2Proof/Laws/Lane.lean ====
section
/-! SUPPORT. What the shared operations of Operands do when no check of R50 fails: one lemma for each shape of instruction. -/
namespace Sys2Proof.Laws
open Sys2Proof.Machine Sys2Proof.Claims

/-- An instruction that meets none of the checks of R50 raises no fault. -/
theorem fault_none {s : State} {i : Issue} (hi : i.ill = false) (hx : i.xfer = false) (hb : i.bad = false) (hh : i.hdl = true)
    (hl : i.late = false) (h : Issues s i.vec i.srcs i.dsts) : i.fault s = none := by
  have hs : i.srcs.any (srcBad s) = false := List.any_eq_false.2 fun u hu => by simpa using h.readable u hu
  have hd : i.dsts.any (dstBad s) = false := List.any_eq_false.2 fun u hu => by simpa using h.writable u hu
  have hp : (!again s && (i.srcs ++ i.dsts).any (fun u => !isT u.1 && s.c.isPend u.1 u.2)) = false := by
    cases ha : again s with
    | true => rfl
    | false =>
      refine List.any_eq_false.2 fun u hu => ?_
      rcases h.free ha u hu with ht | ht <;> simp [ht]
  have hm : (s.c.inH && (i.vec || false)) = false := by
    cases hv : i.vec with
    | false => simp
    | true => simp [h.mode hv]
  have hpos := Nat.not_le.2 h.pos
  simp only [Issue.fault, hi, hx, hb, hh, hs, hd, hp, hl, Bool.not_true, hm]
  simp [hpos]

theorem issueM_eq {s : State} {i : Issue} {m : Mask} {k : State} (hi : i.ill = false) (hx : i.xfer = false) (hb : i.bad = false)
    (hh : i.hdl = true) (hl : i.late = false) (h : Issues s i.vec i.srcs i.dsts) : issueM s i m k = k := by
  simp [issueM, fault_none hi hx hb hh hl h]

theorem issue_eq {s : State} {i : Issue} {k : State} (hi : i.ill = false) (hx : i.xfer = false) (hb : i.bad = false)
    (hh : i.hdl = true) (hl : i.late = false) (h : Issues s i.vec i.srcs i.dsts) : issue s i k = k := issueM_eq hi hx hb hh hl h

/-! ### Reading back what was written -/

theorem vreg_setV (c : Ctx) (d : Nat) (m : Mask) (f : Lane → Word) (k : Nat) (l : Lane) (hd : d < 96) :
    (c.setV d m f).vreg k l = if k = d ∧ m.getLsbD l.val = true then f l else c.vreg k l := by
  have h1 : c.v[d]? = some c.v[d] := Vector.getElem?_eq_getElem hd
  simp only [Ctx.setV, h1, Ctx.vreg]
  by_cases hk : k = d
  · subst hk
    simp [hd]
  · have : d ≠ k := fun h => hk h.symm
    simp [hk, this]

theorem sreg_setS (c : Ctx) (d : Nat) (x : Word) (k : Nat) (hd : d < 24) :
    (c.setS d x).sreg k = if k = d ∧ d ≠ 0 then x else c.sreg k := by
  simp only [Ctx.setS, Ctx.sreg]
  by_cases h0 : d = 0
  · subst h0; simp
  · by_cases hk : k = d
    · subst hk; simp [h0, hd]
    · have : d ≠ k := fun h => hk h.symm
      simp [h0, hk, this]

theorem predMask_setPred (c : Ctx) (d : Nat) (m v : Mask) (k : Nat) (hd : d < 64) (hk : k < 64) :
    (c.setPred d m v).predMask k = if k = d ∧ d ≠ 63 then (c.predMask d &&& ~~~m) ||| (v &&& m) else c.predMask k := by
  unfold Ctx.setPred Ctx.predMask
  have e1 : d % 64 = d := Nat.mod_eq_of_lt hd
  have e2 : k % 64 = k := Nat.mod_eq_of_lt hk
  simp only [e1, e2]
  by_cases h63 : d = 63
  · simp [h63]
  · by_cases hkd : k = d
    · subst hkd; simp [h63]
    · have : d ≠ k := fun h => hkd h.symm
      simp [h63, hkd, this]

theorem getLsbD_maskOf (f : Lane → Bool) (l : Lane) : (maskOf f).getLsbD l.val = f l := by
  simp [maskOf]

theorem pred_setPred (c : Ctx) (d : Nat) (m : Mask) (v : Lane → Bool) (k : Nat) (l : Lane) (hd : d < 64) (hk : k < 64) :
    (c.setPred d m (maskOf v)).pred k l =
      if k = d ∧ m.getLsbD l.val = true ∧ d ≠ 63 then v l else c.pred k l := by
  have hl := l.isLt
  simp only [Ctx.pred, predMask_setPred c d m _ k hd hk]
  by_cases h : k = d ∧ d ≠ 63
  · obtain ⟨rfl, h63⟩ := h
    rw [if_pos ⟨rfl, h63⟩, BitVec.getLsbD_or, BitVec.getLsbD_and, BitVec.getLsbD_and, BitVec.getLsbD_not, getLsbD_maskOf]
    cases hm : m.getLsbD l.val <;> simp [h63, hl]
  · rw [if_neg h, if_neg fun x => h ⟨x.1, x.2.2⟩]

/-! ### Completing -/

/-- What retire does, over a change of registers that leaves what completing reads as it was. -/
theorem completes_retire (s s1 : State) (size : Nat) (t0 : Latch) (hr : s1.c.run = s.c.run) (hd : s1.c.redo = s.c.redo)
    (hi : s1.c.icount = s.c.icount) (hs : s1.c.count.starve = s.c.count.starve) : Completes s (retire s1 size t0) size t0 := by
  refine ⟨?_, ?_, ?_, ?_, ?_, ?_, ?_, ?_⟩
  · simp [hr]
  · simp [hr, Run.shift]
  · simp [hr, Run.shift]
  · simp [hr, hd]
  · simp [Run.shift]
  · intro k hk
    have h8 : k < 8 := by omega
    simp [hr, Run.shift, h8]
  · simp [hi]
  · simp [hs]

theorem sameMemory_of {s t : State} (h1 : t.mem = s.mem) (h2 : t.hostMem = s.hostMem) (h3 : t.wgs = s.wgs) (h4 : t.hed = s.hed)
    (h5 : t.l1 = s.l1) : SameMemory s t := by
  refine ⟨fun a => by rw [h1], fun a => ?_, fun a => by rw [h2], h3⟩
  simp [cohRead, latest, ownerWord, homeWord, hGet, l1Get, h1, h4, h5]

theorem isV_bound {s : State} {d : Nat} (hd : dstBad s (d, 1) = false) (hs : isS d = false) : d < 96 := by
  simp [dstBad, isT, isS] at hd hs
  by_contra h
  have := hs (by omega)
  omega

theorem isS_bound {s : State} {d : Nat} (hd : dstBad s (d, 1) = false) (hv : isV d = false) : 96 ≤ d ∧ d < 120 := by
  simp [dstBad, isT, isV] at hd hv
  omega

/-- A change of vector registers alone, and then completing. -/
theorem vecDone_retire {s s1 : State} {size : Nat} {n : Bool} {d : Nat} {en : Mask} {f : Lane → Word}
    (hs : s1 = { s with grp := { s.grp with c := { s.c with v := s1.c.v } } })
    (hv : ∀ k l, s1.c.vreg k l = if n = false ∧ k = d ∧ en.getLsbD l.val = true then f l else s.c.vreg k l) :
    VecDone s (retire s1 size (latchLanes fun l => if en.getLsbD l.val then f l else if n then 0 else s.c.vreg d l)) size n d en f := by
  have hvr : ∀ t0 k l, (retire s1 size t0).c.vreg k l = s1.c.vreg k l := fun t0 k l => by simp [Ctx.vreg]
  refine ⟨completes_retire _ _ _ _ ?_ ?_ ?_ ?_, ?_, ?_, ?_, sameMemory_of ?_ ?_ ?_ ?_ ?_⟩
  · rw [hs]; rfl
  · rw [hs]; rfl
  · rw [hs]; rfl
  · rw [hs]; rfl
  · intro l hn hl; rw [hvr, hv, if_pos ⟨hn, rfl, hl⟩]
  · intro k l h
    rw [hvr, hv, if_neg]
    rintro ⟨h1, h2, h3⟩
    rcases h with h | h | h
    · exact h h2
    · rw [h1] at h; cases h
    · rw [h3] at h; cases h
  · rw [hs]; rfl
  all_goals rw [hs]; rfl

theorem finishVec_done {s : State} {size : Nat} {n : Bool} {d : Nat} {en : Mask} {f : Lane → Word} (hd : n = true ∨ d < 96) :
    VecDone s (finishVec s size n d en f) size n d en f := by
  have hr : ∀ l : Lane, (Vector.ofFn fun l : Lane => if en.getLsbD l.val then f l else if n then 0 else s.c.vreg d l)[l] =
      if en.getLsbD l.val then f l else if n then 0 else s.c.vreg d l := fun l => by
    rw [Fin.getElem_fin, Vector.getElem_ofFn]
  unfold finishVec
  simp only [hr]
  cases n with
  | true => exact vecDone_retire rfl fun k l => by simp
  | false =>
    refine vecDone_retire ?_ fun k l => ?_
    · simp only [Bool.false_eq_true, if_false, modC, State.c, Ctx.setV]
      split <;> rfl
    · simp only [Bool.false_eq_true, if_false, modC_c]
      rw [vreg_setV _ _ _ _ _ _ (hd.resolve_left (by simp))]
      simp only [true_and, State.c]
      split
      · rename_i h; simp [h.2]
      · rfl

/-- A change of scalar registers alone, and then completing. -/
theorem scalDone_retire {s s1 : State} {size : Nat} {n : Bool} {d : Nat} {go : Bool} {x : Word}
    (hs : s1 = { s with grp := { s.grp with c := { s.c with s := s1.c.s } } })
    (hv : ∀ k, s1.c.sreg k = if n = false ∧ go = true ∧ k = d - 96 ∧ d ≠ 96 then x else s.c.sreg k) :
    ScalDone s (retire s1 size (.scalar false ((if go then x else if n then 0 else s.c.sreg (d - 96)).setWidth 64))) size n d go x := by
  have hvr : ∀ t0 k, (retire s1 size t0).c.sreg k = s1.c.sreg k := fun t0 k => by simp [Ctx.sreg]
  refine ⟨completes_retire _ _ _ _ ?_ ?_ ?_ ?_, ?_, ?_, ?_, sameMemory_of ?_ ?_ ?_ ?_ ?_⟩
  · rw [hs]; rfl
  · rw [hs]; rfl
  · rw [hs]; rfl
  · rw [hs]; rfl
  · intro hn hg
    rw [hvr, hv]
    by_cases h96 : d = 96
    · subst h96; simp [Ctx.sreg]
    · simp [hn, hg, h96]
  · intro k h
    rw [hvr, hv, if_neg]
    rintro ⟨h1, h2, h3, _⟩
    rcases h with h | h | h
    · exact h h3
    · rw [h1] at h; cases h
    · rw [h2] at h; cases h
  · rw [hs]; rfl
  all_goals rw [hs]; rfl

theorem finishScal_done {s : State} {size : Nat} {n : Bool} {d : Nat} {go : Bool} {x : Word} (hd : n = true ∨ 96 ≤ d ∧ d < 120) :
    ScalDone s (finishScal s size n d go x) size n d go x := by
  unfold finishScal
  cases n with
  | true => exact scalDone_retire rfl fun k => by simp
  | false =>
    have hd' : 96 ≤ d ∧ d < 120 := hd.resolve_left (by simp)
    cases go with
    | false => exact scalDone_retire rfl fun k => by simp
    | true =>
      refine scalDone_retire ?_ fun k => ?_
      · simp only [Bool.or_self, Bool.not_true, Bool.false_eq_true, if_false, modC, State.c, Ctx.setS]
        split <;> rfl
      · simp only [Bool.or_self, Bool.not_true, Bool.false_eq_true, if_false, modC_c]
        rw [sreg_setS _ _ _ _ (by omega)]
        have : d - 96 ≠ 0 ↔ d ≠ 96 := by omega
        simp only [true_and, this, State.c]

/-- A lane instruction that issues completes (R34, R41, R93). -/
theorem laneIns_done {size : Nat} {srcs : List Nat} {n : Bool} {d : Nat} {f : Ctx → Lane → Word} {s : State}
    (h : LaneIssues s srcs n d) : LaneDone s (laneIns size false false srcs n d f s) size srcs n d (f s.c) := by
  obtain ⟨hi, hk⟩ := h
  have hill : (false || (kindVec s.c n d srcs && !n && isS d)) = false := by
    cases hv : kindVec s.c n d srcs with
    | false => simp
    | true => rcases hk hv with h | h <;> simp [h]
  have hn : n = false → dstBad s (d, 1) = false := fun h => hi.writable (d, 1) (by simp [dst, h])
  unfold laneIns LaneDone
  rw [issue_eq (by simpa using hill) rfl rfl rfl rfl (by simpa [dst] using hi)]
  cases hv : kindVec s.c n d srcs with
  | true =>
    simp only [if_true]
    refine finishVec_done ?_
    cases n with
    | true => exact .inl rfl
    | false => exact .inr (isV_bound (hn rfl) ((hk hv).resolve_left (by simp)))
  | false =>
    simp only [Bool.false_eq_true, if_false]
    refine finishScal_done ?_
    cases n with
    | true => exact .inl rfl
    | false =>
      refine .inr (isS_bound (hn rfl) ?_)
      simpa [kindVec] using (by simpa [kindVec] using hv : _ ∧ isV d = false).2

/-- A change of predicates alone, and then completing. -/
theorem predDone_retire {s : State} {pd : Nat} {en : Mask} {v : Lane → Bool} (hd : pd < 64) :
    PredDone s (retire (modC s fun c => c.setPred pd en (maskOf v)) 4 .empty) pd en v := by
  have hp : ∀ k l, k < 64 → (retire (modC s fun c => c.setPred pd en (maskOf v)) 4 .empty).c.pred k l =
      if k = pd ∧ en.getLsbD l.val = true ∧ pd ≠ 63 then v l else s.c.pred k l := fun k l hk => by
    rw [← pred_setPred s.c pd en v k l hd hk]
    have : (retire (modC s fun c => c.setPred pd en (maskOf v)) 4 .empty).c.p = (s.c.setPred pd en (maskOf v)).p := rfl
    simp only [Ctx.pred, Ctx.predMask, this]
  refine ⟨completes_retire _ _ _ _ ?_ ?_ ?_ ?_, ?_, ?_, ?_, sameMemory_of ?_ ?_ ?_ ?_ ?_⟩
  · simp [State.c]
  · simp [State.c]
  · simp [State.c]
  · simp [State.c, Ctx.count, Ctx.live]
  · intro l hl
    rw [hp pd l hd]
    by_cases h63 : pd = 63
    · subst h63
      have ha : (BitVec.allOnes 32).getLsbD l.val = true := by rw [BitVec.getLsbD_allOnes]; exact decide_eq_true l.isLt
      simp only [Ctx.pred, Ctx.predMask, Nat.reduceMod, if_true, ha, ne_eq, not_true_eq_false, and_false, if_false]
    · simp [hl, h63]
  · intro k l hk h
    rw [hp k l hk, if_neg]
    rintro ⟨h1, h2, _⟩
    rcases h with h | h
    · exact h h1
    · rw [h2] at h; cases h
  · simp only [retire, modC, State.c, Ctx.setPred, counted]
    split <;> rfl
  all_goals simp

/-- A comparison or a predicate operation that issues completes (R106). -/
theorem predIns_done {s : State} {srcs : List Nat} {ng ac : Bool} {pd : BitVec 6} {cond : Ctx → Lane → Bool}
    (h : Issues s (srcs.any s.c.isVec) (srcs.map (·, 1)) []) :
    PredDone s (predIns false false srcs ng ac pd cond s) pd.toNat
      (if s.c.inH then (if s.c.goes then BitVec.allOnes 32 else 0) else s.c.enabled)
      (fun l => predResult ng ac (cond s.c (if s.c.inH then 0 else l)) (s.c.pred pd.toNat (if s.c.inH then 0 else l))) := by
  unfold predIns
  rw [issueM_eq rfl rfl rfl rfl rfl (by simpa using h)]
  exact predDone_retire pd.isLt

/-- A long-latency result under way, and then completing (R48). -/
theorem finishLate_done (own : Bool) (s : State) (d regs : Nat) (scalar : Bool) (mask : Mask) (vals : Lane → BitVec 128) (addr : DWord) :
    LongDone own s (finishLate own s 4 d regs scalar mask vals addr) d regs scalar mask vals addr := by
  refine ⟨completes_retire _ _ _ _ ?_ ?_ ?_ ?_, rfl, ?_⟩
  · simp [State.c]
  · simp [State.c]
  · simp [State.c]
  · simp [State.c, Ctx.count, Ctx.live]
  · rfl

/-- An instruction that only passes. -/
theorem plain_done (s : State) (size : Nat) : PlainDone s (retire s size .empty) size :=
  ⟨completes_retire _ _ _ _ rfl rfl rfl rfl, rfl, sameMemory_of rfl rfl rfl rfl rfl⟩

/-! ### The forms of F3, FI and the 16-bit word -/

theorem done_congr {s t : State} {size : Nat} {srcs : List Nat} {n : Bool} {d : Nat} {f g : Lane → Word}
    (h : LaneDone s t size srcs n d f) (e : ∀ l, f l = g l) : LaneDone s t size srcs n d g := by
  rwa [← funext e]

theorem ins3_done {al : Allow} {f : Mods → Word → Word → Word} {b a : BitVec 7} {n : Bool} {d : BitVec 7} {s : State}
    (hp : Plain s al) (h : LaneIssues s [a.toNat, b.toNat] n d.toNat) (g : Lane → Word)
    (e : ∀ l, f (modsOf s.c.xp.e) (s.c.rd a.toNat l) (s.c.rd b.toNat l) = g l) :
    ∃ t, ins3 al f b a n d s = .next t ∧ LaneDone s t 4 [a.toNat, b.toNat] n d.toNat g := by
  refine ⟨_, rfl, ?_⟩
  have : (s.c.xp.c != 127 || !modsLegal s.c.xp.e al) = false := by simp [hp.1, hp.2]
  simp only [this]
  exact done_congr (laneIns_done h) e

theorem ins2_done {al : Allow} {f : Mods → Word → Word} {a : BitVec 7} {n : Bool} {d : BitVec 7} {s : State}
    (hp : Plain s al) (h : LaneIssues s [a.toNat] n d.toNat) (g : Lane → Word)
    (e : ∀ l, f (modsOf s.c.xp.e) (s.c.rd a.toNat l) = g l) :
    ∃ t, ins2 al f a n d s = .next t ∧ LaneDone s t 4 [a.toNat] n d.toNat g := by
  refine ⟨_, rfl, ?_⟩
  have : (s.c.xp.c != 127 || !modsLegal s.c.xp.e al) = false := by simp [hp.1, hp.2]
  simp only [this]
  exact done_congr (laneIns_done h) e

theorem insQ_done {al : Allow} {f : Mods → Word → Word → Word → Word} {b a : BitVec 7} {n : Bool} {d : BitVec 7} {s : State}
    (hm : modsLegal s.c.xp.e al = true) (hn : n = true → s.c.xp.c ≠ 127) {q : Nat}
    (hq : (if s.c.xp.c = 127 then d.toNat else s.c.xp.c) = q)
    (h : LaneIssues s [a.toNat, b.toNat, q] n d.toNat) (g : Lane → Word)
    (e : ∀ l, f (modsOf s.c.xp.e) (s.c.rd a.toNat l) (s.c.rd b.toNat l) (s.c.rd q l) = g l) :
    ∃ t, insQ al f b a n d s = .next t ∧ LaneDone s t 4 [a.toNat, b.toNat, q] n d.toNat g := by
  refine ⟨_, rfl, ?_⟩
  have : ((n && s.c.xp.c == 127) || !modsLegal s.c.xp.e al) = false := by
    cases n with
    | false => simp [hm]
    | true => simp [hm, hn rfl]
  simp only [this, hq]
  exact done_congr (laneIns_done h) e

/-- The immediate as the manual gives it. -/
theorem imm_eq (s : State) (i : BitVec 7) : s.c.imm i = immOf s i := by
  unfold Ctx.imm immOf Ctx.xp
  cases hx : s.c.xpw with
  | none => simp
  | some w =>
    simp only [if_true]
    have h1 := w.isLt
    have h2 := i.isLt
    have e : (w.extractLsb' 14 11 ++ i : BitVec 18).toNat = w.toNat / 16384 * 128 + i.toNat := by
      rw [BitVec.toNat_append, BitVec.extractLsb'_toNat, Nat.shiftRight_eq_div_pow]
      have h3 : w.toNat / 2 ^ 14 % 2 ^ 11 = w.toNat / 16384 := by norm_num; omega
      rw [h3, ← Nat.shiftLeft_add_eq_or_of_lt (by simpa using h2), Nat.shiftLeft_eq]
    rw [BitVec.toInt_eq_toNat_cond, e]
    simp only [sx]
    have hm : (w.toNat / 16384 * 128 + i.toNat) % 2 ^ 18 = w.toNat / 16384 * 128 + i.toNat := by norm_num; omega
    rw [hm]
    by_cases hlt : w.toNat / 16384 * 128 + i.toNat < 2 ^ (18 - 1)
    · rw [if_pos hlt, if_pos (by norm_num at hlt ⊢; omega)]
    · rw [if_neg hlt, if_neg (by norm_num at hlt ⊢; omega)]
      norm_num

theorem insI_done {nonneg : Bool} {f : Word → Int → Word} {i a : BitVec 7} {n : Bool} {d : BitVec 7} {s : State}
    (hc : s.c.xp.c = 127) (hk : nonneg = true → 0 ≤ immOf s i) (h : LaneIssues s [a.toNat] n d.toNat) (g : Lane → Word)
    (e : ∀ l, f (s.c.rd a.toNat l) (immOf s i) = g l) :
    ∃ t, insI nonneg f i a n d s = .next t ∧ LaneDone s t 4 [a.toNat] n d.toNat g := by
  refine ⟨_, rfl, ?_⟩
  have : (s.c.xp.c != 127 || (nonneg && decide (immOf s i < 0))) = false := by
    cases nonneg with
    | false => simp [hc]
    | true => simpa [hc] using hk rfl
  simp only [imm_eq, this]
  exact done_congr (laneIns_done h) e

theorem ins16_done {f : Word → Word → Word} {b : BitVec 6} {d : BitVec 5} {s : State} (hx : s.c.xpw = none)
    (h : LaneIssues s [d.toNat, b6 b] false d.toNat) (g : Lane → Word)
    (e : ∀ l, f (s.c.rd d.toNat l) (s.c.rd (b6 b) l) = g l) :
    ∃ t, ins16 f b d s = .next t ∧ LaneDone s t 2 [d.toNat, b6 b] false d.toNat g := by
  refine ⟨_, rfl, ?_⟩
  simp only [hx, Option.isSome_none]
  exact done_congr (laneIns_done h) e

/-- An instruction whose encoding its prefix makes illegal raises 0x01 before anything else (R39, R50). -/
theorem issue_illegal {s : State} {i : Issue} {k : State} (hi : i.ill = true) :
    issue s i k = faultAt s i.size 0x01 (wholeMask s i.vec) 0 := by
  simp [issue, issueM, Issue.fault, hi]

/-- Wrapping and saturation as the manual gives them (R67, R68). -/
theorem narrow_eq (m : Mods) (x : Int) : wrapOrSat m x = narrow m.sat x := by
  unfold wrapOrSat narrow sat32 satS
  cases m.sat with
  | false => rfl
  | true =>
    simp only [if_true]
    split
    · have : max (-(2 : Int) ^ (32 - 1)) (min ((2 : Int) ^ (32 - 1) - 1) x) = -2147483648 := by norm_num; omega
      rw [this]; rfl
    · split
      · have : max (-(2 : Int) ^ (32 - 1)) (min ((2 : Int) ^ (32 - 1) - 1) x) = 2147483647 := by norm_num; omega
        rw [this]; rfl
      · have : max (-(2 : Int) ^ (32 - 1)) (min ((2 : Int) ^ (32 - 1) - 1) x) = x := by norm_num; omega
        rw [this]

theorem satOn_eq (s : State) : satOn s = (modsOf s.c.xp.e).sat := by
  simp [satOn, modsOf, bitAt]

end Sys2Proof.Laws
end

