-- ==== Sys2Proof/Laws/PerInstr.lean ====
section
/-! SUPPORT. Decoding undoes encoding, one lemma per constructor of Instr (R35, R42, R51). -/
namespace Sys2Proof.Laws.RoundTrip

set_option Elab.async false
set_option linter.unusedSimpArgs false

/-- The word of a well-formed instruction decodes to that instruction. -/
def Statement (i : Instr) : Prop :=
  ∀ c, i.wf = true → encode i = some c → decodeCode c = .ok i

/-- A two-halfword instruction that the opcode map gives back satisfies the statement. -/
theorem of_word {i : Instr} {w : Word} (he : encode i = some (.word w)) (h : decodeRaw w = some i) : Statement i := by
  intro c hw hc
  rw [he] at hc
  obtain rfl := Option.some.inj hc
  simp [decodeCode, h, hw]

/-- A one-halfword instruction that the table of R42 gives back satisfies the statement. -/
theorem of_half {i : Instr} {h : Half} (he : encode i = some (.half h)) (hd : decode16 h = i) : Statement i := by
  intro c hw hc
  rw [he] at hc
  obtain rfl := Option.some.inj hc
  simp [decodeCode, hd]

/-- A row without a word satisfies the statement. -/
theorem of_none {i : Instr} (he : encode i = none) : Statement i := by
  intro c _ hc
  rw [he] at hc
  cases hc

theorem raw_Ialu {w : Word} (h : (fld w 1 6).toNat = 0x00) : decodeRaw w = decIalu w := by
  simp only [decodeRaw, h]

theorem raw_Ialui {w : Word} (h : (fld w 1 6).toNat = 0x01) : decodeRaw w = decIalui w := by
  simp only [decodeRaw, h]

theorem raw_Ilog {w : Word} (h : (fld w 1 6).toNat = 0x02) : decodeRaw w = decIlog w := by
  simp only [decodeRaw, h]

theorem raw_Imisc {w : Word} (h : (fld w 1 6).toNat = 0x03) : decodeRaw w = decImisc w := by
  simp only [decodeRaw, h]

theorem raw_Iun {w : Word} (h : (fld w 1 6).toNat = 0x04) : decodeRaw w = decIun w := by
  simp only [decodeRaw, h]

theorem raw_Ibit {w : Word} (h : (fld w 1 6).toNat = 0x05) : decodeRaw w = decIbit w := by
  simp only [decodeRaw, h]

theorem raw_Movx {w : Word} (h : (fld w 1 6).toNat = 0x06) : decodeRaw w = decMovx w := by
  simp only [decodeRaw, h]

theorem raw_Movi {w : Word} (h : (fld w 1 6).toNat = 0x07) : decodeRaw w = decMovi w := by
  simp only [decodeRaw, h]

theorem raw_Icmp {w : Word} (h : (fld w 1 6).toNat = 0x08) : decodeRaw w = decIcmp w := by
  simp only [decodeRaw, h]

theorem raw_Fcmp {w : Word} (h : (fld w 1 6).toNat = 0x09) : decodeRaw w = decFcmp w := by
  simp only [decodeRaw, h]

theorem raw_Plog {w : Word} (h : (fld w 1 6).toNat = 0x0A) : decodeRaw w = decPlog w := by
  simp only [decodeRaw, h]

theorem raw_Icmpi {w : Word} (h : (fld w 1 6).toNat = 0x0B) : decodeRaw w = decIcmpi w := by
  simp only [decodeRaw, h]

theorem raw_Falu {w : Word} (h : (fld w 1 6).toNat = 0x10) : decodeRaw w = decFalu w := by
  simp only [decodeRaw, h]

theorem raw_Ffma {w : Word} (h : (fld w 1 6).toNat = 0x11) : decodeRaw w = decFfma w := by
  simp only [decodeRaw, h]

theorem raw_Halu {w : Word} (h : (fld w 1 6).toNat = 0x12) : decodeRaw w = decHalu w := by
  simp only [decodeRaw, h]

theorem raw_Sfu {w : Word} (h : (fld w 1 6).toNat = 0x13) : decodeRaw w = decSfu w := by
  simp only [decodeRaw, h]

theorem raw_Cvt {w : Word} (h : (fld w 1 6).toNat = 0x14) : decodeRaw w = decCvt w := by
  simp only [decodeRaw, h]

theorem raw_Pack {w : Word} (h : (fld w 1 6).toNat = 0x15) : decodeRaw w = decPack w := by
  simp only [decodeRaw, h]

theorem raw_Fmisc {w : Word} (h : (fld w 1 6).toNat = 0x16) : decodeRaw w = decFmisc w := by
  simp only [decodeRaw, h]

theorem raw_Scacc {w : Word} (h : (fld w 1 6).toNat = 0x17) : decodeRaw w = decScacc w := by
  simp only [decodeRaw, h]

theorem raw_Shfop {w : Word} (h : (fld w 1 6).toNat = 0x18) : decodeRaw w = decShfop w := by
  simp only [decodeRaw, h]

theorem raw_Perm {w : Word} (h : (fld w 1 6).toNat = 0x19) : decodeRaw w = decPerm w := by
  simp only [decodeRaw, h]

theorem raw_Vote {w : Word} (h : (fld w 1 6).toNat = 0x1A) : decodeRaw w = decVote w := by
  simp only [decodeRaw, h]

theorem raw_Match {w : Word} (h : (fld w 1 6).toNat = 0x1B) : decodeRaw w = decMatch w := by
  simp only [decodeRaw, h]

theorem raw_Part {w : Word} (h : (fld w 1 6).toNat = 0x1C) : decodeRaw w = decPart w := by
  simp only [decodeRaw, h]

theorem raw_Ldg {w : Word} (h : (fld w 1 6).toNat = 0x20) : decodeRaw w = decLdg w := by
  simp only [decodeRaw, h]

theorem raw_Stg {w : Word} (h : (fld w 1 6).toNat = 0x21) : decodeRaw w = decStg w := by
  simp only [decodeRaw, h]

theorem raw_Atg {w : Word} (h : (fld w 1 6).toNat = 0x22) : decodeRaw w = decAtg w := by
  simp only [decodeRaw, h]

theorem raw_Ldl {w : Word} (h : (fld w 1 6).toNat = 0x23) : decodeRaw w = decLdl w := by
  simp only [decodeRaw, h]

theorem raw_Stl {w : Word} (h : (fld w 1 6).toNat = 0x24) : decodeRaw w = decStl w := by
  simp only [decodeRaw, h]

theorem raw_Atl {w : Word} (h : (fld w 1 6).toNat = 0x25) : decodeRaw w = decAtl w := by
  simp only [decodeRaw, h]

theorem raw_Scr {w : Word} (h : (fld w 1 6).toNat = 0x26) : decodeRaw w = decScr w := by
  simp only [decodeRaw, h]

theorem raw_Fence {w : Word} (h : (fld w 1 6).toNat = 0x27) : decodeRaw w = decFence w := by
  simp only [decodeRaw, h]

theorem raw_Task {w : Word} (h : (fld w 1 6).toNat = 0x28) : decodeRaw w = decTask w := by
  simp only [decodeRaw, h]

theorem raw_Baro {w : Word} (h : (fld w 1 6).toNat = 0x29) : decodeRaw w = decBaro w := by
  simp only [decodeRaw, h]

theorem raw_Queue {w : Word} (h : (fld w 1 6).toNat = 0x2A) : decodeRaw w = decQueue w := by
  simp only [decodeRaw, h]

theorem raw_Order {w : Word} (h : (fld w 1 6).toNat = 0x2B) : decodeRaw w = decOrder w := by
  simp only [decodeRaw, h]

theorem raw_Bra {w : Word} (h : (fld w 1 6).toNat = 0x30) : decodeRaw w = decBra w := by
  simp only [decodeRaw, h]

theorem raw_Call {w : Word} (h : (fld w 1 6).toNat = 0x31) : decodeRaw w = decCall w := by
  simp only [decodeRaw, h]

theorem raw_Jmp {w : Word} (h : (fld w 1 6).toNat = 0x32) : decodeRaw w = decJmp w := by
  simp only [decodeRaw, h]

theorem raw_Mig {w : Word} (h : (fld w 1 6).toNat = 0x33) : decodeRaw w = decMig w := by
  simp only [decodeRaw, h]

theorem raw_Sys {w : Word} (h : (fld w 1 6).toNat = 0x34) : decodeRaw w = decSys w := by
  simp only [decodeRaw, h]

theorem raw_Selv {w : Word} (h : (fld w 1 6).toNat = 0x3E) : decodeRaw w = decSelv w := by
  simp only [decodeRaw, h]

theorem raw_Xp {w : Word} (h : (fld w 1 6).toNat = 0x3F) : decodeRaw w = decXp w := by
  simp only [decodeRaw, h]

theorem iadd (b : BitVec 7) (a : BitVec 7) (n : Bool) (d : BitVec 7) : Statement (.iadd b a n d) :=
  of_word (Eq.refl _) ((raw_Ialu (packF3_maj _ _ _ _ _ _ (by decide))).trans (by
    simp [decIalu, packF3_fn, packF3_b, packF3_a, packF3_n, packF3_d]))

theorem isub (b : BitVec 7) (a : BitVec 7) (n : Bool) (d : BitVec 7) : Statement (.isub b a n d) :=
  of_word (Eq.refl _) ((raw_Ialu (packF3_maj _ _ _ _ _ _ (by decide))).trans (by
    simp [decIalu, packF3_fn, packF3_b, packF3_a, packF3_n, packF3_d]))

theorem imul (b : BitVec 7) (a : BitVec 7) (n : Bool) (d : BitVec 7) : Statement (.imul b a n d) :=
  of_word (Eq.refl _) ((raw_Ialu (packF3_maj _ _ _ _ _ _ (by decide))).trans (by
    simp [decIalu, packF3_fn, packF3_b, packF3_a, packF3_n, packF3_d]))

theorem imulh (b : BitVec 7) (a : BitVec 7) (n : Bool) (d : BitVec 7) : Statement (.imulh b a n d) :=
  of_word (Eq.refl _) ((raw_Ialu (packF3_maj _ _ _ _ _ _ (by decide))).trans (by
    simp [decIalu, packF3_fn, packF3_b, packF3_a, packF3_n, packF3_d]))

theorem imulhu (b : BitVec 7) (a : BitVec 7) (n : Bool) (d : BitVec 7) : Statement (.imulhu b a n d) :=
  of_word (Eq.refl _) ((raw_Ialu (packF3_maj _ _ _ _ _ _ (by decide))).trans (by
    simp [decIalu, packF3_fn, packF3_b, packF3_a, packF3_n, packF3_d]))

theorem iadds (b : BitVec 7) (a : BitVec 7) (n : Bool) (d : BitVec 7) : Statement (.iadds b a n d) :=
  of_word (Eq.refl _) ((raw_Ialu (packF3_maj _ _ _ _ _ _ (by decide))).trans (by
    simp [decIalu, packF3_fn, packF3_b, packF3_a, packF3_n, packF3_d]))

theorem isubs (b : BitVec 7) (a : BitVec 7) (n : Bool) (d : BitVec 7) : Statement (.isubs b a n d) :=
  of_word (Eq.refl _) ((raw_Ialu (packF3_maj _ _ _ _ _ _ (by decide))).trans (by
    simp [decIalu, packF3_fn, packF3_b, packF3_a, packF3_n, packF3_d]))

theorem iabsd (b : BitVec 7) (a : BitVec 7) (n : Bool) (d : BitVec 7) : Statement (.iabsd b a n d) :=
  of_word (Eq.refl _) ((raw_Ialu (packF3_maj _ _ _ _ _ _ (by decide))).trans (by
    simp [decIalu, packF3_fn, packF3_b, packF3_a, packF3_n, packF3_d]))

theorem iaddi (i : BitVec 7) (a : BitVec 7) (n : Bool) (d : BitVec 7) : Statement (.iaddi i a n d) :=
  of_word (Eq.refl _) ((raw_Ialui (packFI_maj _ _ _ _ _ _ (by decide))).trans (by
    simp [decIalui, packFI_i, packFI_fn, packFI_a, packFI_n, packFI_d]))

theorem imuli (i : BitVec 7) (a : BitVec 7) (n : Bool) (d : BitVec 7) : Statement (.imuli i a n d) :=
  of_word (Eq.refl _) ((raw_Ialui (packFI_maj _ _ _ _ _ _ (by decide))).trans (by
    simp [decIalui, packFI_i, packFI_fn, packFI_a, packFI_n, packFI_d]))

theorem andi (i : BitVec 7) (a : BitVec 7) (n : Bool) (d : BitVec 7) : Statement (.andi i a n d) :=
  of_word (Eq.refl _) ((raw_Ialui (packFI_maj _ _ _ _ _ _ (by decide))).trans (by
    simp [decIalui, packFI_i, packFI_fn, packFI_a, packFI_n, packFI_d]))

theorem ori (i : BitVec 7) (a : BitVec 7) (n : Bool) (d : BitVec 7) : Statement (.ori i a n d) :=
  of_word (Eq.refl _) ((raw_Ialui (packFI_maj _ _ _ _ _ _ (by decide))).trans (by
    simp [decIalui, packFI_i, packFI_fn, packFI_a, packFI_n, packFI_d]))

theorem xori (i : BitVec 7) (a : BitVec 7) (n : Bool) (d : BitVec 7) : Statement (.xori i a n d) :=
  of_word (Eq.refl _) ((raw_Ialui (packFI_maj _ _ _ _ _ _ (by decide))).trans (by
    simp [decIalui, packFI_i, packFI_fn, packFI_a, packFI_n, packFI_d]))

theorem shli (i : BitVec 7) (a : BitVec 7) (n : Bool) (d : BitVec 7) : Statement (.shli i a n d) :=
  of_word (Eq.refl _) ((raw_Ialui (packFI_maj _ _ _ _ _ _ (by decide))).trans (by
    simp [decIalui, packFI_i, packFI_fn, packFI_a, packFI_n, packFI_d]))

theorem shri (i : BitVec 7) (a : BitVec 7) (n : Bool) (d : BitVec 7) : Statement (.shri i a n d) :=
  of_word (Eq.refl _) ((raw_Ialui (packFI_maj _ _ _ _ _ _ (by decide))).trans (by
    simp [decIalui, packFI_i, packFI_fn, packFI_a, packFI_n, packFI_d]))

theorem sari (i : BitVec 7) (a : BitVec 7) (n : Bool) (d : BitVec 7) : Statement (.sari i a n d) :=
  of_word (Eq.refl _) ((raw_Ialui (packFI_maj _ _ _ _ _ _ (by decide))).trans (by
    simp [decIalui, packFI_i, packFI_fn, packFI_a, packFI_n, packFI_d]))

theorem and (b : BitVec 7) (a : BitVec 7) (n : Bool) (d : BitVec 7) : Statement (.and b a n d) :=
  of_word (Eq.refl _) ((raw_Ilog (packF3_maj _ _ _ _ _ _ (by decide))).trans (by
    simp [decIlog, packF3_fn, packF3_b, packF3_a, packF3_n, packF3_d]))

theorem or (b : BitVec 7) (a : BitVec 7) (n : Bool) (d : BitVec 7) : Statement (.or b a n d) :=
  of_word (Eq.refl _) ((raw_Ilog (packF3_maj _ _ _ _ _ _ (by decide))).trans (by
    simp [decIlog, packF3_fn, packF3_b, packF3_a, packF3_n, packF3_d]))

theorem xor (b : BitVec 7) (a : BitVec 7) (n : Bool) (d : BitVec 7) : Statement (.xor b a n d) :=
  of_word (Eq.refl _) ((raw_Ilog (packF3_maj _ _ _ _ _ _ (by decide))).trans (by
    simp [decIlog, packF3_fn, packF3_b, packF3_a, packF3_n, packF3_d]))

theorem andn (b : BitVec 7) (a : BitVec 7) (n : Bool) (d : BitVec 7) : Statement (.andn b a n d) :=
  of_word (Eq.refl _) ((raw_Ilog (packF3_maj _ _ _ _ _ _ (by decide))).trans (by
    simp [decIlog, packF3_fn, packF3_b, packF3_a, packF3_n, packF3_d]))

theorem orn (b : BitVec 7) (a : BitVec 7) (n : Bool) (d : BitVec 7) : Statement (.orn b a n d) :=
  of_word (Eq.refl _) ((raw_Ilog (packF3_maj _ _ _ _ _ _ (by decide))).trans (by
    simp [decIlog, packF3_fn, packF3_b, packF3_a, packF3_n, packF3_d]))

theorem xnor (b : BitVec 7) (a : BitVec 7) (n : Bool) (d : BitVec 7) : Statement (.xnor b a n d) :=
  of_word (Eq.refl _) ((raw_Ilog (packF3_maj _ _ _ _ _ _ (by decide))).trans (by
    simp [decIlog, packF3_fn, packF3_b, packF3_a, packF3_n, packF3_d]))

theorem shl (b : BitVec 7) (a : BitVec 7) (n : Bool) (d : BitVec 7) : Statement (.shl b a n d) :=
  of_word (Eq.refl _) ((raw_Ilog (packF3_maj _ _ _ _ _ _ (by decide))).trans (by
    simp [decIlog, packF3_fn, packF3_b, packF3_a, packF3_n, packF3_d]))

theorem shr (b : BitVec 7) (a : BitVec 7) (n : Bool) (d : BitVec 7) : Statement (.shr b a n d) :=
  of_word (Eq.refl _) ((raw_Ilog (packF3_maj _ _ _ _ _ _ (by decide))).trans (by
    simp [decIlog, packF3_fn, packF3_b, packF3_a, packF3_n, packF3_d]))

theorem sar (b : BitVec 7) (a : BitVec 7) (n : Bool) (d : BitVec 7) : Statement (.sar b a n d) :=
  of_word (Eq.refl _) ((raw_Imisc (packF3_maj _ _ _ _ _ _ (by decide))).trans (by
    simp [decImisc, packF3_fn, packF3_b, packF3_a, packF3_n, packF3_d]))

theorem rotl (b : BitVec 7) (a : BitVec 7) (n : Bool) (d : BitVec 7) : Statement (.rotl b a n d) :=
  of_word (Eq.refl _) ((raw_Imisc (packF3_maj _ _ _ _ _ _ (by decide))).trans (by
    simp [decImisc, packF3_fn, packF3_b, packF3_a, packF3_n, packF3_d]))

theorem imin (b : BitVec 7) (a : BitVec 7) (n : Bool) (d : BitVec 7) : Statement (.imin b a n d) :=
  of_word (Eq.refl _) ((raw_Imisc (packF3_maj _ _ _ _ _ _ (by decide))).trans (by
    simp [decImisc, packF3_fn, packF3_b, packF3_a, packF3_n, packF3_d]))

theorem imax (b : BitVec 7) (a : BitVec 7) (n : Bool) (d : BitVec 7) : Statement (.imax b a n d) :=
  of_word (Eq.refl _) ((raw_Imisc (packF3_maj _ _ _ _ _ _ (by decide))).trans (by
    simp [decImisc, packF3_fn, packF3_b, packF3_a, packF3_n, packF3_d]))

theorem umin (b : BitVec 7) (a : BitVec 7) (n : Bool) (d : BitVec 7) : Statement (.umin b a n d) :=
  of_word (Eq.refl _) ((raw_Imisc (packF3_maj _ _ _ _ _ _ (by decide))).trans (by
    simp [decImisc, packF3_fn, packF3_b, packF3_a, packF3_n, packF3_d]))

theorem umax (b : BitVec 7) (a : BitVec 7) (n : Bool) (d : BitVec 7) : Statement (.umax b a n d) :=
  of_word (Eq.refl _) ((raw_Imisc (packF3_maj _ _ _ _ _ _ (by decide))).trans (by
    simp [decImisc, packF3_fn, packF3_b, packF3_a, packF3_n, packF3_d]))

theorem iaddc (b : BitVec 7) (a : BitVec 7) (n : Bool) (d : BitVec 7) : Statement (.iaddc b a n d) :=
  of_word (Eq.refl _) ((raw_Imisc (packF3_maj _ _ _ _ _ _ (by decide))).trans (by
    simp [decImisc, packF3_fn, packF3_b, packF3_a, packF3_n, packF3_d]))

theorem isubb (b : BitVec 7) (a : BitVec 7) (n : Bool) (d : BitVec 7) : Statement (.isubb b a n d) :=
  of_word (Eq.refl _) ((raw_Imisc (packF3_maj _ _ _ _ _ _ (by decide))).trans (by
    simp [decImisc, packF3_fn, packF3_b, packF3_a, packF3_n, packF3_d]))

theorem iabs (a : BitVec 7) (n : Bool) (d : BitVec 7) : Statement (.iabs a n d) :=
  of_word (Eq.refl _) ((raw_Iun (packF3_maj _ _ _ _ _ _ (by decide))).trans (by
    simp [decIun, packF3_fn, packF3_b, packF3_a, packF3_n, packF3_d]))

theorem ineg (a : BitVec 7) (n : Bool) (d : BitVec 7) : Statement (.ineg a n d) :=
  of_word (Eq.refl _) ((raw_Iun (packF3_maj _ _ _ _ _ _ (by decide))).trans (by
    simp [decIun, packF3_fn, packF3_b, packF3_a, packF3_n, packF3_d]))

theorem not (a : BitVec 7) (n : Bool) (d : BitVec 7) : Statement (.not a n d) :=
  of_word (Eq.refl _) ((raw_Iun (packF3_maj _ _ _ _ _ _ (by decide))).trans (by
    simp [decIun, packF3_fn, packF3_b, packF3_a, packF3_n, packF3_d]))

theorem popc (a : BitVec 7) (n : Bool) (d : BitVec 7) : Statement (.popc a n d) :=
  of_word (Eq.refl _) ((raw_Iun (packF3_maj _ _ _ _ _ _ (by decide))).trans (by
    simp [decIun, packF3_fn, packF3_b, packF3_a, packF3_n, packF3_d]))

theorem clz (a : BitVec 7) (n : Bool) (d : BitVec 7) : Statement (.clz a n d) :=
  of_word (Eq.refl _) ((raw_Iun (packF3_maj _ _ _ _ _ _ (by decide))).trans (by
    simp [decIun, packF3_fn, packF3_b, packF3_a, packF3_n, packF3_d]))

theorem ctz (a : BitVec 7) (n : Bool) (d : BitVec 7) : Statement (.ctz a n d) :=
  of_word (Eq.refl _) ((raw_Iun (packF3_maj _ _ _ _ _ _ (by decide))).trans (by
    simp [decIun, packF3_fn, packF3_b, packF3_a, packF3_n, packF3_d]))

theorem brev (a : BitVec 7) (n : Bool) (d : BitVec 7) : Statement (.brev a n d) :=
  of_word (Eq.refl _) ((raw_Iun (packF3_maj _ _ _ _ _ _ (by decide))).trans (by
    simp [decIun, packF3_fn, packF3_b, packF3_a, packF3_n, packF3_d]))

theorem bswap (a : BitVec 7) (n : Bool) (d : BitVec 7) : Statement (.bswap a n d) :=
  of_word (Eq.refl _) ((raw_Iun (packF3_maj _ _ _ _ _ _ (by decide))).trans (by
    simp [decIun, packF3_fn, packF3_b, packF3_a, packF3_n, packF3_d]))

theorem bfx (b : BitVec 7) (a : BitVec 7) (n : Bool) (d : BitVec 7) : Statement (.bfx b a n d) :=
  of_word (Eq.refl _) ((raw_Ibit (packF3_maj _ _ _ _ _ _ (by decide))).trans (by
    simp [decIbit, packF3_fn, packF3_b, packF3_a, packF3_n, packF3_d]))

theorem bfxu (b : BitVec 7) (a : BitVec 7) (n : Bool) (d : BitVec 7) : Statement (.bfxu b a n d) :=
  of_word (Eq.refl _) ((raw_Ibit (packF3_maj _ _ _ _ _ _ (by decide))).trans (by
    simp [decIbit, packF3_fn, packF3_b, packF3_a, packF3_n, packF3_d]))

theorem bfi (b : BitVec 7) (a : BitVec 7) (n : Bool) (d : BitVec 7) : Statement (.bfi b a n d) :=
  of_word (Eq.refl _) ((raw_Ibit (packF3_maj _ _ _ _ _ _ (by decide))).trans (by
    simp [decIbit, packF3_fn, packF3_b, packF3_a, packF3_n, packF3_d]))

theorem fshl (b : BitVec 7) (a : BitVec 7) (n : Bool) (d : BitVec 7) : Statement (.fshl b a n d) :=
  of_word (Eq.refl _) ((raw_Ibit (packF3_maj _ _ _ _ _ _ (by decide))).trans (by
    simp [decIbit, packF3_fn, packF3_b, packF3_a, packF3_n, packF3_d]))

theorem fshr (b : BitVec 7) (a : BitVec 7) (n : Bool) (d : BitVec 7) : Statement (.fshr b a n d) :=
  of_word (Eq.refl _) ((raw_Ibit (packF3_maj _ _ _ _ _ _ (by decide))).trans (by
    simp [decIbit, packF3_fn, packF3_b, packF3_a, packF3_n, packF3_d]))

theorem lea (b : BitVec 7) (a : BitVec 7) (n : Bool) (d : BitVec 7) : Statement (.lea b a n d) :=
  of_word (Eq.refl _) ((raw_Ibit (packF3_maj _ _ _ _ _ _ (by decide))).trans (by
    simp [decIbit, packF3_fn, packF3_b, packF3_a, packF3_n, packF3_d]))

theorem sel (b : BitVec 7) (a : BitVec 7) (n : Bool) (d : BitVec 7) : Statement (.sel b a n d) :=
  of_word (Eq.refl _) ((raw_Ibit (packF3_maj _ _ _ _ _ _ (by decide))).trans (by
    simp [decIbit, packF3_fn, packF3_b, packF3_a, packF3_n, packF3_d]))

theorem imad (b : BitVec 7) (a : BitVec 7) (n : Bool) (d : BitVec 7) : Statement (.imad b a n d) :=
  of_word (Eq.refl _) ((raw_Ibit (packF3_maj _ _ _ _ _ _ (by decide))).trans (by
    simp [decIbit, packF3_fn, packF3_b, packF3_a, packF3_n, packF3_d]))

theorem mov (a : BitVec 7) (n : Bool) (d : BitVec 7) : Statement (.mov a n d) :=
  of_word (Eq.refl _) ((raw_Movx (packF3_maj _ _ _ _ _ _ (by decide))).trans (by
    simp [decMovx, packF3_fn, packF3_b, packF3_a, packF3_n, packF3_d]))

theorem sprd (a : BitVec 7) (n : Bool) (d : BitVec 7) : Statement (.sprd a n d) :=
  of_word (Eq.refl _) ((raw_Movx (packF3_maj _ _ _ _ _ _ (by decide))).trans (by
    simp [decMovx, packF3_fn, packF3_b, packF3_a, packF3_n, packF3_d]))

theorem spwr (b : BitVec 7) (a : BitVec 7) : Statement (.spwr b a) :=
  of_word (Eq.refl _) ((raw_Movx (packF3_maj _ _ _ _ _ _ (by decide))).trans (by
    simp [decMovx, packF3_fn, packF3_b, packF3_a, packF3_n, packF3_d]))

theorem rdlane (b : BitVec 7) (a : BitVec 7) (n : Bool) (d : BitVec 7) : Statement (.rdlane b a n d) :=
  of_word (Eq.refl _) ((raw_Movx (packF3_maj _ _ _ _ _ _ (by decide))).trans (by
    simp [decMovx, packF3_fn, packF3_b, packF3_a, packF3_n, packF3_d]))

theorem wrlane (b : BitVec 7) (a : BitVec 7) (n : Bool) (d : BitVec 7) : Statement (.wrlane b a n d) :=
  of_word (Eq.refl _) ((raw_Movx (packF3_maj _ _ _ _ _ _ (by decide))).trans (by
    simp [decMovx, packF3_fn, packF3_b, packF3_a, packF3_n, packF3_d]))

theorem rfl (a : BitVec 7) (n : Bool) (d : BitVec 7) : Statement (.rfl a n d) :=
  of_word (Eq.refl _) ((raw_Movx (packF3_maj _ _ _ _ _ _ (by decide))).trans (by
    simp [decMovx, packF3_fn, packF3_b, packF3_a, packF3_n, packF3_d]))

theorem movp (a : BitVec 7) (n : Bool) (d : BitVec 7) : Statement (.movp a n d) :=
  of_word (Eq.refl _) ((raw_Movx (packF3_maj _ _ _ _ _ _ (by decide))).trans (by
    simp [decMovx, packF3_fn, packF3_b, packF3_a, packF3_n, packF3_d]))

theorem ptom (a : BitVec 7) (n : Bool) (d : BitVec 7) : Statement (.ptom a n d) :=
  of_word (Eq.refl _) ((raw_Movx (packF3_maj _ _ _ _ _ _ (by decide))).trans (by
    simp [decMovx, packF3_fn, packF3_b, packF3_a, packF3_n, packF3_d]))

theorem movi (i : BitVec 17) (n : Bool) (d : BitVec 7) : Statement (.movi i n d) :=
  of_word (Eq.refl _) ((raw_Movi (packFL_maj _ _ _ _ (by decide))).trans (by
    simp [decMovi, packFL_i, packFL_n, packFL_d]))

theorem eq (b : BitVec 7) (a : BitVec 7) (g : Bool) (x : Bool) (p : BitVec 6) : Statement (.eq b a g x p) :=
  of_word (Eq.refl _) ((raw_Icmp (packFP_maj _ _ _ _ _ _ _ (by decide))).trans (by
    simp [decIcmp, packFP_fn, packFP_b, packFP_a, packFP_g, packFP_x, packFP_p]))

theorem ne (b : BitVec 7) (a : BitVec 7) (g : Bool) (x : Bool) (p : BitVec 6) : Statement (.ne b a g x p) :=
  of_word (Eq.refl _) ((raw_Icmp (packFP_maj _ _ _ _ _ _ _ (by decide))).trans (by
    simp [decIcmp, packFP_fn, packFP_b, packFP_a, packFP_g, packFP_x, packFP_p]))

theorem lt (b : BitVec 7) (a : BitVec 7) (g : Bool) (x : Bool) (p : BitVec 6) : Statement (.lt b a g x p) :=
  of_word (Eq.refl _) ((raw_Icmp (packFP_maj _ _ _ _ _ _ _ (by decide))).trans (by
    simp [decIcmp, packFP_fn, packFP_b, packFP_a, packFP_g, packFP_x, packFP_p]))

theorem le (b : BitVec 7) (a : BitVec 7) (g : Bool) (x : Bool) (p : BitVec 6) : Statement (.le b a g x p) :=
  of_word (Eq.refl _) ((raw_Icmp (packFP_maj _ _ _ _ _ _ _ (by decide))).trans (by
    simp [decIcmp, packFP_fn, packFP_b, packFP_a, packFP_g, packFP_x, packFP_p]))

theorem ltu (b : BitVec 7) (a : BitVec 7) (g : Bool) (x : Bool) (p : BitVec 6) : Statement (.ltu b a g x p) :=
  of_word (Eq.refl _) ((raw_Icmp (packFP_maj _ _ _ _ _ _ _ (by decide))).trans (by
    simp [decIcmp, packFP_fn, packFP_b, packFP_a, packFP_g, packFP_x, packFP_p]))

theorem leu (b : BitVec 7) (a : BitVec 7) (g : Bool) (x : Bool) (p : BitVec 6) : Statement (.leu b a g x p) :=
  of_word (Eq.refl _) ((raw_Icmp (packFP_maj _ _ _ _ _ _ _ (by decide))).trans (by
    simp [decIcmp, packFP_fn, packFP_b, packFP_a, packFP_g, packFP_x, packFP_p]))

theorem tst (b : BitVec 7) (a : BitVec 7) (g : Bool) (x : Bool) (p : BitVec 6) : Statement (.tst b a g x p) :=
  of_word (Eq.refl _) ((raw_Icmp (packFP_maj _ _ _ _ _ _ _ (by decide))).trans (by
    simp [decIcmp, packFP_fn, packFP_b, packFP_a, packFP_g, packFP_x, packFP_p]))

theorem tstz (b : BitVec 7) (a : BitVec 7) (g : Bool) (x : Bool) (p : BitVec 6) : Statement (.tstz b a g x p) :=
  of_word (Eq.refl _) ((raw_Icmp (packFP_maj _ _ _ _ _ _ _ (by decide))).trans (by
    simp [decIcmp, packFP_fn, packFP_b, packFP_a, packFP_g, packFP_x, packFP_p]))

theorem feq (b : BitVec 7) (a : BitVec 7) (g : Bool) (x : Bool) (p : BitVec 6) : Statement (.feq b a g x p) :=
  of_word (Eq.refl _) ((raw_Fcmp (packFP_maj _ _ _ _ _ _ _ (by decide))).trans (by
    simp [decFcmp, packFP_fn, packFP_b, packFP_a, packFP_g, packFP_x, packFP_p]))

theorem fne (b : BitVec 7) (a : BitVec 7) (g : Bool) (x : Bool) (p : BitVec 6) : Statement (.fne b a g x p) :=
  of_word (Eq.refl _) ((raw_Fcmp (packFP_maj _ _ _ _ _ _ _ (by decide))).trans (by
    simp [decFcmp, packFP_fn, packFP_b, packFP_a, packFP_g, packFP_x, packFP_p]))

theorem flt (b : BitVec 7) (a : BitVec 7) (g : Bool) (x : Bool) (p : BitVec 6) : Statement (.flt b a g x p) :=
  of_word (Eq.refl _) ((raw_Fcmp (packFP_maj _ _ _ _ _ _ _ (by decide))).trans (by
    simp [decFcmp, packFP_fn, packFP_b, packFP_a, packFP_g, packFP_x, packFP_p]))

theorem fle (b : BitVec 7) (a : BitVec 7) (g : Bool) (x : Bool) (p : BitVec 6) : Statement (.fle b a g x p) :=
  of_word (Eq.refl _) ((raw_Fcmp (packFP_maj _ _ _ _ _ _ _ (by decide))).trans (by
    simp [decFcmp, packFP_fn, packFP_b, packFP_a, packFP_g, packFP_x, packFP_p]))

theorem fgt (b : BitVec 7) (a : BitVec 7) (g : Bool) (x : Bool) (p : BitVec 6) : Statement (.fgt b a g x p) :=
  of_word (Eq.refl _) ((raw_Fcmp (packFP_maj _ _ _ _ _ _ _ (by decide))).trans (by
    simp [decFcmp, packFP_fn, packFP_b, packFP_a, packFP_g, packFP_x, packFP_p]))

theorem fge (b : BitVec 7) (a : BitVec 7) (g : Bool) (x : Bool) (p : BitVec 6) : Statement (.fge b a g x p) :=
  of_word (Eq.refl _) ((raw_Fcmp (packFP_maj _ _ _ _ _ _ _ (by decide))).trans (by
    simp [decFcmp, packFP_fn, packFP_b, packFP_a, packFP_g, packFP_x, packFP_p]))

theorem funord (b : BitVec 7) (a : BitVec 7) (g : Bool) (x : Bool) (p : BitVec 6) : Statement (.funord b a g x p) :=
  of_word (Eq.refl _) ((raw_Fcmp (packFP_maj _ _ _ _ _ _ _ (by decide))).trans (by
    simp [decFcmp, packFP_fn, packFP_b, packFP_a, packFP_g, packFP_x, packFP_p]))

theorem ford (b : BitVec 7) (a : BitVec 7) (g : Bool) (x : Bool) (p : BitVec 6) : Statement (.ford b a g x p) :=
  of_word (Eq.refl _) ((raw_Fcmp (packFP_maj _ _ _ _ _ _ _ (by decide))).trans (by
    simp [decFcmp, packFP_fn, packFP_b, packFP_a, packFP_g, packFP_x, packFP_p]))

theorem pand (b : BitVec 7) (a : BitVec 7) (g : Bool) (x : Bool) (p : BitVec 6) : Statement (.pand b a g x p) :=
  of_word (Eq.refl _) ((raw_Plog (packFP_maj _ _ _ _ _ _ _ (by decide))).trans (by
    simp [decPlog, packFP_fn, packFP_b, packFP_a, packFP_g, packFP_x, packFP_p]))

theorem por (b : BitVec 7) (a : BitVec 7) (g : Bool) (x : Bool) (p : BitVec 6) : Statement (.por b a g x p) :=
  of_word (Eq.refl _) ((raw_Plog (packFP_maj _ _ _ _ _ _ _ (by decide))).trans (by
    simp [decPlog, packFP_fn, packFP_b, packFP_a, packFP_g, packFP_x, packFP_p]))

theorem pxor (b : BitVec 7) (a : BitVec 7) (g : Bool) (x : Bool) (p : BitVec 6) : Statement (.pxor b a g x p) :=
  of_word (Eq.refl _) ((raw_Plog (packFP_maj _ _ _ _ _ _ _ (by decide))).trans (by
    simp [decPlog, packFP_fn, packFP_b, packFP_a, packFP_g, packFP_x, packFP_p]))

theorem pandn (b : BitVec 7) (a : BitVec 7) (g : Bool) (x : Bool) (p : BitVec 6) : Statement (.pandn b a g x p) :=
  of_word (Eq.refl _) ((raw_Plog (packFP_maj _ _ _ _ _ _ _ (by decide))).trans (by
    simp [decPlog, packFP_fn, packFP_b, packFP_a, packFP_g, packFP_x, packFP_p]))

theorem pnot (a : BitVec 7) (g : Bool) (x : Bool) (p : BitVec 6) : Statement (.pnot a g x p) :=
  of_word (Eq.refl _) ((raw_Plog (packFP_maj _ _ _ _ _ _ _ (by decide))).trans (by
    simp [decPlog, packFP_fn, packFP_b, packFP_a, packFP_g, packFP_x, packFP_p]))

theorem pmov (a : BitVec 7) (g : Bool) (x : Bool) (p : BitVec 6) : Statement (.pmov a g x p) :=
  of_word (Eq.refl _) ((raw_Plog (packFP_maj _ _ _ _ _ _ _ (by decide))).trans (by
    simp [decPlog, packFP_fn, packFP_b, packFP_a, packFP_g, packFP_x, packFP_p]))

theorem pclr (g : Bool) (x : Bool) (p : BitVec 6) : Statement (.pclr g x p) :=
  of_word (Eq.refl _) ((raw_Plog (packFP_maj _ _ _ _ _ _ _ (by decide))).trans (by
    simp [decPlog, packFP_fn, packFP_b, packFP_a, packFP_g, packFP_x, packFP_p]))

theorem pset (g : Bool) (x : Bool) (p : BitVec 6) : Statement (.pset g x p) :=
  of_word (Eq.refl _) ((raw_Plog (packFP_maj _ _ _ _ _ _ _ (by decide))).trans (by
    simp [decPlog, packFP_fn, packFP_b, packFP_a, packFP_g, packFP_x, packFP_p]))

theorem eqImm (i : BitVec 7) (a : BitVec 7) (g : Bool) (x : Bool) (p : BitVec 6) : Statement (.eqImm i a g x p) :=
  of_word (Eq.refl _) ((raw_Icmpi (packFP_maj _ _ _ _ _ _ _ (by decide))).trans (by
    simp [decIcmpi, packFP_fn, packFP_b, packFP_a, packFP_g, packFP_x, packFP_p]))

theorem neImm (i : BitVec 7) (a : BitVec 7) (g : Bool) (x : Bool) (p : BitVec 6) : Statement (.neImm i a g x p) :=
  of_word (Eq.refl _) ((raw_Icmpi (packFP_maj _ _ _ _ _ _ _ (by decide))).trans (by
    simp [decIcmpi, packFP_fn, packFP_b, packFP_a, packFP_g, packFP_x, packFP_p]))

theorem ltImm (i : BitVec 7) (a : BitVec 7) (g : Bool) (x : Bool) (p : BitVec 6) : Statement (.ltImm i a g x p) :=
  of_word (Eq.refl _) ((raw_Icmpi (packFP_maj _ _ _ _ _ _ _ (by decide))).trans (by
    simp [decIcmpi, packFP_fn, packFP_b, packFP_a, packFP_g, packFP_x, packFP_p]))

theorem leImm (i : BitVec 7) (a : BitVec 7) (g : Bool) (x : Bool) (p : BitVec 6) : Statement (.leImm i a g x p) :=
  of_word (Eq.refl _) ((raw_Icmpi (packFP_maj _ _ _ _ _ _ _ (by decide))).trans (by
    simp [decIcmpi, packFP_fn, packFP_b, packFP_a, packFP_g, packFP_x, packFP_p]))

theorem ltuImm (i : BitVec 7) (a : BitVec 7) (g : Bool) (x : Bool) (p : BitVec 6) : Statement (.ltuImm i a g x p) :=
  of_word (Eq.refl _) ((raw_Icmpi (packFP_maj _ _ _ _ _ _ _ (by decide))).trans (by
    simp [decIcmpi, packFP_fn, packFP_b, packFP_a, packFP_g, packFP_x, packFP_p]))

theorem leuImm (i : BitVec 7) (a : BitVec 7) (g : Bool) (x : Bool) (p : BitVec 6) : Statement (.leuImm i a g x p) :=
  of_word (Eq.refl _) ((raw_Icmpi (packFP_maj _ _ _ _ _ _ _ (by decide))).trans (by
    simp [decIcmpi, packFP_fn, packFP_b, packFP_a, packFP_g, packFP_x, packFP_p]))

theorem tstImm (i : BitVec 7) (a : BitVec 7) (g : Bool) (x : Bool) (p : BitVec 6) : Statement (.tstImm i a g x p) :=
  of_word (Eq.refl _) ((raw_Icmpi (packFP_maj _ _ _ _ _ _ _ (by decide))).trans (by
    simp [decIcmpi, packFP_fn, packFP_b, packFP_a, packFP_g, packFP_x, packFP_p]))

theorem tstzImm (i : BitVec 7) (a : BitVec 7) (g : Bool) (x : Bool) (p : BitVec 6) : Statement (.tstzImm i a g x p) :=
  of_word (Eq.refl _) ((raw_Icmpi (packFP_maj _ _ _ _ _ _ _ (by decide))).trans (by
    simp [decIcmpi, packFP_fn, packFP_b, packFP_a, packFP_g, packFP_x, packFP_p]))

theorem fadd (b : BitVec 7) (a : BitVec 7) (n : Bool) (d : BitVec 7) : Statement (.fadd b a n d) :=
  of_word (Eq.refl _) ((raw_Falu (packF3_maj _ _ _ _ _ _ (by decide))).trans (by
    simp [decFalu, packF3_fn, packF3_b, packF3_a, packF3_n, packF3_d]))

theorem fsub (b : BitVec 7) (a : BitVec 7) (n : Bool) (d : BitVec 7) : Statement (.fsub b a n d) :=
  of_word (Eq.refl _) ((raw_Falu (packF3_maj _ _ _ _ _ _ (by decide))).trans (by
    simp [decFalu, packF3_fn, packF3_b, packF3_a, packF3_n, packF3_d]))

theorem fmul (b : BitVec 7) (a : BitVec 7) (n : Bool) (d : BitVec 7) : Statement (.fmul b a n d) :=
  of_word (Eq.refl _) ((raw_Falu (packF3_maj _ _ _ _ _ _ (by decide))).trans (by
    simp [decFalu, packF3_fn, packF3_b, packF3_a, packF3_n, packF3_d]))

theorem fmin (b : BitVec 7) (a : BitVec 7) (n : Bool) (d : BitVec 7) : Statement (.fmin b a n d) :=
  of_word (Eq.refl _) ((raw_Falu (packF3_maj _ _ _ _ _ _ (by decide))).trans (by
    simp [decFalu, packF3_fn, packF3_b, packF3_a, packF3_n, packF3_d]))

theorem fmax (b : BitVec 7) (a : BitVec 7) (n : Bool) (d : BitVec 7) : Statement (.fmax b a n d) :=
  of_word (Eq.refl _) ((raw_Falu (packF3_maj _ _ _ _ _ _ (by decide))).trans (by
    simp [decFalu, packF3_fn, packF3_b, packF3_a, packF3_n, packF3_d]))

theorem fminn (b : BitVec 7) (a : BitVec 7) (n : Bool) (d : BitVec 7) : Statement (.fminn b a n d) :=
  of_word (Eq.refl _) ((raw_Falu (packF3_maj _ _ _ _ _ _ (by decide))).trans (by
    simp [decFalu, packF3_fn, packF3_b, packF3_a, packF3_n, packF3_d]))

theorem fmaxn (b : BitVec 7) (a : BitVec 7) (n : Bool) (d : BitVec 7) : Statement (.fmaxn b a n d) :=
  of_word (Eq.refl _) ((raw_Falu (packF3_maj _ _ _ _ _ _ (by decide))).trans (by
    simp [decFalu, packF3_fn, packF3_b, packF3_a, packF3_n, packF3_d]))

theorem fcpsgn (b : BitVec 7) (a : BitVec 7) (n : Bool) (d : BitVec 7) : Statement (.fcpsgn b a n d) :=
  of_word (Eq.refl _) ((raw_Falu (packF3_maj _ _ _ _ _ _ (by decide))).trans (by
    simp [decFalu, packF3_fn, packF3_b, packF3_a, packF3_n, packF3_d]))

theorem ffma (b : BitVec 7) (a : BitVec 7) (n : Bool) (d : BitVec 7) : Statement (.ffma b a n d) :=
  of_word (Eq.refl _) ((raw_Ffma (packF3_maj _ _ _ _ _ _ (by decide))).trans (by
    simp [decFfma, packF3_fn, packF3_b, packF3_a, packF3_n, packF3_d]))

theorem ffms (b : BitVec 7) (a : BitVec 7) (n : Bool) (d : BitVec 7) : Statement (.ffms b a n d) :=
  of_word (Eq.refl _) ((raw_Ffma (packF3_maj _ _ _ _ _ _ (by decide))).trans (by
    simp [decFfma, packF3_fn, packF3_b, packF3_a, packF3_n, packF3_d]))

theorem fnma (b : BitVec 7) (a : BitVec 7) (n : Bool) (d : BitVec 7) : Statement (.fnma b a n d) :=
  of_word (Eq.refl _) ((raw_Ffma (packF3_maj _ _ _ _ _ _ (by decide))).trans (by
    simp [decFfma, packF3_fn, packF3_b, packF3_a, packF3_n, packF3_d]))

theorem fnms (b : BitVec 7) (a : BitVec 7) (n : Bool) (d : BitVec 7) : Statement (.fnms b a n d) :=
  of_word (Eq.refl _) ((raw_Ffma (packF3_maj _ _ _ _ _ _ (by decide))).trans (by
    simp [decFfma, packF3_fn, packF3_b, packF3_a, packF3_n, packF3_d]))

theorem hfma2 (b : BitVec 7) (a : BitVec 7) (n : Bool) (d : BitVec 7) : Statement (.hfma2 b a n d) :=
  of_word (Eq.refl _) ((raw_Ffma (packF3_maj _ _ _ _ _ _ (by decide))).trans (by
    simp [decFfma, packF3_fn, packF3_b, packF3_a, packF3_n, packF3_d]))

theorem bfma2 (b : BitVec 7) (a : BitVec 7) (n : Bool) (d : BitVec 7) : Statement (.bfma2 b a n d) :=
  of_word (Eq.refl _) ((raw_Ffma (packF3_maj _ _ _ _ _ _ (by decide))).trans (by
    simp [decFfma, packF3_fn, packF3_b, packF3_a, packF3_n, packF3_d]))

theorem idp4 (b : BitVec 7) (a : BitVec 7) (n : Bool) (d : BitVec 7) : Statement (.idp4 b a n d) :=
  of_word (Eq.refl _) ((raw_Ffma (packF3_maj _ _ _ _ _ _ (by decide))).trans (by
    simp [decFfma, packF3_fn, packF3_b, packF3_a, packF3_n, packF3_d]))

theorem hdp2 (b : BitVec 7) (a : BitVec 7) (n : Bool) (d : BitVec 7) : Statement (.hdp2 b a n d) :=
  of_word (Eq.refl _) ((raw_Ffma (packF3_maj _ _ _ _ _ _ (by decide))).trans (by
    simp [decFfma, packF3_fn, packF3_b, packF3_a, packF3_n, packF3_d]))

theorem hadd2 (b : BitVec 7) (a : BitVec 7) (n : Bool) (d : BitVec 7) : Statement (.hadd2 b a n d) :=
  of_word (Eq.refl _) ((raw_Halu (packF3_maj _ _ _ _ _ _ (by decide))).trans (by
    simp [decHalu, packF3_fn, packF3_b, packF3_a, packF3_n, packF3_d]))

theorem hsub2 (b : BitVec 7) (a : BitVec 7) (n : Bool) (d : BitVec 7) : Statement (.hsub2 b a n d) :=
  of_word (Eq.refl _) ((raw_Halu (packF3_maj _ _ _ _ _ _ (by decide))).trans (by
    simp [decHalu, packF3_fn, packF3_b, packF3_a, packF3_n, packF3_d]))

theorem hmul2 (b : BitVec 7) (a : BitVec 7) (n : Bool) (d : BitVec 7) : Statement (.hmul2 b a n d) :=
  of_word (Eq.refl _) ((raw_Halu (packF3_maj _ _ _ _ _ _ (by decide))).trans (by
    simp [decHalu, packF3_fn, packF3_b, packF3_a, packF3_n, packF3_d]))

theorem hmax2 (b : BitVec 7) (a : BitVec 7) (n : Bool) (d : BitVec 7) : Statement (.hmax2 b a n d) :=
  of_word (Eq.refl _) ((raw_Halu (packF3_maj _ _ _ _ _ _ (by decide))).trans (by
    simp [decHalu, packF3_fn, packF3_b, packF3_a, packF3_n, packF3_d]))

theorem badd2 (b : BitVec 7) (a : BitVec 7) (n : Bool) (d : BitVec 7) : Statement (.badd2 b a n d) :=
  of_word (Eq.refl _) ((raw_Halu (packF3_maj _ _ _ _ _ _ (by decide))).trans (by
    simp [decHalu, packF3_fn, packF3_b, packF3_a, packF3_n, packF3_d]))

theorem bsub2 (b : BitVec 7) (a : BitVec 7) (n : Bool) (d : BitVec 7) : Statement (.bsub2 b a n d) :=
  of_word (Eq.refl _) ((raw_Halu (packF3_maj _ _ _ _ _ _ (by decide))).trans (by
    simp [decHalu, packF3_fn, packF3_b, packF3_a, packF3_n, packF3_d]))

theorem bmul2 (b : BitVec 7) (a : BitVec 7) (n : Bool) (d : BitVec 7) : Statement (.bmul2 b a n d) :=
  of_word (Eq.refl _) ((raw_Halu (packF3_maj _ _ _ _ _ _ (by decide))).trans (by
    simp [decHalu, packF3_fn, packF3_b, packF3_a, packF3_n, packF3_d]))

theorem bmax2 (b : BitVec 7) (a : BitVec 7) (n : Bool) (d : BitVec 7) : Statement (.bmax2 b a n d) :=
  of_word (Eq.refl _) ((raw_Halu (packF3_maj _ _ _ _ _ _ (by decide))).trans (by
    simp [decHalu, packF3_fn, packF3_b, packF3_a, packF3_n, packF3_d]))

theorem frcp (a : BitVec 7) (n : Bool) (d : BitVec 7) : Statement (.frcp a n d) :=
  of_word (Eq.refl _) ((raw_Sfu (packF3_maj _ _ _ _ _ _ (by decide))).trans (by
    simp [decSfu, packF3_fn, packF3_b, packF3_a, packF3_n, packF3_d]))

theorem frsq (a : BitVec 7) (n : Bool) (d : BitVec 7) : Statement (.frsq a n d) :=
  of_word (Eq.refl _) ((raw_Sfu (packF3_maj _ _ _ _ _ _ (by decide))).trans (by
    simp [decSfu, packF3_fn, packF3_b, packF3_a, packF3_n, packF3_d]))

theorem fsqrt (a : BitVec 7) (n : Bool) (d : BitVec 7) : Statement (.fsqrt a n d) :=
  of_word (Eq.refl _) ((raw_Sfu (packF3_maj _ _ _ _ _ _ (by decide))).trans (by
    simp [decSfu, packF3_fn, packF3_b, packF3_a, packF3_n, packF3_d]))

theorem flg2 (a : BitVec 7) (n : Bool) (d : BitVec 7) : Statement (.flg2 a n d) :=
  of_word (Eq.refl _) ((raw_Sfu (packF3_maj _ _ _ _ _ _ (by decide))).trans (by
    simp [decSfu, packF3_fn, packF3_b, packF3_a, packF3_n, packF3_d]))

theorem fex2 (a : BitVec 7) (n : Bool) (d : BitVec 7) : Statement (.fex2 a n d) :=
  of_word (Eq.refl _) ((raw_Sfu (packF3_maj _ _ _ _ _ _ (by decide))).trans (by
    simp [decSfu, packF3_fn, packF3_b, packF3_a, packF3_n, packF3_d]))

theorem fsin (a : BitVec 7) (n : Bool) (d : BitVec 7) : Statement (.fsin a n d) :=
  of_word (Eq.refl _) ((raw_Sfu (packF3_maj _ _ _ _ _ _ (by decide))).trans (by
    simp [decSfu, packF3_fn, packF3_b, packF3_a, packF3_n, packF3_d]))

theorem fcos (a : BitVec 7) (n : Bool) (d : BitVec 7) : Statement (.fcos a n d) :=
  of_word (Eq.refl _) ((raw_Sfu (packF3_maj _ _ _ _ _ _ (by decide))).trans (by
    simp [decSfu, packF3_fn, packF3_b, packF3_a, packF3_n, packF3_d]))

theorem ftanh (a : BitVec 7) (n : Bool) (d : BitVec 7) : Statement (.ftanh a n d) :=
  of_word (Eq.refl _) ((raw_Sfu (packF3_maj _ _ _ _ _ _ (by decide))).trans (by
    simp [decSfu, packF3_fn, packF3_b, packF3_a, packF3_n, packF3_d]))

theorem cvt (r : BitVec 2) (s : BitVec 4) (f : BitVec 4) (a : BitVec 7) (n : Bool) (d : BitVec 7) : Statement (.cvt r s f a n d) :=
  of_word (Eq.refl _) ((raw_Cvt (packFC_maj _ _ _ _ _ _ _ (by decide))).trans (by
    simp [decCvt, packFC_r, packFC_s, packFC_f, packFC_a, packFC_n, packFC_d]))

theorem pk2h (b : BitVec 7) (a : BitVec 7) (n : Bool) (d : BitVec 7) : Statement (.pk2h b a n d) :=
  of_word (Eq.refl _) ((raw_Pack (packF3_maj _ _ _ _ _ _ (by decide))).trans (by
    simp [decPack, packF3_fn, packF3_b, packF3_a, packF3_n, packF3_d]))

theorem pk2bf (b : BitVec 7) (a : BitVec 7) (n : Bool) (d : BitVec 7) : Statement (.pk2bf b a n d) :=
  of_word (Eq.refl _) ((raw_Pack (packF3_maj _ _ _ _ _ _ (by decide))).trans (by
    simp [decPack, packF3_fn, packF3_b, packF3_a, packF3_n, packF3_d]))

theorem upkhl (a : BitVec 7) (n : Bool) (d : BitVec 7) : Statement (.upkhl a n d) :=
  of_word (Eq.refl _) ((raw_Pack (packF3_maj _ _ _ _ _ _ (by decide))).trans (by
    simp [decPack, packF3_fn, packF3_b, packF3_a, packF3_n, packF3_d]))

theorem upkhh (a : BitVec 7) (n : Bool) (d : BitVec 7) : Statement (.upkhh a n d) :=
  of_word (Eq.refl _) ((raw_Pack (packF3_maj _ _ _ _ _ _ (by decide))).trans (by
    simp [decPack, packF3_fn, packF3_b, packF3_a, packF3_n, packF3_d]))

theorem upkbl (a : BitVec 7) (n : Bool) (d : BitVec 7) : Statement (.upkbl a n d) :=
  of_word (Eq.refl _) ((raw_Pack (packF3_maj _ _ _ _ _ _ (by decide))).trans (by
    simp [decPack, packF3_fn, packF3_b, packF3_a, packF3_n, packF3_d]))

theorem upkbh (a : BitVec 7) (n : Bool) (d : BitVec 7) : Statement (.upkbh a n d) :=
  of_word (Eq.refl _) ((raw_Pack (packF3_maj _ _ _ _ _ _ (by decide))).trans (by
    simp [decPack, packF3_fn, packF3_b, packF3_a, packF3_n, packF3_d]))

theorem perm8 (b : BitVec 7) (a : BitVec 7) (n : Bool) (d : BitVec 7) : Statement (.perm8 b a n d) :=
  of_word (Eq.refl _) ((raw_Pack (packF3_maj _ _ _ _ _ _ (by decide))).trans (by
    simp [decPack, packF3_fn, packF3_b, packF3_a, packF3_n, packF3_d]))

theorem frndn (a : BitVec 7) (n : Bool) (d : BitVec 7) : Statement (.frndn a n d) :=
  of_word (Eq.refl _) ((raw_Fmisc (packF3_maj _ _ _ _ _ _ (by decide))).trans (by
    simp [decFmisc, packF3_fn, packF3_b, packF3_a, packF3_n, packF3_d]))

theorem frndz (a : BitVec 7) (n : Bool) (d : BitVec 7) : Statement (.frndz a n d) :=
  of_word (Eq.refl _) ((raw_Fmisc (packF3_maj _ _ _ _ _ _ (by decide))).trans (by
    simp [decFmisc, packF3_fn, packF3_b, packF3_a, packF3_n, packF3_d]))

theorem frndd (a : BitVec 7) (n : Bool) (d : BitVec 7) : Statement (.frndd a n d) :=
  of_word (Eq.refl _) ((raw_Fmisc (packF3_maj _ _ _ _ _ _ (by decide))).trans (by
    simp [decFmisc, packF3_fn, packF3_b, packF3_a, packF3_n, packF3_d]))

theorem frndu (a : BitVec 7) (n : Bool) (d : BitVec 7) : Statement (.frndu a n d) :=
  of_word (Eq.refl _) ((raw_Fmisc (packF3_maj _ _ _ _ _ _ (by decide))).trans (by
    simp [decFmisc, packF3_fn, packF3_b, packF3_a, packF3_n, packF3_d]))

theorem ffrac (a : BitVec 7) (n : Bool) (d : BitVec 7) : Statement (.ffrac a n d) :=
  of_word (Eq.refl _) ((raw_Fmisc (packF3_maj _ _ _ _ _ _ (by decide))).trans (by
    simp [decFmisc, packF3_fn, packF3_b, packF3_a, packF3_n, packF3_d]))

theorem fclass (a : BitVec 7) (n : Bool) (d : BitVec 7) : Statement (.fclass a n d) :=
  of_word (Eq.refl _) ((raw_Fmisc (packF3_maj _ _ _ _ _ _ (by decide))).trans (by
    simp [decFmisc, packF3_fn, packF3_b, packF3_a, packF3_n, packF3_d]))

theorem fgetexp (a : BitVec 7) (n : Bool) (d : BitVec 7) : Statement (.fgetexp a n d) :=
  of_word (Eq.refl _) ((raw_Fmisc (packF3_maj _ _ _ _ _ _ (by decide))).trans (by
    simp [decFmisc, packF3_fn, packF3_b, packF3_a, packF3_n, packF3_d]))

theorem fldexp (b : BitVec 7) (a : BitVec 7) (n : Bool) (d : BitVec 7) : Statement (.fldexp b a n d) :=
  of_word (Eq.refl _) ((raw_Fmisc (packF3_maj _ _ _ _ _ _ (by decide))).trans (by
    simp [decFmisc, packF3_fn, packF3_b, packF3_a, packF3_n, packF3_d]))

theorem scacc (b : BitVec 7) (a : BitVec 7) (n : Bool) (d : BitVec 7) : Statement (.scacc b a n d) :=
  of_word (Eq.refl _) ((raw_Scacc (packF3_maj _ _ _ _ _ _ (by decide))).trans (by
    simp [decScacc, packF3_fn, packF3_b, packF3_a, packF3_n, packF3_d]))

theorem scacc2 (b : BitVec 7) (a : BitVec 7) (n : Bool) (d : BitVec 7) : Statement (.scacc2 b a n d) :=
  of_word (Eq.refl _) ((raw_Scacc (packF3_maj _ _ _ _ _ _ (by decide))).trans (by
    simp [decScacc, packF3_fn, packF3_b, packF3_a, packF3_n, packF3_d]))

theorem scmul (b : BitVec 7) (a : BitVec 7) (n : Bool) (d : BitVec 7) : Statement (.scmul b a n d) :=
  of_word (Eq.refl _) ((raw_Scacc (packF3_maj _ _ _ _ _ _ (by decide))).trans (by
    simp [decScacc, packF3_fn, packF3_b, packF3_a, packF3_n, packF3_d]))

theorem scaci (b : BitVec 7) (a : BitVec 7) (n : Bool) (d : BitVec 7) : Statement (.scaci b a n d) :=
  of_word (Eq.refl _) ((raw_Scacc (packF3_maj _ _ _ _ _ _ (by decide))).trans (by
    simp [decScacc, packF3_fn, packF3_b, packF3_a, packF3_n, packF3_d]))

theorem scaci2 (b : BitVec 7) (a : BitVec 7) (n : Bool) (d : BitVec 7) : Statement (.scaci2 b a n d) :=
  of_word (Eq.refl _) ((raw_Scacc (packF3_maj _ _ _ _ _ _ (by decide))).trans (by
    simp [decScacc, packF3_fn, packF3_b, packF3_a, packF3_n, packF3_d]))

theorem shfop (k : BitVec 3) (o : BitVec 4) (m : BitVec 3) (a : BitVec 7) (n : Bool) (d : BitVec 7) : Statement (.shfop k o m a n d) :=
  of_word (Eq.refl _) ((raw_Shfop (packFSH_maj _ _ _ _ _ _ _ (by decide))).trans (by
    simp [decShfop, packFSH_k, packFSH_o, packFSH_m, packFSH_a, packFSH_n, packFSH_d]))

theorem perm (b : BitVec 7) (a : BitVec 7) (n : Bool) (d : BitVec 7) : Statement (.perm b a n d) :=
  of_word (Eq.refl _) ((raw_Perm (packF3_maj _ _ _ _ _ _ (by decide))).trans (by
    simp [decPerm, packF3_fn, packF3_b, packF3_a, packF3_n, packF3_d]))

theorem permt (b : BitVec 7) (a : BitVec 7) (n : Bool) (d : BitVec 7) : Statement (.permt b a n d) :=
  of_word (Eq.refl _) ((raw_Perm (packF3_maj _ _ _ _ _ _ (by decide))).trans (by
    simp [decPerm, packF3_fn, packF3_b, packF3_a, packF3_n, packF3_d]))

theorem perms (b : BitVec 7) (a : BitVec 7) (n : Bool) (d : BitVec 7) : Statement (.perms b a n d) :=
  of_word (Eq.refl _) ((raw_Perm (packF3_maj _ _ _ _ _ _ (by decide))).trans (by
    simp [decPerm, packF3_fn, packF3_b, packF3_a, packF3_n, packF3_d]))

theorem compact (b : BitVec 7) (a : BitVec 7) (n : Bool) (d : BitVec 7) : Statement (.compact b a n d) :=
  of_word (Eq.refl _) ((raw_Perm (packF3_maj _ _ _ _ _ _ (by decide))).trans (by
    simp [decPerm, packF3_fn, packF3_b, packF3_a, packF3_n, packF3_d]))

theorem vall (a : BitVec 7) (g : Bool) (x : Bool) (p : BitVec 6) : Statement (.vall a g x p) :=
  of_word (Eq.refl _) ((raw_Vote (packFP_maj _ _ _ _ _ _ _ (by decide))).trans (by
    simp [decVote, packFP_fn, packFP_b, packFP_a, packFP_g, packFP_x, packFP_p]))

theorem vany (a : BitVec 7) (g : Bool) (x : Bool) (p : BitVec 6) : Statement (.vany a g x p) :=
  of_word (Eq.refl _) ((raw_Vote (packFP_maj _ _ _ _ _ _ _ (by decide))).trans (by
    simp [decVote, packFP_fn, packFP_b, packFP_a, packFP_g, packFP_x, packFP_p]))

theorem veq (a : BitVec 7) (g : Bool) (x : Bool) (p : BitVec 6) : Statement (.veq a g x p) :=
  of_word (Eq.refl _) ((raw_Vote (packFP_maj _ _ _ _ _ _ _ (by decide))).trans (by
    simp [decVote, packFP_fn, packFP_b, packFP_a, packFP_g, packFP_x, packFP_p]))

theorem vfirst (a : BitVec 7) (g : Bool) (x : Bool) (p : BitVec 6) : Statement (.vfirst a g x p) :=
  of_word (Eq.refl _) ((raw_Vote (packFP_maj _ _ _ _ _ _ _ (by decide))).trans (by
    simp [decVote, packFP_fn, packFP_b, packFP_a, packFP_g, packFP_x, packFP_p]))

theorem vlast (a : BitVec 7) (g : Bool) (x : Bool) (p : BitVec 6) : Statement (.vlast a g x p) :=
  of_word (Eq.refl _) ((raw_Vote (packFP_maj _ _ _ _ _ _ _ (by decide))).trans (by
    simp [decVote, packFP_fn, packFP_b, packFP_a, packFP_g, packFP_x, packFP_p]))

theorem matchLanes (a : BitVec 7) (n : Bool) (d : BitVec 7) : Statement (.matchLanes a n d) :=
  of_word (Eq.refl _) ((raw_Match (packF3_maj _ _ _ _ _ _ (by decide))).trans (by
    simp [decMatch, packF3_fn, packF3_b, packF3_a, packF3_n, packF3_d]))

theorem tfirst (a : BitVec 7) (n : Bool) (d : BitVec 7) : Statement (.tfirst a n d) :=
  of_word (Eq.refl _) ((raw_Match (packF3_maj _ _ _ _ _ _ (by decide))).trans (by
    simp [decMatch, packF3_fn, packF3_b, packF3_a, packF3_n, packF3_d]))

theorem tpop (a : BitVec 7) (n : Bool) (d : BitVec 7) : Statement (.tpop a n d) :=
  of_word (Eq.refl _) ((raw_Match (packF3_maj _ _ _ _ _ _ (by decide))).trans (by
    simp [decMatch, packF3_fn, packF3_b, packF3_a, packF3_n, packF3_d]))

theorem setpart (i : BitVec 7) (a : BitVec 7) : Statement (.setpart i a) :=
  of_word (Eq.refl _) ((raw_Part (packFI_maj _ _ _ _ _ _ (by decide))).trans (by
    simp [decPart, packFI_i, packFI_fn, packFI_a, packFI_n, packFI_d]))

theorem getpart (n : Bool) (d : BitVec 7) : Statement (.getpart n d) :=
  of_word (Eq.refl _) ((raw_Part (packFI_maj _ _ _ _ _ _ (by decide))).trans (by
    simp [decPart, packFI_i, packFI_fn, packFI_a, packFI_n, packFI_d]))

theorem tileid (n : Bool) (d : BitVec 7) : Statement (.tileid n d) :=
  of_word (Eq.refl _) ((raw_Part (packFI_maj _ _ _ _ _ _ (by decide))).trans (by
    simp [decPart, packFI_i, packFI_fn, packFI_a, packFI_n, packFI_d]))

theorem tlane (n : Bool) (d : BitVec 7) : Statement (.tlane n d) :=
  of_word (Eq.refl _) ((raw_Part (packFI_maj _ _ _ _ _ _ (by decide))).trans (by
    simp [decPart, packFI_i, packFI_fn, packFI_a, packFI_n, packFI_d]))

theorem ldg (z : BitVec 3) (o : BitVec 2) (s : BitVec 2) (l : BitVec 2) (a : BitVec 7) (n : Bool) (d : BitVec 7) : Statement (.ldg z o s l a n d) :=
  of_word (Eq.refl _) ((raw_Ldg (packFM_maj _ _ _ _ _ _ _ _ _ (by decide))).trans (by
    simp [decLdg, packFM_f1, packFM_z, packFM_o, packFM_s, packFM_l, packFM_a, packFM_n, packFM_d]))

theorem ldgPf (z : BitVec 3) (s : BitVec 2) (l : BitVec 2) (a : BitVec 7) : Statement (.ldgPf z s l a) :=
  of_word (Eq.refl _) ((raw_Ldg (packFM_maj _ _ _ _ _ _ _ _ _ (by decide))).trans (by
    simp [decLdg, packFM_f1, packFM_z, packFM_o, packFM_s, packFM_l, packFM_a, packFM_n, packFM_d]))

theorem stg (z : BitVec 3) (o : BitVec 2) (s : BitVec 2) (l : BitVec 2) (a : BitVec 7) (d : BitVec 7) : Statement (.stg z o s l a d) :=
  of_word (Eq.refl _) ((raw_Stg (packFM_maj _ _ _ _ _ _ _ _ _ (by decide))).trans (by
    simp [decStg, packFM_f1, packFM_z, packFM_o, packFM_s, packFM_l, packFM_a, packFM_n, packFM_d]))

theorem atgAdd (o : BitVec 2) (s : BitVec 2) (l : BitVec 2) (a : BitVec 7) (d : BitVec 7) : Statement (.atgAdd o s l a d) :=
  of_word (Eq.refl _) ((raw_Atg (packFA_maj _ _ _ _ _ _ _ _ (by decide))).trans (by
    simp [decAtg, packFA_op, packFA_o, packFA_s, packFA_l, packFA_a, packFA_n, packFA_d]))

theorem atgSub (o : BitVec 2) (s : BitVec 2) (l : BitVec 2) (a : BitVec 7) (d : BitVec 7) : Statement (.atgSub o s l a d) :=
  of_word (Eq.refl _) ((raw_Atg (packFA_maj _ _ _ _ _ _ _ _ (by decide))).trans (by
    simp [decAtg, packFA_op, packFA_o, packFA_s, packFA_l, packFA_a, packFA_n, packFA_d]))

theorem atgMin (o : BitVec 2) (s : BitVec 2) (l : BitVec 2) (a : BitVec 7) (d : BitVec 7) : Statement (.atgMin o s l a d) :=
  of_word (Eq.refl _) ((raw_Atg (packFA_maj _ _ _ _ _ _ _ _ (by decide))).trans (by
    simp [decAtg, packFA_op, packFA_o, packFA_s, packFA_l, packFA_a, packFA_n, packFA_d]))

theorem atgMax (o : BitVec 2) (s : BitVec 2) (l : BitVec 2) (a : BitVec 7) (d : BitVec 7) : Statement (.atgMax o s l a d) :=
  of_word (Eq.refl _) ((raw_Atg (packFA_maj _ _ _ _ _ _ _ _ (by decide))).trans (by
    simp [decAtg, packFA_op, packFA_o, packFA_s, packFA_l, packFA_a, packFA_n, packFA_d]))

theorem atgUmin (o : BitVec 2) (s : BitVec 2) (l : BitVec 2) (a : BitVec 7) (d : BitVec 7) : Statement (.atgUmin o s l a d) :=
  of_word (Eq.refl _) ((raw_Atg (packFA_maj _ _ _ _ _ _ _ _ (by decide))).trans (by
    simp [decAtg, packFA_op, packFA_o, packFA_s, packFA_l, packFA_a, packFA_n, packFA_d]))

theorem atgUmax (o : BitVec 2) (s : BitVec 2) (l : BitVec 2) (a : BitVec 7) (d : BitVec 7) : Statement (.atgUmax o s l a d) :=
  of_word (Eq.refl _) ((raw_Atg (packFA_maj _ _ _ _ _ _ _ _ (by decide))).trans (by
    simp [decAtg, packFA_op, packFA_o, packFA_s, packFA_l, packFA_a, packFA_n, packFA_d]))

theorem atgAnd (o : BitVec 2) (s : BitVec 2) (l : BitVec 2) (a : BitVec 7) (d : BitVec 7) : Statement (.atgAnd o s l a d) :=
  of_word (Eq.refl _) ((raw_Atg (packFA_maj _ _ _ _ _ _ _ _ (by decide))).trans (by
    simp [decAtg, packFA_op, packFA_o, packFA_s, packFA_l, packFA_a, packFA_n, packFA_d]))

theorem atgOr (o : BitVec 2) (s : BitVec 2) (l : BitVec 2) (a : BitVec 7) (d : BitVec 7) : Statement (.atgOr o s l a d) :=
  of_word (Eq.refl _) ((raw_Atg (packFA_maj _ _ _ _ _ _ _ _ (by decide))).trans (by
    simp [decAtg, packFA_op, packFA_o, packFA_s, packFA_l, packFA_a, packFA_n, packFA_d]))

theorem atgXor (o : BitVec 2) (s : BitVec 2) (l : BitVec 2) (a : BitVec 7) (d : BitVec 7) : Statement (.atgXor o s l a d) :=
  of_word (Eq.refl _) ((raw_Atg (packFA_maj _ _ _ _ _ _ _ _ (by decide))).trans (by
    simp [decAtg, packFA_op, packFA_o, packFA_s, packFA_l, packFA_a, packFA_n, packFA_d]))

theorem atgXchg (o : BitVec 2) (s : BitVec 2) (l : BitVec 2) (a : BitVec 7) (d : BitVec 7) : Statement (.atgXchg o s l a d) :=
  of_word (Eq.refl _) ((raw_Atg (packFA_maj _ _ _ _ _ _ _ _ (by decide))).trans (by
    simp [decAtg, packFA_op, packFA_o, packFA_s, packFA_l, packFA_a, packFA_n, packFA_d]))

theorem atgCas (o : BitVec 2) (s : BitVec 2) (l : BitVec 2) (a : BitVec 7) (d : BitVec 7) : Statement (.atgCas o s l a d) :=
  of_word (Eq.refl _) ((raw_Atg (packFA_maj _ _ _ _ _ _ _ _ (by decide))).trans (by
    simp [decAtg, packFA_op, packFA_o, packFA_s, packFA_l, packFA_a, packFA_n, packFA_d]))

theorem atgFadd (o : BitVec 2) (s : BitVec 2) (l : BitVec 2) (a : BitVec 7) (d : BitVec 7) : Statement (.atgFadd o s l a d) :=
  of_word (Eq.refl _) ((raw_Atg (packFA_maj _ _ _ _ _ _ _ _ (by decide))).trans (by
    simp [decAtg, packFA_op, packFA_o, packFA_s, packFA_l, packFA_a, packFA_n, packFA_d]))

theorem atgFmin (o : BitVec 2) (s : BitVec 2) (l : BitVec 2) (a : BitVec 7) (d : BitVec 7) : Statement (.atgFmin o s l a d) :=
  of_word (Eq.refl _) ((raw_Atg (packFA_maj _ _ _ _ _ _ _ _ (by decide))).trans (by
    simp [decAtg, packFA_op, packFA_o, packFA_s, packFA_l, packFA_a, packFA_n, packFA_d]))

theorem atgFmax (o : BitVec 2) (s : BitVec 2) (l : BitVec 2) (a : BitVec 7) (d : BitVec 7) : Statement (.atgFmax o s l a d) :=
  of_word (Eq.refl _) ((raw_Atg (packFA_maj _ _ _ _ _ _ _ _ (by decide))).trans (by
    simp [decAtg, packFA_op, packFA_o, packFA_s, packFA_l, packFA_a, packFA_n, packFA_d]))

theorem atgInc (o : BitVec 2) (s : BitVec 2) (l : BitVec 2) (a : BitVec 7) (d : BitVec 7) : Statement (.atgInc o s l a d) :=
  of_word (Eq.refl _) ((raw_Atg (packFA_maj _ _ _ _ _ _ _ _ (by decide))).trans (by
    simp [decAtg, packFA_op, packFA_o, packFA_s, packFA_l, packFA_a, packFA_n, packFA_d]))

theorem atgDec (o : BitVec 2) (s : BitVec 2) (l : BitVec 2) (a : BitVec 7) (d : BitVec 7) : Statement (.atgDec o s l a d) :=
  of_word (Eq.refl _) ((raw_Atg (packFA_maj _ _ _ _ _ _ _ _ (by decide))).trans (by
    simp [decAtg, packFA_op, packFA_o, packFA_s, packFA_l, packFA_a, packFA_n, packFA_d]))

theorem ldl (i : BitVec 7) (z : BitVec 3) (a : BitVec 7) (n : Bool) (d : BitVec 7) : Statement (.ldl i z a n d) :=
  of_word (Eq.refl _) ((raw_Ldl (packFLM_maj _ _ _ _ _ _ (by decide))).trans (by
    simp [decLdl, packFLM_i, packFLM_z, packFLM_a, packFLM_n, packFLM_d]))

theorem stl (i : BitVec 7) (z : BitVec 3) (a : BitVec 7) (d : BitVec 7) : Statement (.stl i z a d) :=
  of_word (Eq.refl _) ((raw_Stl (packFLM_maj _ _ _ _ _ _ (by decide))).trans (by
    simp [decStl, packFLM_i, packFLM_z, packFLM_a, packFLM_n, packFLM_d]))

theorem atlAdd (o : BitVec 2) (s : BitVec 2) (a : BitVec 7) (d : BitVec 7) : Statement (.atlAdd o s a d) :=
  of_word (Eq.refl _) ((raw_Atl (packFA_maj _ _ _ _ _ _ _ _ (by decide))).trans (by
    simp [decAtl, packFA_op, packFA_o, packFA_s, packFA_l, packFA_a, packFA_n, packFA_d]))

theorem atlSub (o : BitVec 2) (s : BitVec 2) (a : BitVec 7) (d : BitVec 7) : Statement (.atlSub o s a d) :=
  of_word (Eq.refl _) ((raw_Atl (packFA_maj _ _ _ _ _ _ _ _ (by decide))).trans (by
    simp [decAtl, packFA_op, packFA_o, packFA_s, packFA_l, packFA_a, packFA_n, packFA_d]))

theorem atlMin (o : BitVec 2) (s : BitVec 2) (a : BitVec 7) (d : BitVec 7) : Statement (.atlMin o s a d) :=
  of_word (Eq.refl _) ((raw_Atl (packFA_maj _ _ _ _ _ _ _ _ (by decide))).trans (by
    simp [decAtl, packFA_op, packFA_o, packFA_s, packFA_l, packFA_a, packFA_n, packFA_d]))

theorem atlMax (o : BitVec 2) (s : BitVec 2) (a : BitVec 7) (d : BitVec 7) : Statement (.atlMax o s a d) :=
  of_word (Eq.refl _) ((raw_Atl (packFA_maj _ _ _ _ _ _ _ _ (by decide))).trans (by
    simp [decAtl, packFA_op, packFA_o, packFA_s, packFA_l, packFA_a, packFA_n, packFA_d]))

theorem atlUmin (o : BitVec 2) (s : BitVec 2) (a : BitVec 7) (d : BitVec 7) : Statement (.atlUmin o s a d) :=
  of_word (Eq.refl _) ((raw_Atl (packFA_maj _ _ _ _ _ _ _ _ (by decide))).trans (by
    simp [decAtl, packFA_op, packFA_o, packFA_s, packFA_l, packFA_a, packFA_n, packFA_d]))

theorem atlUmax (o : BitVec 2) (s : BitVec 2) (a : BitVec 7) (d : BitVec 7) : Statement (.atlUmax o s a d) :=
  of_word (Eq.refl _) ((raw_Atl (packFA_maj _ _ _ _ _ _ _ _ (by decide))).trans (by
    simp [decAtl, packFA_op, packFA_o, packFA_s, packFA_l, packFA_a, packFA_n, packFA_d]))

theorem atlAnd (o : BitVec 2) (s : BitVec 2) (a : BitVec 7) (d : BitVec 7) : Statement (.atlAnd o s a d) :=
  of_word (Eq.refl _) ((raw_Atl (packFA_maj _ _ _ _ _ _ _ _ (by decide))).trans (by
    simp [decAtl, packFA_op, packFA_o, packFA_s, packFA_l, packFA_a, packFA_n, packFA_d]))

theorem atlOr (o : BitVec 2) (s : BitVec 2) (a : BitVec 7) (d : BitVec 7) : Statement (.atlOr o s a d) :=
  of_word (Eq.refl _) ((raw_Atl (packFA_maj _ _ _ _ _ _ _ _ (by decide))).trans (by
    simp [decAtl, packFA_op, packFA_o, packFA_s, packFA_l, packFA_a, packFA_n, packFA_d]))

theorem atlXor (o : BitVec 2) (s : BitVec 2) (a : BitVec 7) (d : BitVec 7) : Statement (.atlXor o s a d) :=
  of_word (Eq.refl _) ((raw_Atl (packFA_maj _ _ _ _ _ _ _ _ (by decide))).trans (by
    simp [decAtl, packFA_op, packFA_o, packFA_s, packFA_l, packFA_a, packFA_n, packFA_d]))

theorem atlXchg (o : BitVec 2) (s : BitVec 2) (a : BitVec 7) (d : BitVec 7) : Statement (.atlXchg o s a d) :=
  of_word (Eq.refl _) ((raw_Atl (packFA_maj _ _ _ _ _ _ _ _ (by decide))).trans (by
    simp [decAtl, packFA_op, packFA_o, packFA_s, packFA_l, packFA_a, packFA_n, packFA_d]))

theorem atlCas (o : BitVec 2) (s : BitVec 2) (a : BitVec 7) (d : BitVec 7) : Statement (.atlCas o s a d) :=
  of_word (Eq.refl _) ((raw_Atl (packFA_maj _ _ _ _ _ _ _ _ (by decide))).trans (by
    simp [decAtl, packFA_op, packFA_o, packFA_s, packFA_l, packFA_a, packFA_n, packFA_d]))

theorem atlFadd (o : BitVec 2) (s : BitVec 2) (a : BitVec 7) (d : BitVec 7) : Statement (.atlFadd o s a d) :=
  of_word (Eq.refl _) ((raw_Atl (packFA_maj _ _ _ _ _ _ _ _ (by decide))).trans (by
    simp [decAtl, packFA_op, packFA_o, packFA_s, packFA_l, packFA_a, packFA_n, packFA_d]))

theorem atlFmin (o : BitVec 2) (s : BitVec 2) (a : BitVec 7) (d : BitVec 7) : Statement (.atlFmin o s a d) :=
  of_word (Eq.refl _) ((raw_Atl (packFA_maj _ _ _ _ _ _ _ _ (by decide))).trans (by
    simp [decAtl, packFA_op, packFA_o, packFA_s, packFA_l, packFA_a, packFA_n, packFA_d]))

theorem atlFmax (o : BitVec 2) (s : BitVec 2) (a : BitVec 7) (d : BitVec 7) : Statement (.atlFmax o s a d) :=
  of_word (Eq.refl _) ((raw_Atl (packFA_maj _ _ _ _ _ _ _ _ (by decide))).trans (by
    simp [decAtl, packFA_op, packFA_o, packFA_s, packFA_l, packFA_a, packFA_n, packFA_d]))

theorem atlInc (o : BitVec 2) (s : BitVec 2) (a : BitVec 7) (d : BitVec 7) : Statement (.atlInc o s a d) :=
  of_word (Eq.refl _) ((raw_Atl (packFA_maj _ _ _ _ _ _ _ _ (by decide))).trans (by
    simp [decAtl, packFA_op, packFA_o, packFA_s, packFA_l, packFA_a, packFA_n, packFA_d]))

theorem atlDec (o : BitVec 2) (s : BitVec 2) (a : BitVec 7) (d : BitVec 7) : Statement (.atlDec o s a d) :=
  of_word (Eq.refl _) ((raw_Atl (packFA_maj _ _ _ _ _ _ _ _ (by decide))).trans (by
    simp [decAtl, packFA_op, packFA_o, packFA_s, packFA_l, packFA_a, packFA_n, packFA_d]))

theorem scrAdd (o : BitVec 2) (s : BitVec 2) (a : BitVec 7) (d : BitVec 7) : Statement (.scrAdd o s a d) :=
  of_word (Eq.refl _) ((raw_Scr (packFA_maj _ _ _ _ _ _ _ _ (by decide))).trans (by
    simp [decScr, packFA_op, packFA_o, packFA_s, packFA_l, packFA_a, packFA_n, packFA_d]))

theorem scrFadd (o : BitVec 2) (s : BitVec 2) (a : BitVec 7) (d : BitVec 7) : Statement (.scrFadd o s a d) :=
  of_word (Eq.refl _) ((raw_Scr (packFA_maj _ _ _ _ _ _ _ _ (by decide))).trans (by
    simp [decScr, packFA_op, packFA_o, packFA_s, packFA_l, packFA_a, packFA_n, packFA_d]))

theorem scrMin (o : BitVec 2) (s : BitVec 2) (a : BitVec 7) (d : BitVec 7) : Statement (.scrMin o s a d) :=
  of_word (Eq.refl _) ((raw_Scr (packFA_maj _ _ _ _ _ _ _ _ (by decide))).trans (by
    simp [decScr, packFA_op, packFA_o, packFA_s, packFA_l, packFA_a, packFA_n, packFA_d]))

theorem scrMax (o : BitVec 2) (s : BitVec 2) (a : BitVec 7) (d : BitVec 7) : Statement (.scrMax o s a d) :=
  of_word (Eq.refl _) ((raw_Scr (packFA_maj _ _ _ _ _ _ _ _ (by decide))).trans (by
    simp [decScr, packFA_op, packFA_o, packFA_s, packFA_l, packFA_a, packFA_n, packFA_d]))

theorem scrAnd (o : BitVec 2) (s : BitVec 2) (a : BitVec 7) (d : BitVec 7) : Statement (.scrAnd o s a d) :=
  of_word (Eq.refl _) ((raw_Scr (packFA_maj _ _ _ _ _ _ _ _ (by decide))).trans (by
    simp [decScr, packFA_op, packFA_o, packFA_s, packFA_l, packFA_a, packFA_n, packFA_d]))

theorem scrOr (o : BitVec 2) (s : BitVec 2) (a : BitVec 7) (d : BitVec 7) : Statement (.scrOr o s a d) :=
  of_word (Eq.refl _) ((raw_Scr (packFA_maj _ _ _ _ _ _ _ _ (by decide))).trans (by
    simp [decScr, packFA_op, packFA_o, packFA_s, packFA_l, packFA_a, packFA_n, packFA_d]))

theorem scrXor (o : BitVec 2) (s : BitVec 2) (a : BitVec 7) (d : BitVec 7) : Statement (.scrXor o s a d) :=
  of_word (Eq.refl _) ((raw_Scr (packFA_maj _ _ _ _ _ _ _ _ (by decide))).trans (by
    simp [decScr, packFA_op, packFA_o, packFA_s, packFA_l, packFA_a, packFA_n, packFA_d]))

theorem scrFmax (o : BitVec 2) (s : BitVec 2) (a : BitVec 7) (d : BitVec 7) : Statement (.scrFmax o s a d) :=
  of_word (Eq.refl _) ((raw_Scr (packFA_maj _ _ _ _ _ _ _ _ (by decide))).trans (by
    simp [decScr, packFA_op, packFA_o, packFA_s, packFA_l, packFA_a, packFA_n, packFA_d]))

theorem scrXchg (o : BitVec 2) (s : BitVec 2) (a : BitVec 7) (d : BitVec 7) : Statement (.scrXchg o s a d) :=
  of_word (Eq.refl _) ((raw_Scr (packFA_maj _ _ _ _ _ _ _ _ (by decide))).trans (by
    simp [decScr, packFA_op, packFA_o, packFA_s, packFA_l, packFA_a, packFA_n, packFA_d]))

theorem scrCas (o : BitVec 2) (s : BitVec 2) (a : BitVec 7) (d : BitVec 7) : Statement (.scrCas o s a d) :=
  of_word (Eq.refl _) ((raw_Scr (packFA_maj _ _ _ _ _ _ _ _ (by decide))).trans (by
    simp [decScr, packFA_op, packFA_o, packFA_s, packFA_l, packFA_a, packFA_n, packFA_d]))

theorem scrLd (o : BitVec 2) (s : BitVec 2) (a : BitVec 7) (d : BitVec 7) : Statement (.scrLd o s a d) :=
  of_word (Eq.refl _) ((raw_Scr (packFA_maj _ _ _ _ _ _ _ _ (by decide))).trans (by
    simp [decScr, packFA_op, packFA_o, packFA_s, packFA_l, packFA_a, packFA_n, packFA_d]))

theorem scrSt (o : BitVec 2) (s : BitVec 2) (a : BitVec 7) (d : BitVec 7) : Statement (.scrSt o s a d) :=
  of_word (Eq.refl _) ((raw_Scr (packFA_maj _ _ _ _ _ _ _ _ (by decide))).trans (by
    simp [decScr, packFA_op, packFA_o, packFA_s, packFA_l, packFA_a, packFA_n, packFA_d]))

theorem fence (o : BitVec 2) (s : BitVec 2) : Statement (.fence o s) :=
  of_word (Eq.refl _) ((raw_Fence (packFF_maj _ _ _ _ _ _ (by decide))).trans (by
    simp [decFence, packFF_zz, packFF_b, packFF_a, packFF_o, packFF_s, packFF_fn]))

theorem xfence (b : BitVec 4) (a : BitVec 4) (o : BitVec 2) (s : BitVec 2) : Statement (.xfence b a o s) :=
  of_word (Eq.refl _) ((raw_Fence (packFF_maj _ _ _ _ _ _ (by decide))).trans (by
    simp [decFence, packFF_zz, packFF_b, packFF_a, packFF_o, packFF_s, packFF_fn]))

theorem drainst : Statement .drainst :=
  of_word (Eq.refl _) ((raw_Fence (packFF_maj _ _ _ _ _ _ (by decide))).trans (by
    simp [decFence, packFF_zz, packFF_b, packFF_a, packFF_o, packFF_s, packFF_fn]))

theorem cinv : Statement .cinv :=
  of_word (Eq.refl _) ((raw_Fence (packFF_maj _ _ _ _ _ _ (by decide))).trans (by
    simp [decFence, packFF_zz, packFF_b, packFF_a, packFF_o, packFF_s, packFF_fn]))

theorem cflush : Statement .cflush :=
  of_word (Eq.refl _) ((raw_Fence (packFF_maj _ _ _ _ _ _ (by decide))).trans (by
    simp [decFence, packFF_zz, packFF_b, packFF_a, packFF_o, packFF_s, packFF_fn]))

theorem tkick (b : BitVec 7) (a : BitVec 7) : Statement (.tkick b a) :=
  of_word (Eq.refl _) ((raw_Task (packF3_maj _ _ _ _ _ _ (by decide))).trans (by
    simp [decTask, packF3_fn, packF3_b, packF3_a, packF3_n, packF3_d]))

theorem tcancel (a : BitVec 7) : Statement (.tcancel a) :=
  of_word (Eq.refl _) ((raw_Task (packF3_maj _ _ _ _ _ _ (by decide))).trans (by
    simp [decTask, packF3_fn, packF3_b, packF3_a, packF3_n, packF3_d]))

theorem tstat (a : BitVec 7) (n : Bool) (d : BitVec 7) : Statement (.tstat a n d) :=
  of_word (Eq.refl _) ((raw_Task (packF3_maj _ _ _ _ _ _ (by decide))).trans (by
    simp [decTask, packF3_fn, packF3_b, packF3_a, packF3_n, packF3_d]))

theorem binit (b : BitVec 7) (a : BitVec 7) : Statement (.binit b a) :=
  of_word (Eq.refl _) ((raw_Baro (packF3_maj _ _ _ _ _ _ (by decide))).trans (by
    simp [decBaro, packF3_fn, packF3_b, packF3_a, packF3_n, packF3_d]))

theorem barrive (b : BitVec 7) (a : BitVec 7) (n : Bool) (d : BitVec 7) : Statement (.barrive b a n d) :=
  of_word (Eq.refl _) ((raw_Baro (packF3_maj _ _ _ _ _ _ (by decide))).trans (by
    simp [decBaro, packF3_fn, packF3_b, packF3_a, packF3_n, packF3_d]))

theorem bexpect (b : BitVec 7) (a : BitVec 7) : Statement (.bexpect b a) :=
  of_word (Eq.refl _) ((raw_Baro (packF3_maj _ _ _ _ _ _ (by decide))).trans (by
    simp [decBaro, packF3_fn, packF3_b, packF3_a, packF3_n, packF3_d]))

theorem bwait (b : BitVec 7) (a : BitVec 7) (n : Bool) (d : BitVec 7) : Statement (.bwait b a n d) :=
  of_word (Eq.refl _) ((raw_Baro (packF3_maj _ _ _ _ _ _ (by decide))).trans (by
    simp [decBaro, packF3_fn, packF3_b, packF3_a, packF3_n, packF3_d]))

theorem btest (a : BitVec 7) (n : Bool) (d : BitVec 7) : Statement (.btest a n d) :=
  of_word (Eq.refl _) ((raw_Baro (packF3_maj _ _ _ _ _ _ (by decide))).trans (by
    simp [decBaro, packF3_fn, packF3_b, packF3_a, packF3_n, packF3_d]))

theorem binval (a : BitVec 7) : Statement (.binval a) :=
  of_word (Eq.refl _) ((raw_Baro (packF3_maj _ _ _ _ _ _ (by decide))).trans (by
    simp [decBaro, packF3_fn, packF3_b, packF3_a, packF3_n, packF3_d]))

theorem qpush (b : BitVec 7) (a : BitVec 7) : Statement (.qpush b a) :=
  of_word (Eq.refl _) ((raw_Queue (packF3_maj _ _ _ _ _ _ (by decide))).trans (by
    simp [decQueue, packF3_fn, packF3_b, packF3_a, packF3_n, packF3_d]))

theorem qpop (b : BitVec 7) (d : BitVec 7) : Statement (.qpop b d) :=
  of_word (Eq.refl _) ((raw_Queue (packF3_maj _ _ _ _ _ _ (by decide))).trans (by
    simp [decQueue, packF3_fn, packF3_b, packF3_a, packF3_n, packF3_d]))

theorem qres (a : BitVec 7) (d : BitVec 7) : Statement (.qres a d) :=
  of_word (Eq.refl _) ((raw_Queue (packF3_maj _ _ _ _ _ _ (by decide))).trans (by
    simp [decQueue, packF3_fn, packF3_b, packF3_a, packF3_n, packF3_d]))

theorem qcommit (b : BitVec 7) (a : BitVec 7) : Statement (.qcommit b a) :=
  of_word (Eq.refl _) ((raw_Queue (packF3_maj _ _ _ _ _ _ (by decide))).trans (by
    simp [decQueue, packF3_fn, packF3_b, packF3_a, packF3_n, packF3_d]))

theorem qlen (a : BitVec 7) (d : BitVec 7) : Statement (.qlen a d) :=
  of_word (Eq.refl _) ((raw_Queue (packF3_maj _ _ _ _ _ _ (by decide))).trans (by
    simp [decQueue, packF3_fn, packF3_b, packF3_a, packF3_n, packF3_d]))

theorem ordw (a : BitVec 7) (d : BitVec 7) : Statement (.ordw a d) :=
  of_word (Eq.refl _) ((raw_Order (packF3_maj _ _ _ _ _ _ (by decide))).trans (by
    simp [decOrder, packF3_fn, packF3_b, packF3_a, packF3_n, packF3_d]))

theorem ordp (a : BitVec 7) (d : BitVec 7) : Statement (.ordp a d) :=
  of_word (Eq.refl _) ((raw_Order (packF3_maj _ _ _ _ _ _ (by decide))).trans (by
    simp [decOrder, packF3_fn, packF3_b, packF3_a, packF3_n, packF3_d]))

theorem ordr (a : BitVec 7) (d : BitVec 7) : Statement (.ordr a d) :=
  of_word (Eq.refl _) ((raw_Order (packF3_maj _ _ _ _ _ _ (by decide))).trans (by
    simp [decOrder, packF3_fn, packF3_b, packF3_a, packF3_n, packF3_d]))

theorem bra (i : BitVec 17) (l : Bool) (g : Bool) (p : BitVec 6) : Statement (.bra i l g p) :=
  of_word (Eq.refl _) ((raw_Bra (packFB_maj _ _ _ _ _ (by decide))).trans (by
    simp [decBra, packFB_i, packFB_l, packFB_g, packFB_p]))

theorem call (i : BitVec 17) (l : Bool) (g : Bool) (p : BitVec 6) : Statement (.call i l g p) :=
  of_word (Eq.refl _) ((raw_Call (packFB_maj _ _ _ _ _ (by decide))).trans (by
    simp [decCall, packFB_i, packFB_l, packFB_g, packFB_p]))

theorem jmps (a : BitVec 7) : Statement (.jmps a) :=
  of_word (Eq.refl _) ((raw_Jmp (packF3_maj _ _ _ _ _ _ (by decide))).trans (by
    simp [decJmp, packF3_fn, packF3_b, packF3_a, packF3_n, packF3_d]))

theorem calls (a : BitVec 7) : Statement (.calls a) :=
  of_word (Eq.refl _) ((raw_Jmp (packF3_maj _ _ _ _ _ _ (by decide))).trans (by
    simp [decJmp, packF3_fn, packF3_b, packF3_a, packF3_n, packF3_d]))

theorem ret (a : BitVec 7) : Statement (.ret a) :=
  of_word (Eq.refl _) ((raw_Jmp (packF3_maj _ _ _ _ _ _ (by decide))).trans (by
    simp [decJmp, packF3_fn, packF3_b, packF3_a, packF3_n, packF3_d]))

theorem exit : Statement .exit :=
  of_word (Eq.refl _) ((raw_Jmp (packF3_maj _ _ _ _ _ _ (by decide))).trans (by
    simp [decJmp, packF3_fn, packF3_b, packF3_a, packF3_n, packF3_d]))

theorem knot : Statement .knot :=
  of_word (Eq.refl _) ((raw_Jmp (packF3_maj _ _ _ _ _ _ (by decide))).trans (by
    simp [decJmp, packF3_fn, packF3_b, packF3_a, packF3_n, packF3_d]))

theorem bar (b : BitVec 7) (a : BitVec 7) : Statement (.bar b a) :=
  of_word (Eq.refl _) ((raw_Jmp (packF3_maj _ _ _ _ _ _ (by decide))).trans (by
    simp [decJmp, packF3_fn, packF3_b, packF3_a, packF3_n, packF3_d]))

theorem yield : Statement .yield :=
  of_word (Eq.refl _) ((raw_Jmp (packF3_maj _ _ _ _ _ _ (by decide))).trans (by
    simp [decJmp, packF3_fn, packF3_b, packF3_a, packF3_n, packF3_d]))

theorem nop : Statement .nop :=
  of_word (Eq.refl _) ((raw_Jmp (packF3_maj _ _ _ _ _ _ (by decide))).trans (by
    simp [decJmp, packF3_fn, packF3_b, packF3_a, packF3_n, packF3_d]))

theorem migShuttle (i : BitVec 7) (d : BitVec 7) : Statement (.migShuttle i d) :=
  of_word (Eq.refl _) ((raw_Mig (packFI_maj _ _ _ _ _ _ (by decide))).trans (by
    simp [decMig, packFI_i, packFI_fn, packFI_a, packFI_n, packFI_d]))

theorem migBeam (i : BitVec 7) (d : BitVec 7) : Statement (.migBeam i d) :=
  of_word (Eq.refl _) ((raw_Mig (packFI_maj _ _ _ _ _ _ (by decide))).trans (by
    simp [decMig, packFI_i, packFI_fn, packFI_a, packFI_n, packFI_d]))

theorem trap (a : BitVec 7) : Statement (.trap a) :=
  of_word (Eq.refl _) ((raw_Sys (packF3_maj _ _ _ _ _ _ (by decide))).trans (by
    simp [decSys, packF3_fn, packF3_b, packF3_a, packF3_n, packF3_d]))

theorem rett : Statement .rett :=
  of_word (Eq.refl _) ((raw_Sys (packF3_maj _ _ _ _ _ _ (by decide))).trans (by
    simp [decSys, packF3_fn, packF3_b, packF3_a, packF3_n, packF3_d]))

theorem rettEnd : Statement .rettEnd :=
  of_word (Eq.refl _) ((raw_Sys (packF3_maj _ _ _ _ _ _ (by decide))).trans (by
    simp [decSys, packF3_fn, packF3_b, packF3_a, packF3_n, packF3_d]))

theorem qry (a : BitVec 7) (d : BitVec 7) : Statement (.qry a d) :=
  of_word (Eq.refl _) ((raw_Sys (packF3_maj _ _ _ _ _ _ (by decide))).trans (by
    simp [decSys, packF3_fn, packF3_b, packF3_a, packF3_n, packF3_d]))

theorem ckpt : Statement .ckpt :=
  of_word (Eq.refl _) ((raw_Sys (packF3_maj _ _ _ _ _ _ (by decide))).trans (by
    simp [decSys, packF3_fn, packF3_b, packF3_a, packF3_n, packF3_d]))

theorem brk : Statement .brk :=
  of_word (Eq.refl _) ((raw_Sys (packF3_maj _ _ _ _ _ _ (by decide))).trans (by
    simp [decSys, packF3_fn, packF3_b, packF3_a, packF3_n, packF3_d]))

theorem selv (y : Bool) (n : BitVec 2) (c : BitVec 7) (b : BitVec 7) (a : BitVec 7) : Statement (.selv y n c b a) :=
  of_word (Eq.refl _) ((raw_Selv (packFS_maj _ _ _ _ _ _ (by decide))).trans (by
    simp [decSelv, packFS_zz, packFS_y, packFS_n, packFS_c, packFS_b, packFS_a]))

theorem xp (p : BitVec 25) : Statement (.xp p) :=
  of_word (Eq.refl _) ((raw_Xp (packFX_maj _ _ (by decide))).trans (by
    simp [decXp, packFX_p]))

theorem mov16 (b : BitVec 6) (d : BitVec 5) : Statement (.mov16 b d) :=
  of_half (Eq.refl _) (by simp only [decode16, pack16_op, pack16_b, pack16_d, Nat.reduceLT])

theorem iadd16 (b : BitVec 6) (d : BitVec 5) : Statement (.iadd16 b d) :=
  of_half (Eq.refl _) (by simp only [decode16, pack16_op, pack16_b, pack16_d, Nat.reduceLT])

theorem isub16 (b : BitVec 6) (d : BitVec 5) : Statement (.isub16 b d) :=
  of_half (Eq.refl _) (by simp only [decode16, pack16_op, pack16_b, pack16_d, Nat.reduceLT])

theorem imul16 (b : BitVec 6) (d : BitVec 5) : Statement (.imul16 b d) :=
  of_half (Eq.refl _) (by simp only [decode16, pack16_op, pack16_b, pack16_d, Nat.reduceLT])

theorem and16 (b : BitVec 6) (d : BitVec 5) : Statement (.and16 b d) :=
  of_half (Eq.refl _) (by simp only [decode16, pack16_op, pack16_b, pack16_d, Nat.reduceLT])

theorem or16 (b : BitVec 6) (d : BitVec 5) : Statement (.or16 b d) :=
  of_half (Eq.refl _) (by simp only [decode16, pack16_op, pack16_b, pack16_d, Nat.reduceLT])

theorem xor16 (b : BitVec 6) (d : BitVec 5) : Statement (.xor16 b d) :=
  of_half (Eq.refl _) (by simp only [decode16, pack16_op, pack16_b, pack16_d, Nat.reduceLT])

theorem shl16 (b : BitVec 6) (d : BitVec 5) : Statement (.shl16 b d) :=
  of_half (Eq.refl _) (by simp only [decode16, pack16_op, pack16_b, pack16_d, Nat.reduceLT])

theorem shr16 (b : BitVec 6) (d : BitVec 5) : Statement (.shr16 b d) :=
  of_half (Eq.refl _) (by simp only [decode16, pack16_op, pack16_b, pack16_d, Nat.reduceLT])

theorem sar16 (b : BitVec 6) (d : BitVec 5) : Statement (.sar16 b d) :=
  of_half (Eq.refl _) (by simp only [decode16, pack16_op, pack16_b, pack16_d, Nat.reduceLT])

theorem imin16 (b : BitVec 6) (d : BitVec 5) : Statement (.imin16 b d) :=
  of_half (Eq.refl _) (by simp only [decode16, pack16_op, pack16_b, pack16_d, Nat.reduceLT])

theorem imax16 (b : BitVec 6) (d : BitVec 5) : Statement (.imax16 b d) :=
  of_half (Eq.refl _) (by simp only [decode16, pack16_op, pack16_b, pack16_d, Nat.reduceLT])

theorem fadd16 (b : BitVec 6) (d : BitVec 5) : Statement (.fadd16 b d) :=
  of_half (Eq.refl _) (by simp only [decode16, pack16_op, pack16_b, pack16_d, Nat.reduceLT])

theorem fmul16 (b : BitVec 6) (d : BitVec 5) : Statement (.fmul16 b d) :=
  of_half (Eq.refl _) (by simp only [decode16, pack16_op, pack16_b, pack16_d, Nat.reduceLT])

theorem fmax16 (b : BitVec 6) (d : BitVec 5) : Statement (.fmax16 b d) :=
  of_half (Eq.refl _) (by simp only [decode16, pack16_op, pack16_b, pack16_d, Nat.reduceLT])

theorem fmac (b : BitVec 6) (d : BitVec 5) : Statement (.fmac b d) :=
  of_half (Eq.refl _) (by simp only [decode16, pack16_op, pack16_b, pack16_d, Nat.reduceLT])

theorem powerOnReset (b : BootInput) : Statement (.powerOnReset b) := of_none (Eq.refl _)

theorem registerWrite (q : HostWrite) : Statement (.registerWrite q) := of_none (Eq.refl _)

theorem partitionEnable (p : Fin 8) (sec : Bool) : Statement (.partitionEnable p sec) := of_none (Eq.refl _)

theorem partitionDisable (p : Fin 8) (sec : Bool) : Statement (.partitionDisable p sec) := of_none (Eq.refl _)

theorem tenantEnable (p : Fin 8) (t : Fin 9) (sec : Bool) : Statement (.tenantEnable p t sec) := of_none (Eq.refl _)

theorem tenantDisable (p : Fin 8) (t : Fin 9) (sec : Bool) : Statement (.tenantDisable p t sec) := of_none (Eq.refl _)

theorem reside (p : Fin 8) (t : Fin 9) (sec : Bool) : Statement (.reside p t sec) := of_none (Eq.refl _)

theorem release (p : Fin 8) (t : Fin 9) (sec : Bool) : Statement (.release p t sec) := of_none (Eq.refl _)

theorem preempt (p : Fin 8) (t : Fin 9) (sec : Bool) : Statement (.preempt p t sec) := of_none (Eq.refl _)

theorem contextReset (p : Fin 8) (t : Fin 9) (sec : Bool) : Statement (.contextReset p t sec) := of_none (Eq.refl _)

theorem resume (p : Fin 8) (t : Fin 9) (sec : Bool) : Statement (.resume p t sec) := of_none (Eq.refl _)

theorem ctxcmdInvalid (p : Fin 8) (t : Fin 9) (code : BitVec 32) (sec : Bool) : Statement (.ctxcmdInvalid p t code sec) := of_none (Eq.refl _)

theorem contextDrained (p : Fin 8) (t : Fin 9) : Statement (.contextDrained p t) := of_none (Eq.refl _)

theorem drainDeadline (p : Fin 8) (t : Fin 9) : Statement (.drainDeadline p t) := of_none (Eq.refl _)

theorem placeTableWrite (k : PlaceKind) (n : Nat) (v : BitVec 32) : Statement (.placeTableWrite k n v) := of_none (Eq.refl _)

theorem clsuspSet (c : Fin 32) : Statement (.clsuspSet c) := of_none (Eq.refl _)

theorem clsuspClear (c : Fin 32) : Statement (.clsuspClear c) := of_none (Eq.refl _)

theorem clusterSuspended (c : Fin 32) : Statement (.clusterSuspended c) := of_none (Eq.refl _)

theorem invalidateAll (tn : BitVec 8) : Statement (.invalidateAll tn) := of_none (Eq.refl _)

theorem invalidateTenant (tn : BitVec 8) : Statement (.invalidateTenant tn) := of_none (Eq.refl _)

theorem invalidateRange (tn : BitVec 8) : Statement (.invalidateRange tn) := of_none (Eq.refl _)

theorem invalidationComplete : Statement .invalidationComplete := of_none (Eq.refl _)

theorem bindingEnable (n : Fin 256) (sec : Bool) : Statement (.bindingEnable n sec) := of_none (Eq.refl _)

theorem bindingDisable (n : Fin 256) (sec : Bool) : Statement (.bindingDisable n sec) := of_none (Eq.refl _)

theorem mbdataWrite (f : Fin 17) (slot : Fin 16) (off : Fin 64) (bytes : List (BitVec 8)) : Statement (.mbdataWrite f slot off bytes) := of_none (Eq.refl _)

theorem heldMessageEntry (f : Fin 17) (slot : Fin 16) : Statement (.heldMessageEntry f slot) := of_none (Eq.refl _)

theorem apertureRead (f : Fin 17) (off : Nat) (len : Nat) : Statement (.apertureRead f off len) := of_none (Eq.refl _)

theorem apertureWrite (f : Fin 17) (off : Nat) (bytes : List (BitVec 8)) : Statement (.apertureWrite f off bytes) := of_none (Eq.refl _)

theorem apertureAtomic (f : Fin 17) (off : Nat) : Statement (.apertureAtomic f off) := of_none (Eq.refl _)

theorem precopy (f : Fin 16) : Statement (.precopy f) := of_none (Eq.refl _)

theorem stop (f : Fin 16) : Statement (.stop f) := of_none (Eq.refl _)

theorem stopComplete (f : Fin 16) : Statement (.stopComplete f) := of_none (Eq.refl _)

theorem snap (f : Fin 16) : Statement (.snap f) := of_none (Eq.refl _)

theorem snapComplete (f : Fin 16) : Statement (.snapComplete f) := of_none (Eq.refl _)

theorem save (f : Fin 16) : Statement (.save f) := of_none (Eq.refl _)

theorem run (f : Fin 16) : Statement (.run f) := of_none (Eq.refl _)

theorem load (f : Fin 16) (k : Nat) : Statement (.load f k) := of_none (Eq.refl _)

theorem winackWrite (f : Fin 16) (n : BitVec 32) : Statement (.winackWrite f n) := of_none (Eq.refl _)

theorem qryMaskWrite (f : Fin 16) (leaf : Fin 16) (v : BitVec 32) : Statement (.qryMaskWrite f leaf v) := of_none (Eq.refl _)

theorem attestDevice (f : Fin 17) : Statement (.attestDevice f) := of_none (Eq.refl _)

theorem attestTenant (f : Fin 17) : Statement (.attestTenant f) := of_none (Eq.refl _)

theorem attestReportDone (f : Fin 17) : Statement (.attestReportDone f) := of_none (Eq.refl _)

theorem domainRingEnable (d : Fin 64) (v : BitVec 32) (sec : Bool) : Statement (.domainRingEnable d v sec) := of_none (Eq.refl _)

theorem chargeTick : Statement .chargeTick := of_none (Eq.refl _)

theorem periodBoundary : Statement .periodBoundary := of_none (Eq.refl _)

theorem bandwidthPeriod : Statement .bandwidthPeriod := of_none (Eq.refl _)

theorem cohortLaunch (c : Fin 32) : Statement (.cohortLaunch c) := of_none (Eq.refl _)

theorem wakeStart (c : Fin 32) : Statement (.wakeStart c) := of_none (Eq.refl _)

theorem wakeComplete (u : UnitId) : Statement (.wakeComplete u) := of_none (Eq.refl _)

theorem idleToG1 (u : UnitId) : Statement (.idleToG1 u) := of_none (Eq.refl _)

theorem g1ToG2 (u : UnitId) : Statement (.g1ToG2 u) := of_none (Eq.refl _)

theorem enterG3 (u : UnitId) : Statement (.enterG3 u) := of_none (Eq.refl _)

theorem workgroupRetire (w : Nat) : Statement (.workgroupRetire w) := of_none (Eq.refl _)

theorem ticketPass (k : Nat) : Statement (.ticketPass k) := of_none (Eq.refl _)

theorem ordwGrant (k : Nat) : Statement (.ordwGrant k) := of_none (Eq.refl _)

theorem taskStart (e : EngineId) : Statement (.taskStart e) := of_none (Eq.refl _)

theorem taskComplete (e : EngineId) (soft : BitVec 4) : Statement (.taskComplete e soft) := of_none (Eq.refl _)

theorem sliceEnd (c : Fin 32) : Statement (.sliceEnd c) := of_none (Eq.refl _)

theorem groupHalt (w : Nat) (g : Fin 16) : Statement (.groupHalt w g) := of_none (Eq.refl _)

theorem sliceResume (c : Fin 32) : Statement (.sliceResume c) := of_none (Eq.refl _)

theorem migGrant (w : Nat) (core : Nat) : Statement (.migGrant w core) := of_none (Eq.refl _)

theorem migDeadline (w : Nat) : Statement (.migDeadline w) := of_none (Eq.refl _)

theorem migMove (w : Nat) : Statement (.migMove w) := of_none (Eq.refl _)

theorem homeRequest (k : Nat) : Statement (.homeRequest k) := of_none (Eq.refl _)

theorem l1Eviction (core : Nat) (line : Nat) : Statement (.l1Eviction core line) := of_none (Eq.refl _)

theorem translationWalkComplete (k : Nat) : Statement (.translationWalkComplete k) := of_none (Eq.refl _)

theorem compareTimeout (w : Nat) (g : Fin 16) : Statement (.compareTimeout w g) := of_none (Eq.refl _)

theorem sspDecision (k : Fin 16) : Statement (.sspDecision k) := of_none (Eq.refl _)

theorem pairRelease (k : Fin 16) : Statement (.pairRelease k) := of_none (Eq.refl _)

theorem selfTestComplete (k : Fin 16) (failLead failTrail : Bool) : Statement (.selfTestComplete k failLead failTrail) := of_none (Eq.refl _)

theorem uncorrectableEcc (e : EccSite) : Statement (.uncorrectableEcc e) := of_none (Eq.refl _)

theorem correctedError : Statement .correctedError := of_none (Eq.refl _)

theorem longLatencyResult (w : Nat) (g : Fin 16) (r : Role) : Statement (.longLatencyResult w g r) := of_none (Eq.refl _)

theorem secureStreamKeyed : Statement .secureStreamKeyed := of_none (Eq.refl _)

end Sys2Proof.Laws.RoundTrip
end

