-- ==== Sys2Proof/Tests/Slice0.lean ====
section
/-! SUPPORT. Tests: small states, the words of the manual's encodings, one step of an instruction each, and a witness for the hypotheses
of every obligation. -/
namespace Sys2Proof.Tests
open Sys2Proof Sys2Proof.Machine Sys2Proof.Claims

set_option Elab.async false
set_option linter.unusedSimpArgs false
set_option maxRecDepth 100000

/-! ### Small states -/

/-- A stage of one workgroup, with an input queue of four entries. -/
def stage (il : Nat) : Stage :=
  { index := 0, rcb := 0x2000, prio := 3, cls := .shuttle, il := il, fdom := 0, vlim := 0, sentry := 0, bentry := 0, sreg := (96, 24),
    breg := (96, 24), loc := 4096, groups := 1, roles := (0, 0, 0), rolev := (0, 0, 0), gx := 1, gy := 1, gz := 1, cx := 1, cy := 1,
    migdl := 0, resCore := 0, resMat := 0, buflim := 0, qbase := 0x8000, qlog := 2, hwm := 4, lwm := 1 }

/-- Its pipeline, whose code lies at virtual address 0x10000, with a handler at 0x40. -/
def pipeline (il : Nat) : Pipeline :=
  { part := 0, tenant := 0, rcb := 0x1000, index := 0, sbase := 0x10000, bbase := 0x10000, ssize := 0x1000, bsize := 0x1000,
    stages := [stage il],
    picks := [{ cls := .shuttle, n := handlerPick, stage := 0, pc := 0x40, other := 0, carry := 0, entries := [] }], digest := [] }

/-- A workgroup with 4 KiB of local memory. -/
def workgroup : Workgroup :=
  { key := 1, ref := ⟨0, 0, 0, 0⟩, grid := 2, pos := 0, wgid := (0, 0, 0), rank := 0, curve := 0, core := 0, cls := .shuttle, entry := [],
    index := 0, size := 4096, mem := [(0, 1), (1, 2), (5, 9)], memT := [], bars := Vector.replicate 16 ⟨false, 0, []⟩,
    barsT := Vector.replicate 16 ⟨false, 0, []⟩, resv := [], passed := [], duePass := [], kicks := [], came := [], cameT := [], mig := [], det := [],
    detBytes := 0, atomic := false, reruns := 0, finished := false, ckpt := 0, ckptAt := 0, snap := WgSnap.none, rolls := 0, visible := false,
    mism := [] }

/-- Its group, in a run with every lane in the active mask; vector register r holds 4 times the lane plus r. -/
def group : Group :=
  { Group.empty with
    wg := 1
    vbud := 96
    sbud := 24
    phase := .inRun
    c := { Ctx.launch with
      run := { Run.none with on := true, act := BitVec.allOnes 32 }
      v := Vector.ofFn fun r => Vector.ofFn fun l => BitVec.ofNat 32 (4 * l.val + r.val) } }

/-- Cached translations of core 0: main memory from 0, the screed window from 2^31, host memory from 2^32. -/
def pages : List TlbEnt :=
  [⟨.core 0, 0, 0, 0, 2 ^ 30, 0, true, true, true⟩, ⟨.core 0, 0, 0, 2 ^ 31, 2 ^ 21, screedFirst, true, true, true⟩,
   ⟨.core 0, 0, 0, 2 ^ 32, 2 ^ 30, hostFirst, true, true, true⟩]

/-- The machine with that group at the issue stage and partition 0 enabled with 16 screed banks. -/
def machine (il : Nat) : State :=
  { State.reset with
    grp := group
    wgs := [workgroup]
    pipes := [pipeline il]
    tlb := pages
    parts := State.reset.parts.set 0 { Partition.zero with en := true, bcnt := 16, tenants := Partition.zero.tenants.set 0 { Tenant.zero with en := true } } }

/-- A scalar register of the group. -/
def withS (s : State) (r : Nat) (x : Word) : State := modC s fun c => c.setS r x

/-- Vector register r with a value for each lane. -/
def withV (s : State) (r : Nat) (f : Nat → Nat) : State := modC s fun c => c.setV r (BitVec.allOnes 32) fun l => BitVec.ofNat 32 (f l.val)

/-- An XP before the instruction (R38). -/
def withXp (s : State) (c g e : Nat) : State :=
  modC s fun x => { x with xpw := some (BitVec.ofNat 25 (c + g * 128 + e * 16384)), run := { x.run with pc := x.run.pc + 4 } }

/-- Bytes of main memory or screed. -/
def withMem (s : State) (pa : Nat) (bs : List Byte) : State := { s with mem := Memory.write s.mem pa bs }

/-- Page tables at 0x1000 to 0x4000: virtual page 8 is the first page of screed, page 16 the code page, at the same physical address. -/
def withTables (s : State) : State :=
  let leaf (frame : Nat) : List Byte := leBytes 8 (frame + 0x4F)
  let s1 := withMem (withMem (withMem (withMem (withMem s 0x1000 (leBytes 8 0x2001)) 0x2000 (leBytes 8 0x3001)) 0x3000 (leBytes 8 0x4001))
    0x4040 (leaf screedFirst)) 0x4080 (leaf 0x10000)
  setTenant s1 0 0 fun t => { t with ttbr := 0x1000 }

/-- Local memory of the workgroup. -/
def withLocal (s : State) (o : Nat) (bs : List Byte) : State := locWrite s 1 .lead o bs

/-! ### Deciding the conditions of the statements -/

def issuesB (s : State) (vec : Bool) (srcs dsts : List (Nat × Nat)) : Bool :=
  (!vec || !s.c.inH) && decide (s.c.run.pos < 24) && srcs.all (fun u => !srcBad s u) && dsts.all (fun u => !dstBad s u) &&
  (again s || (srcs ++ dsts).all fun u => isT u.1 || !s.c.isPend u.1 u.2)

theorem issues_of {s : State} {vec : Bool} {srcs dsts : List (Nat × Nat)} (h : issuesB s vec srcs dsts = true) : Issues s vec srcs dsts := by
  simp only [issuesB, Bool.and_eq_true, Bool.or_eq_true, Bool.not_eq_true', decide_eq_true_eq, List.all_eq_true] at h
  obtain ⟨⟨⟨⟨a, b⟩, c⟩, d⟩, e⟩ := h
  exact ⟨fun hv => by simpa [hv] using a, b, c, d, fun ha u hu => by simpa [ha] using (e.resolve_left (by simp [ha])) u hu⟩

def laneB (s : State) (srcs : List Nat) (n : Bool) (d : Nat) : Bool :=
  issuesB s (kindVec s.c n d srcs) (srcs.map (·, 1)) (dst n d 1) && (!kindVec s.c n d srcs || n || !isS d)

theorem lane_of {s : State} {srcs : List Nat} {n : Bool} {d : Nat} (h : laneB s srcs n d = true) : LaneIssues s srcs n d := by
  simp only [laneB, Bool.and_eq_true, Bool.or_eq_true, Bool.not_eq_true'] at h
  exact ⟨issues_of h.1, fun hv => by simpa [hv] using h.2⟩

theorem owned_of {s : State} (h : s.hed = []) : Owned s := by
  intro line i x hx
  simp [heddleWord, hGet, h, HLine.clear] at hx

theorem sound_of {s : State} (hm : s.memWf = true) (h : s.hed = []) : Sound s := ⟨hm, owned_of h⟩

theorem current_of {s : State} (core : Nat) (h : s.l1 = []) : CopiesCurrent s core := by
  intro line i x hx
  simp [l1WordOf, l1Get, h, L1Line.clear, L1Word.value] at hx

def plainB (s : State) (w : Workgroup) : Bool :=
  curWg s == some w && curIl s == 0 && !(part s w.ref.part).det && s.grp.phase == .inRun && s.homeQ.isEmpty && s.walks.isEmpty &&
  s.early.isEmpty && s.grp.cbuf.isEmpty && (partVf s w.ref.part).isNone

theorem plain_of {s : State} {w : Workgroup} (h : plainB s w = true) : PlainAccess s w := by
  simp only [plainB, Bool.and_eq_true, beq_iff_eq, Bool.not_eq_true', List.isEmpty_iff, Option.isNone_iff_eq_none] at h
  obtain ⟨⟨⟨⟨⟨⟨⟨⟨a, b⟩, c⟩, d⟩, e⟩, f⟩, o⟩, g⟩, i⟩ := h
  exact ⟨a, b, c, d, e, f, o, g, fun k hk => by rw [i] at hk; cases hk⟩

/-! ### Witnesses: lane instructions -/

def m0 : State := machine 0

/-- In a handler, after a fault of lanes 0 and 3. -/
def mH : State := modC m0 fun c => { c with inH := true, frameOn := true, frame := { c.frame with mask := 9, runNpc := 8, npc := 8, resume := 12 } }

theorem witness_IntegerLogicAndShiftResults : Plain m0 { sat := true } ∧ LaneIssues m0 [2, 3] false 1 ∧ LaneIssues m0 [98, 119] false 97 ∧
    LaneIssues m0 [2, 3] true 127 :=
  ⟨⟨by decide +kernel, by decide +kernel⟩, lane_of (by decide +kernel), lane_of (by decide +kernel), lane_of (by decide +kernel)⟩

theorem witness_ImmediatesAndShifts : m0.c.xp.c = 127 ∧ LaneIssues m0 [2] false 1 ∧ 0 ≤ immOf m0 (0 : BitVec 7) ∧ immOf m0 (127 : BitVec 7) < 0 ∧
    immOf (withXp m0 127 127 0x3FF) (127 : BitVec 7) = 131071 ∧ LaneIssues (withXp m0 127 127 0x3FF) [2] false 1 ∧ Plain m0 {} ∧ LaneIssues m0 [2, 3] false 1 :=
  ⟨by decide +kernel, lane_of (by decide +kernel), by decide +kernel, by decide +kernel, by decide +kernel, lane_of (by decide +kernel),
   ⟨by decide +kernel, by decide +kernel⟩, lane_of (by decide +kernel)⟩

theorem witness_UnaryBitFieldAndCarryResults :
    (Plain m0 { sat := true } ∧ LaneIssues m0 [2] false 1) ∧
    (modsLegal m0.c.xp.e {} = true ∧ LaneIssues m0 [2, 3, lastOp m0 1] false 1) ∧
    ((withXp m0 4 127 0).c.xp.c ≠ 127 ∧ LaneIssues (withXp m0 4 127 0) [2, 3, 4] true 0 ∧ LaneIssues m0 [2, 3] false 1) ∧
    ((withXp m0 63 127 0).c.xp.c < 64 ∧ modsLegal (withXp m0 63 127 0).c.xp.e {} = true ∧ LaneIssues (withXp m0 63 127 0) [2, 3] false 1 ∧
      LaneIssues (withXp m0 0 127 0) [98, 99] false 97) :=
  ⟨⟨⟨by decide +kernel, by decide +kernel⟩, lane_of (by decide +kernel)⟩, ⟨by decide +kernel, lane_of (by decide +kernel)⟩,
   ⟨by decide +kernel, lane_of (by decide +kernel), lane_of (by decide +kernel)⟩,
   ⟨by decide +kernel, by decide +kernel, lane_of (by decide +kernel), lane_of (by decide +kernel)⟩⟩

theorem witness_MovesAndLaneAccess :
    (Plain m0 {} ∧ Issues m0 false [(2, 1), (98, 1)] (dst false 97 1) ∧ m0.c.isVec 98 = false ∧ isV 97 = false) ∧
    (Issues m0 false [(98, 1), (99, 1)] (dst false 1 1) ∧ isS 1 = false) ∧
    (Issues mH false [(2, 1)] (dst false 97 1) ∧ mH.c.actMask = 9) ∧
    (Issues m0 true [] (dst false 1 1) ∧ Issues m0 false [] (dst true 1 1)) ∧
    (∀ w, m0.c.xpw = some w → w.extractLsb' 15 10 = 0) ∧
    Issues (withXp m0 127 127 0) (isV 1) [] (dst false 1 1) ∧ (withXp m0 127 127 0).c.xpw ≠ none :=
  ⟨⟨⟨by decide +kernel, by decide +kernel⟩, issues_of (by decide +kernel), by decide +kernel, by decide +kernel⟩,
   ⟨issues_of (by decide +kernel), by decide +kernel⟩, ⟨issues_of (by decide +kernel), by decide +kernel⟩,
   ⟨issues_of (by decide +kernel), issues_of (by decide +kernel)⟩, fun w h => (by rw [show m0.c.xpw = none by decide +kernel] at h; cases h),
   issues_of (by decide +kernel), by decide +kernel⟩

theorem witness_SpecialRegisters : curWg m0 = some workgroup ∧ curStage m0 = some (stage 0) ∧ Plain m0 {} ∧ LaneIssues m0 [] false 1 ∧
    LaneIssues m0 [] false 97 ∧ curWg mH = some workgroup ∧ curStage mH = some (stage 0) ∧ Plain mH {} ∧ LaneIssues mH [] false 97 ∧ mH.c.inH = true ∧
    m0.c.inH = false :=
  ⟨by decide +kernel, by decide +kernel, ⟨by decide +kernel, by decide +kernel⟩, lane_of (by decide +kernel), lane_of (by decide +kernel), by decide +kernel,
   by decide +kernel, ⟨by decide +kernel, by decide +kernel⟩, lane_of (by decide +kernel), by decide +kernel, by decide +kernel⟩

theorem witness_SpecialRegisterWrites :
    (∀ r ∈ [1, 5, 6], Plain (withS m0 2 r) {} ∧ Issues (withS m0 2 r) false [(98, 1)] [] ∧ (withS m0 2 r).c.isVec 98 = false ∧
      (withS m0 2 r).c.goes = true ∧ ((withS m0 2 r).c.rd 98 0) = r) ∧
    ((withXp m0 127 62 0).c.goes = false ∧ Issues (withXp m0 127 62 0) false [(98, 1)] [] ∧ Plain (withXp m0 127 62 0) {}) ∧
    (Plain (withS mH 2 8) {} ∧ Issues (withS mH 2 8) false [(98, 1)] [] ∧ (withS mH 2 8).c.inH = true ∧ (withS mH 2 8).c.goes = true ∧
      ((withS mH 2 8).c.rd 98 0).getLsbD 1 = false ∧ ((withS mH 2 8).c.rd 98 0).getLsbD 2 = false ∧
      (withS mH 2 8).c.exitM.getLsbD (withS mH 2 8).c.selLane.toNat = false) := by
  refine ⟨fun r hr => ?_, ⟨by decide +kernel, issues_of (by decide +kernel), ⟨by decide +kernel, by decide +kernel⟩⟩, ⟨by decide +kernel, by decide +kernel⟩,
    issues_of (by decide +kernel), by and_intros <;> decide +kernel⟩
  simp only [List.mem_cons, List.not_mem_nil, or_false] at hr
  obtain rfl | rfl | rfl := hr <;>
    exact ⟨⟨by decide +kernel, by decide +kernel⟩, issues_of (by decide +kernel), by decide +kernel, by decide +kernel, by decide +kernel⟩

theorem witness_Comparisons :
    (Plain m0 {} ∧ Issues m0 (m0.c.isVec 2 || m0.c.isVec 98) [(2, 1), (98, 1)] []) ∧
    (Plain mH {} ∧ Issues mH (mH.c.isVec 97 || mH.c.isVec 98) [(97, 1), (98, 1)] []) ∧
    (Plain (withXp m0 127 127 8) { ftz := true } ∧ Issues (withXp m0 127 127 8) true [(2, 1), (3, 1)] []) ∧
    Issues m0 false [] [] ∧ m0.c.run.pos < 24 :=
  ⟨⟨⟨by decide +kernel, by decide +kernel⟩, issues_of (by decide +kernel)⟩, ⟨⟨by decide +kernel, by decide +kernel⟩, issues_of (by decide +kernel)⟩,
   ⟨⟨by decide +kernel, by decide +kernel⟩, issues_of (by decide +kernel)⟩, issues_of (by decide +kernel), by decide +kernel⟩

theorem witness_FloatResults :
    (Plain (withXp m0 127 127 31) { rm := true, sat := true, ftz := true } ∧ LaneIssues (withXp m0 127 127 31) [2, 3] false 1) ∧
    (modsLegal (withXp m0 4 127 31).c.xp.e { rm := true, sat := true, ftz := true } = true ∧ LaneIssues (withXp m0 4 127 31) [2, 3, 4] true 1) ∧
    ((withXp m0 4 127 0).c.xp.c ≠ 127 ∧ LaneIssues (withXp m0 4 127 0) [2, 3, 4, 1] false 1 ∧ feature m0 0 = true) :=
  ⟨⟨⟨by decide +kernel, by decide +kernel⟩, lane_of (by decide +kernel)⟩, ⟨by decide +kernel, lane_of (by decide +kernel)⟩,
   ⟨by decide +kernel, lane_of (by decide +kernel), by decide +kernel⟩⟩

theorem witness_FloatConversions :
    (Plain (withXp m0 127 127 8) { ftz := true } ∧ LaneIssues (withXp m0 127 127 8) [2] false 1 ∧ LaneIssues m0 [2, 3] false 1) ∧
    (Plain (withXp m0 127 127 0x20) { sat := true, ftz := true, bs := true } ∧ LaneIssues (withXp m0 127 127 0x20) [2] false 1) :=
  ⟨⟨⟨by decide +kernel, by decide +kernel⟩, lane_of (by decide +kernel), lane_of (by decide +kernel)⟩, ⟨by decide +kernel, by decide +kernel⟩,
   lane_of (by decide +kernel)⟩

theorem witness_FloatCodesAreFixed : (0xFF800000 : Nat) < 2 ^ (fF32.signPos + 1) ∧ (fF32.value 0xFF800000).isNan = false ∧ (fF16.value 1).isNan = false ∧
    (1 : Nat) < 2 ^ (fF16.signPos + 1) ∧ (fBF16.value 0xFF7F).isNan = false ∧ (0xFF7F : Nat) < 2 ^ (fBF16.signPos + 1) := by decide +kernel

theorem witness_SpecialFunctions : Plain m0 { ftz := true } ∧ LaneIssues m0 [2] false 1 ∧ LaneIssues m0 [98] false 97 ∧ m0.c.goes = true ∧
    LaneIssues m0 [2] true 0 ∧ LaneIssues (withXp m0 127 62 0) [98] false 97 ∧ (withXp m0 127 62 0).c.goes = false ∧ Plain (withXp m0 127 62 0) {} :=
  ⟨⟨by decide +kernel, by decide +kernel⟩, lane_of (by decide +kernel), lane_of (by decide +kernel), by decide +kernel, lane_of (by decide +kernel),
   lane_of (by decide +kernel), by decide +kernel, ⟨by decide +kernel, by decide +kernel⟩⟩

/-- A run in which the instruction before left its result in t0. -/
def mT : State := retire m0 4 (latchLanes fun l => BitVec.ofNat 32 l.val)

theorem witness_ShortForms : m0.c.xpw = none ∧ LaneIssues m0 [31, b6 47] false 31 ∧ LaneIssues m0 [b6 48] false 0 ∧
    mT.c.xpw = none ∧ LaneIssues mT [4, b6 56, 120] false 4 :=
  ⟨by decide +kernel, lane_of (by decide +kernel), lane_of (by decide +kernel), by decide +kernel, lane_of (by decide +kernel)⟩

theorem witness_ShuffleAndOperate : 1 ≤ m0.c.part.toNat ∧ m0.c.part.toNat ≤ 5 ∧ Plain (withXp m0 127 127 4) { sat := true } ∧
    Issues (withXp m0 127 127 4) true [(2, 1)] (dst false 1 1) ∧ Issues m0 true [(2, 1)] (dst true 97 1) :=
  ⟨by decide +kernel, by decide +kernel, ⟨by decide +kernel, by decide +kernel⟩, issues_of (by decide +kernel), issues_of (by decide +kernel)⟩

theorem witness_PermutesAndVotes : Issues m0 true [(2, 1), (3, 1)] (dst false 1 1) ∧ m0.c.isVec 98 = false ∧ Issues m0 true [(2, 1), (98, 1)] (dst true 1 1) ∧
    m0.c.isVec 3 = true ∧ Issues m0 true [(2, 1)] (dst false 1 1) ∧ feature m0 0 = true ∧ Issues m0 true [] [] ∧ Plain m0 {} ∧ 1 ≤ m0.c.part.toNat ∧
    m0.c.part.toNat ≤ 5 :=
  ⟨issues_of (by decide +kernel), by decide +kernel, issues_of (by decide +kernel), by decide +kernel, issues_of (by decide +kernel), by decide +kernel,
   issues_of (by decide +kernel), ⟨by decide +kernel, by decide +kernel⟩, by decide +kernel, by decide +kernel⟩

theorem witness_TilesAndPartition : (Plain m0 {} ∧ Issues m0 true [(2, 1)] (dst false 1 1) ∧ LaneIssues m0 [] false 97 ∧ m0.c.xp.e = 0) ∧
    (Issues m0 false [(96, 1)] [] ∧ m0.c.isVec 96 = false ∧ m0.c.goes = true ∧
      (m0.c.rd 96 0 + BitVec.ofInt 32 (immOf m0 5)).toNat = 5 ∧ (m0.c.rd 96 0 + BitVec.ofInt 32 (immOf m0 6)).toNat = 6) ∧
    ((withXp m0 127 62 0).c.goes = false ∧ Issues (withXp m0 127 62 0) false [(96, 1)] []) :=
  ⟨⟨⟨by decide +kernel, by decide +kernel⟩, issues_of (by decide +kernel), lane_of (by decide +kernel), by decide +kernel⟩,
   ⟨issues_of (by decide +kernel), by and_intros <;> decide +kernel⟩, by decide +kernel, issues_of (by decide +kernel)⟩

/-! ### Witnesses: memory -/

theorem sound_m0 : Sound m0 := sound_of (by decide +kernel) rfl

theorem witness_SingleAccessesAreCoherent : Sound m0 ∧ (0x8000 % 128 + ([1, 2, 3, 4] : List Byte).length ≤ 128 ∧
    (0x807C : Nat) % 128 + ([1, 2, 3, 4] : List Byte).length ≤ 128) ∧ 0x8000 % 128 + 128 ≤ 128 ∧ CopiesCurrent m0 0 :=
  ⟨sound_m0, by decide, by decide, current_of 0 rfl⟩

/-- Local offsets in v5, one for each lane; s5 holds one too. -/
def mL (f : Nat → Nat) (k : Nat) : State := withS (withV m0 5 f) 5 (BitVec.ofNat 32 k)

/-- The same in a handler. -/
def mLH (k : Nat) : State := modC (mL (4 * ·) k) fun c => { c with inH := true, frameOn := true, frame := { c.frame with mask := 9 } }

theorem witness_LocalAddressingAndLoads :
    (curWg m0 = some workgroup ∧ (4095 : BitVec 32).toNat < 2 ^ 31 ∧ 2 ^ 31 ≤ (0x80080000 : BitVec 32).toNat ∧
      (0x80080000 : BitVec 32).toNat / 2 ^ 19 % 2 ^ 6 ≠ 0 ∧ (0x80000FFC : BitVec 32).toNat / 2 ^ 19 % 2 ^ 6 = 0 ∧
      (cohortMember m0 workgroup ((0x80000FFC : BitVec 32).toNat / 2 ^ 25 % 2 ^ 6)).map (·.key) = some 1) ∧
    (kindVec (mL (4 * ·) 0).c false 7 [5] = true ∧ Issues (mL (4 * ·) 0) true [(5, 1)] (dst false 7 1) ∧
      ∀ l ∈ acting (mL (4 * ·) 0) true, (localEa (mL (4 * ·) 0).c 5 0 l).toNat % 4 = 0 ∧
        locTarget (mL (4 * ·) 0) false 4 (localEa (mL (4 * ·) 0).c 5 0 l) = some (1, 4 * l.val)) ∧
    (Issues (mL (4 * · + 1) 0) true [(5, 1)] (dst false 7 1) ∧ (localEa (mL (4 * · + 1) 0).c 5 0 31).toNat % 4 ≠ 0 ∧
      ∀ l ∈ acting (mL (4 * · + 1) 0) true, ∀ k < 4,
        locTarget (mL (4 * · + 1) 0) false 1 (localEa (mL (4 * · + 1) 0).c 5 0 l + BitVec.ofNat 64 k) = some (1, 4 * l.val + 1 + k)) ∧
    ((mLH 6).c.inH = true ∧ Issues (mLH 6) false [(101, 1)] (dst false 103 1) ∧
      (acting (mLH 6) false).filter (fun l => (localEa (mLH 6).c 101 0 l).toNat % 4 != 0) = [0]) ∧
    (Issues (mL (fun l => 4096 + 4 * l - 8) 0) true [(5, 1)] (dst false 7 1) ∧
      ∀ l ∈ acting (mL (fun l => 4096 + 4 * l - 8) 0) true, (localEa (mL (fun l => 4096 + 4 * l - 8) 0).c 5 0 l).toNat % 4 = 0 ∧
        (locTarget (mL (fun l => 4096 + 4 * l - 8) 0) false 4 (localEa (mL (fun l => 4096 + 4 * l - 8) 0).c 5 0 l)).isNone = decide (2 ≤ l.val)) :=
  ⟨by decide +kernel, ⟨by decide +kernel, issues_of (by decide +kernel), by decide +kernel⟩,
   ⟨issues_of (by decide +kernel), by decide +kernel, by decide +kernel⟩, ⟨by decide +kernel, issues_of (by decide +kernel), by decide +kernel⟩,
   issues_of (by decide +kernel), by decide +kernel⟩

theorem witness_LocalStoresAndAtomics :
    ((mL (4 * ·) 0).memWf = true ∧ Issues (mL (4 * ·) 0) true [(7, 1), (5, 1)] [] ∧
      ∀ l ∈ acting (mL (4 * ·) 0) true, (localEa (mL (4 * ·) 0).c 5 0 l).toNat % 4 = 0 ∧
        locTarget (mL (4 * ·) 0) true 4 (localEa (mL (4 * ·) 0).c 5 0 l) = some (1, 4 * l.val)) ∧
    (∀ l ∈ acting (mL (4 * · + 1) 0) true, ∀ k < 4,
        locTarget (mL (4 * · + 1) 0) true 1 (localEa (mL (4 * · + 1) 0).c 5 0 l + BitVec.ofNat 64 k) = some (1, 4 * l.val + 1 + k)) ∧
    (Issues (mLH 6) false [(103, 1), (101, 1)] [] ∧ (acting (mLH 6) false).filter (fun l => (localEa (mLH 6).c 101 0 l).toNat % 4 != 0) = [0]) ∧
    ((locTarget (mL (fun l => 4096 + 4 * l - 8) 0) true 4 (localEa (mL (fun l => 4096 + 4 * l - 8) 0).c 5 0 2)).isNone = true) ∧
    (PlainAccess (mL (4 * ·) 0) workgroup ∧ Sound (mL (4 * ·) 0) ∧ (∀ r ∈ atomicRows, r.cas = false → AtomicIssues (mL (4 * ·) 0) r 5 6 1 true) ∧
      (∀ r ∈ atomicRows, r.cas = true → AtomicIssues (withXp (mL (4 * ·) 0) 8 127 0) r 5 6 1 true) ∧
      acting (mL (4 * · + 2) 0) true = List.finRange 32 ∧ (localEa (mL (4 * · + 2) 0).c 5 0 0).toNat % 4 ≠ 0) := by
  refine ⟨⟨by decide +kernel, issues_of (by decide +kernel), by decide +kernel⟩, by decide +kernel, ⟨issues_of (by decide +kernel), by decide +kernel⟩,
    by decide +kernel, plain_of (by decide +kernel), sound_of (by decide +kernel) rfl, fun r _ h => ?_, fun r hr h => ?_, by decide +kernel, by decide +kernel⟩
  · unfold AtomicIssues; rw [h]
    exact ⟨by decide +kernel, fun _ => by decide +kernel, fun _ => by decide +kernel, issues_of (by decide +kernel)⟩
  · unfold AtomicIssues; rw [h]
    exact ⟨by decide +kernel, fun _ => by decide +kernel, fun _ => by decide +kernel, issues_of (by decide +kernel)⟩

/-- Global addresses in v10:v11, one for each lane, from a page of the cached translations; s10:s11 holds one too. -/
def mG (base : Nat) (step : Nat) : State :=
  withS (withS (withV (withV m0 10 fun l => (base + step * l) % 2 ^ 32) 11 fun _ => base / 2 ^ 32) 10 (BitVec.ofNat 32 base)) 11 (BitVec.ofNat 32 (base / 2 ^ 32))

def mGH (base : Nat) : State := modC (mG base 4) fun c => { c with inH := true, frameOn := true, frame := { c.frame with mask := 9 } }

theorem witness_GlobalLoads :
    (PlainAccess (mG 0x8000 16) workgroup ∧ Sound (mG 0x8000 16) ∧ Issues (mG 0x8000 16) true [(10, 2)] (dst false 4 4) ∧
      Translates (mG 0x8000 16) .load (acting (mG 0x8000 16) true) (globalAt (mG 0x8000 16) 10 0) (fun l => 0x8000 + 16 * l.val) 16 ∧
      CopiesCurrent (mG 0x8000 16) (mG 0x8000 16).grp.core ∧ ∀ l ∈ acting (mG 0x8000 16) true, inMain (0x8000 + 16 * l.val) = true) ∧
    (Translates (mG 0x100000000 4) .load (acting (mG 0x100000000 4) true) (globalAt (mG 0x100000000 4) 10 0) (fun l => hostFirst + 4 * l.val) 4) ∧
    (PlainAccess (mGH 0x8002) workgroup ∧ Sound (mGH 0x8002) ∧ Issues (mGH 0x8002) false [(106, 2)] (dst false 104 1) ∧
      (acting (mGH 0x8002) false).filter (fun l => (globalAt (mGH 0x8002) 106 0 l).toNat % 4 != 0) = [0]) ∧
    (Issues (mG 0x8000 16) true [(10, 2)] []) ∧
    (Issues (mG 0x80000000 4) true [(10, 2)] [(4, 1)] ∧
      Translates (mG 0x80000000 4) .scrLoad (acting (mG 0x80000000 4) true) (globalAt (mG 0x80000000 4) 10 0) (fun l => screedFirst + 4 * l.val) 4) :=
  ⟨⟨plain_of (by decide +kernel), sound_of (by decide +kernel) rfl, issues_of (by decide +kernel), ⟨by decide +kernel, by decide +kernel⟩, current_of _ rfl,
    by decide +kernel⟩, ⟨by decide +kernel, by decide +kernel⟩, ⟨plain_of (by decide +kernel), sound_of (by decide +kernel) rfl, issues_of (by decide +kernel),
    by decide +kernel⟩, issues_of (by decide +kernel), issues_of (by decide +kernel), by decide +kernel, by decide +kernel⟩

theorem witness_GlobalAtomics :
    PlainAccess (mG 0x8000 4) workgroup ∧ Sound (mG 0x8000 4) ∧ (∀ r ∈ atomicRows, r.cas = false → AtomicIssues (mG 0x8000 4) r 10 6 2 true) ∧
    (∀ r ∈ atomicRows, r.cas = true → AtomicIssues (withXp (mG 0x8000 4) 8 127 0) r 10 6 2 true) ∧
    Translates (mG 0x8000 4) (.atomic .add) (acting (mG 0x8000 4) true) (globalAt (mG 0x8000 4) 10 0) (fun l => 0x8000 + 4 * l.val) 4 ∧
    Translates (mG 0x8000 0) (.atomic .dec) (acting (mG 0x8000 0) true) (globalAt (mG 0x8000 0) 10 0) (fun _ => 0x8000) 4 ∧
    Translates (mG 0x80000000 4) .scrRmw (acting (mG 0x80000000 4) true) (globalAt (mG 0x80000000 4) 10 0) (fun l => screedFirst + 4 * l.val) 4 ∧
    (globalAt (mG 0x8001 4) 10 0 0).toNat % 4 ≠ 0 := by
  refine ⟨plain_of (by decide +kernel), sound_of (by decide +kernel) rfl, fun r _ h => ?_, fun r hr h => ?_, ⟨by decide +kernel, by decide +kernel⟩,
    ⟨by decide +kernel, by decide +kernel⟩, ⟨by decide +kernel, by decide +kernel⟩, by decide +kernel⟩
  · unfold AtomicIssues; rw [h]
    exact ⟨by decide +kernel, fun _ => by decide +kernel, fun _ => by decide +kernel, issues_of (by decide +kernel)⟩
  · unfold AtomicIssues; rw [h]
    exact ⟨by decide +kernel, fun _ => by decide +kernel, fun _ => by decide +kernel, issues_of (by decide +kernel)⟩

/-- The same at another integrity level. -/
def mGi (il base : Nat) : State := withV (withV (machine il) 10 fun l => base + 4 * l) 11 fun _ => 0

def mGd : State := setPart (mGi 0 0x8000) 0 fun p => { p with det := true }

theorem witness_GlobalAndBufferedStores :
    (PlainAccess (mG 0x8000 4) workgroup ∧ Sound (mG 0x8000 4) ∧ Issues (mG 0x8000 4) true [(7, 1), (10, 2)] [] ∧
      Translates (mG 0x8000 4) .store (acting (mG 0x8000 4) true) (globalAt (mG 0x8000 4) 10 0) (fun l => 0x8000 + 4 * l.val) 4 ∧
      ∀ l ∈ acting (mG 0x8000 4) true, (tlbHit (mG 0x8000 4) 0 0 0 (globalAt (mG 0x8000 4) 10 0 l).toNat).isSome = true) ∧
    ((globalAt (mG 0x40000000 4) 10 0 31).toNat < 2 ^ 49 ∧ (tlbHit (mG 0x40000000 4) 0 0 0 (globalAt (mG 0x40000000 4) 10 0 31).toNat).isSome = false) ∧
    (Translates (mG 0x80000000 4) .scrStore (acting (mG 0x80000000 4) true) (globalAt (mG 0x80000000 4) 10 0) (fun l => screedFirst + 4 * l.val) 4) ∧
    (BufferedAccess (mGi 1 0x8000) workgroup 1 ∧ Sound (mGi 1 0x8000) ∧ Issues (mGi 1 0x8000) true [(7, 1), (10, 2)] [] ∧
      Translates (mGi 1 0x8000) .store (acting (mGi 1 0x8000) true) (globalAt (mGi 1 0x8000) 10 0) (fun l => 0x8000 + 4 * l.val) 4 ∧
      poolUsed (mGi 1 0x8000) (mGi 1 0x8000).grp.wg + (acting (mGi 1 0x8000) true).length ≤
        256 * (groupsOf (mGi 1 0x8000) (mGi 1 0x8000).grp.wg .lead).length) ∧
    (BufferedAccess mGd workgroup 0 ∧ Sound mGd ∧ (part mGd workgroup.ref.part).det = true ∧ Issues mGd true [(7, 1), (10, 2)] [] ∧
      Translates mGd .store (acting mGd true) (globalAt mGd 10 0) (fun l => 0x8000 + 4 * l.val) 4 ∧ ∀ l ∈ acting mGd true, inHost (0x8000 + 4 * l.val) = false) ∧
    (BufferedAccess (mGi 2 0x8000) workgroup 2 ∧ Sound (mGi 2 0x8000) ∧ ordReleases 0 = false ∧ Issues (mGi 2 0x8000) true [(7, 1), (10, 2)] []) :=
  ⟨⟨plain_of (by decide +kernel), sound_of (by decide +kernel) rfl, issues_of (by decide +kernel), ⟨by decide +kernel, by decide +kernel⟩, by decide +kernel⟩,
   by decide +kernel, ⟨by decide +kernel, by decide +kernel⟩,
   ⟨by constructor <;> decide +kernel, sound_of (by decide +kernel) rfl,
    issues_of (by decide +kernel), ⟨by decide +kernel, by decide +kernel⟩, by decide +kernel⟩,
   ⟨by constructor <;> decide +kernel, sound_of (by decide +kernel) rfl,
    by decide +kernel, issues_of (by decide +kernel), ⟨by decide +kernel, by decide +kernel⟩, by decide +kernel⟩,
   ⟨by constructor <;> decide +kernel, sound_of (by decide +kernel) rfl,
    by decide +kernel, issues_of (by decide +kernel)⟩⟩

/-- Main memory from 0x9000 on is a secure region, and the page of 0x8000 may not be written. -/
def mF : State :=
  { mG 0x8FF0 4 with
    cfg := { m0.cfg with regions := [⟨9, 0x100, true⟩] }
    tlb := [⟨.core 0, 0, 0, 0x8000, 0x1000, 0x8000, true, false, true⟩, ⟨.core 0, 0, 0, 0x9000, 0x1000, 0x9000, true, true, true⟩,
      ⟨.core 0, 0, 0, 0xA000, 0x1000, 0x1FFFFFFF000 + 0x1000, true, true, true⟩, ⟨.core 0, 0, 0, 0xB000, 0x1000, 0xB000, false, true, true⟩] ++ pages }

theorem witness_AccessFaults :
    (curWg mF = some workgroup ∧ 2 ^ 49 ≤ (0x2000000000000 : DWord).toNat) ∧
    (lookup mF 0 0 0 0x1FFFFFFFFFFFF).2 = .bad ∧
    (lookup (setTenant mF 0 0 fun t => { t with ttbr := 0x9000 }) 0 0 0 0x1FFFFFFFFFFFF).2 = .world ∧
    ((lookup mF 0 0 0 0x9000).2 = .ok ⟨0x9000, 0x1000, 0x9000, true, true, true⟩ ∧ secureAt mF 0x9000 = true) ∧
    ((lookup mF 0 0 0 0xB000).2 = .ok ⟨0xB000, 0x1000, 0xB000, false, true, true⟩ ∧ (part mF 0).world = false) ∧
    ((lookup mF 0 0 0 0x8FFF).2 = .ok ⟨0x8000, 0x1000, 0x8000, true, false, true⟩ ∧ secureAt mF 0x8FFF = false) ∧
    ((lookup mF 0 0 0 0xA000).2 = .ok ⟨0xA000, 0x1000, 0x20000000000, true, true, true⟩ ∧ secureAt mF 0x20000000000 = false ∧ backed 0x20000000000 = false) ∧
    ((lookup mF 0 0 0 0x80000000).2 = .ok ⟨0x80000000, 0x200000, screedFirst, true, true, true⟩ ∧ inScreed screedFirst = true ∧
      (part mF 0).ownsBank (bankOf screedFirst) = true) ∧
    ((lookup mF 0 0 0 0x100000000).2 = .ok ⟨0x100000000, 0x40000000, hostFirst, true, true, true⟩ ∧ inHost hostFirst = true) ∧
    (PlainAccess mF workgroup ∧ Sound mF ∧ (handlerOf mF).map (·.pc) = some 0x40 ∧ mF.c.inH = false ∧ Issues mF true [(10, 2)] [(4, 1)] ∧
      (∀ l ∈ acting mF true, (globalAt mF 10 0 l).toNat % 4 = 0) ∧
      ((probeAll mF .load (globalAt mF 10 0) (acting mF true)).2.filterMap fun x => match x.2 with
        | .ok _ => none
        | .error c => some (x.1, c)).head? = some (4, 0x17)) :=
  ⟨by decide +kernel, by decide +kernel, by decide +kernel, (by decide +kernel), by decide +kernel, by decide +kernel, by decide +kernel, (by decide +kernel),
   by decide +kernel, plain_of (by decide +kernel), sound_of (by decide +kernel) rfl, by decide +kernel, by decide +kernel, issues_of (by decide +kernel),
   by decide +kernel, by decide +kernel⟩

/-- A workgroup with a task under way, and a store-fault record of its group. -/
def mKick : State :=
  { m0 with wgs := [{ workgroup with kicks := [⟨5, 0, 0x400, [⟨0x400, 1 :: List.replicate 63 0, 1 :: List.replicate 63 0, .issued, 0, true, 0, 0⟩]⟩] }] }

def sfe : SfEnt :=
  { core := 0, wg := 1, gid := 0, role := .lead, cause := 0x13, highva := false, va := 0x8000, data := 7, npc := 4, twin := 0, mask := 1, bmask := 0xF,
    wgslot := 0, sz := 2 }

def mSf : State := { m0 with sfq := [sfe] }

theorem witness_FencesAndCacheOperations :
    (curWg m0 = some workgroup ∧ curIl m0 ≠ 2 ∧ m0.grp.phase = .inRun ∧ m0.walks = [] ∧ m0.c.xpw = none ∧ Sound m0 ∧ Issues m0 false [] [] ∧
      nextSf m0 = none ∧ workgroup.kicks = []) ∧
    ((mKick.wgs.head?.map fun w => w.kicks.any fun k => k.gid == mKick.grp.gid && k.recs.any fun r =>
        !(r.state == .done || r.state == .cancelled || r.state == .rejected) && rKind r.bytes == 1) = some true) ∧
    (nextSf mSf = some sfe ∧ mSf.homeQ = [] ∧ mSf.c.inH = false ∧ (handlerOf mSf).isSome = true) :=
  ⟨⟨by decide +kernel, by decide +kernel, by decide +kernel, (by decide +kernel), by decide +kernel, sound_m0, issues_of (by decide +kernel), by decide +kernel,
    rfl⟩, by decide +kernel, by decide +kernel⟩


def cachedB (s : State) (w : Workgroup) (va : DWord) : Bool :=
  decide ((s.tlb.filter fun e => e.owner == .core s.grp.core).length ≤ 64) &&
    match tlbFind s (.core s.grp.core) w.ref.part w.ref.tenant va.toNat with
    | some x => s.tlb.all fun e => !e.covers (.core s.grp.core) w.ref.part w.ref.tenant va.toNat || e.xl == x
    | none => false

theorem cached_of {s : State} {w : Workgroup} {va : DWord} (h : cachedB s w va = true) : CoreCached s w va := by
  unfold cachedB at h
  simp only [Bool.and_eq_true, decide_eq_true_eq] at h
  refine ⟨h.1, fun _ => ?_⟩
  cases hx : tlbFind s (.core s.grp.core) w.ref.part w.ref.tenant va.toNat with
  | none => simp [hx] at h
  | some x =>
    refine ⟨x, rfl, fun e he hc => ?_⟩
    have := h.2
    simp only [hx, List.all_eq_true, Bool.or_eq_true, Bool.not_eq_true', beq_iff_eq] at this
    exact (this e he).resolve_left (by simp [hc])

/-- Addresses that are not aligned, from the last bytes of a page on; the next page may not be read or written. -/
def mE : State :=
  { mG 0x8FE2 4 with tlb := [⟨.core 0, 0, 0, 0x8000, 0x1000, 0x8000, true, true, true⟩, ⟨.core 0, 0, 0, 0x9000, 0x1000, 0x9000, true, false, false⟩] }

/-- The emulation of an access of four bytes in each lane meets a fault in the lanes from `k` on. -/
def emulates (s : State) (u : Use) (k : Nat) : Bool :=
  let r := fun (l : Lane) (i : Nat) => (probe s u (globalAt s 10 0 l + BitVec.ofNat 64 i)).2
  (acting s true == List.finRange 32) && (globalAt s 10 0 0).toNat % 4 != 0 &&
  ((acting s true).all fun l => (List.range 4).all fun i => cachedB s workgroup (globalAt s 10 0 l + BitVec.ofNat 64 i)) &&
  (faulting (acting s true) (globalAt s 10 0) 4 r).map (fun x => x.1.val) == (List.range 32).drop k

theorem witness_EmulatedAccesses :
    (PlainAccess (mG 0x8002 4) workgroup ∧ Sound (mG 0x8002 4) ∧ (mG 0x8002 4).c.inH = false ∧ CopiesCurrent (mG 0x8002 4) 0 ∧
      Issues (mG 0x8002 4) true [(10, 2)] (dst false 4 1) ∧ Issues (mG 0x8002 4) true [(4, 1), (10, 2)] [] ∧ emulates (mG 0x8002 4) .load 32 = true ∧
      emulates (mG 0x8002 4) .store 32 = true) ∧
    (PlainAccess mE workgroup ∧ Sound mE ∧ mE.c.inH = false ∧ (handlerOf mE).isSome = true ∧ Issues mE true [(10, 2)] (dst false 4 1) ∧
      Issues mE true [(4, 1), (10, 2)] [] ∧ emulates mE .load 7 = true ∧ emulates mE .store 7 = true) :=
  ⟨⟨plain_of (by decide +kernel), sound_of (by decide +kernel) rfl, by decide +kernel, current_of _ rfl, issues_of (by decide +kernel),
    issues_of (by decide +kernel), by decide +kernel, by decide +kernel⟩,
   plain_of (by decide +kernel), sound_of (by decide +kernel) rfl, by decide +kernel, by decide +kernel, issues_of (by decide +kernel),
   issues_of (by decide +kernel), by decide +kernel, by decide +kernel⟩

/-- A cohort of two workgroups. -/
def mCo : State :=
  { m0 with
    pipes := [{ pipeline 0 with stages := [{ stage 0 with cx := 2, gx := 2 }] }]
    wgs := [workgroup, { workgroup with key := 3, curve := 1, size := 64 }] }

theorem witness_LocalWindow : curWg mCo = some workgroup ∧ curIl mCo = 0 ∧ (part mCo 0).det = false ∧ feature mCo 6 = true ∧
    (cohortMember mCo workgroup 1).map (fun v => (v.key, v.size)) = some (3, 64) ∧ cohortMember mCo workgroup 2 = none ∧
    (0x8200003C : BitVec 32).toNat / 2 ^ 25 % 2 ^ 6 = 1 ∧ (0x8200003C : BitVec 32).toNat % 2 ^ 19 + 4 ≤ 64 := by decide +kernel

/-- A store of the group is on its way to its home. -/
def mReq : State := { m0 with homeQ := [⟨0, 1, 0, 0x100, .store 1 0x8000 [5]⟩] }

theorem witness_PlainRequest : Sound mReq ∧ (∀ r ∈ mReq.homeQ, PlainRequest mReq r) ∧ Issues mReq false [] [] := by
  refine ⟨sound_of (by decide +kernel) rfl, fun r hr => ?_, issues_of (by decide +kernel)⟩
  simp only [mReq, List.mem_singleton] at hr
  subst hr
  refine ⟨⟨workgroup, by decide +kernel, fun f hf => ?_⟩, fun pol pa bs h => ?_⟩
  · rw [show partVf mReq workgroup.ref.part = none by decide +kernel] at hf; cases hf
  · cases h; exact ⟨by decide +kernel, by decide⟩

/-! ### Witnesses: barriers, tasks, queues, tickets -/

/-- Barrier objects at local offsets 16 and 32; v5 names an object for each lane and v6 a count. -/
def mB : State :=
  withLocal (withLocal (withS (withV (withV m0 5 fun l => 16 * (l % 4)) 6 fun l => 1 + l) 101 32) 16 (leBytes 4 (2 ^ 31 + 3) ++ leBytes 4 2 ++ leBytes 4 7))
    32 (leBytes 4 3 ++ leBytes 4 1)

theorem witness_BarrierObjects :
    (curWg mB = some (mB.wgs.headD workgroup) ∧ Sound mB ∧ mB.c.xp.c = 127 ∧ mB.c.xp.e = 0) ∧
    (Issues mB true [(5, 1), (6, 1)] [] ∧ Issues mB true [(5, 1), (6, 1)] (dst false 7 1) ∧ Issues mB true [(5, 1)] (dst true 7 1) ∧
      (∀ l ∈ acting mB true, ((mB.c.rd 6 l).toNat % 2 ^ 16 ≠ 0) ∧ (mB.c.rd 5 l).toNat % 16 = 0 ∧ (mB.c.rd 5 l).toNat + 16 ≤ 4096)) ∧
    ((acting (withV mB 6 id) true).filter (fun l => ((withV mB 6 id).c.rd 6 l).toNat % 2 ^ 16 == 0) = [0]) ∧
    (((withV mB 5 fun l => 16 * l + 8 * (l % 2)).c.rd 5 1).toNat % 16 ≠ 0) ∧
    ((acting (withV mB 5 (16 * · + 3600)) true).filter (fun l => decide (4096 < ((withV mB 5 (16 * · + 3600)).c.rd 5 l).toNat + 16)) = [31]) :=
  ⟨⟨by decide +kernel, sound_of (by decide +kernel) rfl, by decide +kernel, by decide +kernel⟩,
   ⟨issues_of (by decide +kernel), issues_of (by decide +kernel), issues_of (by decide +kernel), by decide +kernel⟩, by decide +kernel, by decide +kernel,
   by decide +kernel⟩

/-- A strided copy record of four rows of three bytes, from 0 to 0x300, with a successor. -/
def copyRec (pred nsucc s0 : Nat) : List Byte :=
  leBytes 4 (1 + nsucc * 256 + pred * 65536) ++ leBytes 4 0 ++ leBytes 2 s0 ++ leBytes 6 0 ++ leBytes 4 0xFFFFFFFF ++ leBytes 4 10 ++ leBytes 8 0 ++
  leBytes 8 0x300 ++ leBytes 4 4 ++ leBytes 4 3 ++ leBytes 4 8 ++ leBytes 4 16 ++ leBytes 8 0

/-- A list of two records at 0x400; s4 holds the count and s5 the offset. -/
def mK (n off : Nat) : State :=
  withLocal (withLocal (withS (withS { m0 with fresh := 9 } 4 (BitVec.ofNat 32 n)) 5 (BitVec.ofNat 32 off)) 0x400 (copyRec 0 1 (0x440 / 64))) 0x440 (copyRec 1 0 0)

def mKbad : State := withLocal (mK 2 0x400) 0x440 (copyRec 2 0 0)

def wgK (s : State) : Workgroup := s.wgs.headD workgroup

def kick (k : Nat) (a b : TState) : Kick :=
  ⟨k, 0, 0x400, [⟨0x400, copyRec 0 1 17, copyRec 0 1 17, a, 0, a != .pending, 0, 0⟩, ⟨0x440, copyRec 1 0 0, copyRec 1 0 0, b, 1, b != .pending, 0, 0⟩]⟩

/-- The list's kick is under way. -/
def mKrun : State := { mK 2 0x400 with wgs := (mK 2 0x400).wgs.map fun w => { w with kicks := [kick 7 .issued .pending] } }

/-- Sixteen kicks are. -/
def mKfull : State :=
  { mK 2 0x400 with wgs := (mK 2 0x400).wgs.map fun w => { w with kicks := (List.range 16).map fun i => kick (20 + i) .issued .pending } }

def recsOf (s : State) (n : Nat) : List TaskRec := (List.range n).map fun i => snapshot s (wgK s) (0x400 + 64 * i)

theorem witness_TaskInstructions :
    (PlainAccess (mK 2 0x400) (wgK (mK 2 0x400)) ∧ (mK 2 0x400).grp.role = .lead ∧ Sound (mK 2 0x400) ∧ (mK 2 0x400).c.xp.c = 127 ∧
      (mK 2 0x400).c.xp.e = 0 ∧ Issues (mK 2 0x400) false [(101, 1), (100, 1)] [] ∧ (mK 2 0x400).c.goes = true ∧
      scalarOf (mK 2 0x400) 101 = 0x400 ∧ scalarOf (mK 2 0x400) 100 = 2 ∧ listBad (recsOf (mK 2 0x400) 2) = false ∧
      (∀ r ∈ recsOf (mK 2 0x400) 2, recErr (fmtMasked (mK 2 0x400) 0 r.bytes) 0 4096 0x400 2 r.bytes = 0 ∧ rKind r.bytes ≠ 3) ∧
      heldBack (mK 2 0x400) (wgK (mK 2 0x400)) = false) ∧
    ((withXp (mK 2 0x400) 127 62 0).c.goes = false ∧ Issues (withXp (mK 2 0x400) 127 62 0) false [(101, 1), (100, 1)] []) ∧
    (scalarOf (mK 0 0x400) 100 = 0 ∧ 256 < scalarOf (mK 257 0x400) 100 ∧ scalarOf (mK 1 0x420) 101 % 64 ≠ 0 ∧
      4096 < scalarOf (mK 1 0xFC8) 101 + 64 ∧ scalarOf (mK 1 0x1000) 101 % 64 = 0 ∧ 4096 < scalarOf (mK 1 0x1000) 101 + 64 * 1) ∧
    (((mKfull.wgs.filter fun v => v.core == 0).map fun v => v.kicks.length).sum = 16 ∧ curWg mKfull = some (wgK mKfull)) ∧
    (listBad (recsOf mKbad 2) = true ∧ (∀ r ∈ recsOf mKbad 2, rBar r.bytes = 0xFFFFFFFF) ∧ PlainAccess mKbad (wgK mKbad)) ∧
    (PlainAccess mKrun (wgK mKrun) ∧ Sound mKrun ∧ (wgK mKrun).kicks.find? (·.list == 0x400) = some (kick 7 .issued .pending) ∧
      ((kick 7 .issued .pending).recs.map (·.off)).Nodup ∧ (∀ r ∈ (kick 7 .issued .pending).recs, r.off % 64 = 0 ∧ rBar r.bytes = 0xFFFFFFFF ∧
        (r.issued = true ↔ r.state ≠ .pending) ∧ r.state ≠ .none) ∧ (wgK (mK 2 0x400)).kicks.find? (·.list == 0x400) = none) ∧
    (Issues (withV (mK 2 0x400) 5 fun l => 0x400 + 64 * (l % 2)) true [(5, 1)] (dst false 7 1) ∧
      (∀ l ∈ acting m0 true, ((withV (mK 2 0x400) 5 fun l => 0x400 + 64 * (l % 2)).c.rd 5 l).toNat % 64 = 0) ∧
      statWord (withLocal (mK 2 0x400) 0x444 [3]) (wgK (mK 2 0x400)) 0x440 % 8 = 3 ∧ ((mL (4 * ·) 0).c.rd 5 1).toNat % 64 ≠ 0) :=
  ⟨⟨plain_of (by decide +kernel), by decide +kernel, sound_of (by decide +kernel) rfl, by decide +kernel, by decide +kernel, issues_of (by decide +kernel),
    by and_intros <;> decide +kernel⟩,
   ⟨by decide +kernel, issues_of (by decide +kernel)⟩, by decide +kernel, by decide +kernel, ⟨by decide +kernel, by decide +kernel, plain_of (by decide +kernel)⟩,
   ⟨plain_of (by decide +kernel), sound_of (by decide +kernel) rfl, by and_intros <;> decide +kernel⟩,
   issues_of (by decide +kernel), by decide +kernel, by decide +kernel, by decide +kernel⟩

/-- The queue of stage 0 in screed: its four header words; s4 names the stage, s5 a local offset. -/
def mQ (h c r f : Nat) : State :=
  withMem (withTables (withS (withS { m0 with fresh := 9 } 4 0) 5 64)) screedFirst (leBytes 4 h ++ leBytes 4 c ++ leBytes 4 r ++ leBytes 4 f)

/-- With reservations of the workgroup, and the address of slot 1 in s6:s7. -/
def mQr (l : List (Nat × Nat)) (s : State) : State := withS (withS { s with wgs := s.wgs.map fun w => { w with resv := l } } 6 0x8080) 7 0

def ref0 : StageRef := ⟨0, 0, 0, 0⟩

/-- A walk depends on the page of its address alone. -/
theorem walkFrom_page {va vb : Nat} (h : va / 4096 = vb / 4096) (q : Req) (sec : Bool) : ∀ (ls : List (Nat × Nat)) (s : State) (table : Nat),
    (∀ x ∈ ls, 12 ≤ x.1) → walkFrom s q sec va ls table = walkFrom s q sec vb ls table := by
  have hd : ∀ lo, 12 ≤ lo → va / 2 ^ lo = vb / 2 ^ lo := fun lo hlo => by
    rw [show 2 ^ lo = 4096 * 2 ^ (lo - 12) by rw [show (4096 : Nat) = 2 ^ 12 by rfl, ← Nat.pow_add]; congr 1; omega, ← Nat.div_div_eq_div_mul,
      ← Nat.div_div_eq_div_mul, h]
  have hleaf : ∀ e lo, 12 ≤ lo → leafOf e va lo = leafOf e vb lo := fun e lo hlo => by
    have h16 := hd 16 (by decide)
    simp only [leafOf]
    by_cases hc : (decide (lo = 12) && bitAt e 5) = true
    · have : va / 0x10000 = vb / 0x10000 := h16
      simp only [hc, if_true, this]
    · simp only [hc, Bool.false_eq_true, if_false, hd lo hlo]
  intro ls
  induction ls with
  | nil => intros; rfl
  | cons x ls ih =>
    intro s table hx
    obtain ⟨lo, n⟩ := x
    have hlo := hx _ (List.mem_cons_self ..)
    simp only [walkFrom, hd lo hlo, hleaf _ lo hlo, ih _ _ (fun y hy => hx y (List.mem_cons_of_mem _ hy))]

/-- No cluster's shared cache holds a translation. -/
def coreOnly (s : State) : Bool := s.tlb.all fun e => match e.owner with
  | .core _ => true
  | .cluster _ => false

theorem anyTlb_none {s : State} (h : coreOnly s = true) (p : Fin 8) (t : Fin 9) (va : Nat) : anyTlb s p t va = none := by
  unfold anyTlb
  rw [Option.map_eq_none_iff, List.find?_eq_none]
  intro e he
  have := List.all_eq_true.mp h e he
  cases ho : e.owner <;> simp [ho] at this ⊢

theorem queueAt_of {s : State} {r : StageRef} {st : Stage} {pa : Nat} (x : Xl) (n : Nat) (hn : 64 + 64 * 2 ^ st.qlog = n)
    (hb : st.qbase.toNat % 4096 + n ≤ 4096) (hw : (walk s r.part r.tenant st.qbase.toNat).2 = .ok x)
    (h : ((List.range n).all fun off => decide (st.qbase.toNat + off < 2 ^ 49) && worldOk s (part s r.part).world x (x.pa (st.qbase.toNat + off)) &&
      inScreed (x.pa (st.qbase.toNat + off)) && (part s r.part).ownsBank (bankOf (x.pa (st.qbase.toNat + off))) &&
      x.pa (st.qbase.toNat + off) == pa + off) = true) (hc : coreOnly s = true) : QueueAt s r st pa := by
  intro off ho
  have h1 := List.all_eq_true.mp h off (List.mem_range.mpr (hn ▸ ho))
  simp only [Bool.and_eq_true, decide_eq_true_eq, beq_iff_eq] at h1
  obtain ⟨⟨⟨⟨a, b⟩, c⟩, d⟩, e⟩ := h1
  have hwalk : (walk s r.part r.tenant (st.qbase.toNat + off)).2 = .ok x := by
    rw [← hw]
    exact congrArg _ (walkFrom_page (by omega) _ _ walkLevels s _ (by decide))
  refine ⟨?_, e ▸ c⟩
  unfold qAddr screedPa
  rw [if_neg (by omega), lookupDev, anyTlb_none hc, hwalk]
  simp only [b, c, d, e, Bool.not_true, Bool.false_eq_true, if_false, Bool.and_self, if_true, okNat]
  rw [← e] at *
  simp [b, c, d, okNat]

theorem witness_QueuesAndTickets :
    PlainAccess (mQ 0 1 1 0) (wgK (mQ 0 1 1 0)) ∧ Sound (mQ 0 1 1 0) ∧ (mQ 0 1 1 0).c.goes = true ∧ (stage 0).qlog ≤ 16 ∧
    scalarOf (mQ 0 1 1 0) 100 = 0 ∧ scalarOf (mQ 0 1 1 0) 101 = 64 ∧ stageOf (mQ 0 1 1 0) ref0 = some (stage 0) ∧
    QueueAt (mQ 0 1 1 0) ref0 (stage 0) screedFirst ∧ Issues (mQ 0 1 1 0) false [(100, 1), (101, 1)] [] ∧
    Issues (mQ 0 1 1 0) false [(100, 1)] [(102, 2)] ∧ Issues (mQ 0 1 1 0) false [(100, 1), (102, 2)] [] ∧
    Issues (mQ 0 1 1 0) false [(100, 1)] [(102, 1)] ∧ Issues (mQ 0 1 1 0) false [(101, 1)] [(102, 1)] :=
  ⟨plain_of (by decide +kernel), sound_of (by decide +kernel) rfl, by decide +kernel, by decide +kernel, by decide +kernel, (by decide +kernel),
   by decide +kernel, queueAt_of ⟨0x8000, 0x1000, screedFirst, true, true, true⟩ 320 rfl (by decide +kernel) (by decide +kernel)
     (by decide +kernel) (by decide +kernel), issues_of (by decide +kernel), issues_of (by decide +kernel), issues_of (by decide +kernel),
   issues_of (by decide +kernel), issues_of (by decide +kernel)⟩

/-- An entry of a queue and the header words of one. -/
def entryOfQ (s : State) (i : Nat) : List Byte := (List.range 64).map fun k => Memory.get s.mem (slotPa (stage 0) screedFirst i + k)

theorem witness_QueueStates : (mQ 0 1 1 0).marks = [] ∧ screedWord (mQ 0 1 1 0) screedFirst = 0 ∧ screedWord (mQ 0 1 1 0) (screedFirst + 4) = 1 ∧
    screedWord (mQ 0 1 1 0) (screedFirst + 12) % 2 = 0 ∧ entryVoid (entryOfQ (mQ 0 1 1 0) 0) = false ∧ entryBad (mQ 0 1 1 0) 0 0 (entryOfQ (mQ 0 1 1 0) 0) = none ∧
    2 ^ 2 ≤ (screedWord (mQ 0 4 4 0) (screedFirst + 8) + 2 ^ 32 - screedWord (mQ 0 4 4 0) screedFirst) % 2 ^ 32 ∧
    screedWord (mQ 1 1 1 0) screedFirst = screedWord (mQ 1 1 1 0) (screedFirst + 4) ∧ screedWord (mQ 0 1 1 1) (screedFirst + 12) % 2 = 1 :=
  by and_intros <;> decide +kernel

/-- The address of the slot of a reservation. -/
def slotVa (i : Nat) : Nat := ((stage 0).qbase.toNat + 64 + 64 * (i % 2 ^ (stage 0).qlog)) % 2 ^ 64

theorem witness_QueueReservations : (scalarOf (withS (mQ 0 1 1 0) 5 72) 101 % 64 ≠ 0 ∧ 4096 < scalarOf (withS (mQ 0 1 1 0) 5 4096) 101 + 64) ∧
    16 ≤ (wgK (mQr (List.replicate 16 (0, 1)) (mQ 0 1 1 0))).resv.length ∧
    ((wgK (mQr [(0, 1)] (mQ 0 1 2 0))).resv.find? fun x => x.1 == 0 && slotVa x.2 == ((mQr [(0, 1)] (mQ 0 1 2 0)).c.rd64 102 0).toNat) = some (0, 1) ∧
    screedWord (mQr [(0, 1)] (mQ 0 1 2 0)) (screedFirst + 4) = 1 ∧ screedWord (mQr [(0, 1)] (mQ 0 0 2 0)) (screedFirst + 4) ≠ 1 ∧
    (∀ x ∈ (wgK (mQr [(0, 2)] (mQ 0 0 3 0))).resv, x.1 = 0 → slotVa x.2 ≠ ((mQr [(0, 2)] (mQ 0 0 3 0)).c.rd64 102 0).toNat) ∧
    stageOf (mQ 0 1 1 0) { ref0 with stage := scalarOf (withS (mQ 0 1 1 0) 4 7) 100 } = none :=
  by and_intros <;> decide +kernel

/-- A grid entry that names two tickets at the queue's page, and a workgroup whose turn is number 3. -/
def mTk (n : Nat) (passed : List Nat) : State :=
  let s := mQ 0 1 1 0
  let wg (w : Workgroup) : Workgroup := { w with entry := List.replicate 56 0 ++ leBytes 8 (0x8400 + 2 ^ 50), rank := 3, passed := passed }
  withMem { s with wgs := s.wgs.map wg } (screedFirst + 0x400) (leBytes 4 n ++ leBytes 4 (2 ^ 31))

theorem witness_TicketInstructions :
    (PlainAccess (mTk 3 []) (wgK (mTk 3 [])) ∧ Sound (mTk 3 []) ∧ (mTk 3 []).c.goes = true ∧ Issues (mTk 3 []) false [(100, 1)] [(102, 1)] ∧
      leNat (((wgK (mTk 3 [])).entry.drop 56).take 8) / 2 ^ 49 % 8 = 2 ∧ ticketPa (mTk 3 []) (wgK (mTk 3 [])) 0 = some (screedFirst + 0x400) ∧
      inScreed (screedFirst + 0x400) = true ∧ screedWord (mTk 3 []) (screedFirst + 0x400) = (wgK (mTk 3 [])).rank) ∧
    (screedWord (mTk 2 []) (screedFirst + 0x400) ≠ (wgK (mTk 2 [])).rank ∧ ticketPa (mTk 2 []) (wgK (mTk 2 [])) 0 = some (screedFirst + 0x400)) ∧
    (0 ∈ (wgK (mTk 3 [0])).passed ∧ PlainAccess (mTk 3 [0]) (wgK (mTk 3 [0]))) ∧
    (2 ≤ scalarOf (withS (mTk 3 []) 4 2) 100) :=
  ⟨⟨plain_of (by decide +kernel), sound_of (by decide +kernel) rfl, by decide +kernel, issues_of (by decide +kernel), by and_intros <;> decide +kernel⟩, by decide +kernel, ⟨by decide +kernel, plain_of (by decide +kernel)⟩, by decide +kernel⟩

/-! ### Witnesses: control, faults, the machine -/

/-- SELV words at 4 and at 0x3C of the code, so that 0x40 is a run entry; every other halfword of it is zero. -/
def mC : State := withMem (withMem (withTables m0) 0x10004 (leBytes 4 0x7D)) 0x1003C (leBytes 4 0x7D)

def mCH : State := modC mC fun c => { c with inH := true, frameOn := true, frame := { c.frame with mask := 9 } }

theorem witness_ControlAndPauses :
    (Issues mC false [] [] ∧ Issues mC false [] [(95, 1)] ∧ selvAt mC (mC.c.run.pc.toNat + 4) = true ∧ selvAt (withTables m0) 4 = false ∧
      runEntry mC ((mC.c.npc.toNat : Int) + 2 * (32 : BitVec 17).toInt).toNat = true ∧
      runEntry mC ((mC.c.npc.toNat : Int) + 2 * (33 : BitVec 17).toInt).toNat = false) ∧
    (mC.c.xp.c = 127 ∧ mC.c.xp.e = 0 ∧ Issues (withS mC 4 0x40) false [(100, 1)] [] ∧ (withS mC 4 0x40).c.isVec 100 = false ∧
      runEntry (withS mC 4 0x40) ((withS mC 4 0x40).c.rd 100 0).toNat = true ∧ Issues (withV mC 5 fun _ => 0x40) false [(5, 1)] [] ∧
      Issues (withS mC 4 0x40) false [(100, 1)] [(95, 1)] ∧ isV 95 = true) ∧
    (Issues (withXp mC 94 127 0) false [(100, 1)] [(94, 1)] ∧ (withXp mC 94 127 0).c.xp.c = 94) ∧
    (mCH.c.inH = true ∧ Issues mCH false [] [] ∧ selvAt mCH (mCH.c.run.pc.toNat + 4) = true) ∧
    (m0.c.xpw = none ∧ (withXp m0 127 127 0).c.xpw ≠ none ∧ Issues (withXp m0 127 127 0) false [] []) ∧
    (mC.c.inH = false ∧ (∀ l : Lane, (mC.c.run.act.getLsbD l.val && mC.c.guard.getLsbD l.val) = true → ofRun mC l = true) ∧
      Issues mC false [(100, 1)] [] ∧ mC.c.isVec 100 = false) :=
  ⟨⟨issues_of (by decide +kernel), issues_of (by decide +kernel), by and_intros <;> decide +kernel⟩,
   ⟨by decide +kernel, by decide +kernel, issues_of (by decide +kernel), by decide +kernel, by decide +kernel, issues_of (by decide +kernel),
    issues_of (by decide +kernel), by decide +kernel⟩, ⟨issues_of (by decide +kernel), by decide +kernel⟩,
   ⟨by decide +kernel, issues_of (by decide +kernel), by decide +kernel⟩, ⟨by decide +kernel, by decide +kernel, issues_of (by decide +kernel)⟩,
   by decide +kernel, by decide +kernel, issues_of (by decide +kernel), by decide +kernel⟩

/-- A result of v8 under way or written. -/
def mR (under : Bool) : State :=
  let s := modC mC fun c => c.setPend 8 1
  if under then { s with grp := { s.grp with arr := [⟨8, 1, false, 1, Vector.replicate 32 0, 0, 0, false, false⟩] } } else s

theorem closes_of {s : State} {names : List Nat} (h : (s.c.xpw.isNone && s.grp.phase == .inRun && s.grp.wg != 0 && s.c.eccs.isEmpty &&
    curIl s != 2 && names.all (fun r => !isT r && !regBad s r 1 && !unwritten s r)) = true)
    (hn : ((allGroups s).map fun g => (g.wg, g.gid, g.role)).Nodup) : SelvCloses s names := by
  simp only [Bool.and_eq_true, List.all_eq_true, beq_iff_eq, bne_iff_ne, Option.isNone_iff_eq_none, List.isEmpty_iff, Bool.not_eq_true'] at h
  obtain ⟨⟨⟨⟨⟨a, b⟩, c⟩, d⟩, e⟩, f⟩ := h
  exact ⟨a, b, c, hn, fun r hr => ⟨(f r hr).1.1, (f r hr).1.2⟩, fun r hr => (f r hr).2, fun m hm => by simp [d] at hm, e⟩

theorem witness_RunEnds :
    (SelvCloses (mR false) (named 2 0 96 8) ∧ (mR false).c.live ≠ 0 ∧ (mR false).c.leave = .none ∧ (mR false).c.isPend 8 1 = true) ∧
    (unwritten (mR true) 8 = true ∧ isT 8 = false ∧ regBad (mR true) 8 1 = false ∧ (mR true).c.xpw = none) ∧
    (isT 120 = true ∧ regBad m0 119 1 = false ∧ regBad { m0 with grp := { m0.grp with vbud := 32 } } 32 1 = true) ∧
    (SelvCloses (modC mCH fun c => { c with leave := .jump 0x40 }) [] ∧ (mCH.c.inH = true)) ∧
    (readyGroup { (mR false).grp with phase := .between } = true) :=
  ⟨⟨closes_of (by decide +kernel) (by decide +kernel), by decide +kernel, by decide +kernel, by decide +kernel⟩, by decide +kernel, by decide +kernel,
   ⟨closes_of (by decide +kernel) (by decide +kernel), by decide +kernel⟩, by decide +kernel⟩

/-- The end of a run after which the lanes wait, at a knot or at bar 0, have exited, or are parked. -/
def mEnd (wait bar exit park : Mask) (x : Leave) : State :=
  modC mC fun c => { c with waitM := wait, barM := bar, exitM := exit, parkM := park, leave := x }

def quietEnd (s : State) : Bool :=
  s.c.live == 0 && !s.c.inH && s.grp.role == .lead && curWg s == some workgroup && s.walks.isEmpty && s.homeQ.isEmpty && (nextSf s).isNone

theorem witness_RunEndsWithNoLaneLive :
    ((mEnd 0 0 0 0 .yielded).c.live ≠ 0 ∧ (mEnd 0 0 0 0 .yielded).c.leave = .yielded ∧ SelvCloses (mEnd 0 0 0 0 .yielded) []) ∧
    (SelvCloses (mEnd (BitVec.allOnes 32) 3 0 0 .moved) [] ∧ SelvCloses (mEnd 0 0 (BitVec.ofNat 32 (2 ^ 32 - 2)) 1 .moved) []) ∧
    (quietEnd (mEnd (BitVec.allOnes 32) 0 0 0 .moved) = true ∧ quietEnd (mEnd (BitVec.allOnes 32) 3 0 0 .moved) = true ∧
      (mEnd (BitVec.allOnes 32) 3 0 0 .moved).c.arrM = 0 ∧ quietEnd (mEnd 0 0 (BitVec.allOnes 32) 0 .moved) = true ∧
      quietEnd (mEnd 0 0 (BitVec.ofNat 32 (2 ^ 32 - 2)) 1 .moved) = true ∧ Sound (mEnd 0 0 (BitVec.ofNat 32 (2 ^ 32 - 2)) 1 .moved)) :=
  ⟨⟨by decide +kernel, by decide +kernel, closes_of (by decide +kernel) (by decide +kernel)⟩,
   ⟨closes_of (by decide +kernel) (by decide +kernel), closes_of (by decide +kernel) (by decide +kernel)⟩,
   by decide +kernel, by decide +kernel, by decide +kernel, (by decide +kernel), by decide +kernel, sound_of (by decide +kernel) rfl⟩

/-- A pick point 5 of the shuttle image, at 0x40. -/
def pick5 : PickRec := { cls := .shuttle, n := 5, stage := 0, pc := 0x40, other := 0x20, carry := 3, entries := [] }

def mP : State := { mC with pipes := [{ pipeline 0 with picks := pick5 :: (pipeline 0).picks }] }

theorem witness_MigrationInstructions :
    curWg mP = some workgroup ∧ (pipeOf mP workgroup.ref).isSome = true ∧ mP.c.xp.c = 127 ∧ mP.c.xp.g = 127 ∧ 0 ≤ immOf mP (5 : BitVec 7) ∧ isV 97 = false ∧
    mP.c.inH = false ∧ Issues mP false [] [(97, 1)] ∧ (∀ l : Lane, mP.c.run.act.getLsbD l.val = true → ofRun mP l = true) ∧
    selvAt mP (mP.c.run.pc.toNat + 4) = true ∧
    ((pick5 :: (pipeline 0).picks).find? fun r => r.cls == .shuttle && r.n == (immOf mP (5 : BitVec 7)).toNat && r.stage == 0) = some pick5 ∧ runEntry mP 0x40 = true ∧ runEntry mP 0x42 = false ∧
    ((pick5 :: (pipeline 0).picks).find? fun r => r.cls == .shuttle && r.n == (immOf mP (6 : BitVec 7)).toNat && r.stage == 0) = none :=
  ⟨by decide +kernel, by decide +kernel, by decide +kernel, (by decide +kernel), by decide +kernel, by decide +kernel, by decide +kernel,
   issues_of (by decide +kernel), by and_intros <;> decide +kernel⟩

def mNoH : State := { mC with pipes := [{ pipeline 0 with picks := [] }] }

theorem witness_PreciseFaults :
    (({ ill := true } : Issue).ill = true ∧ mCH.c.inH = true ∧ 24 ≤ (modC m0 fun c => { c with run := { c.run with pos := 24 } }).c.run.pos ∧
      selvAt m0 4 = false ∧ srcBad m0 (120, 1) = true ∧ again m0 = false ∧ (mR false).c.isPend 8 1 = true ∧ again (mR false) = false) ∧
    (curWg mC = some workgroup ∧ mC.c.inH = false ∧ (handlerOf mC).map (·.pc) = some 0x40) ∧
    (Sound mNoH ∧ mNoH.grp.role = .lead ∧ nextSf mNoH = none ∧ mNoH.c.inH = false ∧ (handlerOf mNoH).isNone = true ∧ curWg mNoH = some workgroup) ∧
    (Sound mCH ∧ mCH.grp.role = .lead ∧ nextSf mCH = none ∧ curWg mCH = some workgroup) :=
  ⟨by decide +kernel, by decide +kernel, ⟨sound_of (by decide +kernel) rfl, by decide +kernel⟩, sound_of (by decide +kernel) rfl, by decide +kernel⟩

theorem witness_SystemInstructions :
    (curWg mC = some workgroup ∧ mC.c.xp.c = 127 ∧ mC.c.xp.e = 0 ∧ mC.c.inH = false ∧ selvAt mC (mC.c.run.pc.toNat + 4) = true ∧
      Issues mC false [(100, 1)] [] ∧ mC.c.isVec 100 = false ∧ Issues mC false [] [] ∧ curIl mC ≠ 2 ∧ Issues mC true [(5, 1)] [(6, 1)] ∧
      Issues mC false [(100, 1)] [(101, 1)]) ∧
    (Issues mCH false [] [] ∧ mCH.c.inH = true ∧ selvAt mCH (mCH.c.run.pc.toNat + 4) = true ∧ mCH.c.goes = true) :=
  ⟨⟨by decide +kernel, by decide +kernel, by decide +kernel, (by decide +kernel), by decide +kernel, issues_of (by decide +kernel), by decide +kernel,
    issues_of (by decide +kernel), by decide +kernel, issues_of (by decide +kernel), issues_of (by decide +kernel)⟩, issues_of (by decide +kernel),
   by decide +kernel⟩

/-- The end of a run whose last instruction left `x`; in a handler, the interrupted run stands at 0 and the lanes where the third argument says. -/
def mLv (x : Leave) (h : Bool) (pc : Word) : State :=
  modC mC fun c => { c with leave := x, inH := h, frameOn := h, lpc := Vector.replicate 32 pc,
                            shadow := if h then { c.run with act := BitVec.allOnes 32 } else Run.none,
                            frame := { c.frame with runNpc := 0, resume := 8, lpcs := Vector.replicate 32 pc, cause := 0x12 } }

theorem witness_HandlerBoundaries :
    (SelvCloses (mLv (.after 0x20 7 0 1) false 8) [] ∧ nextSf (mLv (.after 0x20 7 0 1) false 8) = none ∧
      (handlerOf (mLv (.after 0x20 7 0 1) false 8)).isSome = true ∧ curWg (mLv (.after 0x20 7 0 1) false 8) = some workgroup) ∧
    (SelvCloses (mLv (.rett true) true 0) [] ∧ Sound (mLv (.rett true) true 0) ∧ (mLv (.rett true) true 0).grp.role = .lead) ∧
    (∀ pc ∈ [(0 : Word), 8, 0x40], SelvCloses (mLv (.rett false) true pc) [] ∧ (mLv (.rett false) true pc).c.live ≠ 0 ∧
      ∀ l : Lane, (mLv (.rett false) true pc).c.lpc[l] = (mLv (.rett false) true pc).c.frame.lpcs[l]) ∧
    (runEntry (mLv (.rett false) true 0) 6 = false ∧
      SelvCloses (modC (mLv (.rett false) true 0) fun c => { c with lpc := Vector.replicate 32 6 }) [] ∧
      Sound (modC (mLv (.rett false) true 0) fun c => { c with lpc := Vector.replicate 32 6 })) := by
  refine ⟨⟨closes_of (by decide +kernel) (by decide +kernel), by decide +kernel⟩, ⟨closes_of (by decide +kernel) (by decide +kernel),
    sound_of (by decide +kernel) rfl, by decide +kernel⟩, fun pc hpc => ?_, by decide +kernel, closes_of (by decide +kernel) (by decide +kernel),
    sound_of (by decide +kernel) rfl⟩
  simp only [List.mem_cons, List.not_mem_nil, or_false] at hpc
  obtain rfl | rfl | rfl := hpc <;> exact ⟨closes_of (by decide +kernel) (by decide +kernel), by decide +kernel, by decide +kernel⟩

theorem witness_DecodingUndoesEncoding : (Instr.iaddi 127 127 true 127).wf = true ∧ encode (.iaddi 127 127 true 127) = some (.word 0xFE3FFF83) ∧
    (Instr.fmac 63 31).wf = true ∧ encode (.fmac 63 31) = some (.half 0xFFFE) := by decide +kernel

theorem witness_OnlyEncodingsDecode : decode [0x83, 0xFF, 0x3F, 0xFE, 9] = .ok (.iaddi 127 127 true 127, 4) ∧ decode [0xFE, 0xFF] = .ok (.fmac 63 31, 2) := by
  decide +kernel

/-- A core's turn, and one with an instruction, an illegal word and the end of the image at the program counter. -/
def mS (pc : Word) (agenda : List Turn) : State :=
  withMem (modC { mC with agenda := agenda, units := mC.units.set 0 ((mC.units[0]).set 0 ⟨.G0, 0, false⟩) } fun c =>
    { c with run := { c.run with pc := pc } }) 0x10010 (leBytes 4 0x0A008103 ++ leBytes 4 0xFFFFFFF1)

theorem witness_StepRunsTheDecodedInstruction :
    ((pickGroup (mS 0x10 []) 0).any fun g => let u := turned (mS 0x10 []) 0 g
      u.grp.phase == .inRun && !bufferDue u && fetchHalf u u.c.run.pc.toNat == some 0x8103 && fetchHalf u (u.c.run.pc.toNat + 2) == some 0x0A00) = true ∧
    decode (leBytes 2 0x8103 ++ leBytes 2 0x0A00) = .ok (.iaddi 5 1 false 2, 4) ∧
    ((pickGroup (mS 0x14 []) 0).any fun g => let u := turned (mS 0x14 []) 0 g
      fetchHalf u u.c.run.pc.toNat == some 0xFFF1 && fetchHalf u (u.c.run.pc.toNat + 2) == some 0xFFFF) = true ∧
    (decode (leBytes 2 0xFFF1 ++ leBytes 2 0xFFFF)).toOption = none ∧
    ((pickGroup (mS 0x1000 []) 0).any fun g => let u := turned (mS 0x1000 []) 0 g
      fetchHalf u u.c.run.pc.toNat == none) = true ∧
    ((pickGroup (withMem (mS 0xFFE []) 0x10FFE [1, 0]) 0).any fun g => let u := turned (withMem (mS 0xFFE []) 0x10FFE [1, 0]) 0 g
      fetchHalf u u.c.run.pc.toNat == some 1 && fetchHalf u (u.c.run.pc.toNat + 2) == none) = true ∧
    nextCore (mS 0x10 []) = some 0 :=
  by and_intros <;> decide +kernel

/-- Between runs, with lanes at two addresses. -/
def mBt (sf : Bool) : State :=
  let s := modC mC fun c => { c with run := Run.none, lpc := Vector.ofFn fun l => if l.val < 3 then 0x40 else 0x80 }
  { s with grp := { s.grp with phase := .between }, sfq := if sf then [sfe] else [], units := s.units.set 0 ((s.units[0]).set 0 ⟨.G0, 0, false⟩) }

theorem witness_StepBeginsRuns :
    ((pickGroup (mBt false) 0).any fun g => let u := turned (mBt false) 0 g
      u.grp.phase == .between && !u.c.inH && u.c.live != 0 && (nextSf u).isNone) = true ∧
    ((pickGroup (mBt true) 0).any fun g => let u := turned (mBt true) 0 g
      u.grp.phase == .between && !u.c.inH && u.c.live != 0 && nextSf u == some sfe && (handlerOf u).isSome &&
      (curWg u).all fun w => w.openMig.isNone) = true := ⟨by decide +kernel, by decide +kernel⟩

theorem witness_StepKeepsSound : Sound (mS 0x10 [.core 0]) ∧ (match step (mS 0x10 [.core 0]) with
    | .next t => t.c.vreg 2 3 == 18
    | _ => false) = true := ⟨sound_of (by decide +kernel) rfl, by decide +kernel⟩

/-! ### Witnesses: the device and its host -/

/-- A device that has booted. -/
def up (s : State) : State := { s with dev := { s.dev with stage := 1, devroot := 0x5000 }, cfg := { s.cfg with vfLimit := 16 } }

def m1 : State := up m0

/-- An RCB: level and flags, index, parent, refill, descriptor, queue. -/
def rcbOf (w idx parent refill desc qbase q : Nat) : List Byte :=
  leBytes 4 w ++ leBytes 4 idx ++ leBytes 8 parent ++ leBytes 4 refill ++ leBytes 4 0 ++ leBytes 4 0 ++ leBytes 4 0 ++ leBytes 8 desc ++ leBytes 8 qbase ++
  leBytes 4 q

def bare (s : State) : State := { s with pipes := [], wgs := [], grp := Group.empty }

/-- A stage descriptor: index and flags, entries, registers, local memory, groups, grid, cohort. -/
def descOf (w se be loc groups grid gz coh : Nat) : List Byte :=
  leBytes 4 w ++ leBytes 4 0 ++ leBytes 4 se ++ leBytes 4 be ++ leBytes 4 (24 * 2 ^ 24 + 96 * 2 ^ 16 + 24 * 2 ^ 8 + 96) ++ leBytes 4 loc ++ leBytes 4 groups ++
  leBytes 4 0 ++ leBytes 4 0 ++ leBytes 4 grid ++ leBytes 4 gz ++ leBytes 4 coh

/-- A pipeline of one stage in memory, and its residency record at CTXARG: flags and entries of the stage, its queue word, its cohort and grid,
the VLIM of its RCB. -/
def residency (se be q w coh gx vlim : Nat) : State :=
  let s := withTables m1
  let s := withMem s 0x5000 (rcbOf 0 0 0 9216000 0 0 0)
  let s := withMem s 0x5100 (rcbOf (1 + 2 ^ 17) 0 0x5000 1000 0 0 0)
  let s := withMem s 0x5200 (rcbOf (3 + 2 ^ 17) 7 0x5100 100 0 0 0)
  let s := withMem s 0x5300 (rcbOf 4 0 0x5200 0 0x5400 0x8000 q)
  let s := withMem s 0x531C (leBytes 2 vlim)
  let s := withMem s 0x5400 (descOf w se be 4096 1 gx 1 coh)
  let s := withMem s 0x5600 (leBytes 8 0x5200 ++ leBytes 8 0x10000 ++ leBytes 8 0 ++ leBytes 4 8 ++ leBytes 4 0)
  let s := setPart s 0 fun p => { p with root := 0x5100, clmask := 3, ways := 0xF }
  setTenant (bare s) 0 0 fun t => { t with ctxarg := 0x5600 }

def qWordOf : Nat := 2 + 2 ^ 8 * 3 + 2 ^ 12

def resOk : State := residency 0 0xFFFFFFFF qWordOf (2 ^ 11) 0x101 0x10001 0


/-- A configuration record with no faulty unit, followed by a signature (R11, R344). -/
def recOk : List Byte := leBytes 4 0x52435857 ++ leBytes 4 1 ++ List.replicate 4 0xFF ++ [0x41, 16] ++ List.replicate 498 0

def bootOf (key fw sig r rsig : List Byte) : BootInput := ⟨key, fw, sig, r ++ leBytes 2 rsig.length ++ rsig, true⟩

/-- The checks of a record that do not rest on a key or a version, with their codes (R343, R344). -/
def recordChecks (r : List Byte) : List (Bool × Nat) :=
  [(!recBad r, 8), (leNat ((r.drop 12).take 1) == 0x41, 5),
   (decide (32 ≤ (goodOnes r 0x10 8 34).length ∧ 64 ≤ (goodOnes r 0x18 16 66).length ∧ 512 ≤ (goodOnes r 0x28 72 528).length), 6)]

/-- A record with faulty units more than the spares is refused; the device accepts whatever signatures it accepts. -/
theorem witness_BootAndAttestation :
    ((recordChecks recOk).all (·.1) = true ∧ recOk.length = 512 ∧ leNat ((recOk.drop 8).take 4) = 0xFFFFFFFF ∧
      ∀ key fw sig rsig, let b := bootOf key fw sig recOk rsig; b.train = true ∧
        (rsig.length = 0 → leNat ((b.record.drop 512).take 2) = 0 ∧ b.record.take 512 = recOk)) ∧
    ((recordChecks (recOk.set 12 0x40)).filter fun c => !c.1) = [(false, 5)] ∧
    ((recordChecks (recOk.set 0x10 7)).filter fun c => !c.1) = [(false, 6)] ∧
    m1.dev.stage = 1 ∧ (m1.attest[(0 : Fin 17)]).busy = false ∧ (0 : Fin 17).val ≤ m1.cfg.vfLimit ∧
    (({ m1 with attest := m1.attest.set 0 { m1.attest[0] with busy := true, taken := [1, 2, 3] } } : State).attest[(0 : Fin 17)]).busy = true :=
  ⟨⟨by decide +kernel, by decide +kernel, by decide +kernel, fun key fw sig rsig => ⟨rfl, fun h => by
      rw [List.length_eq_zero_iff] at h
      subst h
      show leNat (((recOk ++ leBytes 2 0 ++ []).drop 512).take 2) = 0 ∧ (recOk ++ leBytes 2 0 ++ []).take 512 = recOk
      decide +kernel⟩⟩, by and_intros <;> decide +kernel⟩

/-- A partition's RCB at 0x5100, named as its root. -/
def withRoot (s : State) : State :=
  setPart (withMem s 0x5100 (rcbOf (1 + 2 ^ 17) 0 0x5000 1000 0 0 0)) 0 fun q => { q with root := 0x5100 }

/-- Partition 0 disabled. -/
def off0 (s : State) : State := setPart (bare s) 0 fun q => { q with en := false }

theorem noRival_of {s : State} {p : Fin 8} {f : Partition → Prop} (h : ∀ o : Fin 8, o ≠ p → (part s o).en = false) : ¬ Rival s p f := by
  rintro ⟨o, ho, he, -⟩
  simp [h o ho] at he

def mWorld : State := setPart m1 0 fun q => { q with world := true }

def mTwo : State := setPart (setPart m1 0 fun q => { q with clmask := 3 }) 1 fun q => { q with clmask := 1 }

def mFunc : State := off0 (setPart m1 0 fun q => { q with func := 2, world := true })

def mTen : State := setTenant (setPart m1 0 fun q => { q with ways := 0xFFFF }) 0 1 fun t => { t with tways := 1 }

def mOff : State := setPart (setTenant m1 0 0 fun t => { t with en := false, tways := 1 }) 0 fun q => { q with ways := 0xFFFF }

theorem witness_PartitionsEnable :
    (mWorld.dev.stage = 1 ∧ (part mWorld 0).world = true) ∧
    (Admitted mTwo 1 false ∧ (part mTwo 1).en = false ∧ Rival mTwo 1 fun o => (part mTwo 1).clmask &&& o.clmask ≠ 0) ∧
    (Admitted mFunc 0 true ∧ (part mFunc 0).en = false ∧ (part mFunc 0).bfirst.toNat + (part mFunc 0).bcnt.toNat ≤ 512 ∧
      (∀ f, ¬ Rival mFunc 0 f) ∧ (part mFunc 0).func ≠ 0 ∧ (part mFunc 0).world = true) ∧
    (Admitted (off0 m1) 0 false ∧ (part (off0 m1) 0).en = false ∧ (∀ f, ¬ Rival (off0 m1) 0 f) ∧ (part (off0 m1) 0).func = 0 ∧
      rcbGood (readRcb (off0 m1) (part (off0 m1) 0).root.toNat) 1 = false) ∧
    (let s := off0 (withRoot m1)
     Admitted s 0 false ∧ (part s 0).en = false ∧ (part s 0).bfirst.toNat + (part s 0).bcnt.toNat ≤ 512 ∧ (∀ f, ¬ Rival s 0 f) ∧
      (part s 0).func = 0 ∧ s.dev.devroot ≠ 0 ∧ rcbAt (part s 0).root.toNat = true ∧ rcbGood (readRcb s (part s 0).root.toNat) 1 = true ∧
      leNat (((readRcb s (part s 0).root.toNat).drop 8).take 8) = s.dev.devroot.toNat ∧ nodeOf s (part s 0).root.toNat = none ∧ Sound s) ∧
    (Admitted m1 0 false ∧ (part m1 0).en = true ∧ (∃ pl ∈ m1.pipes, pl.part = 0) ∧ ∀ pl ∈ (bare m1).pipes, pl.part ≠ 0) :=
  ⟨by decide +kernel, ⟨by unfold Admitted; decide +kernel, by decide +kernel, ⟨0, by decide +kernel⟩⟩,
   ⟨by unfold Admitted; decide +kernel, by decide +kernel, by decide +kernel, fun _ => noRival_of (by decide +kernel), by decide +kernel, by decide +kernel⟩,
   ⟨by unfold Admitted; decide +kernel, by decide +kernel, fun _ => noRival_of (by decide +kernel), by decide +kernel, by decide +kernel⟩,
   ⟨by unfold Admitted; decide +kernel, by decide +kernel, by decide +kernel, fun _ => noRival_of (by decide +kernel), by decide +kernel,
    by decide +kernel, by decide +kernel, (by decide +kernel), by decide +kernel, by decide +kernel, sound_of (by decide +kernel) (by decide +kernel)⟩,
   by unfold Admitted; decide +kernel, by decide +kernel, ⟨pipeline 0, by decide +kernel⟩, by decide +kernel⟩

theorem witness_PartitionsAndTenants :
    (let s := setTenant m1 0 1 fun t => { t with tclmask := 4 }
     Admitted s 0 false ∧ (tenant s 0 1).en = false ∧ (tenant s 0 1).tclmask.getLsbD 2 = true ∧ (part s 0).clmask.getLsbD 2 = false) ∧
    (Admitted mTen 0 false ∧ (tenant mTen 0 1).en = false ∧ (∀ k < 32, (tenant mTen 0 1).tclmask.getLsbD k = false) ∧
      (∀ k < 16, (tenant mTen 0 1).tways.getLsbD k = true → (part mTen 0).ways.getLsbD k = true) ∧
      ((tenant mTen 0 1).tways.getLsbD 0 = true ∧ mTen.cfg.wgworld.getLsbD 0 = (part mTen 0).world) ∧ (tenant mTen 0 0).en = true) ∧
    (Admitted mOff 0 false ∧ (tenant mOff 0 0).en = false ∧ (∀ k < 32, (tenant mOff 0 0).tclmask.getLsbD k = false) ∧
      (∀ k < 16, (tenant mOff 0 0).tways.getLsbD k = true → (part mOff 0).ways.getLsbD k = true) ∧
      ((tenant mOff 0 0).tways.getLsbD 0 = true ∧ mOff.cfg.wgworld.getLsbD 0 = (part mOff 0).world) ∧ (∀ u : Fin 9, u ≠ 0 → (tenant mOff 0 u).en = false) ∧
      (∃ pl ∈ mOff.pipes, pl.part = 0 ∧ pl.tenant = 0) ∧ ¬ ∃ pl ∈ (bare mOff).pipes, pl.part = 0 ∧ pl.tenant = 0) ∧
    ((tenant m1 0 0).en = true ∧ (∃ pl ∈ m1.pipes, pl.part = 0 ∧ pl.tenant = 0) ∧ ¬ ∃ pl ∈ (bare m1).pipes, pl.part = 0 ∧ pl.tenant = 0) :=
  ⟨by unfold Admitted; decide +kernel,
   ⟨by unfold Admitted; decide +kernel, by and_intros <;> decide +kernel⟩,
   ⟨by unfold Admitted; decide +kernel, by decide +kernel, by decide +kernel, by decide +kernel, (by decide +kernel), by decide +kernel,
    ⟨pipeline 0, by decide +kernel⟩, by decide +kernel⟩, by decide +kernel, ⟨pipeline 0, by decide +kernel⟩, by decide +kernel⟩

def domOn : State := { m1 with domains := m1.domains.set 0 { m1.domains[0] with en := true } }

theorem witness_RegisterWritesMasksAndRings :
    (¬ ((3 = 4 ∨ 3 = 8) ∧ 0x10004 % 3 = 0) ∧ ({ m1 with cfg := { m1.cfg with vfLimit := 0 } } : State).cfg.vfLimit < (1 : Fin 17).val ∧
      (0 : Fin 17).val ≤ m1.cfg.vfLimit ∧ 0x10010 % 8 = 0 ∧ mailboxAt 0 0x10010 = none ∧ ({ m1 with dev := { m1.dev with stage := 2 } } : State).dev.stage = 2 ∧
      ∃ u, exec (.registerWrite ⟨0, 0x10010, 4, 1, false⟩) m1 = .next u) ∧
    (m1.dev.stage = 1 ∧ ((part m1 0).world = true → false = true) ∧ (part mWorld 0).world = true) ∧ (5 < (6 : Word).toNat) ∧
    (let s := setPart m1 0 fun q => { q with func := 1 }
     (∃ p, (part s p).func.toNat = (0 : Fin 16).val + 1 ∧ ∃ pl ∈ s.pipes, pl.part = p) ∧
     ∀ p, (part s p).func.toNat = (15 : Fin 16).val + 1 → ∀ pl ∈ s.pipes, pl.part ≠ p) ∧
    (∃ pl ∈ mWorld.pipes, (part mWorld pl.part).world = true ∧ ∃ st ∈ pl.stages, st.fdom % 64 = (0 : Fin 64).val) ∧
    ((domOn.domains[(0 : Fin 64)]).en = true ∧ (m1.domains[(0 : Fin 64)]).en = false ∧ 6 ≤ (0x8000000A : Word).toNat % 32 ∧
      (0x8000000A : Word).toNat % 32 ≤ 16 ∧ (0x8000000A : Word).toNat / 2 ^ 16 % 32 ≤ 16 ∧ (0x8000000A : Word).getLsbD 31 = true ∧
      (0x0010000A : Word).getLsbD 31 = false ∧ 16 < (0x0011000A : Word).toNat / 2 ^ 16 % 32) :=
  ⟨⟨by decide, by decide +kernel, by decide +kernel, (by decide), by decide +kernel, by decide +kernel, ⟨_, rfl⟩⟩, by decide +kernel, by decide, ⟨⟨0, by decide +kernel⟩, by decide +kernel⟩,
   ⟨pipeline 0, by decide +kernel⟩, by decide +kernel⟩

theorem mem_reasons {l : List (Nat × Bool)} {k : Nat} : k ∈ (l.filter (·.2)).map (·.1) ↔ (k, true) ∈ l := by
  simp only [List.mem_map, List.mem_filter, Prod.exists]
  exact ⟨fun ⟨a, b, ⟨h, hb⟩, e⟩ => by cases hb; cases e; exact h, fun h => ⟨k, true, ⟨h, rfl⟩, rfl⟩⟩

theorem fails_iff {s : State} {p : Fin 8} {x : Fin 9} {l : Loaded} {k : Nat} : residencyFails s p x l k ↔ k ∈ resideReasons s p x l := by
  have hb : ∀ n, badPicks l n = true ↔ l.picks = .error n := fun n => by
    unfold badPicks
    cases l.picks <;> simp
  have hpair : hasPair (part s p).clmask = false ↔
      ∀ k < 16, (part s p).clmask.getLsbD (2 * k) = false ∨ (part s p).clmask.getLsbD (2 * k + 1) = false := by
    simp only [hasPair, List.any_eq_false, List.mem_range, Bool.and_eq_true, not_and, Bool.not_eq_true]
    constructor
    · intro h k hk
      cases hc : (part s p).clmask.getLsbD (2 * k)
      · exact .inl rfl
      · exact .inr (h k hk hc)
    · intro h k hk hc
      exact (h k hk).resolve_left (by simp [hc])
  have hall : (4294967295 : Word) = BitVec.allOnes 32 := rfl
  unfold resideReasons
  rw [mem_reasons]
  unfold residencyFails
  split <;> simp [hb, hpair, Stage.hasImage, Stage.entryPc, hall, Bool.or_eq_true, or_assoc, eq_comm (a := true), *]
  tauto

/-- The partition's root is resident. -/
def rooted (s : State) : State := { s with nodes := [nodeFor 0x5100 0x5000 (readRcb s 0x5100)] }

/-- A residency whose shape a cluster cannot hold (R19). -/
def resTooWide : State := residency 0 0xFFFFFFFF qWordOf (2 ^ 11) 0x120 0x10020 0

theorem all_pass {s : State} {p : Fin 8} {x : Fin 9} (h : (loadPipe s p x).map (fun l => resideReasons s p x l) = some []) :
    ∃ l, loadPipe s p x = some l ∧ ∀ k, ¬ residencyFails s p x l k := by
  obtain ⟨l, e, r⟩ := Option.map_eq_some_iff.mp h
  exact ⟨l, e, fun k hk => by rw [fails_iff, r] at hk; cases hk⟩

theorem one_fails {s : State} {p : Fin 8} {x : Fin 9} {n : Nat} (h : (loadPipe s p x).map (fun l => resideReasons s p x l) = some [n]) :
    ∃ l, loadPipe s p x = some l ∧ residencyFails s p x l n ∧ ∀ j < n, ¬ residencyFails s p x l j := by
  obtain ⟨l, e, r⟩ := Option.map_eq_some_iff.mp h
  refine ⟨l, e, fails_iff.2 (by rw [r]; exact List.mem_singleton_self _), fun j hj hk => ?_⟩
  rw [fails_iff, r, List.mem_singleton] at hk
  omega

theorem witness_ResidencyChecks :
    (Sound (rooted resOk) ∧ (nodeOf (rooted resOk) (part (rooted resOk) 0).root.toNat).isSome = true ∧
      ∃ l, loadPipe (rooted resOk) 0 0 = some l ∧ (∀ k, ¬ residencyFails (rooted resOk) 0 0 l k)) ∧
    (Sound resTooWide ∧ ∃ l, loadPipe resTooWide 0 0 = some l ∧ residencyFails resTooWide 0 0 l 3 ∧
      ∀ j < 3, ¬ residencyFails resTooWide 0 0 l j) :=
  ⟨⟨sound_of (by decide +kernel) (by decide +kernel), by decide +kernel, all_pass (by decide +kernel)⟩,
    sound_of (by decide +kernel) (by decide +kernel), one_fails (by decide +kernel)⟩

/-- The workgroup's context, named by CTXARG, among others; and that pipeline without work, a grid and a binding of it left. -/
def withArg (s : State) : State := setTenant s 0 0 fun t => { t with ctxarg := 0x1000 }

def mBusy : State := withArg { m1 with wgs := [workgroup, { workgroup with key := 2, ref := ⟨1, 0, 0, 0⟩ }] }

def mIdle : State :=
  withArg { m1 with
    wgs := []
    grp := Group.empty
    binds := m1.binds.set 3 { m1.binds[3] with en := true, stage := 0x2000 }
    grids := [⟨8, ⟨1, 0, 0, 0⟩, [], 0, 0, [], 0, false⟩] }

/-- A context command under way. -/
def drains (hold : Bool) (dl : Nat) (s : State) : State :=
  setTenant { s with now := 5000 } 0 0 fun t => { t with ctxstat := 1, hold := hold, ctxdl := dl, drainAt := 100 }

theorem witness_ContextCommands :
    (Admitted (drains true 0 mIdle) 0 false ∧ (tenant (drains true 0 mIdle) 0 0).ctxstat = 1) ∧ Taken mBusy 0 0 false ∧ loadPipe m1 0 0 = none ∧
    pipeAt m1 0 0 (tenant m1 0 0).ctxarg.toNat = none ∧
    (pipeAt mBusy 0 0 (tenant mBusy 0 0).ctxarg.toNat = some (pipeline 0) ∧ ∃ w ∈ mBusy.wgs ++ mBusy.relaunch, (pipeline 0).owns w.ref = true) ∧
    (Taken mIdle 0 0 false ∧ pipeAt mIdle 0 0 (tenant mIdle 0 0).ctxarg.toNat = some (pipeline 0) ∧ (mIdle.wgs ++ mIdle.relaunch) = [] ∧
      ∀ g ∈ mIdle.grids, (pipeline 0).owns g.ref = false) ∧ ((mIdle.binds[(3 : Fin 256)]).en = true ∧ (mIdle.binds[(3 : Fin 256)]).stage.toNat ∈ (pipeline 0).stages.map (·.rcb)) ∧
    (mBusy.wgs.map (·.key)).Nodup ∧
    ((tenant (drains true 0 mIdle) 0 0).hold = true ∧ ((drains true 0 mIdle).wgs ++ (drains true 0 mIdle).relaunch) = []) ∧
    (tenant (drains false 0 mIdle) 0 0).hold = false ∧
    ((tenant (drains true 1 mBusy) 0 0).ctxdl ≠ 0 ∧ (∃ w ∈ (drains true 1 mBusy).wgs, w.ref.part = 0 ∧ w.ref.tenant = 0) ∧
      (tenant (drains true 1 mBusy) 0 0).drainAt + 1200 * (tenant (drains true 1 mBusy) 0 0).ctxdl ≤ (drains true 1 mBusy).now) ∧
    (drains true 5 mBusy).now < (tenant (drains true 5 mBusy) 0 0).drainAt + 1200 * (tenant (drains true 5 mBusy) 0 0).ctxdl :=
  ⟨⟨by unfold Admitted; decide +kernel, by decide +kernel⟩, by unfold Taken Admitted; decide +kernel, by decide +kernel, by decide +kernel,
   ⟨by decide +kernel, ⟨workgroup, by decide +kernel⟩⟩,
   ⟨by unfold Taken Admitted; decide +kernel, by decide +kernel, by decide +kernel, by decide +kernel⟩, by decide +kernel, by decide +kernel,
   by decide +kernel, by decide +kernel, ⟨by decide +kernel, ⟨workgroup, by decide +kernel⟩, by decide +kernel⟩, by decide +kernel⟩

/-- Cluster suspension and faulty units. -/
def mSusp (a b : Mask) (s : State) : State :=
  { s with place := { s.place with susp := a, suspd := b, phfault := 2 ^ 33, slfault := 2 ^ 64, sbfault := 2 ^ 520 } }

/-- Each screed bank stands at its own place. -/
theorem banksPlaced (k : Fin 512) : ((mSusp 0xFFFFFFFF 0xFFFFFFFF m1).place.sb[k]).toNat = k.val := by
  show ((Vector.ofFn fun i : Fin 512 => BitVec.ofNat 10 i.val)[k.val]).toNat = _
  rw [Vector.getElem_ofFn, BitVec.toNat_ofNat]
  exact Nat.mod_eq_of_lt (Nat.lt_trans k.isLt (by decide))

def mHalt : State := { m1 with grp := { m1.grp with halted := true } }

theorem mayResume_of {s : State} (hk : (s.wgs.map (·.key)).Nodup) (ho : ((allGroups s).map fun g => (g.wg, g.gid, g.role)).Nodup)
    (hd : s.domains = State.reset.domains) : MayResume s :=
  ⟨hk, ho, .inl fun d => by rw [hd]; revert d; decide +kernel⟩

/-- An invalidation of a kind for a tenant under way. -/
def mInv (k : BitVec 3) (t : Byte) : State :=
  { m1 with inv := { m1.inv with go := true, kind := k, tenant := t, tiva := 2 ^ 31, tipages := 1 } }

theorem witness_PlacesAndTranslations :
    (let s := mSusp 0xFFFFFFFF 0xFFFFFFFF m1
     s.dev.stage = 1 ∧ (∀ k < 32, s.place.suspd.getLsbD k = true) ∧ 34 ≤ (34 : Word).toNat % 64 ∧ s.place.phfault.getLsbD 33 = true ∧
      s.place.slfault.getLsbD 64 = true ∧ s.place.sbfault.getLsbD 520 = true ∧ (∃ k : Fin 32, k ≠ 0 ∧ (s.place.cl[k]).toNat = 1) ∧
      s.place.phfault.getLsbD 32 = false ∧ (∀ k : Fin 32, k ≠ 0 → (s.place.cl[k]).toNat ≠ 32) ∧ (∀ k : Fin 64, k ≠ 0 → (s.place.sl[k]).toNat ≠ 65)) ∧
    (∀ k : Fin 512, k ≠ 0 → ((mSusp 0xFFFFFFFF 0xFFFFFFFF m1).place.sb[k]).toNat ≠ 521) ∧
    ((mSusp 0 0 m1).place.susp.getLsbD 0 = false ∧ (mSusp 0 0 m1).place.suspd.getLsbD 0 = false) ∧
    ((mSusp 1 1 m1).place.susp.getLsbD 0 = true ∧ (∀ w ∈ (bare (mSusp 1 1 m1)).wgs, inCluster (bare (mSusp 1 1 m1)) w 0 = false)) ∧
    (MayResume (mSusp 1 1 mHalt) ∧ inCluster (mSusp 1 1 mHalt) workgroup 0 = true ∧ mustHalt (mSusp 0 0 mHalt) workgroup = false ∧
      mHalt.grp ∈ allGroups (mSusp 1 1 mHalt) ∧ mHalt.grp.wg = workgroup.key ∧ mHalt.grp.halted = true ∧ mHalt.grp.phase ≠ .ended) ∧
    ((∀ g ∈ allGroups (mSusp 1 0 mHalt), g.core / 8 % 32 ≠ (0 : Fin 32).val ∨ g.wg = 0 ∨ g.halted = true ∨ g.phase = .ended) ∧
      ∀ t ∈ (mSusp 1 0 mHalt).engq, engCluster t.eng ≠ 0) ∧
    (m1.inv.go = false ∧ (mInv 1 0).inv.go = true ∧ (mInv 3 0).inv.kind = 3 ∧ (mInv 3 0).homeQ = []) :=
  ⟨by decide +kernel, fun k _ => by rw [banksPlaced]; omega, by decide +kernel, by decide +kernel, ⟨mayResume_of (by decide +kernel) (by decide +kernel) rfl, by decide +kernel, by decide +kernel, List.mem_cons_self, by decide +kernel,
    by decide +kernel, by decide +kernel⟩, by decide +kernel,
   by decide +kernel⟩

/-- Partition 0 owned by function 1, whose slot 0 is bound to the queue of the stage. -/
def mMail : State :=
  setPart (withTables { m1 with binds := m1.binds.set 3 { m1.binds[3] with en := true, func := 1, slot := 0, stage := 0x2000, vec := 5 } }) 0 fun q =>
    { q with func := 1, clmask := 3 }

/-- The slot and the function's migration state. -/
def withSlot (f : MbSlot → MbSlot) (s : State) : State := { s with mbox := s.mbox.set 1 ((s.mbox[1]).set 0 (f (s.mbox[1])[0])) }

def withVf (f : VfCtl → VfCtl) (s : State) : State := { s with vfs := s.vfs.set 0 (f s.vfs[0]) }

def mMailHeld : State := withSlot (fun m => { m with held := some (List.replicate 64 9), irqen := true }) mMail

def mMailFull : State := withMem mMail (screedFirst + 8) (leBytes 4 4)

def mMailOff : State := { mMail with binds := mMail.binds.set 3 { mMail.binds[3] with en := false } }

theorem notWaiting {s : State} {stage : DWord} {q : Nat → Prop} (h : ∀ g : Fin 17, ∀ i : Fin 16, ((s.mbox[g])[i]).held = none) : ¬ WaitsFor s stage q := by
  rintro ⟨j, g, i, -, -, -, -, hh, -⟩
  exact hh (h g i)

theorem witness_Mailboxes :
    (mMail.dev.stage = 1 ∧ Sound mMail ∧ (1 : Fin 17).val ≤ mMail.cfg.vfLimit ∧ mMail.cfg.vfLimit = 16 ∧ BoundBy mMail 1 0 3 ∧
      (mMail.binds[3]).stage = 0x2000 ∧ firstStage mMail 0x2000 = some (ref0, stage 0) ∧ (stage 0).qlog ≤ 16 ∧
      QueueAt mMail ref0 (stage 0) screedFirst) ∧
    (((mMail.mbox[1])[0]).held = none ∧ ¬ functionStopped mMail 1 ∧ ¬ queueFull mMail (stage 0) screedFirst ∧
      ∀ q, ¬ WaitsFor mMail 0x2000 q) ∧
    (functionStopped (withVf (fun v => { v with st := 2 }) mMail) 1 ∧ queueFull mMailFull (stage 0) screedFirst ∧
      WaitsFor mMailHeld 0x2000 (fun _ => True) ∧ ((mMailHeld.mbox[1])[0]).held = some (List.replicate 64 9) ∧
      ((mMailHeld.mbox[1])[0]).heldAt = 0) ∧
    (∀ j : Fin 256, ¬ ((mMailOff.binds[j]).en = true ∧ (mMailOff.binds[j]).func.toNat = (1 : Fin 17).val ∧ (mMailOff.binds[j]).slot.toNat = (0 : Fin 16).val)) ∧
    ((mMailOff.binds[3]).en = false ∧ (mMailOff.binds[3]).func.toNat ≤ 16 ∧
      (∃ r st, firstStage mMailOff 0x2000 = some (r, st) ∧ (part mMailOff r.part).func = (mMailOff.binds[3]).func ∧
        (part mMailOff r.part).world = (mMailOff.binds[3]).world) ∧
      ∀ j : Fin 256, j ≠ 3 → ¬ ((mMailOff.binds[j]).en = true ∧ (mMailOff.binds[j]).func = (mMailOff.binds[3]).func ∧ (mMailOff.binds[j]).slot = (mMailOff.binds[3]).slot)) ∧
    ((mMail.binds[3]).en = true ∧ (mMail.binds[3]).func.toNat = (1 : Fin 17).val ∧ (mMail.binds[3]).slot.toNat = (0 : Fin 16).val) :=
  ⟨⟨by decide +kernel, sound_of (by decide +kernel) rfl, by decide +kernel, by decide +kernel, by unfold BoundBy; decide +kernel, by decide +kernel, by decide +kernel,
    by decide +kernel, queueAt_of ⟨0x8000, 0x1000, screedFirst, true, true, true⟩ 320 rfl (by decide +kernel) (by decide +kernel) (by decide +kernel)
      (by decide +kernel)⟩,
   ⟨by decide +kernel, by unfold functionStopped; decide +kernel, by unfold queueFull; decide +kernel, fun _ => notWaiting (by decide +kernel)⟩,
   ⟨by unfold functionStopped; decide +kernel, by unfold queueFull; decide +kernel,
    ⟨3, 1, 0, by decide +kernel, by decide +kernel, by decide +kernel, (by decide +kernel), by decide +kernel, trivial⟩, by decide +kernel, by decide +kernel⟩,
   by decide +kernel, ⟨by decide +kernel, by decide +kernel, ⟨ref0, stage 0, by decide +kernel⟩, by decide +kernel⟩, by decide +kernel⟩

/-- The aperture of function 1 begins at the page of screed. -/
def mAp : State := setTenant mMail 0 0 fun t => { t with apbase := 0x8000 }

theorem notReached {s : State} {p : Fin 8} {x : Fin 9} {k : Access} {va : Nat} (h : (lookupDev s p x va).2 = .bad) (pa : Nat) : ¬ ApertureByte s p x k va pa := by
  rintro ⟨-, ⟨e, he, -⟩, -⟩
  rw [h] at he
  cases he

theorem witness_Apertures :
    (mAp.dev.stage = 1 ∧ Sound mAp ∧ ownTenant mAp 1 = some (0, 0) ∧ mAp.homeQ = [] ∧ (∀ g, partVf mAp 0 = some g → (mAp.vfs[g]).tracking = false) ∧
      ¬ functionStopped mAp 1 ∧ ¬ mAp.cfg.vfLimit < (1 : Fin 17).val) ∧
    (∀ k < 2, ApertureByte mAp 0 0 .load ((tenant mAp 0 0).apbase.toNat + 6 + k) (screedFirst + 6 + k)) ∧
    (∀ k < 2, ApertureByte mAp 0 0 .store ((tenant mAp 0 0).apbase.toNat + 6 + k) (screedFirst + 6 + k)) ∧
    (∀ pa, ¬ ApertureByte mAp 0 0 .load ((tenant mAp 0 0).apbase.toNat + 0x1000 + 0) pa) ∧
    (∀ pa, ¬ ApertureByte mAp 0 0 .store ((tenant mAp 0 0).apbase.toNat + 0x1000 + 0) pa) ∧ ownTenant mAp 0 = none :=
  have reach : ∀ a, (a = Access.load ∨ a = .store) → ∀ k < 2, ApertureByte mAp 0 0 a ((tenant mAp 0 0).apbase.toNat + 6 + k) (screedFirst + 6 + k) := by
    rintro a (rfl | rfl) k hk <;>
      exact ⟨by revert k; decide +kernel, ⟨⟨0x8000, 0x1000, screedFirst, true, true, true⟩, by revert k; decide +kernel⟩, by revert k; decide +kernel⟩
  ⟨⟨by decide +kernel, sound_of (by decide +kernel) rfl, by decide +kernel, by decide +kernel, by decide +kernel, by unfold functionStopped; decide +kernel,
    by decide +kernel⟩, reach _ (.inl rfl), reach _ (.inr rfl), notReached (by decide +kernel), notReached (by decide +kernel), by decide +kernel⟩

/-- The function in a migration state, its group halted; and a request of its partition queued. -/
def mVf (n : Nat) : State := withVf (fun v => { v with st := n }) { mMail with grp := { mMail.grp with halted := true } }

def mVfReq (n : Nat) : State := { mVf n with homeQ := [⟨0, 1, 0, 0x100, .store 1 0x8000 [5]⟩] }

theorem ownedBy_mVf (n : Nat) : OwnedBy (mVf n) 0 0 := (by unfold OwnedBy; decide +kernel : OwnedBy (mVf 0) 0 0)

theorem mayResume_mVf (n : Nat) : MayResume (mVf n) :=
  mayResume_of (s := mVf n) (show ((mVf 0).wgs.map (·.key)).Nodup by decide +kernel)
    (show ((allGroups (mVf 0)).map fun g => (g.wg, g.gid, g.role)).Nodup by decide +kernel) rfl

theorem st_mVf (n : Nat) : ((mVf n).vfs[(0 : Fin 16)]).st = n := by simp [mVf, withVf]

theorem grp_mem (s : State) : s.grp ∈ allGroups s := List.mem_cons_self

theorem witness_MigrationStates :
    (∀ n, OwnedBy (mVf n) 0 0 ∧ (mVf n).dev.stage = 1 ∧ ((mVf n).vfs[(0 : Fin 16)]).st = n ∧ MayResume (mVf n)) ∧
    ((∀ r ∈ (mVf 1).homeQ, inPart (mVf 1) 0 r.wg = false) ∧ ∀ k ∈ (mVf 1).walks, inPart (mVf 1) 0 k.wg = false) ∧
    (∀ w ∈ (bare (mVf 3)).wgs, w.ref.part ≠ 0) ∧
    (((withVf (fun v => { v with whole := true }) (mVf 4)).vfs[(0 : Fin 16)]).whole = true ∧ ((mVf 4).vfs[(0 : Fin 16)]).whole = false) ∧
    (mustHalt (mVf 0) workgroup = false ∧ workgroup ∈ (mVf 3).wgs ∧ (mVf 3).grp ∈ allGroups (mVf 3) ∧ (mVf 3).grp.halted = true) ∧
    (quietPart (mVf 2) 0 ∧ quietPart (mVfReq 2) 0 ∧ (∃ r ∈ (mVfReq 2).homeQ, inPart (mVfReq 2) 0 r.wg = true)) ∧
    ¬ quietPart (withVf (fun v => { v with st := 2 }) mMail) 0 :=
  ⟨fun n => ⟨ownedBy_mVf n, rfl, st_mVf n, mayResume_mVf n⟩, by decide +kernel, by decide +kernel, by decide +kernel,
   ⟨by decide +kernel, by decide +kernel, grp_mem _, by decide +kernel⟩,
   ⟨by unfold quietPart; decide +kernel, by unfold quietPart; decide +kernel, ⟨0, 1, 0, 0x100, .store 1 0x8000 [5]⟩, by decide +kernel⟩,
   fun h => by have := h.1 workgroup (by decide +kernel) rfl _ (grp_mem _) (by decide +kernel); revert this; decide +kernel⟩

/-- The image that a SAVE of that function puts in its stream; and its arrival in full. -/
def image : VmImage := { makeImage (mVf 3) 0 0 with nodes := [{ nodeFor 0x5100 0x5000 [] with rcb := 0x5100 }] }

def mLoad (bytes : List Byte) : State :=
  let s := withVf (fun v => { v with st := 4, stream := bytes }) { bare mMail with streams := [image] }
  setPart s 0 fun q => { q with root := 0x5100 }

theorem ownedBy_mLoad (bytes : List Byte) : OwnedBy (mLoad bytes) 0 0 := (by unfold OwnedBy; decide +kernel : OwnedBy (mLoad []) 0 0)

theorem streamOf_ne_nil (im : VmImage) : streamOf im ≠ [] := by
  intro h
  have := congrArg List.length h
  simp [streamOf, firstRec, streamRec, leBytes] at this

theorem witness_StateStreams :
    ((mVf 3).dev.stage = 1 ∧ OwnedBy (mVf 3) 0 0 ∧ (mVf 3).memWf = true ∧ ((mVf 3).vfs[(0 : Fin 16)]).st = 3) ∧
    (let s := withVf (fun v => { v with stream := [1, 2, 3, 4], winlen := 0x80000004 }) (mVf 3)
     (0 + 4 ≤ (s.vfs[(0 : Fin 16)]).winlen.toNat % 2 ^ 31 ∧ 0 + 4 ≤ (s.vfs[(0 : Fin 16)]).stream.length)) ∧
    (OwnedBy (mVf 0) 0 0 ∧ (∃ x ∈ (mVf 0).pipes, x.part = 0) ∧ OwnedBy (bare (mVf 0)) 0 0 ∧ ∀ x ∈ (bare (mVf 0)).pipes, x.part ≠ 0) ∧
    Memory.wf ((mVf 4).vfs[(0 : Fin 16)]).win = true ∧
    (∀ bytes, OwnedBy (mLoad bytes) 0 0 ∧ ((mLoad bytes).vfs[(0 : Fin 16)]).st = 4 ∧ ((mLoad bytes).vfs[(0 : Fin 16)]).whole = false ∧
      ((mLoad bytes).vfs[(0 : Fin 16)]).stream = bytes ∧ (mLoad bytes).streams = [image]) ∧
    ((∀ im ∈ (mVf 4).streams, False) ∧ [] <+: streamOf image ∧ [] ≠ streamOf image ∧ streamOf image <+: streamOf image) ∧
    (let s := mLoad (streamOf image)
     let q := part s 0
     image.stepping = s.cfg.stepping ∧ image.version = Config.streamVersion ∧ image.det = q.det ∧ image.bcnt = q.bcnt.toNat ∧
      (clustersOf image.clusters).length = (clustersOf q.clmask).length ∧ pairsMap image q.clmask = true ∧ s.memWf = true ∧
      Memory.wf image.screed = true ∧ q.root ≠ 0 ∧ (∀ x ∈ image.nodes, x.parent ≠ 0 ∧ inMain (x.rcb + 255) = true) ∧
      image.groups ≠ [] ∧ image.wgs ≠ []) ∧
    (let s := setPart (mLoad (streamOf image)) 0 fun q => { q with clmask := 1 }
     (clustersOf image.clusters).length ≠ (clustersOf (part s 0).clmask).length) :=
  ⟨⟨by decide +kernel, ownedBy_mVf 3, by decide +kernel, by decide +kernel⟩, by decide +kernel,
   ⟨ownedBy_mVf 0, ⟨pipeline 0, by decide +kernel⟩, by unfold OwnedBy; decide +kernel, by decide +kernel⟩, by decide +kernel,
   fun _ => ⟨ownedBy_mLoad _, rfl, rfl, rfl, rfl⟩,
   ⟨by decide +kernel, List.nil_prefix, (streamOf_ne_nil _).symm, List.prefix_refl _⟩,
   ⟨rfl, rfl, rfl, rfl, by and_intros <;> decide +kernel⟩, by decide +kernel⟩

/-! ### Witnesses: budgets, power, launches, slices and retirement -/

def node (rcb parent : Nat) (bal : Int) (debt : Nat) (loans : List (Nat × Nat)) : Node :=
  { rcb := rcb, parent := parent, index := 0, budset := true, lend := true, refill := 40, slice := 0, bal := bal, debt := debt, used := 2400, launch := 3, loans := loans }

/-- The workgroup's stage and the partition's root as the only nodes, at a time. -/
def mBud (now : Nat) (stage root : Node) : State :=
  { m1 with now := now, nodes := [root, stage], engq := [⟨.copy 0, 1, 1, 0, true, 20⟩] }

def mLent : State := mBud 1300000 (node 0x2000 0x5100 (-5000) 3 [(0x5100, 3)]) (node 0x5100 0 100 0 [])

def mOwing : State := mBud 1300000 (node 0x2000 0x5100 (-5000) 0 []) (node 0x5100 0 100 0 [])

theorem witness_BudgetsAndPeriods :
    (mBud 50 (node 0x2000 0x5100 0 0 []) (node 0x5100 0 100 0 [])).now < 1200000 * (0 + 1) ∧ mOwing.periods = 0 ∧
    (1200000 * (mOwing.periods + 1) ≤ mOwing.now ∧ (∀ n ∈ mOwing.nodes, n.debt = 0 ∧ n.loans = []) ∧ 0 < allDue mOwing mOwing.now 0x2000) ∧
    (∃ a b, (charged mLent).nodes = [a, b] ∧ a ≠ b ∧ (mLent.nodes.map (·.rcb)).Nodup ∧ a.budset = true ∧ b.budset = true ∧ b.loans = [(a.rcb, 3)] ∧
      b.debt = 3 ∧ (∀ n ∈ (charged mLent).nodes, n ≠ b → n.debt = 0 ∧ n.loans = [])) ∧
    (Sound mLent ∧ (mLent.nodes.map (nodeRcb mLent)).Nodup ∧ (mLent.nodes.map (·.rcb)).Nodup ∧ ∀ n ∈ mLent.nodes, rcbAt (nodeRcb mLent n) = true) :=
  ⟨by decide +kernel, by decide +kernel, by decide +kernel, ⟨_, _, rfl, by and_intros <;> decide +kernel⟩, sound_of (by decide +kernel) rfl, by and_intros <;> decide +kernel⟩

/-- Every unit awake, without work; a unit in a state. -/
def awake (s : State) : State := { s with units := Vector.replicate 32 (Vector.replicate 9 ⟨.G1, 0, false⟩) }

def mIdleUnits : State := { bare (awake m1) with now := 70000 }

def core0 : UnitId := ⟨0, .core 0⟩

def inState (u : UnitId) (p : PState) (since : Nat) (waking : Bool) : State := setUnit mIdleUnits u ⟨p, since, waking⟩

theorem noNewWake (q : List WakeReq) {w : List (Fin 32 × Nat)} : NoNewWake { mIdleUnits with wakeQ := q, wakes := w } 0 :=
  ⟨(by decide +kernel : critStages mIdleUnits = []), (by decide +kernel : sleepers mIdleUnits 0 = []), fun t ht => (by cases (show t ∈ [] from ht)),
   fun w hw => (by cases (show w ∈ [] from hw))⟩

/-- A group that waits on a sleeping core; and a CRIT workgroup. -/
def mSleep : State := { m1 with now := 70000, grp := { group with phase := .between } }

def mCrit : State := { m1 with pipes := [{ pipeline 0 with stages := [{ stage 0 with prio := 1 }] }] }

theorem witness_PowerStates :
    (NoNewWake mIdleUnits 0 ∧ (∀ q ∈ mIdleUnits.wakeQ, q.unit.cluster ≠ 0) ∧
      (let s := { mIdleUnits with wakeQ := [⟨core0, 3, false, 5⟩, ⟨⟨0, .core 1⟩, 2, false, 9⟩], wakes := [(0, 69900), (0, 69000)] }
       NoNewWake s 0 ∧ ((s.wakes.filter fun w => decide (s.now < w.2 + 300)).filter fun w => w.1 == 0).length < 2 ∧
       ∃ q ∈ s.wakeQ, q.unit.cluster = 0 ∧ ∀ r ∈ s.wakeQ, r ≠ q → r.unit.cluster = 0 → q.prio < r.prio ∨ (q.prio = r.prio ∧ q.at_ < r.at_)) ∧
      (let s := { mIdleUnits with wakes := [(0, 69900), (0, 69950)] }
       2 ≤ ((s.wakes.filter fun w => decide (s.now < w.2 + 300)).filter fun w => w.1 == 0).length)) ∧
    (critStages mSleep = [] ∧ sleepers mSleep 0 = [mSleep.grp] ∧ mSleep.wakeQ = [] ∧ mSleep.wakes = [] ∧ mSleep.engq = [] ∧ heldWarm mSleep 0 = false ∧
      (unitOf mSleep (coreUnit mSleep.grp.core)).waking = false) ∧
    (let s := { mSleep with wakeQ := [⟨coreUnit mSleep.grp.core, 6, false, 3⟩], wakes := [(0, 69900), (0, 69950)] }
     critStages s = [] ∧ sleepers s 0 = [s.grp] ∧ wgOf s s.grp.wg = some workgroup ∧ stageOf s workgroup.ref = some (stage 0) ∧ s.engq = [] ∧
      heldWarm s 0 = false ∧ (unitOf s (coreUnit s.grp.core)).waking = false ∧
      2 ≤ ((s.wakes.filter fun w => decide (s.now < w.2 + 300)).filter fun w => w.1 == 0).length) ∧
    ((unitOf (inState core0 .G3 10000 true) core0).waking = true ∧
      (unitOf (inState core0 .G3 10000 true) core0).since + wakeCycles .G3 ≤ (inState core0 .G3 10000 true).now ∧
      (inState core0 .G2 69900 true).now < (unitOf (inState core0 .G2 69900 true) core0).since + wakeCycles .G2) ∧
    (unitBusy (inState core0 .G0 69980 false) core0 = false ∧ 69980 + 20 ≤ (inState core0 .G0 69980 false).now) ∧
    (unitBusy (inState core0 .G1 10000 false) core0 = false ∧ 10000 + 60000 ≤ (inState core0 .G1 10000 false).now ∧
      mustStayWarm (inState core0 .G1 10000 false) core0 = false) ∧
    (∃ w ∈ mCrit.wgs, inCluster mCrit w 0 = true ∧ (stageOf mCrit w.ref).map (·.prio) = some 1) ∧ unitEmpty m1 core0 = false ∧
    (unitEmpty mIdleUnits core0 = true ∧ (unitOf mIdleUnits core0).waking = false ∧ mustStayWarm mIdleUnits core0 = false ∧
      unitEmpty mIdleUnits ⟨0, .copy⟩ = true ∧ mustStayWarm mIdleUnits ⟨0, .copy⟩ = false ∧ Sound mIdleUnits ∧ mIdleUnits.homeQ = []) :=
  ⟨⟨noNewWake _, by decide +kernel, ⟨noNewWake _, by decide +kernel,
      ⟨⟨⟨0, .core 1⟩, 2, false, 9⟩, by decide +kernel⟩⟩, by decide +kernel⟩, by decide +kernel, by decide +kernel, by decide +kernel, (by decide +kernel), by decide +kernel,
   ⟨workgroup, by decide +kernel⟩, by decide +kernel, ⟨by decide +kernel, by decide +kernel, by decide +kernel, (by decide +kernel), by decide +kernel,
     sound_of (by decide +kernel) rfl, by decide +kernel⟩⟩

/-- A stage of three workgroups that may launch on cluster 0: its queue holds one entry, its nodes have balances; without and with a grid under launch. -/
def bigStage : Stage := { stage 0 with gx := 3 }

def mLaunch : State :=
  let s := withTables (awake { bare m1 with
    pipes := [{ pipeline 0 with stages := [bigStage] }], fresh := 10, now := 77,
    nodes := [node 0x5000 0 0 0 [], node 0x5100 0x5000 100 0 [], node 0x1000 0x5100 100 0 [], node 0x2000 0x1000 100 0 []] })
  let s := withMem s screedFirst (leBytes 4 0 ++ leBytes 4 1 ++ leBytes 4 1)
  setPart (setTenant s 0 0 fun t => { t with tclmask := 3, tways := 1 }) 0 fun q => { q with run := true, clmask := 3 }

def mGrid (n : Nat) : State := { mLaunch with grids := [⟨3, ref0, [], 0, n, [], n, true⟩] }

theorem mayLaunch_of {s : State} {c : Fin 32} {r : StageRef} {st : Stage} {core : Nat} (h1 : stageOrder s c = [(r, st)])
    (h2 : s.relaunch.isEmpty && st.cx == 1 && st.cy == 1 && decide (st.groups ≤ 16) && st.il != 2 && st.prio != 1 && (critStages s).isEmpty &&
      (payers s st.rcb).all (fun a => (nodeOf s a).any fun n => n.parent == 0 || decide ((allDue s (s.now / 1200 * 1200) a : Int) < n.bal)) &&
      placeOn s (r.part, r.tenant) st c.val false (fun _ => true) == some core && coreAwake s st core = true) : MayLaunch s c r st core := by
  simp only [Bool.and_eq_true, List.isEmpty_iff, beq_iff_eq, decide_eq_true_eq, bne_iff_ne, List.all_eq_true] at h2
  obtain ⟨⟨⟨⟨⟨⟨⟨⟨⟨a, b⟩, c1⟩, d⟩, e⟩, f⟩, g⟩, p⟩, q⟩, t⟩ := h2
  refine ⟨⟨[], h1⟩, a, ⟨b, c1, d, e⟩, ⟨f, g⟩, fun x hx => ?_, q, t⟩
  have := p x hx
  cases hn : nodeOf s x with
  | none => simp [hn] at this
  | some n => exact ⟨n, rfl, by simpa only [hn, Option.any_some, Bool.or_eq_true, beq_iff_eq, decide_eq_true_eq] using this⟩

theorem queueAt_launch {s : State} (h : (walk s ref0.part ref0.tenant bigStage.qbase.toNat).2 = .ok ⟨0x8000, 0x1000, screedFirst, true, true, true⟩)
    (hs : ((List.range 320).all fun off => decide (bigStage.qbase.toNat + off < 2 ^ 49) &&
      worldOk s (part s ref0.part).world ⟨0x8000, 0x1000, screedFirst, true, true, true⟩ (screedFirst + off) &&
      inScreed (screedFirst + off) && (part s ref0.part).ownsBank (bankOf (screedFirst + off))) = true) (hc : coreOnly s = true) :
    QueueAt s ref0 bigStage screedFirst :=
  queueAt_of ⟨0x8000, 0x1000, screedFirst, true, true, true⟩ 320 rfl (by decide +kernel) h (by
    rw [List.all_eq_true] at hs ⊢
    intro off ho
    have hx : (⟨0x8000, 0x1000, screedFirst, true, true, true⟩ : Xl).pa (bigStage.qbase.toNat + off) = screedFirst + off := by
      show screedFirst + (0x8000 + off - 0x8000) = _
      omega
    simp only [hx, hs off ho, beq_self_eq_true, Bool.and_true]) hc

theorem witness_CohortLaunches :
    (bare m1).relaunch = [] ∧ stageOrder (bare m1) 0 = [] ∧
    (MayLaunch mLaunch 0 ref0 bigStage 0 ∧ Sound mLaunch ∧ openGrid mLaunch ref0 = none ∧ (part mLaunch 0).det = false ∧
      QueueAt mLaunch ref0 bigStage screedFirst ∧ (screedWord mLaunch (screedFirst + 4) + 2 ^ 32 - screedWord mLaunch screedFirst) % 2 ^ 32 ≠ 0 ∧
      leNat (((List.range 64).map fun k => Memory.get mLaunch.mem (slotPa bigStage screedFirst (screedWord mLaunch screedFirst) + k)).drop 56) = 0 ∧
      1 < bigStage.gx * bigStage.gy * bigStage.gz) ∧
    (∀ n ∈ [1, 2], MayLaunch (mGrid n) 0 ref0 bigStage 0 ∧ Sound (mGrid n) ∧ openGrid (mGrid n) ref0 = some ⟨3, ref0, [], 0, n, [], n, true⟩ ∧
      ((mGrid n).grids.map (·.key)).Nodup ∧ QueueAt (mGrid n) ref0 bigStage screedFirst ∧ ((chainOf (mGrid n) bigStage.rcb).map (·.rcb)).Nodup) :=
  have place : ∀ n ∈ [1, 2], MayLaunch (mGrid n) 0 ref0 bigStage 0 ∧ Sound (mGrid n) ∧ openGrid (mGrid n) ref0 = some ⟨3, ref0, [], 0, n, [], n, true⟩ ∧
      ((mGrid n).grids.map (·.key)).Nodup ∧ QueueAt (mGrid n) ref0 bigStage screedFirst ∧ ((chainOf (mGrid n) bigStage.rcb).map (·.rcb)).Nodup := by
    intro n hn
    rcases List.mem_cons.1 hn with rfl | hn
    · exact ⟨mayLaunch_of (by decide +kernel) (by decide +kernel), sound_of (by decide +kernel) rfl, by decide +kernel, by decide +kernel,
        queueAt_launch (by decide +kernel) (by decide +kernel) (by decide +kernel), by decide +kernel⟩
    · rw [List.mem_singleton.1 hn]
      exact ⟨mayLaunch_of (by decide +kernel) (by decide +kernel), sound_of (by decide +kernel) rfl, by decide +kernel, by decide +kernel,
        queueAt_launch (by decide +kernel) (by decide +kernel) (by decide +kernel), by decide +kernel⟩
  ⟨by decide +kernel, by decide +kernel, ⟨mayLaunch_of (by decide +kernel) (by decide +kernel), sound_of (by decide +kernel) rfl, by decide +kernel,
    by decide +kernel, queueAt_launch (by decide +kernel) (by decide +kernel) (by decide +kernel), by decide +kernel, by decide +kernel,
    by decide +kernel⟩, place⟩

theorem groupAt_grp (s : State) : groupAt s s.grp.wg s.grp.gid s.grp.role = some s.grp := by
  simp [groupAt, allGroups, Group.is]

theorem groupAt_next {s : State} {d : Group} {rest : List Group} {wg : Nat} {gid : Fin 16} {r : Role} (h : s.others = d :: rest)
    (h1 : s.grp.is wg gid r = false) (h2 : d.is wg gid r = true) : groupAt s wg gid r = some d := by
  simp [groupAt, allGroups, h, h1, h2]

/-- Two tenants on cluster 0, each with a workgroup of one group between runs; a slice of the cluster, at a time long after. -/
def mTenants : State :=
  let s := { m1 with
    wgs := [workgroup, { workgroup with key := 2, grid := 7, ref := ⟨0, 1, 0, 0⟩ }]
    grp := { group with phase := .between }
    others := [{ group with wg := 2, phase := .between }]
    pipes := [pipeline 0, { pipeline 0 with tenant := 1, rcb := 0x1100, stages := [{ stage 0 with rcb := 0x2100 }] }] }
  setPart (setTenant (setTenant s 0 0 fun t => { t with tclmask := 1, tways := 1 }) 0 1 fun t => { t with en := true, tclmask := 1, tways := 1 }) 0 fun q =>
    { q with run := true, clmask := 1 }

def mSlice (cur next : Option (Fin 8 × Fin 9)) (since : Nat) (s : State) : State := { s with slices := s.slices.set 0 ⟨cur, since, next⟩, now := 10000000 }

/-- The second tenant's stage is CRIT, with an entry in its queue. -/
def mCritWaits : State :=
  withMem (setTenant (withTables (mSlice (some (0, 0)) none 9999999 { mTenants with pipes := mTenants.pipes.map fun p =>
    if p.tenant = 1 then { p with stages := p.stages.map fun x => { x with prio := 1 } } else p })) 0 1 fun t => { t with ttbr := 0x1000 }) (screedFirst + 4) [1]

def mOut : State := mSlice (some (0, 0)) (some (0, 1)) 0 mTenants

/-- Both members of a checked pair of clusters. -/
def mPair (d : Group) : State :=
  let s := mSlice (some (0, 0)) (some (0, 1)) 0 { mTenants with pipes := [pipeline 2, { pipeline 0 with tenant := 1 }] }
  { s with others := d :: s.others }

def trailer : Group := { group with role := .trail, core := 8, phase := .between }

theorem witness_SlicesAndHalts :
    (let s := mSlice (some (0, 0)) none 9999999 mTenants
     (s.slices[(0 : Fin 32)]).cur = some (0, 0) ∧ (turnsAfter s 0 (0, 0)).filter (critWaits s) = [] ∧
      ¬ (activeOn s 0 (0, 0) = false ∨ (s.slices[(0 : Fin 32)]).since + sliceLen s (0, 0) ≤ s.now) ∧ ∀ w ∈ s.wgs, w.openMig = none) ∧
    (let s := mSlice (some (0, 0)) none 0 mTenants
     (turnsAfter s 0 (0, 0)).filter (critWaits s) = [] ∧ (s.slices[(0 : Fin 32)]).since + sliceLen s (0, 0) ≤ s.now ∧ waitingTurns s 0 (0, 0) = [(0, 1)]) ∧
    (critResident mCritWaits 0 (0, 0) = false ∧ (turnsAfter mCritWaits 0 (0, 0)).filter (critWaits mCritWaits) = [(0, 1)]) ∧
    (mustHalt mOut workgroup = true ∧ groupAt mOut 1 0 .lead = some mOut.grp ∧ AtHaltPoint mOut.grp ∧ ((allGroups mOut).map fun g => (g.wg, g.gid, g.role)).Nodup ∧
      groupAt mOut 1 0 .trail = none ∧ mOut.grp.halted = false ∧ mustHalt mTenants workgroup = false) ∧
    (mustHalt (mPair trailer) workgroup = true ∧ groupAt (mPair trailer) 1 0 .trail = some trailer ∧ trailer.halted = false ∧
      AtHaltPoint trailer ∧ ((allGroups (mPair trailer)).map fun g => (g.wg, g.gid, g.role)).Nodup) ∧
    ((mOut.slices[(0 : Fin 32)]).next = some (0, 1) ∧ ¬ ∀ g ∈ allGroups mOut, g.wg = workgroup.key → g.halted = true ∨ g.phase = .ended) ∧
    (let s := { mOut with grp := { mOut.grp with halted := true }, others := mOut.others.map fun g => { g with halted := true } }
     (∀ w ∈ s.wgs, w.ten = (0, 0) → inCluster s w 0 = true → ∀ g ∈ allGroups s, g.wg = w.key → g.halted = true ∨ g.phase = .ended) ∧ MayResume s ∧
      (∃ w ∈ s.wgs, w.ten = (0, 1) ∧ inCluster s w 0 = true)) :=
  ⟨by decide +kernel, by decide +kernel, by decide +kernel,
   ⟨by decide +kernel, groupAt_grp mOut, by unfold AtHaltPoint; decide +kernel, by and_intros <;> decide +kernel⟩,
   ⟨by decide +kernel, groupAt_next (s := mPair trailer) rfl (by decide +kernel) (by decide +kernel), by decide +kernel,
    by unfold AtHaltPoint; decide +kernel, by decide +kernel⟩, by decide +kernel,
   ⟨by decide +kernel, mayResume_of (by decide +kernel) (by decide +kernel) rfl, ⟨{ workgroup with key := 2, grid := 7, ref := ⟨0, 1, 0, 0⟩ }, by decide +kernel⟩⟩⟩

/-- The workgroup's group has ended; its grid. -/
def mLeave (il : Nat) (f : Workgroup → Workgroup) : State :=
  withTables (up { machine il with
    grp := { group with phase := .ended, c := { group.c with exitM := BitVec.allOnes 32 } }
    wgs := [f workgroup]
    grids := [⟨2, ref0, [], 0, 1, [], 1, false⟩] })

theorem leaving_of {s : State} {x : Workgroup} (h1 : wgOf s x.key = some x ∧ x.key ≠ 0 ∧ (s.wgs.map (·.key)).Nodup)
    (h2 : ∀ g ∈ allGroups s, g.wg = x.key → g.phase = .ended) (h3 : x.kicks = [] ∧ s.homeQ = [] ∧ s.walks = [])
    (h4 : x.finished = false ∧ x.resv = []) (h5 : vfStopped s x.ref.part = false) : Leaving s x :=
  ⟨h1, h2, h3.1, ⟨h3.2.1, by rw [h3.2.2]; intro k hk; cases hk⟩, h4, h5⟩

/-- Entries of a commit buffer: a screed store, a global store, a push to the stage's own queue. -/
def bufferedStore : BufEnt := ⟨.scrSt 0 0x8200 (screedFirst + 0x200) (leBytes 4 77), 4, 4, 1⟩

def bufferedGlobal : BufEnt := ⟨.store 1 0x10100 [0x10100] (leBytes 4 9) 2 1, 4, 4, 2⟩

def bufferedPush : BufEnt := ⟨.push 0 (List.replicate 64 5), 4, 4, 1⟩

/-- An IL1 workgroup that retires, its buffer, and the header of its queue. -/
def mBuf (es : List BufEnt) (resv : Nat) : State :=
  let s := withMem (mLeave 1 id) (screedFirst + 8) (leBytes 4 resv)
  { s with grp := { s.grp with cbuf := es } }

theorem leaving_mBuf (es : List BufEnt) (resv : Nat) : Leaving (mBuf es resv) workgroup :=
  leaving_of (s := mBuf es resv) ⟨rfl, by decide, (by decide +kernel : ((mBuf [] 0).wgs.map (·.key)).Nodup)⟩
    (fun g hg _ => by
      rcases List.mem_cons.1 hg with rfl | hg
      · rfl
      · cases hg) ⟨rfl, rfl, rfl⟩ ⟨rfl, rfl⟩ (by decide +kernel : vfStopped (mBuf [] 0) 0 = false)

theorem witness_WorkgroupRetirement :
    (wgOf (mLeave 0 id) 1 = some workgroup ∧ workgroup.finished = false ∧ Leaving (mLeave 0 id) workgroup ∧ ilOf (mLeave 0 id) workgroup = 0 ∧
      (part (mLeave 0 id) 0).det = false ∧ ((mLeave 0 id).grids.map (·.key)).Nodup ∧ stageOf (mLeave 0 id) ref0 = some (stage 0) ∧
      (∀ w ∈ (mLeave 0 id).wgs, w.grid = 2 → w.pos = workgroup.pos → w = workgroup) ∧ (mLeave 0 id).relaunch = []) ∧
    (∃ g ∈ allGroups m1, g.wg = 1 ∧ g.phase ≠ .ended) :=
  ⟨⟨by decide +kernel, by decide, leaving_of (by decide +kernel) (by decide +kernel) (by decide +kernel) (by decide +kernel) (by decide +kernel),
    by decide +kernel, by decide +kernel, by decide +kernel, by decide +kernel, fun w hw _ _ => List.mem_singleton.1 hw, by decide +kernel⟩,
   ⟨_, grp_mem _, by decide +kernel⟩⟩

theorem witness_BufferedRetirement :
    (let s := mBuf [bufferedStore, bufferedGlobal] 0
     Sound s ∧ Leaving s workgroup ∧ ilOf s workgroup = 1 ∧ (part s 0).det = false ∧
      ((List.finRange 16).filterMap fun i => groupAt s 1 i .lead).flatMap (·.cbuf) = [bufferedStore, bufferedGlobal] ∧
      (∀ e ∈ [bufferedStore, bufferedGlobal], ∀ k bs, e.op ≠ .push k bs) ∧ BlockWrites (bufWrites [bufferedStore, bufferedGlobal])) ∧
    (let s := mBuf [bufferedPush] 4
     Sound s ∧ Leaving s workgroup ∧ ((List.finRange 16).filterMap fun i => groupAt s 1 i .lead).flatMap (·.cbuf) = [bufferedPush] ∧
      stageOf s { ref0 with stage := 0 } = some (stage 1) ∧ QueueAt s ref0 (stage 1) screedFirst ∧ queueFull s (stage 1) screedFirst) ∧
    (let s := mBuf [bufferedPush] 0
     Sound s ∧ Leaving s workgroup ∧ ((List.finRange 16).filterMap fun i => groupAt s 1 i .lead).flatMap (·.cbuf) = [bufferedPush] ∧
      QueueAt s ref0 (stage 1) screedFirst ∧
      (screedWord s (screedFirst + 8) + 2 ^ 32 - screedWord s screedFirst) % 2 ^ 32 < 2 ^ (stage 1).qlog) :=
  ⟨⟨sound_of (by decide +kernel) rfl, leaving_mBuf _ _, by decide +kernel, by decide +kernel, by decide +kernel,
    by simp [bufferedStore, bufferedGlobal], by unfold BlockWrites; decide +kernel⟩,
   ⟨sound_of (by decide +kernel) rfl, leaving_mBuf _ _, by decide +kernel, by decide +kernel,
    queueAt_of ⟨0x8000, 0x1000, screedFirst, true, true, true⟩ 320 rfl (by decide +kernel) (by decide +kernel) (by decide +kernel) (by decide +kernel),
    by unfold queueFull; decide +kernel⟩,
   ⟨sound_of (by decide +kernel) rfl, leaving_mBuf _ _, by decide +kernel,
    queueAt_of ⟨0x8000, 0x1000, screedFirst, true, true, true⟩ 320 rfl (by decide +kernel) (by decide +kernel) (by decide +kernel) (by decide +kernel),
    by decide +kernel⟩⟩

/-- A workgroup of a deterministic partition that has ended, with a write in its buffer; the other of its cohort. -/
def detWg (v : Nat) (w : Workgroup) : Workgroup := { w with det := [(0, .write 0x8200 (screedFirst + 0x200) (leBytes 4 v))], detBytes := 4 }

def mate (done : Bool) : Workgroup := detWg 6 { workgroup with key := 2, curve := 1, finished := done }

def mDet (mates : List Workgroup) : State :=
  let s := mLeave 0 (detWg 5)
  setPart { s with
    wgs := s.wgs ++ mates
    others := mates.filterMap fun w => if w.finished then none else some { group with wg := w.key }
    pipes := [{ pipeline 0 with stages := [{ stage 0 with buflim := 1 }] }] } 0 fun q => { q with det := true }

theorem detWriter_of (s : State) (v : Nat) (w : Workgroup) (h : ((stageOf s w.ref).all fun st => decide (4 ≤ st.buflim * 1024)) = true) :
    DetWriter s (detWg v w) := by
  refine ⟨fun e he => ⟨_, _, _, congrArg Prod.snd (List.mem_singleton.1 he)⟩, fun x hx => ?_, fun st hs => ?_⟩
  · rw [List.mem_singleton.1 (show x ∈ [(screedFirst + 0x200, leBytes 4 v)] from hx)]
    show 0 < 4 ∧ (screedFirst + 0x200) % 16 + 4 ≤ 16 ∧ (inMain (screedFirst + 0x200) = true ∨ inScreed (screedFirst + 0x200) = true)
    decide +kernel
  · have hs' : stageOf s w.ref = some st := hs
    simpa [hs', detWg] using h

theorem witness_DeterministicRetirement :
    (∀ m ∈ [[], [mate false], [mate true]], Sound (mDet m) ∧ Leaving (mDet m) (detWg 5 workgroup) ∧ ilOf (mDet m) (detWg 5 workgroup) = 0 ∧
      (part (mDet m) 0).det = true ∧ ⟨2, ref0, [], 0, 1, [], 1, false⟩ ∈ (mDet m).grids ∧ ((mDet m).grids.map (·.key)).Nodup ∧ (mDet m).relaunch = [] ∧
      (stageOf (mDet m) ref0).isSome = true ∧ (mDet m).wgs.filter (fun w => w.grid == 2) = detWg 5 workgroup :: m ∧
      DetWriter (mDet m) (detWg 5 workgroup)) ∧
    (workgroup.pos ∉ ([] : List Nat) ∧ ∀ k < workgroup.pos, k ∈ ([] : List Nat)) ∧
    ((mate false).finished = false ∧ (mate true).finished = true ∧ DetWriter (mDet [mate true]) (mate true) ∧ (detWg 5 workgroup).curve ≠ (mate true).curve) :=
  ⟨fun m hm => ⟨sound_of (by revert m; decide +kernel) rfl, leaving_of (by revert m; decide +kernel) (by revert m; decide +kernel)
      ⟨rfl, rfl, rfl⟩ (by decide +kernel) (by revert m; decide +kernel), by revert m; decide +kernel, by revert m; decide +kernel,
      by revert m; decide +kernel, by revert m; decide +kernel, rfl, by revert m; decide +kernel, by revert m; decide +kernel,
      detWriter_of _ _ _ (by revert m; decide +kernel)⟩,
   by decide, by decide, by decide, detWriter_of _ _ _ (by decide +kernel), by decide⟩

/-- A checked workgroup: both members at a phase with a screed store in the leading one's buffer, the trailing one as the leading one but for a change. -/
def mChk (x : Phase) (f : Group → Group) : State :=
  let g := { group with phase := x, cbuf := [bufferedStore] }
  up { machine 2 with grp := g, others := [f { g with role := .trail, core := 8, cbuf := [] }] }

def sameGroup (g : Group) : Group := g

def otherLane (g : Group) : Group := { g with c := g.c.setS 1 5 }

def ahead (g : Group) : Group := { g with c := { g.c with icount := 9 } }

theorem leads_mChk (x : Phase) (f : Group → Group) (h : (f { (mChk x f).grp with role := .trail, core := 8, cbuf := [] }).role = .trail) :
    (allGroups (mChk x f)).filter (fun g => g.wg == workgroup.key && g.role == .lead) = [(mChk x f).grp] := by
  have h' : ((mChk x f).others.filter fun g => g.wg == workgroup.key && g.role == .lead) = [] := by
    show ([f _].filter fun g => g.wg == workgroup.key && g.role == .lead) = []
    simp [show (f { group with phase := x, cbuf := [], role := .trail, core := 8 }).role = .trail from h]
  rw [allGroups, List.filter_cons_of_pos rfl, h']

theorem trail_mChk (x : Phase) (f : Group → Group) (h : (f { (mChk x f).grp with role := .trail, core := 8, cbuf := [] }).is 1 0 .trail = true) :
    groupAt (mChk x f) 1 0 .trail = some (f { (mChk x f).grp with role := .trail, core := 8, cbuf := [] }) :=
  groupAt_next (s := mChk x f) rfl (by decide : group.is 1 0 .trail = false) h

theorem agreed_mChk (x : Phase) (hx : x ≠ .inRun) : Agreed (mChk x sameGroup) workgroup := by
  intro g hg _
  rcases List.mem_cons.1 hg with rfl | hg
  · exact ⟨hx, rfl, fun _ => ⟨rfl, _, trail_mChk x sameGroup rfl, rfl, rfl⟩⟩
  · rw [List.mem_singleton.1 hg]
    exact ⟨hx, rfl, fun h => by cases h⟩

theorem screedOnly_mChk (x : Phase) (f : Group → Group) : BlockWrites (bufWrites (mChk x f).grp.cbuf) ∧
    ∀ e ∈ (mChk x f).grp.cbuf, ∃ l va pa bs, e.op = .scrSt l va pa bs ∧ inScreed pa = true :=
  ⟨(by unfold BlockWrites; decide +kernel : BlockWrites (bufWrites [bufferedStore])), fun e he => by
    rw [List.mem_singleton.1 (show e ∈ [bufferedStore] from he)]
    exact ⟨_, _, _, _, rfl, by decide +kernel⟩⟩

/-- At a checkpoint and at retirement: the members agree, differ, or have not both come there. -/
theorem witness_CheckedCommits :
    (let s := mChk (.stalled .commit) sameGroup
     Sound s ∧ wgOf s 1 = some workgroup ∧ workgroup.key ≠ 0 ∧ (s.wgs.map (·.key)).Nodup ∧ ilOf s workgroup = 2 ∧ (part s 0).det = false ∧
      ((allGroups s).map fun g => (g.wg, g.gid, g.role)).Nodup ∧ workgroup.core / 8 / 2 % 16 = (0 : Fin 16).val ∧
      (∀ g ∈ allGroups s, g.wg = 1 → g.core / 8 / 2 % 16 = (0 : Fin 16).val) ∧ (s.pairs[(0 : Fin 16)]).stopped = false ∧ s.homeQ = [] ∧ s.walks = []) ∧
    ((∀ x, ∀ f ∈ [sameGroup, ahead, otherLane], (allGroups (mChk x f)).filter (fun g => g.wg == workgroup.key && g.role == .lead) = [(mChk x f).grp] ∧
      BlockWrites (bufWrites (mChk x f).grp.cbuf) ∧ ∀ e ∈ (mChk x f).grp.cbuf, ∃ l va pa bs, e.op = .scrSt l va pa bs ∧ inScreed pa = true)) ∧
    (let s := mChk (.stalled .commit) sameGroup
     s.grp.wg = 1 ∧ s.grp.role = .lead ∧ s.c.inH = false ∧ Issues s false [] [] ∧ s.c.xpw = none ∧ Agreed s workgroup) ∧
    (let s := mChk (.stalled .commit) ahead
     groupAt s 1 0 .trail = some (ahead { s.grp with role := .trail, core := 8, cbuf := [] }) ∧ (9 : Nat) ≠ s.c.icount.toNat) ∧
    (let s := mChk (.stalled .commit) otherLane
     groupAt s 1 0 .trail = some (otherLane { s.grp with role := .trail, core := 8, cbuf := [] }) ∧ (otherLane s.grp).c ≠ s.c ∧
      (otherLane s.grp).c.icount = s.c.icount ∧ (otherLane s.grp).c.run.pc = s.c.run.pc) ∧
    (Leaving (mChk .ended sameGroup) workgroup ∧ Agreed (mChk .ended sameGroup) workgroup) :=
  ⟨⟨sound_of (by decide +kernel) rfl, by decide +kernel, by decide, by decide +kernel, (by decide +kernel), by decide +kernel, by decide +kernel, by decide,
    (by decide +kernel), by decide +kernel, rfl, rfl⟩,
   fun x f hf => ⟨leads_mChk x f (by
      rcases List.mem_cons.1 hf with rfl | hf
      · rfl
      · rcases List.mem_cons.1 hf with rfl | hf
        · rfl
        · rw [List.mem_singleton.1 hf]; rfl), screedOnly_mChk x f⟩,
   ⟨rfl, rfl, by decide +kernel, issues_of (by decide +kernel), by decide +kernel, agreed_mChk _ (by decide)⟩,
   ⟨trail_mChk _ _ (by decide +kernel), by decide +kernel⟩,
   ⟨trail_mChk _ _ (by decide +kernel), fun h => by have := congrArg (fun c => c.s[(1 : Fin 24)]) h; revert this; decide +kernel, by decide +kernel, by decide +kernel⟩,
   leaving_of (by decide +kernel) (by decide +kernel) ⟨rfl, rfl, rfl⟩ (by decide +kernel) (by decide +kernel), agreed_mChk _ (by decide)⟩

/-! ### Witnesses: tasks, tickets, migrations, the memory system and recovery -/

/-- A COPY record without a barrier: mode, spaces, addresses, row bytes, rows and strides. -/
def copyOf (mode ssp dsp src dst rowb rows sstr dstr : Nat) : List Byte :=
  leBytes 4 1 ++ leBytes 4 0 ++ leBytes 8 0 ++ leBytes 4 0xFFFFFFFF ++ leBytes 4 (ssp + dsp * 4 + mode * 16) ++ leBytes 8 src ++ leBytes 8 dst ++
  leBytes 4 rowb ++ leBytes 4 rows ++ leBytes 4 sstr ++ leBytes 4 dstr ++ leBytes 8 0

/-- A stream of 72 bytes of chunks from local offset 0 into slot 0; and a JOIN. -/
def streamRecord : List Byte := copyOf 2 2 3 0 0 200 1 0 64

def joinRec : List Byte := leBytes 4 3 ++ leBytes 12 0 ++ leBytes 4 0xFFFFFFFF ++ List.replicate 44 0

/-- A MATX record of 128 by 128 elements from slot 0: formats and flags, C, D, the partials' stride and K. -/
def matxOf (w coff doff dstr pstr k : Nat) : List Byte :=
  leBytes 4 2 ++ leBytes 12 0 ++ leBytes 4 0xFFFFFFFF ++ leBytes 4 w ++ leBytes 2 128 ++ leBytes 2 128 ++ leBytes 4 0 ++ leBytes 4 64 ++
  leBytes 4 coff ++ leBytes 4 doff ++ leBytes 4 dstr ++ leBytes 4 pstr ++ leBytes 4 (k * 256) ++ leBytes 8 0

/-- 8-bit integers to s32, row by row; bf16 and e4m3 to f32 in two partials with C in place; f16 and dm8 to dm8 in blocks. -/
def intRec : List Byte := matxOf (13 + 13 * 16 + 9 * 256) 0 0x800 512 0 32

def splitRec : List Byte := matxOf (2 + 4 * 16 + 2 ^ 16 + 2 ^ 17) 0x800 0x800 512 0x10000 64

def blockRec : List Byte := matxOf (1 + 8 * 16 + 8 * 256 + 2 ^ 19) 0 0x800 0 0 32

def taskRec (b : List Byte) (st : TState) : TaskRec := ⟨0x400, b, b, st, 0, st != .pending, 0, 0⟩

def taskOn (e : EngineId) (started : Bool) : EngTask := ⟨e, 1, 5, 0x400, started, 3⟩

def kickOn (b : List Byte) (st : TState) : Kick := ⟨5, 0, 0x400, [taskRec b st]⟩

def wgOn (b : List Byte) (st : TState) : Workgroup := { workgroup with kicks := [kickOn b st] }

/-- A task of a record in an engine's queue; a record that is ready; both of a stage of an integrity level. -/
def mTask (il : Nat) (e : EngineId) (b : List Byte) (started : Bool) : State :=
  awake { machine il with now := 100, wgs := [wgOn b .issued], engq := [taskOn e started] }

def mReady (b : List Byte) : State := awake { m0 with now := 100, wgs := [wgOn b .pending], readyQ := [taskOn (.copy 0) false] }

theorem witness_TaskStarts :
    (∀ b ∈ [copyRec 0 0 0, streamRecord], let s := mTask 0 (.copy 0) b false
     Sound s ∧ s.readyQ = [] ∧ (s.engq.find? fun t => t.eng == .copy 0) = some (taskOn (.copy 0) false) ∧
      runners s (taskOn (.copy 0) false) = [.copy 0] ∧ (unitOf s (engineUnit (.copy 0))).st = .G1 ∧
      creelBusy s (taskOn (.copy 0) false) = false ∧ (∀ t ∈ s.engq, t.eng ≠ .copy 1) ∧ wgOf s 1 = some (wgOn b .issued)) ∧
    (taskBytes (mTask 0 (.copy 0) streamRecord false) (taskOn (.copy 0) false) = streamRecord ∧ rKind streamRecord = 1 ∧ cMode streamRecord = 2 ∧
      cMode (copyRec 0 0 0) = 0) ∧
    (let s := mTask 2 (.copy 0) streamRecord false
     Sound s ∧ runners s (taskOn (.copy 0) false) = [.copy 0, .copy 1] ∧ (∀ x ∈ [EngineId.copy 0, .copy 1], (unitOf s (engineUnit x)).st = .G1) ∧
      creelBusy s (taskOn (.copy 0) false) = false) ∧
    (∀ b ∈ [copyRec 0 0 0, joinRec], Sound (mReady b) ∧ ReadyRecord (mReady b) (taskOn (.copy 0) false) (wgOn b .pending) (taskRec b .pending) ∧
      (mReady b).engq = [] ∧ leNat (b.take 4) / 2 ^ 8 % 16 = 0 ∧ rBar b = 0xFFFFFFFF ∧ (unitOf (mReady b) (engineUnit (.copy 0))).st = .G1) ∧
    (engCluster (.copy 0) = engCluster (.matrix 0 0) ∧ rKind (copyRec 0 0 0) ≠ 3 ∧ rKind joinRec = 3) ∧
    ({ mReady joinRec with now := 14 } : State).now < (taskOn (.copy 0) false).since + 12 := by
  refine ⟨fun b hb => ?_, by decide +kernel, ⟨sound_of (by decide +kernel) rfl, by decide +kernel⟩, fun b hb => ?_, by decide +kernel, by decide +kernel⟩ <;>
    simp only [List.mem_cons, List.not_mem_nil, or_false] at hb <;> obtain rfl | rfl := hb
  all_goals first
    | exact ⟨sound_of (by decide +kernel) rfl, by decide +kernel⟩
    | exact ⟨sound_of (by decide +kernel) rfl, ⟨⟨rfl, rfl⟩, by decide +kernel, by decide +kernel, by decide +kernel⟩, by decide +kernel⟩

theorem running_mTask (e : EngineId) (b : List Byte) (h : leNat (b.take 4) / 2 ^ 8 % 16 = 0) :
    Running (mTask 0 e b true) (taskOn e true) (wgOn b .issued) (kickOn b .issued) (taskRec b .issued) :=
  ⟨by simp [mTask, awake, taskOn], ⟨rfl, (by decide +kernel : ilOf m0 workgroup ≠ 2)⟩, ⟨rfl, rfl⟩, h⟩

theorem reaches_local {s : State} {w : Workgroup} {wr : Bool} {a : Nat} (h : a < w.size) : Reaches s w 2 wr a (.loc a) := by
  simp [Reaches, h]

theorem reaches_far {s : State} {w : Workgroup} {space a : Nat} {wr : Bool} {x : Xl} {pa : Nat} (hs : space ≠ 2) (ha : a < 2 ^ 49) (hc : Covered s w a x)
    (hp : Passes s w (space == 1) wr a pa x) : Reaches s w space wr a (.phys pa) := by
  simp only [Reaches, hs, if_false]
  exact ⟨ha, x, pa, hc, hp, rfl⟩

/-- The end of a COPY of one of these records. -/
def copyEnd (b : List Byte) : State := mTask 0 (.copy 0) b true

/-- Local to local by strides, and gathered by the index at offset 0; a weight stream; global memory to screed. -/
def stridedRec : List Byte := copyOf 0 2 2 0 0x300 4 3 8 16

def gatherRec (rows : Nat) : List Byte := copyOf 1 2 2 0x100 0x300 4 rows 0 16

def farRec : List Byte := copyOf 0 0 1 0x8002 (2 ^ 31 + 0x100) 4 2 16 8

/-- Destinations at which a copy stops at once: beyond the address space, and main memory in place of screed. -/
def beyondRec : List Byte := copyOf 0 2 0 0 (2 ^ 49) 4 1 0 0

def wrongRec : List Byte := copyOf 0 2 1 0 0x8000 4 1 0 0

def allCopies : List (List Byte) := [stridedRec, gatherRec 1, gatherRec 2, streamRecord, farRec, beyondRec, wrongRec]

theorem copyForm_of {b : List Byte} (h : (rKind b == 1 && decide (cSsp b ≤ 2 ∧ cMode b ≤ 2 ∧ (cMode b = 2 ↔ cDsp b = 3)) &&
    decide (cMode b = 2 → cRows b = 1 ∧ 128 ≤ cRowb b)) = true) : CopyForm b := by
  simp only [Bool.and_eq_true, beq_iff_eq, decide_eq_true_eq] at h
  exact ⟨h.1.1, h.1.2, h.2⟩

theorem witness_CopyResults :
    (∀ b ∈ allCopies, Sound (copyEnd b) ∧ Running (copyEnd b) (taskOn (.copy 0) true) (wgOn b .issued) (kickOn b .issued) (taskRec b .issued) ∧
      CopyForm b ∧ rBar b = 0xFFFFFFFF ∧ (copyEnd b).homeQ = [] ∧ (part (copyEnd b) 0).det = false ∧ partVf (copyEnd b) 0 = none) ∧
    (∀ i < 3, ∀ j < 4, Reaches (copyEnd stridedRec) (wgOn stridedRec .issued) 2 false (copyFrom (copyEnd stridedRec) (wgOn stridedRec .issued) stridedRec i j) (.loc (8 * i + j)) ∧
      Reaches (copyEnd stridedRec) (wgOn stridedRec .issued) 2 true (copyTo stridedRec i j) (.loc (0x300 + 16 * i + j))) ∧
    (∀ j < 4, Reaches (copyEnd (gatherRec 1)) (wgOn (gatherRec 1) .issued) 2 false (copyFrom (copyEnd (gatherRec 1)) (wgOn (gatherRec 1) .issued) (gatherRec 1) 0 j) (.loc (2308 + j)) ∧
      Reaches (copyEnd (gatherRec 1)) (wgOn (gatherRec 1) .issued) 2 true (copyTo (gatherRec 1) 0 j) (.loc (0x300 + j))) ∧
    (Stops (copyEnd (gatherRec 2)) (wgOn (gatherRec 2) .issued) 2 false (copyFrom (copyEnd (gatherRec 2)) (wgOn (gatherRec 2) .issued) (gatherRec 2) 1 0) (2 ^ 10)) ∧
    (∀ j < 200, Reaches (copyEnd streamRecord) (wgOn streamRecord .issued) 2 false (copyFrom (copyEnd streamRecord) (wgOn streamRecord .issued) streamRecord 0 j) (.loc j)) ∧
    (∀ i < 2, ∀ j < 4, Reaches (copyEnd farRec) (wgOn farRec .issued) 0 false (copyFrom (copyEnd farRec) (wgOn farRec .issued) farRec i j) (.phys (0x8002 + 16 * i + j)) ∧
      Reaches (copyEnd farRec) (wgOn farRec .issued) 1 true (copyTo farRec i j) (.phys (screedFirst + 0x100 + 8 * i + j))) ∧
    (Stops (copyEnd beyondRec) (wgOn beyondRec .issued) 0 true (copyTo beyondRec 0 0) (2 ^ 5) ∧
      Stops (copyEnd wrongRec) (wgOn wrongRec .issued) 1 true (copyTo wrongRec 0 0) (2 ^ 6)) ∧
    ((allCopies.map fun b => (cMode b, cSsp b, cDsp b, cRows b, cRowb b)) =
      [(0, 2, 2, 3, 4), (1, 2, 2, 1, 4), (1, 2, 2, 2, 4), (2, 2, 3, 1, 200), (0, 0, 1, 2, 4), (0, 2, 0, 1, 4), (0, 2, 1, 1, 4)]) := by
  refine ⟨fun b hb => ?_, fun i hi j hj => ?_, fun j hj => ?_, ?_, fun j hj => ?_, fun i hi j hj => ?_, ⟨?_, ?_⟩, by decide +kernel⟩
  · refine ⟨sound_of (by revert b; decide +kernel) rfl, running_mTask _ _ (by revert b; decide +kernel), copyForm_of (by revert b; decide +kernel), ?_⟩
    revert b; decide +kernel
  · have h : copyFrom (copyEnd stridedRec) (wgOn stridedRec .issued) stridedRec i j = 8 * i + j ∧ copyTo stridedRec i j = 0x300 + 16 * i + j := by
      revert i j; decide +kernel
    rw [h.1, h.2]
    exact ⟨reaches_local (show 8 * i + j < 4096 by omega), reaches_local (show 0x300 + 16 * i + j < 4096 by omega)⟩
  · have h : copyFrom (copyEnd (gatherRec 1)) (wgOn (gatherRec 1) .issued) (gatherRec 1) 0 j = 2308 + j ∧ copyTo (gatherRec 1) 0 j = 0x300 + j := by
      revert j; decide +kernel
    rw [h.1, h.2]
    exact ⟨reaches_local (show 2308 + j < 4096 by omega), reaches_local (show 0x300 + j < 4096 by omega)⟩
  · simp only [Stops, if_true]
    decide +kernel
  · have h : copyFrom (copyEnd streamRecord) (wgOn streamRecord .issued) streamRecord 0 j = j := by revert j; decide +kernel
    rw [h]
    exact reaches_local (show j < 4096 by omega)
  · have h : copyFrom (copyEnd farRec) (wgOn farRec .issued) farRec i j = 0x8002 + 16 * i + j ∧ copyTo farRec i j = 2 ^ 31 + 0x100 + 8 * i + j := by
      revert i j; decide +kernel
    rw [h.1, h.2]
    clear h
    exact ⟨reaches_far (x := ⟨0, 2 ^ 30, 0, true, true, true⟩) (by decide) (by omega) (by unfold Covered; revert i j; decide +kernel)
        (by unfold Passes; revert i j; decide +kernel),
      reaches_far (x := ⟨2 ^ 31, 2 ^ 21, screedFirst, true, true, true⟩) (by decide) (by omega) (by unfold Covered; revert i j; decide +kernel)
        (by unfold Passes; revert i j; decide +kernel)⟩
  · exact .inl (by decide +kernel)
  · refine .inr ⟨by decide +kernel, rfl, ⟨0, 2 ^ 30, 0, true, true, true⟩, by unfold Covered; decide +kernel, ?_⟩
    rintro pa ⟨rfl, -, -, -, -, h, -⟩
    revert h; decide +kernel

theorem matxForm_of {b : List Byte} (h : decide (rKind b = 2 ∧ (mKs b ≤ 2 ∧ 0 < Machine.mK b ∧ Machine.mK b % 32 = 0) ∧ (mM b % 128 = 0 ∧ mN b % 128 = 0) ∧
    ((1 ≤ mAf b ∧ mAf b ≤ 8 ∧ 1 ≤ mBf b ∧ mBf b ≤ 8 ∧ (mDf b ≤ 4 ∨ mDf b = 8)) ∨
      ((mAf b = 13 ∨ mAf b = 15) ∧ (mBf b = 13 ∨ mBf b = 15) ∧ mDf b = 9))) = true) : MatxForm b := by
  rw [decide_eq_true_eq] at h
  exact ⟨h.1, h.2.1, h.2.2.1, h.2.2.2⟩

/-- The bytes of B that the manual gives exist, whatever the slot holds. -/
theorem bytesOfB (valid : Prop) (n : Nat) (data : Nat → Byte) :
    ∃ g : Nat → Byte, ∀ x, (valid ∧ x < n → g x = data x) ∧ (¬ (valid ∧ x < n) → g x = 0) := by
  classical
  exact ⟨fun x => if valid ∧ x < n then data x else 0, fun x => ⟨fun h => if_pos h, fun h => if_neg h⟩⟩

theorem witness_MatrixResults :
    (∀ b ∈ [intRec, splitRec, blockRec], Sound (mTask 0 (.matrix 0 0) b true) ∧ MatxForm b ∧ rBar b = 0xFFFFFFFF ∧
      Running (mTask 0 (.matrix 0 0) b true) (taskOn (.matrix 0 0) true) (wgOn b .issued) (kickOn b .issued) (taskRec b .issued)) ∧
    ([intRec, splitRec, blockRec].map (fun b => (mLay b, [mAf b, mBf b, mDf b, mKs b, Machine.mK b, mM b, mN b, mDoff b, mDstr b, mPstr b])) =
      [(false, [13, 13, 9, 0, 32, 128, 128, 0x800, 512, 0]), (false, [2, 4, 0, 1, 64, 128, 128, 0x800, 512, 0x10000]),
       (true, [1, 8, 8, 0, 32, 128, 128, 0x800, 0, 0])] ∧
      mCen intRec = false ∧ mCen blockRec = false ∧ mCen splitRec = true ∧ mCoff splitRec = mDoff splitRec) ∧
    (∀ q i j q' i' j', q < 2 → i < 128 → j < 128 → q' < 2 → i' < 128 → j' < 128 → (q, i, j) ≠ (q', i', j') →
      (let cell (q i j : Nat) := 0x800 + q * 0x10000 + (i * 512 + j * 4)
       (cell q i j + 4 ≤ cell q' i' j' ∨ cell q' i' j' + 4 ≤ cell q i j) ∧ 0x408 ≤ cell q i j) ∧
      (q = q' → let cell (i j : Nat) := 0x800 + ((i / 128 * (128 / 128) + j / 128) * 16384 + i % 128 * 128 + j % 128)
        (cell i j + 1 ≤ cell i' j' ∨ cell i' j' + 1 ≤ cell i j) ∧ 0x408 ≤ cell i j)) := by
  refine ⟨fun b hb => ?_, by decide +kernel, fun q i j q' i' j' hq hi hj hq' hi' hj' h => ?_⟩
  · exact ⟨sound_of (by revert b; decide +kernel) rfl, matxForm_of (by revert b; decide +kernel), by revert b; decide +kernel,
      running_mTask _ _ (by revert b; decide +kernel)⟩
  · have : q ≠ q' ∨ i ≠ i' ∨ j ≠ j' := by
      by_contra hc
      exact h (by simp_all)
    exact ⟨by dsimp only; omega, fun _ => by dsimp only; omega⟩

/-- The ticket at an address holds 5; a pass and an ordw wait at it. -/
def mHeld (k : HeldKind) (rank : Nat) : State :=
  { withMem m1 (screedFirst + 16) (leBytes 4 5 ++ leBytes 4 0x80000001) with held := [⟨1, (0, 0), screedFirst + 16, rank, k⟩] }

theorem witness_HeldTickets :
    (∀ rank ∈ [4, 5], Sound (mHeld .pass rank) ∧ (mHeld .pass rank).held[0]? = some ⟨1, (0, 0), screedFirst + 16, rank, .pass⟩) ∧
    screedWord (mHeld .pass 5) (screedFirst + 16) = 5 ∧
    (let s := mHeld (.ordw 0 97) 5
     Sound s ∧ groupAt s 1 0 .lead = some s.grp ∧ ((allGroups s).map fun g => (g.wg, g.gid, g.role)).Nodup ∧ s.grp.fwd = []) :=
  ⟨fun rank h => ⟨sound_of (by revert rank; decide +kernel) rfl, rfl⟩, by decide +kernel, sound_of (by decide +kernel) rfl,
   groupAt_grp (mHeld (.ordw 0 97) 5), by decide +kernel, rfl⟩

/-- A pick record that carries a register of each kind, and a group whose lanes wait in a mig for a slot of the other class. -/
def pickMig : PickRec := { cls := .shuttle, n := 5, stage := 0, pc := 0x70, other := 0x90, carry := 2, entries := [(0, 3, 4), (1, 97, 98), (2, 1, 2)] }

def attempt (arrived : List (Fin 16)) (st : MigState) : MigAttempt := ⟨1, 5, .beam, arrived, 10, st⟩

def mMig (a : MigAttempt) (kicks : List Kick) (migdl : Nat) : State :=
  { m1 with
    now := 5000
    grp := { group with
      phase := .between, c := { group.c with waitM := 0xFFFFFFFF, migM := 0xFFFFFFFF, migW := Vector.replicate 32 ⟨5, .beam, 97, 0x70⟩ } }
    wgs := [{ workgroup with mig := [a], kicks := kicks }]
    pipes := [{ pipeline 0 with picks := pickMig :: (pipeline 0).picks, stages := [{ stage 0 with migdl := migdl }] }] }

theorem attempting_of {s : State} {w : Workgroup} {st : Stage} {a : MigAttempt} (h1 : wgOf s w.key = some w ∧ stageOf s w.ref = some st) (h2 : w.mig = [a] ∧ a.st = .opened)
    (h3 : ((allGroups s).map fun g => (g.wg, g.gid, g.role)).Nodup ∧ (s.wgs.map (·.key)).Nodup ∧ ((allGroups s).all fun g => g.role == .lead) = true)
    (h4 : a.since ≤ s.now) : Attempting s w st a :=
  ⟨h1, h2, ⟨h3.1, h3.2.1, fun g hg _ => by simpa using List.all_eq_true.mp h3.2.2 g hg⟩, h4⟩

theorem witness_Migrations :
    (let s := mMig (attempt [0] .opened) [] 0
     Attempting s (wgK s) (stage 0) (attempt [0] .opened) ∧ (∀ g ∈ allGroups s, g.wg = 1 → g.phase = .ended ∨ g.gid ∈ (attempt [0] .opened).arrived) ∧
      (wgK s).kicks = [] ∧ (stage 0).migdl = 0 ∧ mustHalt s (wgK s) = false ∧
      (2 % 8 < 6 ∧ 2 / 8 = (wgK s).core / 8 ∧ (if 2 % 8 < 2 then CoreClass.shuttle else .beam) = .beam ∧ (stage 0).hasImage .beam = true ∧
        roomOn s (wgK s).ten (stage 0) 2 = true ∧ (stage 0).vlim = 0) ∧
      (unitOf s (coreUnit 2)).awake = false ∧ (unitOf s (coreUnit 2)).waking = false ∧ s.wakeQ = [] ∧ (unitOf (awake s) (coreUnit 2)).awake = true ∧
      pickRec { s with wgs := s.wgs.map fun v => { v with mig := [{ attempt [0] .opened with st := .granted 2 }] } } (wgK s) 5 = some pickMig) ∧
    (let s := mMig (attempt [] .opened) [] 0
     Attempting s (wgK s) (stage 0) (attempt [] .opened) ∧ ¬ ∀ g ∈ allGroups s, g.wg = 1 → g.phase = .ended ∨ g.gid ∈ (attempt [] .opened).arrived) ∧
    (let s := mMig (attempt [0] .opened) [] 1
     Attempting s (wgK s) { stage 0 with migdl := 1 } (attempt [0] .opened) ∧ ¬ s.now < 10 + 1200 * 1 ∧ (attempt [0] .opened).arrived.Nodup) ∧
    (let s := mMig (attempt [0] .opened) [⟨1, 0, 0, []⟩] 0
     Attempting s (wgK s) (stage 0) (attempt [0] .opened) ∧ (wgK s).kicks ≠ []) ∧
    ((pickMig.entries.map fun e => (e.1, e.2.2)).Nodup ∧ ∀ e ∈ pickMig.entries, e.1 ≤ 2 ∧ (e.1 = 2 → e.2.2 < 64)) :=
  ⟨⟨attempting_of ⟨rfl, rfl⟩ ⟨rfl, rfl⟩ (by decide +kernel) (by decide +kernel), by decide +kernel, rfl, rfl, by decide +kernel, by decide +kernel, by decide +kernel,
    by decide +kernel, rfl, by decide +kernel, rfl⟩,
   ⟨attempting_of ⟨rfl, rfl⟩ ⟨rfl, rfl⟩ (by decide +kernel) (by decide +kernel), by decide +kernel⟩,
   ⟨attempting_of ⟨rfl, rfl⟩ ⟨rfl, rfl⟩ (by decide +kernel) (by decide +kernel), by decide +kernel, by decide +kernel⟩,
   ⟨attempting_of ⟨rfl, rfl⟩ ⟨rfl, rfl⟩ (by decide +kernel) (by decide +kernel), by decide +kernel⟩, by decide +kernel, by decide +kernel⟩

/-- Two requests of a line at their home, in order. -/
def mHome : State :=
  { m1 with homeQ := [⟨0, 1, 0, 4, .store 2 514 [9, 8, 7]⟩, ⟨1, 1, 0, 4, .fetch 0⟩] }

/-- A store whose page walk is under way, with two lanes. -/
def walkOf (va : Nat) : Machine.Walk :=
  { core := 0, wg := 1, gid := 0, npc := 3, twin := 4, size := 2, pol := 2, scp := 1, one := false, stuck := false,
    lanes := [⟨0, BitVec.ofNat 64 va, [1, 2, 3, 4]⟩, ⟨5, BitVec.ofNat 64 (va + 4), [5, 6, 7, 8]⟩] }

def mWalk (va : Nat) (sfq : List SfEnt) : State := { withTables m1 with tlb := [], walks := [walkOf va], sfq := sfq }

/-- A result of long latency that returns. -/
def result (scalar : Bool) : Arrival :=
  ⟨if scalar then 97 else 3, 2, scalar, 0xF0F0, Vector.ofFn fun l => BitVec.ofNat 128 (l.val * 77), 5, 6, false, false⟩

def mResult (scalar : Bool) : State := { m1 with grp := { m1.grp with arr := [result scalar] } }

theorem witness_MemorySystemTurns :
    (Sound m1 ∧ m1.homeQ[0]? = none ∧ m1.walks[0]? = none) ∧
    (Sound mHome ∧ mHome.homeQ[0]? = some ⟨0, 1, 0, 4, .store 2 514 [9, 8, 7]⟩ ∧
      (∃ r', mHome.homeQ[1]? = some r' ∧ r'.line = (4 : Nat)) ∧ wgOf mHome 1 = some workgroup ∧
      (∀ f, partVf mHome workgroup.ref.part = some f → (mHome.vfs[f]).tracking = false) ∧ inMain 514 = true ∧ 514 % 128 + [9, 8, 7].length ≤ 128) ∧
    (∀ va ∈ [0x10008, 0x20008], Sound (mWalk va []) ∧ (mWalk va []).walks[0]? = some (walkOf va) ∧ wgOf (mWalk va []) (walkOf va).wg = some workgroup ∧
      (mWalk va []).walks.count (walkOf va) = 1 ∧ ilOf (mWalk va []) workgroup ≠ 2 ∧ (part (mWalk va []) 0).det = false) ∧
    ((walkLanes (mWalk 0x10008 []) (walkOf 0x10008) workgroup (walkOf 0x10008).lanes).2 =
        (walkOf 0x10008).lanes.map (fun l => (l, .ok (0x10008 + 4 * (l.lane.val / 5)))) ∧ (walkOf 0x10008).pol ≠ 0 ∧
      ∀ l ∈ (walkOf 0x10008).lanes, inMain (0x10008 + 4 * (l.lane.val / 5)) = true) ∧
    ((walkLanes (mWalk 0x20008 []) (walkOf 0x20008) workgroup (walkOf 0x20008).lanes).2 = (walkOf 0x20008).lanes.map (fun l => (l, .error 0x13)) ∧
      ((mWalk 0x20008 []).sfq.filter fun e => e.core == (walkOf 0x20008).core).length < 16 ∧
      (∃ g ∈ allGroups (mWalk 0x20008 []), g.wg = 1 ∧ g.gid = 0 ∧ g.role = .lead ∧ g.phase ≠ .ended) ∧
      16 ≤ ((mWalk 0x20008 (List.replicate 16 sfe)).sfq.filter fun e => e.core == (walkOf 0x20008).core).length) ∧
    ∀ b, groupAt (mResult b) 1 0 .lead = some (mResult b).grp ∧ ((allGroups (mResult b)).map fun g => (g.wg, g.gid, g.role)).Nodup ∧
      (mResult b).grp.arr = result b :: [] ∧ ((result b).nregs ≤ 4 ∧
        if (result b).scalar then isS (result b).reg = true ∧ isS ((result b).reg + (result b).nregs - 1) = true else (result b).reg + (result b).nregs ≤ 96) :=
  ⟨⟨sound_of (by decide +kernel) rfl, rfl, rfl⟩,
   ⟨sound_of (by decide +kernel) rfl, rfl, ⟨_, rfl, rfl⟩, rfl, by decide +kernel, by decide +kernel, by decide⟩,
   fun va h => ⟨sound_of (by revert va; decide +kernel) rfl, rfl, rfl, by revert va; decide +kernel, by revert va; decide +kernel, by revert va; decide +kernel⟩,
   ⟨by decide +kernel, by decide, by decide +kernel⟩,
   ⟨by decide +kernel, by decide +kernel, ⟨_, grp_mem _, by decide +kernel⟩, by decide +kernel⟩,
   fun b => ⟨groupAt_grp (mResult b), by revert b; decide +kernel, rfl, by revert b; decide +kernel⟩⟩

/-- A checked workgroup beside a plain one of another tenant and domain, with snapshots and an event to compare. -/
def event : CmpEvent := { kind := 1, npc := 0x44, twin := 3, items := [], lpcs := [], exitM := 0, waitM := 0 }

def withSnap (g : Group) : Group := { g with snap := some ⟨{ g.c with icount := 77 }, [], .between, 0⟩ }

def mTwins (cmp : List CmpEvent) : State :=
  up { machine 2 with
    grp := withSnap { group with cmp := cmp }
    others := [withSnap { group with role := .trail, core := 8 }, { group with wg := 2, core := 16 }]
    wgs := [workgroup, { workgroup with key := 2, ref := ⟨0, 1, 0, 0⟩, core := 16 }]
    pipes := [pipeline 2, { pipeline 0 with tenant := 1, rcb := 0x1100, stages := [{ stage 0 with rcb := 0x2100, fdom := 1 }] }]
    now := 4000000 }

def mismatchOf (count : Nat) : Mismatch :=
  { wg := 1, gid := 0, action := 0, lane := 0, slot := 0, core := 0, field := 0, kind := 6, npc := 0x44, twin := 0, ckpt := 0, count := count, lead := 0,
    trail := 0, cycle := 0 }

/-- The pair stopped; its clusters under self-test. -/
def withPair (f : Pair → Pair) (s : State) : State := { s with pairs := s.pairs.set 0 (f s.pairs[0]) }

def mStopped (count : Nat) (rolled : Bool) : State :=
  withPair (fun p => { p with stopped := true, formed := true, rolled := rolled, mis := some (mismatchOf count) }) (mTwins [])

def mTest (spares : Nat) : State :=
  let s := mTwins []
  withPair (fun p => { p with testing := true, testAt := 10, recPa := 0x7000 }) { s with
    grp := Group.empty
    others := []
    wgs := s.wgs.drop 1
    place := { s.place with susp := 3, suspd := 3 }
    policy := { s.policy with spares := spares } }

theorem witness_CheckedPairRecovery :
    (let s := mTwins [event]
     Sound s ∧ (s.wgs.map (·.key)).Nodup ∧ ((allGroups s).map fun g => (g.wg, g.gid, g.role)).Nodup ∧ wgOf s 1 = some workgroup ∧
      groupAt s 1 0 .lead = some s.grp ∧ s.grp.core / 8 = workgroup.core / 8 ∧ CheckedOn s 0 workgroup ∧ s.grp.wg ≠ 0 ∧ s.grp.cmp = event :: [] ∧
      (s.pairs[(0 : Fin 16)]).stopped = false) ∧
    (let s := mStopped 1 false
     Sound s ∧ (s.wgs.map (·.key)).Nodup ∧ ((allGroups s).map fun g => (g.wg, g.gid, g.role)).Nodup ∧ (s.pairs[(0 : Fin 16)]).stopped = true ∧
      (s.pairs[(0 : Fin 16)]).mis = some (mismatchOf 1) ∧ (mismatchOf 1).action = 0 ∧ wgOf s (mismatchOf 1).wg = some workgroup ∧
      ¬ ((∃ x ∈ workgroup.mism.take (workgroup.mism.length - 1), x = ⟨6, 0x44, 0⟩) ∨ s.policy.retry < (mismatchOf 1).count ∨
        (workgroup.ckpt = 0 ∧ workgroup.visible = true)) ∧ s.grp.snap = some ⟨{ group.c with icount := 77 }, [], .between, 0⟩) ∧
    ((mStopped 5 false).policy.retry < (mismatchOf 5).count) ∧
    (((mStopped 1 true).pairs[(0 : Fin 16)]).rolled = true ∧ CheckedOn (mStopped 1 true) 0 workgroup ∧ workgroup.finished = false) ∧
    (let s := mTest 2
     Sound s ∧ (s.pairs[(0 : Fin 16)]).testing = true ∧ (s.pairs[(0 : Fin 16)]).testAt + 3000000 ≤ s.now ∧
      (∀ x ∈ [(0 : Fin 32), 1], (∀ g ∈ allGroups s, g.core / 8 % 32 ≠ x.val ∨ g.wg = 0 ∨ g.halted = true ∨ g.phase = .ended) ∧
        (∀ t ∈ s.engq, engCluster t.eng ≠ x) ∧ ∀ w ∈ s.wgs, inCluster s w x = false) ∧ s.homeQ = [] ∧ 0 < s.policy.spares ∧
      s.place.phfault.getLsbD 32 = false ∧ (∀ i : Fin 32, (s.place.cl[i]).toNat ≠ 32) ∧
      (∀ y < 32, s.place.phfault.getLsbD y = true ∨ ∃ i : Fin 32, (s.place.cl[i]).toNat = y) ∧ (s.place.cl[(0 : Fin 32)]).toNat < 34 ∧
      (s.pairs[(0 : Fin 16)]).recPa ≠ 0 ∧ (s.pairs[(0 : Fin 16)]).recPa % 64 = 0 ∧ inMain (s.pairs[(0 : Fin 16)]).recPa = true) ∧
    (mTest 0).policy.spares = 0 :=
  ⟨⟨sound_of (by decide +kernel) rfl, by decide +kernel, by decide +kernel, rfl, groupAt_grp (mTwins [event]), by decide,
    ⟨List.mem_cons_self, by decide +kernel, by decide⟩, by decide +kernel, rfl, by decide +kernel⟩,
   ⟨sound_of (by decide +kernel) rfl, by decide +kernel, by decide +kernel, by decide +kernel, (by decide +kernel), by decide, rfl, by decide +kernel, rfl⟩,
   by decide +kernel, ⟨by decide +kernel, ⟨List.mem_cons_self, by decide +kernel, by decide⟩, rfl⟩,
   ⟨sound_of (by decide +kernel) rfl, by and_intros <;> decide +kernel⟩, by decide +kernel⟩

/-- An IL1 workgroup whose abort is followed by another launch. -/
def mAgain : State := { m1 with pipes := [pipeline 1], policy := { m1.policy with il1re := true, il1lim := 1 } }

theorem witness_UncorrectableErrors :
    (Sound m1 ∧ (m1.wgs.map (·.key)).Nodup ∧ (m1.domains[storageDomain m1 0x2000]).en = false ∧ wgOf m1 1 = some workgroup ∧ ilOf m1 workgroup = 0 ∧
      m1.grp.role = .lead ∧ curWg m1 = some workgroup ∧ m1.grp.wg ≠ 0 ∧ m1.grp.phase = .inRun ∧ m1.c.inH = false ∧
      handlerOf m1 = some { cls := .shuttle, n := handlerPick, stage := 0, pc := 0x40, other := 0, carry := 0, entries := [] }) ∧
    (groupAt (mResult false) 1 0 .lead = some (mResult false).grp ∧ (mResult false).grp.arr = result false :: [] ∧
      ((allGroups (mResult false)).map fun g => (g.wg, g.gid, g.role)).Nodup ∧ ilOf (mResult false) workgroup ≠ 2) ∧
    (Sound mAgain ∧ ilOf mAgain workgroup = 1 ∧ mAgain.policy.il1re = true ∧ workgroup.reruns < mAgain.policy.il1lim ∧ workgroup.atomic = false ∧
      mAgain.grp.wg = 1) ∧
    (let s := mTwins []
     ilOf s workgroup = 2 ∧ ((allGroups s).map fun g => (g.wg, g.gid, g.role)).Nodup ∧ workgroup.core / 8 / 2 % 16 = (0 : Fin 16).val ∧
      (s.pairs[(0 : Fin 16)]).stopped = false ∧ s.grp.core / 8 / 2 % 16 = (0 : Fin 16).val ∧ groupAt s 1 0 .lead = some s.grp ∧
      groupAt s 1 0 .trail = some (withSnap { group with role := .trail, core := 8 }) ∧ s.grp.gid = 0 ∧
      (handlerOf s).isSome = true ∧ ∀ x ∈ [s.grp, withSnap { group with role := .trail, core := 8 }], x.phase = .inRun ∧ x.c.inH = false) :=
  ⟨⟨sound_of (by decide +kernel) rfl, by decide +kernel, by decide +kernel, rfl, by decide +kernel, rfl, rfl, by decide +kernel, rfl, by decide +kernel,
    by decide +kernel⟩,
   ⟨groupAt_grp (mResult false), rfl, by decide +kernel, by decide +kernel⟩,
   ⟨sound_of (by decide +kernel) rfl, by decide +kernel, by decide +kernel, by decide +kernel, rfl, rfl⟩,
   ⟨by decide +kernel, by decide +kernel, by decide, (by decide +kernel), by decide +kernel, groupAt_grp (mTwins []),
    groupAt_next (s := mTwins []) rfl (by decide +kernel) (by decide +kernel), rfl, by decide +kernel, by decide +kernel⟩⟩

/-! ### Witnesses: further clauses of the statements -/

theorem witness_HighPredicates : Plain m0 {} ∧ (m0.c.run.pos < 24 ∧ m0.c.inH = false ∧ feature m0 0 = true ∧ 1 ≤ m0.c.part.toNat ∧ m0.c.part.toNat ≤ 5 ∧
    isV 97 = false ∧ isS 1 = false) ∧ (∀ a ∈ [(64 : BitVec 7), 127], 64 ≤ a.toNat) ∧ ¬ Plain (withXp m0 4 127 0) {} ∧
    ((0xA0000035 : Word).extractLsb' 0 7 = 0x35 ∧ 5 ≤ ((0xA0000035 : Word).extractLsb' 29 3).toNat ∧ (0x00400035 : Word).extractLsb' 0 7 = 0x35 ∧
      (0x00400035 : Word).extractLsb' 22 7 ≠ 0) :=
  ⟨⟨by decide +kernel, by decide +kernel⟩, by decide +kernel, by decide +kernel, fun h => absurd h.1 (by decide +kernel), by decide +kernel⟩

theorem witness_RoundedValues : floatFields 0 = some (8, 23) ∧ floatFields 1 = some (5, 10) ∧ floatFields 2 = some (8, 7) ∧ (0 : Nat) < 3 ∧ (15 : Nat) < 16 := by
  decide

theorem witness_SpecialFunctionValues : finiteCode 0 0x40400000 ∧ codeValue 0 0x40400000 ≠ 0 ∧ 0 < codeValue 0 0x40400000 :=
  have h : codeValue 0 0x40400000 = 3 := by
    have e : (0x40400000 : Nat) / 2 ^ (8 + 23) % 2 = 0 := by decide +kernel
    have m : fieldMag 8 23 0x40400000 = 3 := by
      have a : (0x40400000 : Nat) / 2 ^ 23 % 2 ^ 8 = 128 := by decide +kernel
      have b : (0x40400000 : Nat) % 2 ^ 23 = 4194304 := by decide +kernel
      simp only [fieldMag, a, b]
      norm_num
    simp [codeValue, floatFields, e, m]
  ⟨by simp only [finiteCode, floatFields]; decide +kernel, by rw [h]; norm_num, by rw [h]; norm_num⟩

/-- The members of a checked pair at an atomic to local memory: the leading one, and the trailing one with the events that the leading one keeps. -/
def mLead : State := { mL (4 * ·) 0 with pipes := [pipeline 2] }

def mTrail (cmp : List CmpEvent) : State :=
  { mLead with grp := { mLead.grp with role := .trail, core := 8 }, others := [{ mLead.grp with cmp := cmp }] }

theorem witness_CheckedAtomics :
    (∀ s ∈ [mLead, mTrail []], curWg s = some workgroup ∧ s.grp.phase = .inRun ∧ s.homeQ = [] ∧ s.walks = [] ∧ s.early = [] ∧ s.memWf = true ∧ s.hed = [] ∧
      curIl s = 2) ∧
    (mLead.grp.role = .lead ∧ (mTrail []).grp.role = .trail) ∧
    (∀ r ∈ atomicRows, r.cas = false → AtomicIssues mLead r 5 6 1 true ∧ AtomicIssues (mTrail []) r 5 6 1 true ∧
      let event := atomicEvent (mTrail []) r 6 (acting m0 true) (localEa (mTrail []).c 5 0) 0 1
      event = atomicEvent (mTrail [event]) r 6 (acting m0 true) (localEa (mTrail [event]).c 5 0) 0 1 ∧
      (partner (mTrail [event])).map (·.cmp) = some [event]) ∧
    (partner (mTrail [])).map (·.cmp) = some [] ∧ ((allGroups (mTrail [])).map fun g => (g.wg, g.gid, g.role)).Nodup ∧
    ((∀ l ∈ acting m0 true, (localEa (mL (fun l => 4096 + 4 * l - 8) 0).c 5 0 l).toNat % 4 = 0) ∧
      (acting m0 true).filter (fun l => (locTarget (mL (fun l => 4096 + 4 * l - 8) 0) true 4 (localEa (mL (fun l => 4096 + 4 * l - 8) 0).c 5 0 l)).isNone) =
        (List.finRange 32).drop 2) := by
  refine ⟨?_, by decide +kernel, fun r _ h => ⟨?_, ?_, rfl, rfl⟩, rfl, by decide +kernel, by decide +kernel⟩
  · intro s hs
    rcases List.mem_cons.1 hs with rfl | hs
    · exact ⟨by decide +kernel, rfl, rfl, rfl, rfl, by decide +kernel⟩
    · rw [List.mem_singleton.1 hs]
      exact ⟨by decide +kernel, rfl, rfl, rfl, rfl, by decide +kernel⟩
  · unfold AtomicIssues; rw [h]
    exact ⟨by decide +kernel, fun _ => by decide +kernel, fun _ => by decide +kernel, issues_of (by decide +kernel)⟩
  · unfold AtomicIssues; rw [h]
    exact ⟨by decide +kernel, fun _ => by decide +kernel, fun _ => by decide +kernel, issues_of (by decide +kernel)⟩

/-- Bytes of the block at 0x8000 were taken early for the group. -/
def mEarly : State := { mG 0x8000 4 with early := [⟨0, 1, 0, 0x800, List.replicate 16 5⟩] }

theorem witness_EarlyValues :
    PlainAccess { mEarly with early := [] } workgroup ∧ Sound mEarly ∧ mEarly.grp.role = .lead ∧ mEarly.grp.wg ≠ 0 ∧
    (peekPa mEarly 0x8000 = some 0x8000 ∧ (probe mEarly .load (BitVec.ofNat 64 0x8000)).2 = .ok 0x8000 ∧ inMain 0x8000 = true) ∧
    (mEarly.c.xp.c = 127 ∧ kindVec mEarly.c false 104 [106] = false ∧ mEarly.c.goes = true) ∧ Issues mEarly false [(106, 2)] (dst false 104 1) ∧
    Translates mEarly .load [0] (globalAt mEarly 106 0) (fun _ => 0x8000) 4 ∧ CopiesCurrent mEarly mEarly.grp.core ∧
    earlyAt mEarly 0x8000 = some ⟨0, 1, 0, 0x800, List.replicate 16 5⟩ :=
  ⟨plain_of (by decide +kernel), sound_of (by decide +kernel) rfl, rfl, by decide, by decide +kernel, by decide +kernel, issues_of (by decide +kernel),
   ⟨by decide +kernel, by decide +kernel⟩, current_of _ rfl, by decide +kernel⟩

/-- Lanes from the last bytes of a page on: the next page of main memory is of another world, and behind the screed window none is mapped. -/
def mFar (sfq : List SfEnt) : State :=
  { mG 0x8FF0 4 with
    cfg := { m0.cfg with regions := [⟨9, 0x100, true⟩] }
    tlb := [⟨.core 0, 0, 0, 0x8000, 0x1000, 0x8000, true, true, true⟩, ⟨.core 0, 0, 0, 0x9000, 0x1000, 0x9000, true, true, true⟩]
    sfq := sfq }

def mFs : State := mG (2 ^ 31 + 2 ^ 21 - 16) 4

theorem someFault_of {rs : List (Lane × Except (BitVec 8) Nat)} {ea : Lane → DWord} {pas : Lane → Nat} {n : Nat} {l : Lane} {c : BitVec 8}
    (h : ((fails rs).head? == some (l, c) && ((oks rs).all fun x => x.2 == pas x.1 && (ea x.1).toNat % n == 0 && x.2 % n == 0) &&
      (passed rs).all fun j => (passed rs).all fun k => ea j != ea k || pas j == pas k) = true) :
    SomeFault rs ea pas n l c ((fails rs).tail.map (·.1)) := by
  simp only [Bool.and_eq_true, beq_iff_eq, List.all_eq_true, Bool.or_eq_true, bne_iff_ne] at h
  obtain ⟨⟨h1, h2⟩, h3⟩ := h
  refine ⟨?_, fun x hx => ⟨(h2 x hx).1.1, (h2 x hx).1.2, (h2 x hx).2⟩, fun j hj k hk e => (h3 j hj k hk).resolve_left (by simp [e])⟩
  cases hf : fails rs with
  | nil => simp [hf] at h1
  | cons y ys =>
    rw [hf, List.head?_cons, Option.some.injEq] at h1
    exact ⟨ys, by rw [h1], rfl⟩

theorem mayFault_of {s : State} {h : PickRec} (hp : plainB s workgroup = true) (hs : (s.memWf && s.hed.isEmpty) = true) (hh : handlerOf s = some h)
    (ho : s.c.inH = false) : MayFault s workgroup h := by
  simp only [Bool.and_eq_true, List.isEmpty_iff] at hs
  exact ⟨plain_of hp, sound_of hs.1 hs.2, hh, ho⟩

def handler : PickRec := { cls := .shuttle, n := handlerPick, stage := 0, pc := 0x40, other := 0, carry := 0, entries := [] }

theorem witness_LaneFaults :
    (∀ q ∈ [[], List.replicate 16 sfe], MayFault (mFar q) workgroup handler ∧ Issues (mFar q) true [(10, 2)] (dst false 4 1) ∧
      Issues (mFar q) true [(7, 1), (10, 2)] [] ∧ (∀ l ∈ acting (mFar q) true, (globalAt (mFar q) 10 0 l).toNat % 4 = 0 ∧
        (tlbHit (mFar q) 0 0 0 (globalAt (mFar q) 10 0 l).toNat).isSome = true) ∧
      ∀ u ∈ [Use.load, .store, .atomic .add], ∃ rest,
        SomeFault (probeAll (mFar q) u (globalAt (mFar q) 10 0) (acting (mFar q) true)).2 (globalAt (mFar q) 10 0) (fun l => 0x8FF0 + 4 * l.val) 4 4 0x17 rest) ∧
    (((mFar []).sfq.filter fun e => e.core == 0).length < 16 ∧ 16 ≤ ((mFar (List.replicate 16 sfe)).sfq.filter fun e => e.core == 0).length) ∧
    (MayFault mFs workgroup handler ∧ Issues mFs true [(10, 2)] [(4, 1)] ∧ Issues mFs true [(7, 1), (10, 2)] [] ∧
      ∀ u ∈ [(Use.scrLoad, (0x11 : BitVec 8)), (.scrStore, 0x13), (.scrRmw, 0x11)], ∃ rest,
        SomeFault (probeAll mFs u.1 (globalAt mFs 10 0) (acting mFs true)).2 (globalAt mFs 10 0) (fun l => screedFirst + 2 ^ 21 - 16 + 4 * l.val) 4 4 u.2 rest) ∧
    ∀ r ∈ atomicRows, r.cas = false → AtomicIssues (mFar []) r 10 6 2 true ∧ AtomicIssues mFs r 10 6 2 true := by
  refine ⟨fun q hq => ⟨mayFault_of (by revert q; decide +kernel) (by revert q; decide +kernel) rfl rfl, issues_of (by revert q; decide +kernel),
      issues_of (by revert q; decide +kernel), by revert q; decide +kernel, fun u hu => ⟨_, someFault_of ?_⟩⟩, by decide +kernel,
    ⟨mayFault_of (by decide +kernel) (by decide +kernel) rfl rfl, issues_of (by decide +kernel), issues_of (by decide +kernel), fun u hu => ⟨_, someFault_of ?_⟩⟩,
    fun r _ h => ?_⟩
  · revert u q; decide +kernel
  · revert u; decide +kernel
  · unfold AtomicIssues; rw [h]
    exact ⟨⟨by decide +kernel, fun _ => by decide +kernel, fun _ => by decide +kernel, issues_of (by decide +kernel)⟩,
      by decide +kernel, fun _ => by decide +kernel, fun _ => by decide +kernel, issues_of (by decide +kernel)⟩

/-- Lane 3 has starved. -/
def mStarve : State := modC mC fun c => { c with starve := c.starve.set 3 4096 }

theorem witness_StarvationCounts :
    (∀ s ∈ [mC, mStarve], s.c.inH = false ∧ Issues s false [] [] ∧ s.c.xp.c = 127 ∧ s.c.xp.e = 0 ∧ s.c.xpw = none ∧ (∀ l : Lane, s.c.starve[l] ≤ 4096) ∧
      nextSf s = none ∧ ∃ l : Lane, s.c.exitM.getLsbD l.val = false ∧ s.c.waitM.getLsbD l.val = false ∧ s.c.parkM.getLsbD l.val = false) ∧
    (mStarve.c.starve[(3 : Lane)] = 4096 ∧ mC.c.starve[(3 : Lane)] = 0) := by
  refine ⟨fun s hs => ⟨by revert s; decide +kernel, issues_of (by revert s; decide +kernel), ?_⟩, by decide +kernel⟩
  revert s; decide +kernel

/-- Both members of a pair before an instruction, and after the leading one's step. -/
def mBoth (k : Nat) : State :=
  let s := mS 0x10 [.core 0]
  { s with
    pipes := [pipeline 2]
    grp := { s.grp with c := { s.grp.c with icount := BitVec.ofNat 32 k } }
    others := [{ s.grp with role := .trail, core := 8 }] }

theorem witness_TrailerFollows :
    ((pickGroup (mBoth 0) 0).any fun g =>
      let u := turned (mBoth 0) 0 g
      let t := turned (mBoth 1) 0 g
      let x := turnedTrail t g
      x.grp.phase == .inRun && !bufferDue x && (groupAt t g.wg g.gid .trail).isSome && follows u t g &&
        fetchHalf (touchCode x) (touchCode x).c.run.pc.toNat == some 0x8103 &&
        match exec (.iaddi 5 1 false 2) (touchCode x) with
        | .next r => r.c.vreg 2 3 == 18
        | _ => false) = true := by decide +kernel

theorem witness_RefusedWrites :
    RefusedWord mWorld 0 0x10010 1 false ∧ RefusedWord m1 0 0x10000 4 false ∧ RefusedWord mWorld 0 0x30104 1 false ∧
    ¬ RefusedWord m1 0 0x10010 1 false ∧ ¬ RefusedWord m1 0 0x10014 4 false ∧ (∀ off ∈ [0x10000, 0x10010, 0x30100], off % 8 = 0) :=
  ⟨⟨rfl, rfl, .inl ⟨0, by decide, by decide, .inl (by decide +kernel)⟩⟩, ⟨rfl, rfl, .inl ⟨0, by decide, by decide, .inr (by decide)⟩⟩,
   ⟨rfl, rfl, .inr ⟨0, by decide, by decide, pipeline 0, by decide +kernel, by decide +kernel, stage 0, by decide +kernel, by decide +kernel⟩⟩,
   by unfold RefusedWord; decide +kernel, by unfold RefusedWord; decide +kernel, by decide⟩

/-- A pipeline whose stage has a limit below its class's budget (R257). -/
def resLimit : State := residency 0 0xFFFFFFFF qWordOf (2 ^ 11) 0x101 0x10001 8

theorem witness_RefusedResidency : Sound resLimit ∧ Taken resLimit 0 0 false ∧
    ∃ l, loadPipe resLimit 0 0 = some l ∧ residencyFails resLimit 0 0 l 8 ∧ ∀ j < 8, ¬ residencyFails resLimit 0 0 l j :=
  ⟨sound_of (by decide +kernel) (by decide +kernel), by unfold Taken Admitted; decide +kernel, one_fails (by decide +kernel)⟩

theorem witness_SnapAndForeignStreams :
    (let s := withVf (fun v => { v with snapping := true }) (mVf 1)
     (s.vfs[(0 : Fin 16)]).snapping = true ∧ ((mVf 1).vfs[(0 : Fin 16)]).snapping = false ∧ (mVf 1).vfs[(0 : Fin 16)].st = 1) ∧
    (let head := leBytes 4 13 ++ leBytes 2 (Config.recordType 0) ++ [0, 0]
     let bytes := head ++ (m1.cfg.stepping + 1) :: leBytes 4 Config.streamVersion
     13 ≤ bytes.length ∧ head <+: bytes ∧ ¬ (head ++ m1.cfg.stepping :: leBytes 4 Config.streamVersion) <+: bytes ∧
      (bytes.take 6).length < 13 ∧ (bytes.take 6).take 8 <+: head) := by
  refine ⟨⟨by simp [withVf], by simp [mVf, withVf]; decide +kernel, by simp [mVf, withVf]⟩, by simp [leBytes], List.prefix_append _ _, fun h => ?_, by simp [leBytes], ?_⟩
  · have := (List.prefix_append_right_inj _).1 h
    rw [List.cons_prefix_cons] at this
    exact absurd this.1 (by decide +kernel)
  · exact ⟨[0, 0], by simp [leBytes]⟩

/-- A workgroup of a deterministic partition that has ended, and one of a stage of lower index that may retire too. -/
def mLower : State :=
  let s := mDet []
  { s with
    wgs := [{ detWg 5 workgroup with ref := ⟨0, 0, 0, 1⟩ }, { workgroup with key := 9, grid := 8 }]
    grids := [⟨2, ⟨0, 0, 0, 1⟩, [], 0, 1, [], 1, false⟩, ⟨8, ref0, [], 0, 1, [], 1, false⟩]
    pipes := [{ pipeline 0 with stages := [{ stage 0 with buflim := 1 }, { stage 0 with index := 1, rcb := 0x2004, buflim := 1 }] }] }

theorem witness_RetirementOrder :
    (Sound mLower ∧ Leaving mLower { detWg 5 workgroup with ref := ⟨0, 0, 0, 1⟩ } ∧ (part mLower 0).det = true ∧ (mLower.grids.map (·.key)).Nodup ∧
      exec (.workgroupRetire 9) mLower ≠ .next mLower) ∧
    ∀ m ∈ [[], [mate false], [mate true]], ∀ v ∈ (mDet m).wgs, v.ref = ref0 :=
  have h : (match exec (.workgroupRetire 9) mLower with
      | .next t => t.wgs.length == 1
      | _ => false) = true := by decide +kernel
  ⟨⟨sound_of (by decide +kernel) rfl, leaving_of (by decide +kernel) (by decide +kernel) ⟨rfl, rfl, rfl⟩ (by decide +kernel) (by decide +kernel), by decide +kernel,
    by decide +kernel, fun e => by rw [e] at h; revert h; decide +kernel⟩, by decide +kernel⟩

/-- Two misses of a page in one cluster; a walk that waits for a place in the record queue. -/
def mMerge : State := { mWalk 0x10008 [] with walks := [walkOf 0x10008, { walkOf 0x10008 with npc := 9 }] }

theorem witness_Misses :
    (Sound mMerge ∧ walkOf 0x10008 ≠ { walkOf 0x10008 with npc := 9 } ∧ wgOf mMerge 1 = some workgroup ∧
      (walkLanes mMerge (walkOf 0x10008) workgroup (walkOf 0x10008).lanes).2 = (walkOf 0x10008).lanes.map (fun l => (l, .ok (0x10008 + 4 * (l.lane.val / 5)))) ∧
      sameMiss mMerge (walkOf 0x10008) { walkOf 0x10008 with npc := 9 } = true ∧ (walkOf 0x10008).lanes.length ≤ 32 ∧
      (∀ l ∈ (walkOf 0x10008).lanes, ∃ l' ∈ (walkOf 0x10008).lanes, l'.va.toNat / 4096 = l.va.toNat / 4096) ∧ mMerge.sfq = []) ∧
    (let s := { mWalk 0x20008 (List.replicate 16 sfe) with walks := [{ walkOf 0x20008 with stuck := true }] }
     Sound s ∧ 16 ≤ (s.sfq.filter fun e => e.core == 0).length ∧ ilOf s workgroup ≠ 2 ∧ (part s 0).det = false) :=
  ⟨⟨sound_of (by decide +kernel) rfl, by decide +kernel, rfl, by decide +kernel, by decide +kernel, by decide +kernel, by decide +kernel, rfl⟩,
   sound_of (by decide +kernel) rfl, by decide +kernel⟩

theorem witness_AdvancesWaiting : ∀ rank ∈ [4, 5], Sound (mHeld .advance rank) ∧
    (mHeld .advance rank).held[0]? = some ⟨1, (0, 0), screedFirst + 16, rank, .advance⟩ ∧ screedWord (mHeld .advance rank) (screedFirst + 16) = 5 :=
  fun rank h => ⟨sound_of (by revert rank; decide +kernel) rfl, rfl, by revert rank; decide +kernel⟩

/-- A second stage, of class CRIT, keeps so many beam cores of the cluster in reserve, each with all its local memory. -/
def mKept (n : Nat) : State :=
  let s := awake (mMig (attempt [0] .opened) [] 0)
  setPart (setTenant { s with pipes := s.pipes.map fun p => { p with stages := p.stages ++
    [{ stage 0 with index := 1, rcb := 0x2004, prio := 1, cls := .beam, loc := 393216, resCore := n }] } } 0 0 fun t => { t with tclmask := 1, tways := 1 }) 0 fun q =>
      { q with run := true, clmask := 1 }

theorem witness_ReservesOfOthers : ∀ n ∈ [1, 4], reservesKept (mKept n)
    { mKept n with wgs := (mKept n).wgs.map fun v => { v with mig := [{ attempt [0] .opened with st := .granted 2 }] } } ref0 = decide (n = 1) ∧
    (critStages (mKept n)).length = 1 ∧ (unitOf (mKept n) (coreUnit 2)).awake = true ∧ roomOn (mKept n) (0, 0) (stage 0) 2 = true ∧
    critStages (mMig (attempt [0] .opened) [] 0) = [] := by
  decide +kernel

/-- An ordw that was held at the checkpoint, and old bytes that each member keeps. -/
def mUndo : State :=
  let s := mStopped 1 false
  let at0 : HeldReq := ⟨1, (0, 0), screedFirst + 16, 5, .ordw 0 97⟩
  { s with
    wgs := s.wgs.map fun w => if w.key = 1 then { w with snap := { w.snap with held := [at0] } } else w
    grp := { s.grp with undo := [⟨1, 8, [1, 2], 5⟩, ⟨1, 9, [7, 7], 6⟩] }
    others := s.others.map fun g => if g.role = .trail then { g with undo := [⟨1, 8, [3, 4], 5⟩] } else g }

theorem witness_UndoneBytes :
    Sound mUndo ∧ (mUndo.wgs.map (·.key)).Nodup ∧ ((allGroups mUndo).map fun g => (g.wg, g.gid, g.role)).Nodup ∧
    (∀ v ∈ mUndo.wgs, ∀ h ∈ v.snap.held, h.wg = v.key ∧ h.kind.isOrdw = true) ∧ mUndo.engq = [] ∧ (∀ x ∈ mUndo.wgs, x.kicks = []) ∧
    (∀ x ∈ allGroups mUndo, ∀ u ∈ x.undo, u.wg = x.wg) ∧ (∀ y ∈ mUndo.grp.undo, y ≠ ⟨1, 8, [1, 2], 5⟩ → 5 < y.at_) ∧
    (∀ y ∈ mUndo.grp.undo, ¬ (y.off ≤ 20 ∧ 20 < y.off + y.old.length)) :=
  ⟨sound_of (by decide +kernel) rfl, by and_intros <;> decide +kernel⟩

/-- A line of main memory in the L2, owned by a tenant; and a place of screed that no partition owns. -/
def mOwned : State := { m1 with l2 := [⟨0x8000 / 128, 0, some (0, 0), false, 0⟩] }

theorem witness_StorageOwners :
    (Sound mOwned ∧ inScreed 0x8000 = false ∧ ((mOwned.l2.find? fun l => l.line == 0x8000 / 128).bind (·.tenant)) = some (0, 0)) ∧
    (inScreed (screedFirst + 0x40000 * 20) = true ∧ ∀ p, (part m1 p).ownsBank (bankOf (screedFirst + 0x40000 * 20)) = false) :=
  ⟨⟨sound_of (by decide +kernel) rfl, by decide +kernel⟩, by decide +kernel⟩

/-! ### Decoding: a word for every instruction, written from the encoding tables of R51 with every operand field at a value of its own -/

/-- Words, their lengths and the instructions they stand for: each decodes to its instruction, and is its encoding. -/
def Words (l : List (Nat × Nat × Instr)) : Prop :=
  ∀ r ∈ l, decode (leBytes r.2.1 r.1) = .ok (r.2.2, r.2.1) ∧ (encode r.2.2).map Code.bytes = some (leBytes r.2.1 r.1)

theorem test_words_1 : Words
    [(0x14D56A81, 4, .iadd 83 42 true 85), (0x34D56A81, 4, .isub 83 42 true 85), (0x54D56A81, 4, .imul 83 42 true 85),
      (0x74D56A81, 4, .imulh 83 42 true 85), (0x94D56A81, 4, .imulhu 83 42 true 85), (0xB4D56A81, 4, .iadds 83 42 true 85),
      (0xD4D56A81, 4, .isubs 83 42 true 85), (0xF4D56A81, 4, .iabsd 83 42 true 85), (0x9A156A83, 4, .iaddi 77 42 true 85),
      (0x9A556A83, 4, .imuli 77 42 true 85), (0x9A956A83, 4, .andi 77 42 true 85), (0x9AD56A83, 4, .ori 77 42 true 85),
      (0x9B156A83, 4, .xori 77 42 true 85), (0x9B556A83, 4, .shli 77 42 true 85), (0x9B956A83, 4, .shri 77 42 true 85),
      (0x9BD56A83, 4, .sari 77 42 true 85), (0x14D56A85, 4, .and 83 42 true 85), (0x34D56A85, 4, .or 83 42 true 85),
      (0x54D56A85, 4, .xor 83 42 true 85), (0x74D56A85, 4, .andn 83 42 true 85), (0x94D56A85, 4, .orn 83 42 true 85),
      (0xB4D56A85, 4, .xnor 83 42 true 85), (0xD4D56A85, 4, .shl 83 42 true 85), (0xF4D56A85, 4, .shr 83 42 true 85)] := by
  unfold Words
  decide +kernel

theorem test_words_2 : Words
    [(0x14D56A87, 4, .sar 83 42 true 85), (0x34D56A87, 4, .rotl 83 42 true 85), (0x54D56A87, 4, .imin 83 42 true 85),
      (0x74D56A87, 4, .imax 83 42 true 85), (0x94D56A87, 4, .umin 83 42 true 85), (0xB4D56A87, 4, .umax 83 42 true 85),
      (0xD4D56A87, 4, .iaddc 83 42 true 85), (0xF4D56A87, 4, .isubb 83 42 true 85), (0x00156A89, 4, .iabs 42 true 85),
      (0x20156A89, 4, .ineg 42 true 85), (0x40156A89, 4, .not 42 true 85), (0x60156A89, 4, .popc 42 true 85), (0x80156A89, 4, .clz 42 true 85),
      (0xA0156A89, 4, .ctz 42 true 85), (0xC0156A89, 4, .brev 42 true 85), (0xE0156A89, 4, .bswap 42 true 85), (0x14D56A8B, 4, .bfx 83 42 true 85),
      (0x34D56A8B, 4, .bfxu 83 42 true 85), (0x54D56A8B, 4, .bfi 83 42 true 85), (0x74D56A8B, 4, .fshl 83 42 true 85),
      (0x94D56A8B, 4, .fshr 83 42 true 85), (0xB4D56A8B, 4, .lea 83 42 true 85), (0xD4D56A8B, 4, .sel 83 42 true 85),
      (0xF4D56A8B, 4, .imad 83 42 true 85)] := by
  unfold Words
  decide +kernel

theorem test_words_3 : Words
    [(0x00156A8D, 4, .mov 42 true 85), (0x20156A8D, 4, .sprd 42 true 85), (0x54D5000D, 4, .spwr 83 42), (0x74D56A8D, 4, .rdlane 83 42 true 85),
      (0x94D56A8D, 4, .wrlane 83 42 true 85), (0xA0156A8D, 4, .rfl 42 true 85), (0xC0156A8D, 4, .movp 42 true 85), (0xE0156A8D, 4, .ptom 42 true 85),
      (0x0026EA8F, 4, .movi 77 true 85), (0x14D57591, 4, .eq 83 42 true true 43), (0x34D57591, 4, .ne 83 42 true true 43),
      (0x54D57591, 4, .lt 83 42 true true 43), (0x74D57591, 4, .le 83 42 true true 43), (0x94D57591, 4, .ltu 83 42 true true 43),
      (0xB4D57591, 4, .leu 83 42 true true 43), (0xD4D57591, 4, .tst 83 42 true true 43), (0xF4D57591, 4, .tstz 83 42 true true 43),
      (0x14D57593, 4, .feq 83 42 true true 43), (0x34D57593, 4, .fne 83 42 true true 43), (0x54D57593, 4, .flt 83 42 true true 43),
      (0x74D57593, 4, .fle 83 42 true true 43), (0x94D57593, 4, .fgt 83 42 true true 43), (0xB4D57593, 4, .fge 83 42 true true 43),
      (0xD4D57593, 4, .funord 83 42 true true 43)] := by
  unfold Words
  decide +kernel

theorem test_words_4 : Words
    [(0xF4D57593, 4, .ford 83 42 true true 43), (0x14D57595, 4, .pand 83 42 true true 43), (0x34D57595, 4, .por 83 42 true true 43),
      (0x54D57595, 4, .pxor 83 42 true true 43), (0x74D57595, 4, .pandn 83 42 true true 43), (0x80157595, 4, .pnot 42 true true 43),
      (0xA0157595, 4, .pmov 42 true true 43), (0xC0007595, 4, .pclr true true 43), (0xE0007595, 4, .pset true true 43),
      (0x13557597, 4, .eqImm 77 42 true true 43), (0x33557597, 4, .neImm 77 42 true true 43), (0x53557597, 4, .ltImm 77 42 true true 43),
      (0x73557597, 4, .leImm 77 42 true true 43), (0x93557597, 4, .ltuImm 77 42 true true 43), (0xB3557597, 4, .leuImm 77 42 true true 43),
      (0xD3557597, 4, .tstImm 77 42 true true 43), (0xF3557597, 4, .tstzImm 77 42 true true 43), (0x14D56AA1, 4, .fadd 83 42 true 85),
      (0x34D56AA1, 4, .fsub 83 42 true 85), (0x54D56AA1, 4, .fmul 83 42 true 85), (0x74D56AA1, 4, .fmin 83 42 true 85),
      (0x94D56AA1, 4, .fmax 83 42 true 85), (0xB4D56AA1, 4, .fminn 83 42 true 85), (0xD4D56AA1, 4, .fmaxn 83 42 true 85)] := by
  unfold Words
  decide +kernel

theorem test_words_5 : Words
    [(0xF4D56AA1, 4, .fcpsgn 83 42 true 85), (0x14D56AA3, 4, .ffma 83 42 true 85), (0x34D56AA3, 4, .ffms 83 42 true 85),
      (0x54D56AA3, 4, .fnma 83 42 true 85), (0x74D56AA3, 4, .fnms 83 42 true 85), (0x94D56AA3, 4, .hfma2 83 42 true 85),
      (0xB4D56AA3, 4, .bfma2 83 42 true 85), (0xD4D56AA3, 4, .idp4 83 42 true 85), (0xF4D56AA3, 4, .hdp2 83 42 true 85),
      (0x14D56AA5, 4, .hadd2 83 42 true 85), (0x34D56AA5, 4, .hsub2 83 42 true 85), (0x54D56AA5, 4, .hmul2 83 42 true 85),
      (0x74D56AA5, 4, .hmax2 83 42 true 85), (0x94D56AA5, 4, .badd2 83 42 true 85), (0xB4D56AA5, 4, .bsub2 83 42 true 85),
      (0xD4D56AA5, 4, .bmul2 83 42 true 85), (0xF4D56AA5, 4, .bmax2 83 42 true 85), (0x00156AA7, 4, .frcp 42 true 85),
      (0x20156AA7, 4, .frsq 42 true 85), (0x40156AA7, 4, .fsqrt 42 true 85), (0x60156AA7, 4, .flg2 42 true 85), (0x80156AA7, 4, .fex2 42 true 85),
      (0xA0156AA7, 4, .fsin 42 true 85), (0xC0156AA7, 4, .fcos 42 true 85)] := by
  unfold Words
  decide +kernel

theorem test_words_6 : Words
    [(0xE0156AA7, 4, .ftanh 42 true 85), (0x86556AA9, 4, .cvt 2 1 9 42 true 85), (0x14D56AAB, 4, .pk2h 83 42 true 85),
      (0x34D56AAB, 4, .pk2bf 83 42 true 85), (0x40156AAB, 4, .upkhl 42 true 85), (0x60156AAB, 4, .upkhh 42 true 85),
      (0x80156AAB, 4, .upkbl 42 true 85), (0xA0156AAB, 4, .upkbh 42 true 85), (0xD4D56AAB, 4, .perm8 83 42 true 85),
      (0x00156AAD, 4, .frndn 42 true 85), (0x20156AAD, 4, .frndz 42 true 85), (0x40156AAD, 4, .frndd 42 true 85), (0x60156AAD, 4, .frndu 42 true 85),
      (0x80156AAD, 4, .ffrac 42 true 85), (0xA0156AAD, 4, .fclass 42 true 85), (0xC0156AAD, 4, .fgetexp 42 true 85),
      (0xF4D56AAD, 4, .fldexp 83 42 true 85), (0x14D56AAF, 4, .scacc 83 42 true 85), (0x34D56AAF, 4, .scacc2 83 42 true 85),
      (0x54D56AAF, 4, .scmul 83 42 true 85), (0x74D56AAF, 4, .scaci 83 42 true 85), (0x94D56AAF, 4, .scaci2 83 42 true 85),
      (0x98D56AB1, 4, .shfop 4 12 3 42 true 85), (0x14D56AB3, 4, .perm 83 42 true 85)] := by
  unfold Words
  decide +kernel

theorem test_words_7 : Words
    [(0x34D56AB3, 4, .permt 83 42 true 85), (0x54D56AB3, 4, .perms 83 42 true 85), (0x74D56AB3, 4, .compact 83 42 true 85),
      (0x001575B5, 4, .vall 42 true true 43), (0x201575B5, 4, .vany 42 true true 43), (0x401575B5, 4, .veq 42 true true 43),
      (0x601575B5, 4, .vfirst 42 true true 43), (0x801575B5, 4, .vlast 42 true true 43), (0x00156AB7, 4, .matchLanes 42 true 85),
      (0x20156AB7, 4, .tfirst 42 true 85), (0x40156AB7, 4, .tpop 42 true 85), (0x9A150039, 4, .setpart 77 42), (0x00406AB9, 4, .getpart true 85),
      (0x00806AB9, 4, .tileid true 85), (0x00C06AB9, 4, .tlane true 85), (0x25956AC1, 4, .ldg 2 1 1 2 42 true 85), (0xA1950041, 4, .ldgPf 2 1 2 42),
      (0x29952AC3, 4, .stg 2 2 1 2 42 85), (0x0D952AC5, 4, .atgAdd 3 1 2 42 85), (0x1D952AC5, 4, .atgSub 3 1 2 42 85),
      (0x2D952AC5, 4, .atgMin 3 1 2 42 85), (0x3D952AC5, 4, .atgMax 3 1 2 42 85), (0x4D952AC5, 4, .atgUmin 3 1 2 42 85),
      (0x5D952AC5, 4, .atgUmax 3 1 2 42 85)] := by
  unfold Words
  decide +kernel

theorem test_words_8 : Words
    [(0x6D952AC5, 4, .atgAnd 3 1 2 42 85), (0x7D952AC5, 4, .atgOr 3 1 2 42 85), (0x8D952AC5, 4, .atgXor 3 1 2 42 85),
      (0x9D952AC5, 4, .atgXchg 3 1 2 42 85), (0xAD952AC5, 4, .atgCas 3 1 2 42 85), (0xBD952AC5, 4, .atgFadd 3 1 2 42 85),
      (0xCD952AC5, 4, .atgFmin 3 1 2 42 85), (0xDD952AC5, 4, .atgFmax 3 1 2 42 85), (0xED952AC5, 4, .atgInc 3 1 2 42 85),
      (0xFD952AC5, 4, .atgDec 3 1 2 42 85), (0x9A956AC7, 4, .ldl 77 2 42 true 85), (0x9A952AC9, 4, .stl 77 2 42 85),
      (0x0D152ACB, 4, .atlAdd 3 1 42 85), (0x1D152ACB, 4, .atlSub 3 1 42 85), (0x2D152ACB, 4, .atlMin 3 1 42 85), (0x3D152ACB, 4, .atlMax 3 1 42 85),
      (0x4D152ACB, 4, .atlUmin 3 1 42 85), (0x5D152ACB, 4, .atlUmax 3 1 42 85), (0x6D152ACB, 4, .atlAnd 3 1 42 85), (0x7D152ACB, 4, .atlOr 3 1 42 85),
      (0x8D152ACB, 4, .atlXor 3 1 42 85), (0x9D152ACB, 4, .atlXchg 3 1 42 85), (0xAD152ACB, 4, .atlCas 3 1 42 85), (0xBD152ACB, 4, .atlFadd 3 1 42 85)] := by
  unfold Words
  decide +kernel

theorem test_words_9 : Words
    [(0xCD152ACB, 4, .atlFmin 3 1 42 85), (0xDD152ACB, 4, .atlFmax 3 1 42 85), (0xED152ACB, 4, .atlInc 3 1 42 85),
      (0xFD152ACB, 4, .atlDec 3 1 42 85), (0x0D152ACD, 4, .scrAdd 3 1 42 85), (0x1D152ACD, 4, .scrFadd 3 1 42 85), (0x2D152ACD, 4, .scrMin 3 1 42 85),
      (0x3D152ACD, 4, .scrMax 3 1 42 85), (0x4D152ACD, 4, .scrAnd 3 1 42 85), (0x5D152ACD, 4, .scrOr 3 1 42 85), (0x6D152ACD, 4, .scrXor 3 1 42 85),
      (0x7D152ACD, 4, .scrFmax 3 1 42 85), (0x8D152ACD, 4, .scrXchg 3 1 42 85), (0x9D152ACD, 4, .scrCas 3 1 42 85), (0xA5152ACD, 4, .scrLd 1 1 42 85),
      (0xB9152ACD, 4, .scrSt 2 1 42 85), (0x0000384F, 4, .fence 3 2), (0x0016B8CF, 4, .xfence 5 10 3 2), (0x0000014F, 4, .drainst),
      (0x000001CF, 4, .cinv), (0x0000024F, 4, .cflush), (0x14D50051, 4, .tkick 83 42), (0x20150051, 4, .tcancel 42),
      (0x40156AD1, 4, .tstat 42 true 85)] := by
  unfold Words
  decide +kernel

theorem test_words_10 : Words
    [(0x14D50053, 4, .binit 83 42), (0x34D56AD3, 4, .barrive 83 42 true 85), (0x54D50053, 4, .bexpect 83 42), (0x74D56AD3, 4, .bwait 83 42 true 85),
      (0x80156AD3, 4, .btest 42 true 85), (0xA0150053, 4, .binval 42), (0x14D50055, 4, .qpush 83 42), (0x34C02AD5, 4, .qpop 83 85),
      (0x40152AD5, 4, .qres 42 85), (0x74D50055, 4, .qcommit 83 42), (0x80152AD5, 4, .qlen 42 85), (0x00152AD7, 4, .ordw 42 85),
      (0x20152AD7, 4, .ordp 42 85), (0x40152AD7, 4, .ordr 42 85), (0x0026B5E1, 4, .bra 77 false true 43), (0x0026B5E3, 4, .call 77 false true 43),
      (0x00150065, 4, .jmps 42), (0x20150065, 4, .calls 42), (0x40150065, 4, .ret 42), (0x60000065, 4, .exit), (0x80000065, 4, .knot),
      (0xA2D50065, 4, .bar 11 42), (0xC0000065, 4, .yield), (0xE0000065, 4, .nop)] := by
  unfold Words
  decide +kernel

theorem test_words_11 : Words
    [(0x9A002AE7, 4, .migShuttle 77 85), (0x9A402AE7, 4, .migBeam 77 85), (0x00150069, 4, .trap 42), (0x20000069, 4, .rett),
      (0x20400069, 4, .rettEnd), (0x40152AE9, 4, .qry 42 85), (0x60000069, 4, .ckpt), (0xC0000069, 4, .brk), (0x759485FD, 4, .selv true 3 44 82 11),
      (0x000015FF, 4, .xp 43), (0x4EA0, 2, .mov16 19 21), (0x4EA2, 2, .iadd16 19 21), (0x4EA4, 2, .isub16 19 21), (0x4EA6, 2, .imul16 19 21),
      (0x4EA8, 2, .and16 19 21), (0x4EAA, 2, .or16 19 21), (0x4EAC, 2, .xor16 19 21), (0x4EAE, 2, .shl16 19 21), (0x4EB0, 2, .shr16 19 21),
      (0x4EB2, 2, .sar16 19 21), (0x4EB4, 2, .imin16 19 21), (0x4EB6, 2, .imax16 19 21), (0x4EB8, 2, .fadd16 19 21), (0x4EBA, 2, .fmul16 19 21)] := by
  unfold Words
  decide +kernel

theorem test_words_12 : Words
    [(0x4EBC, 2, .fmax16 19 21), (0x4EBE, 2, .fmac 19 21)] := by
  unfold Words
  decide +kernel

/-! ### Ill-formed terms, each refused by one check of WellFormed; their words, written out, do not decode -/

theorem test_illFormed_sizes : (Instr.ldg 5 0 0 0 42 true 85).wf = false ∧ (Instr.stg 5 0 0 0 42 85).wf = false ∧ (Instr.ldgPf 7 0 0 42).wf = false ∧
    (Instr.ldl 77 5 42 true 85).wf = false ∧ (Instr.stl 77 6 42 85).wf = false := by decide +kernel

theorem test_illFormed_orders : (Instr.ldg 2 2 0 0 42 true 85).wf = false ∧ (Instr.stg 2 1 0 0 42 85).wf = false ∧ (Instr.scrLd 2 0 42 85).wf = false ∧
    (Instr.scrSt 1 0 42 85).wf = false ∧ (Instr.ldgPf 2 0 1 42).wf = false ∧ (Instr.atgAdd 0 0 3 42 85).wf = false ∧
    (Instr.atlAdd 0 2 42 85).wf = false := by decide +kernel

theorem test_illFormed_others : (Instr.shfop 5 0 0 42 true 85).wf = false ∧ (Instr.shfop 0 13 0 42 true 85).wf = false ∧
    (Instr.shfop 0 0 4 42 true 85).wf = false ∧ (Instr.xfence 0 1 0 0).wf = false ∧ (Instr.xfence 1 0 0 0).wf = false ∧ (Instr.bar 16 42).wf = false ∧
    (Instr.selv false 1 0 0 120).wf = false ∧ (Instr.selv false 1 0 5 10).wf = false ∧ (Instr.selv false 2 0 121 10).wf = false ∧
    (Instr.selv false 3 127 5 10).wf = false := by decide +kernel

theorem test_refusedWords : ((decode (leBytes 4 0x52812AC1)).toOption = none) ∧ ((decode (leBytes 4 0x05000065)).toOption = none) ∧
    ((decode (leBytes 4 0x7F)).toOption ≠ none) ∧ ((decode [0x01, 0x00]).toOption = none) ∧ ((decode (leBytes 4 0x100F3C7D)).toOption = none) := by
  decide +kernel

/-! ### One step from reset (R29, R97: iaddi v2, v1, 5) -/

theorem test_stepFromReset : (match step (State.reset.withFetchWord 32 0x0A008103) with
    | .next t => t.c.run.pc == 4 && t.c.vreg 2 7 == t.c.vreg 1 7 + 5 && t.c.icount == 1
    | _ => false) = true := by decide +kernel

/-! ### Instructions, each by one case worked out from its rule -/

/-- What a value of the context is after an instruction. -/
def after (i : Instr) (s : State) (f : Ctx → Word) : Option Word :=
  match exec i s with
  | .next t => some (f t.c)
  | _ => none

/-- Scalar register s1 after an instruction over s2 and s3. -/
def s1After (i : Instr) (a b : Word) : Option Word := after i (withS (withS m0 2 a) 3 b) (·.sreg 1)

theorem test_integers : s1After (.iadd 99 98 false 97) 0x7FFFFFFF 1 = some 0x80000000 ∧ s1After (.isub 99 98 false 97) 2 5 = some 0xFFFFFFFD ∧
    s1After (.imulh 99 98 false 97) 0xFFFFFFFF 2 = some 0xFFFFFFFF ∧ s1After (.imulhu 99 98 false 97) 0xFFFFFFFF 2 = some 1 ∧
    s1After (.imin 99 98 false 97) 0xFFFFFFFF 2 = some 0xFFFFFFFF ∧ s1After (.umin 99 98 false 97) 0xFFFFFFFF 2 = some 2 ∧
    s1After (.andn 99 98 false 97) 0xFF 0x0F = some 0xF0 ∧ s1After (.rotl 99 98 false 97) 0x80000001 1 = some 3 ∧
    s1After (.sar 99 98 false 97) 0x80000000 4 = some 0xF8000000 ∧ s1After (.popc 98 false 97) 0xF0F 0 = some 8 ∧ s1After (.clz 98 false 97) 1 0 = some 31 ∧
    s1After (.ctz 98 false 97) 8 0 = some 3 ∧ s1After (.brev 98 false 97) 1 0 = some 0x80000000 ∧
    s1After (.bswap 98 false 97) 0x11223344 0 = some 0x44332211 := by decide +kernel

/-- 1 + 2^-24 rounds to even; 1 + 2^-23 is exact; 3 × 0.5; 1 - 1 is +0; the larger of -1 and 1. -/
theorem test_floats : s1After (.fadd 99 98 false 97) 0x3F800000 0x33800000 = some 0x3F800000 ∧
    s1After (.fadd 99 98 false 97) 0x3F800000 0x34000000 = some 0x3F800001 ∧ s1After (.fmul 99 98 false 97) 0x40400000 0x3F000000 = some 0x3FC00000 ∧
    s1After (.fsub 99 98 false 97) 0x3F800000 0x3F800000 = some 0 ∧ s1After (.fmax 99 98 false 97) 0xBF800000 0x3F800000 = some 0x3F800000 := by
  decide +kernel

/-- A transfer whose targets are run entries but which no SELV follows. -/
theorem witness_TransferWithoutSelv :
    (let s := withMem (withTables m0) 0x1003C (leBytes 4 0x7D)
     Issues s false [] [] ∧ selvAt s (s.c.run.pc.toNat + 4) = false ∧ runEntry s ((s.c.npc.toNat : Int) + 2 * (32 : BitVec 17).toInt).toNat = true) :=
  ⟨issues_of (by decide +kernel), by decide +kernel, by decide +kernel⟩

end Sys2Proof.Tests
end

/-! ## Only encodings decode (R8, R35, R42, R51)

Each format of R35 tiles the word: the fields that the decoder reads, packed again, are the word (`packF3_fields` and the
lemmas beside it; in the formats FF and FS the bits that no field covers have to be zero). So every branch of the opcode
map, which fixes MAJ, the function code and the fields its guard names, gives an instruction whose encoding is that word. -/

namespace Sys2Proof.Laws.OnlyEncodings

/-! ### The fields of a word, packed again -/

section
variable {w : Word} {maj : Nat}

theorem bit_flag (w : Word) (k : Nat) : bit (flag w k) = w.toNat / 2 ^ k % 2 := by
  rcases Nat.mod_two_eq_zero_or_one (w.toNat / 2 ^ k) with h | h <;> simp [bit, flag, h]

/-- A word of two halfwords (R29) whose MAJ is `maj` (R35). -/
def HasMaj (w : Word) (maj : Nat) : Prop := w.toNat % 2 = 1 ∧ (fld w 1 6).toNat = maj

theorem packF3_fields (h : HasMaj w maj) :
    packF3 maj (fld w 29 3).toNat (fld w 22 7) (fld w 15 7) (flag w 14) (fld w 7 7) = w := by
  obtain ⟨hodd, rfl⟩ := h
  have := w.isLt
  apply BitVec.eq_of_toNat_eq
  simp only [packF3, fld, bit_flag, BitVec.toNat_ofNat]
  omega

theorem packFI_fields (h : HasMaj w maj) :
    packFI maj (fld w 25 7) (fld w 22 3).toNat (fld w 15 7) (flag w 14) (fld w 7 7) = w := by
  obtain ⟨hodd, rfl⟩ := h
  have := w.isLt
  apply BitVec.eq_of_toNat_eq
  simp only [packFI, fld, bit_flag, BitVec.toNat_ofNat]
  omega

theorem packFL_fields (h : HasMaj w maj) :
    packFL maj (fld w 15 17) (flag w 14) (fld w 7 7) = w := by
  obtain ⟨hodd, rfl⟩ := h
  have := w.isLt
  apply BitVec.eq_of_toNat_eq
  simp only [packFL, fld, bit_flag, BitVec.toNat_ofNat]
  omega

theorem packFP_fields (h : HasMaj w maj) :
    packFP maj (fld w 29 3).toNat (fld w 22 7) (fld w 15 7) (flag w 14) (flag w 13) (fld w 7 6) = w := by
  obtain ⟨hodd, rfl⟩ := h
  have := w.isLt
  apply BitVec.eq_of_toNat_eq
  simp only [packFP, fld, bit_flag, BitVec.toNat_ofNat]
  omega

theorem packFA_fields (h : HasMaj w maj) :
    packFA maj (fld w 28 4).toNat (fld w 26 2) (fld w 24 2) (fld w 22 2) (fld w 15 7) (flag w 14) (fld w 7 7) = w := by
  obtain ⟨hodd, rfl⟩ := h
  have := w.isLt
  apply BitVec.eq_of_toNat_eq
  simp only [packFA, fld, bit_flag, BitVec.toNat_ofNat]
  omega

/-- FM is FA with the first field, of four bits, divided into F1 and SZ. -/
theorem packFM_fields (h : HasMaj w maj) :
    packFM maj (bit (flag w 31)) (fld w 28 3) (fld w 26 2) (fld w 24 2) (fld w 22 2) (fld w 15 7) (flag w 14) (fld w 7 7) = w := by
  have hop : bit (flag w 31) * 2 ^ 31 + (fld w 28 3).toNat * 2 ^ 28 = (fld w 28 4).toNat * 2 ^ 28 := by
    simp only [fld, bit_flag, BitVec.toNat_ofNat]
    omega
  rw [packFM, hop]
  exact packFA_fields h

theorem packFLM_fields (h : HasMaj w maj) :
    packFLM maj (fld w 25 7) (fld w 22 3) (fld w 15 7) (flag w 14) (fld w 7 7) = w := by
  obtain ⟨hodd, rfl⟩ := h
  have := w.isLt
  apply BitVec.eq_of_toNat_eq
  simp only [packFLM, fld, bit_flag, BitVec.toNat_ofNat]
  omega

theorem packFC_fields (h : HasMaj w maj) :
    packFC maj (fld w 30 2) (fld w 26 4) (fld w 22 4) (fld w 15 7) (flag w 14) (fld w 7 7) = w := by
  obtain ⟨hodd, rfl⟩ := h
  have := w.isLt
  apply BitVec.eq_of_toNat_eq
  simp only [packFC, fld, bit_flag, BitVec.toNat_ofNat]
  omega

theorem packFSH_fields (h : HasMaj w maj) :
    packFSH maj (fld w 29 3) (fld w 25 4) (fld w 22 3) (fld w 15 7) (flag w 14) (fld w 7 7) = w := by
  obtain ⟨hodd, rfl⟩ := h
  have := w.isLt
  apply BitVec.eq_of_toNat_eq
  simp only [packFSH, fld, bit_flag, BitVec.toNat_ofNat]
  omega

theorem packFF_fields (h : HasMaj w maj) (hz : fld w 22 10 = 0) :
    packFF maj (fld w 18 4) (fld w 14 4) (fld w 12 2) (fld w 10 2) (fld w 7 3).toNat = w := by
  obtain ⟨hodd, rfl⟩ := h
  have := w.isLt
  have hz : (fld w 22 10).toNat = 0 := by rw [hz]; simp
  simp only [fld, BitVec.toNat_ofNat] at hz
  apply BitVec.eq_of_toNat_eq
  simp only [packFF, fld, BitVec.toNat_ofNat]
  omega

theorem packFB_fields (h : HasMaj w maj) :
    packFB maj (fld w 15 17) (flag w 14) (flag w 13) (fld w 7 6) = w := by
  obtain ⟨hodd, rfl⟩ := h
  have := w.isLt
  apply BitVec.eq_of_toNat_eq
  simp only [packFB, fld, bit_flag, BitVec.toNat_ofNat]
  omega

theorem packFS_fields (h : HasMaj w maj) (hz : flag w 31 = false) :
    packFS maj (flag w 30) (fld w 28 2) (fld w 21 7) (fld w 14 7) (fld w 7 7) = w := by
  obtain ⟨hodd, rfl⟩ := h
  have := w.isLt
  have hz : w.toNat / 2 ^ 31 % 2 = 0 := by rw [← bit_flag, hz]; rfl
  apply BitVec.eq_of_toNat_eq
  simp only [packFS, fld, bit_flag, BitVec.toNat_ofNat]
  omega

theorem packFX_fields (h : HasMaj w maj) :
    packFX maj (fld w 7 25) = w := by
  obtain ⟨hodd, rfl⟩ := h
  have := w.isLt
  apply BitVec.eq_of_toNat_eq
  simp only [packFX, fld, BitVec.toNat_ofNat]
  omega

theorem pack16_fields {h : Half} (heven : h.toNat % 2 = 0) :
    pack16 (h.toNat / 2 % 16) (BitVec.ofNat 6 (h.toNat / 2 ^ 10)) (BitVec.ofNat 5 (h.toNat / 2 ^ 5)) = h := by
  have := h.isLt
  apply BitVec.eq_of_toNat_eq
  simp only [pack16, BitVec.toNat_ofNat]
  omega

end

/-! ### The opcode map, one lemma per MAJ (R51)

In a branch, the function code and the fields that the guard names are known; written into the equation of the format
(`hw` below) they turn it into the one that `encoded_some` asks for. -/

section
variable {w : Word}

/-- What `o` gives for `w`, if anything, has `w` as its encoding. -/
def Encoded (w : Word) (o : Option Instr) : Prop := ∀ i, o = some i → encode i = some (.word w)

theorem encoded_none : Encoded w none := fun _ h => nomatch h

/-- A branch of the opcode map: the encoder packs the branch's fields, and they make up the word. -/
theorem encoded_some {i : Instr} {v : Word} (he : encode i = some (.word v)) (hv : v = w) : Encoded w (some i) := by
  rintro _ ⟨⟩
  rw [he, hv]

theorem encoded_decIalu (h : HasMaj w 0x00) : Encoded w (decIalu w) := by
  have hw := packF3_fields h
  fun_cases decIalu w
  any_goals exact encoded_none
  all_goals exact encoded_some rfl (by simp_all)

theorem encoded_decIalui (h : HasMaj w 0x01) : Encoded w (decIalui w) := by
  have hw := packFI_fields h
  fun_cases decIalui w
  any_goals exact encoded_none
  all_goals exact encoded_some rfl (by simp_all)

theorem encoded_decIlog (h : HasMaj w 0x02) : Encoded w (decIlog w) := by
  have hw := packF3_fields h
  fun_cases decIlog w
  any_goals exact encoded_none
  all_goals exact encoded_some rfl (by simp_all)

theorem encoded_decImisc (h : HasMaj w 0x03) : Encoded w (decImisc w) := by
  have hw := packF3_fields h
  fun_cases decImisc w
  any_goals exact encoded_none
  all_goals exact encoded_some rfl (by simp_all)

theorem encoded_decIun (h : HasMaj w 0x04) : Encoded w (decIun w) := by
  have hw := packF3_fields h
  fun_cases decIun w
  any_goals exact encoded_none
  all_goals exact encoded_some rfl (by simp_all)

theorem encoded_decIbit (h : HasMaj w 0x05) : Encoded w (decIbit w) := by
  have hw := packF3_fields h
  fun_cases decIbit w
  any_goals exact encoded_none
  all_goals exact encoded_some rfl (by simp_all)

theorem encoded_decMovx (h : HasMaj w 0x06) : Encoded w (decMovx w) := by
  have hw := packF3_fields h
  fun_cases decMovx w
  any_goals exact encoded_none
  all_goals exact encoded_some rfl (by simp_all)

theorem encoded_decMovi (h : HasMaj w 0x07) : Encoded w (decMovi w) :=
  encoded_some rfl (packFL_fields h)

theorem encoded_decIcmp (h : HasMaj w 0x08) : Encoded w (decIcmp w) := by
  have hw := packFP_fields h
  fun_cases decIcmp w
  any_goals exact encoded_none
  all_goals exact encoded_some rfl (by simp_all)

theorem encoded_decFcmp (h : HasMaj w 0x09) : Encoded w (decFcmp w) := by
  have hw := packFP_fields h
  fun_cases decFcmp w
  any_goals exact encoded_none
  all_goals exact encoded_some rfl (by simp_all)

theorem encoded_decPlog (h : HasMaj w 0x0A) : Encoded w (decPlog w) := by
  have hw := packFP_fields h
  fun_cases decPlog w
  any_goals exact encoded_none
  all_goals exact encoded_some rfl (by simp_all)

theorem encoded_decIcmpi (h : HasMaj w 0x0B) : Encoded w (decIcmpi w) := by
  have hw := packFP_fields h
  fun_cases decIcmpi w
  any_goals exact encoded_none
  all_goals exact encoded_some rfl (by simp_all)

theorem encoded_decFalu (h : HasMaj w 0x10) : Encoded w (decFalu w) := by
  have hw := packF3_fields h
  fun_cases decFalu w
  any_goals exact encoded_none
  all_goals exact encoded_some rfl (by simp_all)

theorem encoded_decFfma (h : HasMaj w 0x11) : Encoded w (decFfma w) := by
  have hw := packF3_fields h
  fun_cases decFfma w
  any_goals exact encoded_none
  all_goals exact encoded_some rfl (by simp_all)

theorem encoded_decHalu (h : HasMaj w 0x12) : Encoded w (decHalu w) := by
  have hw := packF3_fields h
  fun_cases decHalu w
  any_goals exact encoded_none
  all_goals exact encoded_some rfl (by simp_all)

theorem encoded_decSfu (h : HasMaj w 0x13) : Encoded w (decSfu w) := by
  have hw := packF3_fields h
  fun_cases decSfu w
  any_goals exact encoded_none
  all_goals exact encoded_some rfl (by simp_all)

theorem encoded_decCvt (h : HasMaj w 0x14) : Encoded w (decCvt w) :=
  encoded_some rfl (packFC_fields h)

theorem encoded_decPack (h : HasMaj w 0x15) : Encoded w (decPack w) := by
  have hw := packF3_fields h
  fun_cases decPack w
  any_goals exact encoded_none
  all_goals exact encoded_some rfl (by simp_all)

theorem encoded_decFmisc (h : HasMaj w 0x16) : Encoded w (decFmisc w) := by
  have hw := packF3_fields h
  fun_cases decFmisc w
  any_goals exact encoded_none
  all_goals exact encoded_some rfl (by simp_all)

theorem encoded_decScacc (h : HasMaj w 0x17) : Encoded w (decScacc w) := by
  have hw := packF3_fields h
  fun_cases decScacc w
  any_goals exact encoded_none
  all_goals exact encoded_some rfl (by simp_all)

theorem encoded_decShfop (h : HasMaj w 0x18) : Encoded w (decShfop w) :=
  encoded_some rfl (packFSH_fields h)

theorem encoded_decPerm (h : HasMaj w 0x19) : Encoded w (decPerm w) := by
  have hw := packF3_fields h
  fun_cases decPerm w
  any_goals exact encoded_none
  all_goals exact encoded_some rfl (by simp_all)

theorem encoded_decVote (h : HasMaj w 0x1A) : Encoded w (decVote w) := by
  have hw := packFP_fields h
  fun_cases decVote w
  any_goals exact encoded_none
  all_goals exact encoded_some rfl (by simp_all)

theorem encoded_decMatch (h : HasMaj w 0x1B) : Encoded w (decMatch w) := by
  have hw := packF3_fields h
  fun_cases decMatch w
  any_goals exact encoded_none
  all_goals exact encoded_some rfl (by simp_all)

theorem encoded_decPart (h : HasMaj w 0x1C) : Encoded w (decPart w) := by
  have hw := packFI_fields h
  fun_cases decPart w
  any_goals exact encoded_none
  all_goals exact encoded_some rfl (by simp_all)

theorem encoded_decLdg (h : HasMaj w 0x20) : Encoded w (decLdg w) := by
  have hw := packFM_fields h
  fun_cases decLdg w
  any_goals exact encoded_none
  all_goals exact encoded_some rfl (by simp_all)

theorem encoded_decStg (h : HasMaj w 0x21) : Encoded w (decStg w) := by
  have hw := packFM_fields h
  fun_cases decStg w
  any_goals exact encoded_none
  all_goals exact encoded_some rfl (by simp_all)

theorem encoded_decAtg (h : HasMaj w 0x22) : Encoded w (decAtg w) := by
  have hw := packFA_fields h
  fun_cases decAtg w
  any_goals exact encoded_none
  all_goals exact encoded_some rfl (by simp_all)

theorem encoded_decLdl (h : HasMaj w 0x23) : Encoded w (decLdl w) :=
  encoded_some rfl (packFLM_fields h)

theorem encoded_decStl (h : HasMaj w 0x24) : Encoded w (decStl w) := by
  have hw := packFLM_fields h
  fun_cases decStl w
  any_goals exact encoded_none
  all_goals exact encoded_some rfl (by simp_all)

theorem encoded_decAtl (h : HasMaj w 0x25) : Encoded w (decAtl w) := by
  have hw := packFA_fields h
  fun_cases decAtl w
  any_goals exact encoded_none
  all_goals exact encoded_some rfl (by simp_all)

theorem encoded_decScr (h : HasMaj w 0x26) : Encoded w (decScr w) := by
  have hw := packFA_fields h
  fun_cases decScr w
  any_goals exact encoded_none
  all_goals exact encoded_some rfl (by simp_all)

theorem encoded_decFence (h : HasMaj w 0x27) : Encoded w (decFence w) := by
  have hw : fld w 22 10 = 0 → _ := packFF_fields h
  fun_cases decFence w
  any_goals exact encoded_none
  all_goals exact encoded_some rfl (by simp_all)

theorem encoded_decTask (h : HasMaj w 0x28) : Encoded w (decTask w) := by
  have hw := packF3_fields h
  fun_cases decTask w
  any_goals exact encoded_none
  all_goals exact encoded_some rfl (by simp_all)

theorem encoded_decBaro (h : HasMaj w 0x29) : Encoded w (decBaro w) := by
  have hw := packF3_fields h
  fun_cases decBaro w
  any_goals exact encoded_none
  all_goals exact encoded_some rfl (by simp_all)

theorem encoded_decQueue (h : HasMaj w 0x2A) : Encoded w (decQueue w) := by
  have hw := packF3_fields h
  fun_cases decQueue w
  any_goals exact encoded_none
  all_goals exact encoded_some rfl (by simp_all)

theorem encoded_decOrder (h : HasMaj w 0x2B) : Encoded w (decOrder w) := by
  have hw := packF3_fields h
  fun_cases decOrder w
  any_goals exact encoded_none
  all_goals exact encoded_some rfl (by simp_all)

theorem encoded_decBra (h : HasMaj w 0x30) : Encoded w (decBra w) :=
  encoded_some rfl (packFB_fields h)

theorem encoded_decCall (h : HasMaj w 0x31) : Encoded w (decCall w) :=
  encoded_some rfl (packFB_fields h)

theorem encoded_decJmp (h : HasMaj w 0x32) : Encoded w (decJmp w) := by
  have hw := packF3_fields h
  fun_cases decJmp w
  any_goals exact encoded_none
  all_goals exact encoded_some rfl (by simp_all)

theorem encoded_decMig (h : HasMaj w 0x33) : Encoded w (decMig w) := by
  have hw := packFI_fields h
  fun_cases decMig w
  any_goals exact encoded_none
  all_goals exact encoded_some rfl (by simp_all)

theorem encoded_decSys (h : HasMaj w 0x34) : Encoded w (decSys w) := by
  have hw := packF3_fields h
  fun_cases decSys w
  any_goals exact encoded_none
  all_goals exact encoded_some rfl (by simp_all)

theorem encoded_decSelv (h : HasMaj w 0x3E) : Encoded w (decSelv w) := by
  have hw : flag w 31 = false → _ := packFS_fields h
  fun_cases decSelv w
  any_goals exact encoded_none
  all_goals exact encoded_some rfl (by simp_all)

theorem encoded_decXp (h : HasMaj w 0x3F) : Encoded w (decXp w) :=
  encoded_some rfl (packFX_fields h)

theorem encoded_decodeRaw (hodd : w.toNat % 2 = 1) : Encoded w (decodeRaw w) := by
  fun_cases decodeRaw w
  next hm => exact encoded_decIalu ⟨hodd, hm⟩
  next hm => exact encoded_decIalui ⟨hodd, hm⟩
  next hm => exact encoded_decIlog ⟨hodd, hm⟩
  next hm => exact encoded_decImisc ⟨hodd, hm⟩
  next hm => exact encoded_decIun ⟨hodd, hm⟩
  next hm => exact encoded_decIbit ⟨hodd, hm⟩
  next hm => exact encoded_decMovx ⟨hodd, hm⟩
  next hm => exact encoded_decMovi ⟨hodd, hm⟩
  next hm => exact encoded_decIcmp ⟨hodd, hm⟩
  next hm => exact encoded_decFcmp ⟨hodd, hm⟩
  next hm => exact encoded_decPlog ⟨hodd, hm⟩
  next hm => exact encoded_decIcmpi ⟨hodd, hm⟩
  next hm => exact encoded_decFalu ⟨hodd, hm⟩
  next hm => exact encoded_decFfma ⟨hodd, hm⟩
  next hm => exact encoded_decHalu ⟨hodd, hm⟩
  next hm => exact encoded_decSfu ⟨hodd, hm⟩
  next hm => exact encoded_decCvt ⟨hodd, hm⟩
  next hm => exact encoded_decPack ⟨hodd, hm⟩
  next hm => exact encoded_decFmisc ⟨hodd, hm⟩
  next hm => exact encoded_decScacc ⟨hodd, hm⟩
  next hm => exact encoded_decShfop ⟨hodd, hm⟩
  next hm => exact encoded_decPerm ⟨hodd, hm⟩
  next hm => exact encoded_decVote ⟨hodd, hm⟩
  next hm => exact encoded_decMatch ⟨hodd, hm⟩
  next hm => exact encoded_decPart ⟨hodd, hm⟩
  next hm => exact encoded_decLdg ⟨hodd, hm⟩
  next hm => exact encoded_decStg ⟨hodd, hm⟩
  next hm => exact encoded_decAtg ⟨hodd, hm⟩
  next hm => exact encoded_decLdl ⟨hodd, hm⟩
  next hm => exact encoded_decStl ⟨hodd, hm⟩
  next hm => exact encoded_decAtl ⟨hodd, hm⟩
  next hm => exact encoded_decScr ⟨hodd, hm⟩
  next hm => exact encoded_decFence ⟨hodd, hm⟩
  next hm => exact encoded_decTask ⟨hodd, hm⟩
  next hm => exact encoded_decBaro ⟨hodd, hm⟩
  next hm => exact encoded_decQueue ⟨hodd, hm⟩
  next hm => exact encoded_decOrder ⟨hodd, hm⟩
  next hm => exact encoded_decBra ⟨hodd, hm⟩
  next hm => exact encoded_decCall ⟨hodd, hm⟩
  next hm => exact encoded_decJmp ⟨hodd, hm⟩
  next hm => exact encoded_decMig ⟨hodd, hm⟩
  next hm => exact encoded_decSys ⟨hodd, hm⟩
  next hm => exact encoded_decSelv ⟨hodd, hm⟩
  next hm => exact encoded_decXp ⟨hodd, hm⟩
  next => exact encoded_none

end

/-! ### Halfwords, codes and byte strings (R29, R42) -/

theorem wf_decode16 (h : Half) : (decode16 h).wf = true := by
  fun_cases decode16 h <;> rfl

theorem encode_half {i : Instr} {v h : Half} (he : encode i = some (.half v)) (hv : v = h) : encode i = some (.half h) := by
  rw [he, hv]

theorem encode_decode16 {h : Half} (heven : h.toNat % 2 = 0) : encode (decode16 h) = some (.half h) := by
  have hw := pack16_fields heven
  fun_cases decode16 h
  case case16 =>
    have hop : h.toNat / 2 % 16 = 15 := by simp only [imp_false] at *; omega
    exact encode_half rfl (hop ▸ hw)
  all_goals exact encode_half rfl (‹h.toNat / 2 % 16 = _› ▸ hw)

/-- Bit 0 of a code tells its length (R29). -/
def LengthBit : Code → Prop
  | .half h => h.toNat % 2 = 0
  | .word w => w.toNat % 2 = 1

/-- What a code decodes to is well-formed and has the code as its encoding. -/
theorem encode_of_decodeCode {c : Code} {i : Instr} (hb : LengthBit c) (hd : decodeCode c = .ok i) :
    i.wf = true ∧ encode i = some c := by
  cases c with
  | half h =>
    obtain rfl : decode16 h = i := by simpa [decodeCode] using hd
    exact ⟨wf_decode16 h, encode_decode16 hb⟩
  | word w =>
    simp only [decodeCode] at hd
    split at hd
    · cases hd
    next j hj =>
      split at hd
      next hwf =>
        cases hd
        exact ⟨hwf, encoded_decodeRaw hb _ hj⟩
      · cases hd

theorem toNat_append_byte {n : Nat} (x : BitVec n) (b : Byte) : (x ++ b).toNat = x.toNat * 256 + b.toNat := by
  rw [BitVec.toNat_append, ← Nat.shiftLeft_add_eq_or_of_lt b.isLt, Nat.shiftLeft_eq]

/-- The byte appended last is the least significant one, the first of the image. -/
theorem leBytes_append {n : Nat} (k : Nat) (x : BitVec n) (b : Byte) :
    leBytes (k + 1) (x ++ b).toNat = b :: leBytes k x.toNat := by
  have := b.isLt
  have hb : BitVec.ofNat 8 (x.toNat * 256 + b.toNat) = b := by
    apply BitVec.eq_of_toNat_eq
    rw [BitVec.toNat_ofNat]
    omega
  rw [toNat_append_byte, leBytes, hb, show (x.toNat * 256 + b.toNat) / 256 = x.toNat by omega]

theorem leBytes_one (b : Byte) : leBytes 1 b.toNat = [b] := by simp [leBytes]

/-- The code at the front of a byte string is of the length that its bit 0 tells, and the string begins with its bytes. -/
theorem frontCode_spec {bs : List Byte} {c : Code} (h : frontCode bs = some c) :
    LengthBit c ∧ c.bytes = bs.take c.size := by
  fun_cases frontCode bs
  case case1 b0 b1 rest hb =>
    obtain rfl : Code.half (b1 ++ b0) = c := by simpa [frontCode, hb] using h
    refine ⟨?_, ?_⟩
    · rw [LengthBit, toNat_append_byte]
      omega
    · simp [Code.bytes, Code.size, leBytes_append, leBytes_one]
  case case2 b0 b1 hb b2 b3 rest =>
    obtain rfl : Code.word (b3 ++ b2 ++ b1 ++ b0) = c := by simpa [frontCode, hb] using h
    refine ⟨?_, ?_⟩
    · rw [LengthBit, toNat_append_byte]
      omega
    · simp [Code.bytes, Code.size, leBytes_append, leBytes_one]
  case case3 b0 b1 hb rest hrest =>
    simp [frontCode, hb] at h
  case case4 hbs =>
    simp [frontCode] at h

theorem decode_eq_ok {bs : List Byte} {i : Instr} {n : Nat} (h : decode bs = .ok (i, n)) :
    ∃ c, frontCode bs = some c ∧ decodeCode c = .ok i ∧ n = c.size := by
  unfold decode at h
  split at h
  · cases h
  next c hc =>
    split at h
    · cases h
    next j hj =>
      cases h
      exact ⟨c, hc, hj, rfl⟩

/-- Settles O34: the bytes at the front are those of a code (`frontCode_spec`), and what that code decodes to is well-formed
and encodes to it (`encode_of_decodeCode`). -/
theorem onlyEncodingsDecode : Obligations.OnlyEncodingsDecode := by
  intro bs i n h
  obtain ⟨c, hc, hd, rfl⟩ := decode_eq_ok h
  obtain ⟨hb, hbytes⟩ := frontCode_spec hc
  obtain ⟨hwf, he⟩ := encode_of_decodeCode hb hd
  exact ⟨hwf, c, he, rfl, hbytes⟩

end Sys2Proof.Laws.OnlyEncodings

/-! ## Bytes of main memory, and requests at the home (R190, R196 to R199)

A state is coherent when its memory is in canonical form and every word that the heddle calls owned stands in its owner's L1. The operations
of the heddle keep that and the latest value of each word (`Moved`), and a store changes the bytes it names and no other (`byteAt_cohStore`). -/

namespace Sys2Proof.Laws.Bytes
open Sys2Proof Sys2Proof.Machine

/-! ### Coherent states -/

/-- What `Sound` says of main memory, the heddle and the L1s. -/
structure Coherent (s : State) : Prop where
  wf    : Memory.wf s.mem = true
  owned : Owned s

theorem coherent_of_sound {s : State} (h : Sound s) : Coherent s := by
  obtain ⟨hwf, ho⟩ := h
  simp only [State.memWf, Bool.and_eq_true] at hwf
  exact ⟨hwf.1.1.1.1, ho⟩

theorem coherent_of_moved {s t : State} (h : Moved s t) : Coherent t := ⟨h.wf, h.owned⟩

theorem coherent_of_written {s t : State} {line : Nat} {i : Fin 32} {v : Word} (h : Written s t line i v) : Coherent t := ⟨h.wf, h.owned⟩

theorem moved_refl {s : State} (h : Coherent s) : Moved s s := .refl h.wf h.owned

/-- The same heddle, L1 and memory. -/
theorem moved_of_same {s t : State} (h : Coherent s) (h1 : t.hed = s.hed) (h2 : t.l1 = s.l1) (h3 : t.mem = s.mem) : Moved s t :=
  .of_same h.wf h.owned h1 h2 h3

theorem moved_foldl {α : Type} {f : State → α → State} (hf : ∀ s a, Coherent s → Moved s (f s a)) (xs : List α) {s : State} (h : Coherent s) :
    Moved s (xs.foldl f s) :=
  .foldl f xs s h.wf h.owned fun s a hm ho => hf s a ⟨hm, ho⟩

/-! ### L2 residency (R310) and L1 lines that leave (R198) -/

theorem backState_ne_owned (s : State) (line x : Nat) : backState s line ≠ .O x := by
  unfold backState
  split <;> simp

theorem moved_revokeLine {s : State} (h : Coherent s) (line : Nat) : Moved s (revokeLine s line) :=
  moved_foldl (fun s i h => moved_hRevoke s line i _ (backState_ne_owned s line) h.wf h.owned) _ h

theorem moved_l2Touch {s : State} (h : Coherent s) (q : Req) (line : Nat) : Moved s (l2Touch s q line) := by
  have hsame : ∀ {t u : State}, Moved s t → u.hed = t.hed → u.l1 = t.l1 → u.mem = t.mem → Moved s u :=
    fun ht h1 h2 h3 => ht.trans (moved_of_same (coherent_of_moved ht) h1 h2 h3)
  unfold l2Touch
  split
  next => exact moved_refl h
  next t _ =>
    dsimp only
    split
    next l _ =>
      split
      next => exact hsame (moved_refl h) rfl rfl rfl
      next => exact hsame (moved_refl h) rfl rfl rfl
    next =>
      split
      next w _ =>
        split
        next =>
          split
          next => exact hsame (moved_refl h) rfl rfl rfl
          next => exact hsame (moved_refl h) rfl rfl rfl
        next => exact hsame (moved_refl h) rfl rfl rfl
      next =>
        split
        next => exact hsame (moved_refl h) rfl rfl rfl
        next =>
          split
          next v _ =>
            have h1 : Moved s { s with fresh := s.fresh + 1 } := moved_of_same h rfl rfl rfl
            have h2 := h1.trans (moved_revokeLine (coherent_of_moved h1) v.line)
            generalize revokeLine _ v.line = t at h2 ⊢
            exact hsame h2 rfl rfl rfl
          next => exact hsame (moved_refl h) rfl rfl rfl

/-! ### Lines that leave an L1 (R190, R198) -/

theorem l1WordOf_filter (s : State) {keep : L1Line → Bool} {c line : Nat} (h : ∀ l : L1Line, l.core = c → l.line = line → keep l = true)
    (i : Fin 32) : l1WordOf { s with l1 := s.l1.filter keep } c line i = l1WordOf s c line i := by
  unfold l1WordOf l1Get
  have hfind : (s.l1.filter keep).find? (fun l => l.core == c && l.line == line) = s.l1.find? fun l => l.core == c && l.line == line := by
    rw [List.find?_filter]
    congr 1
    funext l
    by_cases hl : l.core = c ∧ l.line = line
    · simp [h l hl.1 hl.2, hl]
    · have : (l.core == c && l.line == line) = false := by simpa using hl
      simp [this]
  simp only [hfind]

/-- L1 lines without words that the heddle calls owned go. -/
theorem moved_filterL1 {s : State} (hc : Coherent s) {keep : L1Line → Bool}
    (h : ∀ line i x, heddleWord s line i = .O x → ∀ l : L1Line, l.core = x → l.line = line → keep l = true) :
    Moved s { s with l1 := s.l1.filter keep } :=
  .of_owned hc.wf hc.owned rfl (fun _ _ _ => Iff.rfl) fun c line i v ho hv => by
    rw [l1WordOf_filter s (h line i c ho), hv]

theorem heddle_hRevoke_ne (s : State) (line : Nat) (i : Fin 32) (st : WState) {x : Nat} (hst : st ≠ .O x) (ln : Nat) (j : Fin 32)
    (h : heddleWord s ln j ≠ .O x) : heddleWord (hRevoke s line i st) ln j ≠ .O x := by
  unfold hRevoke
  split
  next =>
    rw [heddle_hSetWord]
    split
    next => exact hst
    next => exact h
  next => exact h

/-- One word of a core's line is written back if the core owns it. -/
def flushWord (core line : Nat) (s : State) (i : Fin 32) : State :=
  match (l1Get s core line).w[i] with
  | .own _ => hRevoke s line i (backState s line)
  | _ => s

theorem flushLine_eq (s : State) (core line : Nat) : flushLine s core line = (List.finRange 32).foldl (flushWord core line) s := rfl

theorem moved_flushWord (core line : Nat) (s : State) (i : Fin 32) (h : Coherent s) : Moved s (flushWord core line s i) := by
  unfold flushWord
  split
  next => exact moved_hRevoke s line i _ (backState_ne_owned s line) h.wf h.owned
  next => exact moved_refl h

theorem heddle_flushWord_ne {core : Nat} (line : Nat) (s : State) (i : Fin 32) (x ln : Nat) (j : Fin 32) (h : heddleWord s ln j ≠ .O x) :
    heddleWord (flushWord core line s i) ln j ≠ .O x := by
  unfold flushWord
  split
  next => exact heddle_hRevoke_ne s line i _ (backState_ne_owned s line x) ln j h
  next => exact h

theorem heddle_flushWord_self {core line : Nat} {s : State} (h : Coherent s) (i : Fin 32) :
    heddleWord (flushWord core line s i) line i ≠ .O core := by
  by_cases ho : heddleWord s line i = .O core
  · obtain ⟨v, hv⟩ := h.owned line i core ho
    have hw : (l1Get s core line).w[i] = .own v := hv
    unfold flushWord
    rw [hw]
    simp only
    rw [heddle_hRevoke s line i core _ ho]
    exact backState_ne_owned s line core
  · exact heddle_flushWord_ne line s i core line i ho

theorem moved_flushLine {s : State} (h : Coherent s) (core line : Nat) : Moved s (flushLine s core line) :=
  moved_foldl (moved_flushWord core line) _ h

theorem heddle_foldl_flushWord_ne (core line : Nat) (xs : List (Fin 32)) {s : State} (hc : Coherent s) {i : Fin 32}
    (h : i ∈ xs ∨ heddleWord s line i ≠ .O core) : heddleWord (xs.foldl (flushWord core line) s) line i ≠ .O core := by
  induction xs generalizing s with
  | nil => exact h.resolve_left (List.not_mem_nil)
  | cons a xs ih =>
    refine ih (coherent_of_moved (moved_flushWord core line s a hc)) ?_
    rcases h with h | h
    · rcases List.mem_cons.1 h with rfl | h
      · exact .inr (heddle_flushWord_self hc i)
      · exact .inl h
    · exact .inr (heddle_flushWord_ne line s a core line i h)

/-- A core whose line was flushed owns no word of it (R198, R230). -/
theorem heddle_flushLine {s : State} (h : Coherent s) (core line : Nat) (i : Fin 32) : heddleWord (flushLine s core line) line i ≠ .O core :=
  heddle_foldl_flushWord_ne core line _ h (.inl (List.mem_finRange i))

theorem heddle_flushLine_ne {core : Nat} (s : State) (line x ln : Nat) (j : Fin 32) (h : heddleWord s ln j ≠ .O x) :
    heddleWord (flushLine s core line) ln j ≠ .O x := by
  rw [flushLine_eq]
  generalize List.finRange 32 = xs
  induction xs generalizing s with
  | nil => exact h
  | cons a xs ih => exact ih _ (heddle_flushWord_ne line s a x ln j h)

theorem moved_evictLine {s : State} (h : Coherent s) (core line : Nat) : Moved s (evictLine s core line) := by
  have h1 := moved_flushLine h core line
  refine h1.trans (moved_filterL1 (coherent_of_moved h1) fun ln i x ho l hl hln => ?_)
  by_cases hcl : x = core ∧ ln = line
  · obtain ⟨rfl, rfl⟩ := hcl
    exact absurd ho (heddle_flushLine h _ _ i)
  · have : ¬ (l.core = core ∧ l.line = line) := by rwa [hl, hln]
    rcases Classical.not_and_iff_not_or_not.1 this with h | h <;> simp [h]

theorem moved_l1Room {s : State} (h : Coherent s) (core line : Nat) : Moved s (l1Room s core line) := by
  unfold l1Room
  dsimp only
  split
  next => exact moved_refl h
  next =>
    split
    next v _ =>
      have h1 : Moved s { s with fresh := s.fresh + 1 } := moved_of_same h rfl rfl rfl
      exact h1.trans (moved_evictLine (coherent_of_moved h1) core v.line)
    next => exact moved_refl h

/-! ### Loads (R191, R197, R198) -/

theorem heddle_ne_of_l1 {s : State} (h : Coherent s) {q line : Nat} {i : Fin 32} (hn : ∀ v, l1WordOf s q line i ≠ .own v) :
    heddleWord s line i ≠ .O q := fun ho => by
  obtain ⟨v, hv⟩ := h.owned line i q ho
  exact hn v hv

theorem moved_fillSi {s : State} (h : Coherent s) (q line : Nat) (want : List (Fin 32)) : Moved s (fillSi s q line want) := by
  refine moved_foldl (fun s i h => ?_) _ h
  have hcopy : (∀ v, l1WordOf s q line i ≠ .own v) → ∀ x, Moved s (l1SetWord s q line i x) :=
    fun hn x => moved_l1Set_copy s q line i x h.wf h.owned (heddle_ne_of_l1 h hn)
  split
  next => exact moved_refl h
  next => exact moved_refl h
  next hown _ =>
    split
    next => exact hcopy hown _
    next => exact hcopy hown _

/-- A word that nobody owns takes another state without an owner. -/
theorem moved_hSetWord {s : State} (h : Coherent s) {line : Nat} {i : Fin 32} {st : WState} (hn : ∀ x, heddleWord s line i ≠ .O x)
    (hst : ∀ x, st ≠ .O x) : Moved s (hSetWord s line i st) := by
  refine .of_owned h.wf h.owned rfl (fun ln j x => ?_) fun c ln j v _ hv => hv
  rw [heddle_hSetWord]
  split
  next e =>
    obtain ⟨rfl, rfl⟩ := e
    exact ⟨fun e => absurd e (hst x), fun e => absurd e (hn x)⟩
  next => exact Iff.rfl

/-- The sharer vector of a line changes, its words do not. -/
theorem moved_hSetSharers {s : State} (h : Coherent s) (line : Nat) (m : Mask) : Moved s (hSet s { hGet s line with sharers := m }) := by
  refine .of_owned h.wf h.owned rfl (fun ln j x => ?_) fun c ln j v _ hv => hv
  have hw : heddleWord (hSet s { hGet s line with sharers := m }) ln j = heddleWord s ln j := by
    unfold heddleWord
    rw [hGet_hSet]
    split
    next e =>
      obtain rfl : ln = line := e.trans (hGet_line s line)
      rfl
    next => rfl
  rw [hw]

theorem moved_revokeFrom {s : State} (h : Coherent s) (q line : Nat) (want : List (Fin 32)) :
    Moved s (want.foldl (fun s i => match (hGet s line).w[i] with
      | .O x => if x = q then s else hRevoke s line i .H
      | _ => s) s) := by
  refine moved_foldl (fun s i h => ?_) _ h
  split
  next =>
    split
    next => exact moved_refl h
    next => exact moved_hRevoke s line i .H (by simp) h.wf h.owned
  next => exact moved_refl h

theorem moved_copyWi {s : State} (h : Coherent s) (q line : Nat) :
    Moved s ((List.finRange 32).foldl (fun s i => match (hGet s line).w[i] with
      | .O x => if x = q then s else l1SetWord s q line i .inv
      | _ => hSetWord (l1SetWord s q line i (.wi (homeWord s line i))) line i .S) s) := by
  refine moved_foldl (fun s i h => ?_) _ h
  split
  next x hx =>
    change heddleWord s line i = .O x at hx
    split
    next => exact moved_refl h
    next hq => exact moved_l1Set_copy s q line i .inv h.wf h.owned fun e => hq (by rw [hx] at e; injection e)
  next hx =>
    change ∀ x, heddleWord s line i = .O x → False at hx
    have h1 := moved_l1Set_copy s q line i (.wi (homeWord s line i)) h.wf h.owned (hx q)
    exact h1.trans (moved_hSetWord (coherent_of_moved h1) hx (by simp))

theorem moved_fillWi {s : State} (h : Coherent s) (q line : Nat) (want : List (Fin 32)) : Moved s (fillWi s q line want) := by
  have h1 := moved_revokeFrom h q line want
  have h2 := h1.trans (moved_copyWi (coherent_of_moved h1) q line)
  exact h2.trans (moved_hSetSharers (coherent_of_moved h2) line _)

theorem moved_moveLoad {s : State} (h : Coherent s) (q : Req) (pol line : Nat) (want : List (Fin 32)) :
    Moved s (moveLoad s q pol line want) := by
  unfold moveLoad
  split
  next => exact moved_l2Touch h q line
  next c _ =>
    split
    next => exact moved_refl h
    next =>
      have h1 := moved_l2Touch h q line
      have h2 := h1.trans (moved_l1Room (coherent_of_moved h1) c line)
      dsimp only
      split
      next => exact h2.trans (moved_foldl (fun s i h => moved_takeOwn s c line i h.wf h.owned) _ (coherent_of_moved h2))
      next => exact h1
      next => exact h2.trans (moved_fillSi (coherent_of_moved h2) c line want)
      next => exact h2.trans (moved_fillWi (coherent_of_moved h2) c line want)

/-! ### Stores within a line (R192, R197) -/

theorem moved_homeTouch {s : State} (h : Coherent s) (q : Req) (pol line : Nat) (want : List (Fin 32)) :
    Moved s (homeTouch s q pol line want) := by
  unfold homeTouch
  split
  next =>
    split
    next => exact moved_refl h
    next => exact moved_l2Touch h q line
  next => exact moved_refl h

/-- The words of a store, each with its bytes merged in. -/
def storeWords (q : Option Nat) (pol line pa : Nat) (bs : List Byte) (ws : List (Fin 32)) (s : State) : State :=
  ws.foldl (fun s i => writeWord s q pol line i (mergeWord (latest s line i) (line * 128 + i.val * 4) pa bs)) s

/-- The state in which the words of a store are written: the home has been asked, and the L1 has room. -/
def readyToStore (s : State) (q : Req) (pol pa : Nat) (n : Nat) : State :=
  let t := homeTouch s q pol (lineOf pa) (wordsOf pa n)
  match q.core with
  | some c => if pol = 0 || pol = 2 then l1Room t c (lineOf pa) else t
  | none => t

theorem cohStore_eq (s : State) (q : Req) (pol pa : Nat) (bs : List Byte) :
    cohStore s q pol pa bs = storeWords q.core pol (lineOf pa) pa bs (wordsOf pa bs.length) (readyToStore s q pol pa bs.length) := rfl

theorem moved_readyToStore {s : State} (h : Coherent s) (q : Req) (pol pa n : Nat) : Moved s (readyToStore s q pol pa n) := by
  have h1 := moved_homeTouch h q pol (lineOf pa) (wordsOf pa n)
  unfold readyToStore
  dsimp only
  split
  next c _ =>
    split
    next => exact h1.trans (moved_l1Room (coherent_of_moved h1) c _)
    next => exact h1
  next => exact h1

theorem latest_storeWords (q : Option Nat) (pol line pa : Nat) (bs : List Byte) (ws : List (Fin 32)) (hnd : ws.Nodup) {s : State} (h : Coherent s) :
    Coherent (storeWords q pol line pa bs ws s) ∧ ∀ ln j, latest (storeWords q pol line pa bs ws s) ln j =
      if ln = line ∧ j ∈ ws then mergeWord (latest s ln j) (ln * 128 + j.val * 4) pa bs else latest s ln j := by
  induction ws generalizing s with
  | nil => exact ⟨h, fun ln j => by simp [storeWords]⟩
  | cons i ws ih =>
    obtain ⟨hi, hws⟩ := List.nodup_cons.1 hnd
    have h1 := written_writeWord s q pol line i (mergeWord (latest s line i) (line * 128 + i.val * 4) pa bs) h.wf h.owned
    obtain ⟨hc, hl⟩ := ih hws (coherent_of_written h1)
    refine ⟨hc, fun ln j => ?_⟩
    change latest (storeWords q pol line pa bs ws _) ln j = _
    rw [hl, h1.latest]
    by_cases hln : ln = line
    · subst hln
      by_cases hj : j = i
      · subst hj
        simp [hi]
      · simp [hj]
    · simp [hln]

theorem nodup_wordsOf (pa n : Nat) : (wordsOf pa n).Nodup := (List.nodup_finRange 32).filter _

theorem latest_cohStore {s : State} (h : Coherent s) (q : Req) (pol pa : Nat) (bs : List Byte) :
    Coherent (cohStore s q pol pa bs) ∧ ∀ ln j, latest (cohStore s q pol pa bs) ln j =
      if ln = lineOf pa ∧ j ∈ wordsOf pa bs.length then mergeWord (latest s ln j) (ln * 128 + j.val * 4) pa bs else latest s ln j := by
  have h1 := moved_readyToStore h q pol pa bs.length
  obtain ⟨hc, hl⟩ := latest_storeWords q.core pol (lineOf pa) pa bs _ (nodup_wordsOf pa bs.length) (coherent_of_moved h1)
  rw [cohStore_eq]
  refine ⟨hc, fun ln j => ?_⟩
  rw [hl, h1.latest]

/-! ### Bytes of main memory -/

/-- The latest value of a byte. -/
def byteAt (s : State) (a : Nat) : Byte := (latest s (lineOf a) (wordIn a)).extractLsb' (8 * (a % 4)) 8

theorem length_cohRead (s : State) (a n : Nat) : (cohRead s a n).length = n := by
  induction n generalizing a with
  | zero => rfl
  | succ n ih => simp [cohRead, ih]

theorem getElem?_cohRead (s : State) (a n k : Nat) (h : k < n) : (cohRead s a n)[k]? = some (byteAt s (a + k)) := by
  induction n generalizing a k with
  | zero => omega
  | succ n ih =>
    cases k with
    | zero => rfl
    | succ k =>
      rw [cohRead, List.getElem?_cons_succ, ih (a + 1) k (by omega), Nat.add_right_comm]
      rfl

theorem byteAt_of_latest {s t : State} (h : ∀ line i, latest t line i = latest s line i) (a : Nat) : byteAt t a = byteAt s a := by
  rw [byteAt, byteAt, h]

theorem byteAt_moved {s t : State} (h : Moved s t) (a : Nat) : byteAt t a = byteAt s a := byteAt_of_latest h.latest a

/-- Reads depend on the latest bytes alone. -/
theorem cohRead_congr {s t : State} {a n : Nat} (h : ∀ k < n, byteAt t (a + k) = byteAt s (a + k)) : cohRead t a n = cohRead s a n := by
  apply List.ext_getElem?
  intro k
  by_cases hk : k < n
  · rw [getElem?_cohRead t a n k hk, getElem?_cohRead s a n k hk, h k hk]
  · rw [List.getElem?_eq_none (by rw [length_cohRead]; omega), List.getElem?_eq_none (by rw [length_cohRead]; omega)]

/-- Byte k of a number of four bytes. -/
theorem byte_ofBytes (b : Nat → Byte) (k : Nat) (hk : k < 4) :
    (BitVec.ofNat 32 (leNat ((List.range 4).map b))).extractLsb' (8 * k) 8 = b k := by
  have h0 := (b 0).isLt
  have h1 := (b 1).isLt
  have h2 := (b 2).isLt
  have h3 := (b 3).isLt
  apply BitVec.eq_of_toNat_eq
  have hsum : leNat ((List.range 4).map b) = (b 0).toNat + 256 * ((b 1).toNat + 256 * ((b 2).toNat + 256 * (b 3).toNat)) := by
    simp [List.range_succ, leNat]
  rw [BitVec.extractLsb'_toNat, BitVec.toNat_ofNat, hsum, Nat.shiftRight_eq_div_pow]
  interval_cases k <;> simp <;> omega

theorem byte_mergeWord (old : Word) (wordPa pa : Nat) (bs : List Byte) (k : Nat) (hk : k < 4) :
    (mergeWord old wordPa pa bs).extractLsb' (8 * k) 8 =
      if pa ≤ wordPa + k then (bs[wordPa + k - pa]?).getD (old.extractLsb' (8 * k) 8) else old.extractLsb' (8 * k) 8 :=
  byte_ofBytes (fun k => if pa ≤ wordPa + k then (bs[wordPa + k - pa]?).getD (old.extractLsb' (8 * k) 8) else old.extractLsb' (8 * k) 8) k hk

theorem wordIn_val (a : Nat) : (wordIn a).val = a % 128 / 4 := by
  have : a % 128 / 4 < 32 := by omega
  simp [wordIn, Fin.ofNat, Nat.mod_eq_of_lt this]

theorem mem_wordsOf {pa n : Nat} {i : Fin 32} : i ∈ wordsOf pa n ↔ pa % 128 < i.val * 4 + 4 ∧ i.val * 4 < pa % 128 + n := by
  simp [wordsOf]

/-- The place of a byte in its line and its word. -/
theorem byte_place (a : Nat) : lineOf a * 128 + (wordIn a).val * 4 + a % 4 = a := by
  rw [wordIn_val, lineOf]
  omega

/-- A store within one line changes the bytes it names and no other (R192, R196). -/
theorem byteAt_cohStore {s : State} (h : Coherent s) (q : Req) (pol pa : Nat) (bs : List Byte) (hfit : pa % 128 + bs.length ≤ 128) (a : Nat) :
    byteAt (cohStore s q pol pa bs) a = if pa ≤ a ∧ a < pa + bs.length then (bs[a - pa]?).getD 0 else byteAt s a := by
  have hplace := byte_place a
  have hw := wordIn_val a
  unfold byteAt
  rw [(latest_cohStore h q pol pa bs).2]
  by_cases hin : lineOf a = lineOf pa ∧ wordIn a ∈ wordsOf pa bs.length
  · rw [if_pos hin, byte_mergeWord _ _ _ _ _ (by omega), hplace]
    by_cases hpa : pa ≤ a
    · rw [if_pos hpa]
      by_cases hlt : a < pa + bs.length
      · rw [if_pos ⟨hpa, hlt⟩, List.getElem?_eq_getElem (by omega)]
        rfl
      · rw [if_neg (by omega), List.getElem?_eq_none (by omega)]
        rfl
    · rw [if_neg hpa, if_neg (by omega)]
  · rw [if_neg hin, if_neg]
    rintro ⟨hpa, hlt⟩
    refine hin ⟨?_, mem_wordsOf.2 ?_⟩
    · simp only [lineOf] at *
      omega
    · rw [hw]
      omega

/-! ### The device's own writes (R199) -/

theorem byteAt_cutLines (q : Req) (pol : Nat) (fuel pa : Nat) (bs : List Byte) (hfuel : pa % 128 + bs.length ≤ 128 * fuel) {s : State}
    (h : Coherent s) :
    let t := (cutLines pa bs fuel).foldl (fun s x => cohStore s q pol x.1 x.2) s
    Coherent t ∧ ∀ a, byteAt t a = if pa ≤ a ∧ a < pa + bs.length then (bs[a - pa]?).getD 0 else byteAt s a := by
  induction fuel generalizing pa bs s with
  | zero =>
    have : bs.length = 0 := by omega
    exact ⟨h, fun a => (if_neg (by omega)).symm⟩
  | succ fuel ih =>
    rw [cutLines]
    split
    next hnil =>
      have : bs.length = 0 := by simpa using hnil
      exact ⟨h, fun a => (if_neg (by omega)).symm⟩
    next =>
      have hlen : (bs.take (128 - pa % 128)).length = min (128 - pa % 128) bs.length := List.length_take
      have hdrop : (bs.drop (128 - pa % 128)).length = bs.length - (128 - pa % 128) := List.length_drop
      have hc := (latest_cohStore h q pol pa (bs.take (128 - pa % 128))).1
      obtain ⟨hc', hb⟩ := ih (pa + (128 - pa % 128)) (bs.drop (128 - pa % 128)) (by omega) hc
      refine ⟨hc', fun a => ?_⟩
      rw [List.foldl_cons, hb, byteAt_cohStore h q pol pa _ (by omega)]
      by_cases hlow : a < pa + (128 - pa % 128)
      · rw [if_neg (by omega)]
        by_cases hin : pa ≤ a ∧ a < pa + bs.length
        · rw [if_pos (by omega), if_pos hin, List.getElem?_take_of_lt (by omega)]
        · rw [if_neg (by omega), if_neg hin]
      · by_cases hin : pa ≤ a ∧ a < pa + bs.length
        · rw [if_pos (by omega), if_pos hin, List.getElem?_drop]
          congr 2
          omega
        · rw [if_neg (by omega), if_neg (by omega), if_neg hin]

theorem coherent_write {s : State} (h : Coherent s) (a : Nat) (bs : List Byte) : Coherent { s with mem := Memory.write s.mem a bs } :=
  ⟨Memory.wf_write _ _ _ h.wf, h.owned⟩

theorem coherent_devWrite {s : State} (h : Coherent s) (q : Req) (pa : Nat) (bs : List Byte) : Coherent (devWrite s q pa bs) := by
  unfold devWrite
  split
  next => exact coherent_write h pa bs
  next => exact (byteAt_cutLines _ 1 _ pa bs (by omega) h).1

/-- A write outside screed changes the bytes it names and no other. -/
theorem byteAt_devWrite {s : State} (h : Coherent s) (q : Req) {pa : Nat} (bs : List Byte) (hpa : inScreed pa = false) (a : Nat) :
    byteAt (devWrite s q pa bs) a = if pa ≤ a ∧ a < pa + bs.length then (bs[a - pa]?).getD 0 else byteAt s a := by
  unfold devWrite
  rw [if_neg (by simp [hpa])]
  exact (byteAt_cutLines _ 1 _ pa bs (by omega) h).2 a

theorem length_devRead (s : State) (a n : Nat) : (devRead s a n).length = n := by
  unfold devRead
  split
  next => exact Memory.length_read _ _ _
  next => exact length_cohRead _ _ _

/-- What was written is read back. -/
theorem devRead_devWrite {s : State} (h : Coherent s) (q : Req) (pa : Nat) (bs : List Byte) (n : Nat) (hn : n ≤ bs.length) :
    devRead (devWrite s q pa bs) pa n = bs.take n := by
  apply List.ext_getElem?
  intro k
  by_cases hk : k < n
  · have hbs : k < bs.length := by omega
    rw [List.getElem?_take_of_lt hk, List.getElem?_eq_getElem hbs]
    cases hs : inScreed pa with
    | true =>
      rw [devRead, if_pos hs, Memory.getElem?_read _ _ _ _ hk, devWrite, if_pos hs, Memory.get_write _ _ _ _ h.wf, if_pos (by omega)]
      simp [List.getElem?_eq_getElem hbs]
    | false =>
      rw [devRead, if_neg (by simp [hs]), getElem?_cohRead _ _ _ _ hk, byteAt_devWrite h q bs hs, if_pos (by omega)]
      simp [List.getElem?_eq_getElem hbs]
  · rw [List.getElem?_eq_none (by rw [length_devRead]; omega), List.getElem?_eq_none (by rw [List.length_take]; omega)]

/-- Bytes of main memory beside a write to main memory. -/
theorem devRead_devWrite_apart {s : State} (h : Coherent s) (q : Req) {pa : Nat} (bs : List Byte) {a n : Nat} (hpa : inScreed pa = false)
    (ha : inScreed a = false) (hd : a + n ≤ pa ∨ pa + bs.length ≤ a) : devRead (devWrite s q pa bs) a n = devRead s a n := by
  rw [devRead, devRead, if_neg (by simp [ha]), if_neg (by simp [ha])]
  refine cohRead_congr fun k hk => ?_
  rw [byteAt_devWrite h q bs hpa, if_neg (by omega)]

end Sys2Proof.Laws.Bytes

/-! ### What the device's own writes leave as it was -/

namespace Sys2Proof.Laws.Bytes
open Sys2Proof Sys2Proof.Machine

/-- Only memory, the heddle and the L1s differ. -/
def OnlyWords (s t : State) : Prop := ∃ m h l, t = { s with mem := m, hed := h, l1 := l }

theorem onlyWords_refl (s : State) : OnlyWords s s := ⟨_, _, _, rfl⟩

theorem OnlyWords.trans {s t u : State} (h1 : OnlyWords s t) (h2 : OnlyWords t u) : OnlyWords s u := by
  obtain ⟨_, _, _, rfl⟩ := h1
  obtain ⟨_, _, _, rfl⟩ := h2
  exact ⟨_, _, _, rfl⟩

theorem OnlyWords.eq {s t : State} (h : OnlyWords s t) : t = { s with mem := t.mem, hed := t.hed, l1 := t.l1 } := by
  obtain ⟨_, _, _, rfl⟩ := h
  rfl

theorem onlyWords_foldl {α : Type} {f : State → α → State} (hf : ∀ s a, OnlyWords s (f s a)) (xs : List α) (s : State) :
    OnlyWords s (xs.foldl f s) := by
  induction xs generalizing s with
  | nil => exact onlyWords_refl s
  | cons a xs ih => exact (hf s a).trans (ih _)

theorem onlyWords_hSetWord (s : State) (line : Nat) (i : Fin 32) (x : WState) : OnlyWords s (hSetWord s line i x) := ⟨_, _, _, rfl⟩

theorem onlyWords_l1SetWord (s : State) (core line : Nat) (i : Fin 32) (x : L1Word) : OnlyWords s (l1SetWord s core line i x) := ⟨_, _, _, rfl⟩

theorem onlyWords_setHomeWord (s : State) (line : Nat) (i : Fin 32) (x : Word) : OnlyWords s (setHomeWord s line i x) := ⟨_, _, _, rfl⟩

theorem onlyWords_hInvalidate (s : State) (line : Nat) : OnlyWords s (hInvalidate s line) := ⟨_, _, _, rfl⟩

theorem onlyWords_hRevoke (s : State) (line : Nat) (i : Fin 32) (st : WState) : OnlyWords s (hRevoke s line i st) := by
  unfold hRevoke
  split
  next => exact ⟨_, _, _, rfl⟩
  next => exact onlyWords_refl s

theorem onlyWords_updateCopy (s : State) (q : Option Nat) (line : Nat) (i : Fin 32) (v : Word) : OnlyWords s (updateCopy s q line i v) := by
  unfold updateCopy
  split
  next => exact onlyWords_refl s
  next =>
    split
    next => exact onlyWords_l1SetWord ..
    next => exact onlyWords_l1SetWord ..
    next => exact onlyWords_refl s

theorem onlyWords_writeHome (s : State) (q : Option Nat) (line : Nat) (i : Fin 32) (v : Word) : OnlyWords s (writeHome s q line i v) := by
  unfold writeHome
  refine OnlyWords.trans ?_ ((onlyWords_setHomeWord _ line i v).trans (onlyWords_updateCopy _ q line i v))
  split
  next => exact onlyWords_hInvalidate s line
  next => exact onlyWords_hRevoke s line i .H
  next => exact onlyWords_refl s

theorem onlyWords_setOwner (s : State) (q line : Nat) (i : Fin 32) (v : Word) :
    OnlyWords s (setOwnerSlot (hSetWord (l1SetWord s q line i (.own v)) line i (.O q)) line i q) :=
  ((onlyWords_l1SetWord s q line i _).trans (onlyWords_hSetWord _ line i _)).trans (onlyWords_setHomeWord _ line i _)

theorem onlyWords_takeOwn (s : State) (q line : Nat) (i : Fin 32) : OnlyWords s (takeOwn s q line i) := by
  unfold takeOwn
  split
  next x _ =>
    split
    next => exact onlyWords_refl s
    next => exact (onlyWords_l1SetWord s x line i _).trans (onlyWords_setOwner _ q line i _)
  next => exact (onlyWords_hInvalidate s line).trans (onlyWords_setOwner _ q line i _)
  next => exact onlyWords_setOwner s q line i _

theorem onlyWords_writeWord (s : State) (q : Option Nat) (pol line : Nat) (i : Fin 32) (v : Word) : OnlyWords s (writeWord s q pol line i v) := by
  unfold writeWord
  split
  next c => exact (onlyWords_takeOwn s c line i).trans (onlyWords_l1SetWord _ c line i _)
  next c => exact (onlyWords_writeHome s _ line i v).trans (onlyWords_l1SetWord _ c line i _)
  next =>
    unfold writeFwd
    split
    next x _ => exact (onlyWords_l1SetWord s x line i _).trans (onlyWords_updateCopy _ q line i v)
    next => exact onlyWords_writeHome s q line i v
  next => exact onlyWords_writeHome s q line i v

theorem onlyWords_storeWords (q : Option Nat) (pol line pa : Nat) (bs : List Byte) (ws : List (Fin 32)) (s : State) :
    OnlyWords s (storeWords q pol line pa bs ws s) := by
  unfold storeWords
  exact onlyWords_foldl (fun s i => onlyWords_writeWord s q pol line i _) ws s

/-- A store of an agent without an L1 asks nothing of L2 (R199). -/
theorem onlyWords_cohStore (s : State) (ten : Option (Fin 8 × Fin 9)) (pol pa : Nat) (bs : List Byte) :
    OnlyWords s (cohStore s ⟨none, ten⟩ pol pa bs) := by
  rw [cohStore_eq]
  exact onlyWords_storeWords none pol (lineOf pa) pa bs _ s

theorem onlyWords_devWrite (s : State) (q : Req) (pa : Nat) (bs : List Byte) : OnlyWords s (devWrite s q pa bs) := by
  unfold devWrite
  split
  next => exact ⟨_, _, _, rfl⟩
  next =>
    refine onlyWords_foldl (fun s x => ?_) _ s
    exact onlyWords_cohStore s q.ten 1 x.1 x.2

/-! ### Counters at a period's end (R242) -/

theorem onlyWords_foldl_writeCounters (ns : List Node) (s : State) : OnlyWords s (ns.foldl writeCounters s) :=
  onlyWords_foldl (fun s _ => onlyWords_devWrite s _ _ _) ns s

end Sys2Proof.Laws.Bytes

/-! ## Budgets (R18, R239 to R242) -/

namespace Sys2Proof.Laws.Budgets
open Sys2Proof Sys2Proof.Machine Sys2Proof.Laws.Bytes

/-! ### Charges -/

/-- A node after it was charged. -/
def chargedNode (due : Nat → Nat) (n : Node) : Node := { n with bal := n.bal - (due n.rcb : Nat), used := n.used + due n.rcb }

/-- Every node is charged what is due for it. -/
def chargeNodes (due : Nat → Nat) (s : State) : State := { s with nodes := s.nodes.map (chargedNode due) }

theorem chargeNodes_chargeNodes (d e : Nat → Nat) (s : State) : chargeNodes e (chargeNodes d s) = chargeNodes (fun r => d r + e r) s := by
  have h : chargedNode e ∘ chargedNode d = chargedNode fun r => d r + e r := by
    funext n
    simp only [chargedNode, Function.comp_apply, Nat.cast_add, Int.sub_sub, Nat.add_assoc]
  simp only [chargeNodes, List.map_map, h]

theorem chargeNodes_zero (s : State) : chargeNodes (fun _ => 0) s = s := by
  have h : chargedNode (fun _ => 0) = id := by
    funext n
    simp [chargedNode]
  simp only [chargeNodes, h, List.map_id]

theorem modNode_charge (s : State) (r units : Nat) :
    (modNode s r fun n => { n with bal := n.bal - (units : Int), used := n.used + units }) = chargeNodes (fun x => if x = r then units else 0) s := by
  simp only [modNode, chargeNodes]
  congr 2
  funext n
  unfold chargedNode
  by_cases h : n.rcb = r <;> simp [h]

theorem foldl_charge (units : Nat) (rs : List Nat) (s : State) :
    rs.foldl (fun s r => modNode s r fun n => { n with bal := n.bal - (units : Int), used := n.used + units }) s =
      chargeNodes (fun x => units * rs.count x) s := by
  induction rs generalizing s with
  | nil => exact (chargeNodes_zero s).symm
  | cons r rs ih =>
    rw [List.foldl_cons, ih, modNode_charge, chargeNodes_chargeNodes]
    congr 1
    funext x
    rw [List.count_cons]
    by_cases h : x = r
    · simp [h, Nat.mul_add, Nat.add_comm]
    · have : ¬ r = x := fun e => h e.symm
      simp [h, this]

theorem charge_eq (s : State) (rcb units : Nat) : charge s rcb units = chargeNodes (fun x => units * (payers s rcb).count x) s :=
  foldl_charge units (payers s rcb) s

theorem nodeOf_chargeNodes (due : Nat → Nat) (s : State) (r : Nat) : nodeOf (chargeNodes due s) r = (nodeOf s r).map (chargedNode due) := by
  simp only [nodeOf, chargeNodes, List.find?_map]
  rfl

theorem chainFrom_chargeNodes (due : Nat → Nat) (s : State) (fuel r : Nat) :
    chainFrom (chargeNodes due s) fuel r = (chainFrom s fuel r).map (chargedNode due) := by
  induction fuel generalizing r with
  | zero => rfl
  | succ fuel ih =>
    simp only [chainFrom, nodeOf_chargeNodes]
    cases nodeOf s r with
    | none => rfl
    | some n =>
      simp only [Option.map_some]
      by_cases h : n.parent = 0
      · simp [chargedNode, h]
      · simp [chargedNode, h, ih]

/-- A charge does not change who pays. -/
theorem payers_chargeNodes (due : Nat → Nat) (s : State) (r : Nat) : payers (chargeNodes due s) r = payers s r := by
  simp only [payers, chainOf, chainFrom_chargeNodes, List.filter_map, List.map_map]
  rfl

theorem payers_congr {s t : State} (h : t.nodes = s.nodes) (r : Nat) : payers t r = payers s r := by
  have hn : ∀ x, nodeOf t x = nodeOf s x := fun x => by simp only [nodeOf, h]
  have hchain : ∀ fuel x, chainFrom t fuel x = chainFrom s fuel x := by
    intro fuel
    induction fuel with
    | zero => exact fun _ => rfl
    | succ fuel ih => exact fun x => by simp only [chainFrom, hn, ih]
  simp only [payers, chainOf, hchain]

theorem timesCharged_chargeNodes (due : Nat → Nat) (s : State) (wg r : Nat) : timesCharged (chargeNodes due s) wg r = timesCharged s wg r := by
  simp only [timesCharged, payers_chargeNodes]
  rfl

theorem timesCharged_mapGroups (s : State) (f : Group → Group) (wg r : Nat) : timesCharged (mapGroups s f) wg r = timesCharged s wg r := by
  simp only [timesCharged, payers_congr (s := s) (t := mapGroups s f) rfl]
  rfl

/-! ### Group slots -/

theorem slotsDue_cons (s : State) (at_ : Nat) (g : Group) (gs : List Group) (r : Nat) :
    slotsDue s at_ (g :: gs) r = slotsDue s at_ [g] r + slotsDue s at_ gs r := by
  simp [slotsDue]

theorem slotsDue_chargeNodes (due : Nat → Nat) (s : State) (at_ : Nat) (gs : List Group) : slotsDue (chargeNodes due s) at_ gs = slotsDue s at_ gs := by
  funext r
  simp only [slotsDue, timesCharged_chargeNodes]
  rfl

/-- A group holds no slot when it is halted, or has ended in a workgroup that is halted as a whole (R240, R256). -/
theorem holdsSlot_eq_false (s : State) (g : Group) : holdsSlot s g = false ↔ g.halted = true ∨ (g.phase = .ended ∧
    (∃ h ∈ (allGroups s).filter (fun h => h.wg == g.wg), h.halted = true) ∧
    ∀ h ∈ (allGroups s).filter (fun h => h.wg == g.wg), h.halted = true ∨ h.phase = .ended) := by
  have hall : (∀ h ∈ (allGroups s).filter (fun h => h.wg == g.wg), h.halted = true ∨ h.phase = .ended) ↔
      (allGroups s).all (fun x => x.wg != g.wg || x.halted || x.ended) = true := by
    simp only [List.mem_filter, List.all_eq_true, Bool.or_eq_true, bne_iff_ne, beq_iff_eq, Group.ended]
    exact ⟨fun h x hx => by by_cases hw : x.wg = g.wg <;> simp [hw, h x ⟨hx, _⟩],
      fun h x hx => ((or_assoc.1 (h x hx.1)).resolve_left (fun hn => hn hx.2))⟩
  have hany : (∃ h ∈ (allGroups s).filter (fun h => h.wg == g.wg), h.halted = true) ↔
      (allGroups s).any (fun x => x.wg == g.wg && x.halted) = true := by
    simp [List.any_eq_true, and_assoc]
  rw [hall, hany]
  cases hh : g.halted <;> simp [holdsSlot, hh, Group.ended, and_assoc]

theorem chargeGroup_eq (at_ : Nat) (s : State) (g : Group) : chargeGroup at_ s g = chargeNodes (slotsDue s at_ [g]) s := by
  have hdue : slotsDue s at_ [g] = fun r => if holdsSlot s g = true then slotRate g.core * (at_ - g.heldSince) * timesCharged s g.wg r else 0 := by
    funext r
    have := holdsSlot_eq_false s g
    cases hb : holdsSlot s g with
    | false =>
      simp only [slotsDue, List.map_cons, List.map_nil, if_pos (this.1 hb)]
      rfl
    | true =>
      have hn := mt this.2 (by simp [hb])
      simp only [slotsDue, List.map_cons, List.map_nil, if_neg hn]
      rfl
  unfold chargeGroup
  rw [hdue]
  split
  next h =>
    have hzero : ∀ r, timesCharged s g.wg r = 0 := fun r => by simp only [timesCharged, chargedTo, h]; rfl
    simp only [hzero, Nat.mul_zero, ite_self, chargeNodes_zero]
  next st h =>
    have htimes : ∀ r, timesCharged s g.wg r = (payers s st.rcb).count r := fun r => by simp only [timesCharged, chargedTo, h]; rfl
    cases holdsSlot s g with
    | false => simp only [Bool.false_eq_true, if_false, chargeNodes_zero]
    | true => simp only [if_true, charge_eq, htimes]

theorem foldl_chargeGroup (at_ : Nat) (gs : List Group) (s : State) : gs.foldl (chargeGroup at_) s = chargeNodes (slotsDue s at_ gs) s := by
  induction gs generalizing s with
  | nil => exact (chargeNodes_zero s).symm
  | cons g gs ih =>
    rw [List.foldl_cons, ih, chargeGroup_eq, slotsDue_chargeNodes, chargeNodes_chargeNodes]
    simp only [← slotsDue_cons]

theorem chargeGroupsTo_eq (at_ : Nat) (s : State) (p : Group → Bool) : chargeGroupsTo at_ s p =
    mapGroups (chargeNodes (slotsDue s at_ ((allGroups s).filter p)) s) fun g => if p g then { g with heldSince := max g.heldSince at_ } else g := by
  rw [chargeGroupsTo, foldl_chargeGroup]

/-! ### Engines -/

/-- What a node is charged up to a time for some tasks (R240). -/
def tasksDue (s : State) (at_ : Nat) (ts : List EngTask) (r : Nat) : Nat :=
  (ts.map fun t => if t.started then 32 * enginesOn s t * (at_ - t.since) * timesCharged s t.wg r else 0).sum

theorem tasksDue_chargeNodes (due : Nat → Nat) (s : State) (at_ : Nat) (ts : List EngTask) : tasksDue (chargeNodes due s) at_ ts = tasksDue s at_ ts := by
  funext r
  simp only [tasksDue, timesCharged_chargeNodes]
  rfl

theorem length_taskEngines (s : State) (t : EngTask) : (taskEngines s t).length = enginesOn s t := by
  unfold taskEngines enginesOn
  split <;> rfl

theorem chargeTask_eq (at_ : Nat) (s : State) (t : EngTask) : chargeTask at_ s t = chargeNodes (tasksDue s at_ [t]) s := by
  have hdue : tasksDue s at_ [t] = fun r => if t.started = true then engineRate * (taskEngines s t).length * (at_ - t.since) * timesCharged s t.wg r else 0 := by
    funext r
    simp [tasksDue, length_taskEngines, engineRate]
  unfold chargeTask
  rw [hdue]
  split
  next h =>
    have hzero : ∀ r, timesCharged s t.wg r = 0 := fun r => by simp only [timesCharged, chargedTo, h]; rfl
    simp only [hzero, Nat.mul_zero, ite_self, chargeNodes_zero]
  next st h =>
    have htimes : ∀ r, timesCharged s t.wg r = (payers s st.rcb).count r := fun r => by simp only [timesCharged, chargedTo, h]; rfl
    cases t.started with
    | false => simp only [Bool.false_eq_true, if_false, chargeNodes_zero]
    | true => simp only [if_true, charge_eq, htimes]

theorem foldl_chargeTask (at_ : Nat) (ts : List EngTask) (s : State) : ts.foldl (chargeTask at_) s = chargeNodes (tasksDue s at_ ts) s := by
  induction ts generalizing s with
  | nil => exact (chargeNodes_zero s).symm
  | cons t ts ih =>
    rw [List.foldl_cons, ih, chargeTask_eq, tasksDue_chargeNodes, chargeNodes_chargeNodes]
    simp only [tasksDue, List.map_cons, List.map_nil, List.sum_cons, List.sum_nil, Nat.add_zero]
    rfl

theorem chargeTasksTo_eq (at_ : Nat) (s : State) (p : EngTask → Bool) : chargeTasksTo at_ s p =
    { chargeNodes (tasksDue s at_ (s.engq.filter p)) s with
        engq := s.engq.map fun t => if t.started && p t then { t with since := max t.since at_ } else t } := by
  rw [chargeTasksTo, foldl_chargeTask]
  rfl

/-- The time to which a group's slot is charged. -/
def chargedGroup (at_ : Nat) (g : Group) : Group := { g with heldSince := max g.heldSince at_ }

theorem chargeGroups_all (s : State) :
    chargeGroups s (fun _ => true) = mapGroups (chargeNodes (slotsDue s s.now (allGroups s)) s) (chargedGroup s.now) := by
  rw [chargeGroups, chargeGroupsTo_eq, List.filter_true]
  rfl

/-- The time to which a running task is charged. -/
def chargedTask (at_ : Nat) (t : EngTask) : EngTask := if t.started then { t with since := max t.since at_ } else t

theorem chargeTasks_all (s : State) : chargeTasks s (fun _ => true) =
    { chargeNodes (tasksDue s s.now s.engq) s with engq := s.engq.map (chargedTask s.now) } := by
  have hengq : (fun t : EngTask => if (t.started && true) = true then { t with since := max t.since s.now } else t) = chargedTask s.now := by
    simp only [Bool.and_true]
    rfl
  rw [chargeTasks, chargeTasksTo_eq, List.filter_true, hengq]

/-- Every charge due is taken (R240). -/
theorem chargeAll_eq (s : State) : chargeAll s = charged s := by
  let d := slotsDue s s.now (allGroups s)
  let e := tasksDue s s.now s.engq
  have hdue : tasksDue (mapGroups (chargeNodes d s) (chargedGroup s.now)) s.now s.engq = e := by
    refine Eq.trans ?_ (tasksDue_chargeNodes d s s.now s.engq)
    funext r
    simp only [tasksDue, timesCharged_mapGroups]
    rfl
  calc chargeAll s
      = { chargeNodes (tasksDue (mapGroups (chargeNodes d s) (chargedGroup s.now)) s.now s.engq)
            (mapGroups (chargeNodes d s) (chargedGroup s.now)) with engq := s.engq.map (chargedTask s.now) } := by
        rw [chargeAll, chargeGroups_all, chargeTasks_all]
        rfl
    _ = { mapGroups (chargeNodes e (chargeNodes d s)) (chargedGroup s.now) with engq := s.engq.map (chargedTask s.now) } := by
        rw [hdue]
        rfl
    _ = charged s := by
        rw [chargeNodes_chargeNodes]
        rfl

/-! ### Lists of nodes, each with its own key -/

theorem find?_of_nodup {α : Type} (key : α → Nat) {xs : List α} (hnd : (xs.map key).Nodup) {x : α} (hx : x ∈ xs) :
    xs.find? (fun y => key y == key x) = some x := by
  induction xs with
  | nil => cases hx
  | cons a xs ih =>
    rw [List.map_cons, List.nodup_cons] at hnd
    obtain ⟨ha, hnd⟩ := hnd
    rcases List.mem_cons.1 hx with rfl | hx
    · simp
    · have hne : key a ≠ key x := fun e => ha (e ▸ List.mem_map_of_mem hx)
      rw [List.find?_cons, show (key a == key x) = false from beq_eq_false_iff_ne.2 hne]
      exact ih hnd hx

/-- The node of an RCB after a change that leaves the RCBs as they are. -/
theorem nodeOf_map {s t : State} {f : Node → Node} (ht : t.nodes = s.nodes.map f) (hf : ∀ n, (f n).rcb = n.rcb)
    (hnd : (s.nodes.map (·.rcb)).Nodup) {n : Node} (hn : n ∈ s.nodes) : nodeOf t n.rcb = some (f n) := by
  have := find?_of_nodup (fun n : Node => n.rcb) hnd hn
  rw [nodeOf, ht, List.find?_map]
  simp only [Function.comp_def, hf, this, Option.map_some]

theorem foldl_add_eq_sum {α : Type} (f : α → Nat) (xs : List α) (k : Nat) : xs.foldl (fun t x => t + f x) k = k + (xs.map f).sum := by
  induction xs generalizing k with
  | nil => rfl
  | cons x xs ih => rw [List.foldl_cons, ih, List.map_cons, List.sum_cons, Nat.add_assoc]

theorem sum_map_single {xs : List Node} {b : Node} (hnd : xs.Nodup) (hb : b ∈ xs) (f : Node → Nat) (hf : ∀ n ∈ xs, n ≠ b → f n = 0) :
    (xs.map f).sum = f b := by
  induction xs with
  | nil => cases hb
  | cons a xs ih =>
    rw [List.nodup_cons] at hnd
    obtain ⟨ha, hnd⟩ := hnd
    rw [List.map_cons, List.sum_cons]
    by_cases hab : a = b
    · subst hab
      have : (xs.map f).sum = 0 := List.sum_eq_zero fun x hx => by
        obtain ⟨n, hn, rfl⟩ := List.mem_map.1 hx
        exact hf n (.tail _ hn) fun e => ha (e ▸ hn)
      rw [this, Nat.add_zero]
    · rw [hf a (.head _) hab, Nat.zero_add]
      exact ih hnd ((List.mem_cons.1 hb).resolve_left fun e => hab e.symm) fun n hn => hf n (.tail _ hn)

/-! ### The period boundary (R239, R241, R242) -/

/-- A node after a boundary: repaid and refilled, its counter of charges begun anew. -/
def settledNode (ns : List Node) (n : Node) : Node := { n.refilled ns with used := 0 }

theorem settledNode_rcb (ns : List Node) (n : Node) : (settledNode ns n).rcb = n.rcb := by
  unfold settledNode Node.refilled
  split <;> rfl

/-- The state at a boundary once every node is refilled, before the counters are written. -/
def refilledState (s : State) : State :=
  { charged s with nodes := (charged s).nodes.map (Node.refilled (charged s).nodes), periods := s.periods + 1 }

/-- The counters of every node are written to its RCB. -/
def countersWritten (s : State) : State := (refilledState s).nodes.foldl writeCounters (refilledState s)

theorem onlyWords_countersWritten (s : State) : OnlyWords (refilledState s) (countersWritten s) := onlyWords_foldl_writeCounters _ _

theorem refill_eq (s : State) : refill s = { countersWritten s with nodes := (charged s).nodes.map (settledNode (charged s).nodes) } := by
  have hn : (countersWritten s).nodes = (refilledState s).nodes := by rw [(onlyWords_countersWritten s).eq]
  unfold refill
  rw [chargeAll_eq]
  change { countersWritten s with nodes := (countersWritten s).nodes.map fun n : Node => { n with used := 0 } } = _
  rw [hn, refilledState, List.map_map]
  rfl

theorem exec_periodBoundary_before {s : State} (h : s.now < 1200000 * (s.periods + 1)) : exec .periodBoundary s = .next s := by
  rw [exec_periodBoundary, execPeriodBoundary, if_neg (by simpa [nextPeriod, periodLen] using h)]

theorem exec_periodBoundary_due {s : State} (h : 1200000 * (s.periods + 1) ≤ s.now) : exec .periodBoundary s = .next (refill s) := by
  rw [exec_periodBoundary, execPeriodBoundary, if_pos (by simpa [nextPeriod, periodLen] using h)]

/-! ### Repayment (R242) -/

/-- What a node repays to a lender. -/
def repaid (rcb : Nat) (n : Node) : Nat := (((repayLoans n.repay n.loans).1.filter (·.1 == rcb)).map (·.2)).sum

theorem repaidTo_eq (ns : List Node) (rcb : Nat) : repaidTo ns rcb = (ns.map (repaid rcb)).sum := by
  unfold repaidTo
  simp only [foldl_add_eq_sum, Nat.zero_add]
  rfl

theorem repayLoans_nil (x : Nat) : repayLoans x [] = ([], []) := by
  cases x <;> rfl

theorem repaid_of_no_loans {n : Node} (h : n.loans = []) (rcb : Nat) : repaid rcb n = 0 := by
  simp [repaid, h, repayLoans_nil]

theorem repay_of_no_debt {n : Node} (h : n.debt = 0) : n.repay = 0 := by
  simp [Node.repay, h]

/-- A node that owes nothing takes its REFILL, with what it is repaid. -/
theorem settledNode_of_no_debt {ns : List Node} {n : Node} (hd : n.debt = 0) (hl : n.loans = []) : settledNode ns n =
    { n with bal := if n.budset = true ∨ n.parent = 0 then ((n.refill : Int) + repaidTo ns n.rcb) * 1200 + min n.bal 0 else n.bal, used := 0 } := by
  have hcond : (n.budset || n.parent == 0) = true ↔ n.budset = true ∨ n.parent = 0 := by simp
  unfold settledNode Node.refilled
  by_cases h : n.budset = true ∨ n.parent = 0
  · rw [if_pos (hcond.2 h), if_pos h]
    simp [repay_of_no_debt hd, hd, hl, repayLoans_nil]
  · rw [if_neg (mt hcond.1 h), if_neg h]

/-- One loan is repaid as far as the repayment goes. -/
theorem repayLoans_one {y x r : Nat} (hx : 0 < x) (hy : y ≤ x) :
    ((repayLoans y [(r, x)]).1.map (·.2)).sum = y ∧ (∀ p ∈ (repayLoans y [(r, x)]).1, p.1 = r) ∧
      (repayLoans y [(r, x)]).2 = if y = x then [] else [(r, x - y)] := by
  cases y with
  | zero => simp [repayLoans, show ¬ 0 = x by omega]
  | succ y => simp [repayLoans, Nat.min_eq_left hy]

/-- Two nodes of which one owes the other tokens, and nobody else owes any. -/
structure OneLoan (ns : List Node) (a b : Node) (x : Nat) : Prop where
  nodup    : (ns.map (·.rcb)).Nodup
  lender   : a ∈ ns
  borrower : b ∈ ns
  apart    : a ≠ b
  budgets  : a.budset = true ∧ b.budset = true
  loan     : b.loans = [(a.rcb, x)]
  debt     : b.debt = x
  owes     : 0 < x
  others   : ∀ n ∈ ns, n ≠ b → n.debt = 0 ∧ n.loans = []

section
variable {ns : List Node} {a b : Node} {x : Nat}

theorem OneLoan.repay_eq (h : OneLoan ns a b x) : b.repay = min x (b.refill / 4) := by
  simp [Node.repay, h.budgets.2, h.debt]

theorem OneLoan.rcb_ne (h : OneLoan ns a b x) : a.rcb ≠ b.rcb := fun e =>
  h.apart (List.inj_on_of_nodup_map h.nodup h.lender h.borrower e)

theorem OneLoan.repaidTo_eq (h : OneLoan ns a b x) (r : Nat) : repaidTo ns r = if r = a.rcb then min x (b.refill / 4) else 0 := by
  obtain ⟨hsum, hall, -⟩ := repayLoans_one (r := a.rcb) h.owes (Nat.min_le_left x (b.refill / 4))
  rw [Laws.Budgets.repaidTo_eq, sum_map_single h.nodup.of_map h.borrower _ fun n hn hne => repaid_of_no_loans (h.others n hn hne).2 r]
  unfold repaid
  rw [h.loan, h.repay_eq]
  by_cases hr : r = a.rcb
  · rw [if_pos hr, List.filter_eq_self.2 fun p hp => by simp [hall p hp, hr], hsum]
  · rw [if_neg hr, List.filter_eq_nil_iff.2 fun p hp => by simp [hall p hp, Ne.symm hr]]
    rfl

theorem OneLoan.settled_lender (h : OneLoan ns a b x) : settledNode ns a =
    { a with bal := ((a.refill : Int) + (min x (b.refill / 4) : Nat)) * 1200 + min a.bal 0, used := 0 } := by
  obtain ⟨hd, hl⟩ := h.others a h.lender h.apart
  rw [settledNode_of_no_debt hd hl, if_pos (.inl h.budgets.1), h.repaidTo_eq, if_pos rfl]

theorem OneLoan.settled_borrower (h : OneLoan ns a b x) : settledNode ns b =
    { b with bal := ((b.refill : Int) - (min x (b.refill / 4) : Nat)) * 1200 + min b.bal 0, debt := x - min x (b.refill / 4), used := 0,
             loans := if min x (b.refill / 4) = x then [] else [(a.rcb, x - min x (b.refill / 4))] } := by
  obtain ⟨-, -, hleft⟩ := repayLoans_one (r := a.rcb) h.owes (Nat.min_le_left x (b.refill / 4))
  unfold settledNode Node.refilled
  rw [if_pos (by simp [h.budgets.2]), h.repaidTo_eq, if_neg h.rcb_ne.symm, h.repay_eq, h.loan, h.debt, hleft]
  simp

end

/-! ### The counters in the RCBs (R239) -/

theorem length_counters (n : Node) : n.counters.length = 16 := by
  simp [Node.counters, length_leBytes]

theorem writeCounters_eq (s : State) (n : Node) : writeCounters s n = devWrite s ⟨none, none⟩ (nodeRcb s n + 0x40) n.counters := rfl

theorem nodeRcb_writeCounters (s : State) (m n : Node) : nodeRcb (writeCounters s m) n = nodeRcb s n := by
  rw [nodeRcb, nodeRcb, writeCounters_eq, (onlyWords_devWrite s _ _ _).eq]

/-- An RCB lies in main memory, at a multiple of its size (R17, R301). -/
theorem rcbAt_iff {a : Nat} : rcbAt a = true ↔ a % 256 = 0 ∧ a + 255 < 0x2000000000 := by
  simp [rcbAt, inMain]

theorem not_inScreed_rcb {a : Nat} (h : rcbAt a = true) {k : Nat} (hk : k < 256) : inScreed (a + k) = false := by
  have := (rcbAt_iff.1 h).2
  refine decide_eq_false fun hs => ?_
  have : 0xF0000000000 ≤ a + k := hs.1
  omega

/-- The counters of other nodes stand elsewhere. -/
theorem devRead_foldl_writeCounters_apart {x : Nat} (hx : rcbAt x = true) (ns : List Node) {s : State} (h : Coherent s)
    (hrcb : ∀ n ∈ ns, rcbAt (nodeRcb s n) = true) (hne : ∀ n ∈ ns, nodeRcb s n ≠ x) :
    devRead (ns.foldl writeCounters s) (x + 0x40) 16 = devRead s (x + 0x40) 16 := by
  induction ns generalizing s with
  | nil => rfl
  | cons n ns ih =>
    have hn := rcbAt_iff.1 (hrcb n (.head _))
    have hx' := rcbAt_iff.1 hx
    have hnx := hne n (.head _)
    have hc : Coherent (writeCounters s n) := coherent_devWrite h _ _ _
    rw [List.foldl_cons, ih hc (fun m hm => nodeRcb_writeCounters s n m ▸ hrcb m (.tail _ hm))
      (fun m hm => nodeRcb_writeCounters s n m ▸ hne m (.tail _ hm)), writeCounters_eq]
    refine devRead_devWrite_apart h _ _ (not_inScreed_rcb (hrcb n (.head _)) (by omega)) (not_inScreed_rcb hx (by omega)) ?_
    rw [length_counters]
    omega

theorem devRead_foldl_writeCounters (ns : List Node) {s : State} (h : Coherent s) (hnd : (ns.map (nodeRcb s)).Nodup)
    (hrcb : ∀ n ∈ ns, rcbAt (nodeRcb s n) = true) {n : Node} (hn : n ∈ ns) :
    devRead (ns.foldl writeCounters s) (nodeRcb s n + 0x40) 16 = n.counters := by
  induction ns generalizing s with
  | nil => cases hn
  | cons m ns ih =>
    rw [List.map_cons, List.nodup_cons] at hnd
    obtain ⟨hm, hnd⟩ := hnd
    have hc : Coherent (writeCounters s m) := coherent_devWrite h _ _ _
    have hrcb' : ∀ k ∈ ns, rcbAt (nodeRcb (writeCounters s m) k) = true := fun k hk => nodeRcb_writeCounters s m k ▸ hrcb k (.tail _ hk)
    have hmap : ns.map (nodeRcb (writeCounters s m)) = ns.map (nodeRcb s) := List.map_congr_left fun k _ => nodeRcb_writeCounters s m k
    rw [List.foldl_cons]
    rcases List.mem_cons.1 hn with rfl | hn
    · have hne : ∀ k ∈ ns, nodeRcb (writeCounters s n) k ≠ nodeRcb s n := fun k hk e =>
        hm (by rw [← e, nodeRcb_writeCounters]; exact List.mem_map_of_mem hk)
      rw [devRead_foldl_writeCounters_apart (hrcb n (.head _)) ns hc hrcb' hne, writeCounters_eq,
        devRead_devWrite h _ _ _ _ (by rw [length_counters]), List.take_of_length_le (by rw [length_counters])]
    · rw [← nodeRcb_writeCounters s m n]
      exact ih hc (hmap ▸ hnd) hrcb' hn

/-! ### What a boundary leaves, clause by clause -/

theorem charged_rcbs (s : State) : (charged s).nodes.map (·.rcb) = s.nodes.map (·.rcb) := by
  simp only [charged, List.map_map, Function.comp_def]

theorem charged_nodeRcbs (s : State) : (charged s).nodes.map (nodeRcb s) = s.nodes.map (nodeRcb s) := by
  simp only [charged, List.map_map, Function.comp_def]
  rfl

theorem nodeRcb_refilled (s : State) (ns : List Node) (n : Node) : nodeRcb (refilledState s) (n.refilled ns) = nodeRcb s n := by
  unfold nodeRcb Node.refilled
  split <;> rfl

/-- Without loans each node with a budget takes its REFILL, and keeps a negative balance. -/
theorem refill_nodes_of_no_loans {s : State} (h : ∀ n ∈ s.nodes, n.debt = 0 ∧ n.loans = []) : (refill s).nodes = (charged s).nodes.map fun n =>
    { n with bal := if n.budset = true ∨ n.parent = 0 then (n.refill : Int) * 1200 + min n.bal 0 else n.bal, used := 0 } := by
  have hu : ∀ n ∈ (charged s).nodes, n.debt = 0 ∧ n.loans = [] := fun n hn => by
    obtain ⟨n0, hn0, rfl⟩ := List.mem_map.1 hn
    exact h n0 hn0
  have hrepaid : ∀ r, repaidTo (charged s).nodes r = 0 := fun r => by
    rw [repaidTo_eq]
    refine List.sum_eq_zero fun x hx => ?_
    obtain ⟨n, hn, rfl⟩ := List.mem_map.1 hx
    exact repaid_of_no_loans (hu n hn).2 r
  rw [refill_eq]
  refine List.map_congr_left fun n hn => ?_
  rw [settledNode_of_no_debt (hu n hn).1 (hu n hn).2, hrepaid, Nat.cast_zero, Int.add_zero]

theorem nodeOf_refill {s : State} (hnd : (s.nodes.map (·.rcb)).Nodup) {n : Node} (hn : n ∈ (charged s).nodes) :
    nodeOf (refill s) n.rcb = some (settledNode (charged s).nodes n) :=
  nodeOf_map (by rw [refill_eq]) (settledNode_rcb _) (by rw [charged_rcbs]; exact hnd) hn

theorem used_refill {s : State} : ∀ n ∈ (refill s).nodes, n.used = 0 := fun n hn => by
  rw [refill_eq] at hn
  obtain ⟨n0, -, rfl⟩ := List.mem_map.1 hn
  rfl

/-- Bytes 0x40 to 0x4F of each RCB hold what its node was charged and has left (R239). -/
theorem devRead_refill {s : State} (hs : Sound s) (hnd : (s.nodes.map (nodeRcb s)).Nodup) (hrcb : ∀ n ∈ s.nodes, rcbAt (nodeRcb s n) = true)
    {n : Node} (hn : n ∈ (charged s).nodes) : devRead (refill s) (nodeRcb s n + 0x40) 16 = (n.refilled (charged s).nodes).counters := by
  have hc : Coherent (refilledState s) := coherent_of_moved (moved_of_same (coherent_of_sound hs) rfl rfl rfl)
  have hmap : (refilledState s).nodes.map (nodeRcb (refilledState s)) = s.nodes.map (nodeRcb s) := by
    have hnodes : (refilledState s).nodes = (charged s).nodes.map (Node.refilled (charged s).nodes) := rfl
    rw [hnodes, List.map_map, ← charged_nodeRcbs s]
    exact List.map_congr_left fun n _ => nodeRcb_refilled s _ n
  have hall : ∀ n ∈ (refilledState s).nodes, rcbAt (nodeRcb (refilledState s) n) = true := fun n hn => by
    obtain ⟨n0, hn0, e⟩ := List.mem_map.1 (hmap ▸ List.mem_map_of_mem hn : nodeRcb (refilledState s) n ∈ s.nodes.map (nodeRcb s))
    exact e ▸ hrcb n0 hn0
  have hread := devRead_foldl_writeCounters _ hc (hmap ▸ hnd) hall (n := n.refilled (charged s).nodes) (List.mem_map_of_mem hn)
  rw [nodeRcb_refilled] at hread
  rw [refill_eq]
  exact hread

theorem counters_refilled (ns : List Node) (n : Node) : (n.refilled ns).counters =
    leBytes 4 (BitVec.ofInt 32 (if n.budset = true ∨ n.parent = 0 then (settledNode ns n).bal / 1200 else 0)).toNat ++
      leBytes 4 (settledNode ns n).debt ++ leBytes 4 (n.used / 1200) ++ leBytes 4 n.launch.toNat := by
  have hbud : (n.refilled ns).budset = n.budset ∧ (n.refilled ns).parent = n.parent ∧ (n.refilled ns).used = n.used ∧
      (n.refilled ns).launch = n.launch := by
    unfold Node.refilled
    split <;> exact ⟨rfl, rfl, rfl, rfl⟩
  obtain ⟨h1, h2, h3, h4⟩ := hbud
  simp only [Node.counters, h1, h2, h3, h4, Bool.or_eq_true, beq_iff_eq, settledNode]

/-- Settles O49: every charge is a map over the nodes, a boundary refills the charged nodes, and the counters are written to RCBs that lie apart. -/
theorem budgetsAndPeriods : Obligations.BudgetsAndPeriods := by
  intro s u
  refine ⟨by rw [exec_chargeTick, execChargeTick, chargeAll_eq], exec_periodBoundary_before,
    fun hdue => ⟨refill s, exec_periodBoundary_due hdue, ?_⟩⟩
  have hframe : refill s = { refilledState s with mem := (refill s).mem, hed := (refill s).hed, l1 := (refill s).l1, nodes := (refill s).nodes } := by
    rw [refill_eq, (onlyWords_countersWritten s).eq]
  refine ⟨by rw [hframe]; rfl, by rw [hframe]; rfl, by rw [hframe]; rfl, by rw [hframe]; rfl, by rw [hframe]; rfl, by rw [hframe]; rfl, used_refill,
    refill_nodes_of_no_loans, ?_, ?_⟩
  · intro a b x ha hb hab hnd hba hbb hloan hdebt hx hothers y
    have h : OneLoan u.nodes a b x := ⟨charged_rcbs s ▸ hnd, ha, hb, hab, ⟨hba, hbb⟩, hloan, hdebt, hx, hothers⟩
    rw [nodeOf_refill hnd ha, nodeOf_refill hnd hb, h.settled_lender, h.settled_borrower]
    exact ⟨rfl, rfl⟩
  · intro hs hnd hnd' hrcb n hn m hm
    rw [nodeOf_refill hnd' hn, Option.some.injEq] at hm
    subst hm
    rw [devRead_refill hs hnd hrcb hn, counters_refilled]

end Sys2Proof.Laws.Budgets

/-! ## Boot and attestation (R11, R342 to R345) -/

namespace Sys2Proof.Laws.Boot
open Sys2Proof Sys2Proof.Machine

/-! ### The units that a configuration record leaves (R11) -/

theorem goodUnits_eq (n faults : Nat) : goodUnits n faults = (List.range n).filter fun k => faults / 2 ^ k % 2 == 0 := by
  unfold goodUnits
  congr 1
  funext k
  rcases Nat.mod_two_eq_zero_or_one (faults / 2 ^ k) with h | h <;> simp [bitAt, h]

theorem goodOnes_eq (r : List Byte) (off len n : Nat) : goodOnes r off len n = goodUnits n (bytesAt r off len) :=
  (goodUnits_eq n (bytesAt r off len)).symm

theorem mem_goodUnits {n faults k : Nat} : k ∈ goodUnits n faults ↔ k < n ∧ bitAt faults k = false := by
  simp [goodUnits]

/-- Entry k of a place table names the k-th good unit. -/
theorem getElem?_goodUnits {n faults k w : Nat} (hk : k < (goodUnits n faults).length) (hw : n ≤ 2 ^ w) :
    (goodUnits n faults)[k]? = some (BitVec.ofNat w (((goodUnits n faults)[k]?).getD 0)).toNat := by
  have hlt := (mem_goodUnits.1 (List.getElem_mem hk)).1
  rw [List.getElem?_eq_getElem hk, Option.getD_some, BitVec.toNat_ofNat, Nat.mod_eq_of_lt (by omega)]

theorem faultBit_eq {n faults k : Nat} (hk : k < n) :
    (BitVec.ofNat n faults).getLsbD k = !(goodUnits n faults).contains k := by
  have hbit : faults.testBit k = bitAt faults k := by
    rw [Nat.testBit_eq_decide_div_mod_eq, bitAt]
    rfl
  have hmem : (goodUnits n faults).contains k = !bitAt faults k := by
    rw [Bool.eq_iff_iff, List.contains_iff_mem, mem_goodUnits]
    simp [hk]
  rw [hmem, BitVec.getLsbD_ofNat, hbit]
  simp [hk]

/-! ### The checks of the boot, in the order of R343 -/

/-- The code of the first check that fails, or 0. -/
def firstFailed (cs : List (Bool × Nat)) : Nat := ((cs.filter fun c => !c.1).head?.map (·.2)).getD 0

theorem firstFailed_nil : firstFailed [] = 0 := rfl

theorem firstFailed_cons (ok : Bool) (n : Nat) (cs : List (Bool × Nat)) :
    firstFailed ((ok, n) :: cs) = if (!ok) = true then n else firstFailed cs := by
  cases ok <;> simp [firstFailed]

theorem firstFailed_of_filter {cs : List (Bool × Nat)} {c : Bool × Nat} {rest : List (Bool × Nat)}
    (h : (cs.filter fun c => !c.1) = c :: rest) : firstFailed cs = c.2 := by
  simp [firstFailed, h]

theorem firstFailed_of_all {cs : List (Bool × Nat)} (h : ∀ c ∈ cs, c.1 = true) : firstFailed cs = 0 := by
  have : (cs.filter fun c => !c.1) = [] := by
    simpa [List.filter_eq_nil_iff] using h
  simp [firstFailed, this]

/-- The checks of R343 with their codes. -/
def bootChecks (b : BootInput) : List (Bool × Nat) :=
  let r := recBody b.record
  [(signatureOk b.key b.firmware b.fwSig, 1), (decide (Config.antiRollback ≤ (Config.firmwareVersion b.firmware).toNat), 2),
    (recSigned b.key b.record, 3), (decide (Config.antiRollback ≤ bytesAt r 8 4), 4), (!recBad r, 8), (bytesAt r 12 1 == 0x41, 5),
    (decide (32 ≤ (recClusters r).length ∧ 64 ≤ (recSlices r).length ∧ 512 ≤ (recBanks r).length), 6), (b.train, 7)]

theorem bootCode_eq (b : BootInput) : bootCode b = firstFailed (bootChecks b) := by
  have hunits (x y z : Nat) : (!decide (32 ≤ x ∧ 64 ≤ y ∧ 512 ≤ z)) = (decide (x < 32) || decide (y < 64) || decide (z < 512)) := by
    rw [Bool.eq_iff_iff]
    simp only [Bool.not_eq_true', decide_eq_false_iff_not, Bool.or_eq_true, decide_eq_true_eq]
    omega
  simp only [bootChecks, firstFailed_cons, firstFailed_nil, hunits, Bool.not_not, Bool.not_eq_true', decide_eq_false_iff_not, Nat.not_le,
    bootCode, bne]

theorem code_ne_zero {b : BootInput} {c : Bool × Nat} (h : c ∈ bootChecks b) : c.2 ≠ 0 := by
  simp only [bootChecks, List.mem_cons, List.not_mem_nil, or_false] at h
  rcases h with rfl | rfl | rfl | rfl | rfl | rfl | rfl | rfl <;> simp

theorem boot_has_units {b : BootInput} (h : ∀ c ∈ bootChecks b, c.1 = true) :
    32 ≤ (recClusters (recBody b.record)).length ∧ 64 ≤ (recSlices (recBody b.record)).length ∧
      512 ≤ (recBanks (recBody b.record)).length :=
  of_decide_eq_true (h (_, 6) (.tail _ (.tail _ (.tail _ (.tail _ (.tail _ (.tail _ (.head _))))))))

theorem boot_stepping {b : BootInput} (h : ∀ c ∈ bootChecks b, c.1 = true) : bytesAt (recBody b.record) 12 1 = 0x41 :=
  eq_of_beq (h (_, 5) (.tail _ (.tail _ (.tail _ (.tail _ (.tail _ (.head _)))))))

/-- What module reset leaves of a state, with these registers of the device. -/
def afterReset (s : State) (d : DevRegs) : State :=
  { State.reset with hostMem := s.hostMem, streams := s.streams, out := s.out, agenda := s.agenda, fresh := s.fresh, dev := d }

theorem exec_powerOnReset_failed {b : BootInput} {c : Bool × Nat} {rest : List (Bool × Nat)} (s : State)
    (h : ((bootChecks b).filter fun c => !c.1) = c :: rest) :
    exec (.powerOnReset b) s = .next (afterReset s { State.reset.dev with stage := 2, code := BitVec.ofNat 8 c.2 }) := by
  have hc : c ∈ bootChecks b := (List.mem_filter.1 (h ▸ List.mem_cons_self)).1
  have hcode : bootCode b = c.2 := by rw [bootCode_eq, firstFailed_of_filter h]
  rw [exec_powerOnReset, execPowerOnReset, hcode]
  simp only [if_pos (code_ne_zero hc)]
  rfl

/-- The state after a boot whose checks all hold. -/
def booted (b : BootInput) (s : State) : State :=
  { afterReset s { State.reset.dev with stage := 1 } with
      place := bootPlace (recBody b.record)
      cfg := bootCfg b.firmware (recBody b.record)
      policy := { State.reset.policy with spares := (recClusters (recBody b.record)).length - 32 } }

theorem exec_powerOnReset_booted {b : BootInput} (s : State) (h : ∀ c ∈ bootChecks b, c.1 = true) :
    exec (.powerOnReset b) s = .next (booted b s) := by
  have hcode : bootCode b = 0 := by rw [bootCode_eq, firstFailed_of_all h]
  rw [exec_powerOnReset, execPowerOnReset, hcode]
  rfl

/-! ### Attestation (R345) -/

theorem attest_refused {s : State} {f : Fin 17} (cmd : Nat) (body : List Byte) (h : (s.attest[f]).busy = true ∨ s.cfg.vfLimit < f.val) :
    attest s f cmd body = s := by
  have : ((s.attest[f]).busy || !funcOn s f) = true := by
    simpa [funcOn, Nat.not_le] using h
  simp only [attest, host, this, if_true, ite_self]

theorem attest_taken {s : State} {f : Fin 17} (cmd : Nat) (body : List Byte) (h1 : s.dev.stage = 1) (hb : (s.attest[f]).busy = false)
    (hf : f.val ≤ s.cfg.vfLimit) :
    attest s f cmd body = { s with attest := s.attest.set f { s.attest[f] with busy := true, cmd := cmd, taken := body } } := by
  have : ((s.attest[f]).busy || !funcOn s f) = false := by
    rw [hb]
    simp [funcOn, hf]
  have hr : ready s = true := by simp [ready, h1]
  simp only [attest, host, this, hr, if_true, Bool.false_eq_true, if_false]

/-- The block of a function once its report is done: the report, its signature and the certificate (R345). -/
def reported (a : Attest) : Attest :=
  let r := a.taken ++ Config.falconSign (Config.shake256 a.taken).toList ++ Config.certificate
  { a with busy := false, report := r, alen := BitVec.ofNat 13 r.length }

theorem exec_attestReportDone_busy {s : State} {f : Fin 17} (h : (s.attest[f]).busy = true) :
    exec (.attestReportDone f) s = .next { s with attest := s.attest.set f (reported s.attest[f]) } := by
  rw [exec_attestReportDone, execAttestReportDone, if_pos h]
  rfl

theorem exec_attestReportDone_idle {s : State} {f : Fin 17} (h : (s.attest[f]).busy = false) :
    exec (.attestReportDone f) s = .next s := by
  rw [exec_attestReportDone, execAttestReportDone, h, if_neg Bool.false_ne_true]

/-- The count of corrected errors saturates (R351). -/
theorem exec_correctedError_counts (s : State) : exec .correctedError s =
    .next { s with policy := { s.policy with cecnt := if s.policy.cecnt = 0xFFFFFFFF then 0xFFFFFFFF else s.policy.cecnt + 1 } } := by
  have hsat : (if s.policy.cecnt = BitVec.allOnes 32 then s.policy.cecnt else s.policy.cecnt + 1) =
      if s.policy.cecnt = 0xFFFFFFFF then 0xFFFFFFFF else s.policy.cecnt + 1 := by
    split
    next h => rw [h]; rfl
    next h => exact (if_neg h).symm
  rw [exec_correctedError, execCorrectedError, countCorrected, hsat]

/-- A table entry names the good unit of its place. -/
theorem getElem?_placed {n m w faults : Nat} (k : Fin m) (hm : m ≤ (goodUnits n faults).length) (hw : n ≤ 2 ^ w) :
    (goodUnits n faults)[k.val]? =
      some ((Vector.ofFn fun i : Fin m => BitVec.ofNat w (((goodUnits n faults)[i.val]?).getD 0))[k]).toNat := by
  rw [Fin.getElem_fin, Vector.getElem_ofFn]
  exact getElem?_goodUnits (by omega) hw

/-- Settles O41: the boot stops with the first check of R343 that fails (`bootCode_eq`), or builds the place tables of the good units
(`getElem?_placed`); a report is taken at its command and signed when it is done (`attest_taken`, `exec_attestReportDone_busy`). -/
theorem bootAndAttestation : Obligations.BootAndAttestation := by
  intro b f s r signed clusters slices banks checks fresh
  have hcl : clusters = recClusters r := goodOnes_eq r 0x10 8 34
  have hsl : slices = recSlices r := goodOnes_eq r 0x18 16 66
  have hsb : banks = recBanks r := goodOnes_eq r 0x28 72 528
  have hchecks : checks = bootChecks b := by
    simp only [checks, hcl, hsl, hsb]
    rfl
  refine ⟨fun c rest h => exec_powerOnReset_failed s (hchecks ▸ h), fun h => ⟨booted b s, ?_, ?_, ?_⟩, fun h1 => ⟨?_, ?_, ?_⟩,
    exec_attestReportDone_idle, fun hb => ⟨_, exec_attestReportDone_busy hb, rfl, ?_⟩, exec_correctedError_counts s⟩
  · exact exec_powerOnReset_booted s (hchecks ▸ h)
  · rw [hcl]; rfl
  · obtain ⟨h32, h64, h512⟩ := boot_has_units (hchecks ▸ h)
    rw [hcl, hsl, hsb]
    refine ⟨fun k => getElem?_placed k h32 (by norm_num), fun k => getElem?_placed k h64 (by norm_num),
      fun k => getElem?_placed k h512 (by norm_num), rfl, rfl, rfl, fun k hk => faultBit_eq hk, ?_, rfl, rfl, rfl⟩
    change BitVec.ofNat 8 (bytesAt (recBody b.record) 12 1) = 0x41
    rw [boot_stepping (hchecks ▸ h)]
    rfl
  · rw [exec_secureStreamKeyed, execSecureStreamKeyed, host, if_pos (by simp [ready, h1])]
  · intro i hi hno
    rcases List.mem_pair.1 hi with rfl | rfl
    · rw [exec_attestDevice, execAttestDevice, attest_refused 1 _ hno]
    · rw [exec_attestTenant, execAttestTenant, attest_refused 2 _ hno]
  · intro hb hf
    exact ⟨by rw [exec_attestDevice, execAttestDevice, attest_taken 1 _ h1 hb hf]; rfl,
      by rw [exec_attestTenant, execAttestTenant, attest_taken 2 _ h1 hb hf]; rfl⟩
  · refine ⟨fun k hk => Vector.getElem_set_ne f.isLt _ (fun e => hk (Fin.ext e.symm)), ?_⟩
    have hset : (s.attest.set f (reported s.attest[f]))[f] = reported s.attest[f] := Vector.getElem_set_self f.isLt
    simp only [hset]
    exact ⟨rfl, rfl, rfl, rfl⟩

end Sys2Proof.Laws.Boot

/-! ## Idle units (R198, R263): a core's owned words of a screed line -/

namespace Sys2Proof.Laws.Power
open Sys2Proof Sys2Proof.Machine

/-- The line of the first bytes of screed. -/
def screedLine : Nat := screedFirst / 128

/-- Core 0 holds the first word of screed as an owned word of value 1: the heddle names it the owner, its L1 holds the word, and the word at home is 0. -/
def screedOwner : State :=
  { State.reset with
      hed := [⟨screedLine, 0, (Vector.replicate 32 WState.H).set 0 (.O 0)⟩]
      l1 := [⟨0, screedLine, (Vector.replicate 32 L1Word.inv).set 0 (.own 1)⟩] }

theorem heddleWord_screedOwner (line : Nat) (i : Fin 32) :
    heddleWord screedOwner line i = if line = screedLine ∧ i = 0 then .O 0 else .H := by
  unfold heddleWord hGet screedOwner
  by_cases hl : line = screedLine
  · subst hl
    by_cases hi : i = 0
    · subst hi; simp
    · have : 0 ≠ i.val := fun h => hi (Fin.ext h.symm)
      simp [hi, this]
  · have : screedLine ≠ line := fun h => hl h.symm
    simp [hl, this, HLine.clear]

theorem sound_screedOwner : Sound screedOwner := by
  refine ⟨by decide +kernel, fun line i x hx => ⟨1, ?_⟩⟩
  rw [heddleWord_screedOwner] at hx
  split at hx
  next h =>
    obtain ⟨rfl, rfl⟩ := h
    obtain rfl : 0 = x := by simpa using hx
    decide +kernel
  next => cases hx

/-- Core 0 of cluster 0. -/
def core0 : UnitId := ⟨0, .core 0⟩

theorem setUnit_mem (s : State) (u : UnitId) (p : Machine.PUnit) : (setUnit s u p).mem = s.mem := rfl

theorem exec_enterG3_screedOwner :
    exec (.enterG3 core0) screedOwner = .next (setUnit (loseState screedOwner core0) core0 ⟨.G3, 0, false⟩) := by
  have h : (unitEmpty screedOwner core0 && !(unitOf screedOwner core0).waking && !mustStayWarm screedOwner core0) = true := by
    decide +kernel
  rw [exec_enterG3, execEnterG3, if_pos h]
  rfl

/-- Refutes O50: an owned word may lie on a line of screed (`screedOwner`, a sound state). As its core enters G3 the word is written back, and the byte
of screed under it, which the core held as 1, changes from 0 to 1. -/
theorem not_powerStates : ¬ Obligations.PowerStates := by
  intro h
  obtain ⟨-, -, -, -, -, -, -, -, -, -, -, hcore⟩ := h 0 core0 screedOwner
  obtain ⟨t, ht, -, hbytes, -⟩ := (hcore (by decide +kernel) (by decide +kernel) (by decide +kernel)).2 0 rfl sound_screedOwner rfl
  obtain ⟨hscreed, -⟩ := hbytes
  have hmem : t.mem = (loseState screedOwner core0).mem := by
    rw [exec_enterG3_screedOwner] at ht
    injection ht with ht
    rw [← ht, setUnit_mem]
  have h1 := hscreed screedFirst (by decide)
  rw [hmem] at h1
  exact absurd h1 (by decide +kernel)

end Sys2Proof.Laws.Power

/-! ## RESIDE of a pipeline whose RCB stands at address 0 (R239, R307, R308)

The device marks its root's node by a PARENT of 0, and takes every node with that PARENT for the root when it writes counters. A stage of a pipeline
whose RCB lies at address 0 of main memory has it too, so its counters go to DEVROOT and not to its own RCB. -/

namespace Sys2Proof.Laws.ContextCommand
open Sys2Proof Sys2Proof.Machine

/-- Bytes placed in memory one string after another. -/
def placed (xs : List (Nat × List Byte)) : List Host.Cell := xs.foldl (fun m x => Memory.write m x.1 x.2) []

/-- The region tree: a device root at 0x100 (all zero), a partition root at 0x200, the pipeline at 0, its stage at 0x400 with BUDSET and a REFILL of 1;
the residency record at 0x300, with shuttle code at 0x10000 that has no bytes; the stage's descriptor at 0x500, and its queue at 0x8000. -/
def zeroTree : List Host.Cell := placed
  [(0x000, leBytes 4 3), (0x008, leBytes 8 0x200),
   (0x200, leBytes 4 1), (0x208, leBytes 8 0x100),
   (0x308, leBytes 8 0x10000),
   (0x400, leBytes 4 (4 + 2 ^ 17)), (0x410, leBytes 4 1), (0x420, leBytes 8 0x500), (0x428, leBytes 8 0x8000), (0x430, leBytes 4 (1 + 2 ^ 8)),
   (0x50C, leBytes 4 0xFFFFFFFF), (0x510, leBytes 4 (2 ^ 24 + 8 * 2 ^ 16 + 2 ^ 8 + 8)), (0x518, leBytes 4 1),
   (0x524, leBytes 4 (1 + 2 ^ 16)), (0x528, leBytes 4 1), (0x52C, leBytes 4 0x101)]

/-- Partition 0 and its tenant 0, enabled, with CTXARG naming the record. -/
def zeroPart : Partition :=
  { Partition.zero with
      en := true, clmask := 1, bcnt := 1, root := 0x200, run := true
      tenants := Partition.zero.tenants.set 0 { Tenant.zero with en := true, tclmask := 1, ctxarg := 0x300 } }

/-- A device after boot with that tree; the partition's root is resident, and a cluster's cache maps the queue to the first page of screed. -/
def zeroState : State :=
  { State.reset with
      mem := zeroTree
      tlb := [⟨.cluster 0, 0, 0, 0x8000, 4096, screedFirst, true, true, true⟩]
      nodes := [⟨0x200, 0x100, 0, false, false, 0, 0, 0, 0, 0, 0, []⟩]
      dev := { State.reset.dev with stage := 1, devroot := 0x100 }
      parts := State.reset.parts.set 0 zeroPart }

/-- No heddle word of that device is owned. -/
theorem sound_zeroState : Sound zeroState := ⟨by decide +kernel, fun line i x hx => by simp [heddleWord, hGet, zeroState, State.reset, HLine.clear] at hx⟩

/-- Without a REASON every check of RESIDE passes. -/
theorem checks_of_no_reason {s : State} {p : Fin 8} {x : Fin 9} {l : Loaded} (h : resideReasons s p x l = []) :
    (badPicks l 2 = false ∧ badPicks l 5 = false ∧ l.scode ≠ none ∧ l.bcode ≠ none ∧ maskedUse s p l = false) ∧
    ∀ st ∈ l.pipe.stages, st.cx * st.cy ≤ fitsAtMost st ∧ (st.il = 2 → hasPair (part s p).clmask = true) ∧
      (st.hasImage .shuttle = true ∨ st.hasImage .beam = true) ∧
      (st.vlim ≠ 0 → ∀ k ∈ [CoreClass.shuttle, .beam], st.hasImage k = true → st.maxV k ≤ st.vlim) ∧ queueOk s p x st = true := by
  have hflags := List.filter_eq_nil_iff.1 (List.map_eq_nil_iff.1 h)
  simp only [List.forall_mem_cons, Bool.not_eq_true, List.any_eq_false, decide_eq_true_eq, Bool.or_eq_false_iff, Option.isNone_eq_false_iff] at hflags
  obtain ⟨h2, h3, h4, ⟨⟨hs, hb⟩, h5⟩, h6, h7, h8, h10, -⟩ := hflags
  refine ⟨⟨h2, h5, by simpa using Option.isSome_iff_ne_none.1 hs, by simpa using Option.isSome_iff_ne_none.1 hb, h6⟩, fun st hst => ⟨?_, ?_, ?_, ?_, ?_⟩⟩
  · exact Nat.not_lt.1 (h3 st hst)
  · simpa using h4 st hst
  · have := h7 st hst
    cases h : st.hasImage .shuttle <;> simp_all
  · simpa using h8 st hst
  · simpa using h10 st hst

theorem not_residencyFails_of_no_reason {s : State} {p : Fin 8} {x : Fin 9} {l : Loaded} (h : resideReasons s p x l = []) (k : Nat) :
    ¬ residencyFails s p x l k := by
  obtain ⟨⟨h2, h5, hs, hb, h6⟩, hst⟩ := checks_of_no_reason h
  have hpick : ∀ n, badPicks l n = false → l.picks ≠ .error n := fun n hn e => by simp [badPicks, e] at hn
  unfold residencyFails
  split
  · exact hpick 2 h2
  · exact fun ⟨st, hm, hlt⟩ => Nat.not_lt.2 (hst st hm).1 hlt
  · rintro ⟨st, hm, hil, hno⟩
    obtain ⟨n, hn, hn'⟩ := List.any_eq_true.1 ((hst st hm).2.1 hil)
    have := hno n (List.mem_range.1 hn)
    simp_all
  · exact fun hf => hf.elim hs fun hf => hf.elim hb (hpick 5 h5)
  · simp [h6]
  · rintro ⟨st, hm, h1, h2⟩
    simpa [Stage.hasImage, Stage.entryPc, h1, h2] using (hst st hm).2.2.1
  · rintro ⟨st, hm, hv, hlt⟩
    have himage := (hst st hm).2.2.2.1 hv
    rcases hlt with ⟨hn, hlt⟩ | ⟨hn, hlt⟩
    · exact Nat.not_lt.2 (himage .shuttle (by simp) (by simpa [Stage.hasImage, Stage.entryPc] using hn)) hlt
    · exact Nat.not_lt.2 (himage .beam (by simp) (by simpa [Stage.hasImage, Stage.entryPc] using hn)) hlt
  · exact fun ⟨st, hm, hq⟩ => by simp [(hst st hm).2.2.2.2] at hq
  · exact id

/-- The tree is well-formed, passes every check of RESIDE, and names a stage at 0x400 whose BAL starts at 1. -/
theorem loadPipe_zeroState : (loadPipe zeroState 0 0).any (fun l =>
    resideReasons zeroState 0 0 l == [] && l.rcbs.any fun x => x.1 == 0x400 && startCounters x.2 == 1 :: List.replicate 15 0) = true := by
  decide +kernel

/-- The counters of the stage's RCB stay as they were. -/
theorem counters_reside_zeroState : (match exec (.reside 0 0 false) zeroState with
    | .next t => devRead t 0x440 16 == List.replicate 16 0
    | _ => false) = true := by
  decide +kernel

/-- Refutes O44: RESIDE in `zeroState` makes a stage resident and leaves the counters in its RCB zero, where its REFILL of 1 ought to stand. -/
theorem not_contextCommands : ¬ Obligations.ContextCommands := by
  intro h
  have htaken : Taken zeroState 0 0 false := ⟨⟨by decide, by decide⟩, by decide⟩
  obtain ⟨l, hl, hchecks⟩ := (Option.any_eq_true _ _).1 loadPipe_zeroState
  simp only [Bool.and_eq_true, beq_iff_eq, List.any_eq_true] at hchecks
  obtain ⟨hreasons, ⟨_, b⟩, hab, rfl, hstart⟩ := hchecks
  obtain ⟨-, -, -, -, hreside, -⟩ := (h 0 0 0 false zeroState).2.1 htaken
  obtain ⟨t, d, ht, -, -, -, hcounters, -⟩ := (hreside l hl).2 (not_residencyFails_of_no_reason hreasons) sound_zeroState (by decide)
  have hread : devRead t (0x400 + 0x40) 16 = startCounters b := (hcounters 0x400 b hab).2 (by decide)
  have hzero := counters_reside_zeroState
  rw [ht, beq_iff_eq] at hzero
  rw [hzero, hstart] at hread
  exact absurd hread (by decide)

end Sys2Proof.Laws.ContextCommand

/-! ### What the agents' accesses to memory leave as it was -/

namespace Sys2Proof.Laws.Bytes
open Sys2Proof Sys2Proof.Machine

/-- The state without its memories, their caches and what is under way to them. -/
def memFree (s : State) : State :=
  { s with mem := [], hostMem := [], hed := [], l1 := [], l2 := [], tlb := [], parts := State.reset.parts, fresh := 0, homeQ := [], early := [] }

/-- A step of the memory system: the rest of the state stands, and a coherent state stays coherent. -/
structure MemStep (s t : State) : Prop where
  rest     : memFree t = memFree s
  coherent : Coherent s → Coherent t

theorem memStep_refl (s : State) : MemStep s s := ⟨rfl, id⟩

theorem MemStep.trans {s t u : State} (h1 : MemStep s t) (h2 : MemStep t u) : MemStep s u := ⟨h2.rest.trans h1.rest, h2.coherent ∘ h1.coherent⟩

theorem memStep_foldl {α : Type} {f : State → α → State} (hf : ∀ s a, MemStep s (f s a)) (xs : List α) (s : State) : MemStep s (xs.foldl f s) := by
  induction xs generalizing s with
  | nil => exact memStep_refl s
  | cons a xs ih => exact (hf s a).trans (ih _)

/-- A step that leaves heddle, L1s and memory. -/
theorem memStep_of_same {s t : State} (h : memFree t = memFree s) (h1 : t.hed = s.hed) (h2 : t.l1 = s.l1) (h3 : t.mem = s.mem) : MemStep s t :=
  ⟨h, fun hc => coherent_of_moved (moved_of_same hc h1 h2 h3)⟩

theorem memFree_of_onlyWords {s t : State} (h : OnlyWords s t) : memFree t = memFree s := by
  obtain ⟨_, _, _, rfl⟩ := h
  rfl

theorem onlyWords_revokeLine (s : State) (line : Nat) : OnlyWords s (revokeLine s line) :=
  onlyWords_foldl (fun s i => onlyWords_hRevoke s line i _) _ s

theorem memFree_l2Touch (s : State) (q : Req) (line : Nat) : memFree (l2Touch s q line) = memFree s := by
  unfold l2Touch
  split
  next => rfl
  next =>
    dsimp only
    split
    next => split <;> rfl
    next =>
      split
      next =>
        split
        next => split <;> rfl
        next => rfl
      next =>
        split
        next => rfl
        next =>
          split
          next v _ =>
            have h := memFree_of_onlyWords (onlyWords_revokeLine { s with fresh := s.fresh + 1 } v.line)
            generalize revokeLine _ v.line = t at h ⊢
            exact h
          next => rfl

theorem memStep_l2Touch (s : State) (q : Req) (line : Nat) : MemStep s (l2Touch s q line) :=
  ⟨memFree_l2Touch s q line, fun h => coherent_of_moved (moved_l2Touch h q line)⟩

theorem onlyWords_flushLine (s : State) (core line : Nat) : OnlyWords s (flushLine s core line) := by
  refine onlyWords_foldl (fun s i => ?_) _ s
  split
  next => exact onlyWords_hRevoke s line i _
  next => exact onlyWords_refl s

theorem memFree_evictLine (s : State) (core line : Nat) : memFree (evictLine s core line) = memFree s := by
  have h := memFree_of_onlyWords (onlyWords_flushLine s core line)
  unfold evictLine
  generalize flushLine s core line = t at h ⊢
  exact h

theorem memFree_l1Room (s : State) (core line : Nat) : memFree (l1Room s core line) = memFree s := by
  unfold l1Room
  dsimp only
  split
  next => rfl
  next =>
    split
    next v _ => exact memFree_evictLine { s with fresh := s.fresh + 1 } core v.line
    next => rfl

theorem onlyWords_fillSi (s : State) (q line : Nat) (want : List (Fin 32)) : OnlyWords s (fillSi s q line want) := by
  refine onlyWords_foldl (fun s i => ?_) _ s
  split
  next => exact onlyWords_refl s
  next => exact onlyWords_refl s
  next => split <;> exact onlyWords_l1SetWord ..

theorem onlyWords_fillWi (s : State) (q line : Nat) (want : List (Fin 32)) : OnlyWords s (fillWi s q line want) := by
  unfold fillWi
  refine OnlyWords.trans (OnlyWords.trans (onlyWords_foldl (fun s i => ?_) want s) (onlyWords_foldl (fun s i => ?_) (List.finRange 32) _)) ⟨_, _, _, rfl⟩
  · split
    next =>
      split
      next => exact onlyWords_refl s
      next => exact onlyWords_hRevoke s line i .H
    next => exact onlyWords_refl s
  · split
    next =>
      split
      next => exact onlyWords_refl s
      next => exact onlyWords_l1SetWord ..
    next => exact (onlyWords_l1SetWord s q line i _).trans (onlyWords_hSetWord _ line i _)

theorem memFree_moveLoad (s : State) (q : Req) (pol line : Nat) (want : List (Fin 32)) : memFree (moveLoad s q pol line want) = memFree s := by
  unfold moveLoad
  split
  next => exact memFree_l2Touch s q line
  next c _ =>
    split
    next => rfl
    next =>
      have hroom : memFree (l1Room (l2Touch s q line) c line) = memFree s := (memFree_l1Room _ c line).trans (memFree_l2Touch s q line)
      dsimp only
      split
      next => exact (memFree_of_onlyWords (onlyWords_foldl (fun s i => onlyWords_takeOwn s c line i) want _)).trans hroom
      next => exact memFree_l2Touch s q line
      next => exact (memFree_of_onlyWords (onlyWords_fillSi _ c line want)).trans hroom
      next => exact (memFree_of_onlyWords (onlyWords_fillWi _ c line want)).trans hroom

theorem memStep_moveLoad (s : State) (q : Req) (pol line : Nat) (want : List (Fin 32)) : MemStep s (moveLoad s q pol line want) :=
  ⟨memFree_moveLoad s q pol line want, fun h => coherent_of_moved (moved_moveLoad h q pol line want)⟩

theorem memFree_readyToStore (s : State) (q : Req) (pol pa n : Nat) : memFree (readyToStore s q pol pa n) = memFree s := by
  have htouch : memFree (homeTouch s q pol (lineOf pa) (wordsOf pa n)) = memFree s := by
    unfold homeTouch
    split
    next =>
      split
      next => rfl
      next => exact memFree_l2Touch s q (lineOf pa)
    next => rfl
  unfold readyToStore
  dsimp only
  split
  next c _ =>
    split
    next => exact (memFree_l1Room _ c (lineOf pa)).trans htouch
    next => exact htouch
  next => exact htouch

theorem memStep_cohStore (s : State) (q : Req) (pol pa : Nat) (bs : List Byte) : MemStep s (cohStore s q pol pa bs) where
  rest := by
    rw [cohStore_eq]
    exact (memFree_of_onlyWords (onlyWords_storeWords ..)).trans (memFree_readyToStore ..)
  coherent h := (latest_cohStore h q pol pa bs).1

theorem memStep_write (s : State) (pa : Nat) (bs : List Byte) : MemStep s { s with mem := Memory.write s.mem pa bs } :=
  ⟨rfl, fun h => coherent_write h pa bs⟩

theorem memStep_devWrite (s : State) (q : Req) (pa : Nat) (bs : List Byte) : MemStep s (devWrite s q pa bs) :=
  ⟨memFree_of_onlyWords (onlyWords_devWrite s q pa bs), fun h => coherent_devWrite h q pa bs⟩

/-! ### Requests that are performed at their home (R196, R332) -/

theorem memStep_markDirty (s : State) (p : Fin 8) (pa : Nat) : MemStep s (markDirty s p pa) := by
  unfold markDirty
  split
  next => exact memStep_refl s
  next =>
    dsimp only
    split
    next => exact memStep_devWrite ..
    next => exact memStep_refl s

theorem memStep_perform (s : State) (q : Req) (pol pa : Nat) (bs : List Byte) : MemStep s (perform s q pol pa bs) := by
  unfold perform
  split
  next => exact memStep_refl s
  next t _ =>
    split
    next => exact memStep_of_same rfl rfl rfl rfl
    next =>
      split
      next => exact memStep_write s pa bs
      next => exact (memStep_cohStore s q pol pa bs).trans (memStep_markDirty _ t.1 pa)

theorem memStep_homePerform (s : State) (r : HomeReq) : MemStep s (homePerform s r) := by
  unfold homePerform
  dsimp only
  split
  next => exact memStep_perform ..
  next => exact memStep_moveLoad ..

theorem memStep_homeDrain (s : State) (p : HomeReq → Bool) : MemStep s (homeDrain s p) :=
  (memStep_of_same rfl rfl rfl rfl : MemStep s { s with homeQ := s.homeQ.filter fun r => !p r }).trans
    (memStep_foldl memStep_homePerform (s.homeQ.filter p) _)

theorem memStep_drainLine (s : State) (line : Nat) : MemStep s (drainLine s line) := memStep_homeDrain s _

theorem memStep_sendStore (s : State) (q : Req) (wg : Nat) (gid : Fin 16) (pol pa : Nat) (bs : List Byte) : MemStep s (sendStore s q wg gid pol pa bs) := by
  unfold sendStore
  split
  next => exact memStep_perform s q pol pa bs
  next c _ =>
    have hearly : MemStep s (dropEarly s c pa) := memStep_of_same rfl rfl rfl rfl
    dsimp only
    split
    next => exact hearly.trans ((memStep_drainLine _ _).trans (memStep_perform ..))
    next => exact hearly.trans (memStep_of_same rfl rfl rfl rfl)

/-! ### Translations (R312, R315) -/

theorem memStep_walkFrom (q : Req) (sec : Bool) (va : Nat) (ls : List (Nat × Nat)) (s : State) (table : Nat) :
    MemStep s (walkFrom s q sec va ls table).1 := by
  induction ls generalizing s table with
  | nil => exact memStep_refl s
  | cons l ls ih =>
    obtain ⟨lo, n⟩ := l
    unfold walkFrom
    dsimp only
    split
    next => exact memStep_refl s
    next =>
      split
      next => exact memStep_refl s
      next =>
        have htouch := memStep_l2Touch s { q with core := none } (lineOf (table + va / 2 ^ lo % n * 8))
        split
        next => exact htouch
        next =>
          split
          next => split <;> exact htouch
          next =>
            split
            next => exact htouch
            next => exact htouch.trans (ih ..)

theorem memStep_walk (s : State) (p : Fin 8) (t : Fin 9) (va : Nat) : MemStep s (walk s p t va).1 := memStep_walkFrom ..

theorem memStep_tlbPut (s : State) (o : TlbOwner) (cap : Nat) (p : Fin 8) (t : Fin 9) (x : Xl) : MemStep s (tlbPut s o cap p t x) :=
  memStep_of_same rfl rfl rfl rfl

theorem memStep_agree64 (s : State) (p : Fin 8) (t : Fin 9) (x : Xl) : MemStep s (agree64 s p t x) := by
  unfold agree64
  split
  next => exact memStep_of_same rfl rfl rfl rfl
  next => exact memStep_refl s

theorem memStep_lookup (s : State) (core : Nat) (p : Fin 8) (t : Fin 9) (va : Nat) : MemStep s (lookup s core p t va).1 := by
  have hwalk := memStep_walk s p t va
  unfold lookup
  split
  next => exact memStep_tlbPut ..
  next =>
    split
    next s1 x e =>
      rw [e] at hwalk
      exact hwalk.trans ((memStep_agree64 s1 p t x).trans ((memStep_tlbPut ..).trans (memStep_tlbPut ..)))
    next => exact hwalk

end Sys2Proof.Laws.Bytes

/-! ### Records of fault domains (R350, R351) -/

namespace Sys2Proof.Laws.Bytes
open Sys2Proof Sys2Proof.Machine

/-- Main memory and screed read alike in states with the same memory, heddle and L1s. -/
theorem devRead_of_same {s t : State} (h1 : t.hed = s.hed) (h2 : t.l1 = s.l1) (h3 : t.mem = s.mem) (a n : Nat) : devRead t a n = devRead s a n := by
  have hlatest : ∀ line i, latest t line i = latest s line i := fun line i => by
    simp only [latest, ownerWord, homeWord, l1Get, hGet, h1, h2, h3]
  rw [devRead, devRead, h3, cohRead_congr fun k _ => byteAt_of_latest hlatest (a + k)]

/-- A record changes memory, the state of its ring and what the device has sent. -/
theorem putRecord_frame (s : State) (dom : Fin 64) (r : Rec) : ∃ m h l d o, putRecord s dom r = { s with mem := m, hed := h, l1 := l, domains := d, out := o } := by
  unfold putRecord
  dsimp only
  split
  next =>
    obtain ⟨m, h, l, e⟩ := onlyWords_devWrite s ⟨none, none⟩ (s.domains[dom].rbase.toNat + 64 * (s.domains[dom].head.toNat % 2 ^ s.domains[dom].rlog))
      (r.bytes s.now dom.val s.domains[dom].seq)
    rw [e]
    exact ⟨_, _, _, _, _, rfl⟩
  next => exact ⟨_, _, _, _, _, rfl⟩

theorem coherent_putRecord {s : State} (h : Coherent s) (dom : Fin 64) (r : Rec) : Coherent (putRecord s dom r) := by
  unfold putRecord
  dsimp only
  split
  next => exact coherent_of_moved (moved_of_same (coherent_devWrite h _ _ _) rfl rfl rfl)
  next => exact coherent_of_moved (moved_of_same h rfl rfl rfl)

theorem length_recBytes (r : Rec) (time dom : Nat) (seq : Word) : (r.bytes time dom seq).length = 64 := by
  simp [Rec.bytes, length_leBytes]

/-- A record begins with its cause and its type. -/
theorem take_recBytes (r : Rec) (time dom : Nat) (seq : Word) :
    (r.bytes time dom seq).take 2 = [BitVec.ofNat 8 r.cause, BitVec.ofNat 8 r.type] := by
  have hcause : ∀ x c : Nat, BitVec.ofNat 8 (x * 256 + c % 256) = BitVec.ofNat 8 c := fun x c => by
    apply BitVec.eq_of_toNat_eq
    simp only [BitVec.toNat_ofNat]
    omega
  have hword : bit r.atomic * 2 ^ 18 + bit r.exited * 2 ^ 17 + bit r.fatal * 2 ^ 16 + r.type % 256 * 256 + r.cause % 256 =
      ((bit r.atomic * 1024 + bit r.exited * 512 + bit r.fatal * 256) + r.type % 256) * 256 + r.cause % 256 := by omega
  have hdiv : ∀ x c : Nat, (x * 256 + c % 256) / 256 = x := fun x c => by omega
  have htype : BitVec.ofNat 8 ((bit r.atomic * 1024 + bit r.exited * 512 + bit r.fatal * 256) + r.type % 256) = BitVec.ofNat 8 r.type := by
    have hflags : bit r.atomic * 1024 + bit r.exited * 512 + bit r.fatal * 256 = (bit r.atomic * 4 + bit r.exited * 2 + bit r.fatal) * 256 := by ring
    rw [hflags, hcause]
  simp only [Rec.bytes, List.append_assoc]
  rw [hword]
  simp only [leBytes, List.cons_append, List.take_succ_cons, List.take_zero, hcause, hdiv, htype]

/-- A record reaches its ring, or is counted as lost. -/
theorem reported_putRecord {s : State} (h : Coherent s) (dom : Fin 64) (r : Rec) : Reported s (putRecord s dom r) dom (BitVec.ofNat 8 r.cause) r.type := by
  unfold Reported
  dsimp only
  by_cases hroom : (s.domains[dom]).en = true ∧ ((s.domains[dom]).head - (s.domains[dom]).tail).toNat < 2 ^ (s.domains[dom]).rlog
  · rw [if_pos hroom]
    unfold putRecord
    dsimp only
    rw [if_pos (by simpa using hroom)]
    refine ⟨?_, by simp, by simp, ?_⟩
    · rw [← take_recBytes r s.now dom.val (s.domains[dom]).seq, ← devRead_devWrite h ⟨none, none⟩ _ _ 2 (by rw [length_recBytes]; omega)]
      exact devRead_of_same rfl rfl rfl _ _
    · dsimp only
      rw [(onlyWords_devWrite s _ _ _).eq]
  · rw [if_neg hroom]
    unfold putRecord
    dsimp only
    rw [if_neg (by simpa using hroom)]
    exact ⟨by simp, by simp⟩

/-- A report stands while the memory, the rings and what was sent do; it is one to the rings as they were. -/
theorem Reported.congr {s t s' t' : State} {dom : Fin 64} {cause : BitVec 8} {type : Nat} (h : Reported s t dom cause type)
    (hs : s'.domains = s.domains ∧ s'.out = s.out) (hread : ∀ a n, devRead t' a n = devRead t a n) (ht : t'.domains = t.domains ∧ t'.out = t.out) :
    Reported s' t' dom cause type := by
  unfold Reported at h ⊢
  dsimp only at h ⊢
  rw [hs.1, hs.2, ht.1, ht.2, hread]
  exact h

end Sys2Proof.Laws.Bytes

/-! ## Engine tasks (R154, R155): what they leave of workgroups, groups and pairs -/

namespace Sys2Proof.Laws.Tasks
open Sys2Proof Sys2Proof.Machine Sys2Proof.Laws.Bytes

/-- A workgroup without what its tasks, its barrier objects and its migrations change. -/
def idle (w : Workgroup) : Workgroup :=
  { w with mem := [], memT := [], bars := WgSnap.none.bars, barsT := WgSnap.none.barsT, kicks := [], came := [], cameT := [], mig := [], det := [],
           detBytes := 0, mism := [] }

/-- A group without the time to which its slot is charged. -/
def uncharged (g : Group) : Group := { g with heldSince := 0 }

/-- A pair without its mismatch. -/
def quietPair (p : Pair) : Pair := { p with stopped := false, mis := none, rolled := false }

/-- The state without the memory system, the engines, the charges, and what tasks change of workgroups and pairs. -/
def workFree (s : State) : State :=
  { memFree s with nodes := [], engq := [], readyQ := [], creels := [], pairs := s.pairs.map quietPair, wgs := s.wgs.map idle,
                   grp := uncharged s.grp, others := s.others.map uncharged }

/-- A step of a task: the rest of the state stands, a coherent state stays coherent, a pair that is stopped stays stopped. -/
structure Kept (s t : State) : Prop where
  rest     : workFree t = workFree s
  coherent : Coherent s → Coherent t
  stopped  : ∀ k : Fin 16, (s.pairs[k]).stopped = true → (t.pairs[k]).stopped = true

theorem kept_refl (s : State) : Kept s s := ⟨rfl, id, fun _ => id⟩

theorem Kept.trans {s t u : State} (h1 : Kept s t) (h2 : Kept t u) : Kept s u :=
  ⟨h2.rest.trans h1.rest, h2.coherent ∘ h1.coherent, fun k h => h2.stopped k (h1.stopped k h)⟩

theorem kept_foldl {α : Type} {f : State → α → State} (hf : ∀ s a, Kept s (f s a)) (xs : List α) (s : State) : Kept s (xs.foldl f s) := by
  induction xs generalizing s with
  | nil => exact kept_refl s
  | cons a xs ih => exact (hf s a).trans (ih _)

/-- A step that leaves memory, heddle, L1s and pairs. -/
theorem kept_of_same {s t : State} (h : workFree t = workFree s) (h1 : t.hed = s.hed) (h2 : t.l1 = s.l1) (h3 : t.mem = s.mem) (h4 : t.pairs = s.pairs) :
    Kept s t :=
  ⟨h, fun hc => coherent_of_moved (moved_of_same hc h1 h2 h3), fun _ hk => h4 ▸ hk⟩

/-- The part of the state beside the memory system decides what is left when its tasks are set aside too. -/
theorem workFree_memFree (s : State) : workFree (memFree s) = workFree s := rfl

theorem kept_of_memStep {s t : State} (h : MemStep s t) : Kept s t where
  rest := by rw [← workFree_memFree t, h.rest, workFree_memFree]
  coherent := h.coherent
  stopped k hk := by
    have hp : t.pairs = s.pairs := (congrArg State.pairs h.rest :)
    rw [hp]
    exact hk

/-! ### Workgroups -/

theorem map_modWg {f g : Workgroup → Workgroup} (hf : ∀ w, g (f w) = g w) (s : State) (key : Nat) : (modWg s key f).wgs.map g = s.wgs.map g := by
  simp only [modWg, List.map_map]
  refine List.map_congr_left fun w _ => ?_
  simp only [Function.comp_apply]
  split
  next => exact hf w
  next => rfl

theorem kept_modWg (s : State) (key : Nat) {f : Workgroup → Workgroup} (hf : ∀ w, idle (f w) = idle w := by exact fun _ => rfl) :
    Kept s (modWg s key f) :=
  kept_of_same (by
    change { workFree s with wgs := (modWg s key f).wgs.map idle } = _
    rw [map_modWg hf]
    rfl) rfl rfl rfl rfl

theorem idle_setLoc (w : Workgroup) (r : Role) (m : List Host.Cell) : idle (w.setLoc r m) = idle w := by cases r <;> rfl

theorem idle_setCame (w : Workgroup) (r : Role) (l : List (Nat × Nat)) : idle (w.setCame r l) = idle w := by cases r <;> rfl

theorem kept_locWrite (s : State) (key : Nat) (r : Role) (off : Nat) (bs : List Byte) : Kept s (locWrite s key r off bs) :=
  kept_modWg s key fun w => idle_setLoc w r _

theorem kept_modRec (s : State) (wg key off : Nat) (f : TaskRec → TaskRec) : Kept s (modRec s wg key off f) := kept_modWg s wg

theorem kept_writeStat (s : State) (wg off : Nat) (st : TState) (err : TErr) : Kept s (writeStat s wg off st err) := by
  unfold writeStat
  split
  next => exact kept_refl s
  next => exact kept_foldl (fun s r => kept_locWrite s wg r _ _) _ s

theorem kept_setRec (s : State) (wg key off : Nat) (st : TState) (err : TErr) : Kept s (setRec s wg key off st err) :=
  (kept_modRec s wg key off _).trans (kept_writeStat _ wg off st err)

theorem kept_dropDone (s : State) (wg : Nat) : Kept s (dropDone s wg) := kept_modWg s wg

theorem kept_discardPendingFrom (s : State) (wg from_ : Nat) : Kept s (discardPendingFrom s wg from_) :=
  (kept_modWg s wg).trans (kept_dropDone _ wg)

/-! ### Arrivals at barrier objects, and the walk (R154, R158, R173) -/

theorem map_set_quietPair (ps : Vector Pair 16) (k : Fin 16) (p : Pair) (h : quietPair p = quietPair ps[k]) :
    (ps.set k p).map quietPair = ps.map quietPair := by
  ext i hi
  simp only [Vector.getElem_map, Vector.getElem_set]
  split
  next e =>
    subst e
    rw [h]
    rfl
  next => rfl

/-- A pair stops. -/
theorem kept_stopPair (s : State) (k : Fin 16) (p : Pair) (h : quietPair p = quietPair s.pairs[k]) (hp : p.stopped = true) :
    Kept s { s with pairs := s.pairs.set k p } where
  rest := by
    unfold workFree
    dsimp only
    rw [map_set_quietPair _ k p h]
    rfl
  coherent hc := coherent_of_moved (moved_of_same hc rfl rfl rfl)
  stopped j hj := by
    simp only [Fin.getElem_fin, Vector.getElem_set]
    split
    next => exact hp
    next => exact hj

theorem kept_mismatchOf (s : State) (w : Workgroup) (g : Group) (kind field lane : Nat) (npc twin : Word) (lead trail : BitVec 128) :
    Kept s (mismatchOf s w g kind field lane npc twin lead trail) := by
  unfold mismatchOf
  extract_lets k p key m s1
  have hstop : Kept s s1 := kept_stopPair s k _ rfl rfl
  exact hstop.trans (kept_modWg s1 w.key)

theorem kept_compareFlip (s : State) (w : Workgroup) (key : Nat) (r : TaskRec) : Kept s (compareFlip s w key r) := by
  unfold compareFlip
  split
  next v k _ _ =>
    have hforget : Kept s (((rolesOf s w).filter (hasFlipped w v r)).foldl (fun s m => forgetCame s w.key m (rBar (r.of m))) s) :=
      kept_foldl (fun s m => kept_modWg s w.key fun w => idle_setCame w m _) _ s
    dsimp only
    split
    next => exact kept_refl s
    next =>
      split
      next => exact hforget
      next =>
        split
        next => exact hforget.trans (kept_mismatchOf ..)
        next => exact hforget
  next => exact kept_refl s

theorem kept_arriveRec (s : State) (wg key : Nat) (r : TaskRec) (err : TErr) : Kept s (arriveRec s wg key r err) := by
  unfold arriveRec
  split
  next => exact kept_refl s
  next w _ =>
    refine Kept.trans (kept_foldl (fun s m => ?_) _ s) (kept_compareFlip _ w key r)
    split
    next => exact kept_refl s
    next =>
      dsimp only
      split
      next => exact (kept_locWrite s wg m _ _).trans (kept_modWg _ wg fun w => idle_setCame w m _)
      next => exact kept_refl s

theorem kept_readyQ (s : State) (q : List EngTask) : Kept s { s with readyQ := q } := kept_of_same rfl rfl rfl rfl rfl

theorem kept_walkActs (wg key fuel : Nat) (acts : List WalkAct) (s : State) : Kept s (walkActs wg key fuel acts s) := by
  induction fuel generalizing acts s with
  | zero => exact kept_refl s
  | succ fuel ih =>
    cases acts with
    | nil => exact kept_refl s
    | cons a rest =>
      cases a with
      | issue off =>
        simp only [walkActs]
        split
        next =>
          split
          next => exact ih ..
          next => exact (kept_readyQ s _).trans (ih ..)
        next => exact ih ..
      | finish off st err =>
        simp only [walkActs]
        split
        next r _ => exact ((kept_setRec s wg key off st err).trans (kept_arriveRec _ wg key r err)).trans (ih ..)
        next => exact ih ..
      | release off =>
        simp only [walkActs]
        split
        next => exact (kept_modRec s wg key off _).trans (ih ..)
        next => exact (kept_modRec s wg key off _).trans (ih ..)

theorem kept_runWalk (s : State) (wg key : Nat) (acts : List WalkAct) : Kept s (runWalk s wg key acts) :=
  (kept_walkActs wg key _ acts s).trans (kept_dropDone _ wg)

/-! ### COPY and MATX (R149, R155, R164) -/

theorem kept_setCreel (s : State) (e : EngineId) (m : List Host.Cell) : Kept s (setCreel s e m) := kept_of_same rfl rfl rfl rfl rfl

theorem kept_copyProbe (s : State) (w : Workgroup) (screed write : Bool) (va : Nat) : Kept s (copyProbe s w screed write va).1 := by
  have hlook := kept_of_memStep (memStep_lookup s w.core w.ref.part w.ref.tenant va)
  unfold copyProbe
  split
  next => exact kept_refl s
  next =>
    split
    next e => rw [e] at hlook; exact hlook
    next e => rw [e] at hlook; exact hlook
    next e =>
      rw [e] at hlook
      split <;> exact hlook

theorem kept_copyTouch (s : State) (w : Workgroup) (k pa : Nat) : Kept s (copyTouch s w k pa) := by
  unfold copyTouch
  split
  next => exact kept_of_memStep (memStep_l2Touch ..)
  next => exact kept_refl s

theorem kept_copyWrite (s : State) (w : Workgroup) (gid : Fin 16) (va pa : Nat) (x : Byte) : Kept s (copyWrite s w gid va pa x) := by
  unfold copyWrite
  refine (kept_of_memStep (memStep_drainLine s (lineOf pa))).trans ?_
  unfold commitStore
  split
  next => exact kept_modWg _ w.key
  next => exact kept_of_memStep (memStep_sendStore ..)

/-- The bytes that a copy reads at its source, one for each member, or why it stops. -/
def copySource (w : Workgroup) (rec_ : TaskRec) (k : Nat) (src : Role → Nat) (s : State) : State × Except (BitVec 13 × Nat) (Role → Byte) :=
  if cSsp rec_.bytes = 2 then
    match wgOf s w.key with
    | none => (s, .error (errBnd, src .lead))
    | some v => if v.size ≤ src .lead then (s, .error (errBnd, src .lead)) else (s, .ok fun r => Memory.get (v.loc r) (src r))
  else match copyProbe s w (cSsp rec_.bytes == 1) false (src .lead) with
    | (s1, .error e) => (s1, .error (e, src .lead))
    | (s1, .ok pa) => let x := copyRead s1 w pa; (copyTouch s1 w k pa, .ok fun _ => x)

theorem kept_copySource (w : Workgroup) (rec_ : TaskRec) (k : Nat) (src : Role → Nat) (s : State) : Kept s (copySource w rec_ k src s).1 := by
  have hprobe := kept_copyProbe s w (cSsp rec_.bytes == 1) false (src .lead)
  unfold copySource
  split
  next =>
    split
    next => exact kept_refl s
    next => split <;> exact kept_refl s
  next =>
    split
    next e => rw [e] at hprobe; exact hprobe
    next e => rw [e] at hprobe; exact hprobe.trans (kept_copyTouch ..)

/-- The bytes that a copy has read go to its destination. -/
def copyInto (w : Workgroup) (gid : Fin 16) (rec_ : TaskRec) (k : Nat) (dst : Role → Nat) (c : CopySt)
    (x : State × Except (BitVec 13 × Nat) (Role → Byte)) : CopySt :=
  match x.2 with
  | .error (e, a) => ⟨x.1, e, BitVec.ofNat 64 (a % 2 ^ 49), true⟩
  | .ok val =>
    match cDsp rec_.bytes with
    | 2 => { c with s := (rolesOf x.1 w).foldl (fun s r => locWrite s w.key r (dst r) [val r]) x.1 }
    | 3 => { c with s := (rolesOf x.1 w).foldl (fun s r =>
        let e := creelName w r (rec_.of r)
        setCreel s e (Memory.set (creelOf s e) (dst r) (val r))) x.1 }
    | d =>
      match copyProbe x.1 w (d == 1) true (dst .lead) with
      | (s2, .error e) => ⟨s2, e, BitVec.ofNat 64 (dst .lead % 2 ^ 49), true⟩
      | (s2, .ok pa) => { c with s := copyWrite (copyTouch s2 w k pa) w gid (dst .lead) pa (val .lead) }

theorem copyByte_eq (w : Workgroup) (gid : Fin 16) (rec_ : TaskRec) (k : Nat) (src dst : Role → Nat) (c : CopySt) :
    copyByte w gid rec_ k src dst c = if c.stop then c else copyInto w gid rec_ k dst c (copySource w rec_ k src c.s) := rfl

theorem kept_copyInto (w : Workgroup) (gid : Fin 16) (rec_ : TaskRec) (k : Nat) (dst : Role → Nat) (c : CopySt)
    (x : State × Except (BitVec 13 × Nat) (Role → Byte)) : Kept x.1 (copyInto w gid rec_ k dst c x).s := by
  unfold copyInto
  split
  next => exact kept_refl x.1
  next val _ =>
    split
    next => exact kept_foldl (fun s r => kept_locWrite s w.key r _ _) _ x.1
    next => exact kept_foldl (fun s r => kept_setCreel s _ _) _ x.1
    next =>
      have hprobe := fun d => kept_copyProbe x.1 w (d == 1) true (dst .lead)
      split
      next e =>
        have h := hprobe (cDsp rec_.bytes)
        simp only [e] at h
        exact h
      next e =>
        have h := hprobe (cDsp rec_.bytes)
        simp only [e] at h
        exact h.trans ((kept_copyTouch ..).trans (kept_copyWrite ..))

theorem kept_copyByte (w : Workgroup) (gid : Fin 16) (rec_ : TaskRec) (k : Nat) (src dst : Role → Nat) (c : CopySt) :
    Kept c.s (copyByte w gid rec_ k src dst c).s := by
  rw [copyByte_eq]
  split
  next => exact kept_refl c.s
  next => exact (kept_copySource w rec_ k src c.s).trans (kept_copyInto ..)

/-- A fold over copies in progress. -/
theorem kept_foldl_copy {α : Type} {f : CopySt → α → CopySt} (hf : ∀ c a, Kept c.s (f c a).s) (xs : List α) (c : CopySt) :
    Kept c.s (xs.foldl f c).s := by
  induction xs generalizing c with
  | nil => exact kept_refl c.s
  | cons a xs ih => exact (hf c a).trans (ih _)

theorem kept_copyAll (w : Workgroup) (gid : Fin 16) (rec_ : TaskRec) (c : CopySt) : Kept c.s (copyAll w gid rec_ c).s := by
  refine kept_foldl_copy (fun c r => ?_) _ c
  split
  next => exact kept_refl c.s
  next =>
    split
    next => exact kept_refl c.s
    next => exact kept_foldl_copy (fun c k => kept_copyByte ..) _ c

theorem kept_runCopy (s : State) (w : Workgroup) (gid : Fin 16) (rec_ : TaskRec) : Kept s (runCopy s w gid rec_).1 := by
  have hall := kept_copyAll w gid rec_ ⟨s, 0, 0, false⟩
  unfold runCopy
  dsimp only
  split
  next => exact hall
  next => exact hall.trans (kept_foldl (fun s m => kept_setCreel s _ _) _ _)

theorem kept_runMatxOn (s : State) (w : Workgroup) (r : Role) (b : List Byte) : Kept s (runMatxOn s w r b).1 :=
  kept_modWg s w.key fun w => idle_setLoc w r _

theorem kept_runMatx (s : State) (w : Workgroup) (rec_ : TaskRec) : Kept s (runMatx s w rec_).1 := by
  have hlead := kept_runMatxOn s w .lead rec_.bytes
  unfold runMatx
  generalize runMatxOn s w .lead rec_.bytes = x at hlead ⊢
  dsimp only
  split
  next =>
    split
    next => exact hlead
    next w' _ => exact hlead.trans (kept_runMatxOn x.1 w' .trail rec_.bytesT)
  next => exact hlead

/-! ### Tasks that complete, and their charges (R172, R240) -/

theorem kept_engq (s : State) (q : List EngTask) : Kept s { s with engq := q } := kept_of_same rfl rfl rfl rfl rfl

theorem kept_completeTask (s : State) (t : EngTask) (soft : BitVec 4) : Kept s (completeTask s t soft) := by
  unfold completeTask
  dsimp only
  split
  next w k r _ _ _ =>
    by_cases hk : rKind r.bytes = 1
    · have hrun := (kept_engq s (s.engq.erase t)).trans (kept_runCopy _ w k.gid r)
      simp only [if_pos hk]
      generalize runCopy _ w k.gid r = x at hrun ⊢
      exact ((hrun.trans (kept_foldl (fun s m => kept_locWrite s w.key m _ _) _ x.1)).trans (kept_modRec ..)).trans (kept_runWalk ..)
    · have hrun := (kept_engq s (s.engq.erase t)).trans (kept_runMatx _ w r)
      simp only [if_neg hk]
      generalize runMatx _ w r = x at hrun ⊢
      exact (hrun.trans (kept_modRec ..)).trans (kept_runWalk ..)
  next => exact kept_engq s _

theorem kept_completeTasksFrom (s : State) (wg from_ : Nat) : Kept s (completeTasksFrom s wg from_) :=
  kept_foldl (fun s t => kept_completeTask s t 0) _ s

end Sys2Proof.Laws.Tasks

/-! ## Rollback of checked workgroups (R378, R382) -/

namespace Sys2Proof.Laws.Rollback
open Sys2Proof Sys2Proof.Machine Sys2Proof.Laws.Bytes Sys2Proof.Laws.Tasks Sys2Proof.Laws.Budgets

/-! ### Charges -/

theorem kept_mapGroups (s : State) {f : Group → Group} (hf : ∀ g, uncharged (f g) = uncharged g) : Kept s (mapGroups s f) := by
  have hmap : (s.others.map f).map uncharged = s.others.map uncharged := by
    rw [List.map_map]
    exact List.map_congr_left fun g _ => hf g
  refine kept_of_same ?_ rfl rfl rfl rfl
  change { workFree s with grp := uncharged (f s.grp), others := (s.others.map f).map uncharged } = _
  rw [hf, hmap]
  rfl

theorem kept_chargeNodes (due : Nat → Nat) (s : State) : Kept s (chargeNodes due s) := kept_of_same rfl rfl rfl rfl rfl

theorem kept_chargeWg (s : State) (key : Nat) : Kept s (chargeWg s key) := by
  have hgroups : Kept s (chargeGroups s fun g => g.wg == key) := by
    rw [chargeGroups, chargeGroupsTo_eq]
    refine (kept_chargeNodes _ s).trans (kept_mapGroups _ fun g => ?_)
    split <;> rfl
  have htasks : ∀ u, Kept u (chargeTasks u fun t => t.wg == key) := fun u => by
    rw [chargeTasks, chargeTasksTo_eq]
    exact (kept_chargeNodes _ u).trans (kept_engq _ _)
  exact hgroups.trans (htasks _)

theorem kept_undoLogs (s : State) (key : Nat) (r : Role) : Kept s (undoLogs s key r) :=
  kept_foldl (fun s (u : UndoEnt) => kept_locWrite s u.wg r u.off u.old) _ s

/-! ### One workgroup -/

/-- A group as its checkpoint left it (R382). -/
def restored (g : Group) : Group :=
  match g.snap with
  | some n => { g with c := n.ctx, arr := n.arr, phase := n.phase, migK := n.migK, cbuf := [], undo := [], cmp := [], fwd := [] }
  | none => { g with cbuf := [], undo := [], cmp := [], fwd := [] }

/-- The state once the tasks of the interval are over. -/
def tasksOver (s : State) (key : Nat) : State :=
  let since := ((wgOf s key).map (·.ckptAt)).getD 0
  discardPendingFrom (completeTasksFrom (chargeWg s key) key since) key since

/-- The state once local memory is undone too. -/
def undone (s : State) (key : Nat) : State := undoLogs (undoLogs (tasksOver s key) key .lead) key .trail

/-- The ordws that the banks held at a workgroup's checkpoint. -/
def heldThen (s : State) (key : Nat) : List HeldReq := ((wgOf s key).map (·.snap.held)).getD []

/-- A workgroup with the barriers and the migrations of its checkpoint. -/
def barsThen (w : Workgroup) : Workgroup := { w with bars := w.snap.bars, barsT := w.snap.barsT, mig := w.snap.mig }

theorem rollbackWg_eq (s : State) (key : Nat) : rollbackWg s key =
    mapGroups (modWg { undone s key with held := (undone s key).held.filter (fun h => !(h.wg == key && h.kind.isOrdw)) ++ heldThen s key } key
      barsThen) fun g => if g.wg = key then restored g else g := rfl

theorem kept_tasksOver (s : State) (key : Nat) : Kept s (tasksOver s key) :=
  ((kept_chargeWg s key).trans (kept_completeTasksFrom ..)).trans (kept_discardPendingFrom ..)

theorem kept_undone (s : State) (key : Nat) : Kept s (undone s key) :=
  ((kept_tasksOver s key).trans (kept_undoLogs ..)).trans (kept_undoLogs ..)

/-- The state without what a rollback changes. -/
def coreFree (s : State) : State := { workFree s with grp := Group.empty, others := [], held := [] }

/-- A step of a rollback: as a task's, but for the groups and the requests held at the banks. -/
structure RolledBack (s t : State) : Prop where
  rest     : coreFree t = coreFree s
  coherent : Coherent s → Coherent t
  stopped  : ∀ k : Fin 16, (s.pairs[k]).stopped = true → (t.pairs[k]).stopped = true

theorem rolledBack_refl (s : State) : RolledBack s s := ⟨rfl, id, fun _ => id⟩

theorem RolledBack.trans {s t u : State} (h1 : RolledBack s t) (h2 : RolledBack t u) : RolledBack s u :=
  ⟨h2.rest.trans h1.rest, h2.coherent ∘ h1.coherent, fun k h => h2.stopped k (h1.stopped k h)⟩

theorem Kept.rolledBack {s t : State} (h : Kept s t) : RolledBack s t :=
  ⟨congrArg (fun u : State => { u with grp := Group.empty, others := [], held := [] }) h.rest, h.coherent, h.stopped⟩

theorem rolledBack_mapGroups (s : State) (f : Group → Group) : RolledBack s (mapGroups s f) :=
  ⟨rfl, fun hc => coherent_of_moved (moved_of_same hc rfl rfl rfl), fun _ => id⟩

theorem rolledBack_rollbackWg (s : State) (key : Nat) : RolledBack s (rollbackWg s key) := by
  rw [rollbackWg_eq]
  refine (Kept.rolledBack (kept_undone s key)).trans ?_
  generalize undone s key = u
  have hheld : RolledBack u { u with held := u.held.filter (fun h => !(h.wg == key && h.kind.isOrdw)) ++ heldThen s key } :=
    ⟨rfl, fun hc => coherent_of_moved (moved_of_same hc rfl rfl rfl), fun _ => id⟩
  exact (hheld.trans (Kept.rolledBack (kept_modWg _ key))).trans (rolledBack_mapGroups _ _)

theorem rolledBack_rollbackPair (s : State) (k : Fin 16) : RolledBack s (rollbackPair s k) := by
  unfold rollbackPair
  generalize checkedWgs s k = keys
  induction keys generalizing s with
  | nil => exact rolledBack_refl s
  | cons key keys ih => exact (rolledBack_rollbackWg s key).trans (ih _)

/-! ### What stands after a rollback -/

theorem allGroups_workFree (s : State) : allGroups (workFree s) = (allGroups s).map uncharged := rfl

theorem groups_of_kept {s t : State} (h : Kept s t) : (allGroups t).map uncharged = (allGroups s).map uncharged := by
  rw [← allGroups_workFree, ← allGroups_workFree, h.rest]

theorem uncharged_restored (g : Group) : uncharged (restored g) = restored (uncharged g) := by
  obtain ⟨⟩ := g
  unfold restored uncharged
  dsimp only
  split <;> rfl

theorem groups_rollbackWg (s : State) (key : Nat) : (allGroups (rollbackWg s key)).map uncharged =
    (allGroups s).map fun g => if g.wg = key then restored (uncharged g) else uncharged g := by
  have hmap : allGroups (rollbackWg s key) = (allGroups (undone s key)).map fun g => if g.wg = key then restored g else g := by
    rw [rollbackWg_eq]
    rfl
  have hcomp : ∀ g, uncharged (if g.wg = key then restored g else g) = if (uncharged g).wg = key then restored (uncharged g) else uncharged g := fun g => by
    split
    next h => rw [uncharged_restored, if_pos (show (uncharged g).wg = key from h)]
    next h => rw [if_neg (show ¬ (uncharged g).wg = key from h)]
  calc (allGroups (rollbackWg s key)).map uncharged
      = ((allGroups (undone s key)).map uncharged).map fun g => if g.wg = key then restored g else g := by
        rw [hmap, List.map_map, List.map_map]
        exact List.map_congr_left fun g _ => hcomp g
    _ = (allGroups s).map fun g => if g.wg = key then restored (uncharged g) else uncharged g := by
        rw [groups_of_kept (kept_undone s key), List.map_map]
        rfl

theorem held_rollbackWg (s : State) (key : Nat) :
    (rollbackWg s key).held = s.held.filter (fun h => !(h.wg == key && h.kind.isOrdw)) ++ heldThen s key := by
  have hheld : (undone s key).held = s.held := (congrArg State.held (kept_undone s key).rest :)
  rw [rollbackWg_eq]
  change (undone s key).held.filter _ ++ _ = _
  rw [hheld]

theorem wgOf_map_idle (s : State) (key : Nat) : (wgOf s key).map idle = (s.wgs.map idle).find? (·.key == key) := by
  rw [wgOf, List.find?_map]
  rfl

theorem wgs_of_rolledBack {s t : State} (h : RolledBack s t) : t.wgs.map idle = s.wgs.map idle := (congrArg State.wgs h.rest :)

theorem wgOf_of_rolledBack {s t : State} (h : RolledBack s t) (key : Nat) : (wgOf t key).map idle = (wgOf s key).map idle := by
  rw [wgOf_map_idle, wgOf_map_idle, wgs_of_rolledBack h]

/-- A field that tasks leave is read alike. -/
theorem wgField_of_rolledBack {α : Type} {s t : State} (h : RolledBack s t) (key : Nat) {f : Workgroup → α} (hf : ∀ w, f (idle w) = f w := by exact fun _ => rfl) :
    (wgOf t key).map f = (wgOf s key).map f := by
  have hcomp : f ∘ idle = f := funext hf
  have := congrArg (Option.map f) (wgOf_of_rolledBack h key)
  rwa [Option.map_map, Option.map_map, hcomp] at this

theorem heldThen_of_rolledBack {s t : State} (h : RolledBack s t) (key : Nat) : heldThen t key = heldThen s key := by
  rw [heldThen, heldThen, wgField_of_rolledBack h key]

end Sys2Proof.Laws.Rollback

/-! ### Local memory that is undone (R378, R382) -/

namespace Sys2Proof.Laws.Rollback
open Sys2Proof Sys2Proof.Machine Sys2Proof.Laws.Bytes Sys2Proof.Laws.Tasks Sys2Proof.Laws.Budgets

/-- A fold over keys of which each stands once: what is so before a key's turn, at it, and after it. -/
theorem foldl_pass {σ α : Type} {f : σ → α → σ} {P Q : σ → Prop} {x : α} {xs : List α} (hnd : xs.Nodup) (hx : x ∈ xs)
    (hP : ∀ s, ∀ a ∈ xs, a ≠ x → P s → P (f s a)) (hat : ∀ s, P s → Q (f s x)) (hQ : ∀ s, ∀ a ∈ xs, a ≠ x → Q s → Q (f s a)) (s : σ) (h : P s) :
    Q (xs.foldl f s) := by
  induction xs generalizing s with
  | nil => cases hx
  | cons a xs ih =>
    rw [List.nodup_cons] at hnd
    obtain ⟨ha, hnd⟩ := hnd
    rw [List.foldl_cons]
    by_cases hax : a = x
    · subst hax
      have hrest : ∀ b ∈ xs, b ≠ a := fun b hb e => ha (e ▸ hb)
      exact List.foldlRecOn xs f (hat s h) fun u hu b hb => hQ u b (.tail _ hb) (hrest b hb) hu
    · have hx' : x ∈ xs := (List.mem_cons.1 hx).resolve_left (Ne.symm hax)
      exact ih hnd hx' (fun s b hb => hP s b (.tail _ hb)) (fun s b hb => hQ s b (.tail _ hb)) _ (hP s a (.head _) hax h)

theorem wgOf_modWg {f : Workgroup → Workgroup} (hf : ∀ w, (f w).key = w.key) (s : State) (k key : Nat) :
    wgOf (modWg s k f) key = (wgOf s key).map fun w => if w.key = k then f w else w := by
  have hkey : ∀ w, (if w.key = k then f w else w).key = w.key := fun w => by
    split
    next => exact hf w
    next => rfl
  simp only [wgOf, modWg, List.find?_map, Function.comp_def, hkey]

theorem wgOf_key {s : State} {key : Nat} {w : Workgroup} (h : wgOf s key = some w) : w.key = key := by
  simpa using List.find?_some h

theorem wgOf_modWg_self {f : Workgroup → Workgroup} (hf : ∀ w, (f w).key = w.key) (s : State) (key : Nat) : wgOf (modWg s key f) key = (wgOf s key).map f := by
  rw [wgOf_modWg hf]
  cases h : wgOf s key with
  | none => rfl
  | some w => simp only [Option.map_some, wgOf_key h, if_true]

theorem wgOf_modWg_ne {f : Workgroup → Workgroup} (hf : ∀ w, (f w).key = w.key) (s : State) {k key : Nat} (hne : k ≠ key) : wgOf (modWg s k f) key = wgOf s key := by
  rw [wgOf_modWg hf]
  cases h : wgOf s key with
  | none => rfl
  | some w => simp only [Option.map_some, wgOf_key h, if_neg (Ne.symm hne)]

theorem setLoc_key (w : Workgroup) (r : Role) (m : List Host.Cell) : (w.setLoc r m).key = w.key := by cases r <;> rfl

theorem loc_setLoc (w : Workgroup) (r r' : Role) (m : List Host.Cell) : (w.setLoc r m).loc r' = if r = r' then m else w.loc r' := by
  cases r <;> cases r' <;> rfl

/-- Every local memory is in canonical form. -/
def LocalWf (s : State) : Prop := ∀ w ∈ s.wgs, ∀ r : Role, Memory.wf (w.loc r) = true

theorem localWf_of_sound {s : State} (h : Sound s) : LocalWf s := fun w hw r => by
  obtain ⟨hwf, -⟩ := h
  simp only [State.memWf, wgsWf, Bool.and_eq_true, List.all_eq_true] at hwf
  obtain ⟨⟨⟨-, hwgs⟩, -⟩, -⟩ := hwf
  cases r
  · exact (hwgs w hw).1
  · exact (hwgs w hw).2

theorem localWf_locWrite {s : State} (h : LocalWf s) (key : Nat) (r : Role) (off : Nat) (bs : List Byte) : LocalWf (locWrite s key r off bs) := by
  intro w hw r'
  obtain ⟨w0, hw0, rfl⟩ := List.mem_map.1 hw
  split
  next =>
    rw [loc_setLoc]
    split
    next => exact Memory.wf_write _ _ _ (h w0 hw0 r)
    next => exact h w0 hw0 r'
  next => exact h w0 hw0 r'

/-- A workgroup's local memory, when it is resident. -/
theorem localAt_eq {s : State} {key : Nat} {w : Workgroup} (h : wgOf s key = some w) (r : Role) (o : Nat) : localAt s r key o = Memory.get (w.loc r) o := by
  rw [localAt, h]

theorem localAt_modWg {f : Workgroup → Workgroup} (hkey : ∀ w, (f w).key = w.key) (hloc : ∀ w r, (f w).loc r = w.loc r) (s : State) (k : Nat) (r : Role)
    (key o : Nat) : localAt (modWg s k f) r key o = localAt s r key o := by
  rw [localAt, localAt, wgOf_modWg hkey]
  cases wgOf s key with
  | none => rfl
  | some w =>
    simp only [Option.map_some]
    split
    next => rw [hloc]
    next => rfl

theorem localAt_locWrite {s : State} (h : LocalWf s) {key : Nat} (hw : (wgOf s key).isSome = true) (r r' : Role) (off o : Nat) (bs : List Byte) :
    localAt (locWrite s key r off bs) r' key o = if r = r' ∧ off ≤ o ∧ o < off + bs.length then (bs[o - off]?).getD 0 else localAt s r' key o := by
  obtain ⟨w, hw⟩ := Option.isSome_iff_exists.1 hw
  have hwf := h w (List.mem_of_find?_eq_some hw) r
  have hset := wgOf_modWg_self (f := fun w => w.setLoc r (Memory.write (w.loc r) off bs)) (fun w => setLoc_key w r _) s key
  rw [hw] at hset
  rw [localAt_eq hw, localAt_eq (s := locWrite s key r off bs) hset, loc_setLoc]
  by_cases hr : r = r'
  · subst hr
    simp only [if_true, true_and, Memory.get_write _ _ _ _ hwf]
  · simp only [hr, if_false, false_and]

theorem localAt_locWrite_ne (s : State) {key k : Nat} (hne : k ≠ key) (r r' : Role) (off o : Nat) (bs : List Byte) :
    localAt (locWrite s k r off bs) r' key o = localAt s r' key o := by
  rw [localAt, localAt, locWrite, wgOf_modWg_ne (fun w => setLoc_key w r _) s hne]

theorem isSome_wgOf_locWrite (s : State) (k key : Nat) (r : Role) (off : Nat) (bs : List Byte) : (wgOf (locWrite s k r off bs) key).isSome = (wgOf s key).isSome := by
  rw [locWrite, wgOf_modWg fun w => setLoc_key w r _]
  cases wgOf s key <;> rfl

/-- Entries of an undo log are written back, one after another. -/
def writeBack (r : Role) (es : List UndoEnt) (s : State) : State := es.foldl (fun s u => locWrite s u.wg r u.off u.old) s

/-- The entries that lie over a byte. -/
def coversByte (u : UndoEnt) (o : Nat) : Prop := u.off ≤ o ∧ o < u.off + u.old.length

/-- The byte that an entry holds for an offset. -/
def heldByte (u : UndoEnt) (o : Nat) : Byte := (u.old[o - u.off]?).getD 0

theorem writeBack_facts (r : Role) (es : List UndoEnt) {s : State} (h : LocalWf s) :
    LocalWf (writeBack r es s) ∧ ∀ key, (wgOf (writeBack r es s) key).isSome = (wgOf s key).isSome := by
  induction es generalizing s with
  | nil => exact ⟨h, fun _ => rfl⟩
  | cons e es ih =>
    obtain ⟨h1, h2⟩ := ih (localWf_locWrite h e.wg r e.off e.old)
    exact ⟨h1, fun key => (h2 key).trans (isSome_wgOf_locWrite ..)⟩

/-- A byte that has a value keeps it, when every entry over it holds that value. -/
theorem localAt_writeBack_keeps {r r' : Role} {key o : Nat} {x : Byte} (es : List UndoEnt) {s : State} (h : LocalWf s) (hw : (wgOf s key).isSome = true)
    (hes : ∀ u ∈ es, u.wg = key → r = r' → coversByte u o → heldByte u o = x) (hx : localAt s r' key o = x) : localAt (writeBack r es s) r' key o = x := by
  induction es generalizing s with
  | nil => exact hx
  | cons e es ih =>
    refine ih (localWf_locWrite h _ _ _ _) ((isSome_wgOf_locWrite ..).trans hw) (fun u hu => hes u (.tail _ hu)) ?_
    by_cases hk : e.wg = key
    · subst hk
      rw [localAt_locWrite h hw]
      split
      next hover => exact hes e (.head _) rfl hover.1 hover.2
      next => exact hx
    · rw [localAt_locWrite_ne s hk, hx]

/-- Of entries that stand newest first the oldest one over a byte gives it its value. -/
theorem localAt_writeBack_oldest {r : Role} {key o : Nat} {es : List UndoEnt} (hsorted : es.Pairwise fun a b => b.at_ ≤ a.at_) {u : UndoEnt} (hu : u ∈ es)
    (hkey : u.wg = key) (hover : coversByte u o) (hold : ∀ y ∈ es, coversByte y o → y ≠ u → u.at_ < y.at_) {s : State} (h : LocalWf s)
    (hw : (wgOf s key).isSome = true) : localAt (writeBack r es s) r key o = heldByte u o := by
  obtain ⟨as, bs, rfl⟩ := List.append_of_mem hu
  obtain ⟨hwf, hsome⟩ := writeBack_facts r as h
  have hw' : (wgOf (writeBack r as s) key).isSome = true := (hsome key).trans hw
  have hlater : ∀ y ∈ bs, coversByte y o → y = u := fun y hy hyo => by
    by_contra hne
    have hle : y.at_ ≤ u.at_ := (List.pairwise_cons.1 (List.pairwise_append.1 hsorted).2.1).1 y hy
    have hlt := hold y (by simp [hy]) hyo hne
    omega
  have hfold : writeBack r (as ++ u :: bs) s = writeBack r bs (locWrite (writeBack r as s) u.wg r u.off u.old) := by
    simp only [writeBack, List.foldl_append, List.foldl_cons]
  rw [hfold]
  refine localAt_writeBack_keeps bs (localWf_locWrite hwf _ _ _ _) ((isSome_wgOf_locWrite ..).trans hw') (fun y hy _ _ hyo => by rw [hlater y hy hyo]) ?_
  rw [hkey, localAt_locWrite hwf hw', if_pos ⟨rfl, hover⟩]
  rfl

/-- The undo log of a workgroup on one member, newest first. -/
def undoList (s : State) (key : Nat) (r : Role) : List UndoEnt :=
  ((groupsOf s key r).flatMap (·.undo)).mergeSort fun a b => decide (b.at_ ≤ a.at_)

theorem pairwise_undoList (s : State) (key : Nat) (r : Role) : (undoList s key r).Pairwise fun a b => b.at_ ≤ a.at_ := by
  have := List.pairwise_mergeSort (le := fun a b : UndoEnt => decide (b.at_ ≤ a.at_)) (fun a b c h1 h2 => by simp_all; omega)
    (fun a b => by simp; omega) ((groupsOf s key r).flatMap (·.undo))
  exact this.imp fun h => by simpa using h

theorem mem_undoList {s : State} {key : Nat} {r : Role} {u : UndoEnt} : u ∈ undoList s key r ↔ ∃ x ∈ allGroups s, x.wg = key ∧ x.role = r ∧ u ∈ x.undo := by
  simp only [undoList, List.mem_mergeSort, List.mem_flatMap, groupsOf, List.mem_filter, Bool.and_eq_true, beq_iff_eq]
  exact ⟨fun ⟨x, ⟨hx, h1, h2⟩, h⟩ => ⟨x, hx, h1, h2, h⟩, fun ⟨x, hx, h1, h2, h⟩ => ⟨x, ⟨hx, h1, h2⟩, h⟩⟩

end Sys2Proof.Laws.Rollback

/-! ### A pair's checked workgroups, one after another -/

namespace Sys2Proof.Laws.Rollback
open Sys2Proof Sys2Proof.Machine Sys2Proof.Laws.Bytes Sys2Proof.Laws.Tasks Sys2Proof.Laws.Budgets

/-- The groups of a workgroup, but for their charges. -/
def groupsUnder (s : State) (key : Nat) : List Group := ((allGroups s).map uncharged).filter fun g => g.wg == key

theorem restored_wg (g : Group) : (restored g).wg = g.wg := by
  unfold restored
  split <;> rfl

theorem groupsUnder_of_kept {s t : State} (h : Kept s t) (key : Nat) : groupsUnder t key = groupsUnder s key := by
  rw [groupsUnder, groupsUnder, groups_of_kept h]

/-- The groups of a workgroup after a rollback of one. -/
theorem groupsUnder_rollbackWg (s : State) (a key : Nat) : groupsUnder (rollbackWg s a) key =
    (groupsUnder s key).map fun g => if g.wg = a then restored g else g := by
  have hmap : (allGroups (rollbackWg s a)).map uncharged = ((allGroups s).map uncharged).map fun g => if g.wg = a then restored g else g := by
    rw [groups_rollbackWg, List.map_map]
    rfl
  have hwg : ∀ g : Group, (if g.wg = a then restored g else g).wg = g.wg := fun g => by
    split
    next => exact restored_wg g
    next => rfl
  rw [groupsUnder, hmap, List.filter_map, groupsUnder]
  simp only [Function.comp_def, hwg]

theorem wg_of_mem_groupsUnder {s : State} {key : Nat} {g : Group} (h : g ∈ groupsUnder s key) : g.wg = key := by
  simpa using (List.mem_filter.1 h).2

theorem groupsUnder_rollbackWg_ne (s : State) {a key : Nat} (hne : a ≠ key) : groupsUnder (rollbackWg s a) key = groupsUnder s key := by
  rw [groupsUnder_rollbackWg]
  conv_rhs => rw [← List.map_id (groupsUnder s key)]
  refine List.map_congr_left fun g hg => ?_
  rw [if_neg (wg_of_mem_groupsUnder hg ▸ Ne.symm hne)]
  rfl

theorem groupsUnder_rollbackWg_self (s : State) (key : Nat) : groupsUnder (rollbackWg s key) key = (groupsUnder s key).map restored := by
  rw [groupsUnder_rollbackWg]
  exact List.map_congr_left fun g hg => if_pos (wg_of_mem_groupsUnder hg)

theorem groupAt_uncharged (s : State) (key : Nat) (gid : Fin 16) (r : Role) :
    (groupAt s key gid r).map uncharged = (groupsUnder s key).find? fun g => g.is key gid r := by
  rw [groupAt, groupsUnder, List.find?_filter, List.find?_map]
  congr 2
  funext g
  simp only [Function.comp_apply, Group.is, uncharged]
  by_cases h : g.wg = key
  · simp [h]
    rfl
  · simp [h]

theorem checkedWgs_iff {s : State} (k : Fin 16) {key : Nat} : key ∈ checkedWgs s k ↔ ∃ v, CheckedOn s k v ∧ v.key = key := by
  have hpair : ∀ v : Workgroup, pairIx (clusterOf v.core) = k ↔ v.core / 8 / 2 % 16 = k.val := fun v => by
    rw [Fin.ext_iff]
    rfl
  simp only [checkedWgs, List.mem_map, List.mem_filter, Bool.and_eq_true, beq_iff_eq, hpair, CheckedOn, and_assoc]

theorem nodup_checkedWgs {s : State} (h : (s.wgs.map (·.key)).Nodup) (k : Fin 16) : (checkedWgs s k).Nodup :=
  h.sublist (List.filter_sublist.map _)

/-- Every checked group of the pair goes back to its checkpoint. -/
theorem groupsUnder_rollbackPair {s : State} (hnd : (s.wgs.map (·.key)).Nodup) {k : Fin 16} {v : Workgroup} (hv : CheckedOn s k v) :
    groupsUnder (rollbackPair s k) v.key = (groupsUnder s v.key).map restored :=
  foldl_pass (f := rollbackWg) (P := fun u => groupsUnder u v.key = groupsUnder s v.key)
    (Q := fun u => groupsUnder u v.key = (groupsUnder s v.key).map restored) (nodup_checkedWgs hnd k) ((checkedWgs_iff k).2 ⟨v, hv, rfl⟩)
    (fun u _ _ hne hu => (groupsUnder_rollbackWg_ne u hne).trans hu)
    (fun u hu => by rw [groupsUnder_rollbackWg_self, hu])
    (fun u _ _ hne hu => (groupsUnder_rollbackWg_ne u hne).trans hu) s rfl

/-! ### Requests held at the banks -/

theorem wgOf_of_mem {s : State} (hnd : (s.wgs.map (·.key)).Nodup) {v : Workgroup} (hv : v ∈ s.wgs) : wgOf s v.key = some v :=
  find?_of_nodup (fun w : Workgroup => w.key) hnd hv

/-- The ordws of a checked workgroup that the banks hold are those of its checkpoint again. -/
theorem held_rollbackPair {s : State} (hnd : (s.wgs.map (·.key)).Nodup) {k : Fin 16} {v : Workgroup} (hv : CheckedOn s k v)
    (hown : ∀ x ∈ s.wgs, ∀ h ∈ x.snap.held, h.wg = x.key ∧ h.kind.isOrdw = true) {h : HeldReq} (hwg : h.wg = v.key) (hord : h.kind.isOrdw = true) :
    h ∈ (rollbackPair s k).held ↔ h ∈ v.snap.held := by
  have hthen : ∀ {u : State}, RolledBack s u → ∀ x ∈ s.wgs, heldThen u x.key = x.snap.held := fun hu x hx => by
    rw [heldThen_of_rolledBack hu, heldThen, wgOf_of_mem hnd hx]
    rfl
  have hother : ∀ u : State, ∀ a ∈ checkedWgs s k, a ≠ v.key → RolledBack s u → (h ∈ (rollbackWg u a).held ↔ h ∈ u.held) := fun u a ha hne hu => by
    obtain ⟨x, hx, rfl⟩ := (checkedWgs_iff k).1 ha
    have hnot : h ∉ x.snap.held := fun hh => hne ((hown x hx.1 h hh).1.symm.trans hwg)
    have hkeep : (h.wg == x.key && h.kind.isOrdw) = false := by simp [hwg, Ne.symm hne]
    rw [held_rollbackWg, hthen hu x hx.1, List.mem_append, List.mem_filter]
    simp [hnot, hkeep]
  have hback := foldl_pass (f := rollbackWg) (P := RolledBack s) (Q := fun u => RolledBack s u ∧ (h ∈ u.held ↔ h ∈ v.snap.held)) (nodup_checkedWgs hnd k)
    ((checkedWgs_iff k).2 ⟨v, hv, rfl⟩) (fun u a _ _ hu => hu.trans (rolledBack_rollbackWg u a))
    (fun u hu => ⟨hu.trans (rolledBack_rollbackWg u v.key), by
      rw [held_rollbackWg, hthen hu v hv.1, List.mem_append, List.mem_filter]
      simp [hwg, hord]⟩)
    (fun u a ha hne hu => ⟨hu.1.trans (rolledBack_rollbackWg u a), (hother u a ha hne hu.1).trans hu.2⟩) s (rolledBack_refl s)
  exact hback.2

/-! ### Local memory -/

/-- No task is under way or pending, and each undo log is of its own workgroup's local memory. -/
structure Still (s : State) : Prop where
  engq  : s.engq = []
  kicks : ∀ x ∈ s.wgs, x.kicks = []
  own   : ∀ x ∈ allGroups s, ∀ u ∈ x.undo, u.wg = x.wg
  wf    : LocalWf s

theorem chargeWg_wgs (s : State) (key : Nat) : (chargeWg s key).wgs = s.wgs := by
  rw [chargeWg, chargeTasks, chargeTasksTo_eq, chargeGroups, chargeGroupsTo_eq]
  rfl

theorem chargeWg_engq {s : State} (h : s.engq = []) (key : Nat) : (chargeWg s key).engq = [] := by
  rw [chargeWg, chargeTasks, chargeTasksTo_eq, chargeGroups, chargeGroupsTo_eq]
  change s.engq.map _ = []
  rw [h]
  rfl

theorem modWg_of_same {f : Workgroup → Workgroup} {s : State} {key : Nat} (h : ∀ w ∈ s.wgs, f w = w) : modWg s key f = s := by
  have hmap : (s.wgs.map fun w => if w.key = key then f w else w) = s.wgs := by
    conv_rhs => rw [← List.map_id s.wgs]
    refine List.map_congr_left fun w hw => ?_
    split
    next => exact h w hw
    next => rfl
  rw [modWg, hmap]

theorem discardPendingFrom_of_no_kicks {s : State} (h : ∀ x ∈ s.wgs, x.kicks = []) (key from_ : Nat) : discardPendingFrom s key from_ = s := by
  unfold discardPendingFrom
  rw [modWg_of_same fun w hw => ?_, dropDone, modWg_of_same fun w hw => ?_]
  · rw [h w hw, List.filter_nil, ← h w hw]
  · rw [h w hw, List.map_nil, ← h w hw]

theorem tasksOver_of_still {s : State} (h : Still s) (key : Nat) : tasksOver s key = chargeWg s key := by
  have hengq := chargeWg_engq h.engq key
  have htasks : ∀ from_, completeTasksFrom (chargeWg s key) key from_ = chargeWg s key := fun from_ => by
    rw [completeTasksFrom, hengq]
    rfl
  unfold tasksOver
  dsimp only
  rw [htasks, discardPendingFrom_of_no_kicks]
  rw [chargeWg_wgs]
  exact h.kicks

theorem mem_undoList_under {s : State} {key : Nat} {r : Role} {u : UndoEnt} :
    u ∈ undoList s key r ↔ ∃ x ∈ groupsUnder s key, x.role = r ∧ u ∈ x.undo := by
  rw [mem_undoList]
  simp only [groupsUnder, List.mem_filter, List.mem_map, beq_iff_eq]
  constructor
  · rintro ⟨x, hx, hwg, hr, hu⟩
    exact ⟨uncharged x, ⟨⟨x, hx, rfl⟩, hwg⟩, hr, hu⟩
  · rintro ⟨_, ⟨⟨x, hx, rfl⟩, hwg⟩, hr, hu⟩
    exact ⟨x, hx, hwg, hr, hu⟩

/-- What a workgroup's rollback writes back, on one member and then on the other. -/
theorem undone_of_still {s : State} (h : Still s) (key : Nat) : undone s key =
    writeBack .trail (undoList (undoLogs (chargeWg s key) key .lead) key .trail) (writeBack .lead (undoList (chargeWg s key) key .lead) (chargeWg s key)) := by
  rw [undone, tasksOver_of_still h]
  rfl

/-- The entries that a rollback of a workgroup writes back on a member. -/
theorem mem_undoList_of_kept {s t : State} (h : Kept s t) {key : Nat} {r : Role} {u : UndoEnt} : u ∈ undoList t key r ↔ u ∈ undoList s key r := by
  rw [mem_undoList_under, mem_undoList_under, groupsUnder_of_kept h]

theorem localAt_rollbackWg_eq (s : State) (a key : Nat) (r : Role) (o : Nat) : localAt (rollbackWg s a) r key o = localAt (undone s a) r key o :=
  localAt_modWg (f := barsThen) (fun _ => rfl) (fun _ r => by cases r <;> rfl) _ a r key o

theorem localAt_chargeWg (s : State) (a : Nat) (r : Role) (key o : Nat) : localAt (chargeWg s a) r key o = localAt s r key o := by
  rw [localAt, localAt, wgOf, wgOf, chargeWg_wgs]

theorem wgOf_chargeWg (s : State) (a key : Nat) : wgOf (chargeWg s a) key = wgOf s key := by
  rw [wgOf, wgOf, chargeWg_wgs]

theorem localWf_chargeWg {s : State} (h : LocalWf s) (a : Nat) : LocalWf (chargeWg s a) := by
  intro w hw r
  rw [chargeWg_wgs] at hw
  exact h w hw r

section
variable {s : State} (h : Still s) {key : Nat} (hw : (wgOf s key).isSome = true)
include h hw

/-- A byte takes the value that the entries over it give, or stays as it was. -/
theorem localAt_undone {a : Nat} {r : Role} {o : Nat} {x : Byte} (hes : ∀ u ∈ undoList s a r, u.wg = key → coversByte u o → heldByte u o = x)
    (hx : localAt s r key o = x) : localAt (undone s a) r key o = x := by
  have hlead := kept_undoLogs (chargeWg s a) a .lead
  have hwf := localWf_chargeWg h.wf a
  have hsome : (wgOf (chargeWg s a) key).isSome = true := by rw [wgOf_chargeWg]; exact hw
  obtain ⟨hwf', hsome'⟩ := writeBack_facts .lead (undoList (chargeWg s a) a .lead) hwf
  rw [undone_of_still h]
  refine localAt_writeBack_keeps _ hwf' ((hsome' key).trans hsome) (fun u hu hk hr ho => hes u ?_ hk ho)
    (localAt_writeBack_keeps _ hwf hsome (fun u hu hk hr ho => hes u ?_ hk ho) ?_)
  · subst hr
    exact (mem_undoList_of_kept ((kept_chargeWg s a).trans hlead)).1 hu
  · subst hr
    exact (mem_undoList_of_kept (kept_chargeWg s a)).1 hu
  · rw [localAt_chargeWg, hx]

/-- The oldest entry over a byte gives it its value. -/
theorem localAt_undone_oldest {r : Role} {o : Nat} {u : UndoEnt} (hu : u ∈ undoList s key r) (hkey : u.wg = key) (hover : coversByte u o)
    (hold : ∀ y ∈ undoList s key r, coversByte y o → y ≠ u → u.at_ < y.at_) : localAt (undone s key) r key o = heldByte u o := by
  have hlead := kept_undoLogs (chargeWg s key) key .lead
  have hmem := fun {y} => mem_undoList_of_kept (kept_chargeWg s key) (key := key) (r := .lead) (u := y)
  have hmem' := fun {y} => mem_undoList_of_kept ((kept_chargeWg s key).trans hlead) (key := key) (r := .trail) (u := y)
  have hwf := localWf_chargeWg h.wf key
  have hsome : (wgOf (chargeWg s key) key).isSome = true := by rw [wgOf_chargeWg]; exact hw
  obtain ⟨hwf', hsome'⟩ := writeBack_facts .lead (undoList (chargeWg s key) key .lead) hwf
  rw [undone_of_still h]
  cases r with
  | lead =>
    exact localAt_writeBack_keeps _ hwf' ((hsome' key).trans hsome) (fun _ _ _ hr => nomatch hr)
      (localAt_writeBack_oldest (pairwise_undoList ..) (hmem.2 hu) hkey hover (fun y hy => hold y (hmem.1 hy)) hwf hsome)
  | trail =>
    exact localAt_writeBack_oldest (pairwise_undoList ..) (hmem'.2 hu) hkey hover (fun y hy => hold y (hmem'.1 hy)) hwf' ((hsome' key).trans hsome)

end

theorem writeBack_fields (r : Role) (es : List UndoEnt) (s : State) : (writeBack r es s).engq = s.engq ∧
    ((∀ x ∈ s.wgs, x.kicks = []) → ∀ x ∈ (writeBack r es s).wgs, x.kicks = []) := by
  induction es generalizing s with
  | nil => exact ⟨rfl, id⟩
  | cons e es ih =>
    obtain ⟨h1, h2⟩ := ih (locWrite s e.wg r e.off e.old)
    refine ⟨h1, fun h => h2 fun x hx => ?_⟩
    obtain ⟨w, hw, rfl⟩ := List.mem_map.1 hx
    split
    next =>
      cases r <;> exact h w hw
    next => exact h w hw

theorem undo_restored (g : Group) : (restored g).undo = [] := by
  unfold restored
  split <;> rfl

/-- A rollback of a workgroup leaves the pair as still as it was. -/
theorem still_rollbackWg {s : State} (h : Still s) (a : Nat) : Still (rollbackWg s a) := by
  obtain ⟨hengq, hkicks⟩ := writeBack_fields .lead (undoList (chargeWg s a) a .lead) (chargeWg s a)
  obtain ⟨hengq', hkicks'⟩ := writeBack_fields .trail (undoList (undoLogs (chargeWg s a) a .lead) a .trail)
    (writeBack .lead (undoList (chargeWg s a) a .lead) (chargeWg s a))
  rw [← undone_of_still h] at hengq' hkicks'
  have hwf : LocalWf (undone s a) := by
    rw [undone_of_still h]
    exact (writeBack_facts .trail _ (writeBack_facts .lead _ (localWf_chargeWg h.wf a)).1).1
  have hwgs : ∀ w ∈ (rollbackWg s a).wgs, ∃ w0 ∈ (undone s a).wgs, w.kicks = w0.kicks ∧ ∀ r, w.loc r = w0.loc r := fun w hw => by
    obtain ⟨w0, hw0, rfl⟩ := List.mem_map.1 hw
    refine ⟨w0, hw0, ?_⟩
    split
    next => exact ⟨rfl, fun r => by cases r <;> rfl⟩
    next => exact ⟨rfl, fun _ => rfl⟩
  refine ⟨?_, fun w hw => ?_, fun x hx u hu => ?_, fun w hw r => ?_⟩
  · change (undone s a).engq = []
    rw [hengq', hengq, chargeWg_engq h.engq]
  · obtain ⟨w0, hw0, hk, -⟩ := hwgs w hw
    rw [hk]
    exact hkicks' (hkicks (chargeWg_wgs s a ▸ h.kicks)) w0 hw0
  · have hmem : uncharged x ∈ (allGroups (rollbackWg s a)).map uncharged := List.mem_map_of_mem hx
    rw [groups_rollbackWg] at hmem
    obtain ⟨g, hg, hgx⟩ := List.mem_map.1 hmem
    have hux : (uncharged x).undo = x.undo ∧ (uncharged x).wg = x.wg := ⟨rfl, rfl⟩
    rw [← hux.1, ← hgx] at hu
    rw [← hux.2, ← hgx]
    split at hu
    next => rw [undo_restored] at hu; cases hu
    next hga =>
      rw [if_neg hga]
      exact h.own g hg u hu
  · obtain ⟨w0, hw0, -, hl⟩ := hwgs w hw
    rw [hl]
    exact hwf w0 hw0 r

/-- A byte that another workgroup's rollback leaves. -/
theorem localAt_rollbackWg_ne {s : State} (h : Still s) {a key : Nat} (hne : a ≠ key) (hw : (wgOf s key).isSome = true) (r : Role) (o : Nat) :
    localAt (rollbackWg s a) r key o = localAt s r key o := by
  rw [localAt_rollbackWg_eq]
  refine localAt_undone h hw (fun u hu hkey _ => ?_) rfl
  obtain ⟨x, hx, hwg, -, hux⟩ := mem_undoList.1 hu
  exact absurd ((h.own x hx u hux).symm.trans hkey) (hwg ▸ hne)

theorem isSome_wgOf_rollbackWg (s : State) (a key : Nat) : (wgOf (rollbackWg s a) key).isSome = (wgOf s key).isSome := by
  have := congrArg Option.isSome (wgOf_of_rolledBack (rolledBack_rollbackWg s a) key)
  simpa using this

/-- What stands of a workgroup until its turn to roll back comes. -/
structure Waits (s u : State) (key : Nat) (r : Role) (o : Nat) : Prop where
  still  : Still u
  here   : (wgOf u key).isSome = true
  groups : groupsUnder u key = groupsUnder s key
  byte   : localAt u r key o = localAt s r key o

/-- A byte of a checked workgroup's local memory after its pair rolled back: what its own turn makes of it. -/
theorem localAt_rollbackPair {s : State} (hstill : Still s) (hnd : (s.wgs.map (·.key)).Nodup) {k : Fin 16} {v : Workgroup} (hv : CheckedOn s k v) {r : Role}
    {o : Nat} {x : Byte} (hturn : ∀ u, Waits s u v.key r o → localAt (undone u v.key) r v.key o = x) : localAt (rollbackPair s k) r v.key o = x := by
  have hhere : (wgOf s v.key).isSome = true := by rw [wgOf_of_mem hnd hv.1]; rfl
  have hback := foldl_pass (f := rollbackWg) (P := fun u => Waits s u v.key r o)
    (Q := fun u => Still u ∧ (wgOf u v.key).isSome = true ∧ localAt u r v.key o = x) (nodup_checkedWgs hnd k) ((checkedWgs_iff k).2 ⟨v, hv, rfl⟩)
    (fun u a _ hne hu => ⟨still_rollbackWg hu.still a, (isSome_wgOf_rollbackWg u a v.key).trans hu.here,
      (groupsUnder_rollbackWg_ne u hne).trans hu.groups, (localAt_rollbackWg_ne hu.still hne hu.here r o).trans hu.byte⟩)
    (fun u hu => ⟨still_rollbackWg hu.still v.key, (isSome_wgOf_rollbackWg ..).trans hu.here, (localAt_rollbackWg_eq ..).trans (hturn u hu)⟩)
    (fun u a _ hne hu => ⟨still_rollbackWg hu.1 a, (isSome_wgOf_rollbackWg u a v.key).trans hu.2.1, (localAt_rollbackWg_ne hu.1 hne hu.2.1 r o).trans hu.2.2⟩)
    s ⟨hstill, hhere, rfl, rfl⟩
  exact hback.2.2

/-- An undo entry of a checked workgroup over a byte of its local memory, on one member (R378). -/
def Covers (s : State) (v : Workgroup) (r : Role) (o : Nat) (u : UndoEnt) : Prop :=
  (∃ x ∈ allGroups s, x.wg = v.key ∧ x.role = r ∧ u ∈ x.undo) ∧ u.off ≤ o ∧ o < u.off + u.old.length

theorem Waits.mem_undoList {s u : State} {v : Workgroup} {r : Role} {o : Nat} (hu : Waits s u v.key r o) {e : UndoEnt} :
    (e ∈ undoList u v.key r ∧ coversByte e o) ↔ Covers s v r o e := by
  rw [mem_undoList_under, hu.groups, ← mem_undoList_under, Rollback.mem_undoList]
  rfl

theorem localAt_rollbackPair_oldest {s : State} (hstill : Still s) (hnd : (s.wgs.map (·.key)).Nodup) {k : Fin 16} {v : Workgroup} (hv : CheckedOn s k v)
    {r : Role} {o : Nat} {u : UndoEnt} (hu : Covers s v r o u) (hold : ∀ y, Covers s v r o y → y ≠ u → u.at_ < y.at_) :
    localAt (rollbackPair s k) r v.key o = (u.old[o - u.off]?).getD 0 := by
  obtain ⟨x, hx, hwg, -, hux⟩ := hu.1
  refine localAt_rollbackPair hstill hnd hv fun t ht => ?_
  obtain ⟨hmem, hover⟩ := ht.mem_undoList.2 hu
  exact localAt_undone_oldest ht.still ht.here hmem ((hstill.own x hx u hux).trans hwg) hover
    fun y hy hyo => hold y (ht.mem_undoList.1 ⟨hy, hyo⟩)

theorem localAt_rollbackPair_uncovered {s : State} (hstill : Still s) (hnd : (s.wgs.map (·.key)).Nodup) {k : Fin 16} {v : Workgroup} (hv : CheckedOn s k v)
    {r : Role} {o : Nat} (hno : ∀ u, ¬ Covers s v r o u) : localAt (rollbackPair s k) r v.key o = localAt s r v.key o :=
  localAt_rollbackPair hstill hnd hv fun _ ht =>
    localAt_undone ht.still ht.here (fun e he _ ho => absurd (ht.mem_undoList.1 ⟨he, ho⟩) (hno e)) ht.byte

end Sys2Proof.Laws.Rollback

/-! ## Work that is discarded (R258, R286, R287, R292, R386) -/

namespace Sys2Proof.Laws.Discards
open Sys2Proof Sys2Proof.Machine Sys2Proof.Laws.Bytes Sys2Proof.Laws.Tasks Sys2Proof.Laws.Rollback

/-! ### Queues and records -/

/-- The state without memory, the marks of queues, the rings and what was sent. -/
def logFree (s : State) : State := { memFree s with marks := [], domains := State.reset.domains, out := [] }

/-- A step of a queue or of a ring. -/
structure LogStep (s t : State) : Prop where
  rest     : logFree t = logFree s
  coherent : Coherent s → Coherent t

theorem logStep_refl (s : State) : LogStep s s := ⟨rfl, id⟩

theorem LogStep.trans {s t u : State} (h1 : LogStep s t) (h2 : LogStep t u) : LogStep s u := ⟨h2.rest.trans h1.rest, h2.coherent ∘ h1.coherent⟩

theorem logStep_foldl {α : Type} {f : State → α → State} (hf : ∀ s a, LogStep s (f s a)) (xs : List α) (s : State) : LogStep s (xs.foldl f s) := by
  induction xs generalizing s with
  | nil => exact logStep_refl s
  | cons a xs ih => exact (hf s a).trans (ih _)

theorem logStep_write (s : State) (pa : Nat) (bs : List Byte) : LogStep s { s with mem := Memory.write s.mem pa bs } :=
  ⟨rfl, fun h => coherent_write h pa bs⟩

theorem logStep_marks (s : State) (ms : List (Nat × Nat)) : LogStep s { s with marks := ms } :=
  ⟨rfl, fun h => coherent_of_moved (moved_of_same h rfl rfl rfl)⟩

theorem logStep_qWriteEntry (s : State) (r : StageRef) (st : Stage) (i : Nat) (bs : List Byte) : LogStep s (qWriteEntry s r st i bs) := by
  unfold qWriteEntry
  split
  next => exact logStep_write ..
  next => exact logStep_refl s

theorem logStep_qSetWord (s : State) (r : StageRef) (st : Stage) (off x : Nat) : LogStep s (qSetWord s r st off x) := by
  unfold qSetWord
  split
  next => exact logStep_write ..
  next => exact logStep_refl s

theorem logStep_advanceCommit (r : StageRef) (st : Stage) (fuel : Nat) (s : State) : LogStep s (advanceCommit s r st fuel) := by
  induction fuel generalizing s with
  | zero => exact logStep_refl s
  | succ fuel ih =>
    unfold advanceCommit
    dsimp only
    split
    next => exact ((logStep_marks ..).trans (logStep_qSetWord ..)).trans (ih _)
    next => exact logStep_refl s

theorem logStep_qMark (s : State) (r : StageRef) (st : Stage) (i : Nat) : LogStep s (qMark s r st i) :=
  (logStep_marks ..).trans (logStep_advanceCommit ..)

theorem logStep_putRecord (s : State) (dom : Fin 64) (r : Rec) : LogStep s (putRecord s dom r) where
  rest := by
    obtain ⟨_, _, _, _, _, e⟩ := putRecord_frame s dom r
    rw [e]
    rfl
  coherent h := coherent_putRecord h dom r

theorem logStep_voidReservations (s : State) (w : Workgroup) (report : Bool) : LogStep s (voidReservations s w report) := by
  have hcommit : ∀ (s : State) r st i bs, LogStep s (qMark (qWriteEntry s r st i bs) r st i) := fun s r st i bs =>
    (logStep_qWriteEntry s r st i bs).trans (logStep_qMark ..)
  refine logStep_foldl (fun s x => ?_) _ s
  dsimp only
  split
  next => exact logStep_refl s
  next =>
    split
    next => exact (hcommit ..).trans (logStep_putRecord ..)
    next => exact hcommit ..

/-! ### What outlasts a discard -/

/-- Workgroups by key and stage. -/
def wgIds (s : State) : List (Nat × StageRef) := s.wgs.map fun w => (w.key, w.ref)

/-- What work that goes does not touch: pipelines, place tables, policy and self-tests; a coherent state stays coherent, an empty engine queue empty. -/
structure Lasts (s t : State) : Prop where
  pipes    : t.pipes = s.pipes
  place    : t.place = s.place
  policy   : t.policy = s.policy
  testing  : ∀ j : Fin 16, (t.pairs[j]).testing = (s.pairs[j]).testing
  engq     : s.engq = [] → t.engq = []
  coherent : Coherent s → Coherent t

theorem lasts_refl (s : State) : Lasts s s := ⟨rfl, rfl, rfl, fun _ => rfl, id, id⟩

theorem Lasts.trans {s t u : State} (h1 : Lasts s t) (h2 : Lasts t u) : Lasts s u :=
  ⟨h2.pipes.trans h1.pipes, h2.place.trans h1.place, h2.policy.trans h1.policy, fun j => (h2.testing j).trans (h1.testing j), h2.engq ∘ h1.engq,
    h2.coherent ∘ h1.coherent⟩

theorem testing_of_rest {s t : State} (h : t.pairs.map quietPair = s.pairs.map quietPair) (j : Fin 16) : (t.pairs[j]).testing = (s.pairs[j]).testing := by
  have := congrArg (fun v : Vector Pair 16 => (v[j]).testing) h
  simpa [quietPair] using this

theorem lasts_of_rolledBack {s t : State} (h : RolledBack s t) (hq : s.engq = [] → t.engq = []) : Lasts s t :=
  ⟨(congrArg State.pipes h.rest :), (congrArg State.place h.rest :), (congrArg State.policy h.rest :), testing_of_rest (congrArg State.pairs h.rest :), hq,
    h.coherent⟩

theorem wgIds_eq (s : State) : wgIds s = (s.wgs.map idle).map fun w => (w.key, w.ref) := by
  rw [wgIds, List.map_map]
  rfl

theorem wgIds_of_rolledBack {s t : State} (h : RolledBack s t) : wgIds t = wgIds s := by
  rw [wgIds_eq, wgIds_eq, wgs_of_rolledBack h]

theorem lasts_of_logStep {s t : State} (h : LogStep s t) : Lasts s t := by
  have hpairs : t.pairs = s.pairs := (congrArg State.pairs h.rest :)
  have hengq : t.engq = s.engq := (congrArg State.engq h.rest :)
  exact ⟨(congrArg State.pipes h.rest :), (congrArg State.place h.rest :), (congrArg State.policy h.rest :), fun j => by rw [hpairs], fun hq => hengq.trans hq,
    h.coherent⟩

theorem wgIds_of_wgs {s t : State} (h : t.wgs = s.wgs) : wgIds t = wgIds s := by rw [wgIds, wgIds, h]

/-- Steps that change none of what the memory system, the pairs and the engines hold. -/
theorem lasts_of_same {s t : State} (h1 : t.pipes = s.pipes ∧ t.place = s.place ∧ t.policy = s.policy ∧ t.pairs = s.pairs)
    (h2 : t.hed = s.hed ∧ t.l1 = s.l1 ∧ t.mem = s.mem) (h3 : s.engq = [] → t.engq = []) : Lasts s t :=
  ⟨h1.1, h1.2.1, h1.2.2.1, fun j => by rw [h1.2.2.2], h3, fun hc => coherent_of_moved (moved_of_same hc h2.1 h2.2.1 h2.2.2)⟩

theorem leaveAt_frame (s : State) (w : Workgroup) (kind : HeldKind) (k : Nat) : ∃ hs, leaveAt s w kind k = { s with held := hs } := by
  unfold leaveAt
  split
  next => exact ⟨_, rfl⟩
  next => exact ⟨s.held, rfl⟩

theorem leavePasses_frame (s : State) (w : Workgroup) : ∃ hs, leavePasses s w = { s with held := hs } := by
  have hfold : ∀ (f : State → Nat → State), (∀ t k, ∃ hs, f t k = { t with held := hs }) → ∀ (ks : List Nat) t, ∃ hs, ks.foldl f t = { t with held := hs } := by
    intro f hf ks
    induction ks with
    | nil => exact fun t => ⟨t.held, rfl⟩
    | cons k ks ih =>
      intro t
      obtain ⟨hs, e⟩ := hf t k
      obtain ⟨hs', e'⟩ := ih { t with held := hs }
      exact ⟨hs', by rw [List.foldl_cons, e, e']⟩
  refine hfold _ (fun t k => ?_) _ s
  split
  next => exact ⟨t.held, rfl⟩
  next => exact leaveAt_frame t w .pass k

theorem cohortGone_frame (s : State) (grid pos : Nat) : ∃ gs, cohortGone s grid pos = { s with grids := gs } := by
  unfold cohortGone
  split
  next => exact ⟨s.grids, rfl⟩
  next => exact ⟨_, rfl⟩

theorem dissolvePair_frame (s : State) (k : Fin 16) : ∃ ps, dissolvePair s k = { s with pairs := ps } ∧ ∀ j : Fin 16, (ps[j]).testing = (s.pairs[j]).testing := by
  unfold dissolvePair
  split
  next => exact ⟨s.pairs, rfl, fun _ => rfl⟩
  next =>
    refine ⟨_, rfl, fun j => ?_⟩
    simp only [Fin.getElem_fin, Vector.getElem_set]
    split
    next e =>
      obtain rfl : k = j := Fin.ext e
      rfl
    next => rfl

theorem lasts_leavePasses (s : State) (w : Workgroup) : Lasts s (leavePasses s w) ∧ (leavePasses s w).wgs = s.wgs := by
  obtain ⟨hs, e⟩ := leavePasses_frame s w
  rw [e]
  exact ⟨lasts_of_same ⟨rfl, rfl, rfl, rfl⟩ ⟨rfl, rfl, rfl⟩ id, rfl⟩

theorem lasts_cohortGone (s : State) (grid pos : Nat) : Lasts s (cohortGone s grid pos) ∧ (cohortGone s grid pos).wgs = s.wgs := by
  obtain ⟨gs, e⟩ := cohortGone_frame s grid pos
  rw [e]
  exact ⟨lasts_of_same ⟨rfl, rfl, rfl, rfl⟩ ⟨rfl, rfl, rfl⟩ id, rfl⟩

theorem lasts_dissolvePair (s : State) (k : Fin 16) : Lasts s (dissolvePair s k) ∧ (dissolvePair s k).wgs = s.wgs := by
  obtain ⟨ps, e, h⟩ := dissolvePair_frame s k
  rw [e]
  exact ⟨⟨rfl, rfl, rfl, h, id, fun hc => coherent_of_moved (moved_of_same hc rfl rfl rfl)⟩, rfl⟩

theorem lasts_removeWg (s : State) (key : Nat) : Lasts s (removeWg s key) :=
  lasts_of_same ⟨rfl, rfl, rfl, rfl⟩ ⟨rfl, rfl, rfl⟩ fun h => by
    change s.engq.filter _ = []
    rw [h]
    rfl

/-! ### Discards -/

theorem engq_of_memStep {s t : State} (h : MemStep s t) : t.engq = s.engq := (congrArg State.engq h.rest :)

theorem wgs_of_logStep {s t : State} (h : LogStep s t) : t.wgs = s.wgs := (congrArg State.wgs h.rest :)

theorem completeTasks_of_idle {s : State} (h : s.engq = []) (key : Nat) : completeTasks s key = s := by
  rw [completeTasks, completeTasksFrom, h]
  rfl

/-- The state once a discarded workgroup's groups have ended and its pending records are gone. -/
def endedWg (s : State) (key : Nat) : State :=
  discardPending (mapGroups (chargeWg s key) fun g => if g.wg = key then { g with phase := .ended } else g) key

/-- The state once its tasks are over, its stores performed and its reservations void. -/
def spentWg (s : State) (key : Nat) (w : Workgroup) : State :=
  voidReservations (homeDrain (completeTasks (endedWg s key) key) fun r => r.wg == key) w true

theorem rolledBack_endedWg (s : State) (key : Nat) : RolledBack s (endedWg s key) :=
  ((Kept.rolledBack (kept_chargeWg s key)).trans (rolledBack_mapGroups _ _)).trans (Kept.rolledBack (kept_discardPendingFrom ..))

theorem lasts_spentWg (s : State) (key : Nat) (w : Workgroup) : Lasts s (spentWg s key w) ∧ wgIds (spentWg s key w) = wgIds s := by
  have hended := rolledBack_endedWg s key
  have hengq : s.engq = [] → (endedWg s key).engq = [] := fun h => chargeWg_engq h key
  have htasks := hended.trans (Kept.rolledBack (kept_completeTasksFrom (endedWg s key) key 0))
  have hdrain := memStep_homeDrain (completeTasks (endedWg s key) key) fun r => r.wg == key
  have hstores := htasks.trans (Kept.rolledBack (kept_of_memStep hdrain))
  have hidle : s.engq = [] → (homeDrain (completeTasks (endedWg s key) key) fun r => r.wg == key).engq = [] := fun h => by
    rw [engq_of_memStep hdrain, completeTasks_of_idle (hengq h), hengq h]
  have hvoid := logStep_voidReservations (homeDrain (completeTasks (endedWg s key) key) fun r => r.wg == key) w true
  exact ⟨(lasts_of_rolledBack hstores hidle).trans (lasts_of_logStep hvoid), (wgIds_of_wgs (wgs_of_logStep hvoid)).trans (wgIds_of_rolledBack hstores)⟩

theorem discardWg_eq {s : State} {key : Nat} {w : Workgroup} (h : wgOf s key = some w) : ∃ u, (u = spentWg s key w ∨ ∃ w', u = leavePasses (spentWg s key w) w') ∧
    discardWg s key false = dissolvePair (cohortGone (removeWg u key) w.grid w.pos) (pairIx (clusterOf w.core)) := by
  refine ⟨if w.finished then spentWg s key w else
    leavePasses (spentWg s key w) { w with passed := w.passed.filter fun k => !w.duePass.contains k, duePass := [] }, ?_, ?_⟩
  · split
    next => exact .inl rfl
    next => exact .inr ⟨_, rfl⟩
  · unfold discardWg
    rw [h]
    rfl

/-- A workgroup that is discarded goes, and no other. -/
theorem lasts_discardWg (s : State) (key : Nat) : Lasts s (discardWg s key false) ∧ wgIds (discardWg s key false) = (wgIds s).filter fun x => x.1 != key := by
  cases h : wgOf s key with
  | none =>
    have hnone : discardWg s key false = s := by
      unfold discardWg
      rw [h]
    rw [hnone]
    refine ⟨lasts_refl s, (List.filter_eq_self.2 fun x hx => ?_).symm⟩
    obtain ⟨w, hw, rfl⟩ := List.mem_map.1 hx
    simpa using List.find?_eq_none.1 h w hw
  | some w =>
    obtain ⟨hspent, hids⟩ := lasts_spentWg s key w
    obtain ⟨u, hu, e⟩ := discardWg_eq h
    have hpass : Lasts s u ∧ wgIds u = wgIds s := by
      rcases hu with rfl | ⟨w', rfl⟩
      · exact ⟨hspent, hids⟩
      · obtain ⟨h1, h2⟩ := lasts_leavePasses (spentWg s key w) w'
        exact ⟨hspent.trans h1, (wgIds_of_wgs h2).trans hids⟩
    obtain ⟨hcohort, hwgs⟩ := lasts_cohortGone (removeWg u key) w.grid w.pos
    obtain ⟨hpair, hwgs'⟩ := lasts_dissolvePair (cohortGone (removeWg u key) w.grid w.pos) (pairIx (clusterOf w.core))
    rw [e]
    refine ⟨((hpass.1.trans (lasts_removeWg u key)).trans hcohort).trans hpair, ?_⟩
    rw [wgIds_of_wgs (hwgs'.trans hwgs), ← hpass.2]
    simp only [wgIds, removeWg, List.filter_map]
    rfl

theorem lasts_dropAgain (s : State) (w : Workgroup) : Lasts s (dropAgain s w false) ∧ (dropAgain s w false).wgs = s.wgs := by
  have herase : Lasts s { s with relaunch := s.relaunch.erase w } := lasts_of_same ⟨rfl, rfl, rfl, rfl⟩ ⟨rfl, rfl, rfl⟩ id
  obtain ⟨h1, h2⟩ := lasts_leavePasses { s with relaunch := s.relaunch.erase w } { w with passed := [], duePass := [] }
  obtain ⟨h3, h4⟩ := lasts_cohortGone (leavePasses { s with relaunch := s.relaunch.erase w } { w with passed := [], duePass := [] }) w.grid w.pos
  exact ⟨(herase.trans h1).trans h3, h4.trans h2⟩

theorem lasts_discards (keys : List Nat) (s : State) : Lasts s (keys.foldl (fun s k => discardWg s k false) s) ∧
    wgIds (keys.foldl (fun s k => discardWg s k false) s) = (wgIds s).filter fun x => !keys.contains x.1 := by
  induction keys generalizing s with
  | nil => exact ⟨lasts_refl s, (List.filter_eq_self.2 fun _ _ => rfl).symm⟩
  | cons key keys ih =>
    obtain ⟨h1, h2⟩ := lasts_discardWg s key
    obtain ⟨h3, h4⟩ := ih (discardWg s key false)
    refine ⟨h1.trans h3, ?_⟩
    rw [List.foldl_cons, h4, h2, List.filter_filter]
    refine List.filter_congr fun x _ => ?_
    rw [List.contains_cons, Bool.not_or, Bool.and_comm]
    rfl

theorem lasts_drops (ws : List Workgroup) (s : State) : Lasts s (ws.foldl (fun s w => dropAgain s w false) s) ∧
    (ws.foldl (fun s w => dropAgain s w false) s).wgs = s.wgs := by
  induction ws generalizing s with
  | nil => exact ⟨lasts_refl s, rfl⟩
  | cons w ws ih =>
    obtain ⟨h1, h2⟩ := lasts_dropAgain s w
    obtain ⟨h3, h4⟩ := ih (dropAgain s w false)
    exact ⟨h1.trans h3, h4.trans h2⟩

/-- The keys of a domain's workgroups. -/
def domainKeys (s : State) (dom : Fin 64) : List Nat := (s.wgs.filter fun w => stageDomain s w.ref == dom).map (·.key)

/-- A fatal fault discards its domain's work (R386). -/
theorem lasts_fatalDiscard (s : State) (dom : Fin 64) : Lasts s (fatalDiscard s dom) ∧
    wgIds (fatalDiscard s dom) = (wgIds s).filter fun x => !(domainKeys s dom).contains x.1 := by
  obtain ⟨h1, h2⟩ := lasts_discards (domainKeys s dom) s
  exact ⟨h1.trans (lasts_drops _ _).1, (wgIds_of_wgs (lasts_drops _ _).2).trans h2⟩

theorem stageDomain_of_mem_wgIds {s : State} {dom : Fin 64} {key : Nat} {r : StageRef} (h : (key, r) ∈ wgIds (fatalDiscard s dom)) : stageDomain s r ≠ dom := by
  rw [(lasts_fatalDiscard s dom).2, List.mem_filter] at h
  obtain ⟨hmem, hkey⟩ := h
  obtain ⟨w, hw, e⟩ := List.mem_map.1 hmem
  rw [Prod.mk.injEq] at e
  obtain ⟨rfl, rfl⟩ := e
  intro hd
  have : w.key ∈ domainKeys s dom := List.mem_map_of_mem (List.mem_filter.2 ⟨hw, by simp [hd]⟩)
  simp [this] at hkey

theorem mem_wgIds_fatalDiscard {s : State} (hnd : (s.wgs.map (·.key)).Nodup) {dom : Fin 64} {u : Workgroup} (hu : u ∈ s.wgs) (hd : stageDomain s u.ref ≠ dom) :
    (u.key, u.ref) ∈ wgIds (fatalDiscard s dom) := by
  rw [(lasts_fatalDiscard s dom).2, List.mem_filter]
  refine ⟨List.mem_map_of_mem hu, ?_⟩
  have hnot : u.key ∉ domainKeys s dom := fun hk => by
    obtain ⟨w, hw, e⟩ := List.mem_map.1 hk
    obtain ⟨hw, hwd⟩ := List.mem_filter.1 hw
    obtain rfl := List.inj_on_of_nodup_map hnd hw hu e
    exact hd (by simpa using hwd)
  simp [hnot]

end Sys2Proof.Laws.Discards

/-! ### Cores that go out of use (R198, R230) -/

namespace Sys2Proof.Laws.Bytes
open Sys2Proof Sys2Proof.Machine

theorem moved_foldl_flushLine (core : Nat) (ls : List Nat) {s : State} (h : Coherent s) : Moved s (ls.foldl (fun s l => flushLine s core l) s) :=
  moved_foldl (fun _ l h => moved_flushLine h core l) ls h

theorem moved_flushCore {s : State} (h : Coherent s) (core : Nat) : Moved s (flushCore s core) := moved_foldl_flushLine core _ h

theorem onlyWords_flushCore (s : State) (core : Nat) : OnlyWords s (flushCore s core) := onlyWords_foldl (fun s l => onlyWords_flushLine s core l) _ s

theorem heddle_foldl_flushLine (core : Nat) (ls : List Nat) {s : State} (hc : Coherent s) {line : Nat} {i : Fin 32}
    (h : line ∈ ls ∨ heddleWord s line i ≠ .O core) : heddleWord (ls.foldl (fun s l => flushLine s core l) s) line i ≠ .O core := by
  induction ls generalizing s with
  | nil => exact h.resolve_left List.not_mem_nil
  | cons l ls ih =>
    rw [List.foldl_cons]
    refine ih (coherent_of_moved (moved_flushLine hc core l)) ?_
    rcases h with h | h
    · rcases List.mem_cons.1 h with rfl | h
      · exact .inr (heddle_flushLine hc core line i)
      · exact .inl h
    · exact .inr (heddle_flushLine_ne s l core line i h)

/-- A line of which the L1 of a core holds an owned word is among its lines. -/
theorem line_mem_of_own {s : State} {core line : Nat} {i : Fin 32} {v : Word} (h : l1WordOf s core line i = .own v) :
    line ∈ (s.l1.filter (·.core == core)).map (·.line) := by
  unfold l1WordOf l1Get at h
  cases hf : s.l1.find? fun l => l.core == core && l.line == line with
  | none => simp [hf, L1Line.clear] at h
  | some l =>
    have hl := List.find?_some hf
    simp only [Bool.and_eq_true, beq_iff_eq] at hl
    exact List.mem_map.2 ⟨l, List.mem_filter.2 ⟨List.mem_of_find?_eq_some hf, by simp [hl.1]⟩, hl.2⟩

/-- After a flush a core owns no word. -/
theorem heddle_flushCore {s : State} (h : Coherent s) (core line : Nat) (i : Fin 32) : heddleWord (flushCore s core) line i ≠ .O core := by
  refine heddle_foldl_flushLine core _ h ?_
  by_cases ho : heddleWord s line i = .O core
  · obtain ⟨v, hv⟩ := h.owned line i core ho
    exact .inl (line_mem_of_own hv)
  · exact .inr ho

/-- Only memory, the heddle, the L1s and the translation caches differ, and each word has the same latest value. -/
structure CoresLeft (s t : State) : Prop where
  frame : ∃ m h l tl, t = { s with mem := m, hed := h, l1 := l, tlb := tl }
  moved : Coherent s → Moved s t

theorem coresLeft_refl (s : State) : CoresLeft s s := ⟨⟨_, _, _, _, rfl⟩, moved_refl⟩

theorem CoresLeft.trans {s t u : State} (h1 : CoresLeft s t) (h2 : CoresLeft t u) : CoresLeft s u := by
  obtain ⟨⟨_, _, _, _, rfl⟩, hm1⟩ := h1
  obtain ⟨⟨_, _, _, _, rfl⟩, hm2⟩ := h2
  exact ⟨⟨_, _, _, _, rfl⟩, fun hc => (hm1 hc).trans (hm2 (coherent_of_moved (hm1 hc)))⟩

theorem CoresLeft.homeQ {s t : State} (h : CoresLeft s t) : t.homeQ = s.homeQ := by
  obtain ⟨⟨_, _, _, _, rfl⟩, -⟩ := h
  rfl

theorem homeDrain_of_empty {s : State} (h : s.homeQ = []) (p : HomeReq → Bool) : homeDrain s p = s := by
  unfold homeDrain
  simp only [h, List.filter_nil, List.foldl_nil]
  rw [← h]

theorem coresLeft_loseState {s : State} (h : s.homeQ = []) (c : Fin 32) (i : Fin 6) : CoresLeft s (loseState s ⟨c, .core i⟩) := by
  unfold loseState
  dsimp only
  rw [homeDrain_of_empty h]
  constructor
  · obtain ⟨m, hd, l, e⟩ := onlyWords_flushCore s (8 * c.val + i.val)
    rw [e]
    exact ⟨_, _, _, _, rfl⟩
  · intro hc
    have hflush := moved_flushCore hc (8 * c.val + i.val)
    have hfilter := moved_filterL1 (coherent_of_moved hflush) (keep := fun l => l.core != 8 * c.val + i.val) fun line j x ho l hl _ => by
      have hne : x ≠ 8 * c.val + i.val := fun e => heddle_flushCore hc _ line j (e ▸ ho)
      simp [hl, hne]
    have hboth := hflush.trans hfilter
    exact hboth.trans (moved_of_same (coherent_of_moved hboth) rfl rfl rfl)

theorem coresLeft_leaveCores {s : State} (h : s.homeQ = []) (c : Fin 32) : CoresLeft s (leaveCores s c) := by
  unfold leaveCores
  generalize List.finRange 6 = cores
  induction cores generalizing s with
  | nil => exact coresLeft_refl s
  | cons i cores ih =>
    have hi := coresLeft_loseState h c i
    exact hi.trans (ih (hi.homeQ.trans h))

/-! ### The device root's domain (R18, R350) -/

theorem devRead_main_of_moved {s t : State} (h : Moved s t) {a : Nat} (ha : inScreed a = false) (n : Nat) : devRead t a n = devRead s a n := by
  rw [devRead, devRead, if_neg (by simp [ha]), if_neg (by simp [ha])]
  exact cohRead_congr fun k _ => byteAt_moved h (a + k)

/-- The root's RCB lies in main memory, and reads as before while words only move. -/
theorem rootDomain_of_moved {s t : State} (h : Moved s t) (hdev : t.dev = s.dev) : rootDomain t = rootDomain s := by
  have hroot : rootRcb t = rootRcb s := by
    unfold rootRcb
    rw [hdev]
    dsimp only
    by_cases hat : rcbAt s.dev.devroot.toNat = true
    · have hscreed : inScreed s.dev.devroot.toNat = false := Budgets.not_inScreed_rcb hat (k := 0) (by omega)
      rw [readRcb, readRcb, devRead_main_of_moved h hscreed]
    · simp only [hat, Bool.and_false, Bool.false_and, Bool.false_eq_true, if_false]
  rw [rootDomain, rootDomain, hroot]

end Sys2Proof.Laws.Bytes

/-! ## Checked pairs (R376, R379 to R385) -/

namespace Sys2Proof.Laws.CheckedPairs
open Sys2Proof Sys2Proof.Machine Sys2Proof.Laws.Bytes Sys2Proof.Laws.Tasks Sys2Proof.Laws.Budgets Sys2Proof.Laws.Rollback Sys2Proof.Laws.Discards

/-! ### Decisions of the SSP (R381, R382) -/

theorem permanent_iff {s : State} {w : Workgroup} {m : Mismatch} : permanent s w m = true ↔
    (∃ x ∈ w.mism.take (w.mism.length - 1), x = ⟨m.kind, m.npc, m.lane⟩) ∨ s.policy.retry < m.count ∨ (w.ckpt = 0 ∧ w.visible = true) := by
  simp [permanent, or_assoc]

theorem execSspDecision_idle {k : Fin 16} {s : State} (h : (s.pairs[k]).stopped = false ∨ (s.pairs[k]).mis = none ∨ ∃ m, (s.pairs[k]).mis = some m ∧ m.action ≠ 0) :
    execSspDecision k s = .next s := by
  unfold execSspDecision
  congr 1
  split
  next => rfl
  next m hm =>
    refine if_pos ?_
    rcases h with h | h | ⟨m', h, ha⟩
    · rw [h, Bool.not_false, Bool.or_true]
    · cases hm.symm.trans h
    · rw [hm, Option.some.injEq] at h
      subst h
      simp [ha]

theorem execSspDecision_decides {k : Fin 16} {s : State} {m : Mismatch} {w : Workgroup} (h1 : (s.pairs[k]).stopped = true) (h2 : (s.pairs[k]).mis = some m)
    (h3 : m.action = 0) (h4 : wgOf s m.wg = some w) :
    execSspDecision k s = .next (if permanent s w m then decidePermanent s k w m else decideRollback s k w m) := by
  unfold execSspDecision
  simp only [h2, h3, h1, h4, bne_self_eq_false, Bool.not_true, Bool.or_self, Bool.false_eq_true, if_false]

theorem pairs_setPair (s : State) (k : Fin 16) (f : Pair → Pair) : ((setPair s k f).pairs[k]) = f s.pairs[k] := by
  simp [setPair]

theorem stageDomain_of_pipes {s t : State} (h : t.pipes = s.pipes) (r : StageRef) : stageDomain t r = stageDomain s r := by
  simp only [stageDomain, stageOf, pipeOf, h]

/-- Only place tables and pairs differ. -/
structure Beside (s t : State) : Prop where
  wgs     : t.wgs = s.wgs
  domains : t.domains = s.domains
  out     : t.out = s.out
  hed     : t.hed = s.hed
  l1      : t.l1 = s.l1
  mem     : t.mem = s.mem

theorem Beside.trans {s t u : State} (h1 : Beside s t) (h2 : Beside t u) : Beside s u :=
  ⟨h2.wgs.trans h1.wgs, h2.domains.trans h1.domains, h2.out.trans h1.out, h2.hed.trans h1.hed, h2.l1.trans h1.l1, h2.mem.trans h1.mem⟩

theorem beside_setPair (s : State) (k : Fin 16) (f : Pair → Pair) : Beside s (setPair s k f) := ⟨rfl, rfl, rfl, rfl, rfl, rfl⟩

theorem beside_suspend (s : State) (c : Fin 32) : Beside s (suspend s c) := ⟨rfl, rfl, rfl, rfl, rfl, rfl⟩

theorem Beside.reported {s t u : State} (h : Beside t u) {dom : Fin 64} {cause : BitVec 8} {type : Nat} (hr : Reported s t dom cause type) :
    Reported s u dom cause type :=
  hr.congr ⟨rfl, rfl⟩ (devRead_of_same h.hed h.l1 h.mem) ⟨h.domains, h.out⟩

/-- A decision's record, and what it leaves. -/
theorem mismatchRecord_frame (s : State) (w : Workgroup) (m : Mismatch) (type extra : Nat) : ∃ mem h l d o,
    mismatchRecord s w m type extra = { s with mem := mem, hed := h, l1 := l, domains := d, out := o } := putRecord_frame ..

theorem reported_mismatchRecord {s : State} (h : Coherent s) (w : Workgroup) (m : Mismatch) (type extra : Nat) :
    Reported s (mismatchRecord s w m type extra) (stageDomain s w.ref) 0x70 type := reported_putRecord h _ _

/-- A workgroup with one more rollback (R355, index 49). -/
def rolledOnce (w : Workgroup) : Workgroup := { w with rolls := w.rolls + 1 }

/-- The state that the record of a rollback reports. -/
def rolledState (s : State) (k : Fin 16) (w : Workgroup) : State := modWg (rollbackPair s k) w.key rolledOnce

theorem decideRollback_eq (s : State) (k : Fin 16) (w : Workgroup) (m : Mismatch) : decideRollback s k w m =
    setPair (mismatchRecord (rolledState s k w) w m 7 0) k fun p => { p with mis := some { m with action := 1 }, rolled := true } := rfl

theorem decideRollback_frame (s : State) (k : Fin 16) (w : Workgroup) (m : Mismatch) : ∃ mem h l d o ps,
    decideRollback s k w m = { rolledState s k w with mem := mem, hed := h, l1 := l, domains := d, out := o, pairs := ps } := by
  obtain ⟨mem, h, l, d, o, e⟩ := mismatchRecord_frame (rolledState s k w) w m 7 0
  rw [decideRollback_eq, e]
  exact ⟨_, _, _, _, _, _, rfl⟩

theorem reported_decideRollback {s : State} (h : Coherent s) (k : Fin 16) (w : Workgroup) (m : Mismatch) :
    Reported s (decideRollback s k w m) (stageDomain s w.ref) 0x70 7 := by
  have hback := rolledBack_rollbackPair s k
  have hc : Coherent (rolledState s k w) := coherent_of_moved (moved_of_same (hback.coherent h) rfl rfl rfl)
  have hpipes : (rolledState s k w).pipes = s.pipes := (congrArg State.pipes hback.rest :)
  have hdom : s.domains = (rolledState s k w).domains := (congrArg State.domains hback.rest.symm :)
  have hout : s.out = (rolledState s k w).out := (congrArg State.out hback.rest.symm :)
  have hrep := reported_mismatchRecord hc w m 7 0
  rw [stageDomain_of_pipes hpipes] at hrep
  rw [decideRollback_eq]
  exact (beside_setPair _ k _).reported (hrep.congr ⟨hdom, hout⟩ (fun _ _ => rfl) ⟨rfl, rfl⟩)

theorem pairs_decideRollback (s : State) (k : Fin 16) (w : Workgroup) (m : Mismatch) : ((decideRollback s k w m).pairs[k]) =
    { ((rollbackPair s k).pairs[k]) with mis := some { m with action := 1 }, rolled := true } := by
  obtain ⟨mem, h, l, d, o, e⟩ := mismatchRecord_frame (rolledState s k w) w m 7 0
  rw [decideRollback_eq, pairs_setPair, e]
  rfl

theorem rolls_decideRollback {s : State} {k : Fin 16} {w : Workgroup} {m : Mismatch} (hw : wgOf s m.wg = some w) :
    (wgOf (decideRollback s k w m) w.key).map (·.rolls) = some (w.rolls + 1) := by
  obtain ⟨mem, h, l, d, o, ps, e⟩ := decideRollback_frame s k w m
  have hrolls := wgField_of_rolledBack (rolledBack_rollbackPair s k) w.key (f := fun w => w.rolls + 1)
  rw [wgOf_key hw, hw] at hrolls
  rw [e]
  change (wgOf (rolledState s k w) w.key).map (·.rolls) = _
  rw [rolledState, wgOf_modWg_self (f := rolledOnce) (fun _ => rfl), Option.map_map, wgOf_key hw]
  exact hrolls

theorem allGroups_decideRollback (s : State) (k : Fin 16) (w : Workgroup) (m : Mismatch) : allGroups (decideRollback s k w m) = allGroups (rollbackPair s k) := by
  obtain ⟨mem, h, l, d, o, ps, e⟩ := decideRollback_frame s k w m
  rw [e]
  rfl

theorem groupAt_of_mem {s : State} (hnd : ((allGroups s).map fun g => (g.wg, g.gid, g.role)).Nodup) {g : Group} (hg : g ∈ allGroups s) :
    groupAt s g.wg g.gid g.role = some g := by
  have key : ∀ {gs : List Group}, (gs.map fun g => (g.wg, g.gid, g.role)).Nodup → g ∈ gs → gs.find? (fun x => x.is g.wg g.gid g.role) = some g := by
    intro gs hnd hg
    induction gs with
    | nil => cases hg
    | cons a gs ih =>
      rw [List.map_cons, List.nodup_cons] at hnd
      obtain ⟨ha, hnd⟩ := hnd
      rcases List.mem_cons.1 hg with rfl | hg
      · simp [Group.is]
      · have hne : a.is g.wg g.gid g.role = false := by
          by_contra hc
          simp only [Group.is, Bool.not_eq_false, Bool.and_eq_true, beq_iff_eq] at hc
          obtain ⟨⟨h1, h2⟩, h3⟩ := hc
          exact ha (List.mem_map.2 ⟨g, hg, by rw [h1, h2, h3]⟩)
        rw [List.find?_cons, hne]
        exact ih hnd hg
  exact key hnd hg

/-- A group as its checkpoint left it, found again after its pair rolled back. -/
theorem groupAt_rollbackPair {s : State} (hnd : (s.wgs.map (·.key)).Nodup) (hgs : ((allGroups s).map fun g => (g.wg, g.gid, g.role)).Nodup) {k : Fin 16}
    {v : Workgroup} (hv : CheckedOn s k v) {g : Group} (hg : g ∈ allGroups s) (hwg : g.wg = v.key) :
    (groupAt (rollbackPair s k) g.wg g.gid g.role).map uncharged = some (restored (uncharged g)) := by
  have his : ∀ x : Group, (restored x).is g.wg g.gid g.role = x.is g.wg g.gid g.role := fun x => by
    unfold restored
    split <;> rfl
  have hunder := groupAt_uncharged s g.wg g.gid g.role
  rw [groupAt_of_mem hgs hg] at hunder
  rw [groupAt_uncharged, hwg, groupsUnder_rollbackPair hnd hv, List.find?_map, ← hwg]
  simp only [Function.comp_def, his]
  rw [← hunder]
  rfl

/-- What a checkpoint gives back to a group. -/
theorem restored_group {t : State} {g : Group} {n : Snap} (hn : g.snap = some n)
    (h : (groupAt t g.wg g.gid g.role).map uncharged = some (restored (uncharged g))) : ∃ h, groupAt t g.wg g.gid g.role = some h ∧ h.c = n.ctx ∧
      h.arr = n.arr ∧ h.phase = n.phase ∧ h.cbuf = [] ∧ h.undo = [] ∧ h.cmp = [] ∧ h.fwd = [] := by
  obtain ⟨x, hx, e⟩ := Option.map_eq_some_iff.1 h
  have hrest : restored (uncharged g) = { uncharged g with c := n.ctx, arr := n.arr, phase := n.phase, migK := n.migK, cbuf := [], undo := [], cmp := [], fwd := [] } := by
    obtain ⟨⟩ := g
    dsimp only at hn
    subst hn
    rfl
  rw [hrest] at e
  exact ⟨x, hx, (congrArg Group.c e :), (congrArg Group.arr e :), (congrArg Group.phase e :), (congrArg Group.cbuf e :), (congrArg Group.undo e :),
    (congrArg Group.cmp e :), (congrArg Group.fwd e :)⟩

/-! ### A permanent mismatch (R383, R386) -/

/-- The same main memory and screed, and the engines as idle as before. -/
structure SameWords (s t : State) : Prop where
  hed  : t.hed = s.hed
  l1   : t.l1 = s.l1
  mem  : t.mem = s.mem
  engq : t.engq = s.engq

theorem SameWords.trans {s t u : State} (h1 : SameWords s t) (h2 : SameWords t u) : SameWords s u :=
  ⟨h2.hed.trans h1.hed, h2.l1.trans h1.l1, h2.mem.trans h1.mem, h2.engq.trans h1.engq⟩

theorem sameWords_writeBack (r : Role) (es : List UndoEnt) (s : State) : SameWords s (writeBack r es s) := by
  induction es generalizing s with
  | nil => exact ⟨rfl, rfl, rfl, rfl⟩
  | cons e es ih => exact (⟨rfl, rfl, rfl, rfl⟩ : SameWords s (locWrite s e.wg r e.off e.old)).trans (ih _)

/-- A rollback with no task under way writes local memory alone. -/
theorem sameWords_rollbackWg {s : State} (h : s.engq = []) (key : Nat) : SameWords s (rollbackWg s key) := by
  have hcharge : SameWords s (chargeWg s key) := by
    have hq : (chargeWg s key).engq = s.engq := (chargeWg_engq h key).trans h.symm
    refine ⟨?_, ?_, ?_, hq⟩ <;>
    · rw [chargeWg, chargeTasks, chargeTasksTo_eq, chargeGroups, chargeGroupsTo_eq]
      rfl
  have htasks : ∀ since, completeTasksFrom (chargeWg s key) key since = chargeWg s key := fun since => by
    rw [completeTasksFrom, chargeWg_engq h]
    rfl
  have hover : SameWords s (tasksOver s key) := by
    unfold tasksOver
    dsimp only
    rw [htasks]
    exact hcharge.trans ⟨rfl, rfl, rfl, rfl⟩
  have hundone : SameWords s (undone s key) := (hover.trans (sameWords_writeBack ..)).trans (sameWords_writeBack ..)
  rw [rollbackWg_eq]
  exact hundone.trans ⟨rfl, rfl, rfl, rfl⟩

theorem sameWords_rollbackPair {s : State} (h : s.engq = []) (k : Fin 16) : SameWords s (rollbackPair s k) := by
  unfold rollbackPair
  generalize checkedWgs s k = keys
  induction keys generalizing s with
  | nil => exact ⟨rfl, rfl, rfl, rfl⟩
  | cons key keys ih =>
    have hkey := sameWords_rollbackWg h key
    exact hkey.trans (ih (hkey.engq.trans h))

theorem lasts_rollbackPair_place (s : State) (k : Fin 16) : (rollbackPair s k).place = s.place ∧ wgIds (rollbackPair s k) = wgIds s ∧
    ∀ j : Fin 16, ((rollbackPair s k).pairs[j]).testing = (s.pairs[j]).testing := by
  have h := rolledBack_rollbackPair s k
  exact ⟨(congrArg State.place h.rest :), wgIds_of_rolledBack h, testing_of_rest (congrArg State.pairs h.rest :)⟩

theorem logStep_mismatchRecord (s : State) (w : Workgroup) (m : Mismatch) (type extra : Nat) : LogStep s (mismatchRecord s w m type extra) :=
  logStep_putRecord ..

/-- A record stands while the pair rolls back, with no task under way. -/
theorem reported_rollbackPair {u v : State} {dom : Fin 64} {cause : BitVec 8} {type : Nat} (h : Reported u v dom cause type) (hq : v.engq = []) (k : Fin 16) :
    Reported u (rollbackPair v k) dom cause type := by
  have hback := rolledBack_rollbackPair v k
  have hwords := sameWords_rollbackPair hq k
  exact h.congr ⟨rfl, rfl⟩ (devRead_of_same hwords.hed hwords.l1 hwords.mem) ⟨(congrArg State.domains hback.rest :), (congrArg State.out hback.rest :)⟩

/-- The two clusters of a pair (R21). -/
def leadOf (k : Fin 16) : Fin 32 := ⟨2 * k.val, by omega⟩
def trailOf (k : Fin 16) : Fin 32 := ⟨2 * k.val + 1, by omega⟩

/-- The state once a permanent mismatch is recorded and the pair's other work rolled back. -/
def failedState (s : State) (k : Fin 16) (w : Workgroup) (m : Mismatch) : State :=
  rollbackPair (mismatchRecord (fatalDiscard s (stageDomain s w.ref)) w m 6 0) k

/-- A pair whose clusters go to their self-test. -/
def testingPair (m : Mismatch) (now rec_ : Nat) (p : Pair) : Pair :=
  { p with mis := some { m with action := 2 }, rolled := true, testing := true, testAt := now, recPa := rec_ }

theorem decidePermanent_spare {s : State} (h : s.policy.spare = true) (k : Fin 16) (w : Workgroup) (m : Mismatch) : decidePermanent s k w m =
    setPair (suspend (suspend (failedState s k w m) (leadOf k)) (trailOf k)) k
      (testingPair m s.now (nextRecord (fatalDiscard s (stageDomain s w.ref)) (stageDomain s w.ref))) :=
  if_pos h

theorem decidePermanent_no_spare {s : State} (h : s.policy.spare = false) (k : Fin 16) (w : Workgroup) (m : Mismatch) : decidePermanent s k w m =
    setPair (failedState s k w m) k fun p => { p with mis := some { m with action := 2 }, rolled := true } :=
  if_neg (by simp [h])

section
variable (s : State) (k : Fin 16) (w : Workgroup) (m : Mismatch)

theorem failedState_facts : (failedState s k w m).place = s.place ∧ wgIds (failedState s k w m) = wgIds (fatalDiscard s (stageDomain s w.ref)) ∧
    ((failedState s k w m).pairs[k]).testing = (s.pairs[k]).testing := by
  have hlost := (lasts_fatalDiscard s (stageDomain s w.ref)).1
  have hrec := logStep_mismatchRecord (fatalDiscard s (stageDomain s w.ref)) w m 6 0
  obtain ⟨hplace, hids, htest⟩ := lasts_rollbackPair_place (mismatchRecord (fatalDiscard s (stageDomain s w.ref)) w m 6 0) k
  have hall := hlost.trans (lasts_of_logStep hrec)
  exact ⟨hplace.trans hall.place, hids.trans (wgIds_of_wgs (wgs_of_logStep hrec)), (htest k).trans (hall.testing k)⟩

/-- With no task under way the record of a permanent mismatch stands in its ring. -/
theorem reported_failedState {s : State} (hc : Coherent s) (hq : s.engq = []) :
    Reported (fatalDiscard s (stageDomain s w.ref)) (failedState s k w m) (stageDomain s w.ref) 0x70 6 := by
  have hlost := (lasts_fatalDiscard s (stageDomain s w.ref)).1
  have hrec := logStep_mismatchRecord (fatalDiscard s (stageDomain s w.ref)) w m 6 0
  have hrep := reported_mismatchRecord (hlost.coherent hc) w m 6 0
  rw [stageDomain_of_pipes hlost.pipes] at hrep
  exact reported_rollbackPair hrep ((lasts_of_logStep hrec).engq (hlost.engq hq)) k

/-- Beside the place tables and the pairs the decision leaves what the record and the rollbacks left. -/
theorem beside_decidePermanent : Beside (failedState s k w m) (decidePermanent s k w m) := by
  cases h : s.policy.spare with
  | true =>
    rw [decidePermanent_spare h]
    exact ((beside_suspend _ _).trans (beside_suspend _ _)).trans (beside_setPair ..)
  | false =>
    rw [decidePermanent_no_spare h]
    exact beside_setPair ..

theorem reported_decidePermanent {s : State} (hc : Coherent s) (hq : s.engq = []) :
    Reported (fatalDiscard s (stageDomain s w.ref)) (decidePermanent s k w m) (stageDomain s w.ref) 0x70 6 :=
  (beside_decidePermanent s k w m).reported (reported_failedState k w m hc hq)

theorem wgIds_decidePermanent : wgIds (decidePermanent s k w m) = wgIds (fatalDiscard s (stageDomain s w.ref)) :=
  (wgIds_of_wgs (beside_decidePermanent s k w m).wgs).trans (failedState_facts s k w m).2.1

theorem getLsbD_two_pow (c : Fin 32) (x : Nat) : (BitVec.ofNat 32 (2 ^ c.val)).getLsbD x = decide (x = c.val) := by
  rw [BitVec.getLsbD_ofNat, Nat.testBit_two_pow]
  by_cases h : x = c.val
  · simp [h]
  · simp [h, Ne.symm h]

theorem susp_decidePermanent (x : Nat) : (decidePermanent s k w m).place.susp.getLsbD x = true ↔
    s.place.susp.getLsbD x = true ∨ (s.policy.spare = true ∧ (x = (leadOf k).val ∨ x = (trailOf k).val)) := by
  have hplace := (failedState_facts s k w m).1
  cases h : s.policy.spare with
  | true =>
    rw [decidePermanent_spare h]
    change ((failedState s k w m).place.susp ||| BitVec.ofNat 32 (2 ^ (leadOf k).val) ||| BitVec.ofNat 32 (2 ^ (trailOf k).val)).getLsbD x = true ↔ _
    rw [hplace]
    simp only [BitVec.getLsbD_or, getLsbD_two_pow, Bool.or_eq_true, decide_eq_true_eq, true_and, or_assoc]
  | false =>
    rw [decidePermanent_no_spare h]
    change (failedState s k w m).place.susp.getLsbD x = true ↔ _
    rw [hplace]
    simp

theorem testing_decidePermanent : ((decidePermanent s k w m).pairs[k]).testing = true ↔ s.policy.spare = true ∨ (s.pairs[k]).testing = true := by
  cases h : s.policy.spare with
  | true =>
    rw [decidePermanent_spare h, pairs_setPair]
    simp [testingPair]
  | false =>
    rw [decidePermanent_no_spare h, pairs_setPair, ← (failedState_facts s k w m).2.2]
    simp

theorem recPa_decidePermanent (h : s.policy.spare = true) : ((decidePermanent s k w m).pairs[k]).recPa =
    nextRecord (fatalDiscard s (stageDomain s w.ref)) (stageDomain s w.ref) := by
  rw [decidePermanent_spare h, pairs_setPair]
  rfl

end

/-! ### Missing events (R376, R380) -/

theorem focus_frame (s : State) (wg : Nat) (gid : Fin 16) (r : Role) : ∃ g os, focus s wg gid r = { s with grp := g, others := os } := by
  unfold focus
  split
  next => exact ⟨s.grp, s.others, rfl⟩
  next =>
    split
    next => exact ⟨s.grp, s.others, rfl⟩
    next => exact ⟨_, _, rfl⟩

theorem backTo_frame (s : State) (x : Group) : ∃ g os, backTo s x = { s with grp := g, others := os } := by
  unfold backTo
  split
  next => exact ⟨_, _, rfl⟩
  next => exact focus_frame ..

theorem grp_focus {s : State} {wg : Nat} {gid : Fin 16} {r : Role} {g : Group} (h : groupAt s wg gid r = some g) : (focus s wg gid r).grp = g := by
  unfold groupAt allGroups at h
  rw [List.find?_cons] at h
  unfold focus
  by_cases hg : s.grp.is wg gid r = true
  · rw [if_pos hg]
    rw [hg] at h
    exact Option.some.inj h
  · rw [if_neg hg]
    rw [Bool.not_eq_true] at hg
    rw [hg] at h
    simp only [h]

theorem group_wg_of_groupAt {s : State} {wg : Nat} {gid : Fin 16} {r : Role} {g : Group} (h : groupAt s wg gid r = some g) : g.wg = wg ∧ g.gid = gid := by
  have := List.find?_some h
  simp only [Group.is, Bool.and_eq_true, beq_iff_eq] at this
  exact ⟨this.1.1, this.1.2⟩

/-- A mismatch at a group that another holds the issue stage from, and back. -/
theorem asGroup_mismatch {s : State} {key : Nat} {gid : Fin 16} {g : Group} {w : Workgroup} (hg : groupAt s key gid .lead = some g)
    (hw : wgOf s key = some w) (npc twin : Word) : ∃ u g' os g'' os', u = { s with grp := g', others := os } ∧
      asGroup s key gid .lead (fun s => mismatch s 6 0 0 npc twin 0 0) = { mismatchOf u w g 6 0 0 npc twin 0 0 with grp := g'', others := os' } := by
  obtain ⟨g', os, e⟩ := focus_frame s key gid .lead
  have hgrp : (focus s key gid .lead).grp = g := grp_focus hg
  have hcur : curWg (focus s key gid .lead) = some w := by
    rw [curWg, hgrp, (group_wg_of_groupAt hg).1, e]
    exact hw
  have hfind : (allGroups s).find? (fun x => x.is key gid .lead) = some g := hg
  have hany : ((allGroups s).any fun x => x.is key gid .lead) = true := 
    List.any_eq_true.2 ⟨g, List.mem_of_find?_eq_some hfind, (List.find?_some hfind :)⟩
  obtain ⟨g'', os', e'⟩ := backTo_frame (mismatchOf (focus s key gid .lead) w g 6 0 0 npc twin 0 0) s.grp
  refine ⟨focus s key gid .lead, g', os, g'', os', e, ?_⟩
  rw [asGroup, if_pos hany, ← e']
  simp only [mismatch, hcur, hgrp]

theorem pairIx_of_checkedOn {s : State} {k : Fin 16} {w : Workgroup} (h : CheckedOn s k w) : pairIx (clusterOf w.core) = k := by
  obtain ⟨-, -, hk⟩ := h
  exact Fin.ext hk

theorem execCompareTimeout_idle {s : State} {k : Fin 16} {key : Nat} {gid : Fin 16} {w : Workgroup} {g : Group} (hw : wgOf s key = some w)
    (hg : groupAt s key gid .lead = some g) (hk : CheckedOn s k w) (h : g.cmp = [] ∨ (s.pairs[k]).stopped = true) :
    execCompareTimeout key gid s = .next s := by
  obtain rfl := pairIx_of_checkedOn hk
  unfold execCompareTimeout
  simp only [hw, hg]
  congr 1
  split
  next =>
    rcases h with h | h
    · simp_all
    · rw [h, Bool.or_true, if_pos rfl]
  next => rfl

theorem execCompareTimeout_stops {s : State} {k : Fin 16} {key : Nat} {gid : Fin 16} {w : Workgroup} {g : Group} {e : CmpEvent} {es : List CmpEvent}
    (hw : wgOf s key = some w) (hg : groupAt s key gid .lead = some g) (hk : CheckedOn s k w) (hc : g.cmp = e :: es) (h : (s.pairs[k]).stopped = false) :
    execCompareTimeout key gid s = .next (asGroup s key gid .lead fun s => mismatch s 6 0 0 e.npc e.twin 0 0) := by
  have hil : ilOf s w = 2 := hk.2.1
  obtain rfl := pairIx_of_checkedOn hk
  unfold execCompareTimeout
  simp only [hw, hg, hc]
  rw [h, hil]
  rfl

/-- A workgroup with one more mismatch in its list (R381). -/
def noted (x : MisKey) (w : Workgroup) : Workgroup := { w with mism := w.mism ++ [x] }

/-- The mismatch that a missing event gives (R376, R380). -/
theorem mismatchOf_missing (u : State) (w : Workgroup) {g : Group} {k : Fin 16} (hk : pairIx (clusterOf g.core) = k) (npc twin : Word) :
    ∃ m, m.wg = w.key ∧ m.gid = g.gid ∧ m.kind = 6 ∧ m.npc = npc ∧ m.twin = twin ∧ m.lane = 0 ∧ m.action = 0 ∧ m.count = w.mism.length + 1 ∧
      m.ckpt = w.ckpt ∧ mismatchOf u w g 6 0 0 npc twin 0 0 = modWg
        { u with pairs := u.pairs.set k { u.pairs[k] with stopped := true, mis := some m, rolled := false } } w.key
        (noted ⟨6, npc, 0⟩) := by
  subst hk
  exact ⟨_, rfl, rfl, rfl, rfl, rfl, rfl, rfl, rfl, rfl, rfl⟩

/-! ### Release (R382) -/

theorem execPairRelease_idle {s : State} {k : Fin 16} (h : (s.pairs[k]).stopped = false ∨ (s.pairs[k]).rolled = false) : execPairRelease k s = .next s := by
  unfold execPairRelease
  refine congrArg Host.Outcome.next (if_neg ?_)
  rcases h with h | h
  · rw [h, Bool.false_and]
    exact Bool.false_ne_true
  · rw [h, Bool.and_false]
    exact Bool.false_ne_true

/-- Checked work is left on the pair. -/
def checkedWork (s : State) (k : Fin 16) : Bool := s.wgs.any fun w => ilOf s w == 2 && !w.finished && pairIx (clusterOf w.core) == k

theorem checkedWork_iff {s : State} {k : Fin 16} : checkedWork s k = true ↔ ∃ w, CheckedOn s k w ∧ w.finished = false := by
  have hpair : ∀ v : Workgroup, pairIx (clusterOf v.core) = k ↔ v.core / 8 / 2 % 16 = k.val := fun v => by
    rw [Fin.ext_iff]
    rfl
  simp only [checkedWork, List.any_eq_true, Bool.and_eq_true, beq_iff_eq, Bool.not_eq_true', hpair, CheckedOn]
  exact ⟨fun ⟨w, h1, ⟨h2, h3⟩, h4⟩ => ⟨w, ⟨h1, h2, h4⟩, h3⟩, fun ⟨w, ⟨h1, h2, h4⟩, h3⟩ => ⟨w, h1, ⟨h2, h3⟩, h4⟩⟩

/-- A pair that is released (R382): it stays formed while checked work is left on it (R21). -/
def releasedPair (s : State) (k : Fin 16) : Pair :=
  { s.pairs[k] with stopped := false, mis := none, rolled := false, formed := checkedWork s k && (s.pairs[k]).formed }

theorem execPairRelease_releases {s : State} {k : Fin 16} (h1 : (s.pairs[k]).stopped = true) (h2 : (s.pairs[k]).rolled = true) :
    execPairRelease k s = .next { s with pairs := s.pairs.set k (releasedPair s k) } := by
  unfold execPairRelease
  rw [h1, h2, Bool.and_self, if_pos rfl]
  congr 1
  unfold dissolvePair releasedPair
  change (if checkedWork s k = true then _ else _) = _
  cases h : checkedWork s k with
  | true => rfl
  | false =>
    rw [if_neg (by simp)]
    simp [setPair]

/-! ### Self-test (R383 to R385) -/

theorem cluster_val (x : Nat) (c : Fin 32) : Fin.ofNat 32 (x / 8) = c ↔ x / 8 % 32 = c.val := by
  rw [Fin.ext_iff]
  rfl

theorem taskEngines_iff {s : State} {t : EngTask} {c : Fin 32} : ((taskEngines s t).all fun e => engCluster e != c) = true ↔ ¬ runsOn s t c := by
  have hnext : engCluster (nextEngine t.eng) = engCluster t.eng + 1 := by cases t.eng <;> rfl
  unfold taskEngines runsOn enginesOn
  split
  next => simp [hnext]
  next => simp

/-- Nothing runs on a cluster (R309, R383). -/
def QuietOn (s : State) (x : Fin 32) : Prop :=
  (∀ g ∈ allGroups s, g.core / 8 % 32 ≠ x.val ∨ g.wg = 0 ∨ g.halted = true ∨ g.phase = .ended) ∧ ∀ t ∈ s.engq, ¬ runsOn s t x

theorem clusterQuiet_iff {s : State} {c : Fin 32} : clusterQuiet s c = true ↔ QuietOn s c := by
  have hclus : ∀ g : Group, clus g.core = c ↔ g.core / 8 % 32 = c.val := fun g => cluster_val g.core c
  unfold clusterQuiet QuietOn
  rw [Bool.and_eq_true, List.all_eq_true, List.all_eq_true]
  refine and_congr (forall₂_congr fun g _ => ?_) (forall₂_congr fun t _ => taskEngines_iff)
  simp [hclus, Group.ended, or_assoc]

/-- The self-test of a pair is over (R383). -/
def TestDue (s : State) (k : Fin 16) : Prop :=
  (s.pairs[k]).testing = true ∧ (s.pairs[k]).testAt + 3000000 ≤ s.now ∧ QuietOn s (leadOf k) ∧ QuietOn s (trailOf k)

/-- No workgroup has a member on either cluster of a pair. -/
def EmptyPair (s : State) (k : Fin 16) : Prop := ∀ w ∈ s.wgs, inCluster s w (leadOf k) = false ∧ inCluster s w (trailOf k) = false

/-- The state once the test is noted as over. -/
def testedState (s : State) (k : Fin 16) : State := setPair s k fun p => { p with testing := false, recPa := 0 }

theorem testDue_iff {s : State} {k : Fin 16} : ((s.pairs[k]).testing && decide ((s.pairs[k]).testAt + 3000000 ≤ s.now) && clusterQuiet s (leadOf k) &&
    clusterQuiet s (trailOf k)) = true ↔ TestDue s k := by
  simp only [Bool.and_eq_true, decide_eq_true_eq, clusterQuiet_iff, TestDue, and_assoc]

theorem execSelfTestComplete_idle {s : State} {k : Fin 16} (h : ¬ TestDue s k) (a b : Bool) : execSelfTestComplete k a b s = .next s := by
  unfold execSelfTestComplete
  exact congrArg Host.Outcome.next (if_neg fun hd => h (testDue_iff.1 hd))

theorem execSelfTestComplete_due {s : State} {k : Fin 16} (h : TestDue s k) (a : Bool) : execSelfTestComplete k a false s = .next
    (if a then unsuspend (retireCluster (testedState s k) (leadOf k)) (trailOf k)
      else bothPassed (unsuspend (unsuspend (testedState s k) (leadOf k)) (trailOf k)) (s.pairs[k]).recPa) := by
  unfold execSelfTestComplete
  refine congrArg Host.Outcome.next ((if_pos (testDue_iff.2 h)).trans ?_)
  cases a with
  | true => simp only [if_true, Bool.false_eq_true, if_false, Bool.or_false, testedState, leadOf, trailOf]
  | false => simp only [Bool.false_eq_true, if_false, Bool.or_false, testedState, leadOf, trailOf]

theorem resumeWgs_none {s : State} {p : Workgroup → Bool} (h : ∀ w ∈ s.wgs, p w = false) : resumeWgs s p = s := by
  unfold resumeWgs
  rw [List.filter_eq_nil_iff.2 fun w hw => by simp [h w hw]]
  rfl

/-- A place table in which a cluster is no longer suspended. -/
def unsuspended (p : Place) (c : Fin 32) : Place :=
  { p with susp := p.susp &&& ~~~BitVec.ofNat 32 (2 ^ c.val), suspd := p.suspd &&& ~~~BitVec.ofNat 32 (2 ^ c.val) }

/-- With no work on a cluster its suspension ends without any resuming. -/
theorem unsuspend_empty {s : State} {c : Fin 32} (h : ∀ w ∈ s.wgs, inCluster s w c = false) : unsuspend s c = { s with place := unsuspended s.place c } :=
  resumeWgs_none h

theorem getLsbD_unsuspended (p : Place) (c : Fin 32) (x : Nat) (hx : x < 32) : (unsuspended p c).susp.getLsbD x = (p.susp.getLsbD x && !decide (x = c.val)) := by
  simp only [unsuspended, BitVec.getLsbD_and, BitVec.getLsbD_not, getLsbD_two_pow, hx, decide_true, Bool.true_and]

theorem inCluster_of_pipes {s t : State} (h : t.pipes = s.pipes) (w : Workgroup) (c : Fin 32) : inCluster t w c = inCluster s w c := by
  simp only [inCluster, ilOf, stageOf, pipeOf, h]

/-- The clusters of a pair of which both passed. -/
def passedState (s : State) (k : Fin 16) : State :=
  { testedState s k with place := unsuspended (unsuspended s.place (leadOf k)) (trailOf k) }

theorem unsuspend_pair {s : State} {k : Fin 16} (h : EmptyPair s k) : unsuspend (unsuspend (testedState s k) (leadOf k)) (trailOf k) = passedState s k := by
  have hlead : ∀ w ∈ (testedState s k).wgs, inCluster (testedState s k) w (leadOf k) = false := fun w hw => (h w hw).1
  rw [unsuspend_empty hlead, unsuspend_empty]
  · rfl
  · exact fun w hw => (h w hw).2

theorem pairs_passedState (s : State) (k : Fin 16) : ((passedState s k).pairs[k]).testing = false := by
  simp [passedState, testedState, setPair]

theorem bothPassed_frame (s : State) (pa : Nat) : OnlyWords s (bothPassed s pa) := by
  unfold bothPassed
  split
  next => exact onlyWords_refl s
  next => exact onlyWords_devWrite ..

theorem leBytes_leNat (bs : List Byte) : leBytes bs.length (leNat bs) = bs := by
  induction bs with
  | nil => rfl
  | cons b bs ih =>
    have hb := b.isLt
    have hlow : BitVec.ofNat 8 (b.toNat + 256 * leNat bs) = b := by
      apply BitVec.eq_of_toNat_eq
      rw [BitVec.toNat_ofNat]
      omega
    have hhigh : (b.toNat + 256 * leNat bs) / 256 = leNat bs := by omega
    rw [List.length_cons, leBytes, leNat, hlow, hhigh, ih]

/-- Bit 31 of INNER is set in the record of type 6 (R383). -/
theorem devRead_bothPassed {s : State} (h : Coherent s) {pa : Nat} (hpa : pa ≠ 0) : ∃ inner,
    devRead (bothPassed s pa) (pa + 4) 4 = leBytes 4 (inner % 2 ^ 31 + 2 ^ 31) ∧ devRead s (pa + 4) 4 = leBytes 4 inner := by
  refine ⟨leNat (devRead s (pa + 4) 4), ?_, ?_⟩
  · rw [bothPassed, if_neg hpa, devRead_devWrite h _ _ _ 4 (by rw [length_leBytes]), List.take_of_length_le (by rw [length_leBytes])]
  · have := leBytes_leNat (devRead s (pa + 4) 4)
    rw [length_devRead] at this
    exact this.symm

theorem susp_passedState (s : State) (k : Fin 16) (x : Fin 32) :
    (passedState s k).place.susp.getLsbD x.val = (s.place.susp.getLsbD x.val && x != leadOf k && x != trailOf k) := by
  have hne : ∀ c : Fin 32, (!decide (x.val = c.val)) = (x != c) := fun c => by
    by_cases hx : x = c
    · simp [hx]
    · have : ¬ x.val = c.val := fun e => hx (Fin.ext e)
      simp [hx, this]
  rw [passedState, getLsbD_unsuspended _ _ _ x.isLt, getLsbD_unsuspended _ _ _ x.isLt, hne, hne]

/-! ### Retirement of a cluster (R384 to R386) -/

/-- A physical cluster that a spare may be (R384). -/
def FreeCluster (s : State) (x : Nat) : Prop := s.place.phfault.getLsbD x = false ∧ ∀ i : Fin 32, (s.place.cl[i]).toNat ≠ x

theorem spareCluster_lowest {s : State} {x : Nat} (hx : x < 34) (hfree : FreeCluster s x) (hlow : ∀ y < x, ¬ FreeCluster s y) : spareCluster s = some x := by
  have hp : ∀ y, (!s.place.phfault.getLsbD y && s.place.cl.toList.all fun z => z.toNat != y) = true ↔ FreeCluster s y := fun y => by
    simp only [FreeCluster, Bool.and_eq_true, Bool.not_eq_true', List.all_eq_true, bne_iff_ne, ne_eq]
    refine and_congr_right fun _ => ⟨fun h i => h _ (Vector.mem_toList_iff.2 (Vector.getElem_mem i.isLt)), fun h z hz => ?_⟩
    obtain ⟨i, hi, rfl⟩ := Vector.mem_iff_getElem.1 (Vector.mem_toList_iff.1 hz)
    exact h ⟨i, hi⟩
  unfold spareCluster
  rw [List.find?_range_eq_some]
  exact ⟨by simpa using (hp x).2 hfree, List.mem_range.2 hx, fun y hy => by
    have := mt (hp y).1 (hlow y hy)
    simpa only [Bool.not_eq_true', Bool.not_eq_true] using this⟩

theorem abortOn_empty {s : State} {c : Fin 32} (h : ∀ w ∈ s.wgs, inCluster s w c = false) : abortOn s c = s := by
  unfold abortOn
  rw [List.filter_eq_nil_iff.2 fun w hw => by simp [h w hw]]
  rfl

/-- A place table in which a spare has taken a cluster's place. -/
def sparePlace (p : Place) (c : Fin 32) (x : Nat) : Place :=
  { p with phfault := p.phfault ||| BitVec.ofNat 34 (2 ^ (p.cl[c]).toNat), cl := p.cl.set c (BitVec.ofNat 6 x) }

theorem coresLeft_facts {s t : State} (h : CoresLeft s t) : t.wgs = s.wgs ∧ t.pipes = s.pipes ∧ t.place = s.place ∧ t.policy = s.policy ∧
    t.pairs = s.pairs ∧ t.domains = s.domains ∧ t.out = s.out ∧ t.dev = s.dev := by
  obtain ⟨⟨_, _, _, _, rfl⟩, -⟩ := h
  exact ⟨rfl, rfl, rfl, rfl, rfl, rfl, rfl, rfl⟩

/-- A physical cluster that its spare has replaced: the spare's units are awake, and the logical cluster runs again. -/
def sparedState (v : State) (c : Fin 32) (x : Nat) : State :=
  { v with place := unsuspended (sparePlace v.place c x) c, policy := { v.policy with spares := v.policy.spares - 1 },
           units := v.units.set c ((v.units[c]).map fun _ => ⟨.G0, v.now, false⟩) }

/-- The record of a cluster that was retired (R384). -/
def retiredRec (lost : Bool) (c : Fin 32) : Rec := { type := 11, cause := 0, inner := if lost then 1 else 0, clus := c.val }

theorem inCluster_leaveCores {s : State} (hq : s.homeQ = []) {c d : Fin 32} (h : ∀ w ∈ s.wgs, inCluster s w d = false) :
    ∀ w ∈ (leaveCores s c).wgs, inCluster (leaveCores s c) w d = false := by
  obtain ⟨hwgs, hpipes, -⟩ := coresLeft_facts (coresLeft_leaveCores hq c)
  intro w hw
  rw [inCluster_of_pipes hpipes]
  exact h w (hwgs ▸ hw)

theorem retireCluster_spare {s : State} {c : Fin 32} {x : Nat} (hq : s.homeQ = []) (h : ∀ w ∈ s.wgs, inCluster s w c = false)
    (hs : (leaveCores s c).policy.spares ≠ 0) (hx : spareCluster (leaveCores s c) = some x) :
    retireCluster s c = putRecord (sparedState (leaveCores s c) c x) (rootDomain (sparedState (leaveCores s c) c x)) (retiredRec false c) := by
  have hempty := inCluster_leaveCores hq (c := c) h
  unfold retireCluster
  rw [abortOn_empty h]
  generalize leaveCores s c = v at *
  dsimp only
  rw [if_neg hs, hx]
  dsimp only
  have hspared : unsuspend
      { v with place := sparePlace v.place c x, policy := { v.policy with spares := v.policy.spares - 1 },
               units := v.units.set c ((v.units[c]).map fun _ => ⟨.G0, v.now, false⟩) } c = sparedState v c x := unsuspend_empty hempty
  rw [← hspared]
  rfl

theorem retireCluster_lost {s : State} {c : Fin 32} (hq : s.homeQ = []) (h : ∀ w ∈ s.wgs, inCluster s w c = false)
    (hs : (leaveCores s c).policy.spares = 0) : retireCluster s c =
      putRecord (leaveCores (leaveCores s c) c) (rootDomain (leaveCores (leaveCores s c) c)) (retiredRec true c) := by
  have hempty := inCluster_leaveCores hq (c := c) h
  unfold retireCluster
  rw [abortOn_empty h]
  generalize leaveCores s c = v at *
  dsimp only
  rw [if_pos hs]
  dsimp only
  unfold loseCluster
  rw [List.filter_eq_nil_iff.2 fun w hw => by simp [hempty w hw]]
  rfl

/-- A record on the device root's domain, while words only moved (R350). -/
theorem reported_root {s u : State} (hm : Moved s u) (hdev : u.dev = s.dev) (hdom : u.domains = s.domains) (hout : u.out = s.out) (r : Rec) :
    Reported s (putRecord u (rootDomain u) r) (rootDomain s) (BitVec.ofNat 8 r.cause) r.type := by
  rw [rootDomain_of_moved hm hdev]
  exact (reported_putRecord (coherent_of_moved hm) (rootDomain s) r).congr ⟨hdom.symm, hout.symm⟩ (fun _ _ => rfl) ⟨rfl, rfl⟩

theorem beside_place (s : State) (p : Place) : Beside s { s with place := p } := ⟨rfl, rfl, rfl, rfl, rfl, rfl⟩

/-- The end of a suspension after a record, with no work on the cluster. -/
theorem unsuspend_putRecord {u : State} {c : Fin 32} (h : ∀ w ∈ u.wgs, inCluster u w c = false) (dom : Fin 64) (r : Rec) :
    unsuspend (putRecord u dom r) c = { putRecord u dom r with place := unsuspended u.place c } := by
  obtain ⟨m, hd, l, d, o, e⟩ := putRecord_frame u dom r
  rw [e]
  exact unsuspend_empty h

/-- What the record of a retired cluster leaves once the pair's other cluster runs again. -/
theorem retired_end {s u : State} (hm : Moved s u) (hdev : u.dev = s.dev) (hdom : u.domains = s.domains) (hout : u.out = s.out) {c : Fin 32}
    (h : ∀ w ∈ u.wgs, inCluster u w c = false) (lost : Bool) (d : Fin 32) : ∃ t, unsuspend (putRecord u (rootDomain u) (retiredRec lost d)) c = t ∧
      t.pairs = u.pairs ∧ t.place = unsuspended u.place c ∧ t.policy = u.policy ∧ Reported s t (rootDomain s) 0 11 := by
  refine ⟨_, unsuspend_putRecord h _ _, ?_, rfl, ?_, ?_⟩
  · obtain ⟨m, hd, l, d, o, e⟩ := putRecord_frame u (rootDomain u) (retiredRec lost d)
    rw [e]
  · obtain ⟨m, hd, l, d, o, e⟩ := putRecord_frame u (rootDomain u) (retiredRec lost d)
    rw [e]
  · exact (beside_place _ _).reported (reported_root hm hdev hdom hout (retiredRec lost d))

theorem pairs_testedState (s : State) (k : Fin 16) : ((testedState s k).pairs[k]).testing = false := by
  rw [testedState, pairs_setPair]

theorem getLsbD_fault {a : BitVec 34} {n : Nat} (h : n < 34) : (a ||| BitVec.ofNat 34 (2 ^ n)).getLsbD n = true := by
  rw [BitVec.getLsbD_or, BitVec.getLsbD_ofNat, Nat.testBit_two_pow_self]
  simp [h]

theorem leadOf_ne_trailOf (k : Fin 16) : (leadOf k).val ≠ (trailOf k).val := by
  simp only [leadOf, trailOf]
  omega

/-- What a pair's state keeps while cores go out of use after its test. -/
structure Left (s : State) (k : Fin 16) (v : State) : Prop where
  moved   : Moved s v
  dev     : v.dev = s.dev
  domains : v.domains = s.domains
  out     : v.out = s.out
  place   : v.place = s.place
  policy  : v.policy = s.policy
  testing : (v.pairs[k]).testing = false
  trail   : ∀ w ∈ v.wgs, inCluster v w (trailOf k) = false

theorem left_of_coresLeft {s v : State} {k : Fin 16} (h : CoresLeft (testedState s k) v) (hc : Coherent s) (hempty : EmptyPair s k) : Left s k v := by
  have htested : Moved s (testedState s k) := moved_of_same hc rfl rfl rfl
  obtain ⟨hwgs, hpipes, hplace, hpolicy, hpairs, hdomains, hout, hdev⟩ := coresLeft_facts h
  refine ⟨htested.trans (h.moved (coherent_of_moved htested)), hdev, hdomains, hout, hplace, hpolicy, ?_, fun w hw => ?_⟩
  · rw [hpairs]
    exact pairs_testedState s k
  · rw [inCluster_of_pipes hpipes]
    exact (hempty w (hwgs ▸ hw)).2

theorem moved_sparedState {s v : State} (h : Moved s v) (c : Fin 32) (x : Nat) : Moved s (sparedState v c x) :=
  h.trans (moved_of_same (coherent_of_moved h) rfl rfl rfl)

theorem execSelfTestComplete_spare {s : State} {k : Fin 16} {x : Nat} (hc : Coherent s) (hdue : TestDue s k) (hempty : EmptyPair s k) (hq : s.homeQ = [])
    (hs : 0 < s.policy.spares) (hx : x < 34) (hfree : FreeCluster s x) (hlow : ∀ y < x, ¬ FreeCluster s y) (hold : (s.place.cl[leadOf k]).toNat < 34) :
    ∃ t, execSelfTestComplete k true false s = .next t ∧ (t.pairs[k]).testing = false ∧ (t.place.cl[leadOf k]).toNat = x ∧
      t.place.phfault.getLsbD (s.place.cl[leadOf k]).toNat = true ∧ t.policy = { s.policy with spares := s.policy.spares - 1 } ∧
      t.place.susp.getLsbD (leadOf k).val = false ∧ Reported s t (rootDomain s) 0 11 := by
  have hlead : ∀ w ∈ (testedState s k).wgs, inCluster (testedState s k) w (leadOf k) = false := fun w hw => (hempty w hw).1
  have hretire := retireCluster_spare (s := testedState s k) (x := x) hq hlead
  have hleft := left_of_coresLeft (coresLeft_leaveCores (s := testedState s k) hq (leadOf k)) hc hempty
  rw [execSelfTestComplete_due hdue, if_pos rfl]
  generalize leaveCores (testedState s k) (leadOf k) = v at hretire hleft
  have hfound := spareCluster_lowest (s := v) hx (by rw [FreeCluster, hleft.place]; exact hfree) fun y hy => by
    rw [FreeCluster, hleft.place]
    exact hlow y hy
  have hspares : v.policy.spares ≠ 0 := by
    rw [hleft.policy]
    exact Nat.ne_of_gt hs
  obtain ⟨t, ht, hp, hpl, hpo, hr⟩ := retired_end (moved_sparedState hleft.moved (leadOf k) x) hleft.dev hleft.domains hleft.out
    (u := sparedState v (leadOf k) x) (c := trailOf k) hleft.trail false (leadOf k)
  rw [hretire hspares hfound, ht]
  refine ⟨t, rfl, ?_, ?_, ?_, ?_, ?_, hr⟩
  · rw [hp]
    exact hleft.testing
  · rw [hpl]
    change ((v.place.cl.set (leadOf k) (BitVec.ofNat 6 x))[leadOf k]).toNat = x
    rw [Fin.getElem_fin, Vector.getElem_set_self, BitVec.toNat_ofNat]
    omega
  · rw [hpl, ← hleft.place]
    exact getLsbD_fault (hleft.place ▸ hold)
  · rw [hpo, ← hleft.policy]
    rfl
  · rw [hpl, getLsbD_unsuspended _ _ _ (leadOf k).isLt, sparedState, getLsbD_unsuspended _ _ _ (leadOf k).isLt]
    simp

theorem execSelfTestComplete_lost {s : State} {k : Fin 16} (hc : Coherent s) (hdue : TestDue s k) (hempty : EmptyPair s k) (hq : s.homeQ = [])
    (hs : s.policy.spares = 0) : ∃ t, execSelfTestComplete k true false s = .next t ∧ (t.pairs[k]).testing = false ∧ t.place.cl = s.place.cl ∧
      t.place.susp.getLsbD (leadOf k).val = s.place.susp.getLsbD (leadOf k).val ∧ Reported s t (rootDomain s) 0 11 := by
  have hlead : ∀ w ∈ (testedState s k).wgs, inCluster (testedState s k) w (leadOf k) = false := fun w hw => (hempty w hw).1
  have hretire := retireCluster_lost (s := testedState s k) hq hlead
  have honce := coresLeft_leaveCores (s := testedState s k) hq (leadOf k)
  rw [execSelfTestComplete_due hdue, if_pos rfl]
  generalize leaveCores (testedState s k) (leadOf k) = v1 at hretire honce
  have hspares : v1.policy.spares = 0 := by
    rw [(left_of_coresLeft honce hc hempty).policy]
    exact hs
  have htwice := left_of_coresLeft (honce.trans (coresLeft_leaveCores (honce.homeQ.trans hq) (leadOf k))) hc hempty
  rw [hretire hspares]
  generalize leaveCores v1 (leadOf k) = v at htwice
  obtain ⟨t, ht, hp, hpl, -, hr⟩ := retired_end htwice.moved htwice.dev htwice.domains htwice.out (c := trailOf k) htwice.trail true (leadOf k)
  rw [ht]
  refine ⟨t, rfl, ?_, ?_, ?_, hr⟩
  · rw [hp]
    exact htwice.testing
  · rw [hpl, ← htwice.place]
    rfl
  · rw [hpl, getLsbD_unsuspended _ _ _ (leadOf k).isLt, htwice.place]
    simp [leadOf_ne_trailOf]

theorem clusterOf_congr {a b : Nat} (h : a / 8 = b / 8) : clusterOf a = clusterOf b := by
  rw [clusterOf, clusterOf, h]

/-- A missing event stops its pair alone (R376, R380). -/
theorem execCompareTimeout_missing {s : State} {k : Fin 16} {key : Nat} {gid : Fin 16} {w : Workgroup} {g : Group} {e : CmpEvent} {es : List CmpEvent}
    (hw : wgOf s key = some w) (hg : groupAt s key gid .lead = some g) (hcore : g.core / 8 = w.core / 8) (hk : CheckedOn s k w) (hc : g.cmp = e :: es)
    (h : (s.pairs[k]).stopped = false) : ∃ t m, execCompareTimeout key gid s = .next t ∧ (t.pairs[k]).stopped = true ∧
      (t.pairs[k]).mis = some m ∧ m.wg = key ∧ m.gid = gid ∧ m.kind = 6 ∧ m.npc = e.npc ∧ m.twin = e.twin ∧ m.lane = 0 ∧ m.action = 0 ∧
      m.count = w.mism.length + 1 ∧ m.ckpt = w.ckpt ∧ (∀ j, j ≠ k → t.pairs[j] = s.pairs[j]) ∧ t.mem = s.mem ∧
      (wgOf t key).map (·.mism) = some (w.mism ++ [⟨6, e.npc, 0⟩]) := by
  have hpair : pairIx (clusterOf g.core) = k := by
    rw [clusterOf_congr hcore]
    exact pairIx_of_checkedOn hk
  obtain ⟨u, g', os, g'', os', rfl, hrun⟩ := asGroup_mismatch hg hw e.npc e.twin
  obtain ⟨m, h1, h2, h3, h4, h5, h6, h7, h8, h9, hmis⟩ := mismatchOf_missing { s with grp := g', others := os } w hpair e.npc e.twin
  rw [execCompareTimeout_stops hw hg hk hc h, hrun, hmis]
  refine ⟨_, m, rfl, ?_, ?_, h1.trans (wgOf_key hw), h2.trans (group_wg_of_groupAt hg).2, h3, h4, h5, h6, h7, h8, h9, fun j hj => ?_, rfl, ?_⟩
  · change ((s.pairs.set k _)[k]).stopped = true
    simp
  · change ((s.pairs.set k _)[k]).mis = some m
    simp
  · change (s.pairs.set k _)[j] = s.pairs[j]
    exact Vector.getElem_set_ne _ _ fun e => hj (Fin.ext e.symm)
  · rw [wgOf_key hw]
    change (wgOf (modWg s key (noted ⟨6, e.npc, 0⟩)) key).map (·.mism) = _
    rw [wgOf_modWg_self (f := noted ⟨6, e.npc, 0⟩) fun _ => rfl, hw]
    rfl

theorem localAt_decideRollback (s : State) (k : Fin 16) (w : Workgroup) (m : Mismatch) (r : Role) (key o : Nat) :
    localAt (decideRollback s k w m) r key o = localAt (rollbackPair s k) r key o := by
  obtain ⟨mem, h, l, d, o', ps, e⟩ := decideRollback_frame s k w m
  rw [e]
  exact localAt_modWg (f := rolledOnce) (fun _ => rfl) (fun _ r => by cases r <;> rfl) _ _ r key o

theorem held_decideRollback (s : State) (k : Fin 16) (w : Workgroup) (m : Mismatch) : (decideRollback s k w m).held = (rollbackPair s k).held := by
  obtain ⟨mem, h, l, d, o', ps, e⟩ := decideRollback_frame s k w m
  rw [e]
  rfl

theorem stopped_decideRollback {s : State} {k : Fin 16} (h : (s.pairs[k]).stopped = true) (w : Workgroup) (m : Mismatch) :
    ((decideRollback s k w m).pairs[k]).stopped = true := by
  rw [pairs_decideRollback]
  exact (rolledBack_rollbackPair s k).stopped k h

section
variable {s : State} {k : Fin 16} {v : Workgroup} (w : Workgroup) (m : Mismatch)

/-- A checked group goes back to its checkpoint, and its logs are empty (R381). -/
theorem group_decideRollback (hnd : (s.wgs.map (·.key)).Nodup) (hgs : ((allGroups s).map fun g => (g.wg, g.gid, g.role)).Nodup) (hv : CheckedOn s k v)
    {g : Group} (hg : g ∈ allGroups s) (hwg : g.wg = v.key) {n : Snap} (hn : g.snap = some n) :
    ∃ h, groupAt (decideRollback s k w m) g.wg g.gid g.role = some h ∧ h.c = n.ctx ∧ h.arr = n.arr ∧ h.phase = n.phase ∧ h.cbuf = [] ∧ h.undo = [] ∧
      h.cmp = [] ∧ h.fwd = [] := by
  rw [groupAt, allGroups_decideRollback]
  exact restored_group hn (groupAt_rollbackPair hnd hgs hv hg hwg)

end

theorem mem_wgIds {s : State} {u : Workgroup} (h : u ∈ s.wgs) : (u.key, u.ref) ∈ wgIds s := List.mem_map_of_mem h

section
variable {s : State} (k : Fin 16) (w : Workgroup) (m : Mismatch)

/-- The domain's work is gone (R383). -/
theorem discarded_decidePermanent {u : Workgroup} (hu : u ∈ (decidePermanent s k w m).wgs) : stageDomain s u.ref ≠ stageDomain s w.ref :=
  stageDomain_of_mem_wgIds (wgIds_decidePermanent s k w m ▸ mem_wgIds hu)

/-- The other domains' work stays. -/
theorem kept_decidePermanent (hnd : (s.wgs.map (·.key)).Nodup) {u : Workgroup} (hu : u ∈ s.wgs) (hd : stageDomain s u.ref ≠ stageDomain s w.ref) :
    ∃ v ∈ (decidePermanent s k w m).wgs, v.key = u.key := by
  have hmem := mem_wgIds_fatalDiscard hnd hu hd
  rw [← wgIds_decidePermanent s k w m] at hmem
  obtain ⟨v, hv, e⟩ := List.mem_map.1 hmem
  exact ⟨v, hv, (congrArg Prod.fst e :)⟩

end

theorem nextRecord_eq (s : State) (d : Fin 64) : nextRecord s d =
    if (s.domains[d]).en = true ∧ ((s.domains[d]).head - (s.domains[d]).tail).toNat < 2 ^ (s.domains[d]).rlog then
      (s.domains[d]).rbase.toNat + 64 * ((s.domains[d]).head.toNat % 2 ^ (s.domains[d]).rlog) else 0 := by
  simp only [nextRecord, Bool.and_eq_true, decide_eq_true_eq]

/-- The clauses on a pair whose clusters both passed (R383). -/
theorem execSelfTestComplete_passed {s : State} {k : Fin 16} (hc : Coherent s) (hdue : TestDue s k) (hempty : EmptyPair s k) :
    ∃ t, execSelfTestComplete k false false s = .next t ∧ (t.pairs[k]).testing = false ∧ t.place.cl = s.place.cl ∧ t.policy = s.policy ∧
      (∀ x : Fin 32, t.place.susp.getLsbD x.val = (s.place.susp.getLsbD x.val && x != leadOf k && x != trailOf k)) ∧
      ((s.pairs[k]).recPa ≠ 0 → ∃ inner, devRead t ((s.pairs[k]).recPa + 4) 4 = leBytes 4 (inner % 2 ^ 31 + 2 ^ 31) ∧
        devRead s ((s.pairs[k]).recPa + 4) 4 = leBytes 4 inner) := by
  have hframe := bothPassed_frame (passedState s k) (s.pairs[k]).recPa
  have hpass : Coherent (passedState s k) := coherent_of_moved (moved_of_same hc rfl rfl rfl)
  have hdone := execSelfTestComplete_due hdue false
  rw [if_neg Bool.false_ne_true, unsuspend_pair hempty] at hdone
  refine ⟨_, hdone, ?_, ?_, ?_, ?_, fun hpa => devRead_bothPassed hpass hpa⟩
  all_goals
    rw [hframe.eq]
  · exact pairs_passedState s k
  · rfl
  · rfl
  · exact susp_passedState s k

theorem checkedPair_releases {s : State} {k : Fin 16} (h1 : (s.pairs[k]).stopped = true) (h2 : (s.pairs[k]).rolled = true) : ∃ t, execPairRelease k s = .next t ∧
    t = { s with pairs := s.pairs.set k { s.pairs[k] with stopped := false, mis := none, rolled := false, formed := (t.pairs[k]).formed } } ∧
    ((∃ w, CheckedOn s k w ∧ w.finished = false) → (t.pairs[k]).formed = (s.pairs[k]).formed) ∧
    ((∀ w, CheckedOn s k w → w.finished = true) → (t.pairs[k]).formed = false) := by
  have hpair : ((s.pairs.set k (releasedPair s k))[k]) = releasedPair s k := by simp
  refine ⟨_, execPairRelease_releases h1 h2, ?_, fun hw => ?_, fun hw => ?_⟩
  · dsimp only
    rw [hpair]
    rfl
  · change ((s.pairs.set k (releasedPair s k))[k]).formed = _
    rw [hpair, releasedPair, checkedWork_iff.2 hw, Bool.true_and]
  · have hnone : checkedWork s k = false := Bool.eq_false_iff.2 fun h => by
      obtain ⟨w, hk, hf⟩ := checkedWork_iff.1 h
      exact Bool.false_ne_true (hf.symm.trans (hw w hk))
    change ((s.pairs.set k (releasedPair s k))[k]).formed = _
    rw [hpair, releasedPair, hnone, Bool.false_and]

/-- Settles O59: a missing event, the decisions of the SSP, the release of a pair and the end of its self-test, each by the lemma of its case. -/
theorem checkedPairRecovery : Obligations.CheckedPairRecovery := by
  unfold Obligations.CheckedPairRecovery
  intro k key gid failLead failTrail s hs hnd hgs
  have hc := coherent_of_sound hs
  simp only [exec_compareTimeout, exec_sspDecision, exec_pairRelease, exec_selfTestComplete]
  refine ⟨fun w g hw hg hcore hk _ _ => ⟨execCompareTimeout_idle hw hg hk, fun e es he hrun => execCompareTimeout_missing hw hg hcore hk he hrun⟩,
    execSspDecision_idle, fun m w hstop hmis hact hw => ⟨fun hperm => ?_, fun hperm => ?_⟩, execPairRelease_idle, checkedPair_releases,
    fun hdue => execSelfTestComplete_idle hdue failLead failTrail, fun hdue hempty => ?_, fun hdue hempty hq x h0 hx hfault hcl hlow hold => ?_,
    fun hdue hempty hq h0 => execSelfTestComplete_lost hc hdue hempty hq h0⟩
  · have hdec := execSspDecision_decides hstop hmis hact hw
    rw [if_neg (mt permanent_iff.1 hperm)] at hdec
    refine ⟨_, hdec, reported_decideRollback hc k w m, ?_, ?_, stopped_decideRollback hstop w m, rolls_decideRollback hw, fun v hv g hg hwg n hn => ⟨?_, ?_, ?_⟩⟩
    · rw [pairs_decideRollback]
    · rw [pairs_decideRollback]
    · exact group_decideRollback w m hnd hgs hv hg hwg hn
    · intro hheld h
      rw [held_decideRollback]
      exact held_rollbackPair hnd hv hheld
    · intro hq hkicks hown r o
      have hstill : Still s := ⟨hq, hkicks, hown, localWf_of_sound hs⟩
      rw [localAt_decideRollback]
      exact ⟨fun u hu hold => localAt_rollbackPair_oldest hstill hnd hv hu hold, fun hno => localAt_rollbackPair_uncovered hstill hnd hv hno⟩
  · have hdec := execSspDecision_decides hstop hmis hact hw
    rw [if_pos (permanent_iff.2 hperm)] at hdec
    refine ⟨_, hdec, fun hq => ⟨reported_decidePermanent k w m hc hq, fun hspare => ?_⟩, fun u hu => discarded_decidePermanent k w m hu,
      fun u hu hd => kept_decidePermanent k w m hnd hu hd, susp_decidePermanent s k w m, testing_decidePermanent s k w m⟩
    rw [recPa_decidePermanent s k w m hspare]
    exact nextRecord_eq _ _
  · obtain ⟨t, h1, h2, h3, h4, h5, h6⟩ := execSelfTestComplete_passed hc hdue hempty
    exact ⟨t, h1, h2, h3, h4, h5, fun hpa _ _ => h6 hpa⟩
  · refine execSelfTestComplete_spare hc hdue hempty hq h0 hx ⟨hfault, hcl⟩ (fun y hy hfree => ?_) hold
    rcases hlow y hy with h | ⟨i, h⟩
    · exact Bool.false_ne_true (hfree.1.symm.trans h)
    · exact hfree.2 i h

end Sys2Proof.Laws.CheckedPairs

/-! ## Decoding undoes encoding (R29, R35, R42, R51)

Laws/PerInstr.lean has, for each constructor, that its code decodes to it. What is left is the way from the code to the bytes and back: the length bit of
R29 tells how many of the bytes at hand belong to the code. -/

namespace Sys2Proof.Laws.RoundTrip
open Sys2Proof.Laws.OnlyEncodings

/-! ### The length bit of each format (R29, R35, R42) -/

theorem odd_word (x : Nat) (h : x % 2 = 0) : (BitVec.ofNat 32 (x + 1)).toNat % 2 = 1 := by
  rw [BitVec.toNat_ofNat]
  omega

theorem lengthBit_packF3 (maj fn : Nat) (b a : BitVec 7) (n : Bool) (d : BitVec 7) : LengthBit (.word (packF3 maj fn b a n d)) :=
  odd_word _ (by omega)

theorem lengthBit_packFI (maj : Nat) (i : BitVec 7) (fn : Nat) (a : BitVec 7) (n : Bool) (d : BitVec 7) : LengthBit (.word (packFI maj i fn a n d)) :=
  odd_word _ (by omega)

theorem lengthBit_packFL (maj : Nat) (i : BitVec 17) (n : Bool) (d : BitVec 7) : LengthBit (.word (packFL maj i n d)) :=
  odd_word _ (by omega)

theorem lengthBit_packFP (maj fn : Nat) (b a : BitVec 7) (g x : Bool) (p : BitVec 6) : LengthBit (.word (packFP maj fn b a g x p)) :=
  odd_word _ (by omega)

theorem lengthBit_packFM (maj f1 : Nat) (z : BitVec 3) (o s l : BitVec 2) (a : BitVec 7) (n : Bool) (d : BitVec 7) : LengthBit (.word (packFM maj f1 z o s l a n d)) :=
  odd_word _ (by omega)

theorem lengthBit_packFA (maj op : Nat) (o s l : BitVec 2) (a : BitVec 7) (n : Bool) (d : BitVec 7) : LengthBit (.word (packFA maj op o s l a n d)) :=
  odd_word _ (by omega)

theorem lengthBit_packFLM (maj : Nat) (i : BitVec 7) (z : BitVec 3) (a : BitVec 7) (n : Bool) (d : BitVec 7) : LengthBit (.word (packFLM maj i z a n d)) :=
  odd_word _ (by omega)

theorem lengthBit_packFC (maj : Nat) (r : BitVec 2) (s f : BitVec 4) (a : BitVec 7) (n : Bool) (d : BitVec 7) : LengthBit (.word (packFC maj r s f a n d)) :=
  odd_word _ (by omega)

theorem lengthBit_packFSH (maj : Nat) (k : BitVec 3) (o : BitVec 4) (m : BitVec 3) (a : BitVec 7) (n : Bool) (d : BitVec 7) : LengthBit (.word (packFSH maj k o m a n d)) :=
  odd_word _ (by omega)

theorem lengthBit_packFF (maj : Nat) (b a : BitVec 4) (o s : BitVec 2) (fn : Nat) : LengthBit (.word (packFF maj b a o s fn)) :=
  odd_word _ (by omega)

theorem lengthBit_packFB (maj : Nat) (i : BitVec 17) (l g : Bool) (p : BitVec 6) : LengthBit (.word (packFB maj i l g p)) :=
  odd_word _ (by omega)

theorem lengthBit_packFS (maj : Nat) (y : Bool) (n : BitVec 2) (c b a : BitVec 7) : LengthBit (.word (packFS maj y n c b a)) :=
  odd_word _ (by omega)

theorem lengthBit_packFX (maj : Nat) (p : BitVec 25) : LengthBit (.word (packFX maj p)) :=
  odd_word _ (by omega)

theorem lengthBit_pack16 (op : Nat) (b : BitVec 6) (d : BitVec 5) : LengthBit (.half (pack16 op b d)) := by
  rw [LengthBit, pack16, BitVec.toNat_ofNat]
  omega

/-- The code of every instruction carries the length bit of R29: set in a word, by the 1 that ends each packing, and clear in a halfword. -/
theorem lengthBit_of_encode {i : Instr} {c : Code} (h : encode i = some c) : LengthBit c := by
  suffices hall : ∀ x ∈ encode i, LengthBit x from hall c h
  cases i <;> simp only [encode, Option.mem_def, Option.some.injEq, forall_eq', reduceCtorEq, false_implies, implies_true, lengthBit_packF3, lengthBit_packFI, lengthBit_packFL, lengthBit_packFP, lengthBit_packFM, lengthBit_packFA, lengthBit_packFLM, lengthBit_packFC, lengthBit_packFSH, lengthBit_packFF, lengthBit_packFB, lengthBit_packFS, lengthBit_packFX, lengthBit_pack16]

/-- The code of an instruction decodes to it: the lemma of each constructor. -/
theorem statement (i : Instr) : Statement i := by
  cases i with
  | iadd => apply iadd | isub => apply isub | imul => apply imul | imulh => apply imulh | imulhu => apply imulhu | iadds => apply iadds
  | isubs => apply isubs | iabsd => apply iabsd | iaddi => apply iaddi | imuli => apply imuli | andi => apply andi | ori => apply ori
  | xori => apply xori | shli => apply shli | shri => apply shri | sari => apply sari | and => apply and | or => apply or | xor => apply xor
  | andn => apply andn | orn => apply orn | xnor => apply xnor | shl => apply shl | shr => apply shr | sar => apply sar | rotl => apply rotl
  | imin => apply imin | imax => apply imax | umin => apply umin | umax => apply umax | iaddc => apply iaddc | isubb => apply isubb
  | iabs => apply iabs | ineg => apply ineg | not => apply not | popc => apply popc | clz => apply clz | ctz => apply ctz | brev => apply brev
  | bswap => apply bswap | bfx => apply bfx | bfxu => apply bfxu | bfi => apply bfi | fshl => apply fshl | fshr => apply fshr | lea => apply lea
  | sel => apply sel | imad => apply imad | mov => apply mov | sprd => apply sprd | spwr => apply spwr | rdlane => apply rdlane
  | wrlane => apply wrlane | rfl => apply rfl | movp => apply movp | ptom => apply ptom | movi => apply movi | eq => apply eq | ne => apply ne
  | lt => apply lt | le => apply le | ltu => apply ltu | leu => apply leu | tst => apply tst | tstz => apply tstz | feq => apply feq
  | fne => apply fne | flt => apply flt | fle => apply fle | fgt => apply fgt | fge => apply fge | funord => apply funord | ford => apply ford
  | pand => apply pand | por => apply por | pxor => apply pxor | pandn => apply pandn | pnot => apply pnot | pmov => apply pmov | pclr => apply pclr
  | pset => apply pset | eqImm => apply eqImm | neImm => apply neImm | ltImm => apply ltImm | leImm => apply leImm | ltuImm => apply ltuImm
  | leuImm => apply leuImm | tstImm => apply tstImm | tstzImm => apply tstzImm | fadd => apply fadd | fsub => apply fsub | fmul => apply fmul
  | fmin => apply fmin | fmax => apply fmax | fminn => apply fminn | fmaxn => apply fmaxn | fcpsgn => apply fcpsgn | ffma => apply ffma
  | ffms => apply ffms | fnma => apply fnma | fnms => apply fnms | hfma2 => apply hfma2 | bfma2 => apply bfma2 | idp4 => apply idp4
  | hdp2 => apply hdp2 | hadd2 => apply hadd2 | hsub2 => apply hsub2 | hmul2 => apply hmul2 | hmax2 => apply hmax2 | badd2 => apply badd2
  | bsub2 => apply bsub2 | bmul2 => apply bmul2 | bmax2 => apply bmax2 | frcp => apply frcp | frsq => apply frsq | fsqrt => apply fsqrt
  | flg2 => apply flg2 | fex2 => apply fex2 | fsin => apply fsin | fcos => apply fcos | ftanh => apply ftanh | cvt => apply cvt | pk2h => apply pk2h
  | pk2bf => apply pk2bf | upkhl => apply upkhl | upkhh => apply upkhh | upkbl => apply upkbl | upkbh => apply upkbh | perm8 => apply perm8
  | frndn => apply frndn | frndz => apply frndz | frndd => apply frndd | frndu => apply frndu | ffrac => apply ffrac | fclass => apply fclass
  | fgetexp => apply fgetexp | fldexp => apply fldexp | scacc => apply scacc | scacc2 => apply scacc2 | scmul => apply scmul | scaci => apply scaci
  | scaci2 => apply scaci2 | shfop => apply shfop | perm => apply perm | permt => apply permt | perms => apply perms | compact => apply compact
  | vall => apply vall | vany => apply vany | veq => apply veq | vfirst => apply vfirst | vlast => apply vlast | matchLanes => apply matchLanes
  | tfirst => apply tfirst | tpop => apply tpop | setpart => apply setpart | getpart => apply getpart | tileid => apply tileid | tlane => apply tlane
  | ldg => apply ldg | ldgPf => apply ldgPf | stg => apply stg | atgAdd => apply atgAdd | atgSub => apply atgSub | atgMin => apply atgMin
  | atgMax => apply atgMax | atgUmin => apply atgUmin | atgUmax => apply atgUmax | atgAnd => apply atgAnd | atgOr => apply atgOr
  | atgXor => apply atgXor | atgXchg => apply atgXchg | atgCas => apply atgCas | atgFadd => apply atgFadd | atgFmin => apply atgFmin
  | atgFmax => apply atgFmax | atgInc => apply atgInc | atgDec => apply atgDec | ldl => apply ldl | stl => apply stl | atlAdd => apply atlAdd
  | atlSub => apply atlSub | atlMin => apply atlMin | atlMax => apply atlMax | atlUmin => apply atlUmin | atlUmax => apply atlUmax
  | atlAnd => apply atlAnd | atlOr => apply atlOr | atlXor => apply atlXor | atlXchg => apply atlXchg | atlCas => apply atlCas
  | atlFadd => apply atlFadd | atlFmin => apply atlFmin | atlFmax => apply atlFmax | atlInc => apply atlInc | atlDec => apply atlDec
  | scrAdd => apply scrAdd | scrFadd => apply scrFadd | scrMin => apply scrMin | scrMax => apply scrMax | scrAnd => apply scrAnd
  | scrOr => apply scrOr | scrXor => apply scrXor | scrFmax => apply scrFmax | scrXchg => apply scrXchg | scrCas => apply scrCas
  | scrLd => apply scrLd | scrSt => apply scrSt | fence => apply fence | xfence => apply xfence | drainst => apply drainst | cinv => apply cinv
  | cflush => apply cflush | tkick => apply tkick | tcancel => apply tcancel | tstat => apply tstat | binit => apply binit | barrive => apply barrive
  | bexpect => apply bexpect | bwait => apply bwait | btest => apply btest | binval => apply binval | qpush => apply qpush | qpop => apply qpop
  | qres => apply qres | qcommit => apply qcommit | qlen => apply qlen | ordw => apply ordw | ordp => apply ordp | ordr => apply ordr
  | bra => apply bra | call => apply call | jmps => apply jmps | calls => apply calls | ret => apply ret | exit => apply exit | knot => apply knot
  | bar => apply bar | yield => apply yield | nop => apply nop | migShuttle => apply migShuttle | migBeam => apply migBeam | trap => apply trap
  | rett => apply rett | rettEnd => apply rettEnd | qry => apply qry | ckpt => apply ckpt | brk => apply brk | selv => apply selv | xp => apply xp
  | mov16 => apply mov16 | iadd16 => apply iadd16 | isub16 => apply isub16 | imul16 => apply imul16 | and16 => apply and16 | or16 => apply or16
  | xor16 => apply xor16 | shl16 => apply shl16 | shr16 => apply shr16 | sar16 => apply sar16 | imin16 => apply imin16 | imax16 => apply imax16
  | fadd16 => apply fadd16 | fmul16 => apply fmul16 | fmax16 => apply fmax16 | fmac => apply fmac | powerOnReset => apply powerOnReset
  | registerWrite => apply registerWrite | partitionEnable => apply partitionEnable | partitionDisable => apply partitionDisable
  | tenantEnable => apply tenantEnable | tenantDisable => apply tenantDisable | reside => apply reside | release => apply release
  | preempt => apply preempt | contextReset => apply contextReset | resume => apply resume | ctxcmdInvalid => apply ctxcmdInvalid
  | contextDrained => apply contextDrained | drainDeadline => apply drainDeadline | placeTableWrite => apply placeTableWrite
  | clsuspSet => apply clsuspSet | clsuspClear => apply clsuspClear | clusterSuspended => apply clusterSuspended
  | invalidateAll => apply invalidateAll | invalidateTenant => apply invalidateTenant | invalidateRange => apply invalidateRange
  | invalidationComplete => apply invalidationComplete | bindingEnable => apply bindingEnable | bindingDisable => apply bindingDisable
  | mbdataWrite => apply mbdataWrite | heldMessageEntry => apply heldMessageEntry | apertureRead => apply apertureRead
  | apertureWrite => apply apertureWrite | apertureAtomic => apply apertureAtomic | precopy => apply precopy | stop => apply stop
  | stopComplete => apply stopComplete | snap => apply snap | snapComplete => apply snapComplete | save => apply save | run => apply run
  | load => apply load | winackWrite => apply winackWrite | qryMaskWrite => apply qryMaskWrite | attestDevice => apply attestDevice
  | attestTenant => apply attestTenant | attestReportDone => apply attestReportDone | domainRingEnable => apply domainRingEnable
  | chargeTick => apply chargeTick | periodBoundary => apply periodBoundary | bandwidthPeriod => apply bandwidthPeriod
  | cohortLaunch => apply cohortLaunch | wakeStart => apply wakeStart | wakeComplete => apply wakeComplete | idleToG1 => apply idleToG1
  | g1ToG2 => apply g1ToG2 | enterG3 => apply enterG3 | workgroupRetire => apply workgroupRetire | ticketPass => apply ticketPass
  | ordwGrant => apply ordwGrant | taskStart => apply taskStart | taskComplete => apply taskComplete | sliceEnd => apply sliceEnd
  | groupHalt => apply groupHalt | sliceResume => apply sliceResume | migGrant => apply migGrant | migDeadline => apply migDeadline
  | migMove => apply migMove | homeRequest => apply homeRequest | l1Eviction => apply l1Eviction
  | translationWalkComplete => apply translationWalkComplete | compareTimeout => apply compareTimeout | sspDecision => apply sspDecision
  | pairRelease => apply pairRelease | selfTestComplete => apply selfTestComplete | uncorrectableEcc => apply uncorrectableEcc
  | correctedError => apply correctedError | longLatencyResult => apply longLatencyResult | secureStreamKeyed => apply secureStreamKeyed

/-! ### From bytes to codes (R29) -/

theorem frontCode_half (h : Half) (hb : h.toNat % 2 = 0) (rest : List Byte) : frontCode (leBytes 2 h.toNat ++ rest) = some (.half h) := by
  have h0 : (BitVec.ofNat 8 h.toNat).toNat % 2 = 0 := by
    rw [BitVec.toNat_ofNat]
    omega
  have e : BitVec.ofNat 8 (h.toNat / 256) ++ BitVec.ofNat 8 h.toNat = h := BitVec.eq_of_toNat_eq (by
    have := h.isLt
    rw [toNat_append_byte, BitVec.toNat_ofNat, BitVec.toNat_ofNat]
    omega)
  simp only [leBytes, List.cons_append, List.nil_append, frontCode, h0, if_true]
  rw [e]

theorem frontCode_word (w : Word) (hb : w.toNat % 2 = 1) (rest : List Byte) : frontCode (leBytes 4 w.toNat ++ rest) = some (.word w) := by
  have h0 : ¬ (BitVec.ofNat 8 w.toNat).toNat % 2 = 0 := by
    rw [BitVec.toNat_ofNat]
    omega
  have e : BitVec.ofNat 8 (w.toNat / 256 / 256 / 256) ++ BitVec.ofNat 8 (w.toNat / 256 / 256) ++ BitVec.ofNat 8 (w.toNat / 256) ++
      BitVec.ofNat 8 w.toNat = w := BitVec.eq_of_toNat_eq (by
    have := w.isLt
    simp only [toNat_append_byte, BitVec.toNat_ofNat]
    omega)
  simp only [leBytes, List.cons_append, List.nil_append, frontCode, h0, if_false]
  rw [e]

/-- The bytes of a code, whatever follows them, begin with that code. -/
theorem frontCode_bytes {c : Code} (h : LengthBit c) (rest : List Byte) : frontCode (c.bytes ++ rest) = some c := by
  cases c with
  | half x => exact frontCode_half x h rest
  | word x => exact frontCode_word x h rest

/-- Settles O33: the bytes begin with the code (`frontCode_bytes`), by its length bit (`lengthBit_of_encode`), and the code decodes to the instruction. -/
theorem decodingUndoesEncoding : Obligations.DecodingUndoesEncoding := by
  intro i c rest hwf he
  simp only [decode, frontCode_bytes (lengthBit_of_encode he), statement i c hwf he]

end Sys2Proof.Laws.RoundTrip

/-! ## The 16-bit forms (R42, R121) -/

namespace Sys2Proof.Laws.ShortForms
open Sys2Proof Sys2Proof.Machine Sys2Proof.Claims

/-! ### The model's integer operations as the manual writes them (R97 to R99) -/

theorem shlBy_eq (a : Word) (n : Nat) : shlBy a n = shiftLeft a n := by
  apply BitVec.eq_of_toNat_eq
  rw [shlBy, shiftLeft, BitVec.toNat_ofNat]
  split
  · obtain ⟨k, rfl⟩ := Nat.exists_eq_add_of_le ‹32 ≤ n›
    rw [show a.toNat * 2 ^ (32 + k) = 2 ^ 32 * (a.toNat * 2 ^ k) by ring, Nat.mul_mod_right]
    rfl
  · rw [BitVec.toNat_shiftLeft, Nat.shiftLeft_eq]

theorem shrBy_eq (a : Word) (n : Nat) : shrBy a n = shiftRight a n := by
  apply BitVec.eq_of_toNat_eq
  have hlt := a.isLt
  rw [shrBy, shiftRight, BitVec.toNat_ofNat, Nat.mod_eq_of_lt (Nat.lt_of_le_of_lt (Nat.div_le_self _ _) hlt)]
  split
  · exact (Nat.div_eq_of_lt (Nat.lt_of_lt_of_le hlt (Nat.pow_le_pow_right (by decide) ‹32 ≤ n›))).symm
  · rw [BitVec.toNat_ushiftRight, Nat.shiftRight_eq_div_pow]

/-- From 31 on, an arithmetic shift leaves copies of the sign bit. -/
theorem toInt_div_pow_min (a : Word) (n : Nat) : a.toInt / 2 ^ min n 31 = a.toInt / 2 ^ n := by
  rcases Nat.le_total n 31 with h | h
  · rw [Nat.min_eq_left h]
  · rw [Nat.min_eq_right h]
    have hlo := BitVec.le_toInt a
    have hhi := BitVec.toInt_lt (x := a)
    have hpow : (2 : Int) ^ 31 ≤ 2 ^ n := pow_le_pow_right₀ (by norm_num) h
    rcases le_or_gt 0 a.toInt with h0 | h0
    · rw [Int.ediv_eq_zero_of_lt h0 (by omega), Int.ediv_eq_zero_of_lt h0 (by omega)]
    · have hneg : ∀ b : Int, 2 ^ 31 ≤ b → a.toInt / b = -1 := fun b hb =>
        Int.ediv_eq_iff_of_pos (by omega) |>.2 ⟨by omega, by omega⟩
      rw [hneg _ le_rfl, hneg _ hpow]

theorem sarBy_eq (a : Word) (n : Nat) : sarBy a n = shiftArith a n := by
  have hval : (a.sshiftRight (min n 31)).toInt = a.toInt / 2 ^ n := by
    rw [BitVec.toInt_sshiftRight, Int.shiftRight_eq_div_pow, ← toInt_div_pow_min]
    norm_cast
  rw [sarBy, shiftArith, ← hval, BitVec.ofInt_toInt]

theorem imin32_eq (x y : Word) : imin32 x y = BitVec.ofInt 32 (min x.toInt y.toInt) := by
  rw [imin32]
  split
  · rw [min_eq_left ‹_›, BitVec.ofInt_toInt]
  · rw [min_eq_right (by omega), BitVec.ofInt_toInt]

theorem imax32_eq (x y : Word) : imax32 x y = BitVec.ofInt 32 (max x.toInt y.toInt) := by
  rw [imax32]
  split
  · rw [max_eq_right ‹_›, BitVec.ofInt_toInt]
  · rw [max_eq_left (by omega), BitVec.ofInt_toInt]

/-! ### Its f32 operations (R110, R111) -/

/-- A word holds an f32 code and nothing else. -/
theorem inF_f32 (m : Mods) (x : Word) : inF fF32 m x.toNat = fF32.read m.ftz x.toNat := by
  rw [inF, Nat.mod_eq_of_lt (by simpa [FloatFmt.signPos, fF32] using x.isLt)]

theorem flushBits_f32 (m : Mods) (x : Word) : fF32.flushBits m.ftz (x.toNat % 2 ^ (fF32.signPos + 1)) = fF32.flushBits m.ftz x.toNat := by
  rw [Nat.mod_eq_of_lt (by simpa [FloatFmt.signPos, fF32] using x.isLt)]

theorem on32_addF (m : Mods) (x y : Word) : on32 (addF fF32 m) x y = f32Of (fun m a b => FVal.add m.rm a b) m x y := by
  rw [on32, addF, inF_f32, inF_f32]
  rfl

theorem on32_mulF (m : Mods) (x y : Word) : on32 (mulF fF32 m) x y = f32Of (fun _ a b => a.mul b) m x y := by
  rw [on32, mulF, inF_f32, inF_f32]
  rfl

theorem pickF_f32 (m : Mods) (number wantMax : Bool) (x y : Word) :
    pickF fF32 m number wantMax x.toNat y.toNat = extremum fF32 number wantMax m x.toNat y.toNat := by
  simp only [pickF, extremum, inF_f32, flushBits_f32]
  cases (fF32.read m.ftz x.toNat).isNan <;> cases (fF32.read m.ftz y.toNat).isNan <;> cases number <;> cases wantMax <;> rfl

theorem fma32_eq (np nq : Bool) (m : Mods) (x y q : Word) : fma32 np nq m x y q = fusedOf np nq m x y q := by
  rw [fma32, fmaF, inF_f32, inF_f32, inF_f32]
  rfl

/-- A lane instruction of two bytes that no prefix stands before completes. -/
theorem lane16_done {srcs : List Nat} {d : Nat} {s : State} (f : Ctx → Lane → Word) (hx : s.c.xpw = none) (h : LaneIssues s srcs false d) (g : Lane → Word)
    (e : ∀ l, f s.c l = g l) : ∃ t, Host.Outcome.next (laneIns 2 s.c.xpw.isSome false srcs false d f s) = (.next t : Out) ∧ LaneDone s t 2 srcs false d g :=
  ⟨_, rfl, by rw [hx]; exact done_congr (laneIns_done h) e⟩

/-- Settles O12: each form is `ins16` or `laneIns` with an operation that the lemmas above give in the manual's words. -/
theorem shortForms : Obligations.ShortForms := by
  refine ⟨?_, fun b d s hx h => ?_, fun b d s hx h => ?_⟩
  · simp only [List.forall_mem_cons, List.not_mem_nil, false_implies, implies_true, and_true]
    refine ⟨?_, ?_, ?_, ?_, ?_, ?_, ?_, ?_, ?_, ?_, ?_, ?_, ?_, ?_⟩ <;> intro b d s hx h
    · exact exec_iadd16 b d s ▸ ins16_done hx h _ fun l => rfl
    · exact exec_isub16 b d s ▸ ins16_done hx h _ fun l => rfl
    · exact exec_imul16 b d s ▸ ins16_done hx h _ fun l => rfl
    · exact exec_and16 b d s ▸ ins16_done hx h _ fun l => rfl
    · exact exec_or16 b d s ▸ ins16_done hx h _ fun l => rfl
    · exact exec_xor16 b d s ▸ ins16_done hx h _ fun l => rfl
    · exact exec_shl16 b d s ▸ ins16_done hx h _ fun l => shlBy_eq _ _
    · exact exec_shr16 b d s ▸ ins16_done hx h _ fun l => shrBy_eq _ _
    · exact exec_sar16 b d s ▸ ins16_done hx h _ fun l => sarBy_eq _ _
    · exact exec_imin16 b d s ▸ ins16_done hx h _ fun l => imin32_eq _ _
    · exact exec_imax16 b d s ▸ ins16_done hx h _ fun l => imax32_eq _ _
    · exact exec_fadd16 b d s ▸ ins16_done hx h _ fun l => on32_addF _ _ _
    · exact exec_fmul16 b d s ▸ ins16_done hx h _ fun l => on32_mulF _ _ _
    · exact exec_fmax16 b d s ▸ ins16_done hx h _ fun l => congrArg (BitVec.ofNat 32) (pickF_f32 _ _ _ _ _)
  · exact exec_mov16 b d s ▸ lane16_done _ hx h _ fun l => rfl
  · exact exec_fmac b d s ▸ lane16_done _ hx h _ fun l => fma32_eq _ _ _ _ _ _

end Sys2Proof.Laws.ShortForms

/-! ## Special functions (R48, R113) -/

namespace Sys2Proof.Laws.SpecialFns
open Sys2Proof Sys2Proof.Machine Sys2Proof.Claims

/-- The values that the manual gives for zeros, infinities, NaN and a few exact results. -/
theorem sfuRows_values : ∀ r ∈ sfuRows, ∀ p ∈ (0x7FC00001, 0x7FC00000) :: r.2.2, fF32.result .rn false false (r.2.1 (fF32.value p.1)) = p.2 := by
  simp only [sfuRows]
  decide +kernel

section
variable {f : FVal → FVal} {a d : BitVec 7} {n : Bool} {s : State} (hp : Plain s { ftz := true }) (h : LaneIssues s [a.toNat] n d.toNat)
include hp h

/-- A special function that issues puts its result under way; under N, or as a scalar one under a false guard, it only completes. -/
theorem sfuIns_eq : sfuIns f a n d s = .next (if n || (!kindVec s.c n d.toNat [a.toNat] && !s.c.goes) then retire s 4 .empty
    else finishLate true s 4 d.toNat 1 (!kindVec s.c n d.toNat [a.toNat]) s.c.enabled (fun l =>
      (BitVec.ofNat 32 (fF32.result .rn false (modsOf s.c.xp.e).ftz (f (fF32.read (modsOf s.c.xp.e).ftz (s.c.rd a.toNat l).toNat)))).setWidth 128) 0) := by
  obtain ⟨hi, hk⟩ := h
  have hmods : (s.c.xp.c != 127 || !modsLegal s.c.xp.e fpFtz) = false := by
    have := hp.2
    rw [hp.1, show fpFtz = { ftz := true } from rfl, this]
    rfl
  have hill : (s.c.xp.c != 127 || !modsLegal s.c.xp.e fpFtz || (kindVec s.c n d.toNat [a.toNat] && !n && isS d.toNat)) = false := by
    rw [hmods]
    cases hv : kindVec s.c n d.toNat [a.toNat] with
    | false => rfl
    | true => rcases hk hv with h | h <;> simp [h]
  rw [sfuIns, issue_eq hill rfl rfl rfl rfl hi]
  simp only [in32, ShortForms.inF_f32]
  rfl

theorem sfuIns_long (hn : n = false) (hgo : kindVec s.c n d.toNat [a.toNat] = true ∨ s.c.goes = true) :
    ∃ t, sfuIns f a n d s = .next t ∧ t = { s with grp := t.grp } ∧
      LongDone true s t d.toNat 1 (!kindVec s.c n d.toNat [a.toNat]) s.c.enabled (fun l => (BitVec.ofNat 32 (fF32.result .rn false
        (modsOf s.c.xp.e).ftz (f (fF32.read (modsOf s.c.xp.e).ftz (s.c.rd a.toNat l).toNat)))).setWidth 128) 0 := by
  have hcond : (n || (!kindVec s.c n d.toNat [a.toNat] && !s.c.goes)) = false := by
    subst hn
    rcases hgo with h | h <;> simp [h]
  rw [sfuIns_eq hp h, hcond]
  exact ⟨_, rfl, rfl, finishLate_done ..⟩

theorem sfuIns_plain (hn : n = true ∨ kindVec s.c n d.toNat [a.toNat] = false ∧ s.c.goes = false) :
    ∃ t, sfuIns f a n d s = .next t ∧ PlainDone s t 4 := by
  have hcond : (n || (!kindVec s.c n d.toNat [a.toNat] && !s.c.goes)) = true := by
    rcases hn with h | ⟨h1, h2⟩
    · rw [h, Bool.true_or]
    · rw [h1, h2]
      exact Bool.or_true n
  rw [sfuIns_eq hp h, hcond]
  exact ⟨_, rfl, plain_done s 4⟩

end

/-- The instruction of each row is `sfuIns` of its function. -/
theorem exec_sfuRows : ∀ r ∈ sfuRows, ∀ (a : BitVec 7) (n : Bool) (d : BitVec 7) (s : State), exec (r.1 a n d) s = sfuIns r.2.1 a n d s := by
  simp only [sfuRows, List.forall_mem_cons, List.not_mem_nil, false_implies, implies_true, and_true]
  exact ⟨exec_frcp, exec_frsq, exec_fsqrt, exec_flg2, exec_fex2, exec_fsin, exec_fcos, exec_ftanh⟩

/-- Settles O11: the values of `sfuRows_values`, and the two ways in which `sfuIns` ends. -/
theorem specialFunctions : Obligations.SpecialFunctions := by
  refine fun r hr => ⟨sfuRows_values r hr, fun a n d s hp h => ?_⟩
  rw [exec_sfuRows r hr]
  exact ⟨sfuIns_long hp h, sfuIns_plain hp h⟩

end Sys2Proof.Laws.SpecialFns

/-! ## Words of the manual (R29, R35, R38, R42, R51) -/

namespace Sys2Proof.Laws.Words
open Sys2Proof

/-- Settles O32: the kernel decodes each word. -/
theorem wordsOfTheManual : Obligations.WordsOfTheManual := by
  unfold Obligations.WordsOfTheManual
  decide +kernel

end Sys2Proof.Laws.Words

/-! ## The checks before an instruction (R50) -/

namespace Sys2Proof.Laws.Checks
open Sys2Proof Sys2Proof.Machine Sys2Proof.Claims

/-! ### The conditions of R50, in their order -/

/-- Item 1: an illegal form, or one that no handler executes (R353). -/
def IllegalForm (s : State) (i : Issue) : Prop := i.ill = true ∨ (s.c.inH = true ∧ (i.vec = true ∨ i.hdl = false))

/-- A transfer with no SELV after it (R45). -/
def OpenTransfer (s : State) (i : Issue) : Prop := i.xfer = true ∧ selvAt s (s.c.run.pc.toNat + 4) = false

/-- Illegal operands (R32, R49). -/
def BadOperands (s : State) (i : Issue) : Prop := i.bad = true ∨ (∃ u ∈ i.srcs, srcBad s u = true) ∨ ∃ u ∈ i.dsts, dstBad s u = true

/-- A pending register (R48). -/
def AwaitsRegister (s : State) (i : Issue) : Prop := again s = false ∧ ∃ u ∈ i.srcs ++ i.dsts, isT u.1 = false ∧ s.c.isPend u.1 u.2 = true

theorem illegalForm_iff {s : State} {i : Issue} : (i.ill || (s.c.inH && (i.vec || !i.hdl))) = true ↔ IllegalForm s i := by
  simp [IllegalForm]

theorem openTransfer_iff {s : State} {i : Issue} : (i.xfer && !selvAt s (s.c.run.pc.toNat + 4)) = true ↔ OpenTransfer s i := by
  simp [OpenTransfer]

theorem badOperands_iff {s : State} {i : Issue} : (i.bad || i.srcs.any (srcBad s) || i.dsts.any (dstBad s)) = true ↔ BadOperands s i := by
  simp only [BadOperands, Bool.or_eq_true, List.any_eq_true, or_assoc]

theorem awaitsRegister_iff {s : State} {i : Issue} :
    (!again s && (i.srcs ++ i.dsts).any (fun u => !isT u.1 && s.c.isPend u.1 u.2)) = true ↔ AwaitsRegister s i := by
  simp only [AwaitsRegister, Bool.and_eq_true, Bool.not_eq_true', List.any_eq_true]

/-! ### The fault of each check that fails first -/

section
variable {s t : State} {i : Issue} {m : Mask}

theorem issueM_illegal (h : IllegalForm s i) : issueM s i m t = faultAt s i.size 0x01 m 0 := by
  rw [issueM, Issue.fault, if_pos (illegalForm_iff.2 h)]

theorem issueM_long (h : ¬ IllegalForm s i) (hlong : 24 ≤ s.c.run.pos) : issueM s i m t = faultAt s i.size 0x04 m 0 := by
  rw [issueM, Issue.fault, if_neg (mt illegalForm_iff.1 h), if_pos hlong]

theorem issueM_open (h : ¬ IllegalForm s i) (hlong : ¬ 24 ≤ s.c.run.pos) (hopen : OpenTransfer s i) :
    issueM s i m t = faultAt s i.size 0x05 m 0 := by
  rw [issueM, Issue.fault, if_neg (mt illegalForm_iff.1 h), if_neg hlong, if_pos (openTransfer_iff.2 hopen)]

theorem issueM_bad (h : ¬ IllegalForm s i) (hlong : ¬ 24 ≤ s.c.run.pos) (hopen : ¬ OpenTransfer s i) (hbad : BadOperands s i) :
    issueM s i m t = faultAt s i.size 0x02 m 0 := by
  rw [issueM, Issue.fault, if_neg (mt illegalForm_iff.1 h), if_neg hlong, if_neg (mt openTransfer_iff.1 hopen), if_pos (badOperands_iff.2 hbad)]

/-- Past the operands: the pending registers, and then what is left. -/
theorem issueM_checked (h : ¬ IllegalForm s i) (hlong : ¬ 24 ≤ s.c.run.pos) (hopen : ¬ OpenTransfer s i) (hbad : ¬ BadOperands s i) :
    issueM s i m t = if (!again s && (i.srcs ++ i.dsts).any (fun u => !isT u.1 && s.c.isPend u.1 u.2)) = true then faultAt s i.size 0x03 m 0
      else if i.late then faultAt s i.size 0x02 m 0 else t := by
  rw [issueM, Issue.fault, if_neg (mt illegalForm_iff.1 h), if_neg hlong, if_neg (mt openTransfer_iff.1 hopen), if_neg (mt badOperands_iff.1 hbad)]
  split_ifs <;> rfl

end

/-- The checks of R50 in their order (R50). -/
theorem faultPriority : FaultPriority := by
  intro s t i m
  refine ⟨issueM_illegal, issueM_long, issueM_open, issueM_bad, fun h hl ho hb hp => ?_, fun h hl ho hb hp hlate => ?_, fun h hl ho hb hp hlate => ?_⟩
  · rw [issueM_checked h hl ho hb, if_pos (awaitsRegister_iff.2 hp)]
  · rw [issueM_checked h hl ho hb, if_neg (mt awaitsRegister_iff.1 hp), if_pos hlate]
  · rw [issueM_checked h hl ho hb, if_neg (mt awaitsRegister_iff.1 hp), hlate, if_neg Bool.false_ne_true]

/-! ### Instructions whose operands pass -/

section
variable {s t : State} {i : Issue} {m : Mask} (hi : i.ill = false) (hx : i.xfer = false) (hh : i.hdl = true) (h : Issues s i.vec i.srcs i.dsts)
include hi hh h

theorem not_illegalForm : ¬ IllegalForm s i := by
  rintro (hill | ⟨hin, hv | hhdl⟩)
  · exact Bool.false_ne_true (hi.symm.trans hill)
  · exact Bool.false_ne_true ((h.mode hv).symm.trans hin)
  · exact Bool.false_ne_true (hhdl.symm.trans hh)

include hx

/-- An operand that is illegal beyond the general rules raises 0x02. -/
theorem issueM_badOperand (hb : i.bad = true) : issueM s i m t = faultAt s i.size 0x02 m 0 :=
  issueM_bad (not_illegalForm hi hh h) (Nat.not_le.2 h.pos) (fun ho => Bool.false_ne_true (hx.symm.trans ho.1)) (.inl hb)

/-- A value that may not be written raises 0x02 after all other checks. -/
theorem issueM_late (hb : i.bad = false) (hlate : i.late = true) : issueM s i m t = faultAt s i.size 0x02 m 0 := by
  refine (faultPriority s t i m).2.2.2.2.2.1 (not_illegalForm hi hh h) (Nat.not_le.2 h.pos) (fun ho => Bool.false_ne_true (hx.symm.trans ho.1)) ?_ ?_ hlate
  · rintro (hbad | ⟨u, hu, hbad⟩ | ⟨u, hu, hbad⟩)
    · exact Bool.false_ne_true (hb.symm.trans hbad)
    · exact Bool.false_ne_true ((h.readable u hu).symm.trans hbad)
    · exact Bool.false_ne_true ((h.writable u hu).symm.trans hbad)
  · rintro ⟨hagain, u, hu, hT, hp⟩
    rcases h.free hagain u hu with ht | hf
    · exact Bool.false_ne_true (hT.symm.trans ht)
    · exact Bool.false_ne_true (hf.symm.trans hp)

end

/-! ### What taking an exception leaves of the special registers (R355) -/

theorem recD_faultAt {s : State} {h : PickRec} (hin : s.c.inH = false) (hh : handlerOf s = some h) (size : Nat) (cause : BitVec 8) (mask : Mask)
    (addr : DWord) : (faultAt s size cause mask addr).c.recD = 0 := by
  rw [faultAt, takeFault, hin, if_neg Bool.false_ne_true, hh]
  rfl

/-- A group in a run that keeps in special register 50 the data of a record that was delivered to it. -/
def recordKept : State := modC (Tests.machine 0) fun c => { c with recD := 1 }

/-- Refutes O30: the checks stand in the order of R50 (`faultPriority`), but taking an exception also clears special registers 50 to 52, which read
zero in a handler but for a record (R355). In `recordKept` register 50 holds 1, and the statement asks that it stay. -/
theorem not_preciseFaults : ¬ Obligations.PreciseFaults := by
  rintro ⟨-, htaking⟩
  obtain ⟨w, hw⟩ : ∃ w, curWg recordKept = some w := ⟨_, rfl⟩
  obtain ⟨hin, -⟩ := htaking recordKept w 4 0x02 1 0 hw
  obtain ⟨h, hh⟩ : ∃ h, handlerOf recordKept = some h := ⟨_, rfl⟩
  obtain ⟨ht, -⟩ := hin h rfl hh
  have hkept := congrArg (fun t : State => t.c.recD) ht
  have hzero : 0 = recordKept.c.recD := (recD_faultAt rfl hh 4 0x02 1 0).symm.trans hkept
  exact absurd hzero (by decide)

end Sys2Proof.Laws.Checks

/-! ## Special registers (R54, R104, R124, R338, R355, R356) -/

namespace Sys2Proof.Laws.SpecialRegs
open Sys2Proof Sys2Proof.Machine Sys2Proof.Claims Sys2Proof.Laws.Checks

/-! ### sprd (R54, R104, R338) -/

section
variable {s : State} {w : Workgroup} {st : Stage} (hw : curWg s = some w) (hst : curStage s = some st)
include hw hst

theorem sprdValue_specialRegs : ∀ r ∈ specialRegs s w st, ∀ l, sprdValue s r.1 l = r.2 l := by
  simp only [specialRegs, List.forall_mem_cons, List.not_mem_nil, false_implies, implies_true, and_true, sprdValue, hw, hst, Option.map_some, Option.getD_some,
    curIl, curSec, clusterOf, tenField, bit, Nat.mul_comm _ 16, Nat.add_comm (16 * _), true_and]
  intro l
  cases w.cls <;> rfl

omit hst in
theorem sprdValue_handlerRegs : ∀ r ∈ handlerRegs s w, ∀ l, sprdValue s r.1 l = r.2 := by
  have hlane : Fin.ofNat 32 s.c.selLane.toNat = ⟨s.c.selLane.toNat, s.c.selLane.isLt⟩ := Fin.ext (Nat.mod_eq_of_lt s.c.selLane.isLt)
  have hlpc : (s.c.lpc[s.c.selLane.toNat]?).getD 0 = s.c.lpc[s.c.selLane.toNat]'s.c.selLane.isLt := by
    rw [Vector.getElem?_eq_getElem s.c.selLane.isLt, Option.getD_some]
  have hbarN : (s.c.barN[s.c.selLane.toNat]?).getD 0 = s.c.barN[s.c.selLane.toNat]'s.c.selLane.isLt := by
    rw [Vector.getElem?_eq_getElem s.c.selLane.isLt, Option.getD_some]
  have hflag : ∀ (b : Bool) (n : Nat), (if b = true then n else 0) = bit b * n := fun b n => by cases b <;> simp [bit]
  simp only [handlerRegs, List.forall_mem_cons, List.not_mem_nil, false_implies, implies_true, and_true, sprdValue, hw, Option.map_some, Option.getD_some,
    hlpc, laneFlags, hlane, hbarN, hflag, Nat.mul_one, Fin.getElem_fin]

end

theorem sprdFault_specialRegs (s : State) (w : Workgroup) (st : Stage) : ∀ r ∈ specialRegs s w st, sprdFault s.c r.1 = none := by
  simp [specialRegs, sprdFault]

theorem sprdFault_handlerRegs (s : State) (w : Workgroup) : ∀ r ∈ handlerRegs s w, sprdFault s.c r.1 = if s.c.inH then none else some 0x02 := by
  simp [handlerRegs, sprdFault]

theorem kindVec_nil (c : Ctx) (n : Bool) (d : Nat) : kindVec c n d [] = isV d := by
  simp [kindVec]

/-- A lane instruction with an operand that is illegal beyond the general rules raises 0x02 (R50). -/
theorem laneIns_bad {size : Nat} {srcs : List Nat} {n : Bool} {d : Nat} {f : Ctx → Lane → Word} {s : State} (h : LaneIssues s srcs n d) :
    laneIns size false true srcs n d f s = faultAt s size 0x02 (wholeMask s (kindVec s.c n d srcs)) 0 := by
  obtain ⟨hi, hk⟩ := h
  have hill : (false || (kindVec s.c n d srcs && !n && isS d)) = false := by
    cases hv : kindVec s.c n d srcs with
    | false => rfl
    | true => rcases hk hv with h | h <;> simp [h]
  exact issueM_badOperand hill rfl rfl hi rfl

section
variable {s : State} {a d : BitVec 7} {n : Bool} (hp : Plain s {}) (h : LaneIssues s [] n d.toNat)
include hp

theorem plain_legal : (s.c.xp.c != 127 || !modsLegal s.c.xp.e noMods) = false := by
  have := hp.2
  rw [hp.1, show noMods = {} from rfl, this]
  rfl

include h

/-- An index that may be read gives its value in each lane. -/
theorem sprd_reads {v : Lane → Word} (hf : sprdFault s.c a.toNat = none) (hscope : laneScope a.toNat = true → isV d.toNat = true)
    (hv : ∀ l, sprdValue s a.toNat l = v l) : ∃ t, exec (.sprd a n d) s = .next t ∧ LaneDone s t 4 [] n d.toNat v := by
  have hbad : (laneScope a.toNat && !isV d.toNat) = false := by
    cases hl : laneScope a.toNat with
    | false => rfl
    | true => rw [hscope hl]; rfl
  rw [exec_sprd, execSprd, plain_legal hp, hf, hbad]
  exact ⟨_, rfl, done_congr (laneIns_done h) hv⟩

/-- An index that may not be read raises 0x02, and so does one of lane scope with a scalar D. -/
theorem sprd_refuses (hf : sprdFault s.c a.toNat = some 0x02 ∨ sprdFault s.c a.toNat = none ∧ laneScope a.toNat = true ∧ isV d.toNat = false) :
    exec (.sprd a n d) s = .next (faultAt s 4 0x02 (if isV d.toNat then s.c.enabled else s.c.actMask) 0) := by
  have hbad : (sprdFault s.c a.toNat == some 0x02 || (laneScope a.toNat && !isV d.toNat)) = true := by
    rcases hf with hf | ⟨hf, hl, hv⟩
    · rw [hf]; rfl
    · rw [hl, hv, hf]; rfl
  have hill : (sprdFault s.c a.toNat == some 0x01) = false := by
    rcases hf with hf | ⟨hf, _⟩ <;> rw [hf] <;> rfl
  rw [exec_sprd, execSprd, plain_legal hp, hill, hbad, Bool.or_self, laneIns_bad h, kindVec_nil]
  rfl

end

theorem specialRegisterReads : SpecialRegisterReads := by
  intro s w st hw hst hp
  have hscope : ∀ k, laneScope k = true ↔ k = 0 ∨ k = 13 := fun k => by simp [laneScope]
  refine ⟨fun r hr a n d ha h _ hv => ?_, fun r hr a n d ha h h0 h13 => ?_, fun a n d ha hd h => ?_, fun a n d hlo hhi hsup h => ?_, fun r hr a n d ha h => ⟨fun hH => ?_, fun hH => ?_⟩⟩
  · have hf := sprdFault_specialRegs s w st r hr
    refine sprd_reads hp h (ha ▸ hf) (fun _ => hv) ?_
    exact ha ▸ sprdValue_specialRegs hw hst r hr
  · have hf := sprdFault_specialRegs s w st r hr
    refine sprd_reads hp h (ha ▸ hf) (fun hl => ?_) (ha ▸ sprdValue_specialRegs hw hst r hr)
    rcases (hscope _).1 (ha ▸ hl) with h | h
    · exact absurd h h0
    · exact absurd h h13
  · have hf : sprdFault s.c a.toNat = none := by rcases ha with ha | ha <;> rw [ha] <;> rfl
    rw [sprd_refuses hp h (.inr ⟨hf, (hscope _).2 ha, hd⟩), hd]
    rfl
  · refine sprd_refuses hp h (.inl ?_)
    rw [sprdFault, if_neg (by omega), if_neg (by omega), if_neg (by omega), if_neg (by omega), if_pos hhi, hsup]
    rfl
  · refine sprd_reads hp h ?_ (fun hl => ?_) (ha ▸ sprdValue_handlerRegs hw r hr)
    · rw [ha, sprdFault_handlerRegs s w r hr, hH]; rfl
    · have hlo : 16 ≤ r.1 := by
        revert r
        simp [handlerRegs]
      rcases (hscope _).1 hl with h | h <;> omega
  · refine sprd_refuses hp h (.inl ?_)
    rw [ha, sprdFault_handlerRegs s w r hr, hH]
    rfl

/-! ### spwr (R104, R124, R355, R356) -/

section
variable {s : State} {a b : BitVec 7} (hp : Plain s {}) (h : Issues s false [(b.toNat, 1)] []) (hb : s.c.isVec b.toNat = false)
include hp h hb

/-- A write that is allowed, of a value that may stand, changes the context as the index says, under the guard. -/
theorem spwr_writes (hf : spwrFault s.c a.toNat = none) (hv : (s.c.goes && spwrBad s.c a.toNat (s.c.rd b.toNat 0)) = false) :
    exec (.spwr b a) s = .next (retire (if !s.c.goes then s else modC s fun c =>
      if a.toNat = 15 then { c with part := s.c.rd b.toNat 0 }
      else if a.toNat = 53 then { c with selLane := (s.c.rd b.toNat 0).setWidth 5 }
      else writeLane c a.toNat (s.c.rd b.toNat 0)) 4 .empty) := by
  rw [exec_spwr, execSpwr, plain_legal hp, hf, hb, hv]
  exact congrArg _ (issue_eq rfl rfl rfl rfl rfl h)

/-- A write that is not allowed raises 0x02. -/
theorem spwr_refuses (hf : spwrFault s.c a.toNat = some 0x02) : exec (.spwr b a) s = .next (faultAt s 4 0x02 s.c.actMask 0) := by
  rw [exec_spwr, execSpwr, plain_legal hp, hf, hb]
  exact congrArg _ (issueM_badOperand rfl rfl rfl h rfl)

/-- A value that may not stand raises 0x02. -/
theorem spwr_invalid (hf : spwrFault s.c a.toNat = none) (hv : (s.c.goes && spwrBad s.c a.toNat (s.c.rd b.toNat 0)) = true) :
    exec (.spwr b a) s = .next (faultAt s 4 0x02 s.c.actMask 0) := by
  rw [exec_spwr, execSpwr, plain_legal hp, hf, hb, hv]
  exact congrArg _ (issueM_late rfl rfl rfl h rfl rfl)

end

theorem spwrFault_part (c : Ctx) : spwrFault c 15 = none := rfl

theorem spwrFault_lane {c : Ctx} (h : c.inH = true) {k : Nat} (hk : 53 ≤ k ∧ k < 56) : spwrFault c k = none := by
  rw [spwrFault, if_neg (by omega), if_neg (by omega), if_neg (by omega), if_neg (by omega), if_neg (by omega), if_neg (by omega), if_neg]
  simp [h]
  omega

theorem spwrFault_low {c : Ctx} {k : Nat} (h : k < 48) (h15 : k ≠ 15) (h24 : ¬ (24 ≤ k ∧ k < 32)) (h40 : ¬ (40 ≤ k ∧ k < 48)) :
    spwrFault c k = some 0x02 := by
  rw [spwrFault, if_neg h15]
  rcases Nat.lt_or_ge k 24 with hlo | hlo
  · rw [if_pos hlo]
  · rw [if_neg (by omega), if_neg (by omega), if_pos (by omega)]

/-- A change of the context that leaves what completing reads, and then completing. -/
theorem completes_modC {s : State} {f : Ctx → Ctx} {size : Nat} {t0 : Latch} (hr : (f s.c).run = s.c.run) (hd : (f s.c).redo = s.c.redo)
    (hi : (f s.c).icount = s.c.icount) (hs : (f s.c).count.starve = s.c.count.starve) : Completes s (retire (modC s f) size t0) size t0 :=
  completes_retire s _ size t0 hr hd hi hs

theorem partAndSelectionWrites : PartAndSelectionWrites := by
  intro b a s hp h hb
  dsimp only
  refine ⟨fun ha hgo hv => ?_, fun ha hgo hv => ?_, fun ha hgo => ?_, fun ha hH hgo => ?_, fun hlt h15 h24 h40 => ?_⟩
  · have hok : (s.c.goes && spwrBad s.c a.toNat (s.c.rd b.toNat 0)) = false := by
      rw [ha, spwrBad, if_pos rfl, partOk, decide_eq_true hv]
      exact Bool.and_false _
    rw [spwr_writes hp h hb (ha ▸ spwrFault_part s.c) hok, hgo, ha]
    exact ⟨_, rfl, completes_modC rfl rfl rfl rfl, rfl, rfl⟩
  · refine spwr_invalid hp h hb (ha ▸ spwrFault_part s.c) ?_
    rw [hgo, ha, spwrBad, if_pos rfl, partOk, decide_eq_false hv]
    rfl
  · rw [spwr_writes hp h hb (ha ▸ spwrFault_part s.c) (by rw [hgo]; rfl), hgo]
    exact ⟨_, rfl, plain_done s 4⟩
  · have hok : (s.c.goes && spwrBad s.c a.toNat (s.c.rd b.toNat 0)) = false := by
      rw [ha, spwrBad, if_neg (by decide)]
      exact Bool.and_false _
    rw [spwr_writes hp h hb (spwrFault_lane hH (by omega)) hok, hgo, ha]
    exact ⟨_, rfl, completes_modC rfl rfl rfl rfl, rfl, rfl⟩
  · exact spwr_refuses hp h hb (spwrFault_low hlt h15 h24 h40)

/-! ### A handler's write to a lane that waits (R237, R355) -/

/-- A group in a handler, with lane 0 selected, waiting and outside the active mask. -/
def waitingLane : State :=
  modC (Tests.machine 0) fun c => { c with inH := true, waitM := 1, run := { c.run with act := 0 } }

theorem issues_waitingLane : Issues waitingLane false [((97 : BitVec 7).toNat, 1)] [] := Tests.issues_of (by decide +kernel)

/-- The write makes lane 0 live before the instruction counts, so that lane 0 counts as one that starves. -/
theorem starve_waitingLane : ∃ t, exec (.spwr 97 54) waitingLane = .next t ∧ t.c.starve[(0 : Lane)] = 1 := by
  refine ⟨_, exec_spwr .., ?_⟩
  decide +kernel

/-- Refutes O4: its first two parts hold (`specialRegisterReads`, `partAndSelectionWrites`), the third does not. A write of a lane's lpc in a handler ends
the lane's wait before the instruction is counted, so that the lane's starvation count is 1 in `waitingLane`, where `Completes` asks for the count of a
lane that waits, 0. -/
theorem not_specialRegisters : ¬ Obligations.SpecialRegisters := by
  rintro ⟨-, -, hwrites⟩
  obtain ⟨t, he, hdone, -⟩ := hwrites 97 54 waitingLane ⟨rfl, rfl⟩ issues_waitingLane rfl rfl (by decide +kernel) (.inl rfl)
  obtain ⟨u, hu, hone⟩ := starve_waitingLane
  obtain rfl : t = u := Host.Outcome.next.inj (he.symm.trans hu)
  rw [hdone.starve] at hone
  exact absurd hone (by decide +kernel)

end Sys2Proof.Laws.SpecialRegs

/-! ## Evictions of a screed line (R198, R311) -/

namespace Sys2Proof.Laws.MemoryTurns
open Sys2Proof Sys2Proof.Machine Sys2Proof.Laws.Power

/-- The eviction writes the owned word of screed home. -/
theorem l1Eviction_screedOwner :
    ∃ t, exec (.l1Eviction 0 screedLine) screedOwner = .next t ∧ Memory.get t.mem screedFirst ≠ Memory.get screedOwner.mem screedFirst :=
  ⟨_, exec_l1Eviction .., by decide +kernel⟩

/-- Refutes O58: in `screedOwner`, a sound state, core 0 owns a word on a line of screed. As the line is evicted the word goes home, and the byte of screed
under it changes from 0 to 1. -/
theorem not_memorySystemTurns : ¬ Obligations.MemorySystemTurns := by
  intro h
  obtain ⟨-, -, ⟨t, ht, ⟨hscreed, -⟩, -⟩, -⟩ := h 0 0 screedLine 0 0 .lead screedOwner sound_screedOwner
  obtain ⟨u, hu, hne⟩ := l1Eviction_screedOwner
  obtain rfl : t = u := Host.Outcome.next.inj (ht.symm.trans hu)
  exact hne (hscreed screedFirst (by decide))

end Sys2Proof.Laws.MemoryTurns

/-! ## Errors in loaded data (R48, R366) -/

namespace Sys2Proof.Laws.Errors
open Sys2Proof Sys2Proof.Machine

/-- A result under way for s1. -/
def oneResult : Arrival := ⟨97, 1, true, 0, Vector.replicate 32 0, 0, 0, false, false⟩

/-- A workgroup with key 0, whose group stands at the issue stage with a result under way. -/
def keyZero : State := { State.reset with grp := { Group.empty with arr := [oneResult] }, wgs := [{ Tests.workgroup with key := 0 }] }

theorem sound_keyZero : Sound keyZero := Tests.sound_of (by decide +kernel) rfl

/-- Back at the issue stage, a group of workgroup 0 is taken for the mark of an empty stage, which has no results. -/
theorem loadData_keyZero : ∃ t, exec (.uncorrectableEcc (.loadData 0 0 false)) keyZero = .next t ∧ (groupAt t 0 0 .lead).map (·.arr) = some [] :=
  ⟨_, exec_uncorrectableEcc .., by decide +kernel⟩

/-- Refutes O60: the clause on loaded data does not exclude a workgroup of key 0, by which the model marks an empty issue stage. In `keyZero` its group's
result is lost with the group as the error is noted. -/
theorem not_uncorrectableErrors : ¬ Obligations.UncorrectableErrors := by
  intro h
  obtain ⟨-, -, -, -, hwg, -⟩ := h 0 0 0 false keyZero sound_keyZero (by decide +kernel)
  obtain ⟨w, hw⟩ : ∃ w, wgOf keyZero 0 = some w := ⟨_, rfl⟩
  obtain ⟨-, -, -, hload, -⟩ := hwg w hw
  have hil : ilOf keyZero w ≠ 2 := by simp [ilOf, stageOf, pipeOf, keyZero, State.reset]
  obtain ⟨t, ht, -, hat⟩ := hload hil keyZero.grp oneResult [] rfl rfl (by decide +kernel)
  obtain ⟨u, hu, hnone⟩ := loadData_keyZero
  obtain rfl : t = u := Host.Outcome.next.inj (ht.symm.trans hu)
  rw [hat] at hnone
  exact absurd hnone (by simp)

end Sys2Proof.Laws.Errors

/-! ## Barriers at the end of a run (R194, R195, R274) -/

namespace Sys2Proof.Laws.RunEnds
open Sys2Proof Sys2Proof.Machine

/-- The one group of a workgroup, every lane waiting at bar 0. The heddle calls the first word of memory owned by core 0, whose L1 holds only an si copy of it,
of value 7, so that this state is not sound. -/
def copyOwned : State :=
  { modC (Tests.machine 0) fun c => { c with waitM := BitVec.allOnes 32, barM := BitVec.allOnes 32, run := { c.run with act := 0 } } with
      hed := [⟨0, 0, (Vector.replicate 32 WState.H).set 0 (.O 0)⟩]
      l1 := [⟨0, 0, (Vector.replicate 32 L1Word.inv).set 0 (.si 7)⟩] }

theorem selvCloses_copyOwned : SelvCloses copyOwned (named 0 0 0 0) where
  prefix_ := rfl
  inRun := rfl
  group := by decide
  once := by decide +kernel
  legal := by simp [named]
  arrived := by simp [named]
  clean := by simp [named]
  il := by decide +kernel

/-- The group arrives at the bar, which is over at once; the acquire drops the si copy, and the word reads as at home. -/
theorem selv_copyOwned : ∃ t, exec (.selv false 0 0 0 0) copyOwned = .next t ∧ cohRead t 0 1 ≠ cohRead copyOwned 0 1 :=
  ⟨_, exec_selv .., by decide +kernel⟩

/-- What the statement says of the bytes as a group arrives at a bar with all its lanes, which stand at address 0. -/
theorem bytes_of_runEnds (h : Obligations.RunEnds) {s : State} {w : Workgroup} (hs : SelvCloses s (named 0 0 0 0)) (hH : s.c.inH = false) (hlive : s.c.live = 0)
    (hleave : s.c.leave = .none) (hrole : s.grp.role = .lead) (hw : curWg s = some w) (hwalks : s.walks = []) (hq : s.homeQ = []) (hsf : nextSf s = none)
    (hwait : s.c.waitM = BitVec.allOnes 32) (hbar : s.c.barM = BitVec.allOnes 32) (hmig : s.c.migM = 0) (harr : s.c.arrM = 0) (hact : s.c.run.act = 0)
    (hlpc : s.c.lpc = Vector.replicate 32 0) : ∃ t, exec (.selv false 0 0 0 0) s = .next t ∧ ∀ a, cohRead t a 1 = cohRead s a 1 := by
  obtain ⟨-, -, -, -, -, hidle⟩ := h false 0 0 0 0 s
  obtain ⟨hwaits, -⟩ := hidle w hs hH hlive (.inl hleave) hrole hw hwalks hq hsf
  obtain ⟨k, hk, hbars⟩ := hwaits (by rw [hwait]; decide)
  have hstand : k.lpc = Vector.replicate 32 0 := Vector.ext fun i hi => by
    have hlane : k.lpc[i] = _ := hk.lanes ⟨i, hi⟩
    rw [hlane, hact, hlpc, if_neg (by simp)]
    rfl
  obtain ⟨-, harrive⟩ := hbars fun l _ hm => by
    rw [hmig] at hm
    exact absurd hm (by simp)
  obtain ⟨t, ht, hsettle, -⟩ := harrive (by
    rw [hstand, hwait, hbar, harr]
    decide +kernel)
  exact ⟨t, ht, hsettle.bytes⟩

/-- Refutes O28: that no byte changes as a barrier lets its lanes go (`BarriersSettle.bytes`) is asked of states that are not sound as well. In `copyOwned`
the acquire of R194 drops an si copy of a word that the heddle calls owned, and the word reads 0 instead of 7. -/
theorem not_runEnds : ¬ Obligations.RunEnds := by
  intro h
  obtain ⟨w, hw⟩ : ∃ w, curWg copyOwned = some w := ⟨_, rfl⟩
  obtain ⟨t, ht, hbytes⟩ := bytes_of_runEnds h selvCloses_copyOwned rfl (by decide +kernel) rfl rfl hw rfl rfl rfl rfl rfl rfl rfl rfl rfl
  obtain ⟨u, hu, hne⟩ := selv_copyOwned
  obtain rfl : t = u := Host.Outcome.next.inj (ht.symm.trans hu)
  exact hne (hbytes 0)

end Sys2Proof.Laws.RunEnds

/-! ## Transfers, pauses and migration (R38, R45, R267 to R277, R294, R295) -/

namespace Sys2Proof.Laws.Control
open Sys2Proof Sys2Proof.Machine Sys2Proof.Claims Sys2Proof.Laws.Checks

/-! ### Issuing an instruction that ends its run -/

section
variable {s : State} {i : Issue} {m : Mask}

/-- A form that is legal where it stands: not illegal itself, and outside a handler when a handler may not execute it (R353). -/
theorem legalForm (hi : i.ill = false) (hh : i.hdl = true ∨ s.c.inH = false) (h : Issues s i.vec i.srcs i.dsts) : ¬ IllegalForm s i := by
  rintro (hill | ⟨hin, hv | hhdl⟩)
  · exact Bool.false_ne_true (hi.symm.trans hill)
  · exact Bool.false_ne_true ((h.mode hv).symm.trans hin)
  · rcases hh with hh | hout
    · exact Bool.false_ne_true (hhdl.symm.trans hh)
    · exact Bool.false_ne_true (hout.symm.trans hin)

theorem goodOperands (hb : i.bad = false) (h : Issues s i.vec i.srcs i.dsts) : ¬ BadOperands s i := by
  rintro (hbad | ⟨u, hu, hbad⟩ | ⟨u, hu, hbad⟩)
  · exact Bool.false_ne_true (hb.symm.trans hbad)
  · exact Bool.false_ne_true ((h.readable u hu).symm.trans hbad)
  · exact Bool.false_ne_true ((h.writable u hu).symm.trans hbad)

theorem awaitsNone (h : Issues s i.vec i.srcs i.dsts) : ¬ AwaitsRegister s i := by
  rintro ⟨hagain, u, hu, hT, hp⟩
  rcases h.free hagain u hu with ht | hf
  · exact Bool.false_ne_true (hT.symm.trans ht)
  · exact Bool.false_ne_true (hf.symm.trans hp)

theorem closed_of_selv (hselv : selvAt s (s.c.run.pc.toNat + 4) = true) : ¬ OpenTransfer s i :=
  fun ho => Bool.false_ne_true (ho.2.symm.trans hselv)

variable (hi : i.ill = false) (hh : i.hdl = true ∨ s.c.inH = false) (h : Issues s i.vec i.srcs i.dsts)
include hi hh h

/-- A transfer with a SELV after it that meets no other check has its effect. -/
theorem issueM_closed {k : State} (hb : i.bad = false) (hlate : i.late = false) (hselv : selvAt s (s.c.run.pc.toNat + 4) = true) :
    issueM s i m k = k :=
  (faultPriority s k i m).2.2.2.2.2.2 (legalForm hi hh h) (Nat.not_le.2 h.pos) (closed_of_selv hselv) (goodOperands hb h) (awaitsNone h) hlate

theorem not_early : i.early s = false := by
  have hform := mt illegalForm_iff.1 (legalForm hi hh h)
  rw [Issue.early, Bool.eq_false_of_not_eq_true hform, decide_eq_false (Nat.not_le.2 h.pos)]
  rfl

end

/-! ### The starvation counts (R237) -/

/-- Which lanes of the run are live does not matter: their counts begin anew. -/
theorem nextStarve_congr {act live live' : Mask} {starve : Vector Nat 32}
    (h : ∀ l : Lane, act.getLsbD l.val = false → live'.getLsbD l.val = live.getLsbD l.val) :
    nextStarve act live' starve = nextStarve act live starve := by
  unfold nextStarve
  congr 1
  funext l
  cases hl : act.getLsbD l.val with
  | true => rfl
  | false => rw [h l hl]

/-- A change of the lanes of the run alone leaves the counts after the instruction as they are. -/
theorem starve_ofRun {s : State} {c : Ctx} (hrun : c.run = s.c.run) (hredo : c.redo = s.c.redo) (hstarve : c.starve = s.c.starve)
    (hlive : ∀ l : Lane, ofRun s l = false → c.live.getLsbD l.val = s.c.live.getLsbD l.val) : c.count.starve = s.c.count.starve := by
  simp only [Ctx.count, hrun, hredo, hstarve]
  exact nextStarve_congr hlive

/-- Completing over a change of context. -/
theorem completes_modC {s : State} {f : Ctx → Ctx} {size : Nat} (hrun : (f s.c).run = s.c.run) (hredo : (f s.c).redo = s.c.redo)
    (hicount : (f s.c).icount = s.c.icount) (hstarve : (f s.c).starve = s.c.starve)
    (hlive : ∀ l : Lane, ofRun s l = false → (f s.c).live.getLsbD l.val = s.c.live.getLsbD l.val) :
    Completes s (retire (modC s f) size .empty) size .empty :=
  completes_retire s (modC s f) size .empty hrun hredo hicount (starve_ofRun hrun hredo hstarve hlive)

theorem modC_congr {s : State} {f : Ctx → Ctx} {c : Ctx} (h : f s.c = c) : modC s f = modC s fun _ => c := by
  rw [← h]
  rfl

/-! ### The lanes that take a transfer (R269) -/

/-- A mask and the condition that it stands for. -/
def Reads (M : Mask) (cond : Lane → Bool) : Prop := ∀ l : Lane, M.getLsbD l.val = cond l

theorem getLsbD_takers {s : State} {M : Mask} {cond : Lane → Bool} (hM : Reads M cond) (l : Lane) :
    (s.c.takers M).getLsbD l.val = taking s cond l := by
  cases hin : s.c.inH with
  | false => rw [Ctx.takers, taking, hin, if_neg Bool.false_ne_true, if_neg Bool.false_ne_true, BitVec.getLsbD_and, hM l]
  | true =>
    have h0 : M.getLsbD 0 = cond 0 := hM 0
    simp only [Ctx.takers, taking, hin, if_true, h0]
    cases cond 0 with
    | false => simp
    | true =>
      rw [if_pos rfl, Bool.and_true]
      fin_cases l <;> rfl

theorem takers_handler_eq_zero {s : State} {M : Mask} {cond : Lane → Bool} (hM : Reads M cond) (hin : s.c.inH = true) :
    s.c.takers M = 0 ↔ cond 0 = false := by
  have h0 : M.getLsbD 0 = cond 0 := hM 0
  rw [Ctx.takers, if_pos hin, h0]
  cases cond 0 <;> decide

/-- The taking lanes whose targets fail the test of R268. -/
theorem failing_eq {s : State} {M : Mask} {cond : Lane → Bool} {tgt : Lane → Int} (hM : Reads M cond) :
    ((lanesOf (s.c.takers M)).filter fun l => !targetOk s (tgt l)) =
      (List.finRange 32).filter fun l => taking s cond l && !(decide (0 ≤ tgt l) && runEntry s (tgt l).toNat) := by
  rw [lanesOf, List.filter_filter]
  refine List.filter_congr fun l _ => ?_
  rw [getLsbD_takers hM, Bool.and_comm]
  rfl

theorem reads_guard (s : State) : Reads s.c.guard fun l => s.c.guard.getLsbD l.val := fun _ => rfl

theorem reads_branchCond (s : State) (al ng : Bool) (p : BitVec 6) :
    Reads (branchCond s.c al ng p) fun l => al || (s.c.pred p.toNat l != ng) := by
  intro l
  cases al with
  | true => simp only [branchCond, if_true, BitVec.getLsbD_allOnes, l.isLt, decide_true, Bool.true_or]
  | false => cases ng <;> simp [branchCond, Ctx.pred]

/-! ### Transfers -/

/-- The registers that hold the target, when the operands pass, can be read. -/
theorem targetsKnown_of_issues {s : State} {i : Issue} (h : Issues s i.vec i.srcs i.dsts) : targetsKnown s true i = true := by
  simp only [targetsKnown, Bool.true_and, List.all_eq_true, Bool.and_eq_true, Bool.or_eq_true, Bool.not_eq_true']
  intro u hu
  refine ⟨h.readable u hu, ?_⟩
  cases hagain : again s with
  | true => exact .inl (.inl rfl)
  | false => exact (h.free hagain u (List.mem_append_left _ hu)).imp .inr id

/-- The context after a link is written. -/
def linked (c : Ctx) (link : Option Nat) (take : Mask) : Ctx :=
  match link with
  | some v => c.setV v take fun _ => c.fall
  | none => c

theorem setV_frame (c : Ctx) (k : Nat) (m : Mask) (f : Lane → Word) : c.setV k m f = { c with v := (c.setV k m f).v } := by
  rw [Ctx.setV]
  split <;> rfl

theorem linked_frame (c : Ctx) (link : Option Nat) (take : Mask) : linked c link take = { c with v := (linked c link take).v } := by
  cases link with
  | none => rfl
  | some v => exact setV_frame ..

theorem vreg_linked {c : Ctx} {link : Option Nat} {take : Mask} (hlink : ∀ v, link = some v → v < 96) (k : Nat) (l : Lane) :
    (linked c link take).vreg k l = if link = some k ∧ take.getLsbD l.val = true then c.fall else c.vreg k l := by
  cases link with
  | none => simp [linked]
  | some v => simp only [linked, vreg_setV _ _ _ _ _ _ (hlink v rfl), Option.some.injEq, eq_comm]

/-- Where the lanes, or in a handler the handler, go. -/
def departing (s : State) (take : Mask) (tgt : Lane → Int) (c : Ctx) : Ctx :=
  if s.c.inH then { c with leave := .jump (if take = 0 then s.c.fall else BitVec.ofInt 32 (tgt 0)) }
  else { moveLanes c take (fun l => BitVec.ofInt 32 (tgt l)) with leave := .moved }

theorem departing_handler {s : State} (hin : s.c.inH = true) (take : Mask) (tgt : Lane → Int) (c : Ctx) :
    departing s take tgt c = { c with leave := .jump (if take = 0 then s.c.fall else BitVec.ofInt 32 (tgt 0)) } := if_pos hin

theorem departing_lanes {s : State} (hin : s.c.inH = false) (take : Mask) (tgt : Lane → Int) (c : Ctx) :
    departing s take tgt c = { moveLanes c take (fun l => BitVec.ofInt 32 (tgt l)) with leave := .moved } :=
  if_neg (Bool.eq_false_iff.1 hin)

/-- A transfer that passes every check. -/
def transferred (s : State) (take : Mask) (tgt : Lane → Int) (link : Option Nat) : State :=
  retire (modC s fun c => departing s take tgt (linked c link take)) 4 .empty

theorem transfer_passes {s : State} {i : Issue} {m take : Mask} {tgt : Lane → Int} {link : Option Nat} {known : Bool}
    (hno : ((lanesOf take).filter fun l => !targetOk s (tgt l)) = []) :
    transfer s i known m take tgt link = issueM s { i with xfer := true } m (transferred s take tgt link) := by
  rw [transfer, hno]
  simp only [List.isEmpty_nil, Bool.not_true, Bool.and_false, Bool.false_eq_true, if_false]
  cases link <;> rfl

theorem transfer_fails {s : State} {i : Issue} {m take : Mask} {tgt : Lane → Int} {link : Option Nat} {known : Bool} {l : Lane} {rest : List Lane}
    (hfail : ((lanesOf take).filter fun l => !targetOk s (tgt l)) = l :: rest) (hearly : i.early s = false) (hknown : targetsKnown s known i = true) :
    transfer s i known m take tgt link = faultAt s 4 0x04 (laneMask (l :: rest)) (BitVec.ofInt 64 (rest.foldl (fun m k => min m (tgt k)) (tgt l))) := by
  rw [transfer, hfail, hearly, hknown]
  rfl

theorem transferred_handler {s : State} (hin : s.c.inH = true) (take : Mask) (tgt : Lane → Int) (link : Option Nat) :
    transferred s take tgt link = retire (modC s fun _ => { s.c with
      v := (linked s.c link take).v, leave := .jump (if take = 0 then s.c.fall else BitVec.ofInt 32 (tgt 0)) }) 4 .empty := by
  rw [transferred, modC_congr (f := fun c => departing s take tgt (linked c link take))]
  rw [linked_frame, departing_handler hin]

theorem transferred_lanes {s : State} (hin : s.c.inH = false) (take : Mask) (tgt : Lane → Int) (link : Option Nat) :
    transferred s take tgt link = retire (modC s fun _ => { s.c with
      v := (linked s.c link take).v, lpc := (moveLanes s.c take fun l => BitVec.ofInt 32 (tgt l)).lpc, leave := .moved }) 4 .empty := by
  rw [transferred, modC_congr (f := fun c => departing s take tgt (linked c link take))]
  rw [linked_frame, departing_lanes hin]
  rfl

theorem lpc_moveLanes {s : State} (take : Mask) (tgt : Lane → Word) (l : Lane) :
    (moveLanes s.c take tgt).lpc[l] = if take.getLsbD l.val = true then tgt l else if ofRun s l = true then fallThrough s else s.c.lpc[l] :=
  Vector.getElem_ofFn _

/-- The moving of lanes, or of the handler, and the link, and nothing else. -/
structure Transferred (s t : State) (take : Mask) (tgt : Lane → Int) (link : Option Nat) : Prop where
  done   : Completes s t 4 .empty
  memory : SameMemory s t
  frame  : t = { s with grp := { s.grp with c := { counted s t with v := t.c.v, lpc := t.c.lpc, leave := t.c.leave } } }
  v      : t.c.v = (linked s.c link take).v
  moves  : if s.c.inH then t.c.lpc = s.c.lpc ∧ t.c.leave = .jump (if take = 0 then s.c.fall else BitVec.ofInt 32 (tgt 0))
           else t.c.lpc = (moveLanes s.c take fun l => BitVec.ofInt 32 (tgt l)).lpc ∧ t.c.leave = .moved

theorem transferred_done (s : State) (take : Mask) (tgt : Lane → Int) (link : Option Nat) :
    Transferred s (transferred s take tgt link) take tgt link := by
  cases hin : s.c.inH with
  | true =>
    rw [transferred_handler hin]
    exact ⟨completes_modC rfl rfl rfl rfl fun _ _ => rfl, sameMemory_of rfl rfl rfl rfl rfl, rfl, rfl, (if_pos hin).mpr ⟨rfl, rfl⟩⟩
  | false =>
    rw [transferred_lanes hin]
    exact ⟨completes_modC rfl rfl rfl rfl fun _ _ => rfl, sameMemory_of rfl rfl rfl rfl rfl, rfl, rfl,
      (if_neg (Bool.eq_false_iff.1 hin)).mpr ⟨rfl, rfl⟩⟩

/-- A transfer whose operands pass the checks does what the manual says of it (R267 to R271). -/
theorem transfer_form {ins : Instr} {s : State} (i : Issue) {m M : Mask} {cond : Lane → Bool} {tgt : Lane → Int} {link : Option Nat}
    (hexec : exec ins s = .next (transfer s i true m (s.c.takers M) tgt link)) (hM : Reads M cond) (hlink : ∀ v, link = some v → v < 96)
    (hi : i.ill = false) (hb : i.bad = false) (hh : i.hdl = true) (hlate : i.late = false) (hsize : i.size = 4) (h : Issues s i.vec i.srcs i.dsts) :
    TransferForm ins s cond tgt link m := by
  have hpass : (∀ l, taking s cond l = true → 0 ≤ tgt l ∧ runEntry s (tgt l).toNat = true) →
      exec ins s = .next (issueM s { i with xfer := true } m (transferred s (s.c.takers M) tgt link)) := fun hok => by
    rw [hexec, transfer_passes]
    rw [failing_eq hM, List.filter_eq_nil_iff]
    intro l _
    cases ht : taking s cond l with
    | false => simp
    | true => simp [hok l ht]
  refine ⟨fun hok hselv => ?_, fun hok hselv => ?_, fun l rest hfail => ?_⟩
  · rw [hpass hok, issueM_open (legalForm (i := { i with xfer := true }) hi (.inl hh) h) (Nat.not_le.2 h.pos) ⟨rfl, hselv⟩, hsize]
  · obtain ⟨hdone, hmem, hframe, hv, hmoves⟩ := transferred_done s (s.c.takers M) tgt link
    refine ⟨_, ?_, hdone, hmem, hframe, fun k l => ?_, ?_⟩
    · rw [hpass hok, issueM_closed (i := { i with xfer := true }) hi (.inl hh) h hb hlate hselv]
    · rw [← getLsbD_takers hM]
      exact (congrArg (fun r : Vector Lanes 96 => ({ s.c with v := r } : Ctx).vreg k l) hv).trans (vreg_linked hlink k l)
    · cases hin : s.c.inH with
      | true =>
        rw [if_pos hin] at hmoves
        rw [if_pos rfl]
        refine ⟨hmoves.1, hmoves.2.trans ?_⟩
        simp only [takers_handler_eq_zero hM hin]
        cases cond 0 <;> rfl
      | false =>
        rw [if_neg (Bool.eq_false_iff.1 hin)] at hmoves
        rw [if_neg Bool.false_ne_true]
        refine ⟨hmoves.2, fun l => ?_⟩
        rw [hmoves.1, lpc_moveLanes, getLsbD_takers hM]
  · rw [hexec, transfer_fails ((failing_eq hM).trans hfail) (not_early hi (.inl hh) h) (targetsKnown_of_issues h)]
    rfl

/-- The offset of a branch, with its prefix as 42 bits (R38, R268). -/
theorem branchOff_eq (c : Ctx) (i : BitVec 17) :
    c.branchOff i = match c.xpw with
      | none => i.toInt
      | some w => (w ++ i : BitVec 42).toInt := by
  rw [Ctx.branchOff]
  cases c.xpw with
  | none => rfl
  | some w =>
    have happend : (w ++ i : BitVec 42).toNat = w.toNat * 2 ^ 17 + i.toNat := by
      rw [BitVec.toNat_append, ← Nat.shiftLeft_add_eq_or_of_lt i.isLt, Nat.shiftLeft_eq]
    have hw := w.isLt
    have hi := i.isLt
    simp only [sx]
    rw [BitVec.toInt_eq_toNat_cond, happend, Nat.mod_eq_of_lt (by omega)]
    norm_num
    split_ifs <;> omega

/-- A jump through a register that can be its operand. -/
def jumpIssue (a : BitVec 7) (dsts : List (Nat × Nat)) : Issue := { srcs := [(a.toNat, 1)], dsts := dsts }

theorem exec_jmps_of_legal {s : State} {a : BitVec 7} (hc : s.c.xp.c = 127) (he : s.c.xp.e = 0) (ha : s.c.isVec a.toNat = false) :
    exec (.jmps a) s = .next (transfer s (jumpIssue a []) true (s.c.actMask &&& s.c.guard) (s.c.takers s.c.guard) (jumpReg s.c a) none) := by
  simp [execJmps, hc, he, ha, jumpIssue]

theorem exec_ret_of_legal {s : State} {a : BitVec 7} (hc : s.c.xp.c = 127) (he : s.c.xp.e = 0) :
    exec (.ret a) s = .next (transfer s (jumpIssue a []) true (s.c.actMask &&& s.c.guard) (s.c.takers s.c.guard) (jumpReg s.c a) none) := by
  simp [execRet, hc, he, jumpIssue]

theorem exec_calls_of_legal {s : State} {a : BitVec 7} {link : Nat} (hlink : (if s.c.xp.c = 127 then 95 else s.c.xp.c) = link) (he : s.c.xp.e = 0)
    (ha : s.c.isVec a.toNat = false) (hv : isV link = true) :
    exec (.calls a) s =
      .next (transfer s (jumpIssue a [(link, 1)]) true (s.c.actMask &&& s.c.guard) (s.c.takers s.c.guard) (jumpReg s.c a) (some link)) := by
  simp [execCalls, hlink, he, ha, hv, jumpIssue]

/-- The transfers of O27: each is `transfer` with the condition, the targets and the link that the manual names. -/
theorem controlTransfers : ControlTransfers := by
  intro i al ng p a s
  have hbranch : (fun _ : Lane => branchTarget s.c i) = fun _ => (s.c.npc.toNat : Int) + 2 * (match s.c.xpw with
      | none => i.toInt
      | some w => (w ++ i : BitVec 42).toInt) :=
    funext fun _ => congrArg (fun off : Int => (s.c.npc.toNat : Int) + 2 * off) (branchOff_eq s.c i)
  have hnone : ∀ v, (none : Option Nat) = some v → v < 96 := fun _ hv => nomatch hv
  refine ⟨fun h => ?_, fun h => ?_, fun he => ⟨fun hc h => ⟨fun ha => ?_, ?_⟩, fun h ha hv => ?_⟩⟩
  · exact hbranch ▸ transfer_form {} (exec_bra i al ng p s) (reads_branchCond s al ng p) hnone rfl rfl rfl rfl rfl h
  · exact hbranch ▸ transfer_form { dsts := [(95, 1)] } (exec_call i al ng p s) (reads_branchCond s al ng p)
      (fun v hv => Option.some.inj hv ▸ by decide) rfl rfl rfl rfl rfl h
  · exact transfer_form (jumpIssue a []) (exec_jmps_of_legal hc he ha) (reads_guard s) hnone rfl rfl rfl rfl rfl h
  · exact transfer_form (jumpIssue a []) (exec_ret_of_legal hc he) (reads_guard s) hnone rfl rfl rfl rfl rfl h
  · exact transfer_form (jumpIssue a [(_, 1)]) (exec_calls_of_legal rfl he ha hv) (reads_guard s)
      (fun v hl => Option.some.inj hl ▸ of_decide_eq_true hv) rfl rfl rfl rfl rfl h

end Sys2Proof.Laws.Control

/-! ### Lanes that exit, wait or yield (R272 to R276) -/

namespace Sys2Proof.Laws.Control
open Sys2Proof Sys2Proof.Machine Sys2Proof.Claims Sys2Proof.Laws.Checks

/-- No handler may execute a form that names no address (R277). -/
theorem pauseIns_handler {s : State} (hin : s.c.inH = true) (i : Issue) (f : Ctx → Mask → Ctx) :
    pauseIns s i f = faultAt s i.size 0x01 (s.c.actMask &&& s.c.guard) 0 :=
  issueM_illegal (i := { i with xfer := true, hdl := false }) (.inr ⟨hin, .inr rfl⟩)

/-- The mask of the lanes that take a pause, outside a handler. -/
def pausing (s : State) : Mask := wordOf fun l => s.c.run.act.getLsbD l.val && s.c.guard.getLsbD l.val

theorem getLsbD_pausing (s : State) (l : Lane) : (pausing s).getLsbD l.val = (s.c.run.act.getLsbD l.val && s.c.guard.getLsbD l.val) :=
  getLsbD_maskOf _ l

theorem getElem_pausing {α : Type} {s : State} (f g : Lane → α) (l : Lane) :
    (Vector.ofFn fun k => if (pausing s).getLsbD k.val then f k else g k)[l] =
      if (s.c.run.act.getLsbD l.val && s.c.guard.getLsbD l.val) then f l else g l := by
  rw [← getLsbD_pausing]
  exact Vector.getElem_ofFn _

theorem takers_eq_pausing {s : State} (hin : s.c.inH = false) : s.c.takers s.c.guard = pausing s := by
  rw [Ctx.takers, hin, if_neg Bool.false_ne_true]
  refine BitVec.eq_of_getLsbD_eq fun k hk => ?_
  rw [BitVec.getLsbD_and]
  exact (getLsbD_pausing s ⟨k, hk⟩).symm

/-- Where the lanes stand when those of the run stand at the fall-through. -/
def fallen (s : State) : Vector Word 32 := (moveLanes s.c (pausing s) fun _ => s.c.fall).lpc

theorem pauseIns_passes {s : State} {i : Issue} (f : Ctx → Mask → Ctx) (hin : s.c.inH = false) (hi : i.ill = false) (hb : i.bad = false)
    (hlate : i.late = false) (h : Issues s i.vec i.srcs i.dsts) (hselv : selvAt s (s.c.run.pc.toNat + 4) = true) :
    pauseIns s i f = retire (modC s fun _ => f { s.c with lpc := fallen s, leave := .moved } (pausing s)) 4 .empty := by
  have hfallen : { moveLanes s.c (pausing s) fun _ => s.c.fall with leave := .moved } = { s.c with lpc := fallen s, leave := .moved } := by
    rw [fallen, moveLanes]
  rw [pauseIns, issueM_closed (i := { i with xfer := true, hdl := false }) hi (.inr hin) h hb hlate hselv]
  refine congrArg (retire · 4 .empty) (modC_congr ?_)
  rw [takers_eq_pausing hin, hfallen]

/-- Lanes that are of the run and stand in the masks of a context where they did not change nothing for the others. -/
theorem live_or_pausing {s : State} {c : Ctx} (hofRun : ∀ l : Lane, (s.c.run.act.getLsbD l.val && s.c.guard.getLsbD l.val) = true → ofRun s l = true)
    (hexit : c.exitM = s.c.exitM ∨ c.exitM = s.c.exitM ||| pausing s) (hwait : c.waitM = s.c.waitM ∨ c.waitM = s.c.waitM ||| pausing s)
    (hpark : c.parkM = s.c.parkM) (l : Lane) (hl : ofRun s l = false) : c.live.getLsbD l.val = s.c.live.getLsbD l.val := by
  have hnot : (pausing s).getLsbD l.val = false := by
    rw [getLsbD_pausing]
    exact Bool.eq_false_of_not_eq_true fun ht => Bool.false_ne_true (hl.symm.trans (hofRun l ht))
  have hor : ∀ m : Mask, (m ||| pausing s).getLsbD l.val = m.getLsbD l.val := fun m => by rw [BitVec.getLsbD_or, hnot, Bool.or_false]
  have he : c.exitM.getLsbD l.val = s.c.exitM.getLsbD l.val := by
    rcases hexit with h | h <;> rw [h]
    exact hor _
  have hw : c.waitM.getLsbD l.val = s.c.waitM.getLsbD l.val := by
    rcases hwait with h | h <;> rw [h]
    exact hor _
  simp only [Ctx.live, BitVec.getLsbD_not, BitVec.getLsbD_or, he, hw, hpark]

theorem lpc_fallen {s : State} (hofRun : ∀ l : Lane, (s.c.run.act.getLsbD l.val && s.c.guard.getLsbD l.val) = true → ofRun s l = true) (l : Lane) :
    (fallen s)[l] = if ofRun s l then fallThrough s else s.c.lpc[l] := by
  rw [fallen, lpc_moveLanes, getLsbD_pausing]
  split
  · rw [if_pos (hofRun l ‹_›)]
    rfl
  · rfl

/-- The lanes of an instruction that pauses them have paused: nothing changes but what completing changes, where the lanes stand and what they wait for. -/
def Paused (s : State) (i : Instr) (f : State → Prop) : Prop :=
  ∃ t, exec i s = .next t ∧ Completes s t 4 .empty ∧ SameMemory s t ∧ f t ∧
    t = { s with grp := { s.grp with
                            c := { counted s t with
                              lpc := t.c.lpc
                              exitM := t.c.exitM
                              waitM := t.c.waitM
                              barM := t.c.barM
                              barN := t.c.barN
                              barA := t.c.barA
                              leave := t.c.leave } } }

/-- A context that differs from the one before in what the pauses change. -/
def PauseOf (s : State) (c : Ctx) : Prop :=
  c = { s.c with lpc := c.lpc, exitM := c.exitM, waitM := c.waitM, barM := c.barM, barN := c.barN, barA := c.barA, leave := c.leave }

/-- What the pauses speak of, in a state and in a context. -/
structure Leaves (t : State) (c : Ctx) : Prop where
  lpc   : t.c.lpc = c.lpc
  exitM : t.c.exitM = c.exitM
  waitM : t.c.waitM = c.waitM
  barM  : t.c.barM = c.barM
  barN  : t.c.barN = c.barN
  barA  : t.c.barA = c.barA
  leave : t.c.leave = c.leave

theorem leaves_retire (s : State) (c : Ctx) : Leaves (retire (modC s fun _ => c) 4 .empty) c := by
  constructor <;> simp

theorem paused_of_pauseIns {s : State} {ins : Instr} {i : Issue} {g : Ctx → Mask → Ctx} {f : State → Prop} (hexec : exec ins s = .next (pauseIns s i g))
    (hin : s.c.inH = false) (hi : i.ill = false) (hb : i.bad = false) (hlate : i.late = false) (h : Issues s i.vec i.srcs i.dsts)
    (hselv : selvAt s (s.c.run.pc.toNat + 4) = true) (hc : PauseOf s (g { s.c with lpc := fallen s, leave := .moved } (pausing s)))
    (hlive : ∀ l : Lane, ofRun s l = false →
      (g { s.c with lpc := fallen s, leave := .moved } (pausing s)).live.getLsbD l.val = s.c.live.getLsbD l.val)
    (hf : ∀ t, Leaves t (g { s.c with lpc := fallen s, leave := .moved } (pausing s)) → f t) : Paused s ins f := by
  refine ⟨_, hexec.trans (congrArg _ (pauseIns_passes g hin hi hb hlate h hselv)), completes_modC ?_ ?_ ?_ ?_ hlive,
    sameMemory_of rfl rfl rfl rfl rfl, hf _ (leaves_retire s _), ?_⟩
  all_goals rw [hc]
  all_goals rfl

section
variable {s : State} (hin : s.c.inH = false) (hlegal : (s.c.xp.c != 127 || s.c.xp.e != 0) = false) (h : Issues s false [] [])
    (hselv : selvAt s (s.c.run.pc.toNat + 4) = true)
    (hofRun : ∀ l : Lane, (s.c.run.act.getLsbD l.val && s.c.guard.getLsbD l.val) = true → ofRun s l = true)
include hin hlegal hselv hofRun

section
include h

theorem exit_pauses : Paused s .exit fun t => t.c.exitM = s.c.exitM ||| pausing s ∧ t.c.waitM = s.c.waitM ∧ t.c.barM = s.c.barM ∧ t.c.barN = s.c.barN ∧
    t.c.barA = s.c.barA ∧ t.c.leave = .moved ∧
    ∀ l : Lane, t.c.lpc[l] = if (s.c.run.act.getLsbD l.val && s.c.guard.getLsbD l.val) then s.c.lpc[l] else if ofRun s l then fallThrough s else s.c.lpc[l] := by
  refine paused_of_pauseIns (exec_exit s) hin hlegal rfl rfl h hselv rfl
    (live_or_pausing hofRun (.inr rfl) (.inl rfl) rfl)
    fun t ht => ⟨ht.exitM, ht.waitM, ht.barM, ht.barN, ht.barA, ht.leave, fun l => ?_⟩
  exact (congrArg (·[l]) ht.lpc).trans ((getElem_pausing _ _ l).trans (congrArg (ite _ _) (lpc_fallen hofRun l)))

theorem knot_pauses : Paused s .knot fun t => t.c.exitM = s.c.exitM ∧ t.c.waitM = s.c.waitM ||| pausing s ∧ t.c.barM = s.c.barM ∧ t.c.barN = s.c.barN ∧
    t.c.barA = s.c.barA ∧ t.c.leave = .moved ∧ ∀ l : Lane, t.c.lpc[l] = if ofRun s l then fallThrough s else s.c.lpc[l] :=
  paused_of_pauseIns (exec_knot s) hin hlegal rfl rfl h hselv rfl
    (live_or_pausing hofRun (.inl rfl) (.inr rfl) rfl) 
    fun t ht => ⟨ht.exitM, ht.waitM, ht.barM, ht.barN, ht.barA, ht.leave, fun l => (congrArg (·[l]) ht.lpc).trans (lpc_fallen hofRun l)⟩

theorem yield_pauses : Paused s .yield fun t =>
    (t.c.exitM = s.c.exitM ∧ t.c.waitM = s.c.waitM ∧ t.c.barM = s.c.barM ∧ t.c.barN = s.c.barN ∧ t.c.barA = s.c.barA) ∧
    t.c.leave = (if pausing s = 0 then .moved else .yielded) ∧ ∀ l : Lane, t.c.lpc[l] = if ofRun s l then fallThrough s else s.c.lpc[l] := by
  have hyield : ∀ c : Ctx, c.leave = .moved →
      (if pausing s = 0 then c else { c with leave := .yielded }) = { c with leave := if pausing s = 0 then .moved else .yielded } := by
    intro c hc
    split
    · rw [← hc]
    · rfl
  refine paused_of_pauseIns (exec_yield s) hin hlegal rfl rfl h hselv ?_ ?_ ?_
  all_goals rw [hyield _ rfl]
  · rfl
  · exact live_or_pausing hofRun (.inl rfl) (.inl rfl) rfl
  · exact fun t ht => ⟨⟨ht.exitM, ht.waitM, ht.barM, ht.barN, ht.barA⟩, ht.leave, fun l => (congrArg (·[l]) ht.lpc).trans (lpc_fallen hofRun l)⟩

end

theorem bar_pauses {b a : BitVec 7} (hb : b.toNat < 16) (ha : s.c.isVec a.toNat = false) (h : Issues s false [(a.toNat, 1)] []) :
    Paused s (.bar b a) fun t => t.c.exitM = s.c.exitM ∧ t.c.waitM = s.c.waitM ||| pausing s ∧ t.c.barM = s.c.barM ||| pausing s ∧ t.c.leave = .moved ∧
      (∀ l : Lane, t.c.lpc[l] = if ofRun s l then fallThrough s else s.c.lpc[l]) ∧
      ∀ l : Lane, t.c.barN[l] = (if (s.c.run.act.getLsbD l.val && s.c.guard.getLsbD l.val) then BitVec.ofNat 4 b.toNat else s.c.barN[l]) ∧
        t.c.barA[l] = if (s.c.run.act.getLsbD l.val && s.c.guard.getLsbD l.val) then s.c.rd a.toNat (lowest s.c.run.act) else s.c.barA[l] := by
  have hnumber : (s.c.xp.c != 127 || s.c.xp.e != 0 || decide (15 < b.toNat)) = false := by
    rw [hlegal, decide_eq_false (by omega)]
    rfl
  refine paused_of_pauseIns (exec_bar b a s) hin hnumber ha rfl h hselv rfl
    (live_or_pausing hofRun (.inl rfl) (.inr rfl) rfl) 
    fun t ht => ⟨ht.exitM, ht.waitM, ht.barM, ht.leave, fun l => (congrArg (·[l]) ht.lpc).trans (lpc_fallen hofRun l), fun l =>
      ⟨(congrArg (·[l]) ht.barN).trans (getElem_pausing _ _ l), (congrArg (·[l]) ht.barA).trans (getElem_pausing _ _ l)⟩⟩

end

/-- The pauses, nop and the prefix of O27. -/
theorem pausesAndPrefixes : PausesAndPrefixes := by
  intro b a x s h
  refine ⟨fun hx => ?_, fun hx => ?_, fun hc he => ?_⟩
  · rw [exec_xp, execXp, hx]
    rfl
  · rw [exec_xp, execXp, if_pos (Option.isSome_iff_ne_none.2 hx)]
  have hlegal : (s.c.xp.c != 127 || s.c.xp.e != 0) = false := by simp [hc, he]
  refine ⟨⟨_, (exec_nop s).trans (congrArg Host.Outcome.next (issue_eq (i := { ill := _ }) hlegal rfl rfl rfl rfl h)), plain_done s 4⟩, fun hin => ?_, fun hin hofRun hselv => ?_⟩
  · exact ⟨(exec_exit s).trans (congrArg Host.Outcome.next (pauseIns_handler hin _ _)), (exec_knot s).trans (congrArg Host.Outcome.next (pauseIns_handler hin _ _)),
      (exec_yield s).trans (congrArg Host.Outcome.next (pauseIns_handler hin _ _)), (exec_bar b a s).trans (congrArg Host.Outcome.next (pauseIns_handler hin _ _))⟩
  · exact ⟨exit_pauses hin hlegal h hselv hofRun, knot_pauses hin hlegal h hselv hofRun, yield_pauses hin hlegal h hselv hofRun,
      fun hb hbar ha => bar_pauses hin hlegal hselv hofRun hb ha hbar⟩

/-- Settles O27: transfers are one model function, and so are pauses. -/
theorem controlAndPauses : Obligations.ControlAndPauses := ⟨controlTransfers, pausesAndPrefixes⟩

/-! ### mig (R259, R294, R295) -/

/-- What the checks of R50 ask of a mig whose prefix and operands are legal, with its pick point if there is one. -/
def migIssue (d : BitVec 7) (pick : Option PickRec) : Issue := { bad := pick.isNone, xfer := true, dsts := [(d.toNat, 1)], hdl := false }

/-- Where the lanes stand when those of the active mask stand at a pick point. -/
def atPick (s : State) (r : PickRec) : Vector Word 32 :=
  Vector.ofFn fun l => if s.c.run.act.getLsbD l.val then r.pc else if ofRun s l then s.c.fall else s.c.lpc[l]

/-- What the waiting lanes named. -/
def migNamed (s : State) (cls : CoreClass) (i d : BitVec 7) : Vector MigWait 32 :=
  Vector.ofFn fun l => if s.c.run.act.getLsbD l.val then ⟨(immOf s i).toNat, cls, d.toNat, s.c.npc⟩ else s.c.migW[l]

/-- The context in which the lanes of the active mask wait at a pick point. -/
def migWaits (s : State) (cls : CoreClass) (i d : BitVec 7) (r : PickRec) : Ctx :=
  { s.c with waitM := s.c.waitM ||| s.c.run.act, migM := s.c.migM ||| s.c.run.act, leave := .moved, lpc := atPick s r, migW := migNamed s cls i d }

theorem migIssue_not_early {s : State} {d : BitVec 7} (hin : s.c.inH = false) (h : Issues s false [] [(d.toNat, 1)]) (pick : Option PickRec) :
    (migIssue d pick).early s = false :=
  not_early (i := migIssue d pick) rfl (.inr hin) h

section
variable {s : State} {w : Workgroup} (cls : CoreClass) {i d : BitVec 7} (hw : curWg s = some w) (hc : s.c.xp.c = 127) (hg : s.c.xp.g = 127)
    (hi : 0 ≤ immOf s i) (hd : isV d.toNat = false)
include hw hc hg hi hd

/-- A mig by its pick point: one that is no run entry is the fault of a bad target (R45, R46). -/
theorem migIns_eq {pick : Option PickRec} (hpick : pickRec s w (immOf s i).toNat = pick) : migIns cls i d s =
    .next (match if (migIssue d pick).early s then none else pick.filter fun p => !runEntry s p.pc.toNat with
      | some p => faultAt s 4 0x04 s.c.actMask (p.pc.setWidth 64)
      | none => issueM s (migIssue d pick) s.c.actMask (retire (modC s fun c => { c with
          waitM := c.waitM ||| c.run.act, migM := c.migM ||| c.run.act, leave := .moved
          lpc := Vector.ofFn fun l => if c.run.act.getLsbD l.val then (pick.map (·.pc)).getD 0
            else if (c.redo.getD c.run.act).getLsbD l.val then c.fall else c.lpc[l]
          migW := Vector.ofFn fun l => if c.run.act.getLsbD l.val then ⟨(immOf s i).toNat, cls, d.toNat, s.c.npc⟩ else c.migW[l] }) 4 .empty)) := by
  have hill : (s.c.xp.c != 127 || s.c.xp.g != 127 || decide (immOf s i < 0) || isV d.toNat) = false := by simp [hc, hg, hd, hi]
  simp only [migIns, imm_eq, hw, Option.bind_some, hpick, hill]
  rfl

variable (hin : s.c.inH = false) (h : Issues s false [] [(d.toNat, 1)])
include hin h

theorem migIns_unknown (hselv : selvAt s (s.c.run.pc.toNat + 4) = true) (hpick : pickRec s w (immOf s i).toNat = none) :
    migIns cls i d s = .next (faultAt s 4 0x02 s.c.actMask 0) := by
  rw [migIns_eq cls hw hc hg hi hd hpick, migIssue_not_early hin h]
  exact congrArg Host.Outcome.next (issueM_bad (i := migIssue d none) (legalForm (i := migIssue d none) rfl (.inr hin) h) (Nat.not_le.2 h.pos)
    (closed_of_selv hselv) (.inl rfl))

theorem migIns_badEntry {r : PickRec} (hpick : pickRec s w (immOf s i).toNat = some r) (hentry : runEntry s r.pc.toNat = false) :
    migIns cls i d s = .next (faultAt s 4 0x04 s.c.actMask (r.pc.setWidth 64)) := by
  rw [migIns_eq cls hw hc hg hi hd hpick, migIssue_not_early hin h, if_neg Bool.false_ne_true,
    Option.filter_some_pos (by rw [hentry]; rfl)]

theorem migIns_waits {r : PickRec} (hselv : selvAt s (s.c.run.pc.toNat + 4) = true) (hpick : pickRec s w (immOf s i).toNat = some r)
    (hentry : runEntry s r.pc.toNat = true) : migIns cls i d s = .next (retire (modC s fun _ => migWaits s cls i d r) 4 .empty) := by
  rw [migIns_eq cls hw hc hg hi hd hpick, migIssue_not_early hin h, if_neg Bool.false_ne_true,
    Option.filter_some_neg (by rw [hentry]; rfl)]
  exact congrArg Host.Outcome.next (issueM_closed (i := migIssue d (some r)) rfl (.inr hin) h rfl rfl hselv)

end

/-- A mig has completed: the lanes of the active mask wait at their pick point, with what they named. -/
structure MigWaits (s t : State) (cls : CoreClass) (i d : BitVec 7) (r : PickRec) : Prop where
  done   : Completes s t 4 .empty
  memory : SameMemory s t
  waitM  : t.c.waitM = s.c.waitM ||| s.c.run.act
  migM   : t.c.migM = s.c.migM ||| s.c.run.act
  leave  : t.c.leave = .moved
  lpc    : t.c.lpc = atPick s r
  migW   : t.c.migW = migNamed s cls i d
  frame  : t = { s with grp := { s.grp with
                                  c := { counted s t with lpc := t.c.lpc, waitM := t.c.waitM, migM := t.c.migM, migW := t.c.migW, leave := t.c.leave } } }

/-- What completing changes over lanes that wait at a pick point. -/
theorem frame_migWaits (s : State) (waitM migM : Mask) (leave : Leave) (lpc : Vector Word 32) (migW : Vector MigWait 32) :
    let t := retire (modC s fun _ => { s.c with waitM := waitM, migM := migM, leave := leave, lpc := lpc, migW := migW }) 4 .empty
    t = { s with grp := { s.grp with
                            c := { counted s t with lpc := t.c.lpc, waitM := t.c.waitM, migM := t.c.migM, migW := t.c.migW, leave := t.c.leave } } } :=
  rfl

theorem migWaits_done {s : State} (hofRun : ∀ l : Lane, s.c.run.act.getLsbD l.val = true → ofRun s l = true) (cls : CoreClass) (i d : BitVec 7)
    (r : PickRec) : MigWaits s (retire (modC s fun _ => migWaits s cls i d r) 4 .empty) cls i d r := by
  have hlive : ∀ l : Lane, ofRun s l = false → (migWaits s cls i d r).live.getLsbD l.val = s.c.live.getLsbD l.val := by
    intro l hl
    have hact : s.c.run.act.getLsbD l.val = false := Bool.eq_false_of_not_eq_true fun ht => Bool.false_ne_true (hl.symm.trans (hofRun l ht))
    simp only [Ctx.live, migWaits, BitVec.getLsbD_not, BitVec.getLsbD_or, hact, Bool.or_false]
  rw [migWaits] at hlive ⊢
  refine ⟨completes_modC rfl rfl rfl rfl hlive, sameMemory_of ?_ ?_ ?_ ?_ ?_, ?_, ?_, ?_, ?_, ?_, frame_migWaits ..⟩
  all_goals simp

/-- Settles O29: `migIns` by its pick point. -/
theorem migrationInstructions : Obligations.MigrationInstructions := by
  intro i d s w p hw hp hc hg hi hd hin h hofRun hselv found m hm
  have hpick : pickRec s w (immOf s i).toNat = found := by
    rw [pickRec, hp]
    rfl
  have hexec : exec m.1 s = migIns m.2 i d s := by
    rcases List.mem_cons.1 hm with rfl | hm
    · exact exec_migShuttle i d s
    · rw [List.mem_singleton.1 hm]
      exact exec_migBeam i d s
  rw [hexec]
  refine ⟨fun hfound => migIns_unknown m.2 hw hc hg hi hd hin h hselv (hpick.trans hfound),
    fun r hfound hentry => migIns_badEntry m.2 hw hc hg hi hd hin h (hpick.trans hfound) hentry, fun r hfound hentry => ?_⟩
  obtain ⟨hdone, hmem, hwait, hmig, hleave, hlpc, hnamed, hframe⟩ := migWaits_done hofRun m.2 i d r
  exact ⟨_, migIns_waits m.2 hw hc hg hi hd hin h hselv (hpick.trans hfound) hentry, hdone, hmem, hwait, hmig, hleave,
    fun l => ⟨(congrArg (·[l]) hlpc).trans (Vector.getElem_ofFn _), (congrArg (·[l]) hnamed).trans (Vector.getElem_ofFn _)⟩, hframe⟩

end Sys2Proof.Laws.Control

/-! ## A core's turn (R29, R30, R43, R44, R235, R346, R362, R375) -/

/-! ### Fetching and decoding (R29, R30) -/

namespace Sys2Proof.Laws.Fetching
open Sys2Proof Sys2Proof.Machine Sys2Proof.Claims

theorem leBytes_halves (lo hi : Half) : leBytes 2 lo.toNat ++ leBytes 2 hi.toNat = leBytes 4 (hi ++ lo : Word).toNat := by
  have hnat : (hi ++ lo : Word).toNat = hi.toNat * 65536 + lo.toNat := by
    rw [BitVec.toNat_append, ← Nat.shiftLeft_add_eq_or_of_lt lo.isLt, Nat.shiftLeft_eq]
  have hlo := lo.isLt
  have byte : ∀ x y : Nat, x % 256 = y % 256 → BitVec.ofNat 8 x = BitVec.ofNat 8 y := fun x y h =>
    BitVec.eq_of_toNat_eq (by rwa [BitVec.toNat_ofNat, BitVec.toNat_ofNat])
  rw [hnat]
  simp only [leBytes, List.cons_append, List.nil_append, List.cons.injEq, and_true]
  exact ⟨byte _ _ (by omega), byte _ _ (by omega), byte _ _ (by omega), byte _ _ (by omega)⟩

/-- The word of two halfwords, the first of which has its length bit set. -/
theorem frontCode_halves {lo : Half} (h : lo.toNat % 2 = 1) (hi : Half) :
    frontCode (leBytes 2 lo.toNat ++ leBytes 2 hi.toNat) = some (.word (hi ++ lo)) := by
  have hodd : (hi ++ lo : Word).toNat % 2 = 1 := by
    rw [BitVec.toNat_append, ← Nat.shiftLeft_add_eq_or_of_lt lo.isLt, Nat.shiftLeft_eq]
    omega
  rw [leBytes_halves, ← List.append_nil (leBytes 4 _)]
  exact RoundTrip.frontCode_word _ hodd []

theorem frontCode_first {lo : Half} (h : lo.toNat % 2 = 0) : frontCode (leBytes 2 lo.toNat) = some (.half lo) := by
  rw [← List.append_nil (leBytes 2 _)]
  exact RoundTrip.frontCode_half lo h []

theorem decodeCode_of_decode {bs : List Byte} {c : Code} {i : Instr} {n : Nat} (hc : frontCode bs = some c) (h : decode bs = .ok (i, n)) :
    decodeCode c = .ok i := by
  rw [decode, hc] at h
  cases hd : decodeCode c with
  | error e => simp [hd] at h
  | ok j =>
    simp only [hd, Except.ok.injEq, Prod.mk.injEq] at h
    rw [h.1]

theorem refused_of_decode {bs : List Byte} {c : Code} {e : DecodeError} (hc : frontCode bs = some c) (h : decode bs = .error e) :
    decodeCode c = .error e := by
  rw [decode, hc] at h
  cases hd : decodeCode c with
  | error e' =>
    simp only [hd, Except.error.injEq] at h
    rw [h]
  | ok j => simp [hd] at h

section
variable {v : State} {lo hi : Half}

theorem fetchCode_half (hlo : fetchHalf v v.c.run.pc.toNat = some lo) (h : lo.toNat % 2 = 0) : fetchCode v v.c.run.pc.toNat = .ok (.half lo) := by
  rw [fetchCode, hlo]
  exact if_pos h

theorem fetchCode_word (hlo : fetchHalf v v.c.run.pc.toNat = some lo) (h : lo.toNat % 2 = 1) (hhi : fetchHalf v (v.c.run.pc.toNat + 2) = some hi) :
    fetchCode v v.c.run.pc.toNat = .ok (.word (hi ++ lo)) := by
  rw [fetchCode, hlo, hhi]
  exact if_neg (by omega)

theorem fetchCode_cut (hlo : fetchHalf v v.c.run.pc.toNat = some lo) (h : lo.toNat % 2 = 1) (hhi : fetchHalf v (v.c.run.pc.toNat + 2) = none) :
    fetchCode v v.c.run.pc.toNat = .error (v.c.run.pc.toNat + 2) := by
  rw [fetchCode, hlo, hhi]
  exact if_neg (by omega)

theorem fetchCode_outside (h : fetchHalf v v.c.run.pc.toNat = none) : fetchCode v v.c.run.pc.toNat = .error v.c.run.pc.toNat := by
  rw [fetchCode, h]

theorem fetched_of_decodes {c : Code} {i : Instr} (hc : fetchCode v v.c.run.pc.toNat = .ok c) (h : decodeCode c = .ok i) : fetched v = .ok i := by
  rw [fetched, hc]
  simp only [h]

theorem fetched_refused {c : Code} {e : DecodeError} (hc : fetchCode v v.c.run.pc.toNat = .ok c) (h : decodeCode c = .error e) :
    fetched v = .error (faultAt v c.size 0x01 (refusedMask v.c c) 0) := by
  rw [fetched, hc]
  simp only [h]

theorem fetched_outside {a : Nat} (hc : fetchCode v v.c.run.pc.toNat = .error a) :
    fetched v = .error (faultAt v 4 0x01 v.c.actMask (BitVec.ofNat 64 a)) := by
  rw [fetched, hc]

/-- Bytes that decode to an instruction are fetched as it. -/
theorem fetched_of_fetches {i : Instr} (h : Fetches v i) : fetched v = .ok i := by
  obtain ⟨lo, hlo, ⟨heven, hd⟩ | ⟨hi, hodd, hhi, hd⟩⟩ := h
  · exact fetched_of_decodes (fetchCode_half hlo heven) (decodeCode_of_decode (frontCode_first heven) hd)
  · exact fetched_of_decodes (fetchCode_word hlo hodd hhi) (decodeCode_of_decode (frontCode_halves hodd hi) hd)

end

end Sys2Proof.Laws.Fetching

/-! ### What translating the code for its fetch changes (R310, R315) -/

namespace Sys2Proof.Laws.Fetching
open Sys2Proof Sys2Proof.Machine Sys2Proof.Claims Sys2Proof.Laws.Bytes

/-- A translation: a step of the memory system that moves no byte, counts L2 hits at most in the partitions and takes no value early. -/
structure Translation (s t : State) : Prop where
  rest  : memFree t = memFree s
  moved : Coherent s → Moved s t
  parts : ∀ p, noHits (part t p) = noHits (part s p)
  early : t.early = s.early

theorem translation_refl (s : State) : Translation s s := ⟨rfl, moved_refl, fun _ => rfl, rfl⟩

theorem Translation.trans {s t u : State} (h1 : Translation s t) (h2 : Translation t u) : Translation s u :=
  ⟨h2.rest.trans h1.rest, fun h => (h1.moved h).trans (h2.moved (coherent_of_moved (h1.moved h))), fun p => (h2.parts p).trans (h1.parts p),
    h2.early.trans h1.early⟩

/-- Another set of cached translations. -/
theorem translation_tlb (s : State) (tlb : List TlbEnt) : Translation s { s with tlb := tlb } :=
  ⟨rfl, fun h => moved_of_same h rfl rfl rfl, fun _ => rfl, rfl⟩

/-! #### The counts of L2 hits -/

/-- A count of hits leaves everything else of its partition as it was. -/
theorem noHits_countHit (q : Partition) (t : Fin 9) :
    noHits { q with tenants := q.tenants.set t { q.tenants[t] with hitx := (q.tenants[t]).hitx + 1 } } = noHits q := by
  simp only [noHits]
  congr 1
  refine Vector.ext fun i hi => ?_
  simp only [Vector.getElem_map, Vector.getElem_set]
  split
  next h => simp [← h]
  next => rfl

theorem noHits_part_countHit (s : State) (x : Fin 8 × Fin 9) (p : Fin 8) :
    noHits (part (setTenant s x.1 x.2 fun t => { t with hitx := t.hitx + 1 }) p) = noHits (part s p) := by
  simp only [part, setTenant, setPart, Fin.getElem_fin, Vector.getElem_set]
  split
  next h =>
    have hp : x.1 = p := Fin.ext h
    rw [← hp]
    exact noHits_countHit _ _
  next => rfl

theorem parts_early_of_onlyWords {s t : State} (h : OnlyWords s t) : t.parts = s.parts ∧ t.early = s.early := by
  obtain ⟨_, _, _, rfl⟩ := h
  exact ⟨rfl, rfl⟩

/-- What an L2 touch leaves of the partitions and of the values taken early. -/
def LeavesParts (s t : State) : Prop := (∀ p, noHits (part t p) = noHits (part s p)) ∧ t.early = s.early

theorem leavesParts_of_same {s t : State} (h1 : t.parts = s.parts) (h2 : t.early = s.early) : LeavesParts s t :=
  ⟨fun p => by rw [part, part, h1], h2⟩

theorem leavesParts_l2Touch (s : State) (q : Req) (line : Nat) : LeavesParts s (l2Touch s q line) := by
  unfold l2Touch
  split
  next => exact leavesParts_of_same rfl rfl
  next t _ =>
    dsimp only
    split
    next l _ =>
      split
      next => exact leavesParts_of_same rfl rfl
      next => exact ⟨fun p => noHits_part_countHit _ t p, rfl⟩
    next =>
      split
      next w _ =>
        split
        next => split <;> exact leavesParts_of_same rfl rfl
        next => exact leavesParts_of_same rfl rfl
      next =>
        split
        next => exact leavesParts_of_same rfl rfl
        next =>
          split
          next v _ =>
            have hsame := parts_early_of_onlyWords (onlyWords_revokeLine { s with fresh := s.fresh + 1 } v.line)
            generalize revokeLine _ v.line = t at hsame ⊢
            exact leavesParts_of_same hsame.1 hsame.2
          next => exact leavesParts_of_same rfl rfl

/-! #### Walks and lookups -/

theorem translation_l2Touch (s : State) (q : Req) (line : Nat) : Translation s (l2Touch s q line) := by
  obtain ⟨hparts, hearly⟩ := leavesParts_l2Touch s q line
  exact ⟨memFree_l2Touch s q line, fun h => moved_l2Touch h q line, hparts, hearly⟩

theorem translation_walkFrom (q : Req) (sec : Bool) (va : Nat) (ls : List (Nat × Nat)) (s : State) (table : Nat) :
    Translation s (walkFrom s q sec va ls table).1 := by
  induction ls generalizing s table with
  | nil => exact translation_refl s
  | cons l ls ih =>
    obtain ⟨lo, n⟩ := l
    have htouch := translation_l2Touch s { q with core := none } (lineOf (table + va / 2 ^ lo % n * 8))
    unfold walkFrom
    dsimp only
    split
    next => exact translation_refl s
    next =>
      split
      next => exact translation_refl s
      next =>
        split
        next => exact htouch
        next =>
          split
          next => split <;> exact htouch
          next =>
            split
            next => exact htouch
            next => exact htouch.trans (ih ..)

theorem translation_agree64 (s : State) (p : Fin 8) (t : Fin 9) (x : Xl) : Translation s (agree64 s p t x) := by
  unfold agree64
  split
  next => exact translation_tlb ..
  next => exact translation_refl s

theorem translation_tlbPut (s : State) (o : TlbOwner) (cap : Nat) (p : Fin 8) (t : Fin 9) (x : Xl) : Translation s (tlbPut s o cap p t x) :=
  translation_tlb ..

theorem translation_lookup (s : State) (core : Nat) (p : Fin 8) (t : Fin 9) (va : Nat) : Translation s (lookup s core p t va).1 := by
  have hwalk : Translation s (walk s p t va).1 := translation_walkFrom ..
  unfold lookup
  split
  next => exact translation_tlbPut ..
  next =>
    split
    next s1 x e =>
      rw [e] at hwalk
      exact hwalk.trans ((translation_agree64 s1 p t x).trans ((translation_tlbPut ..).trans (translation_tlbPut ..)))
    next => exact hwalk

theorem translation_touchVa (s : State) (w : Workgroup) (va : Nat) : Translation s (touchVa s w va) := by
  unfold touchVa
  split
  next => exact translation_refl s
  next => exact translation_lookup ..

theorem translation_touchCode (s : State) : Translation s (touchCode s) := by
  have hhalf : ∀ (s : State) (w : Workgroup) (inside : Prop) [Decidable inside] (va : Nat), Translation s (if inside then touchVa s w va else s) := by
    intro s w inside _ va
    split
    next => exact translation_touchVa ..
    next => exact translation_refl s
  unfold touchCode
  split
  next => exact translation_refl s
  next w _ =>
    split
    next => exact translation_refl s
    next p _ => exact (hhalf _ w _ _).trans (hhalf _ w _ _)

/-! #### In the words of the claims -/

theorem memoryOnly_of_translation {s t : State} (h : Translation s t) : MemoryOnly s t where
  rest :=
    have hfields : { memFree t with mem := t.mem, hostMem := t.hostMem, hed := t.hed, l1 := t.l1, l2 := t.l2, tlb := t.tlb, parts := t.parts,
                                    fresh := t.fresh, homeQ := t.homeQ, early := t.early } =
        { memFree s with grp := t.grp, wgs := t.wgs, walks := t.walks, mem := t.mem, hostMem := t.hostMem, hed := t.hed, l1 := t.l1, l2 := t.l2,
                         tlb := t.tlb, parts := t.parts, fresh := t.fresh, homeQ := t.homeQ, early := t.early } := by
      rw [← h.rest]
      rfl
    hfields
  parts := h.parts
  early e he := h.early ▸ he

theorem grp_of_translation {s t : State} (h : Translation s t) : t.grp = s.grp := by
  have hgrp : (memFree t).grp = (memFree s).grp := by rw [h.rest]
  exact hgrp

theorem wgs_of_translation {s t : State} (h : Translation s t) : t.wgs = s.wgs := by
  have hwgs : (memFree t).wgs = (memFree s).wgs := by rw [h.rest]
  exact hwgs

theorem cohRead_of_translation {s t : State} (h : Translation s t) (hs : Sound s) (a n : Nat) : cohRead t a n = cohRead s a n :=
  cohRead_congr fun k _ => byteAt_moved (h.moved (coherent_of_sound hs)) (a + k)

end Sys2Proof.Laws.Fetching

/-! ### The turn of a core (R238, R263, R375) -/

namespace Sys2Proof.Laws.Turns
open Sys2Proof Sys2Proof.Machine Sys2Proof.Claims Sys2Proof.Laws.Fetching

theorem now_focus (s : State) (wg : Nat) (gid : Fin 16) (r : Role) : (focus s wg gid r).now = s.now := by
  unfold focus
  split
  next => rfl
  next => split <;> rfl

theorem switchTo_eq_turned (s : State) (core : Nat) (g : Group) : switchTo s core g = turned s core g := by
  simp only [switchTo, turned, rouse, useUnit, now_focus]
  have hwrote : ∀ x : Group, (if (x.wg = g.wg && x.gid == g.gid) = true then x else x.landOwn) =
      if x.wg = g.wg ∧ x.gid = g.gid then x else x.landOwn := fun x => by
    simp only [Bool.and_eq_true, decide_eq_true_eq, beq_iff_eq]
  simp only [hwrote]
  rfl

theorem groupStep_eq (u : State) (g : Group) : groupStep u g = followed u g (issueStep u) := by
  unfold groupStep followed
  cases issueStep u <;> rfl

theorem coreTurn_eq {s : State} {core : Nat} {g : Group} (h : pickGroup s core = some g) :
    coreTurn s core = followed (turned s core g) g (issueStep (turned s core g)) := by
  rw [coreTurn, h, ← switchTo_eq_turned, ← groupStep_eq]

theorem step_core {s : State} {core : Nat} {rest : List Turn} (h : s.agenda = .core core :: rest) : step s = coreTurn { s with agenda := rest } core := by
  unfold step
  rw [h]

/-- A free turn with no event due and no record held is the next core's. The kernel compares `freeTurn s` with its body by evaluating `duty s`, which
does not end in reasonable time; it unfolds the function itself at once. -/
theorem freeTurn_core {s : State} {core : Nat} (hduty : duty s = none) (hqueue : s.readyQ = []) (hcore : nextCore s = some core) :
    freeTurn s = coreTurn s core := by
  have hnone : ¬ s.readyQ.any (unheld s) = true := by simp [hqueue]
  suffices ∀ turn, turn = freeTurn → turn s = coreTurn s core from this _ rfl
  intro turn hturn
  delta freeTurn at hturn
  rw [hturn]
  beta_reduce
  rw [hduty]
  dsimp only
  rw [if_neg hnone, hcore]

theorem step_free {s : State} {core : Nat} (hagenda : s.agenda = []) (hduty : duty s = none) (hqueue : s.readyQ = []) (hcore : nextCore s = some core) :
    step s = coreTurn s core := by
  unfold step
  rw [hagenda]
  exact freeTurn_core hduty hqueue hcore

/-- The step of a core whose turn it is. -/
theorem step_turn {s s1 : State} {core : Nat} {g : Group}
    (h : (∃ rest, s.agenda = .core core :: rest ∧ s1 = { s with agenda := rest }) ∨
      (s.agenda = [] ∧ duty s = none ∧ s.readyQ = [] ∧ nextCore s = some core ∧ s1 = s))
    (hpick : pickGroup s1 core = some g) : step s = followed (turned s1 core g) g (issueStep (turned s1 core g)) := by
  rcases h with ⟨rest, hagenda, rfl⟩ | ⟨hagenda, hduty, hqueue, hcore, rfl⟩
  · rw [step_core hagenda, coreTurn_eq hpick]
  · rw [step_free hagenda hduty hqueue hcore, coreTurn_eq hpick]

/-! ### A group that stands in a run -/

section
variable {u : State} (hended : u.grp.phase ≠ .ended) (hbetween : u.grp.phase ≠ .between) (hbuffer : bufferDue u = false ∨ u.c.xpw ≠ none)
include hended hbetween hbuffer

/-- It issues what is fetched for it. -/
theorem issueStep_inRun : issueStep u = match fetched (touchCode u) with
    | .ok i => exec i (touchCode u)
    | .error t => .next t := by
  have hcommit : ¬ (bufferDue u && u.c.xpw.isNone) = true := by
    rcases hbuffer with h | h
    · simp [h]
    · simp [Option.isNone_iff_eq_none, h]
  rw [issueStep]
  split
  next h => exact absurd h hended
  next h => exact absurd h hbetween
  next => exact if_neg hcommit

theorem issueStep_of_fetched {i : Instr} (h : fetched (touchCode u) = .ok i) : issueStep u = exec i (touchCode u) := by
  rw [issueStep_inRun hended hbetween hbuffer, h]

theorem issueStep_of_refused {t : State} (h : fetched (touchCode u) = .error t) : issueStep u = .next t := by
  rw [issueStep_inRun hended hbetween hbuffer, h]

end

/-! ### The trailing member (R375) -/

theorem followed_alone {u t : State} {g : Group} (h : groupAt t g.wg g.gid .trail = none) : followed u g (.next t) = .next t := by
  have hfollows : follows u t g = false := by simp [follows, h]
  simp only [followed, hfollows, Bool.false_eq_true, if_false]

theorem rouse_trail (t : State) (g : Group) : rouse (focus t g.wg g.gid .trail) (g.core + 8) = turnedTrail t g := by
  rw [rouse, useUnit, turnedTrail, now_focus]

theorem followed_trail {u t r : State} {g : Group} (hfollows : follows u t g = true) (h : issueStep (turnedTrail t g) = .next r) :
    followed u g (.next t) = .next (backTo r t.grp) := by
  simp only [followed, hfollows, if_true, trailStep, rouse_trail, h]

/-! ### The other turns of the agenda (assumption 1) -/

theorem step_event (s : State) (i : Instr) (rest : List Turn) : step { s with agenda := .event i :: rest } = exec i { s with agenda := rest } := by
  unfold step
  rfl

theorem step_pass {s : State} {n : Nat} (h : s.now + n ≤ 1200000 * (s.periods + 1)) (rest : List Turn) :
    step { s with agenda := .pass n :: rest } = .next { s with agenda := rest, now := s.now + n } := by
  unfold step
  exact congrArg Host.Outcome.next (if_pos h)

/-- Settles O35: a core's turn is `issueStep` of the state that `turned` names, which is exec of what `fetched` gives. -/
theorem stepRunsTheDecodedInstruction : Obligations.StepRunsTheDecodedInstruction := by
  intro s s1 core g hturn hpick u v
  have htouch : Translation u v := translation_touchCode u
  refine ⟨fun hended hbetween hbuffer => ?_, fun hs => ?_, fun t => followed_alone, fun t i r hended hbetween hbuffer hfetch hexec hfollows => ?_,
    fun i rest => step_event s i rest, fun n rest h => step_pass h rest⟩
  · have hissue : step s = followed u g (issueStep u) := step_turn hturn hpick
    have hok := fun i => issueStep_of_fetched (i := i) hended hbetween hbuffer
    have hrefused := fun t => issueStep_of_refused (t := t) hended hbetween hbuffer
    refine ⟨fun i hfetch => ?_, fun lo hlo heven ⟨e, hd⟩ => ?_, fun lo hi hlo hhi hodd ⟨e, hd⟩ => ?_, fun hnone => ?_, fun lo hlo hodd hnone => ?_⟩
    · rw [hissue, hok i (fetched_of_fetches hfetch)]
    · rw [hissue, hrefused _ (fetched_refused (fetchCode_half hlo heven) (refused_of_decode (frontCode_first heven) hd))]
      rfl
    · rw [hissue, hrefused _ (fetched_refused (fetchCode_word hlo hodd hhi) (refused_of_decode (frontCode_halves hodd hi) hd))]
      rfl
    · rw [hissue, hrefused _ (fetched_outside (fetchCode_outside hnone))]
    · rw [hissue, hrefused _ (fetched_outside (fetchCode_cut hlo hodd hnone))]
  · exact ⟨memoryOnly_of_translation htouch, grp_of_translation htouch, wgs_of_translation htouch, fun a => cohRead_of_translation htouch hs a 1⟩
  · exact followed_trail hfollows ((issueStep_of_fetched hended hbetween hbuffer (fetched_of_fetches hfetch)).trans hexec)

end Sys2Proof.Laws.Turns

/-! ### The beginning of a run (R235, R237) and the delivery of a record (R362) -/

namespace Sys2Proof.Laws.Turns
open Sys2Proof Sys2Proof.Machine Sys2Proof.Claims

theorem mem_lanesOf {m : Mask} {l : Lane} : l ∈ lanesOf m ↔ m.getLsbD l.val = true := by simp [lanesOf]

theorem eq_zero_iff_lanes {m : Mask} : m = 0 ↔ ∀ l : Lane, m.getLsbD l.val = false := by
  constructor
  · rintro rfl l
    simp
  · intro h
    refine BitVec.eq_of_getLsbD_eq fun k hk => ?_
    rw [h ⟨k, hk⟩]
    simp

theorem exists_lane_of_ne_zero {m : Mask} (h : m ≠ 0) : ∃ l : Lane, m.getLsbD l.val = true := by
  by_contra hnone
  exact h (eq_zero_iff_lanes.2 fun l => Bool.eq_false_of_not_eq_true fun hl => hnone ⟨l, hl⟩)

/-- The lowest lane of a mask is one of its lanes. -/
theorem lowest_mem {m : Mask} (h : m ≠ 0) : lowest m ∈ lanesOf m := by
  obtain ⟨l, hl⟩ := exists_lane_of_ne_zero h
  have hmem := mem_lanesOf.2 hl
  rw [lowest]
  cases hs : lanesOf m with
  | nil => exact absurd (hs ▸ hmem) List.not_mem_nil
  | cons k ks => exact List.mem_cons_self

/-- The lower of a word and the continuation of a lane. -/
def lowerLpc (c : Ctx) (b : Word) (l : Lane) : Word := if (c.lpc[l]).toNat < b.toNat then c.lpc[l] else b

theorem lowerLpc_le (c : Ctx) (b : Word) (l : Lane) : (lowerLpc c b l).toNat ≤ b.toNat ∧ (lowerLpc c b l).toNat ≤ (c.lpc[l]).toNat := by
  rw [lowerLpc]
  split
  · exact ⟨Nat.le_of_lt ‹_›, Nat.le_refl _⟩
  · exact ⟨Nat.le_refl _, Nat.le_of_not_lt ‹_›⟩

theorem foldl_lowerLpc_le (c : Ctx) (ls : List Lane) (b : Word) :
    (ls.foldl (lowerLpc c) b).toNat ≤ b.toNat ∧ ∀ l ∈ ls, (ls.foldl (lowerLpc c) b).toNat ≤ (c.lpc[l]).toNat := by
  induction ls generalizing b with
  | nil => exact ⟨Nat.le_refl _, fun _ hl => absurd hl List.not_mem_nil⟩
  | cons k ks ih =>
    obtain ⟨hb, hks⟩ := ih (lowerLpc c b k)
    obtain ⟨hlow, hk⟩ := lowerLpc_le c b k
    refine ⟨Nat.le_trans hb hlow, fun l hl => ?_⟩
    rcases List.mem_cons.1 hl with rfl | hl
    · exact Nat.le_trans hb hk
    · exact hks l hl

theorem foldl_lowerLpc_mem (c : Ctx) (ls : List Lane) (b : Word) : ls.foldl (lowerLpc c) b = b ∨ ∃ l ∈ ls, ls.foldl (lowerLpc c) b = c.lpc[l] := by
  induction ls generalizing b with
  | nil => exact .inl rfl
  | cons k ks ih =>
    rcases ih (lowerLpc c b k) with h | ⟨l, hl, h⟩
    · rw [List.foldl_cons, h, lowerLpc]
      split
      · exact .inr ⟨k, List.mem_cons_self, rfl⟩
      · exact .inl rfl
    · exact .inr ⟨l, List.mem_cons_of_mem _ hl, h⟩

/-- `lowestLpc` is the continuation of a lane of the mask, and no other lane's is lower. -/
theorem lowestLpc_spec (c : Ctx) {m : Mask} (h : m ≠ 0) :
    (∃ l : Lane, m.getLsbD l.val = true ∧ lowestLpc c m = c.lpc[l]) ∧ ∀ l : Lane, m.getLsbD l.val = true → (lowestLpc c m).toNat ≤ (c.lpc[l]).toNat := by
  constructor
  · rcases foldl_lowerLpc_mem c (lanesOf m) (c.lpc[lowest m]) with hfold | ⟨l, hl, hfold⟩
    · exact ⟨lowest m, mem_lanesOf.1 (lowest_mem h), hfold⟩
    · exact ⟨l, mem_lanesOf.1 hl, hfold⟩
  · exact fun l hl => (foldl_lowerLpc_le c (lanesOf m) (c.lpc[lowest m])).2 l (mem_lanesOf.2 hl)

/-- The lanes of which the lowest continuation is the next run's. -/
def firstLanes (c : Ctx) : Mask := if starved c = 0 then c.live else starved c

theorem getLsbD_starved (c : Ctx) (l : Lane) : (starved c).getLsbD l.val = (c.live.getLsbD l.val && decide (4096 ≤ c.starve[l])) :=
  getLsbD_maskOf _ l

theorem firstLanes_ne_zero {c : Ctx} (h : c.live ≠ 0) : firstLanes c ≠ 0 := by
  rw [firstLanes]
  split
  · exact h
  · assumption

theorem getLsbD_firstLanes (c : Ctx) (l : Lane) :
    (firstLanes c).getLsbD l.val = if ∃ k : Lane, (c.live.getLsbD k.val && decide (4096 ≤ c.starve[k])) = true
      then (c.live.getLsbD l.val && decide (4096 ≤ c.starve[l])) else c.live.getLsbD l.val := by
  simp only [← getLsbD_starved]
  by_cases h : starved c = 0
  · rw [firstLanes, if_pos h, if_neg]
    rintro ⟨k, hk⟩
    exact Bool.false_ne_true ((eq_zero_iff_lanes.1 h k).symm.trans hk)
  · rw [firstLanes, if_neg h, if_pos (exists_lane_of_ne_zero h)]

/-- The lanes that take part in the next run. -/
def runLanes (c : Ctx) : Mask := lanesAt c c.live (issueAddr c)

/-- The starvation counts with which a run begins. -/
def begunStarve (c : Ctx) : Vector Nat 32 := Vector.ofFn fun l => if (runLanes c).getLsbD l.val then 0 else c.starve[l]

/-- The state in which the run has begun. -/
def begun (u : State) : State :=
  { u with grp := { u.grp with
                      phase := .inRun
                      c := { u.c with run := { Run.none with on := true, pc := issueAddr u.c, act := runLanes u.c }, starve := begunStarve u.c } } }

theorem begun_pc (u : State) : (begun u).c.run.pc = lowestLpc u.c (firstLanes u.c) := by
  simp only [begun, State.c]
  rfl

theorem begun_act (u : State) : (begun u).c.run.act = runLanes u.c := by
  simp only [begun, State.c]

theorem begun_starve (u : State) : (begun u).c.starve = begunStarve u.c := by
  simp only [begun, State.c]

theorem beginRun_run {u : State} (hin : u.c.inH = false) (hlive : u.c.live ≠ 0) (hsf : nextSf u = none) :
    beginRun u = begun u := by
  rw [beginRun, hin, if_neg Bool.false_ne_true, if_neg hlive, hsf]
  rfl

/-- The lanes that stand at the address of a run. -/
theorem getLsbD_lanesAt (c : Ctx) (m : Mask) (pc : Word) (l : Lane) : (lanesAt c m pc).getLsbD l.val = (m.getLsbD l.val && c.lpc[l] == pc) :=
  getLsbD_maskOf _ l

theorem step_between {s : State} {core : Nat} {g : Group} {rest : List Turn} (hagenda : s.agenda = .core core :: rest)
    (hpick : pickGroup { s with agenda := rest } core = some g) (hphase : (turned { s with agenda := rest } core g).grp.phase = .between) :
    step s = followed (turned { s with agenda := rest } core g) g (.next (beginRun (turned { s with agenda := rest } core g))) := by
  rw [step_turn (.inl ⟨rest, hagenda, rfl⟩) hpick, issueStep, hphase]

/-! #### The delivery of a store-fault record -/

theorem refuseOpen_of_none {u : State} (h : ∀ w, curWg u = some w → w.openMig = none) : refuseOpen u u.grp.wg = u := by
  rw [refuseOpen]
  cases hw : wgOf u u.grp.wg with
  | none => rfl
  | some w =>
    simp only
    rw [h w hw]

/-- The handler as it begins with a record. -/
def recordTaken (u : State) (e : SfEnt) (h : PickRec) : State := noteRecord (enterHandler (dropSf u e) (sfFault e e.npc true) 0 h.pc) e

theorem beginRun_record {u : State} {e : SfEnt} {h : PickRec} (hin : u.c.inH = false) (hlive : u.c.live ≠ 0) (hsf : nextSf u = some e)
    (hh : handlerOf u = some h) (hmig : ∀ w, curWg u = some w → w.openMig = none) : beginRun u = recordTaken u e h := by
  have hdrop : handlerOf (dropSf u e) = some h := hh
  have hout : (dropSf u e).c.inH = false := hin
  rw [beginRun, hin, if_neg Bool.false_ne_true, if_neg hlive, hsf]
  simp only
  rw [deliverRecord, refuseOpen_of_none hmig, takeFault, hout, if_neg Bool.false_ne_true, hdrop]
  rfl

/-- The frame and the run with which the handler begins (R362): no run is interrupted. -/
theorem recordTaken_spec (u : State) (e : SfEnt) (h : PickRec) :
    let t := recordTaken u e h
    t.c.inH = true ∧ t.c.run.pc = h.pc ∧ t.c.frame.cause = e.cause ∧ t.c.frame.npc = e.npc ∧ t.c.frame.mask = e.mask ∧
      t.c.frame.imprecise = true ∧ t.c.shadow = Run.none ∧ t.c.lpc = u.c.lpc ∧ t.sfq = u.sfq.erase e :=
  ⟨rfl, rfl, rfl, rfl, rfl, rfl, rfl, rfl, rfl⟩

/-- Settles O36: between runs a core's turn is `beginRun`, which takes the lowest continuation of the lanes that come first, or delivers a record. -/
theorem stepBeginsRuns : Obligations.StepBeginsRuns := by
  intro s core g rest hagenda hpick u hphase hin hlive
  have hstep : step s = followed u g (.next (beginRun u)) := step_between hagenda hpick hphase
  refine ⟨fun hsf => ?_, fun e h hsf hh hmig => ?_⟩
  · obtain ⟨⟨l, hl, hpc⟩, hlow⟩ := lowestLpc_spec u.c (firstLanes_ne_zero hlive)
    refine ⟨begun u, beginRun_run hin hlive hsf ▸ hstep, rfl, rfl, ⟨l, (getLsbD_firstLanes u.c l).symm.trans hl, (begun_pc u).trans hpc⟩,
      fun k hk => begun_pc u ▸ hlow k ((getLsbD_firstLanes u.c k).trans hk), fun k => ⟨?_, ?_⟩⟩
    · rw [begun_act, begun_pc, runLanes, getLsbD_lanesAt]
      rfl
    · rw [begun_act, begun_starve]
      exact Vector.getElem_ofFn _
  · exact ⟨recordTaken u e h, beginRun_record hin hlive hsf hh hmig ▸ hstep, recordTaken_spec u e h⟩

end Sys2Proof.Laws.Turns

/-! ## Rounding of exact values (R69, R70, R73, R76, R84, R86) -/

namespace Sys2Proof.Laws.Rounding
open Sys2Proof Sys2Proof.Machine

/-! ### Units of a power of two -/

theorem zpow_of_nonneg {q : ℤ} (h : 0 ≤ q) : (2 : ℚ) ^ q = ((2 ^ q.toNat : Nat) : ℚ) := by
  lift q to ℕ using h
  simp

theorem zpow_of_neg {q : ℤ} (h : ¬ 0 ≤ q) : (2 : ℚ) ^ q = (((2 ^ (-q).toNat : Nat) : ℚ))⁻¹ := by
  rw [← zpow_of_nonneg (by omega : 0 ≤ -q), zpow_neg, inv_inv]

theorem two_zpow_pos (q : ℤ) : (0 : ℚ) < 2 ^ q := zpow_pos two_pos q

theorem two_zpow_add_one (q : ℤ) : (2 : ℚ) ^ (q + 1) = 2 * 2 ^ q := by rw [zpow_add_one₀ two_ne_zero, mul_comm]

/-- A quotient in units of 2^q: whole units and a remainder below one unit. -/
theorem unitsOf_spec (num : Nat) {den : Nat} (hd : 0 < den) (q : ℤ) :
    ∃ k r d : Nat, unitsOf num den q = (k, r, d) ∧ r < d ∧ (num / den / 2 ^ q : ℚ) = k + r / d := by
  have hsplit : ∀ n d : Nat, 0 < d → (n / d : ℚ) = (n / d : Nat) + (n % d : Nat) / d := fun n d h => by
    have hd : (d : ℚ) ≠ 0 := by positivity
    rw [eq_comm, ← mul_left_inj' hd, add_mul, div_mul_cancel₀ _ hd, div_mul_cancel₀ _ hd]
    exact_mod_cast Nat.div_add_mod' n d
  by_cases hq : 0 ≤ q
  · refine ⟨_, _, _, by rw [unitsOf, if_pos hq, if_pos hq], Nat.mod_lt _ (by positivity), ?_⟩
    rw [← hsplit _ _ (by positivity), zpow_of_nonneg hq, Nat.cast_mul, div_div]
  · refine ⟨_, _, _, by rw [unitsOf, if_neg hq, if_neg hq], Nat.mod_lt _ hd, ?_⟩
    rw [← hsplit _ _ hd, zpow_of_neg hq, Nat.cast_mul, div_inv_eq_mul, div_mul_eq_mul_div]

/-- The test by which `flog2` chooses between two exponents. -/
theorem flog2_fits {num den : Nat} (hd : 0 < den) (k : ℤ) :
    (if 0 ≤ k then decide (den * 2 ^ k.toNat ≤ num) else decide (den ≤ num * 2 ^ (-k).toNat)) = true ↔ (2 : ℚ) ^ k ≤ num / den := by
  have hd' : (0 : ℚ) < den := by exact_mod_cast hd
  rw [le_div_iff₀ hd']
  split
  next h =>
    rw [zpow_of_nonneg h, mul_comm, decide_eq_true_iff]
    exact_mod_cast Iff.rfl
  next h =>
    rw [zpow_of_neg h, inv_mul_le_iff₀ (by positivity), mul_comm, decide_eq_true_iff]
    exact_mod_cast Iff.rfl

theorem flog2_spec {num den : Nat} (hn : 0 < num) (hd : 0 < den) :
    (2 : ℚ) ^ flog2 num den ≤ num / den ∧ (num / den : ℚ) < 2 ^ (flog2 num den + 1) := by
  have hd' : (0 : ℚ) < den := by exact_mod_cast hd
  have hlow : ∀ {n : Nat}, 0 < n → (2 : ℚ) ^ (Nat.log2 n : ℤ) ≤ n := fun h => by
    rw [zpow_natCast]; exact_mod_cast Nat.log2_self_le h.ne'
  have hhigh : ∀ n : Nat, (n : ℚ) < 2 ^ ((Nat.log2 n : ℤ) + 1) := fun n => by
    exact_mod_cast Nat.lt_log2_self
  have habove : (num / den : ℚ) < 2 ^ ((Nat.log2 num : ℤ) - Nat.log2 den + 1) := by
    rw [div_lt_iff₀ hd', sub_add_eq_add_sub, zpow_sub₀ two_ne_zero, div_mul_eq_mul_div, lt_div_iff₀ (two_zpow_pos _)]
    exact mul_lt_mul (hhigh num) (hlow hd) (two_zpow_pos _) (two_zpow_pos _).le
  have hbelow : (2 : ℚ) ^ ((Nat.log2 num : ℤ) - Nat.log2 den - 1) ≤ num / den := by
    rw [le_div_iff₀ hd', sub_sub, zpow_sub₀ two_ne_zero, div_mul_eq_mul_div, div_le_iff₀ (two_zpow_pos _)]
    exact mul_le_mul (hlow hn) (hhigh den).le hd'.le (by positivity)
  have hfits := flog2_fits (num := num) hd ((Nat.log2 num : ℤ) - Nat.log2 den)
  simp only [flog2]
  generalize (Nat.log2 num : ℤ) - Nat.log2 den = k at *
  by_cases h : (2 : ℚ) ^ k ≤ num / den
  · rw [if_pos (hfits.mpr h)]
    exact ⟨h, habove⟩
  · rw [if_neg (h ∘ hfits.mp), sub_add_cancel]
    exact ⟨hbelow, not_le.mp h⟩

/-! ### Whole numbers of units (R73) -/

/-- A discarded part `t` of a unit moves the magnitude up in a mode (R73); `odd` says that the kept part is odd. -/
def MovesUp (mode : RMode) (neg : Bool) (odd : Prop) (t : ℚ) : Prop :=
  match mode with
  | .rn => 1 / 2 < t ∨ t = 1 / 2 ∧ odd
  | mode => awayMode mode neg = true ∧ 0 < t

theorem roundsUp_iff (mode : RMode) (neg : Bool) (k : Nat) {r d : Nat} (h : r < d) :
    roundsUp mode neg (k % 2 == 0) r d = true ↔ MovesUp mode neg (k % 2 = 1) (r / d) := by
  have hd : (0 : ℚ) < d := by exact_mod_cast (by omega : 0 < d)
  have hpos : (0 : ℚ) < r / d ↔ 0 < r := by rw [div_pos_iff_of_pos_right hd, Nat.cast_pos]
  have hhalf : (1 / 2 : ℚ) < r / d ↔ d < 2 * r := by
    rw [lt_div_iff₀ hd, one_div_mul_eq_div, div_lt_iff₀' two_pos]
    exact_mod_cast Iff.rfl
  have htie : (r / d : ℚ) = 1 / 2 ↔ 2 * r = d := by
    rw [div_eq_div_iff hd.ne' two_ne_zero, one_mul, mul_comm]
    exact_mod_cast Iff.rfl
  have hodd : (!(k % 2 == 0)) = true ↔ k % 2 = 1 := by simp
  cases mode with
  | rn => simp only [roundsUp, MovesUp, Bool.or_eq_true, Bool.and_eq_true, decide_eq_true_iff, hhalf, htie, hodd]
  | rz => simp [roundsUp, MovesUp, awayMode]
  | rd => simp [roundsUp, MovesUp, awayMode, hpos]
  | ru => simp [roundsUp, MovesUp, awayMode, hpos]

/-- A rounded magnitude, in units: the quotient, or one more where the remainder moves it up. -/
theorem roundUnits_spec (mode : RMode) (neg : Bool) (num : Nat) {den : Nat} (hd : 0 < den) (q : ℤ) :
    ∃ (k : Nat) (t : ℚ), 0 ≤ t ∧ t < 1 ∧ (num / den / 2 ^ q : ℚ) = k + t ∧
      (MovesUp mode neg (k % 2 = 1) t → roundUnits mode neg num den q = k + 1) ∧
      (¬ MovesUp mode neg (k % 2 = 1) t → roundUnits mode neg num den q = k) := by
  obtain ⟨k, r, d, hu, hr, hx⟩ := unitsOf_spec num hd q
  have hd' : (0 : ℚ) < d := by exact_mod_cast (by omega : 0 < d)
  refine ⟨k, r / d, by positivity, by rw [div_lt_one hd']; exact_mod_cast hr, hx, fun h => ?_, fun h => ?_⟩
  · rw [roundUnits, hu]
    exact if_pos ((roundsUp_iff mode neg k hr).mpr h)
  · rw [roundUnits, hu]
    exact if_neg (h ∘ (roundsUp_iff mode neg k hr).mp)

/-- A value with its sign. -/
def withNeg (neg : Bool) (x : ℚ) : ℚ := if neg then -x else x

/-- A whole number rounds to itself. -/
theorem toWhole_intCast (mode : RMode) (n : ℤ) : toWhole mode n = n := by
  cases mode <;> simp [toWhole]

theorem not_movesUp_zero (mode : RMode) (neg : Bool) (odd : Prop) : ¬ MovesUp mode neg odd 0 := by
  cases mode <;> simp [MovesUp]

theorem floor_of_between {x : ℚ} {n : ℤ} (h0 : n < x) (h1 : x < n + 1) : ⌊x⌋ = n := Int.floor_eq_iff.mpr ⟨h0.le, h1⟩

theorem ceil_of_between {x : ℚ} {n : ℤ} (h0 : n < x) (h1 : x < n + 1) : ⌈x⌉ = n + 1 :=
  Int.ceil_eq_iff.mpr ⟨by push_cast; linarith, by push_cast; exact h1.le⟩

/-- A positive number strictly between two whole numbers, rounded. -/
theorem toWhole_add (mode : RMode) (k : Nat) {t : ℚ} (h0 : 0 < t) (h1 : t < 1) :
    (MovesUp mode false (k % 2 = 1) t → toWhole mode (k + t) = k + 1) ∧ (¬ MovesUp mode false (k % 2 = 1) t → toWhole mode (k + t) = k) := by
  have hf : ⌊(k : ℚ) + t⌋ = k := floor_of_between (by push_cast; linarith) (by push_cast; linarith)
  have hc : ⌈(k : ℚ) + t⌉ = k + 1 := ceil_of_between (by push_cast; linarith) (by push_cast; linarith)
  cases mode with
  | rn =>
    have hrest : (k : ℚ) + t - (k : ℤ) = t := by push_cast; ring
    simp only [toWhole, MovesUp, hf, hrest]
    refine ⟨fun h => if_neg ?_, fun h => if_pos ?_⟩
    · rcases h with h | ⟨h, hk⟩
      · exact fun hor => hor.elim (fun h' => by linarith) fun h' => by linarith [h'.1]
      · exact fun hor => hor.elim (fun h' => by linarith) fun h' => by omega
    · rw [not_or, not_lt, not_and] at h
      rcases h.1.lt_or_eq with hlt | heq
      · exact .inl hlt
      · exact .inr ⟨heq, by have := h.2 heq; omega⟩
  | rz => exact ⟨fun h => absurd h.1 (by simp [awayMode]), fun _ => by rw [toWhole, if_pos (by positivity), hf]⟩
  | rd => exact ⟨fun h => absurd h.1 (by simp [awayMode]), fun _ => hf⟩
  | ru => exact ⟨fun _ => hc, fun h => absurd ⟨rfl, h0⟩ h⟩

/-- The mode that treats negative numbers as this one treats positive numbers. -/
def mirror : RMode → RMode
  | .rd => .ru
  | .ru => .rd
  | .rn => .rn
  | .rz => .rz

theorem movesUp_mirror (mode : RMode) (odd : Prop) (t : ℚ) : MovesUp (mirror mode) false odd t ↔ MovesUp mode true odd t := by
  cases mode <;> simp [MovesUp, mirror, awayMode]

/-- Rounding to nearest is symmetric about zero. -/
theorem toWhole_rn_neg (x : ℚ) : toWhole .rn (-x) = -toWhole .rn x := by
  obtain ⟨n, u, h0, h1, rfl⟩ : ∃ (n : ℤ) (u : ℚ), 0 ≤ u ∧ u < 1 ∧ x = n + u :=
    ⟨⌊x⌋, Int.fract x, Int.fract_nonneg x, Int.fract_lt_one x, (Int.floor_add_fract x).symm⟩
  rcases h0.eq_or_lt with rfl | hpos
  · rw [add_zero, ← Int.cast_neg, toWhole_intCast, toWhole_intCast]
  · have hf : ⌊(n : ℚ) + u⌋ = n := floor_of_between (by linarith) (by linarith)
    have hn : ⌊-((n : ℚ) + u)⌋ = -n - 1 := floor_of_between (by push_cast; linarith) (by push_cast; linarith)
    have hrest : -((n : ℚ) + u) - ((-n - 1 : ℤ) : ℚ) = 1 - u := by push_cast; ring
    simp only [toWhole, hf, hn, hrest, add_sub_cancel_left]
    rcases lt_trichotomy u (1 / 2) with hu | rfl | hu
    · rw [if_neg (by rintro (h | h) <;> linarith), if_pos (.inl hu)]
      ring
    · by_cases hev : n % 2 = 0
      · rw [if_neg (by rintro (h | h) <;> [linarith; omega]), if_pos (.inr ⟨rfl, hev⟩)]
        ring
      · rw [if_pos (.inr ⟨by norm_num, by omega⟩), if_neg (by rintro (h | h) <;> [linarith; omega])]
        ring
    · rw [if_pos (.inl (by linarith)), if_neg (by rintro (h | h) <;> linarith)]
      ring

/-- Rounding a negative number is rounding its magnitude in the mirrored mode. -/
theorem toWhole_neg (mode : RMode) {x : ℚ} (h : 0 < x) : toWhole mode (-x) = -toWhole (mirror mode) x := by
  cases mode with
  | rn => exact toWhole_rn_neg x
  | rz => rw [toWhole, if_neg (by linarith), mirror, toWhole, if_pos h.le, Int.ceil_neg]
  | rd => rw [toWhole, Int.floor_neg]; rfl
  | ru => rw [toWhole, Int.ceil_neg]; rfl

/-- The rounded number of whole units, in every mode and sign. -/
theorem toWhole_withNeg (mode : RMode) (neg : Bool) (k : Nat) {t : ℚ} (h0 : 0 ≤ t) (h1 : t < 1) :
    (MovesUp mode neg (k % 2 = 1) t → toWhole mode (withNeg neg (k + t)) = signedNum neg (k + 1)) ∧
    (¬ MovesUp mode neg (k % 2 = 1) t → toWhole mode (withNeg neg (k + t)) = signedNum neg k) := by
  rcases h0.eq_or_lt with rfl | hpos
  · refine ⟨fun h => absurd h (not_movesUp_zero mode neg _), fun _ => ?_⟩
    have hwhole : withNeg neg ((k : ℚ) + 0) = ((signedNum neg k : ℤ) : ℚ) := by cases neg <;> simp [withNeg, signedNum]
    rw [hwhole, toWhole_intCast]
  · have hsum : (0 : ℚ) < k + t := by positivity
    cases neg with
    | false => exact toWhole_add mode k hpos h1
    | true =>
      obtain ⟨hup, hdown⟩ := toWhole_add (mirror mode) k hpos h1
      simp only [movesUp_mirror] at hup hdown
      simp only [withNeg, signedNum, if_true, toWhole_neg mode hsum]
      exact ⟨fun h => by rw [hup h]; push_cast; ring, fun h => by rw [hdown h]⟩

/-- Rounding a fraction in units of 2^q is rounding the number of units. -/
theorem signedNum_roundUnits (mode : RMode) (neg : Bool) (num : Nat) {den : Nat} (hd : 0 < den) (q : ℤ) :
    signedNum neg (roundUnits mode neg num den q) = toWhole mode (withNeg neg (num / den / 2 ^ q)) := by
  obtain ⟨k, t, h0, h1, hx, hup, hdown⟩ := roundUnits_spec mode neg num hd q
  obtain ⟨hup', hdown'⟩ := toWhole_withNeg mode neg k h0 h1
  rw [hx]
  by_cases h : MovesUp mode neg (k % 2 = 1) t
  · rw [hup h, hup' h]
  · rw [hdown h, hdown' h]

end Sys2Proof.Laws.Rounding

/-! ## Codes of float formats (R69, R70, R73, R76) -/

namespace Sys2Proof.Laws.Rounding
open Sys2Proof Sys2Proof.Machine

/-! ### The magnitudes of successive codes -/

/-- The magnitude of a code of a format without a largest value: fraction bits and the exponent of the least place. -/
def codeMag (fw : Nat) (low : ℤ) (m : Nat) : ℚ :=
  if m / 2 ^ fw = 0 then m * 2 ^ low else (2 ^ fw + m % 2 ^ fw : Nat) * 2 ^ (low + (m / 2 ^ fw - 1 : Nat))

/-- A code is a whole number of units of its last place; the code above the last of a binade is the first of the next. -/
theorem codeMag_add {fw n j : Nat} (low : ℤ) (hn : n = 0 ∨ 2 ^ fw ≤ j) (hj : j ≤ 2 ^ (fw + 1)) :
    codeMag fw low (n * 2 ^ fw + j) = j * 2 ^ (low + n) := by
  have hpos : 0 < 2 ^ fw := Nat.two_pow_pos fw
  have hdiv : (n * 2 ^ fw + j) / 2 ^ fw = n + j / 2 ^ fw := by rw [Nat.mul_comm, Nat.mul_add_div hpos]
  have hmod : (n * 2 ^ fw + j) % 2 ^ fw = j % 2 ^ fw := by rw [Nat.mul_comm, Nat.mul_add_mod]
  rw [codeMag, hdiv, hmod]
  rw [Nat.pow_succ] at hj
  by_cases hsmall : j < 2 ^ fw
  · obtain rfl : n = 0 := by omega
    rw [if_pos (by rw [Nat.div_eq_of_lt hsmall]), Nat.zero_mul, Nat.zero_add, Nat.cast_zero, add_zero]
  by_cases hmid : j < 2 * 2 ^ fw
  · have hone : j / 2 ^ fw = 1 := Nat.div_eq_of_lt_le (by omega) (by omega)
    have hrem : j % 2 ^ fw = j - 2 ^ fw := by rw [Nat.mod_eq_sub_mod (by omega), Nat.mod_eq_of_lt (by omega)]
    rw [if_neg (by omega), hone, hrem, Nat.add_sub_cancel, Nat.add_sub_cancel' (by omega)]
  · obtain rfl : j = 2 ^ fw * 2 := by omega
    rw [Nat.mul_div_cancel_left _ hpos, Nat.mul_mod_right, if_neg (by omega), Nat.add_zero, show n + 2 - 1 = n + 1 from rfl, Nat.cast_succ,
      ← add_assoc, two_zpow_add_one]
    push_cast
    ring

/-- Every code as whole units of its last place. -/
theorem exists_units (fw m : Nat) : ∃ n j : Nat, m = n * 2 ^ fw + j ∧ (n = 0 ∨ 2 ^ fw ≤ j) ∧ j < 2 ^ (fw + 1) := by
  have hpos : 0 < 2 ^ fw := Nat.two_pow_pos fw
  have hm := Nat.div_add_mod' m (2 ^ fw)
  have hr := Nat.mod_lt m hpos
  rw [Nat.pow_succ]
  cases h : m / 2 ^ fw with
  | zero => exact ⟨0, m, by omega, .inl rfl, by rw [h] at hm; omega⟩
  | succ n =>
    rw [h, Nat.add_mul, Nat.one_mul] at hm
    exact ⟨n, 2 ^ fw + m % 2 ^ fw, by omega, .inr (by omega), by omega⟩

theorem codeMag_succ_sub {fw n j : Nat} (low : ℤ) (hn : n = 0 ∨ 2 ^ fw ≤ j) (hj : j < 2 ^ (fw + 1)) :
    codeMag fw low (n * 2 ^ fw + j + 1) = codeMag fw low (n * 2 ^ fw + j) + 2 ^ (low + n) := by
  rw [Nat.add_assoc, codeMag_add low (by omega) (by omega), codeMag_add low hn hj.le]
  push_cast
  ring

theorem codeMag_strictMono (fw : Nat) (low : ℤ) : StrictMono (codeMag fw low) := by
  refine strictMono_nat_of_lt_succ fun m => ?_
  obtain ⟨n, j, rfl, hn, hj⟩ := exists_units fw m
  rw [codeMag_succ_sub low hn hj]
  exact lt_add_of_pos_right _ (two_zpow_pos _)

@[simp] theorem codeMag_zero (fw : Nat) (low : ℤ) : codeMag fw low 0 = 0 := by simp [codeMag]

theorem codeMag_nonneg (fw : Nat) (low : ℤ) (m : Nat) : 0 ≤ codeMag fw low m :=
  codeMag_zero fw low ▸ (codeMag_strictMono fw low).monotone (Nat.zero_le m)

/-! ### The code below a value, and rounding (R73) -/

/-- The part of the step above code `a` that a value has passed. -/
def passed (fw : Nat) (low : ℤ) (x : ℚ) (a : Nat) : ℚ := (x - codeMag fw low a) / (codeMag fw low (a + 1) - codeMag fw low a)

/-- A value in whole units of its last place is the code below it and the part of a step it has passed. -/
theorem floorCode_spec (fw : Nat) (hfw : 1 ≤ fw) (low : ℤ) {num den k : Nat} {t : ℚ} (hn : 0 < num) (hd : 0 < den) (h0 : 0 ≤ t) (h1 : t < 1)
    (hx : (num / den / 2 ^ lastPlace fw low num den : ℚ) = k + t) :
    ∃ a : Nat, (lastPlace fw low num den - low).toNat * 2 ^ fw + k = a ∧ codeMag fw low a ≤ num / den ∧ (num / den : ℚ) < codeMag fw low (a + 1) ∧
      passed fw low (num / den) a = t ∧ (a % 2 = 1 ↔ k % 2 = 1) := by
  obtain ⟨hlow, hhigh⟩ := flog2_spec hn hd
  generalize hq : lastPlace fw low num den = q at *
  rw [lastPlace] at hq
  generalize flog2 num den = e at *
  generalize (num / den : ℚ) = x at *
  obtain ⟨n, hn'⟩ : ∃ n : Nat, q = low + n := ⟨(q - low).toNat, by omega⟩
  have hq0 : (0 : ℚ) < 2 ^ q := two_zpow_pos q
  have hxq : x = (k + t) * 2 ^ q := by rw [← hx, div_mul_cancel₀ _ hq0.ne']
  have hk : k < 2 ^ (fw + 1) := by
    have hle : (2 : ℚ) ^ (e + 1) ≤ 2 ^ ((fw : ℤ) + 1) * 2 ^ q := by
      rw [← zpow_add₀ two_ne_zero]
      exact zpow_le_zpow_right₀ one_le_two (by omega)
    have hlt : (k : ℚ) < 2 ^ ((fw : ℤ) + 1) := by
      refine lt_of_mul_lt_mul_right ?_ hq0.le
      calc (k : ℚ) * 2 ^ q ≤ (k + t) * 2 ^ q := by gcongr; linarith
        _ < 2 ^ ((fw : ℤ) + 1) * 2 ^ q := hxq ▸ hhigh.trans_le hle
    exact_mod_cast hlt
  have hk' : n = 0 ∨ 2 ^ fw ≤ k := by
    rcases Nat.eq_zero_or_pos n with h | h
    · exact .inl h
    · have hqe : q = e - fw := by omega
      have hle : (2 : ℚ) ^ fw ≤ k + t := by
        rw [← hx, le_div_iff₀ hq0, hqe, ← zpow_natCast, ← zpow_add₀ two_ne_zero]
        simpa using hlow
      have hlt : (2 ^ fw : ℚ) < (k + 1 : Nat) := by push_cast; linarith
      exact .inr (Nat.lt_succ_iff.mp (by exact_mod_cast hlt))
  have hval := codeMag_add (fw := fw) low hk' hk.le
  have hstep := codeMag_succ_sub (fw := fw) low hk' hk
  rw [← hn'] at hval hstep
  have hnq : (q - low).toNat = n := by omega
  refine ⟨n * 2 ^ fw + k, by rw [hnq], ?_, ?_, ?_, ?_⟩
  · rw [hval, hxq]
    gcongr
    linarith
  · rw [hstep, hval, hxq, ← add_one_mul]
    gcongr
  · rw [passed, hstep, add_sub_cancel_left, hval, hxq, ← sub_mul, mul_div_cancel_right₀ _ hq0.ne', add_sub_cancel_left]
  · obtain ⟨f, rfl⟩ : ∃ f, fw = f + 1 := ⟨fw - 1, by omega⟩
    rw [Nat.pow_succ, ← Nat.mul_assoc]
    omega

/-- Rounding a magnitude to a code: the code below the value, or the next where the mode moves it up; a tie at the largest code moves up too. -/
theorem roundMag_spec (F : FloatFmt) (hfb : 1 ≤ F.fb) (mode : RMode) (neg : Bool) {num den : Nat} (hn : 0 < num) (hd : 0 < den) :
    ∃ a : Nat, codeMag F.fb F.qmin a ≤ num / den ∧ (num / den : ℚ) < codeMag F.fb F.qmin (a + 1) ∧
      let up := MovesUp mode neg (a % 2 = 1 ∨ a = F.big) (passed F.fb F.qmin (num / den) a)
      (up → F.roundMag mode neg num den = if a + 1 ≤ F.big then some (a + 1) else none) ∧
      (¬ up → F.roundMag mode neg num den = if a ≤ F.big then some a else none) := by
  obtain ⟨k, r, d, hu, hr, hx⟩ := unitsOf_spec num hd (lastPlace F.fb F.qmin num den)
  have hd' : (0 : ℚ) < d := by exact_mod_cast (by omega : 0 < d)
  obtain ⟨a, ha, hle, hlt, hpass, hodd⟩ := floorCode_spec F.fb hfb F.qmin (t := r / d) hn hd (by positivity)
    (by rw [div_lt_one hd']; exact_mod_cast hr) hx
  have htie : (r / d : ℚ) = 1 / 2 ↔ 2 * r = d := by
    rw [div_eq_div_iff hd'.ne' two_ne_zero, one_mul, mul_comm]
    exact_mod_cast Iff.rfl
  have hup : (((a == F.big && mode == .rn && decide (2 * r = d)) || roundsUp mode neg (k % 2 == 0) r d) = true ↔
      MovesUp mode neg (a % 2 = 1 ∨ a = F.big) (passed F.fb F.qmin (num / den) a)) := by
    rw [hpass, Bool.or_eq_true, roundsUp_iff mode neg k hr, ← propext hodd]
    cases mode <;> simp [MovesUp, ← htie]
    tauto
  refine ⟨a, hle, hlt, fun h => ?_, fun h => ?_⟩
  · simp only [FloatFmt.roundMag, hu, ha, if_pos (hup.mpr h), ← Nat.add_assoc]
  · simp only [FloatFmt.roundMag, hu, ha, if_neg (h ∘ hup.mp)]

end Sys2Proof.Laws.Rounding

/-! ## The code that a mode chooses (R73, R76) -/

namespace Sys2Proof.Laws.Rounding
open Sys2Proof Sys2Proof.Machine

/-! ### Between two neighbouring values -/

/-- A mode prefers a value `v` to another `w` for a number; `tie` says that `v` may win a tie. -/
def Prefers (mode : RMode) (x v w : ℚ) (tie : Prop) : Prop :=
  match mode with
  | .rn => |x - v| < |x - w| ∨ |x - v| = |x - w| ∧ (w = v ∨ tie)
  | .rz => |v| ≤ |x| ∧ 0 ≤ v * x ∧ (|w| ≤ |x| → 0 ≤ w * x → |w| ≤ |v|)
  | .rd => v ≤ x ∧ (w ≤ x → w ≤ v)
  | .ru => x ≤ v ∧ (x ≤ w → v ≤ w)

theorem chosen_iff (mode : RMode) (f : Nat) (x : ℚ) (c : Nat) :
    Chosen mode f x c ↔ finiteCode f c ∧ ∀ k, finiteCode f k → Prefers mode x (codeValue f c) (codeValue f k) (c % 2 = 0 ∨ k % 2 = 1) := by
  cases mode <;> rfl

theorem prefers_rn {x v w : ℚ} {tie : Prop} (h : |x - v| ≤ |x - w|) (he : |x - v| = |x - w| → w = v ∨ tie) : Prefers .rn x v w tie :=
  h.lt_or_eq.imp id fun e => ⟨e, he e⟩

theorem prefers_neg (mode : RMode) (x v w : ℚ) (tie : Prop) : Prefers mode (-x) (-v) (-w) tie ↔ Prefers (mirror mode) x v w tie := by
  have hsub : ∀ y : ℚ, |-x - -y| = |x - y| := fun y => by rw [neg_sub_neg, abs_sub_comm]
  cases mode with
  | rn => simp only [Prefers, mirror, hsub, neg_inj]
  | rz => simp only [Prefers, mirror, abs_neg, neg_mul_neg]
  | rd => simp only [Prefers, mirror, neg_le_neg_iff]
  | ru => simp only [Prefers, mirror, neg_le_neg_iff]

section
variable {x lo hi w : ℚ} {odd tie : Prop} (hlo : lo ≤ x) (hhi : x < hi) (hw : w ≤ lo ∨ hi ≤ w)
include hlo hhi hw

/-- The upper of two neighbours is preferred to every other value where the mode moves up. -/
theorem prefers_upper (mode : RMode) (htie : odd → tie) (hup : MovesUp mode false odd ((x - lo) / (hi - lo))) : Prefers mode x hi w tie := by
  have hstep : 0 < hi - lo := by linarith
  cases mode with
  | rn =>
    have hfar : |x - hi| = hi - x := by rw [abs_of_nonpos (by linarith)]; ring
    have hhalf : hi - x < x - lo ∨ hi - x = x - lo ∧ odd := by
      refine hup.imp (fun h => ?_) fun h => ⟨?_, h.2⟩
      · rw [lt_div_iff₀ hstep] at h; linarith
      · have h' := (div_eq_iff hstep.ne').mp h.1; linarith
    have hgap : x - lo ≤ |x - w| ∨ hi - x ≤ |x - w| ∧ (hi - x = |x - w| → w = hi) := by
      refine hw.imp (fun h => ?_) fun h => ?_
      · rw [abs_of_nonneg (by linarith)]; linarith
      · rw [abs_of_nonpos (by linarith)]; exact ⟨by linarith, fun _ => by linarith⟩
    rw [← hfar] at hhalf hgap
    refine prefers_rn ?_ fun he => ?_
    · have hle : |x - hi| ≤ x - lo := hhalf.elim le_of_lt fun h => h.1.le
      exact hgap.elim hle.trans And.left
    · rcases hgap with h | h
      · rcases hhalf with h' | h'
        · linarith
        · exact .inr (htie h'.2)
      · exact .inl (h.2 he)
  | rz => exact absurd hup.1 (by simp [awayMode])
  | rd => exact absurd hup.1 (by simp [awayMode])
  | ru =>
    have hpos : 0 < x - lo := by
      have := mul_pos hup.2 hstep
      rwa [div_mul_cancel₀ _ hstep.ne'] at this
    exact ⟨hhi.le, fun h => hw.elim (fun h' => by linarith) id⟩

/-- The lower of two neighbours is preferred to every other value where the mode does not move up. -/
theorem prefers_lower (h0 : 0 ≤ lo) (mode : RMode) (htie : ¬ odd → tie) (hup : ¬ MovesUp mode false odd ((x - lo) / (hi - lo))) : Prefers mode x lo w tie := by
  have hstep : 0 < hi - lo := by linarith
  have hx : 0 ≤ x := h0.trans hlo
  cases mode with
  | rn =>
    have hnear : |x - lo| = x - lo := abs_of_nonneg (by linarith)
    obtain ⟨hle, htied⟩ : x - lo ≤ hi - x ∧ (x - lo = hi - x → tie) := by
      simp only [MovesUp, not_or, not_lt, not_and, div_le_iff₀ hstep, div_eq_iff hstep.ne'] at hup
      exact ⟨by linarith [hup.1], fun h => htie (hup.2 (by linarith))⟩
    have hgap : (x - lo ≤ |x - w| ∧ (x - lo = |x - w| → w = lo)) ∨ hi - x ≤ |x - w| := by
      refine hw.imp (fun h => ?_) fun h => ?_
      · rw [abs_of_nonneg (by linarith)]; exact ⟨by linarith, fun _ => by linarith⟩
      · rw [abs_of_nonpos (by linarith)]; linarith
    rw [← hnear] at hle htied hgap
    refine prefers_rn ?_ fun he => ?_
    · rcases hgap with h | h
      · exact h.1
      · linarith
    · rcases hgap with h | h
      · exact .inl (h.2 he)
      · exact .inr (htied (by linarith))
  | rz =>
    refine ⟨by rwa [abs_of_nonneg h0, abs_of_nonneg hx], mul_nonneg h0 hx, fun h h' => ?_⟩
    rw [abs_of_nonneg hx] at h
    rw [abs_of_nonneg h0]
    have hlt : w < hi := (le_abs_self w).trans_lt (h.trans_lt hhi)
    have hwlo : w ≤ lo := hw.resolve_right (not_le.mpr hlt)
    rcases hx.eq_or_lt with rfl | hpos
    · linarith
    · rwa [abs_of_nonneg (nonneg_of_mul_nonneg_left h' hpos)]
  | rd => exact ⟨hlo, fun h => hw.resolve_right (by linarith)⟩
  | ru =>
    have hxlo : x = lo := by
      have hnot : ¬ 0 < (x - lo) / (hi - lo) := fun h => hup ⟨rfl, h⟩
      rw [div_pos_iff_of_pos_right hstep] at hnot
      linarith
    exact ⟨hxlo.le, fun h => hxlo ▸ h⟩

end

/-- The same for a number of either sign. -/
theorem prefers_withNeg (mode : RMode) (neg : Bool) {x lo hi w : ℚ} {odd tie : Prop} (h0 : 0 ≤ lo) (hlo : lo ≤ x) (hhi : x < hi)
    (hw : w ≤ lo ∨ hi ≤ w) :
    ((odd → tie) → MovesUp mode neg odd ((x - lo) / (hi - lo)) → Prefers mode (withNeg neg x) (withNeg neg hi) (withNeg neg w) tie) ∧
    ((¬ odd → tie) → ¬ MovesUp mode neg odd ((x - lo) / (hi - lo)) → Prefers mode (withNeg neg x) (withNeg neg lo) (withNeg neg w) tie) := by
  cases neg with
  | false => exact ⟨prefers_upper hlo hhi hw mode, prefers_lower hlo hhi hw h0 mode⟩
  | true =>
    simp only [withNeg, if_true, prefers_neg, ← movesUp_mirror mode]
    exact ⟨prefers_upper hlo hhi hw _, prefers_lower hlo hhi hw h0 _⟩

/-! ### The float formats of R65 -/

/-- What the numbers that the manual gives for a float format say of the model's record of it. -/
structure Describes (f : Nat) (F : FloatFmt) : Prop where
  kind   : numKind f = .float F
  fields : floatFields f = some (F.eb, F.fb)
  frac   : 1 ≤ F.fb
  exp    : 1 ≤ F.eb
  low    : F.qmin = 1 - (2 ^ (F.eb - 1) - 1) - F.fb
  big    : F.big = bigCode f F.eb F.fb
  inf    : f < 4 → F.infC = (2 ^ F.eb - 1) * 2 ^ F.fb
  sp     : F.sp = if f < 4 then .ieee else if f = 4 then .nanOnly else .none
  nan    : F.nanC = if f < 3 then (2 ^ F.eb - 1) * 2 ^ F.fb + 2 ^ (F.fb - 1) else if f = 3 then 0x7E else if f = 4 then 0x7F else 0
  finite : ∀ c, finiteCode f c ↔ c < 2 ^ (F.signPos + 1) ∧ c % 2 ^ F.signPos ≤ F.big
  room   : F.big < 2 ^ F.signPos ∧ F.nanC < 2 ^ F.signPos
  step   : codeMag F.fb F.qmin (F.big + 1) - codeMag F.fb F.qmin F.big = topStep f F.eb F.fb

theorem describes {f : Nat} (hf : f < 8) {F : FloatFmt} (hF : numKind f = .float F) : Describes f F := by
  interval_cases f <;> simp only [numKind, NumKind.float.injEq] at hF <;> subst hF
  all_goals
    refine ⟨rfl, rfl, by decide, by decide, by decide, by decide, by decide, by decide, by decide, fun c => ?_, by decide, ?_⟩
    · simp only [finiteCode, floatFields, FloatFmt.signPos, true_and, fF32, fF16, fBF16, fE5M2, fE4M3, fE3M2, fE2M3, fE2M1]
      omega
    · norm_num [codeMag, topStep, fF32, fF16, fBF16, fE5M2, fE4M3, fE3M2, fE2M3, fE2M1]

/-! ### Codes and their values -/

theorem signPos_eq (F : FloatFmt) : F.signPos = F.eb + F.fb := Nat.add_comm ..

theorem withSign_eq (F : FloatFmt) (neg : Bool) (m : Nat) : withSign F.eb F.fb neg m = F.signed neg m := by
  rw [withSign, FloatFmt.signed, signPos_eq, Nat.add_comm]

theorem signed_spec (F : FloatFmt) (neg : Bool) {m : Nat} (hm : m < 2 ^ F.signPos) :
    F.signed neg m < 2 ^ (F.signPos + 1) ∧ F.signed neg m % 2 ^ F.signPos = m ∧ F.signed neg m / 2 ^ F.signPos = (if neg then 1 else 0) := by
  have hpow : 2 ^ (F.signPos + 1) = 2 ^ F.signPos + 2 ^ F.signPos := by rw [Nat.pow_succ, Nat.mul_two]
  cases neg with
  | false => simp only [FloatFmt.signed, Bool.false_eq_true, if_false, Nat.zero_add]; exact ⟨by omega, Nat.mod_eq_of_lt hm, Nat.div_eq_of_lt hm⟩
  | true =>
    simp only [FloatFmt.signed, if_true]
    exact ⟨by omega, by rw [Nat.add_mod_left, Nat.mod_eq_of_lt hm], by rw [Nat.add_div_left _ (by omega), Nat.div_eq_of_lt hm]⟩

/-- A code from its sign bit and its magnitude. -/
theorem eq_signed {F : FloatFmt} {c : Nat} (hc : c < 2 ^ (F.signPos + 1)) : c = F.signed (c / 2 ^ F.signPos % 2 == 1) (c % 2 ^ F.signPos) := by
  have hdiv := Nat.div_add_mod' c (2 ^ F.signPos)
  have hlt : c / 2 ^ F.signPos < 2 := by rw [Nat.div_lt_iff_lt_mul (Nat.two_pow_pos _), ← Nat.pow_succ']; exact hc
  rw [FloatFmt.signed]
  rcases Nat.le_one_iff_eq_zero_or_eq_one.mp (Nat.lt_succ_iff.mp hlt) with h | h
  · rw [h] at hdiv ⊢
    exact (by simpa using hdiv.symm)
  · rw [h] at hdiv ⊢
    exact (by simpa using hdiv.symm)

variable {f : Nat} {F : FloatFmt}

/-- The magnitude of a code by its fields (R69, R76). -/
theorem fieldMag_eq (hlow : F.qmin = 1 - (2 ^ (F.eb - 1) - 1) - F.fb) (c : Nat) :
    fieldMag F.eb F.fb c = codeMag F.fb F.qmin (c % 2 ^ F.signPos) := by
  have hdiv : c / 2 ^ F.fb % 2 ^ F.eb = c % 2 ^ F.signPos / 2 ^ F.fb := by rw [FloatFmt.signPos, Nat.pow_add, Nat.mod_mul_right_div_self]
  have hmod : c % 2 ^ F.fb = c % 2 ^ F.signPos % 2 ^ F.fb := (Nat.mod_mod_of_dvd _ (Nat.pow_dvd_pow 2 (Nat.le_add_right ..))).symm
  rw [fieldMag, hdiv, hmod, hlow]
  generalize c % 2 ^ F.signPos = m
  rw [codeMag]
  split
  next h =>
    rw [h, Nat.mod_eq_of_lt ((Nat.div_eq_zero_iff_lt (Nat.two_pow_pos _)).mp h)]
    simp
  next h =>
    congr 2
    have : max (m / 2 ^ F.fb) 1 = 1 + (m / 2 ^ F.fb - 1) := by omega
    rw [this]
    push_cast
    ring

theorem codeValue_eq (h : Describes f F) (c : Nat) :
    codeValue f c = withNeg (c / 2 ^ F.signPos % 2 == 1) (codeMag F.fb F.qmin (c % 2 ^ F.signPos)) := by
  rw [codeValue, h.fields]
  simp only [fieldMag_eq h.low, ← signPos_eq, withNeg, beq_iff_eq]

end Sys2Proof.Laws.Rounding

/-! ## Results in float formats (R69, R70, R73, R76, R82) -/

namespace Sys2Proof.Laws.Rounding
open Sys2Proof Sys2Proof.Machine

variable {f : Nat} {F : FloatFmt}

/-! ### Within the finite range -/

theorem withNeg_withNeg (neg : Bool) (x : ℚ) : withNeg neg (withNeg neg x) = x := by cases neg <;> simp [withNeg]

theorem withNeg_zero (neg : Bool) : withNeg neg 0 = 0 := by cases neg <;> simp [withNeg]

theorem signPos_pos (h : Describes f F) : 1 ≤ F.signPos := h.frac.trans (Nat.le_add_right ..)

theorem signed_mod_two (h : Describes f F) (neg : Bool) (m : Nat) : F.signed neg m % 2 = m % 2 := by
  obtain ⟨n, hn⟩ : ∃ n, F.signPos = n + 1 := ⟨F.signPos - 1, by have := signPos_pos h; omega⟩
  rw [FloatFmt.signed, hn, Nat.pow_succ]
  split <;> omega

theorem finite_signed (h : Describes f F) (neg : Bool) {m : Nat} (hm : m ≤ F.big) : finiteCode f (F.signed neg m) := by
  obtain ⟨hlt, hmod, -⟩ := signed_spec F neg (hm.trans_lt h.room.1)
  exact (h.finite _).mpr ⟨hlt, by rwa [hmod]⟩

theorem codeValue_signed (h : Describes f F) (neg : Bool) {m : Nat} (hm : m ≤ F.big) :
    codeValue f (F.signed neg m) = withNeg neg (codeMag F.fb F.qmin m) := by
  obtain ⟨-, hmod, hdiv⟩ := signed_spec F neg (hm.trans_lt h.room.1)
  rw [codeValue_eq h, hmod, hdiv]
  cases neg <;> rfl

/-- A finite code's value, seen with a sign, lies at a code's magnitude or below zero: not between two neighbours. -/
theorem codeValue_apart (h : Describes f F) (neg : Bool) (a k : Nat) :
    withNeg neg (codeValue f k) ≤ codeMag F.fb F.qmin a ∨ codeMag F.fb F.qmin (a + 1) ≤ withNeg neg (codeValue f k) := by
  have hmono := (codeMag_strictMono F.fb F.qmin).monotone
  rw [codeValue_eq h]
  generalize k % 2 ^ F.signPos = m
  by_cases hs : (k / 2 ^ F.signPos % 2 == 1) = neg
  · rw [hs, withNeg_withNeg]
    rcases Nat.lt_or_ge a m with hm | hm
    · exact .inr (hmono hm)
    · exact .inl (hmono hm)
  · refine .inl (le_trans ?_ (codeMag_nonneg F.fb F.qmin a))
    have := codeMag_nonneg F.fb F.qmin m
    cases neg <;> simp_all [withNeg]

/-- Of the two codes around a magnitude, the mode chooses the one that rounding gives. -/
theorem chosen_between (h : Describes f F) {mode : RMode} {neg : Bool} {x : ℚ} {a c : Nat} (hlo : codeMag F.fb F.qmin a ≤ x)
    (hhi : x < codeMag F.fb F.qmin (a + 1)) (hc : c ≤ F.big)
    (hup : MovesUp mode neg (a % 2 = 1) (passed F.fb F.qmin x a) → c = a + 1) (hdown : ¬ MovesUp mode neg (a % 2 = 1) (passed F.fb F.qmin x a) → c = a) :
    Chosen mode f (withNeg neg x) (F.signed neg c) := by
  refine (chosen_iff ..).mpr ⟨finite_signed h neg hc, fun k _ => ?_⟩
  obtain ⟨hupper, hlower⟩ := prefers_withNeg (w := withNeg neg (codeValue f k)) (odd := a % 2 = 1) (tie := F.signed neg c % 2 = 0 ∨ k % 2 = 1)
    mode neg (codeMag_nonneg F.fb F.qmin a) hlo hhi (codeValue_apart h neg a k)
  rw [withNeg_withNeg, signed_mod_two h] at hupper hlower
  rw [codeValue_signed h neg hc, signed_mod_two h]
  by_cases hm : MovesUp mode neg (a % 2 = 1) (passed F.fb F.qmin x a)
  · rw [hup hm] at hupper ⊢
    exact hupper (fun hodd => .inl (by omega)) hm
  · rw [hdown hm] at hlower ⊢
    exact hlower (fun hodd => .inl (by omega)) hm

theorem sign_signed (h : Describes f F) (neg : Bool) {m : Nat} (hm : m ≤ F.big) : F.signed neg m / 2 ^ (F.eb + F.fb) = 1 ↔ neg = true := by
  rw [← signPos_eq, (signed_spec F neg (hm.trans_lt h.room.1)).2.2]
  cases neg <;> simp

/-! ### Rounding with overflow -/

/-- A finite value rounded, with the code that an overflow to infinity gives. -/
def roundedCode (F : FloatFmt) (mode : RMode) (ovf : Nat) (neg : Bool) (num den : Nat) : Nat :=
  if num = 0 then F.signed neg 0
  else match F.roundMag mode neg num den with
    | some mag => F.signed neg mag
    | none => F.signed neg (if overflowInf mode neg then ovf else F.big)

theorem roundedCode_some {mode : RMode} {neg : Bool} {num den ovf m : Nat} (hn : num ≠ 0) (h : F.roundMag mode neg num den = some m) :
    roundedCode F mode ovf neg num den = F.signed neg m := by rw [roundedCode, if_neg hn, h]

theorem roundedCode_none {mode : RMode} {neg : Bool} {num den ovf : Nat} (hn : num ≠ 0) (h : F.roundMag mode neg num den = none) :
    roundedCode F mode ovf neg num den = F.signed neg (if overflowInf mode neg then ovf else F.big) := by rw [roundedCode, if_neg hn, h]

/-- Within the finite range a mode's code is chosen, zeros included. -/
theorem roundedCode_within (h : Describes f F) (mode : RMode) (ovf : Nat) (neg : Bool) {num den : Nat} (hd : 0 < den)
    (hx : (num / den : ℚ) ≤ codeMag F.fb F.qmin F.big) :
    ∃ c ≤ F.big, roundedCode F mode ovf neg num den = F.signed neg c ∧ Chosen mode f (withNeg neg (num / den)) (F.signed neg c) := by
  have hmono := codeMag_strictMono F.fb F.qmin
  rcases Nat.eq_zero_or_pos num with rfl | hn
  · have hpass : passed F.fb F.qmin ((0 : Nat) / den) 0 = 0 := by simp [passed]
    refine ⟨0, Nat.zero_le _, by rw [roundedCode, if_pos rfl], chosen_between h (a := 0) (by simp) ?_ (Nat.zero_le _) (fun hm => ?_) fun _ => rfl⟩
    · simpa using hmono Nat.zero_lt_one
    · rw [hpass] at hm
      exact absurd hm (not_movesUp_zero mode neg _)
  · obtain ⟨a, hlo, hhi, hup, hdown⟩ := roundMag_spec F h.frac mode neg hn hd
    have ha : a ≤ F.big := hmono.le_iff_le.mp (hlo.trans hx)
    have hodd : MovesUp mode neg (a % 2 = 1 ∨ a = F.big) (passed F.fb F.qmin (num / den) a) ↔
        MovesUp mode neg (a % 2 = 1) (passed F.fb F.qmin (num / den) a) ∧ a < F.big := by
      rcases ha.eq_or_lt with rfl | hlt
      · have hpass : passed F.fb F.qmin (num / den) F.big = 0 := by rw [passed, le_antisymm hx hlo, sub_self, zero_div]
        rw [hpass]
        exact ⟨fun hm => absurd hm (not_movesUp_zero mode neg _), fun hm => absurd hm.1 (not_movesUp_zero mode neg _)⟩
      · simp only [hlt.ne, or_false, hlt, and_true]
    simp only [hodd] at hup hdown
    by_cases hm : MovesUp mode neg (a % 2 = 1) (passed F.fb F.qmin (num / den) a) ∧ a < F.big
    · rw [if_pos (Nat.succ_le_of_lt hm.2)] at hup
      exact ⟨a + 1, hm.2, roundedCode_some hn.ne' (hup hm), chosen_between h hlo hhi hm.2 (fun _ => rfl) fun hn => absurd hm.1 hn⟩
    · rw [if_pos ha] at hdown
      refine ⟨a, ha, roundedCode_some hn.ne' (hdown hm), chosen_between h hlo hhi ha (fun hm' => ?_) fun _ => rfl⟩
      obtain rfl : a = F.big := by by_contra hne; exact hm ⟨hm', by omega⟩
      rw [passed, le_antisymm hx hlo, sub_self, zero_div] at hm'
      exact absurd hm' (not_movesUp_zero mode neg _)

/-- Beyond the largest finite value: nearest overflows from halfway to the next value on, the directed modes on their side. -/
def Above (F : FloatFmt) (f : Nat) (mode : RMode) (neg : Bool) (x : ℚ) : Prop :=
  awayMode mode neg = true ∨ mode = .rn ∧ codeMag F.fb F.qmin F.big + topStep f F.eb F.fb / 2 ≤ x

theorem overflowInf_of_above {mode : RMode} {neg : Bool} {x : ℚ} (h : Above F f mode neg x) : overflowInf mode neg = true := by
  cases mode <;> simp_all [Above, overflowInf, awayMode]

theorem topStep_pos (h : Describes f F) : 0 < topStep f F.eb F.fb := by
  rw [← h.step, sub_pos]
  exact codeMag_strictMono F.fb F.qmin (Nat.lt_succ_self _)

/-- At the largest code rounding moves up exactly where the value overflows. -/
theorem movesUp_big_iff (h : Describes f F) (mode : RMode) (neg : Bool) {x : ℚ} (hx : codeMag F.fb F.qmin F.big < x) (p : Prop) :
    MovesUp mode neg (p ∨ F.big = F.big) (passed F.fb F.qmin x F.big) ↔ Above F f mode neg x := by
  have hpos := topStep_pos h
  have hpass : 0 < passed F.fb F.qmin x F.big := by rw [passed, h.step]; exact div_pos (by linarith) hpos
  cases mode with
  | rn =>
    simp only [MovesUp, Above, awayMode, or_true, and_true, Bool.false_eq_true, false_or, true_and, eq_comm (b := (1 / 2 : ℚ)), ← le_iff_lt_or_eq]
    rw [passed, h.step, le_div_iff₀ hpos]
    constructor <;> intro hle <;> linarith
  | rz => simp [MovesUp, Above, awayMode]
  | rd => simp [MovesUp, Above, hpass]
  | ru => simp [MovesUp, Above, hpass]

theorem roundedCode_beyond (h : Describes f F) (mode : RMode) (ovf : Nat) (neg : Bool) {num den : Nat} (hd : 0 < den)
    (hx : codeMag F.fb F.qmin F.big < (num / den : ℚ)) :
    (Above F f mode neg (num / den) → roundedCode F mode ovf neg num den = F.signed neg ovf) ∧
    (¬ Above F f mode neg (num / den) → roundedCode F mode ovf neg num den = F.signed neg F.big) := by
  have hmono := codeMag_strictMono F.fb F.qmin
  have hn : 0 < num := by
    rcases Nat.eq_zero_or_pos num with rfl | hn
    · exact absurd hx (by simpa using codeMag_nonneg F.fb F.qmin F.big)
    · exact hn
  obtain ⟨a, hlo, hhi, hup, hdown⟩ := roundMag_spec F h.frac mode neg hn hd
  have ha : F.big ≤ a := Nat.lt_succ_iff.mp (hmono.lt_iff_lt.mp (hx.trans hhi))
  rcases ha.eq_or_lt with rfl | hlt
  · rw [if_neg (by omega)] at hup
    rw [if_pos le_rfl] at hdown
    rw [movesUp_big_iff h mode neg hx] at hup hdown
    exact ⟨fun ha => by rw [roundedCode_none hn.ne' (hup ha), if_pos (overflowInf_of_above ha)], fun ha => roundedCode_some hn.ne' (hdown ha)⟩
  · rw [if_neg (by omega)] at hup hdown
    have hnone : F.roundMag mode neg num den = none := (Classical.em _).elim hup hdown
    have hfar : codeMag F.fb F.qmin F.big + topStep f F.eb F.fb ≤ num / den := by
      rw [← h.step, add_sub_cancel]
      exact (hmono.monotone hlt).trans hlo
    rw [roundedCode_none hn.ne' hnone]
    have hpos := topStep_pos h
    refine ⟨fun ha => by rw [if_pos (overflowInf_of_above ha)], fun ha => ?_⟩
    suffices hno : ¬ overflowInf mode neg = true by rw [if_neg hno]
    refine fun ho => ha ?_
    cases mode with
    | rn => exact .inr ⟨rfl, by linarith⟩
    | rz => simp [overflowInf] at ho
    | rd => exact .inl ho
    | ru => exact .inl ho

end Sys2Proof.Laws.Rounding

namespace Sys2Proof.Laws.Rounding
open Sys2Proof Sys2Proof.Machine

variable {f : Nat} {F : FloatFmt}

/-! ### Exact values of the model and of the statements -/

/-- The exact value that a value of the model stands for. -/
def exactVal : FVal → ExactValue
  | .nan => .nan
  | .inf neg => .inf neg
  | .fin neg num den => .num neg (num / den)

/-- A finite value has a denominator. -/
def Proper : FVal → Prop
  | .fin _ _ den => 0 < den
  | _ => True

theorem exactVal_scaled (neg : Bool) (m : Nat) (q : ℤ) : exactVal (scaled neg m q) = .num neg (m * 2 ^ q) := by
  rw [scaled]
  split
  next h => rw [exactVal, zpow_of_nonneg h]; push_cast; rw [div_one]
  next h => rw [exactVal, zpow_of_neg h, div_eq_mul_inv]

theorem proper_scaled (neg : Bool) (m : Nat) (q : ℤ) : Proper (scaled neg m q) := by
  rw [scaled]
  split
  · exact Nat.one_pos
  · exact Nat.two_pow_pos _

/-! ### Flushed results (R70) -/

theorem fieldMag_of_lt (h : Describes f F) {c : Nat} (hc : c < 2 ^ F.signPos) : fieldMag F.eb F.fb c = codeMag F.fb F.qmin c := by
  rw [fieldMag_eq h.low, Nat.mod_eq_of_lt hc]

theorem fieldMag_big (h : Describes f F) : fieldMag F.eb F.fb (bigCode f F.eb F.fb) = codeMag F.fb F.qmin F.big := by
  rw [← h.big, fieldMag_of_lt h h.room.1]

/-- The smallest normal value. -/
theorem fieldMag_normal (h : Describes f F) : fieldMag F.eb F.fb (2 ^ F.fb) = 2 ^ (F.qmin + F.fb) := by
  have hlt : 2 ^ F.fb < 2 ^ F.signPos := Nat.pow_lt_pow_right Nat.one_lt_two (by have := h.exp; rw [FloatFmt.signPos]; omega)
  rw [fieldMag_of_lt h hlt, ← Nat.zero_add (2 ^ F.fb), ← Nat.zero_mul (2 ^ F.fb),
    codeMag_add _ (.inl rfl) (Nat.pow_le_pow_right two_pos (Nat.le_succ _)), Nat.cast_pow, Nat.cast_zero, add_zero, add_comm, zpow_add₀ two_ne_zero,
    zpow_natCast, Nat.cast_two]

theorem tiny_iff (h : Describes f F) (num : Nat) {den : Nat} (hd : 0 < den) :
    F.tiny num den = true ↔ (0 : ℚ) < num / den ∧ (num / den : ℚ) < fieldMag F.eb F.fb (2 ^ F.fb) := by
  rw [fieldMag_normal h, FloatFmt.tiny, Bool.and_eq_true, bne_iff_ne, decide_eq_true_iff, div_pos_iff_of_pos_right (by exact_mod_cast hd), Nat.cast_pos,
    ← Nat.pos_iff_ne_zero]
  refine and_congr_right fun hn => ?_
  obtain ⟨hlo, hhi⟩ := flog2_spec hn hd
  constructor
  · exact fun hlt => hhi.trans_le (zpow_le_zpow_right₀ one_le_two (by omega))
  · exact fun hlt => (zpow_lt_zpow_iff_right₀ one_lt_two).mp (hlo.trans_lt hlt)

/-! ### Results -/

/-- A finite value in a float format, flushed where the modifier says so. -/
theorem inFloat_num (h : Describes f F) (mode : RMode) (range ftz whole neg : Bool) (num : Nat) {den : Nat} (hd : 0 < den) {ovf c : Nat}
    (hovf : ovf = if f < 3 then (if range then F.big else (2 ^ F.eb - 1) * 2 ^ F.fb)
      else if f = 3 then (if range || whole then (2 ^ F.eb - 1) * 2 ^ F.fb else F.big) else if f = 4 ∧ range = true then 0x7F else F.big)
    (hflush : ftz = true ∧ f < 3 → F.tiny num den = true → c = F.signed neg 0)
    (hround : ¬ ((ftz = true ∧ f < 3) ∧ F.tiny num den = true) → c = roundedCode F mode ovf neg num den) :
    InFloat f F.eb F.fb mode range ftz whole (.num neg (num / den)) c := by
  simp only [InFloat, withSign_eq, ← h.big, ← hovf]
  rw [h.big, fieldMag_big h, ← h.big]
  by_cases ht : (ftz = true ∧ f < 3) ∧ F.tiny num den = true
  · rw [if_pos ⟨ht.1.1, ht.1.2, (tiny_iff h num hd).mp ht.2⟩]
    exact hflush ht.1 ht.2
  · rw [if_neg fun ⟨h1, h2, h3⟩ => ht ⟨⟨h1, h2⟩, (tiny_iff h num hd).mpr h3⟩, hround ht]
    split
    next hbig => exact roundedCode_beyond h mode ovf neg hd hbig
    next hbig =>
      obtain ⟨m, hm, heq, hch⟩ := roundedCode_within h mode ovf neg hd (not_lt.mp hbig)
      rw [heq]
      exact ⟨hch, sign_signed h neg hm⟩

theorem result_fin (mode : RMode) (sat ftz neg : Bool) (num den : Nat) : F.result mode sat ftz (.fin neg num den) =
    if (ftz && F.tiny num den) = true then F.signed neg 0 else roundedCode F mode (if sat then F.big else F.infC) neg num den := by
  simp only [FloatFmt.result, Bool.or_eq_true, decide_eq_true_eq, roundedCode]
  by_cases hn : num = 0
  · simp only [hn, true_or, if_true, ite_self]
  · simp only [hn, false_or, if_false]
    split
    · rfl
    · cases F.roundMag mode neg num den with
      | some m => rfl
      | none => cases sat <;> simp

theorem toOcp_fin (mode : RMode) (range neg : Bool) (num den : Nat) : toOcp F mode range (.fin neg num den) =
    roundedCode F mode (if range then (match F.sp with | .ieee => F.infC | .nanOnly => F.nanC | .none => F.big) else F.big) neg num den := by
  simp only [toOcp, roundedCode]
  split
  · rfl
  · cases F.roundMag mode neg num den with
    | some m => rfl
    | none => cases range <;> cases overflowInf mode neg <;> rfl

/-- The result of an operation in f32, f16 or bf16 (R70 to R74). -/
theorem result_inFloat (h : Describes f F) (hf : f < 3) (mode : RMode) (sat ftz whole : Bool) {v : FVal} (hv : Proper v) :
    InFloat f F.eb F.fb mode sat ftz whole (exactVal v) (F.result mode sat ftz v) := by
  have hf4 : f < 4 := by omega
  cases v with
  | nan => simp only [exactVal, InFloat, FloatFmt.result, h.nan, if_pos hf]
  | inf neg => simp only [exactVal, InFloat, FloatFmt.result, withSign_eq, if_pos hf4, h.inf hf4]
  | fin neg num den =>
    rw [result_fin]
    refine inFloat_num h mode sat ftz whole neg num hv (by rw [if_pos hf, h.inf hf4]) (fun hftz ht => ?_) fun ht => if_neg fun hc => ht ?_
    · rw [hftz.1, ht]; rfl
    · rw [Bool.and_eq_true] at hc
      exact ⟨⟨hc.1, hf⟩, hc.2⟩

/-- A value in e5m2, e4m3, e3m2, e2m3 or e2m1 (R82). -/
theorem toOcp_inFloat (h : Describes f F) (hf : 3 ≤ f) (mode : RMode) (range ftz whole : Bool) {v : FVal} (hv : Proper v) :
    InFloat f F.eb F.fb mode range ftz whole (exactVal v) (toOcp F mode (range || (whole && F.sp == .ieee)) v) := by
  have hf3 : ¬ f < 3 := by omega
  cases v with
  | nan => simp only [exactVal, InFloat, toOcp, h.nan, if_neg hf3]
  | inf neg =>
    simp only [exactVal, InFloat, toOcp, withSign_eq, ← h.big, h.sp]
    by_cases h3 : f < 4
    · simp only [if_pos h3, h.inf h3]
    · by_cases h4 : f = 4
      · subst h4
        cases range <;> cases whole <;> simp [h.nan]
      · simp [h3, h4]
  | fin neg num den =>
    rw [toOcp_fin]
    refine inFloat_num h mode range ftz whole neg num hv ?_ (fun hftz => absurd hftz.2 hf3) fun _ => rfl
    rw [if_neg hf3, h.sp]
    by_cases h3 : f = 3
    · subst h3
      simp [h.inf (by decide)]
    · rw [if_neg h3, if_neg (by omega : ¬ f < 4)]
      by_cases h4 : f = 4
      · subst h4
        cases range <;> simp [h.nan]
      · simp [h4]

/-! ### The exact values of codes -/

/-- The exact value of an operand by its sign bit and its magnitude. -/
theorem exactOf_float (h : Describes f F) (ftz : Bool) (x : Nat) :
    let neg := x / 2 ^ F.signPos % 2 == 1
    let m := x % 2 ^ F.signPos
    exactOf f ftz x =
      if f < 4 ∧ m / 2 ^ F.fb = 2 ^ F.eb - 1 then (if m % 2 ^ F.fb = 0 then .inf neg else .nan)
      else if f = 4 ∧ m = F.nanC then .nan
      else .num neg (if ftz = true ∧ f < 3 ∧ m / 2 ^ F.fb = 0 then 0 else codeMag F.fb F.qmin m) := by
  intro neg m
  have hmod : x % 2 ^ (F.signPos + 1) % 2 ^ F.signPos = m := Nat.mod_mod_of_dvd _ (Nat.pow_dvd_pow 2 (Nat.le_succ _))
  have hneg : (decide (x % 2 ^ (F.signPos + 1) / 2 ^ F.signPos = 1)) = neg := by
    rw [Nat.pow_succ, Nat.mod_mul_right_div_self]
    rfl
  have hexp : x % 2 ^ (F.signPos + 1) / 2 ^ F.fb % 2 ^ F.eb = m / 2 ^ F.fb := by
    rw [← Nat.mod_mul_right_div_self, ← Nat.pow_add, ← hmod, FloatFmt.signPos]
  have hfrac : x % 2 ^ (F.signPos + 1) % 2 ^ F.fb = m % 2 ^ F.fb := by
    rw [← hmod, FloatFmt.signPos, Nat.mod_mod_of_dvd (x % _) (Nat.pow_dvd_pow 2 (Nat.le_add_right F.fb F.eb))]
  have hnan : f = 4 → (x % 2 ^ (F.signPos + 1) % 128 = 127 ↔ m = F.nanC) := by
    rintro rfl
    have hsp : F.signPos = 7 := by
      have := h.fields
      simp only [floatFields, Option.some.injEq, Prod.mk.injEq] at this
      rw [signPos_eq, ← this.1, ← this.2]
    rw [← hmod, h.nan, hsp]
    norm_num
  simp only [exactOf, h.fields, ← signPos_eq, hneg, hexp, hfrac, fieldMag_eq h.low, hmod, and_congr_right_iff.mpr hnan]

/-- The value of a code by its sign bit and its magnitude. -/
theorem exactVal_value (h : Describes f F) (x : Nat) : exactVal (F.value x) = exactOf f false x := by
  rw [exactOf_float h false x]
  simp only [FloatFmt.value, h.sp, Bool.and_eq_true, beq_iff_eq, Bool.false_eq_true, false_and, if_false]
  have hieee : (if f < 4 then Specials.ieee else if f = 4 then .nanOnly else .none) = .ieee ↔ f < 4 := by split_ifs <;> simp_all
  have hnan : (if f < 4 then Specials.ieee else if f = 4 then .nanOnly else .none) = .nanOnly ↔ f = 4 := by
    split_ifs <;> simp_all
    omega
  simp only [hieee, hnan]
  split_ifs with h1 h2 h3 h4
  · rfl
  · rfl
  · rfl
  · rw [exactVal_scaled, codeMag, if_pos h4, Nat.mod_eq_of_lt ((Nat.div_eq_zero_iff_lt (Nat.two_pow_pos _)).mp h4)]
  · rw [exactVal_scaled, codeMag, if_neg h4]

theorem proper_value (F : FloatFmt) (x : Nat) : Proper (F.value x) := by
  simp only [FloatFmt.value]
  split_ifs
  · exact trivial
  · exact trivial
  · exact trivial
  · exact proper_scaled ..
  · exact proper_scaled ..

/-- An operand, read under the flush modifier (R70, R82). -/
theorem exactVal_read (h : Describes f F) (ftz : Bool) (x : Nat) : exactVal (F.read (ftz && isIeee f) x) = exactOf f ftz x := by
  rw [FloatFmt.read, exactVal_value h, FloatFmt.flushBits]
  have hsub : F.subnormal x = true ↔ x % 2 ^ F.signPos ≠ 0 ∧ x % 2 ^ F.signPos / 2 ^ F.fb = 0 := by
    rw [FloatFmt.subnormal, Bool.and_eq_true, bne_iff_ne, decide_eq_true_iff, Nat.div_eq_zero_iff_lt (Nat.two_pow_pos _)]
  have hexp : 1 < 2 ^ F.eb := Nat.one_lt_two_pow (by have := h.exp; omega)
  split
  next hf =>
    simp only [Bool.and_eq_true, isIeee, decide_eq_true_iff, hsub] at hf
    obtain ⟨⟨rfl, hf3⟩, -, hsmall⟩ := hf
    obtain ⟨-, hmod, hdiv⟩ := signed_spec F (x / 2 ^ F.signPos % 2 == 1) (Nat.two_pow_pos F.signPos)
    have hneg : ∀ b : Bool, ((if b = true then 1 else 0) % 2 == 1) = b := by decide
    rw [exactOf_float h, exactOf_float h]
    simp only [hmod, hdiv, hneg, hsmall, Nat.zero_div, hf3, codeMag_zero, ite_self, and_self, if_true]
    rw [if_neg (by omega), if_neg (by omega), if_neg (by omega), if_neg (by omega)]
  next hf =>
    simp only [Bool.and_eq_true, isIeee, decide_eq_true_iff, hsub] at hf
    have hzero : ftz = true ∧ f < 3 ∧ x % 2 ^ F.signPos / 2 ^ F.fb = 0 → codeMag F.fb F.qmin (x % 2 ^ F.signPos) = 0 := fun ⟨h1, h2, h3⟩ => by
      have hz : x % 2 ^ F.signPos = 0 := by by_contra hne; exact hf ⟨⟨h1, h2⟩, hne, h3⟩
      rw [hz, codeMag_zero]
    rw [exactOf_float h, exactOf_float h]
    simp only [Bool.false_eq_true, false_and, if_false]
    have hmag : (if ftz = true ∧ f < 3 ∧ x % 2 ^ F.signPos / 2 ^ F.fb = 0 then 0 else codeMag F.fb F.qmin (x % 2 ^ F.signPos)) =
        codeMag F.fb F.qmin (x % 2 ^ F.signPos) := ite_eq_right_iff.mpr fun hc => (hzero hc).symm
    rw [hmag]

theorem proper_read (F : FloatFmt) (ftz : Bool) (x : Nat) : Proper (F.read ftz x) := proper_value F _

/-! ### A code is the rounding of its own value -/

theorem codeMag_signed_inj (F : FloatFmt) (neg : Bool) {a b : Nat} (h : withNeg neg (codeMag F.fb F.qmin a) = withNeg neg (codeMag F.fb F.qmin b)) :
    a = b := by
  refine (codeMag_strictMono F.fb F.qmin).injective ?_
  rw [← withNeg_withNeg neg (codeMag F.fb F.qmin a), h, withNeg_withNeg]

/-- A mode that may choose the exact value chooses it. -/
theorem eq_of_prefers {mode : RMode} {x v : ℚ} {tie : Prop} (h : Prefers mode x v x tie) : v = x := by
  cases mode with
  | rn =>
    simp only [Prefers, sub_self, abs_zero] at h
    have hzero : |x - v| = 0 := h.elim (fun h => absurd h (not_lt.mpr (abs_nonneg _))) And.left
    linarith [abs_eq_zero.mp hzero]
  | rz =>
    obtain ⟨hle, hsign, hbest⟩ := h
    have habs : |v| = |x| := le_antisymm hle (hbest le_rfl (mul_self_nonneg x))
    rcases abs_eq_abs.mp habs with h | h
    · exact h
    · rw [h] at hsign ⊢
      have : x * x = 0 := le_antisymm (by linarith) (mul_self_nonneg x)
      simp [mul_self_eq_zero.mp this]
  | rd => exact le_antisymm h.1 (h.2 le_rfl)
  | ru => exact le_antisymm (h.2 le_rfl) h.1

/-- The magnitudes of an IEEE format: numbers, then infinity, then NaNs. -/
theorem le_big_of_exponent (h : Describes f F) (hf : f < 4) {m : Nat} (hm : m < 2 ^ F.signPos) (he : m / 2 ^ F.fb ≠ 2 ^ F.eb - 1) : m ≤ F.big := by
  have hpos : 0 < 2 ^ F.fb := Nat.two_pow_pos _
  have hexp : m / 2 ^ F.fb < 2 ^ F.eb := by
    rw [Nat.div_lt_iff_lt_mul hpos, ← Nat.pow_add, ← signPos_eq]
    exact hm
  have hlt : m < (2 ^ F.eb - 1) * 2 ^ F.fb := (Nat.div_lt_iff_lt_mul hpos).mp (by omega)
  rw [← h.inf hf, FloatFmt.infC] at hlt
  omega

/-- The exact value of a code from its sign and its magnitude. -/
theorem exactOf_signed (h : Describes f F) (neg : Bool) {m : Nat} (hm : m < 2 ^ F.signPos) :
    exactOf f false (F.signed neg m) = if f < 4 ∧ m / 2 ^ F.fb = 2 ^ F.eb - 1 then (if m % 2 ^ F.fb = 0 then .inf neg else .nan)
      else if f = 4 ∧ m = F.nanC then .nan else .num neg (codeMag F.fb F.qmin m) := by
  obtain ⟨-, hmod, hdiv⟩ := signed_spec F neg hm
  have hneg : ((if neg = true then 1 else 0) % 2 == 1) = neg := by cases neg <;> rfl
  rw [exactOf_float h]
  simp only [hmod, hdiv, hneg, Bool.false_eq_true, false_and, if_false]

/-- A finite code is the only one with its sign and its value. -/
theorem eq_of_codeValue (h : Describes f F) {c : Nat} {neg : Bool} {m : Nat} (hc : finiteCode f c) (hsign : c / 2 ^ (F.eb + F.fb) = 1 ↔ neg = true)
    (hval : codeValue f c = withNeg neg (codeMag F.fb F.qmin m)) : c = F.signed neg m := by
  have hlt := ((h.finite c).mp hc).1
  have hquot : c / 2 ^ F.signPos < 2 := by rw [Nat.div_lt_iff_lt_mul (Nat.two_pow_pos _), ← Nat.pow_succ']; exact hlt
  have hneg : (c / 2 ^ F.signPos % 2 == 1) = neg := by
    rw [Nat.mod_eq_of_lt hquot, Bool.eq_iff_iff, beq_iff_eq, signPos_eq]
    exact hsign
  rw [codeValue_eq h, hneg] at hval
  rw [eq_signed hlt, hneg, codeMag_signed_inj F neg hval]

/-- Settles O10: an infinity gives its own code, and of the finite codes a mode chooses the one whose value is exact. -/
theorem floatCodesAreFixed : Obligations.FloatCodesAreFixed := by
  intro F hF mode sat c hc hnan
  obtain ⟨f, hf, hkind⟩ : ∃ f < 3, numKind f = .float F := by
    simp only [List.mem_cons, List.not_mem_nil, or_false] at hF
    rcases hF with rfl | rfl | rfl
    · exact ⟨0, by decide, rfl⟩
    · exact ⟨1, by decide, rfl⟩
    · exact ⟨2, by decide, rfl⟩
  have h := describes (by omega) hkind
  have hf4 : f < 4 := by omega
  obtain ⟨neg, m, hm, rfl⟩ : ∃ neg m, m < 2 ^ F.signPos ∧ c = F.signed neg m := ⟨_, _, Nat.mod_lt _ (Nat.two_pow_pos _), eq_signed hc⟩
  have hres := result_inFloat h hf mode sat false false (proper_value F (F.signed neg m))
  have hval := exactOf_signed h neg hm
  rw [exactVal_value h] at hres
  by_cases he : m / 2 ^ F.fb = 2 ^ F.eb - 1
  · rw [if_pos ⟨hf4, he⟩] at hval
    by_cases hr : m % 2 ^ F.fb = 0
    · have hinf : m = (2 ^ F.eb - 1) * 2 ^ F.fb := by rw [← he, ← Nat.div_add_mod' m (2 ^ F.fb), hr]; simp
      rw [hval, if_pos hr] at hres
      simpa only [InFloat, if_pos hf4, withSign_eq, ← hinf] using hres
    · rw [if_neg hr, ← exactVal_value h] at hval
      cases hv : F.value (F.signed neg m) with
      | nan => rw [hv] at hnan; exact absurd hnan (by decide)
      | inf n => rw [hv] at hval; exact nomatch hval
      | fin n x y => rw [hv] at hval; exact nomatch hval
  · have hbig := le_big_of_exponent h hf4 hm he
    rw [if_neg fun hc => he hc.2, if_neg (by omega)] at hval
    rw [hval] at hres
    simp only [InFloat, Bool.false_eq_true, false_and, if_false, fieldMag_big h,
      if_neg (not_lt.mpr ((codeMag_strictMono F.fb F.qmin).monotone hbig))] at hres
    obtain ⟨hchosen, hsign⟩ := hres
    obtain ⟨hfin, hbest⟩ := (chosen_iff ..).mp hchosen
    have hown := hbest _ (finite_signed h neg hbig)
    rw [codeValue_signed h neg hbig] at hown
    exact eq_of_codeValue h hfin hsign (eq_of_prefers hown)

end Sys2Proof.Laws.Rounding

/-! ## dm8 (R78 to R80) -/

namespace Sys2Proof.Laws.Rounding
open Sys2Proof Sys2Proof.Machine

/-! ### The values of dm8 codes -/

/-- The decades of R79 from the number of bits behind the marker (R78): the exponent of ten, the fraction bits, the first code. -/
theorem dm8Group_eq : ∀ p < 128, 2 ≤ p →
    let w := Nat.log2 p
    let ew := if w = 6 then 0 else if w = 5 ∨ w = 1 then 1 else 2
    let fw := w - ew
    let e := p / 2 ^ fw % 2 ^ ew
    let top : Nat := if w = 6 then 0 else if w = 5 then 1 else if w = 1 then 8 else 2 * (6 - w) - 2 + e % 2
    let down : Bool := if w = 5 ∨ w = 1 then e = 1 else 2 ≤ e
    dm8Group p = (if down then -(top : ℤ) else top, fw, p - p % 2 ^ fw) ∧ fw ≤ 6 ∧ -8 ≤ (if down then -(top : ℤ) else top) := by
  decide +kernel

theorem dm8_units {fw : Nat} (hfw : fw ≤ 6) (r : Nat) {e : ℤ} (he : -8 ≤ e) :
    (((2 ^ fw + 9 * r) * (64 / 2 ^ fw) * 10 ^ (e + 8).toNat : Nat) : ℚ) / dm8Unit = (1 + 9 * r / 2 ^ fw) * 10 ^ e := by
  have hunit : ((64 / 2 ^ fw : Nat) : ℚ) = 64 / 2 ^ fw := by
    rw [Nat.cast_div (show 2 ^ fw ∣ 64 from pow_dvd_pow 2 hfw) (by positivity)]
    norm_num
  have hten : ((10 ^ (e + 8).toNat : Nat) : ℚ) = 10 ^ e * 10 ^ 8 := by
    rw [Nat.cast_pow, ← zpow_natCast, Int.toNat_of_nonneg (by omega), Nat.cast_ofNat, zpow_add₀ (by norm_num)]
    rfl
  rw [Nat.cast_mul, Nat.cast_mul, hunit, hten, dm8Unit]
  push_cast
  field_simp
  ring

/-- The magnitude of a payload is the value of R78. -/
theorem dm8Mag_div {p : Nat} (h2 : 2 ≤ p) (hp : p < 128) : (dm8Mag p / dm8Unit : ℚ) = dm8Real p := by
  obtain ⟨hgroup, hfw, htop⟩ := dm8Group_eq p hp h2
  rw [dm8Mag, hgroup]
  simp only [dm8Real, Nat.mod_eq_of_lt hp, if_neg (by omega : ¬ p = 0), if_pos hp, one_mul, Nat.sub_sub_self (Nat.mod_le ..)]
  exact dm8_units hfw _ htop

theorem dm8Real_eq (c : Nat) : dm8Real c = withNeg (!decide (c < 128)) (dm8Real (c % 128)) := by
  have hmod : c % 128 < 128 := Nat.mod_lt _ (by decide)
  by_cases h0 : c % 128 = 0
  · have hzero : ∀ x, x % 128 = 0 → dm8Real x = 0 := fun x hx => by simp only [dm8Real, hx, if_true]
    rw [hzero c h0, hzero _ (by omega), withNeg_zero]
  · simp only [dm8Real, Nat.mod_mod, if_neg h0, if_pos hmod, one_mul]
    by_cases hc : c < 128
    · simp [hc, withNeg]
    · simp only [hc, if_false, decide_false, Bool.not_false, withNeg, if_true]
      ring

/-- A code of dm8 that stands for a number. -/
theorem finiteCode_dm8 (c : Nat) : finiteCode 8 c ↔ c < 256 ∧ c ≠ 0x80 ∧ c % 128 ≠ 1 := Iff.rfl

/-- The value of a finite code is its number of the model's units. -/
theorem codeValue_dm8 {c : Nat} (hc : finiteCode 8 c) : codeValue 8 c = dm8Int c / dm8Unit := by
  obtain ⟨hlt, hzero, hinf⟩ := (finiteCode_dm8 c).mp hc
  change dm8Real c = _
  rw [dm8Int]
  split
  next h => subst h; simp [dm8Real]
  next h =>
    have hneg : (c / 128 % 2 == 1) = !decide (c < 128) := by
      rw [Bool.eq_iff_iff]; simp; omega
    rw [dm8Real_eq, ← dm8Mag_div (by omega) (Nat.mod_lt _ (by decide)), hneg]
    cases decide (c < 128) <;> simp [withNeg, signedNum, neg_div]

theorem dm8Real_nonneg {p : Nat} (hp : p < 128) : 0 ≤ dm8Real p := by
  simp only [dm8Real, if_pos hp]
  split_ifs
  · exact le_rfl
  all_goals positivity

/-- The value of a byte as dm8 (R78). -/
theorem exactVal_dm8Value (ftz : Bool) (x : Nat) : exactVal (dm8Value (x % 256)) = exactOf 8 ftz x ∧ Proper (dm8Value (x % 256)) := by
  have hofs : exactOf 8 ftz x = if x % 256 = 0x80 then .nan else if x % 256 % 128 = 1 then .inf (128 ≤ x % 256)
      else .num (128 ≤ x % 256) |dm8Real (x % 256)| := rfl
  have hc : x % 256 < 256 := Nat.mod_lt _ (by decide)
  rw [hofs]
  generalize x % 256 = c at *
  have hneg : (c / 128 % 2 == 1) = decide (128 ≤ c) := by rw [Bool.eq_iff_iff]; simp; omega
  have hp : c % 128 < 128 := Nat.mod_lt _ (by decide)
  have habs : |dm8Real c| = dm8Real (c % 128) := by
    rw [dm8Real_eq, withNeg]
    split <;> simp only [abs_neg, abs_of_nonneg (dm8Real_nonneg hp)]
  simp only [dm8Value, hneg, habs]
  by_cases h0 : c % 128 = 0
  · by_cases h8 : c = 0x80
    · subst h8; exact ⟨rfl, trivial⟩
    · obtain rfl : c = 0 := by omega
      exact ⟨by simp [exactVal, dm8Real], Nat.one_pos⟩
  · rw [if_neg h0, if_neg (by omega : ¬ c = 0x80)]
    by_cases h1 : c % 128 = 1
    · rw [if_pos h1, if_pos h1]; exact ⟨rfl, trivial⟩
    · rw [if_neg h1, if_neg h1, exactVal, dm8Mag_div (by omega) hp]
      exact ⟨rfl, by simp [Proper, dm8Unit]⟩

/-! ### The code that a mode chooses (R80) -/

/-- The side of a number on which a mode allows a code. -/
def dm8Allowed (mode : RMode) (n : ℤ) (d c : Nat) : Bool :=
  match mode with
  | .rn => true
  | .rz => if 0 ≤ n then decide (0 ≤ dm8Int c * d ∧ dm8Int c * d ≤ n * dm8Unit) else decide (n * dm8Unit ≤ dm8Int c * d ∧ dm8Int c * d ≤ 0)
  | .rd => decide (dm8Int c * d ≤ n * dm8Unit)
  | .ru => decide (n * dm8Unit ≤ dm8Int c * d)

/-- The distance of a code from a number. -/
def dm8Gap (n : ℤ) (d c : Nat) : Nat := (n * dm8Unit - dm8Int c * d).natAbs

theorem dm8Better_eq (mode : RMode) (n : ℤ) (d : Nat) (best : Option Nat) (c : Nat) : dm8Better mode n d best c =
    if !dm8Allowed mode n d c then best
    else match best with
      | none => some c
      | some b => if dm8Gap n d c < dm8Gap n d b then some c
        else if (decide (dm8Gap n d c = dm8Gap n d b) && c % 2 == 0) = true then some c else some b := by
  cases mode <;> rfl

/-- A code is at least as good as another: nearer, or as near and the winner of a tie. -/
def AsGood (n : ℤ) (d b k : Nat) : Prop := dm8Gap n d b < dm8Gap n d k ∨ dm8Gap n d b = dm8Gap n d k ∧ (b = k ∨ b % 2 = 0 ∨ k % 2 = 1)

theorem AsGood.trans {n : ℤ} {d a b c : Nat} (h1 : AsGood n d a b) (h2 : AsGood n d b c) : AsGood n d a c := by
  unfold AsGood at *
  omega

theorem AsGood.refl (n : ℤ) (d c : Nat) : AsGood n d c c := .inr ⟨rfl, .inl rfl⟩

/-- One step of the search. -/
theorem dm8Better_spec (mode : RMode) (n : ℤ) (d : Nat) (best : Option Nat) (x : Nat) :
    (∀ c, dm8Better mode n d best x = some c → best = some c ∨ c = x ∧ dm8Allowed mode n d x = true) ∧
    ∀ k, best = some k ∨ k = x ∧ dm8Allowed mode n d x = true → ∃ c, dm8Better mode n d best x = some c ∧ AsGood n d c k := by
  rw [dm8Better_eq]
  cases hx : dm8Allowed mode n d x with
  | false => exact ⟨fun c h => .inl h, fun k h => ⟨k, by simpa using h, .refl ..⟩⟩
  | true =>
    cases best with
    | none => exact ⟨fun c h => .inr ⟨by simpa using h.symm, rfl⟩, fun k h => ⟨x, rfl, by simpa using (by simpa using h : k = x) ▸ AsGood.refl n d k⟩⟩
    | some b =>
      have hk : ∀ k, (some b = some k ∨ k = x ∧ True) → k = b ∨ k = x := by
        intro k h
        simpa [eq_comm] using h
      simp only [Bool.not_true, Bool.false_eq_true, if_false, Bool.and_eq_true, decide_eq_true_iff, beq_iff_eq]
      split_ifs with h1 h2
      · exact ⟨fun c h => .inr ⟨by simpa using h.symm, trivial⟩, fun k h => ⟨x, rfl, (hk k h).elim (fun e => e ▸ .inl h1) fun e => e ▸ .refl ..⟩⟩
      · exact ⟨fun c h => .inr ⟨by simpa using h.symm, trivial⟩,
          fun k h => ⟨x, rfl, (hk k h).elim (fun e => e ▸ .inr ⟨h2.1, .inr (.inl h2.2)⟩) fun e => e ▸ .refl ..⟩⟩
      · exact ⟨fun c h => .inl h, fun k h => ⟨b, rfl, (hk k h).elim (fun e => e ▸ .refl ..) fun e => e ▸ (by unfold AsGood; omega)⟩⟩

/-- What the search has found: an allowed code, as good as every allowed code that it has seen. -/
theorem foldl_dm8Better (mode : RMode) (n : ℤ) (d : Nat) (l : List Nat) (best : Option Nat) :
    (∀ c, l.foldl (dm8Better mode n d) best = some c → best = some c ∨ c ∈ l ∧ dm8Allowed mode n d c = true) ∧
    ∀ k, best = some k ∨ k ∈ l ∧ dm8Allowed mode n d k = true → ∃ c, l.foldl (dm8Better mode n d) best = some c ∧ AsGood n d c k := by
  induction l generalizing best with
  | nil => exact ⟨fun c h => .inl h, fun k h => ⟨k, by simpa using h, .refl ..⟩⟩
  | cons x xs ih =>
    obtain ⟨hfrom, hgood⟩ := dm8Better_spec mode n d best x
    obtain ⟨ihfrom, ihgood⟩ := ih (dm8Better mode n d best x)
    refine ⟨fun c h => ?_, fun k h => ?_⟩
    · rcases ihfrom c h with h | ⟨hc, ha⟩
      · exact (hfrom c h).imp id fun ⟨e, ha⟩ => by subst e; exact ⟨List.mem_cons_self, ha⟩
      · exact .inr ⟨List.mem_cons_of_mem _ hc, ha⟩
    · have hstep : (best = some k ∨ k = x ∧ dm8Allowed mode n d x = true) ∨ k ∈ xs ∧ dm8Allowed mode n d k = true := by
        rcases h with h | ⟨hk, ha⟩
        · exact .inl (.inl h)
        · exact (List.mem_cons.mp hk).imp (fun e => .inr ⟨e, e ▸ ha⟩) fun hk => ⟨hk, ha⟩
      rcases hstep with h | h
      · obtain ⟨b, hb, hbk⟩ := hgood k h
        obtain ⟨c, hc, hcb⟩ := ihgood b (.inl hb)
        exact ⟨c, hc, hcb.trans hbk⟩
      · exact ihgood k (.inr h)

theorem mem_dm8Codes {c : Nat} : c ∈ dm8Codes ↔ finiteCode 8 c := by
  rw [finiteCode_dm8]
  simp only [dm8Codes, List.mem_cons, List.mem_append, List.mem_map, List.mem_range]
  constructor
  · rintro (rfl | ⟨a, ha, rfl⟩ | ⟨a, ha, rfl⟩) <;> omega
  · intro h
    by_cases h0 : c = 0
    · exact .inl h0
    · rcases Nat.lt_or_ge c 128 with hc | hc
      · exact .inr (.inl ⟨c - 2, by omega, by omega⟩)
      · exact .inr (.inr ⟨c - 130, by omega, by omega⟩)

theorem dm8Unit_pos : (0 : ℚ) < dm8Unit := by norm_num [dm8Unit]

/-- Toward zero: between zero and the number. -/
theorem between_zero_iff (x v : ℚ) : (if 0 ≤ x then 0 ≤ v ∧ v ≤ x else x ≤ v ∧ v ≤ 0) ↔ |v| ≤ |x| ∧ 0 ≤ v * x := by
  split
  next hx =>
    rw [abs_of_nonneg hx]
    refine ⟨fun ⟨h0, h1⟩ => ⟨by rwa [abs_of_nonneg h0], mul_nonneg h0 hx⟩, fun ⟨h1, h2⟩ => ⟨?_, (le_abs_self v).trans h1⟩⟩
    rcases hx.eq_or_lt with rfl | hpos
    · exact (abs_eq_zero.mp (le_antisymm h1 (abs_nonneg v))).ge
    · exact nonneg_of_mul_nonneg_left h2 hpos
  next hx =>
    rw [not_le] at hx
    rw [abs_of_neg hx]
    exact ⟨fun ⟨h0, h1⟩ => ⟨by rw [abs_of_nonpos h1]; linarith, mul_nonneg_of_nonpos_of_nonpos h1 hx.le⟩,
      fun ⟨h1, h2⟩ => ⟨by linarith [neg_le_abs v], nonpos_of_mul_nonneg_left h2 hx⟩⟩

section
variable {d : Nat} (hd : 0 < d) (n : ℤ)
include hd

/-- An allowed code lies on the side of the number on which the mode looks. -/
theorem dm8Allowed_iff (mode : RMode) {c : Nat} (hc : finiteCode 8 c) : dm8Allowed mode n d c = true ↔
    match mode with
    | .rn => True
    | .rz => |codeValue 8 c| ≤ |(n / d : ℚ)| ∧ 0 ≤ codeValue 8 c * (n / d)
    | .rd => codeValue 8 c ≤ n / d
    | .ru => (n / d : ℚ) ≤ codeValue 8 c := by
  have hd' : (0 : ℚ) < d := by exact_mod_cast hd
  have hU := dm8Unit_pos
  have hle : dm8Int c * d ≤ n * dm8Unit ↔ codeValue 8 c ≤ n / d := by
    rw [codeValue_dm8 hc, div_le_div_iff₀ hU hd']
    exact_mod_cast Iff.rfl
  have hge : n * dm8Unit ≤ dm8Int c * d ↔ (n / d : ℚ) ≤ codeValue 8 c := by
    rw [codeValue_dm8 hc, div_le_div_iff₀ hd' hU]
    exact_mod_cast Iff.rfl
  have hpos : 0 ≤ dm8Int c * d ↔ 0 ≤ codeValue 8 c := by
    rw [codeValue_dm8 hc, le_div_iff₀ hU, zero_mul, mul_nonneg_iff_of_pos_right (by exact_mod_cast hd), Int.cast_nonneg_iff]
  have hneg : dm8Int c * d ≤ 0 ↔ codeValue 8 c ≤ 0 := by
    rw [codeValue_dm8 hc, div_le_iff₀ hU, zero_mul, ← not_lt, ← not_lt, mul_pos_iff_of_pos_right (by exact_mod_cast hd), Int.cast_pos]
  have hn : 0 ≤ n ↔ 0 ≤ (n / d : ℚ) := by rw [le_div_iff₀ hd', zero_mul, Int.cast_nonneg_iff]
  cases mode with
  | rn => exact iff_of_true rfl trivial
  | rz =>
    rw [← between_zero_iff]
    simp only [dm8Allowed, ← hn, ← hle, ← hge, ← hpos, ← hneg]
    split <;> exact decide_eq_true_iff
  | rd => exact decide_eq_true_iff.trans hle
  | ru => exact decide_eq_true_iff.trans hge

theorem dm8Gap_eq {c : Nat} (hc : finiteCode 8 c) : (dm8Gap n d c : ℚ) = |(n / d : ℚ) - codeValue 8 c| * (d * dm8Unit) := by
  have hd' : (0 : ℚ) < d := by exact_mod_cast hd
  have hU := dm8Unit_pos
  rw [dm8Gap, Nat.cast_natAbs, codeValue_dm8 hc, div_sub_div _ _ hd'.ne' hU.ne', abs_div, abs_of_pos (mul_pos hd' hU),
    div_mul_cancel₀ _ (mul_pos hd' hU).ne', Int.cast_abs]
  push_cast
  rw [mul_comm (d : ℚ)]

/-- As good as another code is at least as near, and on a tie the winner. -/
theorem gap_of_asGood {c k : Nat} (hc : finiteCode 8 c) (hk : finiteCode 8 k) (h : AsGood n d c k) :
    |(n / d : ℚ) - codeValue 8 c| < |(n / d : ℚ) - codeValue 8 k| ∨
      |(n / d : ℚ) - codeValue 8 c| = |(n / d : ℚ) - codeValue 8 k| ∧ (codeValue 8 k = codeValue 8 c ∨ c % 2 = 0 ∨ k % 2 = 1) := by
  have hscale : (0 : ℚ) < d * dm8Unit := mul_pos (by exact_mod_cast hd) dm8Unit_pos
  rcases h with h | ⟨h, htie⟩
  · refine .inl (lt_of_mul_lt_mul_right ?_ hscale.le)
    rw [← dm8Gap_eq hd n hc, ← dm8Gap_eq hd n hk]
    exact_mod_cast h
  · refine .inr ⟨mul_right_cancel₀ hscale.ne' ?_, htie.imp (congrArg _ ·.symm) id⟩
    rw [← dm8Gap_eq hd n hc, ← dm8Gap_eq hd n hk, h]

theorem prefers_of_asGood (mode : RMode) {c k : Nat} (hc : finiteCode 8 c) (hk : finiteCode 8 k) (ha : dm8Allowed mode n d c = true)
    (hgood : dm8Allowed mode n d k = true → AsGood n d c k) : Prefers mode (n / d) (codeValue 8 c) (codeValue 8 k) (c % 2 = 0 ∨ k % 2 = 1) := by
  have hca := (dm8Allowed_iff hd n mode hc).mp ha
  have hka := dm8Allowed_iff hd n mode hk
  have hgap : dm8Allowed mode n d k = true → |(n / d : ℚ) - codeValue 8 c| ≤ |(n / d : ℚ) - codeValue 8 k| := fun h =>
    (gap_of_asGood hd n hc hk (hgood h)).elim le_of_lt fun h => h.1.le
  cases mode with
  | rn => exact gap_of_asGood hd n hc hk (hgood rfl)
  | rz =>
    refine ⟨hca.1, hca.2, fun h1 h2 => ?_⟩
    have hnear := hgap (hka.mpr ⟨h1, h2⟩)
    have hcz := (between_zero_iff _ _).mpr hca
    have hkz := (between_zero_iff _ _).mpr ⟨h1, h2⟩
    split at hcz
    next hx =>
      rw [if_pos hx] at hkz
      rw [abs_of_nonneg (by linarith [hcz.2]), abs_of_nonneg (by linarith [hkz.2])] at hnear
      rw [abs_of_nonneg hkz.1, abs_of_nonneg hcz.1]
      linarith
    next hx =>
      rw [if_neg hx] at hkz
      rw [abs_of_nonpos (by linarith [hcz.1]), abs_of_nonpos (by linarith [hkz.1])] at hnear
      rw [abs_of_nonpos hkz.2, abs_of_nonpos hcz.2]
      linarith
  | rd =>
    refine ⟨hca, fun h => ?_⟩
    have hnear := hgap (hka.mpr h)
    rw [abs_of_nonneg (sub_nonneg.mpr hca), abs_of_nonneg (sub_nonneg.mpr h)] at hnear
    linarith
  | ru =>
    refine ⟨hca, fun h => ?_⟩
    have hnear := hgap (hka.mpr h)
    rw [abs_of_nonpos (sub_nonpos.mpr hca), abs_of_nonpos (sub_nonpos.mpr h)] at hnear
    linarith

/-- The code that the search finds for a number within the range. -/
theorem dm8Search_chosen (mode : RMode) (hn : |(n / d : ℚ)| ≤ 100000000) :
    Chosen mode 8 (n / d) ((dm8Codes.foldl (dm8Better mode n d) none).getD 0) := by
  obtain ⟨hfrom, hgood⟩ := foldl_dm8Better mode n d dm8Codes none
  obtain ⟨k, hk, hka⟩ : ∃ k, finiteCode 8 k ∧ dm8Allowed mode n d k = true := by
    obtain ⟨hlow, hhigh⟩ := abs_le.mp hn
    have h0 : finiteCode 8 0 := (finiteCode_dm8 _).mpr (by decide)
    have hneg : finiteCode 8 0x82 := (finiteCode_dm8 _).mpr (by decide)
    have hpos : finiteCode 8 0x02 := (finiteCode_dm8 _).mpr (by decide)
    cases mode with
    | rn => exact ⟨0, h0, rfl⟩
    | rz =>
      have hzero : codeValue 8 0 = 0 := by rw [codeValue_dm8 h0]; simp [dm8Int]
      exact ⟨0, h0, (dm8Allowed_iff hd n .rz h0).mpr (by simp [hzero])⟩
    | rd =>
      have hmin : codeValue 8 0x82 = -100000000 := by rw [codeValue_dm8 hneg, show dm8Int 0x82 = -640000000000000000 from rfl]; norm_num [dm8Unit]
      exact ⟨0x82, hneg, (dm8Allowed_iff hd n .rd hneg).mpr (hmin ▸ hlow)⟩
    | ru =>
      have hmax : codeValue 8 0x02 = 100000000 := by rw [codeValue_dm8 hpos, show dm8Int 0x02 = 640000000000000000 from rfl]; norm_num [dm8Unit]
      exact ⟨0x02, hpos, (dm8Allowed_iff hd n .ru hpos).mpr (hmax ▸ hhigh)⟩
  obtain ⟨c, hc, -⟩ := hgood k (.inr ⟨mem_dm8Codes.mpr hk, hka⟩)
  obtain ⟨hmem, hca⟩ := (hfrom c hc).resolve_left (fun h => nomatch h)
  rw [hc, Option.getD_some]
  refine (chosen_iff ..).mpr ⟨mem_dm8Codes.mp hmem, fun k hk => prefers_of_asGood hd n mode (mem_dm8Codes.mp hmem) hk hca fun hka => ?_⟩
  obtain ⟨c', hc', hbest⟩ := hgood k (.inr ⟨mem_dm8Codes.mpr hk, hka⟩)
  obtain rfl : c = c' := by simpa [hc] using hc'
  exact hbest

end

theorem overflowInf_iff (mode : RMode) (neg : Bool) : overflowInf mode neg = true ↔ mode = .rn ∨ awayMode mode neg = true := by
  cases mode <;> simp [overflowInf, awayMode]

theorem cast_signedNum_div (neg : Bool) (num den : Nat) : ((signedNum neg num : ℤ) / den : ℚ) = withNeg neg (num / den) := by
  cases neg <;> simp [signedNum, withNeg, neg_div]

theorem signed_num (neg : Bool) (x : ℚ) : (ExactValue.num neg x).signed = withNeg neg x := rfl

/-- A value in dm8 (R80). -/
theorem toDm8_inDm8 (mode : RMode) (range : Bool) {v : FVal} (hv : Proper v) : InDm8 mode range (exactVal v) (toDm8 mode range v) := by
  cases v with
  | nan => rfl
  | inf neg => rfl
  | fin neg num den =>
    have hv : 0 < den := hv
    have hd : (0 : ℚ) < den := by exact_mod_cast hv
    have hbig : num > 100000000 * den ↔ (100000000 : ℚ) < num / den := by
      rw [lt_div_iff₀ hd]
      exact_mod_cast Iff.rfl
    simp only [exactVal, InDm8, toDm8, hbig, Bool.and_eq_true, overflowInf_iff]
    split
    next => rfl
    next h =>
      have habs : |((signedNum neg num : ℤ) / den : ℚ)| ≤ 100000000 := by
        rw [cast_signedNum_div, withNeg]
        split <;> simpa [abs_of_nonneg (div_nonneg (Nat.cast_nonneg num) hd.le)] using h
      rw [signed_num, ← cast_signedNum_div]
      exact dm8Search_chosen hv _ mode habs

end Sys2Proof.Laws.Rounding

/-! ## Conversions (R65, R67, R80 to R82, R116) -/

namespace Sys2Proof.Laws.Rounding
open Sys2Proof Sys2Proof.Machine

variable {f : Nat} {F : FloatFmt}

/-! ### Integers -/

/-- The signed reading of the low bits (R67). -/
theorem sx_eq_toInt {w : Nat} (hw : 0 < w) (x : Nat) : sx w x = (BitVec.ofNat w x).toInt := by
  have hpow : 2 ^ w = 2 * 2 ^ (w - 1) := by rw [← Nat.pow_succ', Nat.succ_eq_add_one, Nat.sub_add_cancel hw]
  rw [sx, BitVec.toInt_eq_toNat_cond, BitVec.toNat_ofNat]
  split
  next h => rw [if_pos (by omega)]
  next h => rw [if_neg (by omega)]; push_cast; rfl

/-- The integer that an operand of an integer format holds. -/
def operandInt (signed : Bool) (w x : Nat) : ℤ := if signed then (BitVec.ofNat w x).toInt else x % 2 ^ w

theorem exactVal_ofInt (n : ℤ) : exactVal (ofInt n) = .num (n < 0) |(n : ℚ)| := by
  rw [ofInt, exactVal, Nat.cast_one, div_one, Nat.cast_natAbs, Int.cast_abs]

theorem signed_ofInt (n : ℤ) : (ExactValue.num (n < 0) |(n : ℚ)|).signed = n := by
  rw [signed_num, withNeg]
  by_cases h : n < 0
  · rw [if_pos (by simpa using h), abs_of_neg (by exact_mod_cast h), neg_neg]
  · rw [if_neg (by simpa using h), abs_of_nonneg (by exact_mod_cast not_lt.mp h)]

theorem clampTo_eq (signed : Bool) (w : Nat) (n : ℤ) : (if signed then satS w n else satU w n) = clampTo signed w n := by cases signed <;> rfl

/-- A value that is no integer's, as an integer (R82). -/
theorem convVal_inWhole {df w : Nat} {signed : Bool} (hdf : numKind df = .int signed w) (mode : RMode) (range ftz : Bool) {v : FVal} (hv : Proper v) :
    InWhole signed w mode range false (exactVal v) (convVal df mode range ftz v) := by
  simp only [convVal, hdf]
  cases v with
  | nan => rfl
  | inf neg => cases signed <;> cases neg <;> rfl
  | fin neg num den =>
    have hround : roundInt mode neg num den = toWhole mode (withNeg neg (num / den)) := by
      rw [roundInt, signedNum_roundUnits mode neg num hv, zpow_zero, div_one]
    simp only [exactVal, InWhole, signed_num, hround, clampTo_eq, Bool.false_eq_true, false_and, if_false]
    rfl

/-! ### The formats of R65 -/

/-- A format code's kind, with its fields as the manual gives them. -/
inductive FormatKind (c : Nat) : Prop
  | float (F : FloatFmt) (h : Describes c F) (noInt : intFields c = none)
  | dm8 (hc : c = 8)
  | int (signed : Bool) (w : Nat) (kind : numKind c = .int signed w) (noFloat : floatFields c = none) (fields : intFields c = some (signed, w)) (hw : 0 < w)

theorem formatKind {c : Nat} (hc : c < 16) : FormatKind c := by
  by_cases h : c < 8
  · obtain ⟨F, hF⟩ : ∃ F, numKind c = .float F := by interval_cases c <;> exact ⟨_, rfl⟩
    exact .float F (describes h hF) (by interval_cases c <;> rfl)
  · interval_cases c
    · exact .dm8 rfl
    all_goals exact .int _ _ rfl rfl rfl (by decide)

theorem exactOf_int {c w : Nat} {signed : Bool} (h1 : floatFields c = none) (h2 : intFields c = some (signed, w)) (ftz : Bool) (x : Nat) :
    exactOf c ftz x = .num (operandInt signed w x < 0) |(operandInt signed w x : ℚ)| := by
  simp only [exactOf, h1, h2]
  rfl

theorem exactOf_mod {f : Nat} {F : FloatFmt} (h : Describes f F) (ftz : Bool) (x : Nat) : exactOf f ftz (x % 2 ^ (F.signPos + 1)) = exactOf f ftz x := by
  simp only [exactOf, h.fields, ← signPos_eq, Nat.mod_mod]

theorem operandInt_eq {signed : Bool} {w : Nat} (hw : 0 < w) (x : Nat) :
    (if signed then sx w (x % 2 ^ w) else ((x % 2 ^ w : Nat) : ℤ)) = operandInt signed w x := by
  rw [operandInt, sx_eq_toInt hw]
  cases signed
  · simp
  · simp only [if_true]
    congr 1
    exact BitVec.eq_of_toNat_eq (by simp)

/-- An operand's exact value, by its format (R82). -/
theorem exactVal_sourceVal {sf : Nat} (hsf : sf < 16) (ftz : Bool) (x : Nat) :
    exactVal (sourceVal sf ftz x) = exactOf sf ftz x ∧ Proper (sourceVal sf ftz x) := by
  cases formatKind hsf with
  | float F h noInt =>
    simp only [sourceVal, fmtWidth, h.kind]
    exact ⟨(exactVal_read h ftz _).trans (exactOf_mod h ftz x), proper_read ..⟩
  | dm8 hc => subst hc; exact exactVal_dm8Value ftz x
  | int signed w kind noFloat fields hw =>
    simp only [sourceVal, fmtWidth, kind, operandInt_eq hw, exactOf_int noFloat fields]
    exact ⟨exactVal_ofInt _, Nat.one_pos⟩

/-- A code under the flush modifier: a subnormal becomes the zero of its sign (R70). -/
theorem flushBits_eq (F : FloatFmt) (ftz : Bool) {y : Nat} (hy : y < 2 ^ (F.signPos + 1)) :
    F.flushBits ftz y = if ftz = true ∧ y / 2 ^ F.fb % 2 ^ F.eb = 0 then y / 2 ^ F.signPos * 2 ^ F.signPos else y := by
  have hpos : 0 < 2 ^ F.fb := Nat.two_pow_pos _
  have hexp : y / 2 ^ F.fb % 2 ^ F.eb = 0 ↔ y % 2 ^ F.signPos < 2 ^ F.fb := by
    rw [← Nat.mod_mul_right_div_self, ← Nat.pow_add, Nat.div_eq_zero_iff_lt hpos, FloatFmt.signPos]
  have hsub : (ftz && F.subnormal y) = true ↔ ftz = true ∧ y % 2 ^ F.signPos ≠ 0 ∧ y % 2 ^ F.signPos < 2 ^ F.fb := by
    simp only [FloatFmt.subnormal, Bool.and_eq_true, bne_iff_ne, decide_eq_true_iff, ne_eq]
  have hzero : F.signed (y / 2 ^ F.signPos % 2 == 1) 0 = y / 2 ^ F.signPos * 2 ^ F.signPos := by
    have hlt : y / 2 ^ F.signPos < 2 := by rw [Nat.div_lt_iff_lt_mul (Nat.two_pow_pos _), ← Nat.pow_succ']; exact hy
    rw [FloatFmt.signed]
    rcases Nat.le_one_iff_eq_zero_or_eq_one.mp (Nat.lt_succ_iff.mp hlt) with h | h <;> simp [h]
  simp only [FloatFmt.flushBits, hsub, hexp, hzero]
  by_cases hm : y % 2 ^ F.signPos = 0
  · have hy : y / 2 ^ F.signPos * 2 ^ F.signPos = y := Nat.div_mul_cancel (Nat.dvd_of_mod_eq_zero hm)
    rw [hy, ite_self, ite_self]
  · simp only [hm, not_false_eq_true, ne_eq, true_and]

/-- A code converted to its own format (R82). -/
theorem convert_self {f : Nat} (hf : f < 16) (mode : RMode) (range ftz : Bool) (x : Nat) : Converted f f mode range ftz x (convert f f mode range ftz x) := by
  simp only [Converted, convert, if_true]
  cases formatKind hf with
  | float F h noInt =>
    have hexp : x % 2 ^ (F.signPos + 1) / 2 ^ F.fb % 2 ^ F.eb = x / 2 ^ F.fb % 2 ^ F.eb := by
      rw [← Nat.mod_mul_right_div_self, ← Nat.mod_mul_right_div_self x, ← Nat.pow_add, ← FloatFmt.signPos,
        Nat.mod_mod_of_dvd _ (Nat.pow_dvd_pow 2 (Nat.le_succ F.signPos))]
    simp only [h.fields, h.kind, fmtWidth, ← signPos_eq, isIeee, decide_eq_true_iff,
      flushBits_eq F ftz (Nat.mod_lt x (Nat.two_pow_pos (F.signPos + 1))), hexp]
    by_cases hf3 : f < 3
    · simp only [hf3, if_true, true_and]
    · simp only [hf3, if_false, false_and, and_false]
  | dm8 hc => subst hc; rfl
  | int signed w kind noFloat fields hw => simp only [noFloat, fields, kind, fmtWidth]

/-- An exact value converted to a float format; from an integer, e5m2 has its infinities with or without .ovf (R73). -/
theorem convVal_inFloat (h : Describes f F) (mode : RMode) (range ftz whole : Bool) {v : FVal} (hv : Proper v) :
    InFloat f F.eb F.fb mode range ftz whole (exactVal v) (convVal f mode (range || (whole && (F.sp == .ieee && !isIeee f))) ftz v) := by
  simp only [convVal, h.kind]
  by_cases hf : f < 3
  · simp only [isIeee, hf, decide_true, if_true, Bool.not_true, Bool.and_false, Bool.or_false]
    exact result_inFloat h hf mode range ftz whole hv
  · simp only [isIeee, hf, decide_false, Bool.false_eq_true, if_false, Bool.not_false, Bool.and_true]
    exact toOcp_inFloat h (by omega) mode range ftz whole hv

/-- A code converted to another format (R80 to R82). -/
theorem convert_other {df sf : Nat} (hdf : df < 16) (hsf : sf < 16) (hne : df ≠ sf) (mode : RMode) (range ftz : Bool) (x : Nat) :
    Converted df sf mode range ftz x (convert df sf mode range ftz x) := by
  obtain ⟨hval, hproper⟩ := exactVal_sourceVal hsf ftz x
  simp only [Converted, convert, if_neg hne, ← hval]
  cases formatKind hdf with
  | float F h noInt =>
    simp only [h.fields, h.kind]
    have hconv := fun whole => convVal_inFloat h mode range ftz whole hproper
    cases formatKind hsf with
    | float G h' noInt' => simpa [noInt', h'.kind] using hconv false
    | dm8 hc => subst hc; simpa [intFields, numKind] using hconv false
    | int signed w kind noFloat fields hw => simpa [fields, kind] using hconv true
  | dm8 hc =>
    subst hc
    exact toDm8_inDm8 mode range hproper
  | int signed w kind noFloat fields hw =>
    simp only [noFloat, fields, kind]
    have hconv := convVal_inWhole kind mode range ftz hproper
    cases formatKind hsf with
    | float G h' noInt' => simpa [noInt', h'.kind] using hconv
    | dm8 hc => subst hc; simpa [intFields, numKind] using hconv
    | int signed' w' kind' noFloat' fields' hw' =>
      simp only [fields', kind', fmtWidth, hval, exactOf_int noFloat' fields', operandInt_eq hw', InWhole, signed_ofInt, toWhole_intCast, clampTo_eq]
      cases range <;> simp [lowBits, wrapN]

/-- Settles O8: an operation's result is one rounding, and a conversion is, by the kinds of its formats, one rounding of its source's exact value. -/
theorem roundedValues : Obligations.RoundedValues := by
  refine ⟨fun r hr ew fw hfields mode sat ftz neg num den hd => ?_, fun df sf hdf hsf mode range ftz x => ?_⟩
  · obtain ⟨hf, hkind⟩ : r.1 < 3 ∧ numKind r.1 = .float r.2 := by
      simp only [List.mem_cons, List.not_mem_nil, or_false] at hr
      rcases hr with rfl | rfl | rfl <;> exact ⟨by decide, rfl⟩
    have h := describes (by omega) hkind
    obtain ⟨rfl, rfl⟩ : r.2.eb = ew ∧ r.2.fb = fw := by simpa [h.fields] using hfields
    exact result_inFloat h hf mode sat ftz false (v := .fin neg num den) hd
  · by_cases h : df = sf
    · exact h ▸ convert_self hdf mode range ftz x
    · exact convert_other hdf hsf h mode range ftz x

end Sys2Proof.Laws.Rounding

/-! ## Dot products (R74, R84 to R87) -/

namespace Sys2Proof.Laws.DotProducts
open Sys2Proof Sys2Proof.Machine Sys2Proof.Laws.Rounding

/-! ### Products -/

theorem exactVal_eq_nan {v : FVal} : exactVal v = .nan ↔ v = .nan := by cases v <;> simp [exactVal]

theorem exactVal_eq_inf {v : FVal} {neg : Bool} : exactVal v = .inf neg ↔ v = .inf neg := by cases v <;> simp [exactVal]

theorem div_eq_zero_iff_num {num den : Nat} (h : 0 < den) : (num / den : ℚ) = 0 ↔ num = 0 := by
  rw [div_eq_zero_iff, Nat.cast_eq_zero, Nat.cast_eq_zero]
  omega

/-- Products are exact (R85). -/
theorem exactVal_mul {a b : FVal} (ha : Proper a) (hb : Proper b) :
    exactVal (a.mul b) = exactTimes (exactVal a) (exactVal b) ∧ Proper (a.mul b) := by
  cases a with
  | nan => cases b <;> exact ⟨rfl, trivial⟩
  | inf s =>
    cases b with
    | nan => exact ⟨rfl, trivial⟩
    | inf t => exact ⟨rfl, trivial⟩
    | fin t num den =>
      simp only [FVal.mul, exactVal, exactTimes, div_eq_zero_iff_num hb]
      by_cases h : num = 0
      · simp only [h, if_true]; exact ⟨trivial, trivial⟩
      · simp only [h, if_false]; exact ⟨trivial, trivial⟩
  | fin s num den =>
    cases b with
    | nan => exact ⟨rfl, trivial⟩
    | inf t =>
      simp only [FVal.mul, exactVal, exactTimes, div_eq_zero_iff_num ha]
      by_cases h : num = 0
      · simp only [h, if_true]; exact ⟨trivial, trivial⟩
      · simp only [h, if_false]; exact ⟨trivial, trivial⟩
    | fin t num' den' =>
      refine ⟨?_, Nat.mul_pos ha hb⟩
      simp only [FVal.mul, exactVal, exactTimes, Nat.cast_mul, div_mul_div_comm]

/-! ### Sums (R74, R87) -/

/-- A finite value. -/
def Finite (v : FVal) : Prop := ∃ neg num den, v = .fin neg num den

/-- The running sum of finite addends is their exact sum. -/
theorem foldl_addFrac (xs : List FVal) (hp : ∀ x ∈ xs, Proper x) (hf : ∀ x ∈ xs, Finite x) (n : ℤ) {d : Nat} (hd : 0 < d) :
    let r := xs.foldl addFrac (n, d)
    0 < r.2 ∧ (r.1 / r.2 : ℚ) = n / d + (xs.map fun x => (exactVal x).signed).sum := by
  induction xs generalizing n d with
  | nil => simp [hd]
  | cons x xs ih =>
    obtain ⟨s, num, den, rfl⟩ := hf x List.mem_cons_self
    have hden : 0 < den := hp _ List.mem_cons_self
    have hstep : ∃ n' d', addFrac (n, d) (.fin s num den) = (n', d') ∧ 0 < d' ∧ (n' / d' : ℚ) = n / d + (signedNum s num : ℤ) / den := by
      have hd' : (d : ℚ) ≠ 0 := by positivity
      have hden' : (den : ℚ) ≠ 0 := by positivity
      simp only [addFrac]
      split_ifs with h1 h2 h3
      · exact ⟨_, _, rfl, hd, by rw [← h1]; push_cast; ring⟩
      · refine ⟨_, _, rfl, hden, ?_⟩
        obtain ⟨k, rfl⟩ := Nat.dvd_of_mod_eq_zero h2
        rw [Nat.mul_div_cancel_left _ hd]
        have hk : (k : ℚ) ≠ 0 := by rintro h; simp [Nat.cast_eq_zero.mp h] at hden
        push_cast
        field_simp
      · refine ⟨_, _, rfl, hd, ?_⟩
        obtain ⟨k, rfl⟩ := Nat.dvd_of_mod_eq_zero h3
        rw [Nat.mul_div_cancel_left _ hden]
        have hk : (k : ℚ) ≠ 0 := by rintro h; simp [Nat.cast_eq_zero.mp h] at hd
        push_cast
        field_simp
      · exact ⟨_, _, rfl, Nat.mul_pos hd hden, by push_cast; field_simp⟩
    obtain ⟨n', d', he, hd', hsum⟩ := hstep
    obtain ⟨hpos, hrest⟩ := ih (fun y hy => hp y (List.mem_cons_of_mem _ hy)) (fun y hy => hf y (List.mem_cons_of_mem _ hy)) n' hd'
    rw [List.foldl_cons, he]
    refine ⟨hpos, ?_⟩
    rw [hrest, hsum, List.map_cons, List.sum_cons, exactVal, signed_num, cast_signedNum_div, add_assoc]

theorem any_isInf (xs : List FVal) (neg : Bool) : (xs.any fun x => x.isInf && (x.sign == neg)) = true ↔ .inf neg ∈ xs := by
  rw [List.any_eq_true]
  constructor
  · rintro ⟨x, hx, h⟩
    cases x <;> simp_all [FVal.isInf, FVal.sign]
  · exact fun h => ⟨_, h, by simp [FVal.isInf, FVal.sign]⟩

theorem any_isNan (xs : List FVal) : xs.any FVal.isNan = true ↔ .nan ∈ xs := by
  rw [List.any_eq_true]
  constructor
  · rintro ⟨x, hx, h⟩
    cases x <;> simp_all [FVal.isNan]
  · exact fun h => ⟨_, h, rfl⟩

theorem nan_mem_map {xs : List FVal} : ExactValue.nan ∈ xs.map exactVal ↔ .nan ∈ xs := by simp [List.mem_map, exactVal_eq_nan]

theorem inf_mem_map {xs : List FVal} {neg : Bool} : ExactValue.inf neg ∈ xs.map exactVal ↔ .inf neg ∈ xs := by simp [List.mem_map, exactVal_eq_inf]

theorem finite_of_not_mem {xs : List FVal} (h1 : .nan ∉ xs) (h2 : ∀ neg, .inf neg ∉ xs) : ∀ x ∈ xs, Finite x := by
  intro x hx
  cases x with
  | nan => exact absurd hx h1
  | inf neg => exact absurd hx (h2 neg)
  | fin neg num den => exact ⟨neg, num, den, rfl⟩

/-- The test for a sum of negative zeros only (R74). -/
theorem all_negZero {xs : List FVal} (hp : ∀ x ∈ xs, Proper x) :
    (xs.all fun x => x.isZero && x.sign) = true ↔ ∀ x ∈ xs.map exactVal, x = .num true 0 := by
  rw [List.all_eq_true, List.forall_mem_map]
  refine forall₂_congr fun x hx => ?_
  cases x with
  | nan => simp [FVal.isZero, exactVal]
  | inf neg => simp [FVal.isZero, exactVal]
  | fin neg num den => simp [FVal.isZero, FVal.sign, exactVal, div_eq_zero_iff_num (hp _ hx), and_comm]

/-- The model's sum to nearest is the exact sum. -/
theorem sumVals_exactSum {xs : List FVal} (hp : ∀ x ∈ xs, Proper x) (hne : xs ≠ []) :
    ExactSum (xs.map exactVal) (exactVal (sumVals .rn xs)) ∧ Proper (sumVals .rn xs) := by
  have hpos : (xs.any fun x => x.isInf && !x.sign) = true ↔ .inf false ∈ xs := by simpa using any_isInf xs false
  have hneg : (xs.any fun x => x.isInf && x.sign) = true ↔ .inf true ∈ xs := by simpa using any_isInf xs true
  rw [sumVals]
  by_cases hnan : .nan ∈ xs
  · rw [if_pos ((any_isNan xs).mpr hnan)]
    exact ⟨.inl (nan_mem_map.mpr hnan), trivial⟩
  rw [if_neg (hnan ∘ (any_isNan xs).mp)]
  simp only [Bool.and_eq_true, hpos, hneg]
  by_cases hp' : .inf false ∈ xs
  · by_cases hn' : .inf true ∈ xs
    · rw [if_pos ⟨hp', hn'⟩]
      exact ⟨.inr ⟨inf_mem_map.mpr hp', inf_mem_map.mpr hn'⟩, trivial⟩
    · rw [if_neg (hn' ·.2), if_pos hp']
      exact ⟨⟨hnan ∘ nan_mem_map.mp, inf_mem_map.mpr hp', hn' ∘ inf_mem_map.mp⟩, trivial⟩
  by_cases hn' : .inf true ∈ xs
  · rw [if_neg (hp' ·.1), if_neg hp', if_pos hn']
    exact ⟨⟨hnan ∘ nan_mem_map.mp, inf_mem_map.mpr hn', hp' ∘ inf_mem_map.mp⟩, trivial⟩
  rw [if_neg (hp' ·.1), if_neg hp', if_neg hn']
  have hfin := finite_of_not_mem hnan (fun neg => by cases neg <;> assumption)
  have hnums : ∀ x ∈ xs.map exactVal, ∃ n m, x = .num n m := fun x hx => by
    obtain ⟨v, hv, rfl⟩ := List.mem_map.mp hx
    obtain ⟨s, num, den, rfl⟩ := hfin v hv
    exact ⟨_, _, rfl⟩
  obtain ⟨hd, hsum⟩ := foldl_addFrac xs hp hfin 0 Nat.one_pos
  rw [Int.cast_zero, zero_div, zero_add] at hsum
  generalize xs.foldl addFrac (0, 1) = r at *
  obtain ⟨n, d⟩ := r
  have hd' : (0 : ℚ) < d := by exact_mod_cast hd
  have hsum' : ((xs.map exactVal).map ExactValue.signed).sum = n / d := by rw [List.map_map]; exact hsum.symm
  dsimp only at *
  by_cases h0 : n = 0
  · rw [if_pos h0]
    refine ⟨⟨hnums, by simp, ?_, fun _ => ?_⟩, Nat.one_pos⟩
    · rw [hsum', h0, exactVal, signed_num]
      simp [withNeg_zero]
    · have hempty : xs.isEmpty = false := by simpa using hne
      rw [← all_negZero hp, hempty]
      simp
  · rw [if_neg h0]
    have hn : (n.natAbs / d : ℚ) = |(n / d : ℚ)| := by rw [abs_div, abs_of_pos hd', Nat.cast_natAbs, Int.cast_abs]
    refine ⟨⟨hnums, by positivity, ?_, fun hz => ?_⟩, hd⟩
    · rw [hsum', exactVal, signed_num, hn, withNeg]
      by_cases hneg : n < 0
      · rw [if_pos (by simpa using hneg), abs_of_neg (div_neg_of_neg_of_pos (by exact_mod_cast hneg) hd'), neg_neg]
      · rw [if_neg (by simpa using hneg), abs_of_nonneg (div_nonneg (by exact_mod_cast not_lt.mp hneg) hd'.le)]
    · exact absurd ((div_eq_zero_iff_num hd).mp hz) (by omega)

/-- An exact sum is one value. -/
theorem exactSum_unique {xs : List ExactValue} {v v' : ExactValue} (h : ExactSum xs v) (h' : ExactSum xs v') : v = v' := by
  have hnums : ∀ {neg mag}, ExactSum xs (.num neg mag) → .nan ∉ xs ∧ ∀ n, .inf n ∉ xs := fun ⟨hn, _⟩ =>
    ⟨fun hx => (hn _ hx).elim fun _ h => h.elim fun _ h => (nomatch h), fun _ hx => (hn _ hx).elim fun _ h => h.elim fun _ h => (nomatch h)⟩
  have hboth : ∀ {n : Bool}, .inf n ∈ xs → .inf false ∈ xs ∧ .inf true ∈ xs → .inf (!n) ∉ xs → False := fun {n} _ hb hno => by
    cases n
    · exact hno hb.2
    · exact hno hb.1
  cases v with
  | nan =>
    cases v' with
    | nan => rfl
    | inf n => exact (h.elim h'.1 fun hb => hboth h'.2.1 hb h'.2.2).elim
    | num n m => exact (h.elim (hnums h').1 fun hb => (hnums h').2 _ hb.1).elim
  | inf n =>
    cases v' with
    | nan => exact (h'.elim h.1 fun hb => hboth h.2.1 hb h.2.2).elim
    | inf n' =>
      by_cases hn : n' = n
      · rw [hn]
      · exact absurd h'.2.1 (by rw [Bool.eq_not.mpr hn]; exact h.2.2)
    | num n' m => exact absurd h.2.1 ((hnums h').2 _)
  | num n m =>
    cases v' with
    | nan => exact (h'.elim (hnums h).1 fun hb => (hnums h).2 _ hb.1).elim
    | inf n' => exact absurd h'.2.1 ((hnums h).2 _)
    | num n' m' =>
      obtain ⟨-, hm, hsum, hzero⟩ := h
      obtain ⟨-, hm', hsum', hzero'⟩ := h'
      have heq : withNeg n m = withNeg n' m' := hsum.trans hsum'.symm
      have hmag : m = m' := by
        have := congrArg abs heq
        cases n <;> cases n' <;> simpa [withNeg, abs_of_nonneg hm, abs_of_nonneg hm'] using this
      subst hmag
      rcases hm.eq_or_lt with rfl | hpos
      · have : n = true ↔ n' = true := (hzero rfl).trans (hzero' rfl).symm
        rw [Bool.eq_iff_iff.mpr this]
      · by_cases hn : n' = n
        · rw [hn]
        · rw [Bool.eq_not.mpr hn] at heq
          cases n <;> simp only [withNeg, Bool.not_true, Bool.not_false, if_true, Bool.false_eq_true, if_false] at heq <;> linarith

/-! ### Rounding to a number of fraction bits (R84, R86) -/

/-- The model's rounding to nearest is that of the manual. -/
theorem roundVal_roundedTo (fb : Nat) (low : ℤ) {v : FVal} (hv : Proper v) :
    RoundedTo fb low (exactVal v) (exactVal (roundVal fb low .rn v)) ∧ Proper (roundVal fb low .rn v) := by
  cases v with
  | nan => exact ⟨rfl, trivial⟩
  | inf neg => exact ⟨rfl, trivial⟩
  | fin neg num den =>
    rw [roundVal]
    by_cases h : num = 0
    · rw [if_pos h, h]
      exact ⟨.inl ⟨by simp, by simp [exactVal]⟩, Nat.one_pos⟩
    · rw [if_neg h]
      obtain ⟨hlo, hhi⟩ := flog2_spec (Nat.pos_of_ne_zero h) hv
      refine ⟨.inr ⟨flog2 num den, hlo, hhi, ?_⟩, proper_scaled ..⟩
      have hround := signedNum_roundUnits .rn false num hv (lastPlace fb low num den)
      have hneg : roundUnits .rn neg num den (lastPlace fb low num den) = roundUnits .rn false num den (lastPlace fb low num den) := rfl
      rw [exactVal_scaled, hneg]
      simp only [signedNum, withNeg, Bool.false_eq_true, if_false] at hround
      rw [lastPlace] at *
      rw [← hround]
      rfl

theorem roundedTo_unique {fb : Nat} {low : ℤ} {v r r' : ExactValue} (h : RoundedTo fb low v r) (h' : RoundedTo fb low v r') : r = r' := by
  cases v with
  | nan => exact Eq.trans h (Eq.symm h')
  | inf neg => exact Eq.trans h (Eq.symm h')
  | num neg mag =>
    rcases h with ⟨h0, rfl⟩ | ⟨e, hlo, hhi, rfl⟩ <;> rcases h' with ⟨h0', rfl⟩ | ⟨e', hlo', hhi', rfl⟩
    · rfl
    · exact absurd hlo' (by rw [h0]; exact not_le.mpr (two_zpow_pos e'))
    · exact absurd hlo (by rw [h0']; exact not_le.mpr (two_zpow_pos e))
    · have h1 : e < e' + 1 := (zpow_lt_zpow_iff_right₀ one_lt_two).mp (hlo.trans_lt hhi')
      have h2 : e' < e + 1 := (zpow_lt_zpow_iff_right₀ one_lt_two).mp (hlo'.trans_lt hhi)
      rw [show e = e' by omega]

end Sys2Proof.Laws.DotProducts

namespace Sys2Proof.Laws.DotProducts
open Sys2Proof Sys2Proof.Machine Sys2Proof.Laws.Rounding

/-! ### The order of a dot product (R87) -/

theorem accGroup_spec {acc : FVal} {ps : List FVal} (ha : Proper acc) (hp : ∀ x ∈ ps, Proper x) (hne : ps ≠ []) :
    (∃ sum near total, ExactSum (ps.map exactVal) sum ∧ RoundedTo 23 (-533) sum near ∧ ExactSum [exactVal acc, near] total ∧
      RoundedTo 23 (-533) total (exactVal (accGroup acc ps))) ∧ Proper (accGroup acc ps) := by
  obtain ⟨hsum, hsp⟩ := sumVals_exactSum hp hne
  obtain ⟨hnear, hnp⟩ := roundVal_roundedTo 23 (-533) hsp
  obtain ⟨htotal, htp⟩ := sumVals_exactSum (xs := [acc, roundVal 23 (-533) .rn (sumVals .rn ps)]) (by simp [ha, hnp]) (List.cons_ne_nil _ _)
  obtain ⟨hres, hrp⟩ := roundVal_roundedTo 23 (-533) htp
  exact ⟨⟨_, _, _, hsum, hnear, htotal, hres⟩, hrp⟩

/-- A list of whole groups of eight, cut. -/
theorem eights_groups (p : Nat → FVal) (n fuel : Nat) (h : n < fuel) :
    eights fuel ((List.range (8 * n)).map p) = (List.range n).map fun g => (List.range 8).map fun t => p (8 * g + t) := by
  induction n generalizing fuel p with
  | zero => cases fuel <;> rfl
  | succ n ih =>
    obtain ⟨fuel, rfl⟩ : ∃ m, fuel = m + 1 := ⟨fuel - 1, by omega⟩
    have hsplit : (List.range (8 * (n + 1))).map p = (List.range 8).map p ++ (List.range (8 * n)).map fun k => p (8 + k) := by
      rw [show 8 * (n + 1) = 8 + 8 * n by ring, List.range_add, List.map_append, List.map_map]
      rfl
    have hlen : ((List.range 8).map p).length = 8 := by simp
    have hne : ((List.range 8).map p ++ (List.range (8 * n)).map fun k => p (8 + k)).isEmpty = false := by
      rw [List.isEmpty_eq_false_iff]
      exact fun h => by simpa using congrArg List.length h
    rw [hsplit, eights, hne, if_neg Bool.false_ne_true, List.take_left' hlen, List.drop_left' hlen, ih _ _ (by omega),
      List.range_succ_eq_map (n := n), List.map_cons, List.map_map]
    refine congrArg₂ List.cons (by simp only [Nat.mul_zero, Nat.zero_add]) (List.map_congr_left fun g _ => List.map_congr_left fun t _ => congrArg p ?_)
    rw [Nat.succ_eq_add_one]
    ring

/-- The accumulator after some groups. -/
def accAfter (c : FVal) (p : Nat → FVal) (n : Nat) : FVal := (List.range n).foldl (fun acc g => accGroup acc ((List.range 8).map fun t => p (8 * g + t))) c

theorem accAfter_succ (c : FVal) (p : Nat → FVal) (n : Nat) :
    accAfter c p (n + 1) = accGroup (accAfter c p n) ((List.range 8).map fun t => p (8 * n + t)) := by
  rw [accAfter, List.range_succ (n := n), List.foldl_append]
  rfl

theorem dotFloat_eq (c : FVal) (p : Nat → FVal) (n : Nat) : dotFloat c ((List.range (8 * n)).map p) = accAfter c p n := by
  rw [dotFloat, List.length_map, List.length_range, eights_groups p n _ (by omega), List.foldl_map]
  rfl

theorem proper_accAfter {c : FVal} {p : Nat → FVal} (hc : Proper c) (hp : ∀ k, Proper (p k)) (n : Nat) : Proper (accAfter c p n) := by
  induction n with
  | zero => exact hc
  | succ n ih =>
    rw [accAfter_succ]
    exact (accGroup_spec ih (by simpa using fun t _ => hp _) (by simp)).2

/-- The model's dot product is that of the manual. -/
theorem dotFloat_dotted {c : FVal} {p : Nat → FVal} (hc : Proper c) (hp : ∀ k, Proper (p k)) (n : Nat) :
    Dotted (exactVal c) (fun k => exactVal (p k)) n (exactVal (dotFloat c ((List.range (8 * n)).map p))) ∧
      Proper (dotFloat c ((List.range (8 * n)).map p)) := by
  rw [dotFloat_eq]
  refine ⟨⟨fun g => exactVal (accAfter c p g), rfl, rfl, fun g _ => ?_⟩, proper_accAfter hc hp n⟩
  have hspec := (accGroup_spec (proper_accAfter hc hp g) (ps := (List.range 8).map fun t => p (8 * g + t)) (by simpa using fun t _ => hp _) (by simp)).1
  rw [List.map_map, ← accAfter_succ] at hspec
  exact hspec

theorem dotted_unique {c : ExactValue} {p : Nat → ExactValue} {n : Nat} {v v' : ExactValue} (h : Dotted c p n v) (h' : Dotted c p n v') : v = v' := by
  obtain ⟨acc, h0, rfl, hstep⟩ := h
  obtain ⟨acc', h0', rfl, hstep'⟩ := h'
  have hall : ∀ g ≤ n, acc g = acc' g := by
    intro g hg
    induction g with
    | zero => rw [h0, h0']
    | succ g ih =>
      obtain ⟨s, x, t, hs, hx, ht, hr⟩ := hstep g hg
      obtain ⟨s', x', t', hs', hx', ht', hr'⟩ := hstep' g hg
      obtain rfl := exactSum_unique hs hs'
      obtain rfl := roundedTo_unique hx hx'
      rw [ih (by omega)] at ht
      obtain rfl := exactSum_unique ht ht'
      exact roundedTo_unique hr hr'
  exact hall n le_rfl

/-! ### Operands (R83, R84) -/

/-- No magnitude of dm8 but zero lies below 10^-8. -/
theorem dm8Mag_ge : ∀ p < 128, 2 ≤ p → 64 ≤ dm8Mag p := by decide +kernel

/-- A rounding whose least place lies below every place used. -/
theorem roundedTo_low {fb : Nat} {low low' : ℤ} {v r : ExactValue} (h : RoundedTo fb low v r)
    (hv : ∀ neg mag, v = .num neg mag → mag ≠ 0 → (2 : ℚ) ^ (max low low' + fb) ≤ mag) : RoundedTo fb low' v r := by
  cases v with
  | nan => exact h
  | inf neg => exact h
  | num neg mag =>
    refine h.imp id fun ⟨e, hlo, hhi, hr⟩ => ⟨e, hlo, hhi, ?_⟩
    have hle := hv neg mag rfl ((two_zpow_pos e).trans_le hlo).ne'
    have he : max low low' + fb < e + 1 := (zpow_lt_zpow_iff_right₀ one_lt_two).mp (hle.trans_lt hhi)
    rw [hr, show max (e - fb) low = max (e - fb) low' by omega]

/-- An operand in the multiplier format (R84). -/
theorem mop_multiplier {f : Nat} (hf : f < 16) (x : Nat) : Multiplier f x (exactVal (mop f x)) ∧ Proper (mop f x) := by
  by_cases h8 : f = 8
  · subst h8
    obtain ⟨hval, hp⟩ := exactVal_dm8Value false x
    obtain ⟨hround, hrp⟩ := roundVal_roundedTo 15 (-4096) hp
    refine ⟨?_, hrp⟩
    rw [Multiplier, if_pos rfl, ← hval]
    refine roundedTo_low hround fun neg mag hnum hne => ?_
    have hsmall : (2 : ℚ) ^ (max (-4096) (-527) + ((15 : Nat) : ℤ)) ≤ 1 / 100000000 := calc
      _ ≤ (2 : ℚ) ^ (-27 : ℤ) := zpow_le_zpow_right₀ one_le_two (by norm_num)
      _ ≤ 1 / 100000000 := by norm_num
    refine hsmall.trans ?_
    rw [dm8Value] at hnum
    have hlt : x % 256 % 128 < 128 := Nat.mod_lt _ (by decide)
    split_ifs at hnum with h1 h2 h3
    · exact nomatch hnum
    · exact absurd (by simpa [exactVal] using hnum.symm : _ ∧ mag = 0).2 hne
    · exact nomatch hnum
    · obtain ⟨-, rfl⟩ : _ ∧ (dm8Mag (x % 256 % 128) / dm8Unit : ℚ) = mag := by simpa [exactVal] using hnum
      rw [le_div_iff₀ dm8Unit_pos]
      have : (64 : ℚ) ≤ dm8Mag (x % 256 % 128) := by exact_mod_cast dm8Mag_ge _ hlt (by omega)
      refine le_trans ?_ this
      norm_num [dm8Unit]
  · have hmop : mop f x = sourceVal f false x := by
      rw [mop]
      cases formatKind hf with
      | float F h noInt => rw [h.kind]
      | dm8 h => exact absurd h h8
      | int signed w kind noFloat fields hw => rw [kind]
    rw [Multiplier, if_neg h8, hmop]
    exact exactVal_sourceVal hf false x

theorem multiplier_unique {f x : Nat} {v v' : ExactValue} (h : Multiplier f x v) (h' : Multiplier f x v') : v = v' := by
  unfold Multiplier at h h'
  split at h
  next h8 =>
    rw [if_pos h8] at h'
    exact roundedTo_unique h h'
  next h8 =>
    rw [if_neg h8] at h'
    exact h.trans h'.symm

/-! ### Outputs (R88) -/

/-- An output format of floats. -/
def OutFloat (f : Nat) : Prop := f ≤ 4 ∨ f = 8

theorem roundOut_roundedOut {f : Nat} (hf : OutFloat f) {v : FVal} (hv : Proper v) : RoundedOut f (exactVal v) (roundOut f v).1 := by
  cases formatKind (by unfold OutFloat at hf; omega : f < 16) with
  | float F h noInt =>
    simp only [RoundedOut, h.fields]
    exact convVal_inFloat h .rn false false false hv
  | dm8 h =>
    subst h
    exact toDm8_inDm8 .rn false hv
  | int signed w kind noFloat fields hw =>
    rcases hf with hf | rfl
    · interval_cases f <;> exact nomatch noFloat
    · exact nomatch fields

/-- The largest finite code stands for the largest finite value. -/
theorem value_big {f : Nat} {F : FloatFmt} (h : Describes f F) : exactVal (F.value F.big) = .num false (largest f) := by
  have hbig : F.big = F.signed false F.big := by simp [FloatFmt.signed]
  have hlarge : largest f = codeMag F.fb F.qmin F.big := by simp only [largest, h.fields, fieldMag_big h]
  have hexp : ¬ (f < 4 ∧ F.big / 2 ^ F.fb = 2 ^ F.eb - 1) := fun ⟨hf, he⟩ => by
    have hlt : F.big / 2 ^ F.fb < 2 ^ F.eb - 1 := by
      rw [Nat.div_lt_iff_lt_mul (Nat.two_pow_pos _), ← h.inf hf]
      exact Nat.lt_succ_self _
    exact hlt.ne he
  have hnan : ¬ (f = 4 ∧ F.big = F.nanC) := fun ⟨hf, he⟩ => by
    subst hf
    rw [h.big, h.nan] at he
    exact absurd he (by simp [bigCode])
  rw [exactVal_value h, hbig, exactOf_signed h false h.room.1, if_neg hexp, if_neg hnan, hlarge]

/-- A final conversion overflows where the value exceeds the largest of its format. -/
theorem outOverflow_iff {f : Nat} (hf : OutFloat f) {v : FVal} (hv : Proper v) :
    (roundOut f v).2 = true ↔ ∃ neg mag, exactVal v = .num neg mag ∧ largest f < mag := by
  rw [roundOut]
  cases v with
  | nan => simp [outOverflow, exactVal]
  | inf neg => simp [outOverflow, exactVal]
  | fin neg num den =>
    have hd : (0 : ℚ) < den := by exact_mod_cast (show 0 < den from hv)
    have hnum : (∃ n m, exactVal (.fin neg num den) = .num n m ∧ largest f < m) ↔ largest f < num / den := by simp [exactVal]
    rw [hnum, lt_div_iff₀ hd]
    cases formatKind (by unfold OutFloat at hf; omega : f < 16) with
    | float F h noInt =>
      have hbig := value_big h
      have hp := proper_value F F.big
      simp only [outOverflow, h.kind]
      cases hv : F.value F.big with
      | nan => rw [hv] at hbig; exact nomatch hbig
      | inf n => rw [hv] at hbig; exact nomatch hbig
      | fin n x y =>
        rw [hv] at hbig hp
        obtain ⟨-, hl⟩ : n = false ∧ (x / y : ℚ) = largest f := by simpa [exactVal] using hbig
        have hy : (0 : ℚ) < y := by exact_mod_cast (show 0 < y from hp)
        rw [← hl, div_mul_eq_mul_div, div_lt_iff₀ hy, decide_eq_true_iff, gt_iff_lt]
        exact_mod_cast Iff.rfl
    | dm8 h =>
      subst h
      simp only [outOverflow, numKind, largest, floatFields, gt_iff_lt, decide_eq_true_iff]
      exact_mod_cast Iff.rfl
    | int signed w kind noFloat fields hw =>
      rcases hf with hf | rfl
      · interval_cases f <;> exact nomatch noFloat
      · exact nomatch fields

end Sys2Proof.Laws.DotProducts

/-! ## The elements of a MATX (R83 to R90, R142 to R145) -/

namespace Sys2Proof.Laws.Matrix
open Sys2Proof Sys2Proof.Machine Sys2Proof.Laws.Rounding Sys2Proof.Laws.DotProducts

/-! ### Operand formats (R83, R142) -/

/-- A format of a matrix operand (R83). -/
def OperandFormat (f : Nat) : Prop := (1 ≤ f ∧ f ≤ 8) ∨ f = 13 ∨ f = 15

theorem operandFormat_cases {f : Nat} (h : OperandFormat f) {p : Nat → Prop} (four : p 7 ∧ p 15) (two : p 1 ∧ p 2)
    (one : p 3 ∧ p 4 ∧ p 5 ∧ p 6 ∧ p 8 ∧ p 13) : p f := by
  obtain ⟨h3, h4, h5, h6, h8, h13⟩ := one
  rcases h with ⟨h, h'⟩ | rfl | rfl
  · interval_cases f
    exacts [two.1, two.2, h3, h4, h5, h6, four.1, h8]
  · exact h13
  · exact four.2

theorem lt_of_operandFormat {f : Nat} (h : OperandFormat f) : f < 16 := by unfold OperandFormat at h; omega

/-- An element as it stands in its bytes, up to bits above its format (R66, R142). -/
theorem elemAt_mod {f : Nat} (h : OperandFormat f) (rd : Nat → Byte) (pos k : Nat) :
    elemAt f rd pos (k % 2 == 1) % 2 ^ fmtWidth f = elementAt f rd pos k % 2 ^ fmtWidth f := by
  refine operandFormat_cases h (p := fun f => elemAt f rd pos (k % 2 == 1) % 2 ^ fmtWidth f = elementAt f rd pos k % 2 ^ fmtWidth f) ?_ ?_ ?_ <;>
    simp [elemAt, elementAt, elementBytes, fourBit]

theorem mop_mod {f : Nat} (hf : f < 16) (x : Nat) : mop f (x % 2 ^ fmtWidth f) = mop f x := by
  have hsource : sourceVal f false (x % 2 ^ fmtWidth f) = sourceVal f false x := by rw [sourceVal, sourceVal, Nat.mod_mod]
  cases formatKind hf with
  | float F h noInt => simp only [mop, h.kind, hsource]
  | dm8 h => subst h; exact congrArg (fun y => roundVal 15 (-4096) .rn (dm8Value y)) (Nat.mod_mod x 256)
  | int signed w kind noFloat fields hw => simp only [mop, kind, hsource]

theorem sx_mod (w x : Nat) : sx w (x % 2 ^ w) = sx w x := by rw [sx, sx, Nat.mod_mod]

theorem mop_congr {f : Nat} (hf : f < 16) {x y : Nat} (h : x % 2 ^ fmtWidth f = y % 2 ^ fmtWidth f) : mop f x = mop f y := by
  rw [← mop_mod hf, h, mop_mod hf]

theorem sx_congr {w x y : Nat} (h : x % 2 ^ w = y % 2 ^ w) : sx w x = sx w y := by rw [← sx_mod, h, sx_mod]

/-! ### Elements of A and B (R143, R144) -/

/-- The element of A in row i at place x along K. -/
def elemA (b : List Byte) (rd : Nat → Byte) (i x : Nat) : Nat := elementAt (mAf b) rd (mAoff b + i * mAstr b + manyBytes (mAf b) x) x

/-- The offset of an element of B from the first, by the bytes of an element. -/
def offsetB (b : List Byte) (x j : Nat) : Nat → Nat
  | 0 => j / 128 * mK b * 64 + x / 2 * 128 + j % 128
  | 2 => j / 128 * mK b * 256 + x * 256 + 2 * (j % 128)
  | _ => j / 128 * mK b * 128 + x * 128 + j % 128

/-- The element of B at place x along K in column j. -/
def elemB (b : List Byte) (rd : Nat → Byte) (x j : Nat) : Nat := elementAt (mBf b) rd (mBoff b + offsetB b x j (elementBytes (mBf b))) x

theorem elemBytes_operand {f : Nat} (h : OperandFormat f) (k : Nat) : elemBytes f (if fourBit f then k / 2 * 2 else k) = manyBytes f k := by
  refine operandFormat_cases h (p := fun f => elemBytes f (if fourBit f then k / 2 * 2 else k) = manyBytes f k) ?_ ?_ ?_ <;>
    simp [elemBytes, manyBytes, elementBytes, fourBit, Nat.mul_comm]

theorem aElem_mod {b : List Byte} (h : OperandFormat (mAf b)) (rd : Nat → Byte) (i k : Nat) :
    aElem b rd i k % 2 ^ fmtWidth (mAf b) = elemA b rd i k % 2 ^ fmtWidth (mAf b) := by
  rw [aElem, elemBytes_operand h, elemAt_mod h, elemA]

theorem bPos_eq {b : List Byte} (h : OperandFormat (mBf b)) (k j : Nat) : bPos b k j = mBoff b + offsetB b k j (elementBytes (mBf b)) := by
  simp only [bPos]
  generalize mBf b = f at *
  refine operandFormat_cases h (p := fun f => mBoff b + (if fourBit f = true then _ else if (decide (f = 1) || decide (f = 2)) = true then _ else _) =
    mBoff b + offsetB b k j (elementBytes f)) ?_ ?_ ?_ <;> simp [offsetB, elementBytes, fourBit]

theorem bElem_mod {b : List Byte} (h : OperandFormat (mBf b)) (rd : Nat → Byte) (k j : Nat) :
    bElem b rd k j % 2 ^ fmtWidth (mBf b) = elemB b rd k j % 2 ^ fmtWidth (mBf b) := by
  rw [bElem, bPos_eq h, elemAt_mod h, elemB]

theorem elemBytes_all {f : Nat} (h : OperandFormat f) (n : Nat) : elemBytes f n = manyBytes f n := by
  refine operandFormat_cases h (p := fun f => elemBytes f n = manyBytes f n) ?_ ?_ ?_ <;>
    simp [elemBytes, manyBytes, elementBytes, fourBit, Nat.mul_comm]

end Sys2Proof.Laws.Matrix

namespace Sys2Proof.Laws.Matrix
open Sys2Proof Sys2Proof.Machine Sys2Proof.Claims Sys2Proof.Laws.Rounding Sys2Proof.Laws.DotProducts

/-! ### Elements of a float MATX (R87, R88) -/

/-- A MATX of float operands. -/
structure FloatMatx (b : List Byte) : Prop where
  left  : 1 ≤ mAf b ∧ mAf b ≤ 8
  right : 1 ≤ mBf b ∧ mBf b ≤ 8
  out   : OutFloat (mDf b)

/-- The dot product of an element of partial q, from the word of C. -/
def DotOf (b : List Byte) (ra rb : Nat → Byte) (c q i j : Nat) (v : ExactValue) : Prop :=
  ∃ x y : Nat → ExactValue,
    (∀ n, Multiplier (mAf b) (elemA b ra i (q * kPer b + n)) (x n) ∧ Multiplier (mBf b) (elemB b rb (q * kPer b + n) j) (y n)) ∧
      Dotted (exactOf 0 false c) (fun n => exactTimes (x n) (y n)) (kPer b / 8) v

theorem dotOf_unique {b : List Byte} {ra rb : Nat → Byte} {c q i j : Nat} {v v' : ExactValue} (h : DotOf b ra rb c q i j v)
    (h' : DotOf b ra rb c q i j v') : v = v' := by
  obtain ⟨x, y, hxy, hd⟩ := h
  obtain ⟨x', y', hxy', hd'⟩ := h'
  obtain rfl : x = x' := funext fun n => multiplier_unique (hxy n).1 (hxy' n).1
  obtain rfl : y = y' := funext fun n => multiplier_unique (hxy n).2 (hxy' n).2
  exact dotted_unique hd hd'

theorem matxElem_float {b : List Byte} (hb : FloatMatx b) (hk : kPer b % 8 = 0) (ra rb : Nat → Byte) (c i j q : Nat) :
    ∃ v, Proper v ∧ matxElem b ra rb c i j q = roundOut (mDf b) v ∧ DotOf b ra rb c q i j (exactVal v) := by
  have hA : OperandFormat (mAf b) := .inl hb.left
  have hB : OperandFormat (mBf b) := .inl hb.right
  let x (n : Nat) : FVal := mop (mAf b) (elemA b ra i (q * kPer b + n))
  let y (n : Nat) : FVal := mop (mBf b) (elemB b rb (q * kPer b + n) j)
  have hx := fun n => mop_multiplier (lt_of_operandFormat hA) (elemA b ra i (q * kPer b + n))
  have hy := fun n => mop_multiplier (lt_of_operandFormat hB) (elemB b rb (q * kPer b + n) j)
  have hmul := fun n => exactVal_mul (hx n).2 (hy n).2
  have hlist : ((List.range (kPer b)).map (· + q * kPer b)).map (fun k => (mop (mAf b) (aElem b ra i k)).mul (mop (mBf b) (bElem b rb k j))) =
      (List.range (8 * (kPer b / 8))).map fun n => (x n).mul (y n) := by
    rw [List.map_map, Nat.mul_div_cancel' (Nat.dvd_of_mod_eq_zero hk)]
    refine List.map_congr_left fun n _ => ?_
    simp only [Function.comp_apply, x, y, Nat.add_comm n]
    rw [mop_congr (lt_of_operandFormat hA) (aElem_mod hA ra i _), mop_congr (lt_of_operandFormat hB) (bElem_mod hB rb _ j)]
  obtain ⟨hdot, hproper⟩ := dotFloat_dotted (proper_value fF32 c) (fun n => (hmul n).2) (kPer b / 8)
  have hnot : opInt (mAf b) = false := by
    have := hb.left
    simp only [opInt, Bool.or_eq_false_iff, beq_eq_false_iff_ne]
    omega
  refine ⟨_, hproper, ?_, fun n => exactVal (x n), fun n => exactVal (y n), fun n => ⟨(hx n).1, (hy n).1⟩, ?_⟩
  · simp only [matxElem, hnot, Bool.false_eq_true, if_false, hlist]
    rfl
  · rw [exactVal_value (describes (by decide : 0 < 8) rfl) c] at hdot
    simp only [hmul] at hdot
    exact hdot

/-- A code of a float format has its sign bit at most. -/
theorem inFloat_lt {f : Nat} {F : FloatFmt} (h : Describes f F) {mode : RMode} {range ftz whole : Bool} {v : ExactValue} {c : Nat}
    (hc : InFloat f F.eb F.fb mode range ftz whole v c) : c < 2 ^ (F.signPos + 1) := by
  obtain ⟨hbig, hnan⟩ := h.room
  have hinf : (2 ^ F.eb - 1) * 2 ^ F.fb < 2 ^ F.signPos := by
    rw [signPos_eq, Nat.pow_add]
    exact Nat.mul_lt_mul_of_pos_right (Nat.sub_lt (Nat.two_pow_pos _) Nat.one_pos) (Nat.two_pow_pos _)
  have hlast : f = 4 → 0x7F < 2 ^ F.signPos := fun h4 => by rwa [h.nan, h4] at hnan
  have hsign : ∀ neg m, m < 2 ^ F.signPos → withSign F.eb F.fb neg m < 2 ^ (F.signPos + 1) := fun neg m hm => by
    rw [withSign_eq]
    exact (signed_spec F neg hm).1
  cases v with
  | nan =>
    rw [InFloat, ← h.nan] at hc
    exact hc ▸ hnan.trans (Nat.pow_lt_pow_right Nat.one_lt_two (Nat.lt_succ_self _))
  | inf neg =>
    rw [InFloat, ← h.big] at hc
    rw [hc]
    refine hsign neg _ ?_
    split_ifs with h1 h2
    exacts [hinf, hlast h2.1, hbig]
  | num neg mag =>
    simp only [InFloat, ← h.big] at hc
    split at hc
    · rw [hc]
      exact hsign neg 0 (Nat.two_pow_pos _)
    split at hc
    · by_cases ha : awayMode mode neg = true ∨ mode = .rn ∧ fieldMag F.eb F.fb F.big + topStep f F.eb F.fb / 2 ≤ mag
      · rw [hc.1 ha]
        refine hsign neg _ ?_
        split_ifs with h1 h2 h3 h4 h5
        exacts [hbig, hinf, hinf, hbig, hlast h5.1, hbig]
      · rw [hc.2 ha]
        exact hsign neg _ hbig
    · exact ((h.finite c).mp hc.1.1).1

theorem inDm8_lt {mode : RMode} {range : Bool} {v : ExactValue} {c : Nat} (h : InDm8 mode range v c) : c < 256 := by
  cases v with
  | nan =>
    rw [InDm8] at h
    omega
  | inf neg =>
    rw [InDm8] at h
    split at h <;> omega
  | num neg mag =>
    simp only [InDm8] at h
    split at h
    · split_ifs at h <;> omega
    · exact ((finiteCode_dm8 c).mp h.1).1

/-- An output code fits the bytes of its element. -/
theorem roundedOut_lt {f : Nat} (hf : OutFloat f) {v : ExactValue} {c : Nat} (h : RoundedOut f v c) : c < 256 ^ elementBytes f := by
  rcases hf with hf | rfl
  · obtain ⟨F, hF⟩ : ∃ F, numKind f = .float F := by interval_cases f <;> exact ⟨_, rfl⟩
    have hd := describes (by omega) hF
    have hfields := hd.fields
    simp only [RoundedOut, hfields] at h
    have hlt := inFloat_lt hd h
    rw [signPos_eq] at hlt
    interval_cases f <;> simp only [floatFields, Option.some.injEq, Prod.mk.injEq] at hfields <;> rw [← hfields.1, ← hfields.2] at hlt <;> exact hlt
  · exact inDm8_lt h

/-- An element of a float MATX: its code, and whether it records an overflow. -/
theorem matxElem_float_spec {b : List Byte} (hb : FloatMatx b) (hk : kPer b % 8 = 0) (ra rb : Nat → Byte) (c i j q : Nat) :
    (∃ v, DotOf b ra rb c q i j v ∧ RoundedOut (mDf b) v (matxElem b ra rb c i j q).1) ∧
    (matxElem b ra rb c i j q).1 < 256 ^ elementBytes (mDf b) ∧
    ((matxElem b ra rb c i j q).2 = true ↔ ∃ neg mag, DotOf b ra rb c q i j (.num neg mag) ∧ largest (mDf b) < mag) := by
  obtain ⟨v, hv, he, hdot⟩ := matxElem_float hb hk ra rb c i j q
  have hout := roundOut_roundedOut hb.out hv
  rw [he, outOverflow_iff hb.out hv]
  exact ⟨⟨_, hdot, hout⟩, roundedOut_lt hb.out hout, fun ⟨neg, mag, h1, h2⟩ => ⟨neg, mag, h1 ▸ hdot, h2⟩,
    fun ⟨neg, mag, h1, h2⟩ => ⟨neg, mag, dotOf_unique hdot h1, h2⟩⟩

/-! ### Elements of an integer MATX (R89) -/

/-- A MATX of integer operands. -/
structure IntMatx (b : List Byte) : Prop where
  left  : mAf b = 13 ∨ mAf b = 15
  right : mBf b = 13 ∨ mBf b = 15
  out   : mDf b = 9

/-- The integer of an operand. -/
def operandValue (f x : Nat) : ℤ := if f = 15 then (BitVec.ofNat 4 x).toInt else (BitVec.ofNat 8 x).toInt

/-- The accumulator of an element of partial q, from the word of C. -/
def accOf (b : List Byte) (ra rb : Nat → Byte) (c q i j : Nat) : ℤ :=
  (BitVec.ofInt 48 ((BitVec.ofNat 32 c).toInt + ((List.range (kPer b)).map fun x =>
    operandValue (mAf b) (elemA b ra i (q * kPer b + x)) * operandValue (mBf b) (elemB b rb (q * kPer b + x) j)).sum)).toInt

theorem sx_operand {f : Nat} (h : f = 13 ∨ f = 15) (x : Nat) : sx (fmtWidth f) x = operandValue f x := by
  rcases h with rfl | rfl
  · exact sx_eq_toInt (by decide) x
  · exact sx_eq_toInt (by decide) x

theorem foldl_add_eq_sum {α : Type} (g : α → ℤ) (l : List α) (t : ℤ) : l.foldl (fun t k => t + g k) t = t + (l.map g).sum := by
  induction l generalizing t with
  | nil => simp
  | cons x xs ih => rw [List.foldl_cons, ih, List.map_cons, List.sum_cons, add_assoc]

theorem sx_wrapN (a : ℤ) : sx 48 (wrapN 48 a) = (BitVec.ofInt 48 a).toInt := by
  rw [sx_eq_toInt (by decide)]
  congr 1
  apply BitVec.eq_of_toNat_eq
  simp only [wrapN, BitVec.toNat_ofNat, BitVec.toNat_ofInt]
  omega

theorem ofNat_wrapN (a : ℤ) : BitVec.ofNat 32 (wrapN 32 a) = BitVec.ofInt 32 a := by
  apply BitVec.eq_of_toNat_eq
  simp only [wrapN, BitVec.toNat_ofNat, BitVec.toNat_ofInt]
  omega

theorem satS_eq (a : ℤ) : satS 32 a = if a < -2147483648 then -2147483648 else if 2147483647 < a then 2147483647 else a := by
  simp only [satS]
  split_ifs <;> omega

theorem matxElem_int {b : List Byte} (hb : IntMatx b) (ra rb : Nat → Byte) (c i j q : Nat) :
    matxElem b ra rb c i j q = (wrapN 32 (satS 32 (accOf b ra rb c q i j)), satS 32 (accOf b ra rb c q i j) != accOf b ra rb c q i j) := by
  have hA : OperandFormat (mAf b) := .inr hb.left
  have hB : OperandFormat (mBf b) := .inr hb.right
  have hint : opInt (mAf b) = true := by rcases hb.left with h | h <;> rw [h] <;> rfl
  simp only [matxElem, hint, if_true, foldl_add_eq_sum, roundOutInt, List.map_map, sx_wrapN, sx_eq_toInt (by decide : 0 < 32)]
  have hlist : (List.range (kPer b)).map ((fun k => sx (fmtWidth (mAf b)) (aElem b ra i k) * sx (fmtWidth (mBf b)) (bElem b rb k j)) ∘ (· + q * kPer b)) =
      (List.range (kPer b)).map fun x =>
        operandValue (mAf b) (elemA b ra i (q * kPer b + x)) * operandValue (mBf b) (elemB b rb (q * kPer b + x) j) := by
    refine List.map_congr_left fun n _ => ?_
    simp only [Function.comp_apply, Nat.add_comm n, sx_congr (aElem_mod hA ra i _), sx_congr (bElem_mod hB rb _ j), sx_operand hb.left, sx_operand hb.right]
  rw [hlist]
  rfl

/-- An element of an integer MATX: its word, and whether saturation changed it. -/
theorem matxElem_int_spec {b : List Byte} (hb : IntMatx b) (ra rb : Nat → Byte) (c i j q : Nat) :
    BitVec.ofNat 32 (matxElem b ra rb c i j q).1 = narrow true (accOf b ra rb c q i j) ∧
    (matxElem b ra rb c i j q).1 < 256 ^ elementBytes (mDf b) ∧
    ((matxElem b ra rb c i j q).2 = true ↔ accOf b ra rb c q i j < -2147483648 ∨ 2147483647 < accOf b ra rb c q i j) := by
  rw [matxElem_int hb]
  generalize accOf b ra rb c q i j = a
  refine ⟨?_, ?_, ?_⟩
  · rw [ofNat_wrapN, satS_eq, narrow, if_pos rfl]
    split_ifs <;> rfl
  · rw [hb.out, wrapN]
    simp only [elementBytes]
    norm_num
    omega
  · rw [bne_iff_ne, satS_eq]
    split_ifs <;> simp <;> omega

end Sys2Proof.Laws.Matrix

/-! ## What a MATX writes (R139, R145, R164) -/

namespace Sys2Proof.Laws.Matrix
open Sys2Proof Sys2Proof.Machine

/-! ### Writing cells one after another -/

section
variable {α : Type} (place : α → Nat) (size : Nat) (out : α → Nat × Bool)

/-- A cell is written, and its overflow noted. -/
def writeCell (acc : List Host.Cell × Bool) (x : α) : List Host.Cell × Bool :=
  (Memory.write acc.1 (place x) (leBytes size (out x).1), acc.2 || (out x).2)

/-- A byte lies in a cell. -/
def Covers (x : α) (o : Nat) : Prop := place x ≤ o ∧ o < place x + size

/-- Bytes outside the cells written stay, and the memory stays canonical. -/
theorem foldl_writeCell_frame (l : List α) (acc : List Host.Cell × Bool) (h : Memory.wf acc.1 = true) :
    Memory.wf (l.foldl (writeCell place size out) acc).1 = true ∧
    ∀ o, (∀ x ∈ l, ¬ Covers place size x o) → Memory.get (l.foldl (writeCell place size out) acc).1 o = Memory.get acc.1 o := by
  induction l generalizing acc with
  | nil => exact ⟨h, fun _ _ => rfl⟩
  | cons x xs ih =>
    obtain ⟨hwf, hframe⟩ := ih (writeCell place size out acc x) (Memory.wf_write _ _ _ h)
    refine ⟨hwf, fun o ho => ?_⟩
    rw [List.foldl_cons, hframe o fun y hy => ho y (List.mem_cons_of_mem _ hy), writeCell, Memory.get_write _ _ _ _ h, length_leBytes]
    exact if_neg (ho x List.mem_cons_self)

theorem read_congr {m m' : List Host.Cell} {a n : Nat} (h : ∀ o, a ≤ o → o < a + n → Memory.get m o = Memory.get m' o) :
    Memory.read m a n = Memory.read m' a n := by
  apply List.ext_getElem?
  intro i
  by_cases hi : i < n
  · rw [Memory.getElem?_read _ _ _ _ hi, Memory.getElem?_read _ _ _ _ hi, h _ (by omega) (by omega)]
  · rw [List.getElem?_eq_none (by rw [Memory.length_read]; omega), List.getElem?_eq_none (by rw [Memory.length_read]; omega)]

/-- Each cell holds its value at the end, where no two cells overlap. -/
theorem foldl_writeCell_read (l : List α) (acc : List Host.Cell × Bool) (h : Memory.wf acc.1 = true)
    (hapart : ∀ x ∈ l, ∀ y ∈ l, x ≠ y → place x + size ≤ place y ∨ place y + size ≤ place x) :
    ∀ x ∈ l, Memory.read (l.foldl (writeCell place size out) acc).1 (place x) size = leBytes size (out x).1 := by
  induction l generalizing acc with
  | nil => exact fun x hx => absurd hx List.not_mem_nil
  | cons z xs ih =>
    have hstep : Memory.wf (writeCell place size out acc z).1 = true := Memory.wf_write _ _ _ h
    intro x hx
    rw [List.foldl_cons]
    by_cases hmem : x ∈ xs
    · exact ih _ hstep (fun x hx y hy => hapart x (List.mem_cons_of_mem _ hx) y (List.mem_cons_of_mem _ hy)) x hmem
    · obtain rfl : x = z := (List.mem_cons.mp hx).resolve_right hmem
      have hsame := Memory.read_write acc.1 (place x) (leBytes size (out x).1) h
      rw [length_leBytes] at hsame
      rw [← hsame]
      refine read_congr fun o h1 h2 => (foldl_writeCell_frame place size out xs _ hstep).2 o fun y hy hc => ?_
      obtain ⟨h3, h4⟩ := hc
      rcases hapart x hx y (List.mem_cons_of_mem _ hy) (fun e => hmem (e ▸ hy)) with h | h <;> omega

theorem foldl_writeCell_flag (l : List α) (acc : List Host.Cell × Bool) :
    (l.foldl (writeCell place size out) acc).2 = true ↔ acc.2 = true ∨ ∃ x ∈ l, (out x).2 = true := by
  induction l generalizing acc with
  | nil => simp
  | cons x xs ih => rw [List.foldl_cons, ih, writeCell]; simp [or_assoc]

end

/-! ### The cells of a MATX, block by block (R139, R145) -/

/-- The first byte of a cell of a partial. -/
def cellPlace (b : List Byte) (x : Nat × Nat × Nat) : Nat := mDoff b + x.1 * mPstr b + outOff b (mDf b) x.2.1 x.2.2

/-- The word of C for a cell, as a memory holds it. -/
def cWordIn (b : List Byte) (m : List Host.Cell) (x : Nat × Nat × Nat) : Nat :=
  if (mCen b && x.1 == 0) = true then leNat (Memory.read m (mCoff b + outOff b (cFmt b) x.2.1 x.2.2) 4) else 0

/-- The element of a cell, its C read from a memory. -/
def cellOut (b : List Byte) (ra rb : Nat → Byte) (m : List Host.Cell) (x : Nat × Nat × Nat) : Nat × Bool :=
  matxElem b ra rb (cWordIn b m x) x.2.1 x.2.2 x.1

theorem mem_blockCells {b : List Byte} {mb nb : Nat} {x : Nat × Nat × Nat} :
    x ∈ blockCells b mb nb ↔ x.1 < partials b ∧ x.2.1 / 128 = mb ∧ x.2.2 / 128 = nb := by
  obtain ⟨q, i, j⟩ := x
  simp only [blockCells, List.mem_flatMap, List.mem_map, List.mem_range, Prod.mk.injEq]
  constructor
  · rintro ⟨q', hq, i', hi, j', hj, rfl, rfl, rfl⟩
    exact ⟨hq, by omega, by omega⟩
  · rintro ⟨hq, hi, hj⟩
    exact ⟨q, hq, i % 128, by omega, j % 128, by omega, rfl, by omega, by omega⟩

theorem runBlock_eq (b : List Byte) (ra rb : Nat → Byte) (acc : List Host.Cell × Bool) (mb nb : Nat) :
    runBlock b ra rb acc mb nb = (blockCells b mb nb).foldl (writeCell (cellPlace b) (elemBytes (mDf b) 1) (cellOut b ra rb acc.1)) acc := rfl

/-- The blocks in order, row by row. -/
def blocksOf (b : List Byte) : List (Nat × Nat) := List.product (List.range (mM b / 128)) (List.range (mN b / 128))

/-- The cells in the order in which they are written. -/
def cellsOf (b : List Byte) : List (Nat × Nat × Nat) := (blocksOf b).flatMap fun p => blockCells b p.1 p.2

theorem foldl_blocks {β : Type} (f : β → Nat → Nat → β) (b : List Byte) (acc : β) :
    (List.range (mM b / 128)).foldl (fun acc mb => (List.range (mN b / 128)).foldl (fun acc nb => f acc mb nb) acc) acc =
      (blocksOf b).foldl (fun acc p => f acc p.1 p.2) acc := by
  rw [blocksOf, List.product, List.foldl_flatMap]
  simp only [List.foldl_map]

theorem nodup_blocksOf (b : List Byte) : (blocksOf b).Nodup := by
  exact List.nodup_range.product List.nodup_range

theorem mem_cellsOf {b : List Byte} (hM : mM b % 128 = 0) (hN : mN b % 128 = 0) {x : Nat × Nat × Nat} :
    x ∈ cellsOf b ↔ x.1 < partials b ∧ x.2.1 < mM b ∧ x.2.2 < mN b := by
  simp only [cellsOf, List.mem_flatMap, mem_blockCells, blocksOf, Prod.exists, List.pair_mem_product, List.mem_range]
  constructor
  · rintro ⟨mb, nb, ⟨h1, h2⟩, h3, h4, h5⟩
    omega
  · rintro ⟨h1, h2, h3⟩
    exact ⟨_, _, ⟨by omega, by omega⟩, h1, rfl, rfl⟩

/-- The word of C is read before anything that is written in its place: only the cell's own bytes may lie there. -/
def OwnC (b : List Byte) : Prop :=
  mCen b = true → ∀ x ∈ cellsOf b, x.1 = 0 → ∀ o, mCoff b + outOff b (cFmt b) x.2.1 x.2.2 ≤ o → o < mCoff b + outOff b (cFmt b) x.2.1 x.2.2 + 4 →
    ∀ y ∈ cellsOf b, Covers (cellPlace b) (elemBytes (mDf b) 1) y o → y = x

/-- The bytes outside the cells of some blocks stand as in a memory. -/
def AgreesOutside (b : List Byte) (blocks : List (Nat × Nat)) (m m' : List Host.Cell) : Prop :=
  ∀ o, (∀ p ∈ blocks, ∀ x ∈ blockCells b p.1 p.2, ¬ Covers (cellPlace b) (elemBytes (mDf b) 1) x o) → Memory.get m' o = Memory.get m o

/-- A block that begins reads its C as the first memory gives it. -/
theorem cellOut_congr {b : List Byte} (hC : OwnC b) (ra rb : Nat → Byte) {m m' : List Host.Cell} {done : List (Nat × Nat)} {p : Nat × Nat}
    (hp : p ∈ blocksOf b ∧ p ∉ done) (hdone : ∀ p ∈ done, p ∈ blocksOf b) (hsame : AgreesOutside b done m m') {x : Nat × Nat × Nat}
    (hx : x ∈ blockCells b p.1 p.2) : cellOut b ra rb m' x = cellOut b ra rb m x := by
  have hmem : ∀ {p : Nat × Nat} {y : Nat × Nat × Nat}, p ∈ blocksOf b → y ∈ blockCells b p.1 p.2 → y ∈ cellsOf b := fun hp hy =>
    List.mem_flatMap.mpr ⟨_, hp, hy⟩
  suffices hword : cWordIn b m' x = cWordIn b m x by rw [cellOut, hword]; rfl
  rw [cWordIn, cWordIn]
  split
  next hc =>
    obtain ⟨hcen, hq⟩ := Bool.and_eq_true_iff.mp hc
    refine congrArg leNat (read_congr fun o h1 h2 => hsame o fun p' hp' y hy hcov => hp.2 ?_)
    obtain rfl := hC hcen x (hmem hp.1 hx) (by simpa using hq) o h1 h2 y (hmem (hdone p' hp') hy) hcov
    obtain ⟨-, h3, h4⟩ := mem_blockCells.mp hx
    obtain ⟨-, h5, h6⟩ := mem_blockCells.mp hy
    have : p = p' := Prod.ext (h3.symm.trans h5) (h4.symm.trans h6)
    rwa [this]
  next => rfl

/-- The blocks, each of which reads its C as it begins, write what all cells write whose C the first memory gives. -/
theorem foldl_runBlock {b : List Byte} (hC : OwnC b) (ra rb : Nat → Byte) (m : List Host.Cell) (todo done : List (Nat × Nat)) (hnd : todo.Nodup)
    (hnew : ∀ p ∈ todo, p ∈ blocksOf b ∧ p ∉ done) (hdone : ∀ p ∈ done, p ∈ blocksOf b) (acc : List Host.Cell × Bool) (hwf : Memory.wf acc.1 = true)
    (hsame : AgreesOutside b done m acc.1) :
    todo.foldl (fun acc p => runBlock b ra rb acc p.1 p.2) acc =
      (todo.flatMap fun p => blockCells b p.1 p.2).foldl (writeCell (cellPlace b) (elemBytes (mDf b) 1) (cellOut b ra rb m)) acc := by
  induction todo generalizing done acc with
  | nil => rfl
  | cons p ps ih =>
    obtain ⟨hp, hnd⟩ := List.nodup_cons.mp hnd
    have hblock : runBlock b ra rb acc p.1 p.2 =
        (blockCells b p.1 p.2).foldl (writeCell (cellPlace b) (elemBytes (mDf b) 1) (cellOut b ra rb m)) acc := by
      rw [runBlock_eq]
      refine List.foldl_ext _ _ _ fun a x hx => ?_
      rw [writeCell, writeCell, cellOut_congr hC ra rb (hnew p List.mem_cons_self) hdone hsame hx]
    obtain ⟨hwf', hframe⟩ := foldl_writeCell_frame (cellPlace b) (elemBytes (mDf b) 1) (cellOut b ra rb m) (blockCells b p.1 p.2) acc hwf
    rw [List.foldl_cons, hblock, List.flatMap_cons, List.foldl_append]
    refine ih (p :: done) hnd (fun p' hp' => ⟨(hnew p' (List.mem_cons_of_mem _ hp')).1, ?_⟩) ?_ _ hwf' fun o ho => ?_
    · rw [List.mem_cons, not_or]
      exact ⟨fun e => hp (e ▸ hp'), (hnew p' (List.mem_cons_of_mem _ hp')).2⟩
    · exact List.forall_mem_cons.mpr ⟨(hnew p List.mem_cons_self).1, hdone⟩
    · obtain ⟨h1, h2⟩ := List.forall_mem_cons.mp ho
      rw [hframe o h1, hsame o h2]

/-- The memory that a MATX leaves, and whether an element overflowed. -/
def matxOut (b : List Byte) (ra rb : Nat → Byte) (m : List Host.Cell) : List Host.Cell × Bool :=
  (List.range (mM b / 128)).foldl (fun acc mb => (List.range (mN b / 128)).foldl (fun acc nb => runBlock b ra rb acc mb nb) acc) (m, false)

/-- A MATX writes each of its cells, of which no two overlap, and nothing else; it overflows where an element does. -/
theorem matxOut_spec {b : List Byte} (hC : OwnC b) (ra rb : Nat → Byte) {m : List Host.Cell} (hwf : Memory.wf m = true)
    (hapart : ∀ x ∈ cellsOf b, ∀ y ∈ cellsOf b, x ≠ y →
      cellPlace b x + elemBytes (mDf b) 1 ≤ cellPlace b y ∨ cellPlace b y + elemBytes (mDf b) 1 ≤ cellPlace b x) :
    Memory.wf (matxOut b ra rb m).1 = true ∧
    (∀ x ∈ cellsOf b, Memory.read (matxOut b ra rb m).1 (cellPlace b x) (elemBytes (mDf b) 1) =
      leBytes (elemBytes (mDf b) 1) (cellOut b ra rb m x).1) ∧
    (∀ o, (∀ x ∈ cellsOf b, ¬ Covers (cellPlace b) (elemBytes (mDf b) 1) x o) → Memory.get (matxOut b ra rb m).1 o = Memory.get m o) ∧
    ((matxOut b ra rb m).2 = true ↔ ∃ x ∈ cellsOf b, (cellOut b ra rb m x).2 = true) := by
  have hout : matxOut b ra rb m = (cellsOf b).foldl (writeCell (cellPlace b) (elemBytes (mDf b) 1) (cellOut b ra rb m)) (m, false) := by
    rw [matxOut, foldl_blocks (fun acc mb nb => runBlock b ra rb acc mb nb)]
    exact foldl_runBlock hC ra rb m (blocksOf b) [] (nodup_blocksOf b) (fun p hp => ⟨hp, List.not_mem_nil⟩) (fun p hp => absurd hp List.not_mem_nil) _ hwf
      fun o _ => rfl
  rw [hout]
  obtain ⟨h1, h2⟩ := foldl_writeCell_frame (cellPlace b) (elemBytes (mDf b) 1) (cellOut b ra rb m) (cellsOf b) (m, false) hwf
  exact ⟨h1, foldl_writeCell_read _ _ _ _ _ hwf hapart, h2, by rw [foldl_writeCell_flag]; simp⟩

end Sys2Proof.Laws.Matrix

/-! ## The end of a task without successors (R154, R155, R158) -/

namespace Sys2Proof.Laws.TaskEnds
open Sys2Proof Sys2Proof.Machine Sys2Proof.Laws.Rollback Sys2Proof.Laws.Budgets

/-! ### Barrier objects in local memory (R157, R158) -/

theorem read_add (m : List Host.Cell) (a n k : Nat) : Memory.read m a (n + k) = Memory.read m a n ++ Memory.read m (a + n) k := by
  induction n generalizing a with
  | zero => simp [Memory.read]
  | succ n ih => rw [Nat.succ_add, Memory.read, Memory.read, ih, List.cons_append, Nat.add_assoc, Nat.add_comm 1 n]

theorem map_get_range (m : List Host.Cell) (a n : Nat) : ((List.range n).map fun k => Memory.get m (a + k)) = Memory.read m a n := by
  apply List.ext_getElem?
  intro i
  by_cases hi : i < n
  · rw [Memory.getElem?_read _ _ _ _ hi, List.getElem?_map, List.getElem?_range hi, Option.map_some]
  · rw [List.getElem?_eq_none (by simpa using hi), List.getElem?_eq_none (by rw [Memory.length_read]; omega)]

theorem localNum_eq {s : State} {key : Nat} {w : Workgroup} (h : wgOf s key = some w) (r : Role) (o n : Nat) :
    localNum s r key o n = leNat (Memory.read (w.loc r) o n) := by
  simp only [localNum, localAt_eq h, map_get_range]

/-- The object of the statements is the model's. -/
theorem objAt_eq {s : State} {key : Nat} {w : Workgroup} (h : wgOf s key = some w) (r : Role) (o : Nat) : objAt s r key o = readObj w r o := by
  simp only [objAt, localNum_eq h]
  rfl

/-- An object whose fields fit their places. -/
structure Fits (b : BarObj) : Prop where
  pend  : b.pend < 2 ^ 16
  init  : b.init < 2 ^ 16
  resv  : b.resv < 2 ^ 14
  resvI : b.resvI < 2 ^ 16

theorem leNat_lt (bs : List Byte) : leNat bs < 256 ^ bs.length := by
  induction bs with
  | nil => exact Nat.one_pos
  | cons b bs ih =>
    have hb := b.isLt
    rw [leNat, List.length_cons, Nat.pow_succ]
    omega

theorem fits_readObj (w : Workgroup) (r : Role) (o : Nat) : Fits (readObj w r o) := by
  have hword : locWord w r (o + 4) < 256 ^ 4 := by
    have := leNat_lt (locRead w r (o + 4) 4)
    rwa [locRead, Memory.length_read] at this
  refine ⟨Nat.mod_lt _ (by decide), Nat.mod_lt _ (by decide), Nat.mod_lt _ (by decide), ?_⟩
  change locWord w r (o + 4) / 65536 < 2 ^ 16
  omega

/-- The first word of an object holds its fields. -/
theorem head_spec {b : BarObj} (hb : Fits b) : b.head < 256 ^ 4 ∧ bitAt b.head 31 = b.phase ∧ bitAt b.head 30 = b.inv ∧ b.head % 65536 = b.pend ∧
    bits b.head 29 16 = b.resv := by
  obtain ⟨hp, -, hr, -⟩ := hb
  have hone : ∀ x, bit x ≤ 1 ∧ ((bit x == 1) = x) := by decide
  obtain ⟨hphase, hphase'⟩ := hone b.phase
  obtain ⟨hinv, hinv'⟩ := hone b.inv
  have hphase2 : b.head / 2 ^ 31 % 2 = bit b.phase := by rw [BarObj.head]; omega
  have hinv2 : b.head / 2 ^ 30 % 2 = bit b.inv := by rw [BarObj.head]; omega
  refine ⟨by rw [BarObj.head]; omega, by rw [bitAt, hphase2, hphase'], by rw [bitAt, hinv2, hinv'], by rw [BarObj.head]; omega, ?_⟩
  rw [bits, BarObj.head]
  omega

/-- An object written is read back. -/
theorem readObj_write {w : Workgroup} {r : Role} {m : List Host.Cell} {o : Nat} {b : BarObj} (hb : Fits b) (hm : Memory.wf m = true)
    (hw : w.loc r = Memory.write m o b.bytes) : readObj w r o = b := by
  have hlen : b.bytes.length = 16 := by simp [BarObj.bytes, length_leBytes]
  have hread := Memory.read_write m o b.bytes hm
  rw [hlen, show 16 = 4 + (4 + (4 + 4)) from rfl, read_add, read_add, read_add, ← hw] at hread
  have hwords : Memory.read (w.loc r) o 4 = leBytes 4 b.head ∧ Memory.read (w.loc r) (o + 4) 4 = leBytes 4 (b.resvI * 2 ^ 16 + b.init) ∧
      Memory.read (w.loc r) (o + 8) 4 = leBytes 4 b.txb.toNat ∧ Memory.read (w.loc r) (o + 12) 4 = leBytes 4 b.status.toNat := by
    simp only [BarObj.bytes, List.append_assoc] at hread
    obtain ⟨h0, hread⟩ := List.append_inj hread (by rw [Memory.length_read, length_leBytes])
    obtain ⟨h1, hread⟩ := List.append_inj hread (by rw [Memory.length_read, length_leBytes])
    obtain ⟨h2, h3⟩ := List.append_inj hread (by rw [Memory.length_read, length_leBytes])
    exact ⟨h0, h1, h2, h3⟩
  obtain ⟨h0, h1, h2, h3⟩ := hwords
  obtain ⟨hhead, hphase, hinv, hpend, hresv⟩ := head_spec hb
  have hinit : (b.resvI * 2 ^ 16 + b.init) % 65536 = b.init ∧ (b.resvI * 2 ^ 16 + b.init) / 65536 = b.resvI := by
    have := hb.init
    omega
  have hsecond : b.resvI * 2 ^ 16 + b.init < 256 ^ 4 := by
    have h1 := hb.init
    have h2 := hb.resvI
    omega
  have htxb : b.txb.toNat < 256 ^ 4 := b.txb.isLt
  have hstatus : b.status.toNat < 256 ^ 4 := b.status.isLt
  simp only [readObj, locWord, locRead, h0, h1, h2, h3, leNat_leBytes, Nat.mod_eq_of_lt hhead, Nat.mod_eq_of_lt hsecond, Nat.mod_eq_of_lt htxb,
    Nat.mod_eq_of_lt hstatus, hphase, hinv, hpend, hresv, hinit, BitVec.ofNat_toNat, BitVec.setWidth_eq]

theorem countArrival_eq (o : BarObj) : o.countArrival = arrival o := rfl

theorem checkFlip_eq (o : BarObj) : o.checkFlip = phaseEnd o := by
  rw [BarObj.checkFlip, phaseEnd]
  simp only [Bool.and_eq_true, Bool.not_eq_true', beq_iff_eq, and_assoc]

theorem bitAt_eq_testBit (x i : Nat) : bitAt x i = x.testBit i := by rw [bitAt, Nat.testBit_eq_decide_div_mod_eq]; rfl

/-- The first error that a task reports leaves its offset (R158, R159). -/
theorem merge_eq (o : BarObj) (err : BitVec 13) (off : Nat) : o.merge err off = noted err.toNat off o := by
  have hst : BitVec.ofNat 32 err.toNat = err.setWidth 32 := BitVec.ofNat_toNat ..
  have hbit : bitAt o.status.toNat 15 = o.status.getLsbD 15 := bitAt_eq_testBit ..
  rw [BarObj.merge, noted]
  simp only [hst, hbit, Bool.not_eq_true']
  by_cases h : err.toNat / 2 ≠ 0 ∧ o.status.getLsbD 15 = false
  · have h15 : (o.status ||| err.setWidth 32).toNat.testBit 15 = false := by
      change (o.status ||| err.setWidth 32).getLsbD 15 = false
      rw [BitVec.getLsbD_or, h.2, BitVec.getLsbD_setWidth, BitVec.getLsbD_of_ge err 15 (by decide)]
      rfl
    have hmod : (o.status ||| err.setWidth 32).toNat / 2 ^ 15 % 2 ≠ 1 := by
      rw [Nat.testBit_eq_decide_div_mod_eq] at h15
      exact of_decide_eq_false h15
    have htwo : 2 ≤ err.toNat ∧ o.status.getLsbD 15 = false := ⟨by omega, h.2⟩
    rw [if_pos h, bitAt_eq_testBit, h15, if_neg Bool.false_ne_true, if_pos htwo]
    congr 2
    omega
  · rw [if_neg h, if_neg fun h' => h ⟨by omega, h'.2⟩]

/-- What the arrival of a task other than a COPY does to an object (R158). -/
theorem arriveObj_eq {b : List Byte} (hb : rKind b ≠ 1) (off : Nat) (err : BitVec 13) (o : BarObj) :
    arriveObj b off err o = phaseEnd (noted err.toNat off (arrival o)) := by
  have hkind : (rKind b != 1 || rArrv b) = true := by rw [bne_iff_ne.mpr hb]; rfl
  simp only [arriveObj, if_neg hb, hkind, if_true, merge_eq, checkFlip_eq, countArrival_eq]

theorem fits_arrived {o : BarObj} (h : Fits o) (err off : Nat) : Fits (phaseEnd (noted err off (arrival o))) := by
  obtain ⟨hp, hi, hr, hri⟩ := h
  have harr : Fits (arrival o) := by
    unfold arrival
    split_ifs
    · exact ⟨hp, hi, hr, hri⟩
    · exact ⟨hp, hi, hr, hri⟩
    · exact ⟨(Nat.sub_le ..).trans_lt hp, hi, hr, hri⟩
  obtain ⟨hp, hi, hr, hri⟩ := harr
  unfold phaseEnd
  split_ifs
  · exact ⟨hi, hi, hr, hri⟩
  · exact ⟨hp, hi, hr, hri⟩

end Sys2Proof.Laws.TaskEnds

namespace Sys2Proof.Laws.TaskEnds
open Sys2Proof Sys2Proof.Machine Sys2Proof.Laws.Rollback Sys2Proof.Laws.Budgets

/-! ### A workgroup's local memory through the walk -/

/-- Only workgroups have changed, and of the one named its local memory is known. -/
structure LeadHolds (s u : State) (w : Workgroup) (m : List Host.Cell) : Prop where
  rest : u = { s with wgs := u.wgs }
  wg   : ∃ v, wgOf u w.key = some v ∧ v.ref = w.ref ∧ v.size = w.size ∧ v.mem = m

theorem leadHolds_refl {s : State} {w : Workgroup} (h : wgOf s w.key = some w) : LeadHolds s s w w.mem := ⟨rfl, w, h, rfl, rfl, rfl⟩

theorem leadHolds_modWg {s u : State} {w : Workgroup} {m m' : List Host.Cell} (h : LeadHolds s u w m) {f : Workgroup → Workgroup}
    (hf : ∀ v, (f v).key = v.key ∧ (f v).ref = v.ref ∧ (f v).size = v.size) (hm : ∀ v, v.mem = m → (f v).mem = m') :
    LeadHolds s (modWg u w.key f) w m' := by
  obtain ⟨hrest, v, hv, href, hsize, hmem⟩ := h
  refine ⟨by rw [hrest]; rfl, f v, ?_, (hf v).2.1.trans href, (hf v).2.2.trans hsize, hm v hmem⟩
  rw [wgOf_modWg_self (fun v => (hf v).1), hv, Option.map_some]

theorem setLoc_keeps (v : Workgroup) (r : Role) (m : List Host.Cell) :
    (v.setLoc r m).key = v.key ∧ (v.setLoc r m).ref = v.ref ∧ (v.setLoc r m).size = v.size := by
  cases r <;> exact ⟨rfl, rfl, rfl⟩

theorem setCame_keeps (v : Workgroup) (r : Role) (l : List (Nat × Nat)) :
    ((v.setCame r l).key = v.key ∧ (v.setCame r l).ref = v.ref ∧ (v.setCame r l).size = v.size) ∧ (v.setCame r l).mem = v.mem := by
  cases r <;> exact ⟨⟨rfl, rfl, rfl⟩, rfl⟩

theorem leadHolds_locWrite {s u : State} {w : Workgroup} {m : List Host.Cell} (h : LeadHolds s u w m) (off : Nat) (bs : List Byte) :
    LeadHolds s (locWrite u w.key .lead off bs) w (Memory.write m off bs) :=
  leadHolds_modWg h (fun v => setLoc_keeps v _ _) fun v hv => by rw [← hv]; rfl

theorem leadHolds_modRec {s u : State} {w : Workgroup} {m : List Host.Cell} (h : LeadHolds s u w m) (key off : Nat) (f : TaskRec → TaskRec) :
    LeadHolds s (modRec u w.key key off f) w m := leadHolds_modWg h (fun _ => ⟨rfl, rfl, rfl⟩) fun _ hv => hv

/-- The integrity level of a workgroup's stage stays. -/
theorem rolesOf_lead {s u : State} {w v : Workgroup} (hrest : u = { s with wgs := u.wgs }) (href : v.ref = w.ref) (hil : ilOf s w ≠ 2) :
    ilOf u v ≠ 2 ∧ rolesOf u v = [.lead] := by
  have hsame : ilOf u v = ilOf s w := by rw [hrest, ilOf, ilOf, href]; rfl
  exact ⟨hsame ▸ hil, by rw [rolesOf, hsame, if_neg hil]⟩

theorem leadHolds_setRec {s u : State} {w : Workgroup} {m : List Host.Cell} (h : LeadHolds s u w m) (hil : ilOf s w ≠ 2) (key off : Nat) (st : TState)
    (err : TErr) : LeadHolds s (setRec u w.key key off st err) w (Memory.write m (off + 4) (leBytes 4 (err.lead.toNat * 2 ^ 16 + st.code))) := by
  have h1 := leadHolds_modRec h key off fun r => { r with state := st, err := err.lead }
  have ⟨hrest, v, hv, href, _⟩ := h1
  rw [setRec, writeStat, hv]
  simp only [(rolesOf_lead hrest href hil).2, List.foldl_cons, List.foldl_nil]
  exact leadHolds_locWrite h1 (off + 4) _

theorem leadHolds_compareFlip {s u : State} {w v : Workgroup} {m : List Host.Cell} (h : LeadHolds s u w m)
    (hrest : u = { s with wgs := u.wgs }) (hkey : v.key = w.key) (href : v.ref = w.ref) (hil : ilOf s w ≠ 2) (key : Nat) (r : TaskRec) :
    LeadHolds s (compareFlip u v key r) w m := by
  obtain ⟨hlevel, hroles⟩ := rolesOf_lead hrest href hil
  rw [compareFlip]
  split
  next v' k _ _ =>
    simp only [bne_iff_ne.mpr hlevel, if_true, hkey]
    split
    next => exact h
    next =>
      refine List.foldlRecOn (motive := fun t => LeadHolds s t w m) _ _ h fun t ht role _ => ?_
      exact leadHolds_modWg ht (fun v => (setCame_keeps v _ _).1) fun v hv => (setCame_keeps v _ _).2.trans hv
  next => exact h

/-- What a task's arrival leaves at its barrier, if it names one in the allocation (R154, R158). -/
def arrivedMem (w : Workgroup) (b : List Byte) (off : Nat) (err : BitVec 13) (m : List Host.Cell) : List Host.Cell :=
  if barOk w b then Memory.write m (rBar b) (arriveObj b off err (readObj { w with mem := m } .lead (rBar b))).bytes else m

theorem leadHolds_arriveRec {s u : State} {w : Workgroup} {m : List Host.Cell} (h : LeadHolds s u w m) (hil : ilOf s w ≠ 2) (key : Nat) (r : TaskRec)
    (err : TErr) :
    LeadHolds s (arriveRec u w.key key r err) w (arrivedMem w r.bytes r.off err.lead m) := by
  obtain ⟨hrest, v, hv, href, hsize, hmem⟩ := h
  have hkey : v.key = w.key := wgOf_key hv
  have hbar : barOk v r.bytes = barOk w r.bytes := by rw [barOk, barOk, hsize]
  have hobj : readObj v .lead (rBar r.bytes) = readObj { w with mem := m } .lead (rBar r.bytes) := by rw [← hmem]; rfl
  have hlead : r.of .lead = r.bytes := rfl
  have herr : err.of .lead = err.lead := rfl
  rw [arriveRec, hv]
  simp only [(rolesOf_lead hrest href hil).2, List.foldl_cons, List.foldl_nil, hv, hlead, hbar, arrivedMem, hobj, herr]
  split
  next hok =>
    have hnew : LeadHolds s (modWg (writeObj u w.key .lead (rBar r.bytes) (arriveObj r.bytes r.off err.lead (readObj { w with mem := m } .lead (rBar r.bytes))))
        w.key fun w => w.setCame .lead (w.cameOf .lead ++ [(rBar r.bytes, r.off)])) w
        (Memory.write m (rBar r.bytes) (arriveObj r.bytes r.off err.lead (readObj { w with mem := m } .lead (rBar r.bytes))).bytes) :=
      leadHolds_modWg (leadHolds_locWrite ⟨hrest, v, hv, href, hsize, hmem⟩ _ _) (fun v => (setCame_keeps v _ _).1) fun v hv => (setCame_keeps v _ _).2.trans hv
    exact leadHolds_compareFlip hnew hnew.rest hkey href hil key r
  next hno => exact leadHolds_compareFlip ⟨hrest, v, hv, href, hsize, hmem⟩ hrest hkey href hil key r

/-! ### The walk of a record that names no successor (R154) -/

theorem recOf_modWg {f : Workgroup → Workgroup} (hf : ∀ v, (f v).key = v.key ∧ (f v).kicks = v.kicks) (s : State) (wg key off : Nat) :
    recOf (modWg s wg f) wg key off = recOf s wg key off := by
  simp only [recOf, kickOf, wgOf_modWg_self fun v => (hf v).1]
  cases wgOf s wg with
  | none => rfl
  | some v => simp [hf]

theorem find?_map_same {α : Type} {g : α → α} {p : α → Bool} {l : List α} (hg : ∀ a, p (g a) = p a) : (l.map g).find? p = (l.find? p).map g := by
  rw [List.find?_map]
  exact congrArg (fun q => (l.find? q).map g) (funext hg)

/-- A kick, and a workgroup, with the records at an offset of a kick changed. -/
def kickWith (off : Nat) (f : TaskRec → TaskRec) (k : Kick) : Kick := { k with recs := k.recs.map fun r => if r.off = off then f r else r }

def wgWith (key off : Nat) (f : TaskRec → TaskRec) (v : Workgroup) : Workgroup :=
  { v with kicks := v.kicks.map fun k => if k.key = key then kickWith off f k else k }

theorem find?_kickWith (key off : Nat) (f : TaskRec → TaskRec) (v : Workgroup) :
    (wgWith key off f v).kicks.find? (·.key == key) = (v.kicks.find? (·.key == key)).map (kickWith off f) := by
  rw [wgWith, find?_map_same fun k => by split <;> rfl]
  cases hk : v.kicks.find? (·.key == key) with
  | none => rfl
  | some k =>
    have hkey : k.key = key := by simpa using List.find?_some hk
    rw [Option.map_some, if_pos hkey, Option.map_some]

theorem find?_rec {f : TaskRec → TaskRec} (hf : ∀ r, (f r).off = r.off) (off : Nat) (k : Kick) :
    (kickWith off f k).recs.find? (·.off == off) = (k.recs.find? (·.off == off)).map f := by
  rw [kickWith, find?_map_same fun r => by split <;> simp only [hf]]
  cases hr : k.recs.find? (·.off == off) with
  | none => rfl
  | some r =>
    have hoff : r.off = off := by simpa using List.find?_some hr
    rw [Option.map_some, if_pos hoff, Option.map_some]

/-- A record changed is found changed. -/
theorem recOf_modRec {f : TaskRec → TaskRec} (hf : ∀ r, (f r).off = r.off) (s : State) (wg key off : Nat) :
    recOf (modRec s wg key off f) wg key off = (recOf s wg key off).map f := by
  have hwg : wgOf (modRec s wg key off f) wg = (wgOf s wg).map (wgWith key off f) := wgOf_modWg_self (f := wgWith key off f) (fun _ => rfl) s wg
  simp only [recOf, kickOf, hwg]
  cases wgOf s wg with
  | none => rfl
  | some v =>
    simp only [Option.map_some, Option.bind_some, find?_kickWith]
    cases v.kicks.find? (·.key == key) with
    | none => rfl
    | some k => exact find?_rec hf off k

theorem walkActs_finish {s : State} {wg key off : Nat} {r : TaskRec} (hr : recOf s wg key off = some r) (hsucc : rSuccs r.bytes = []) (fuel : Nat) (st : TState)
    (err : TErr) : walkActs wg key (fuel + 1) [.finish off st err] s = arriveRec (setRec s wg key off st err) wg key r err := by
  simp only [walkActs, hr, hsucc, List.map_nil, List.nil_append]
  cases fuel <;> rfl

/-- A record finished: STAT, then its barrier. -/
theorem leadHolds_finish {s u : State} {w : Workgroup} {m : List Host.Cell} (h : LeadHolds s u w m) (hil : ilOf s w ≠ 2) {key off : Nat} {r : TaskRec}
    (hr : recOf u w.key key off = some r) (hsucc : rSuccs r.bytes = []) (st : TState) (err : TErr) :
    LeadHolds s (runWalk u w.key key [.finish off st err]) w
      (arrivedMem w r.bytes r.off err.lead (Memory.write m (off + 4) (leBytes 4 (err.lead.toNat * 2 ^ 16 + st.code)))) := by
  rw [runWalk, List.length_singleton, walkActs_finish hr hsucc]
  exact leadHolds_modWg (leadHolds_arriveRec (leadHolds_setRec h hil key off st err) hil key r err) (fun _ => ⟨rfl, rfl, rfl⟩) fun _ hv => hv

end Sys2Proof.Laws.TaskEnds

namespace Sys2Proof.Laws.TaskEnds
open Sys2Proof Sys2Proof.Machine Sys2Proof.Laws.Rollback Sys2Proof.Laws.Budgets Sys2Proof.Laws.Matrix

/-! ### The end of a MATX -/

/-- The policy after a task that met a corrected error or none (R348). -/
def policyAfter (s : State) (soft : BitVec 4) : Policy :=
  if soft.getLsbD 0 ∧ s.policy.cecnt ≠ 0xFFFFFFFF then { s.policy with cecnt := s.policy.cecnt + 1 } else s.policy

theorem countCorrected_eq (s : State) (soft : BitVec 4) :
    (if soft.getLsbD 0 then countCorrected s else s) = { s with policy := policyAfter s soft } := by
  have hones : BitVec.allOnes 32 = 0xFFFFFFFF := rfl
  rw [policyAfter]
  by_cases h0 : soft.getLsbD 0 = true
  · by_cases h1 : s.policy.cecnt = 0xFFFFFFFF
    · rw [if_pos h0, if_neg (fun h => h.2 h1), countCorrected, hones, if_pos h1]
    · rw [if_pos h0, if_pos ⟨h0, h1⟩, countCorrected, hones, if_neg h1]
  · rw [if_neg h0, if_neg fun h => h0 h.1]

/-- The nodes after a task was charged (R240). -/
def nodesAfter (s : State) (t : EngTask) : List Node :=
  s.nodes.map fun n =>
    let due := 32 * (s.now - t.since) * (((chargedTo s t.wg).map fun a => (payers s a).count n.rcb).getD 0)
    { n with bal := n.bal - (due : Nat), used := n.used + due }

/-- A record with no fault recorded. -/
def noFault (r : TaskRec) : TaskRec := { r with fault := 0 }

variable {s : State} {t : EngTask} {w : Workgroup} {k : Kick} {r : TaskRec}

theorem enginesOn_running (h : Running s t w k r) : enginesOn s t = 1 := by
  obtain ⟨hw, hil⟩ := h.wg
  rw [enginesOn, hw, Option.map_some, if_neg fun he => hil (Option.some.inj he)]

theorem started_running (h : Running s t w k r) : t.started = true := by
  have := List.find?_some h.first
  rw [Bool.and_eq_true] at this
  exact this.2

theorem chargeTask_running (h : Running s t w k r) (p : Policy) :
    chargeTask s.now { s with policy := p } t = { s with policy := p, nodes := nodesAfter s t } := by
  have hdue : ∀ n, tasksDue { s with policy := p } s.now [t] n = 32 * (s.now - t.since) * timesCharged s t.wg n := fun n => by
    have hsame : enginesOn { s with policy := p } t = enginesOn s t := rfl
    rw [tasksDue, List.map_singleton, List.sum_singleton, if_pos (started_running h), hsame, enginesOn_running h, Nat.mul_one]
    rfl
  rw [chargeTask_eq, funext hdue]
  rfl

theorem rSuccs_running (h : Running s t w k r) : rSuccs r.bytes = [] := by
  have hn : rNsucc r.bytes = 0 := h.alone
  rw [rSuccs, hn]
  rfl

theorem off_running (h : Running s t w k r) : r.off = t.off := by
  obtain ⟨hk, hr⟩ := h.kick
  rw [recOf, hk, Option.bind_some] at hr
  simpa using List.find?_some hr

/-- The state in which the task's work is done: it is charged and has left its queue. -/
def unqueued (s : State) (t : EngTask) (soft : BitVec 4) : State :=
  { s with policy := policyAfter s soft, nodes := nodesAfter s t, engq := s.engq.erase t }

/-- The local memory that a MATX's elements leave, and the errors that it reports. -/
def matxMem (s : State) (w : Workgroup) (b : List Byte) : List Host.Cell × Bool := matxOut b (fun a => Memory.get w.mem a) (matxB s w .lead b).1 w.mem

def matxErr (s : State) (w : Workgroup) (b : List Byte) (soft : BitVec 4) : BitVec 13 :=
  (if (matxB s w .lead b).2 then errWdec else 0) ||| (if (matxMem s w b).2 then errOvf else 0) ||| softErr soft

/-- The state when the elements are written. -/
def matxWritten (s : State) (t : EngTask) (w : Workgroup) (b : List Byte) (soft : BitVec 4) : State :=
  modWg (unqueued s t soft) w.key fun v => v.setLoc .lead (matxMem s w b).1

/-- A MATX of an unchecked stage that completes: its elements, then the walk of its record. -/
theorem completeTask_matx (h : Running s t w k r) (hkind : rKind r.bytes = 2) (soft : BitVec 4) :
    completeTask { s with policy := policyAfter s soft, nodes := nodesAfter s t } t soft =
      runWalk (modRec (matxWritten s t w r.bytes soft) t.wg t.kick t.off noFault) t.wg t.kick
        [.finish t.off .done (.both (matxErr s w r.bytes soft))] := by
  obtain ⟨hw, hil⟩ := h.wg
  obtain ⟨hk, hr⟩ := h.kick
  have hw' : wgOf (unqueued s t soft) t.wg = some w := hw
  have hk' : kickOf (unqueued s t soft) t.wg t.kick = some k := hk
  have hr' : recOf (unqueued s t soft) t.wg t.kick t.off = some r := hr
  have hil' : ilOf (unqueued s t soft) w ≠ 2 := hil
  have hkind' : rKind r.bytes ≠ 1 := by rw [hkind]; decide
  have hrun : runMatx (unqueued s t soft) w r = (matxWritten s t w r.bytes soft,
      .both ((if (matxB s w .lead r.bytes).2 then errWdec else 0) ||| (if (matxMem s w r.bytes).2 then errOvf else 0))) := by
    unfold runMatx
    dsimp only [runMatxOn]
    rw [if_neg hil']
    rfl
  have hcomplete : completeTask { s with policy := policyAfter s soft, nodes := nodesAfter s t } t soft =
      match wgOf (unqueued s t soft) t.wg, kickOf (unqueued s t soft) t.wg t.kick, recOf (unqueued s t soft) t.wg t.kick t.off with
      | some w, some k, some r =>
        let (s1, err, fault) : State × TErr × DWord :=
          if rKind r.bytes = 1 then runCopy (unqueued s t soft) w k.gid r
          else let (s1, e) := runMatx (unqueued s t soft) w r; (s1, e, 0)
        let s2 := if rKind r.bytes = 1 then (rolesOf s1 w).foldl (fun s m => locWrite s w.key m (t.off + 0x38) (leBytes 8 fault.toNat)) s1
          else s1
        runWalk (modRec s2 t.wg t.kick t.off fun r => { r with fault := fault }) t.wg t.kick
          [.finish t.off .done ⟨err.lead ||| softErr soft, if ilOf (unqueued s t soft) w = 2 then err.trail else err.lead ||| softErr soft⟩]
      | _, _, _ => unqueued s t soft := rfl
  rw [hcomplete, hw', hk', hr']
  simp only [if_neg hkind', if_neg hil', hrun]
  rfl

/-- The end of a MATX: what changes beside memory, and the workgroup's local memory. -/
theorem matx_ends (h : Running s t w k r) (hkind : rKind r.bytes = 2) (soft : BitVec 4) :
    ∃ u, exec (.taskComplete t.eng soft) s = .next u ∧ TaskEnded s u t soft ∧ ∃ v, wgOf u t.wg = some v ∧
      v.mem = arrivedMem w r.bytes t.off (matxErr s w r.bytes soft)
        (Memory.write (matxMem s w r.bytes).1 (t.off + 4) (leBytes 4 ((matxErr s w r.bytes soft).toNat * 2 ^ 16 + 3))) := by
  obtain ⟨hw, hil⟩ := h.wg
  obtain ⟨hk, hr⟩ := h.kick
  have hkey : w.key = t.wg := wgOf_key hw
  have hil' : ilOf (unqueued s t soft) w ≠ 2 := hil
  have hw' : wgOf (unqueued s t soft) w.key = some w := by rw [hkey]; exact hw
  have hwritten : LeadHolds (unqueued s t soft) (matxWritten s t w r.bytes soft) w (matxMem s w r.bytes).1 :=
    leadHolds_modWg (leadHolds_refl hw') (fun v => setLoc_keeps v _ _) fun _ _ => rfl
  have hrec : recOf (modRec (matxWritten s t w r.bytes soft) w.key t.kick t.off noFault) w.key t.kick t.off =
      some (noFault r) := by
    rw [recOf_modRec (f := noFault) fun _ => rfl, matxWritten, recOf_modWg (fun v => ⟨setLoc_key v _ _, rfl⟩), hkey]
    exact congrArg (Option.map _) hr
  have hdone := leadHolds_finish (leadHolds_modRec hwritten t.kick t.off noFault) hil' hrec (show rSuccs r.bytes = [] from rSuccs_running h) .done
    (.both (matxErr s w r.bytes soft))
  rw [hkey, ← completeTask_matx h hkind soft] at hdone
  obtain ⟨hrest, v, hv, -, -, hmem⟩ := hdone
  have hengines : taskEngines s t = [t.eng] := by
    rw [taskEngines, hw, Option.map_some, if_neg fun he => hil (Option.some.inj he)]
  have hexec : exec (.taskComplete t.eng soft) s = .next (setUnit (completeTask { s with policy := policyAfter s soft, nodes := nodesAfter s t } t soft)
      (engineUnit t.eng) ⟨.G0, s.now, false⟩) := by
    rw [exec_taskComplete, execTaskComplete, h.first]
    simp only [countCorrected_eq, chargeTask_running h, hengines, List.foldl_cons, List.foldl_nil]
  refine ⟨_, hexec, ?_, v, (congrArg (wgOf · t.wg) rfl).trans (hkey ▸ hv), ?_⟩
  · generalize completeTask { s with policy := policyAfter s soft, nodes := nodesAfter s t } t soft = f at hrest
    rw [hrest]
    exact ⟨rfl, rfl, rfl, rfl⟩
  · rw [hmem, ← off_running h]
    rfl

end Sys2Proof.Laws.TaskEnds

/-! ## The results of a MATX (R83 to R90, R142 to R145, R155, R158, R164, R165) -/

namespace Sys2Proof.Laws.Matrix
open Sys2Proof Sys2Proof.Machine Sys2Proof.Claims Sys2Proof.Laws.Rounding Sys2Proof.Laws.DotProducts Sys2Proof.Laws.Rollback

/-! ### The cells of the statement -/

/-- The place of element (i, j) in the record's layout, of elements of sz bytes (R145). -/
def layPlace (b : List Byte) (sz i j : Nat) : Nat :=
  if mLay b then ((i / 128 * (mN b / 128) + j / 128) * 16384 + i % 128 * 128 + j % 128) * sz else i * mDstr b + j * sz

def IsCell (b : List Byte) (q i j : Nat) : Prop := q < mK b / kPer b ∧ i < mM b ∧ j < mN b

def cellAt (b : List Byte) (q i j : Nat) : Nat := mDoff b + q * mPstr b + layPlace b (elementBytes (mDf b)) i j

/-- A byte of some element. -/
def Written (b : List Byte) (o : Nat) : Prop := ∃ q i j, IsCell b q i j ∧ cellAt b q i j ≤ o ∧ o < cellAt b q i j + elementBytes (mDf b)

/-- No two elements share a byte. -/
def CellsApart (b : List Byte) : Prop :=
  ∀ q i j q' i' j', IsCell b q i j → IsCell b q' i' j' → (q, i, j) ≠ (q', i', j') →
    cellAt b q i j + elementBytes (mDf b) ≤ cellAt b q' i' j' ∨ cellAt b q' i' j' + elementBytes (mDf b) ≤ cellAt b q i j

/-- C is none, or stands in place of the first partial, or apart from what is written. -/
def CApart (b : List Byte) : Prop :=
  mCen b = true → (mCoff b = mDoff b ∧ elementBytes (mDf b) = 4) ∨
    ∀ i < mM b, ∀ j < mN b, ∀ x < 4, ¬ Written b (mCoff b + layPlace b 4 i j + x)

variable {b : List Byte}

theorem matxForm_cases (h : MatxForm b) : FloatMatx b ∨ IntMatx b := by
  rcases h.types with ⟨h1, h2, h3, h4, h5⟩ | ⟨h1, h2, h3⟩
  · exact .inl ⟨⟨h1, h2⟩, ⟨h3, h4⟩, h5⟩
  · exact .inr ⟨h1, h2, h3⟩

theorem FloatMatx.notWhole (h : FloatMatx b) : mDf b ≠ 9 := by
  have : mDf b ≤ 4 ∨ mDf b = 8 := h.out
  omega

theorem kPer_spec (h : MatxForm b) : 0 < kPer b ∧ kPer b % 8 = 0 := by
  obtain ⟨-, hpos, hmod⟩ := h.split
  unfold kPer
  split_ifs <;> omega

theorem partials_eq (h : MatxForm b) : partials b = mK b / kPer b := if_neg (kPer_spec h).1.ne'

theorem operandFormat_right (h : MatxForm b) : OperandFormat (mBf b) := by
  rcases h.types with ⟨-, -, h1, h2, -⟩ | ⟨-, h1, -⟩
  · exact .inl ⟨h1, h2⟩
  · exact .inr h1

theorem elemBytes_out (h : MatxForm b) : elemBytes (mDf b) 1 = elementBytes (mDf b) := by
  have hf : mDf b ≤ 4 ∨ mDf b = 8 ∨ mDf b = 9 := by rcases h.types with h | h <;> omega
  have hodd : mDf b ≠ 7 ∧ mDf b ≠ 15 := by omega
  simp [elemBytes, elementBytes, fourBit, hodd]

theorem outOff_eq {f sz : Nat} (h : elemBytes f 1 = sz) (i j : Nat) : outOff b f i j = layPlace b sz i j := by
  rw [outOff, layPlace, h]
  split
  · ring
  · rfl

theorem outOff_c (i j : Nat) : outOff b (cFmt b) i j = layPlace b 4 i j := by
  refine outOff_eq ?_ i j
  unfold cFmt
  split <;> rfl

theorem cellPlace_eq (h : MatxForm b) (q i j : Nat) : cellPlace b (q, i, j) = cellAt b q i j := by
  rw [cellPlace, outOff_eq (elemBytes_out h), cellAt]

theorem mem_cellsOf_iff (h : MatxForm b) {q i j : Nat} : (q, i, j) ∈ cellsOf b ↔ IsCell b q i j := by
  rw [mem_cellsOf h.tiles.1 h.tiles.2, partials_eq h, IsCell]

theorem ownC_of_cApart (h : MatxForm b) (hapart : CellsApart b) (hC : CApart b) : OwnC b := by
  rintro hcen ⟨q, i, j⟩ hx hq o h1 h2 ⟨q', i', j'⟩ hy hcov
  obtain rfl : q = 0 := hq
  have hcell := (mem_cellsOf_iff h).mp hx
  have hcell' := (mem_cellsOf_iff h).mp hy
  rw [Covers, cellPlace_eq h, elemBytes_out h] at hcov
  simp only [outOff_c] at h1 h2
  rcases hC hcen with ⟨hplace, hsize⟩ | hfar
  · by_contra hne
    have hc : cellAt b 0 i j = mCoff b + layPlace b 4 i j := by rw [cellAt, hplace, hsize, Nat.zero_mul, Nat.add_zero]
    rcases hapart _ _ _ _ _ _ hcell' hcell hne with h | h <;> omega
  · have hno := hfar i hcell.2.1 j hcell.2.2 (o - (mCoff b + layPlace b 4 i j)) (by omega)
    rw [Nat.add_sub_cancel' h1] at hno
    exact absurd ⟨q', i', j', hcell', hcov⟩ hno

/-- The word of C for an element. -/
def cWordOf (b : List Byte) (m : List Host.Cell) (q i j : Nat) : Nat :=
  if mCen b = true ∧ q = 0 then leNat (Memory.read m (mCoff b + layPlace b 4 i j) 4) else 0

theorem cWordIn_eq (m : List Host.Cell) (q i j : Nat) : cWordIn b m (q, i, j) = cWordOf b m q i j := by
  simp only [cWordIn, cWordOf, outOff_c, Bool.and_eq_true, beq_iff_eq]

/-- What a MATX writes, by the cells of the statement. -/
theorem matxOut_cells (h : MatxForm b) (hapart : CellsApart b) (hC : CApart b) (ra rb : Nat → Byte) {m : List Host.Cell} (hwf : Memory.wf m = true) :
    Memory.wf (matxOut b ra rb m).1 = true ∧
    (∀ q i j, IsCell b q i j → Memory.read (matxOut b ra rb m).1 (cellAt b q i j) (elementBytes (mDf b)) =
      leBytes (elementBytes (mDf b)) (matxElem b ra rb (cWordOf b m q i j) i j q).1) ∧
    (∀ o, ¬ Written b o → Memory.get (matxOut b ra rb m).1 o = Memory.get m o) ∧
    ((matxOut b ra rb m).2 = true ↔ ∃ q i j, IsCell b q i j ∧ (matxElem b ra rb (cWordOf b m q i j) i j q).2 = true) := by
  have hout : ∀ q i j, cellOut b ra rb m (q, i, j) = matxElem b ra rb (cWordOf b m q i j) i j q := fun q i j => by rw [cellOut, cWordIn_eq]
  have hspec := matxOut_spec (ownC_of_cApart h hapart hC) ra rb hwf (by
    rintro ⟨q, i, j⟩ hx ⟨q', i', j'⟩ hy hne
    rw [cellPlace_eq h, cellPlace_eq h, elemBytes_out h]
    exact hapart _ _ _ _ _ _ ((mem_cellsOf_iff h).mp hx) ((mem_cellsOf_iff h).mp hy) hne)
  rw [elemBytes_out h] at hspec
  obtain ⟨hwf', hread, hframe, hflag⟩ := hspec
  refine ⟨hwf', fun q i j hc => ?_, fun o ho => hframe o ?_, hflag.trans ?_⟩
  · rw [← cellPlace_eq h, hread _ ((mem_cellsOf_iff h).mpr hc), hout]
  · rintro ⟨q, i, j⟩ hx hcov
    rw [Covers, cellPlace_eq h] at hcov
    exact ho ⟨q, i, j, (mem_cellsOf_iff h).mp hx, hcov⟩
  · simp only [Prod.exists, mem_cellsOf_iff h, hout]

/-! ### The decoded B (R164, R165) -/

/-- The slot's stream is valid for the workgroup's tenant. -/
def ValidSlot (s : State) (w : Workgroup) (b : List Byte) : Prop :=
  let slot := creelOf s (creelEngine w b)
  let base := slotStart b * 65536
  (Memory.get slot (base + 0x88)).getLsbD 0 = true ∧ (Memory.get slot (base + 0x89)).toNat = w.ref.tenant.val * 16 + w.ref.part.val ∧
    ∀ n x, slotStart b ≤ n → n < slotStart b + (256 + leNat (Memory.read slot (base + 0x84) 4) + 65535) / 65536 →
      unitTenant s (creelEngine w b) n = some x → x = w.ten

def decodedSize (s : State) (w : Workgroup) (b : List Byte) : Nat := leNat (Memory.read (creelOf s (creelEngine w b)) (slotStart b * 65536 + 0x80) 4)

def slotData (s : State) (w : Workgroup) (b : List Byte) : List Byte × Bool :=
  let slot := creelOf s (creelEngine w b)
  let base := slotStart b * 65536
  decodeStream (Memory.read slot base 128) (Memory.read slot (base + 256) (leNat (Memory.read slot (base + 0x84) 4)))

theorem unitsKept_iff (s : State) (e : EngineId) (t : Fin 8 × Fin 9) (start len : Nat) :
    unitsKept s e t (streamUnits start len) = true ↔
      ∀ n x, start ≤ n → n < start + (256 + len + 65535) / 65536 → unitTenant s e n = some x → x = t := by
  have hunit : ∀ n, (match s.creelTen.find? fun x => x.1 == (e, n) with | some x => x.2 == t | none => true) = true ↔
      ∀ x, unitTenant s e n = some x → x = t := fun n => by
    rw [unitTenant]
    cases s.creelTen.find? fun x => x.1 == (e, n) <;> simp
  simp only [unitsKept, streamUnits, List.all_eq_true, List.mem_map, List.mem_range]
  constructor
  · intro h n x h1 h2
    exact (hunit n).mp (h n ⟨n - start, by omega, by omega⟩) x
  · rintro h n ⟨k, hk, rfl⟩
    exact (hunit _).mpr fun x => h _ x (by omega) (by omega)

/-- The bytes of B, and the error that its decoding reports. -/
theorem matxB_spec (h : MatxForm b) (s : State) (w : Workgroup) {byteB : Nat → Byte}
    (hB : ∀ x, (ValidSlot s w b ∧ x < decodedSize s w b → byteB x = ((slotData s w b).1[x]?).getD 0) ∧
      (¬ (ValidSlot s w b ∧ x < decodedSize s w b) → byteB x = 0)) :
    (matxB s w .lead b).1 = byteB ∧ ((matxB s w .lead b).2 = true ↔
      ¬ ValidSlot s w b ∨ (slotData s w b).2 = true ∨ decodedSize s w b < mBoff b + manyBytes (mBf b) (mK b * mN b)) := by
  have hvalid : ((Memory.get (creelOf s (creelName w .lead b)) (slotBase b + 0x88)).getLsbD 0 &&
      (Memory.get (creelOf s (creelName w .lead b)) (slotBase b + 0x89)).toNat == tenField w.ref.part w.ref.tenant &&
      unitsKept s (creelName w .lead b) w.ten (streamUnits (slotStart b) (leNat (Memory.read (creelOf s (creelName w .lead b)) (slotBase b + 0x84) 4)))) =
        true ↔ ValidSlot s w b := by
    rw [Bool.and_eq_true, Bool.and_eq_true, beq_iff_eq, unitsKept_iff, and_assoc]
    rfl
  have hneeded : bNeeded b = mBoff b + manyBytes (mBf b) (mK b * mN b) := by rw [bNeeded, elemBytes_all (operandFormat_right h)]
  by_cases hv : ValidSlot s w b
  · have hval : matxB s w .lead b = (fun k => if decodedSize s w b ≤ k then 0 else ((slotData s w b).1[k]?).getD 0,
        (slotData s w b).2 || decide (decodedSize s w b < bNeeded b)) := by
      simp only [matxB, hvalid.mpr hv]
      rfl
    rw [hval, hneeded]
    refine ⟨funext fun x => ?_, by simp [hv]⟩
    obtain ⟨hin, hout⟩ := hB x
    dsimp only
    split
    next hx => exact (hout fun hc => absurd hc.2 hx.not_gt).symm
    next hx => exact (hin ⟨hv, not_le.mp hx⟩).symm
  · have hval : matxB s w .lead b = (fun _ => 0, true) := by
      simp only [matxB, Bool.eq_false_iff.mpr (mt hvalid.mp hv)]
      rfl
    rw [hval]
    exact ⟨funext fun x => ((hB x).2 fun hc => hv hc.1).symm, by simp [hv]⟩

end Sys2Proof.Laws.Matrix

namespace Sys2Proof.Laws.TaskEnds
open Sys2Proof Sys2Proof.Machine Sys2Proof.Laws.Matrix

/-! ### STAT and the barrier in the memory left (R155, R158) -/

/-- The bytes of a record's STAT word, and those of the object that it names. -/
def OwnStat (off o : Nat) : Prop := off + 4 ≤ o ∧ o < off + 8

def InObject (b : List Byte) (o : Nat) : Prop := rBar b ≠ 0xFFFFFFFF ∧ rBar b ≤ o ∧ o < rBar b + 16

theorem length_barBytes (o : BarObj) : o.bytes.length = 16 := by simp [BarObj.bytes, length_leBytes]

theorem barOk_iff {w : Workgroup} {b : List Byte} {p : Nat → Prop} (h : BarrierApart w b p) : barOk w b = true ↔ rBar b ≠ 0xFFFFFFFF := by
  rw [barOk, Bool.and_eq_true, Bool.and_eq_true, bne_iff_ne, beq_iff_eq, decide_eq_true_eq]
  rcases h with h | ⟨h1, h2, -⟩
  · exact ⟨fun h' => h'.1.1, fun h' => absurd h h'⟩
  · exact ⟨fun h' => h'.1.1, fun h' => ⟨⟨h', h1⟩, h2⟩⟩

theorem not_inObject {w : Workgroup} {b : List Byte} {p : Nat → Prop} (h : BarrierApart w b p) {o : Nat} (ho : p o) : ¬ InObject b o := by
  rintro ⟨hbar, h1, h2⟩
  obtain ⟨-, -, hfar⟩ := h.resolve_left hbar
  have := hfar (o - rBar b) (by omega)
  rw [Nat.add_sub_cancel' h1] at this
  exact this ho

/-- Two memories that agree on an object's bytes hold the same object. -/
theorem readObj_congr {v w : Workgroup} {r : Role} {a : Nat} (h : ∀ o, a ≤ o → o < a + 16 → Memory.get (v.loc r) o = Memory.get (w.loc r) o) :
    readObj v r a = readObj w r a := by
  have hword : ∀ k, k + 4 ≤ 16 → locWord v r (a + k) = locWord w r (a + k) := fun k hk =>
    congrArg leNat (read_congr fun o h1 h2 => h o (by omega) (by omega))
  simp only [readObj, hword 4 (by decide), hword 8 (by decide), hword 12 (by decide), show locWord v r a = locWord w r a from hword 0 (by decide)]

/-- A memory in which a record's end is noted: STAT, then the arrival at its barrier. -/
def endedMem (w : Workgroup) (b : List Byte) (off : Nat) (err : BitVec 13) (m : List Host.Cell) : List Host.Cell :=
  arrivedMem w b off err (Memory.write m (off + 4) (leBytes 4 (err.toNat * 2 ^ 16 + 3)))

section
variable {w : Workgroup} {b : List Byte} {m : List Host.Cell} {off : Nat} {p : Nat → Prop}

theorem get_arrivedMem (hwf : Memory.wf m = true) (err : BitVec 13) {o : Nat} (ho : ¬ InObject b o) :
    Memory.get (arrivedMem w b off err m) o = Memory.get m o := by
  rw [arrivedMem]
  split
  next hok =>
    rw [barOk, Bool.and_eq_true, Bool.and_eq_true, bne_iff_ne] at hok
    rw [Memory.get_write _ _ _ _ hwf, length_barBytes, if_neg fun h => ho ⟨hok.1.1, h⟩]
  next => rfl

theorem get_statWrite (hwf : Memory.wf m = true) (x : Nat) {o : Nat} (ho : ¬ OwnStat off o) :
    Memory.get (Memory.write m (off + 4) (leBytes 4 x)) o = Memory.get m o := by
  rw [Memory.get_write _ _ _ _ hwf, length_leBytes]
  exact if_neg ho

/-- Bytes that are neither STAT's nor the object's stay. -/
theorem get_endedMem (hwf : Memory.wf m = true) (err : BitVec 13) {o : Nat} (hown : ¬ OwnStat off o) (hobj : ¬ InObject b o) :
    Memory.get (endedMem w b off err m) o = Memory.get m o := by
  rw [endedMem, get_arrivedMem (Memory.wf_write _ _ _ hwf) err hobj, get_statWrite hwf _ hown]

theorem read_endedMem (hwf : Memory.wf m = true) (err : BitVec 13) {a n : Nat} (h : ∀ o, a ≤ o → o < a + n → ¬ OwnStat off o ∧ ¬ InObject b o) :
    Memory.read (endedMem w b off err m) a n = Memory.read m a n :=
  read_congr fun o h1 h2 => get_endedMem hwf err (h o h1 h2).1 (h o h1 h2).2

/-- STAT holds DONE and the errors (R155). -/
theorem stat_endedMem (hwf : Memory.wf m = true) (err : BitVec 13) (hbar : BarrierApart w b p) (hp : ∀ o, OwnStat off o → p o) :
    leNat (Memory.read (endedMem w b off err m) (off + 4) 4) = err.toNat * 2 ^ 16 + 3 := by
  have hread : Memory.read (endedMem w b off err m) (off + 4) 4 = leBytes 4 (err.toNat * 2 ^ 16 + 3) := by
    have hsame := Memory.read_write m (off + 4) (leBytes 4 (err.toNat * 2 ^ 16 + 3)) hwf
    rw [length_leBytes] at hsame
    rw [← hsame]
    exact read_congr fun o h1 h2 => get_arrivedMem (Memory.wf_write _ _ _ hwf) err (not_inObject hbar (hp o ⟨h1, h2⟩))
  have herr := err.isLt
  rw [hread, leNat_leBytes, Nat.mod_eq_of_lt (by omega)]

/-- The object of the barrier has counted the arrival, where its bytes stood as before. -/
theorem obj_endedMem (hwf : Memory.wf m = true) (hkind : rKind b ≠ 1) (err : BitVec 13) (hbar : BarrierApart w b p) (hp : ∀ o, OwnStat off o → p o)
    (hnamed : rBar b ≠ 0xFFFFFFFF) (hold : ∀ o, InObject b o → Memory.get m o = Memory.get w.mem o) {v : Workgroup}
    (hv : v.mem = endedMem w b off err m) :
    readObj v .lead (rBar b) = phaseEnd (noted err.toNat off (arrival (readObj w .lead (rBar b)))) := by
  have hbefore : readObj { w with mem := Memory.write m (off + 4) (leBytes 4 (err.toNat * 2 ^ 16 + 3)) } .lead (rBar b) =
      readObj w .lead (rBar b) := readObj_congr fun o h1 h2 => by
    have hin : InObject b o := ⟨hnamed, h1, h2⟩
    exact (get_statWrite hwf _ fun hown => not_inObject hbar (hp o hown) hin).trans (hold o hin)
  rw [endedMem, arrivedMem, if_pos ((barOk_iff hbar).mpr hnamed), arriveObj_eq hkind, hbefore] at hv
  exact readObj_write (fits_arrived (fits_readObj w .lead (rBar b)) err.toNat off) (Memory.wf_write _ _ _ hwf) hv

end

/-! ### The error bits of a MATX (R155) -/

/-- The errors of a MATX: those of the engine, of the decoder and of its elements. -/
def errOf (wdec ovf : Bool) (soft : BitVec 4) : BitVec 13 := (if wdec then errWdec else 0) ||| (if ovf then errOvf else 0) ||| softErr soft

theorem errOf_spec (wdec ovf : Bool) (soft : BitVec 4) :
    (errOf wdec ovf soft).toNat % 2 ^ 4 = soft.toNat ∧ (errOf wdec ovf soft).toNat < 2 ^ 8 ∧ (errOf wdec ovf soft).toNat.testBit 5 = false ∧
      (errOf wdec ovf soft).toNat.testBit 6 = false ∧ (errOf wdec ovf soft).toNat.testBit 4 = wdec ∧ (errOf wdec ovf soft).toNat.testBit 7 = ovf := by
  revert soft
  cases wdec <;> cases ovf <;> decide

theorem testBit_stat (e i : Nat) : (e * 2 ^ 16 + 3).testBit (16 + i) = e.testBit i := by
  rw [Nat.mul_comm, Nat.testBit_two_pow_mul_add _ (by decide : 3 < 2 ^ 16), if_neg (by omega), Nat.add_sub_cancel_left]

/-- The fields of a STAT word of a MATX. -/
theorem stat_fields (wdec ovf : Bool) (soft : BitVec 4) {stat : Nat} (h : stat = (errOf wdec ovf soft).toNat * 2 ^ 16 + 3) :
    stat % 2 ^ 16 = 3 ∧ stat / 2 ^ 16 % 2 ^ 4 = soft.toNat ∧ stat < 2 ^ 24 ∧ stat.testBit 21 = false ∧ stat.testBit 22 = false ∧
      stat.testBit 20 = wdec ∧ stat.testBit 23 = ovf ∧ stat / 2 ^ 16 = (errOf wdec ovf soft).toNat := by
  obtain ⟨h1, h2, h3, h4, h5, h6⟩ := errOf_spec wdec ovf soft
  have hdiv : stat / 2 ^ 16 = (errOf wdec ovf soft).toNat := by omega
  refine ⟨by omega, by rw [hdiv, h1], by omega, ?_, ?_, ?_, ?_, hdiv⟩
  · rw [h, testBit_stat _ 5, h3]
  · rw [h, testBit_stat _ 6, h4]
  · rw [h, testBit_stat _ 4, h5]
  · rw [h, testBit_stat _ 7, h6]

end Sys2Proof.Laws.TaskEnds

namespace Sys2Proof.Laws.Matrix
open Sys2Proof Sys2Proof.Machine Sys2Proof.Claims Sys2Proof.Laws.Rounding Sys2Proof.Laws.DotProducts Sys2Proof.Laws.TaskEnds

/-! ### The elements of the statement -/

/-- An element's exact value has no place in its output format: a sum beyond 32 bits, or a dot product beyond the largest code. -/
def Beyond (b : List Byte) (ra rb : Nat → Byte) (c q i j : Nat) : Prop :=
  (mDf b = 9 ∧ (accOf b ra rb c q i j < -2147483648 ∨ 2147483647 < accOf b ra rb c q i j)) ∨
    (¬ mDf b = 9 ∧ ∃ neg mag, DotOf b ra rb c q i j (.num neg mag) ∧ largest (mDf b) < mag)

/-- An element, of integers or of floats: its code, and whether it records an overflow (R83 to R89). -/
theorem matxElem_spec {b : List Byte} (h : MatxForm b) (ra rb : Nat → Byte) (c i j q : Nat) :
    (mDf b = 9 → BitVec.ofNat 32 (matxElem b ra rb c i j q).1 = narrow true (accOf b ra rb c q i j)) ∧
    (¬ mDf b = 9 → ∃ v, DotOf b ra rb c q i j v ∧ RoundedOut (mDf b) v (matxElem b ra rb c i j q).1) ∧
    (matxElem b ra rb c i j q).1 < 256 ^ elementBytes (mDf b) ∧ ((matxElem b ra rb c i j q).2 = true ↔ Beyond b ra rb c q i j) := by
  rcases matxForm_cases h with hb | hb
  · obtain ⟨hval, hlt, hovf⟩ := matxElem_float_spec hb (kPer_spec h).2 ra rb c i j q
    have hnot := hb.notWhole
    exact ⟨fun h9 => absurd h9 hnot, fun _ => hval, hlt, hovf.trans ⟨fun hx => .inr ⟨hnot, hx⟩, fun hx => (hx.resolve_left fun h9 => hnot h9.1).2⟩⟩
  · obtain ⟨hval, hlt, hovf⟩ := matxElem_int_spec hb ra rb c i j q
    have hwhole := hb.out
    exact ⟨fun _ => hval, fun hnot => absurd hwhole hnot, hlt,
      hovf.trans ⟨fun hx => .inl ⟨hwhole, hx⟩, fun hx => (hx.resolve_right fun hn => hn.1 hwhole).2⟩⟩

/-! ### The end of a MATX, by its cells -/

section
variable {s : State} {t : EngTask} {w : Workgroup} {k : Kick} {r : TaskRec} {byteB : Nat → Byte}

/-- The word of C for an element, in a state. -/
def cWordAt (s : State) (key : Nat) (b : List Byte) (q i j : Nat) : Nat :=
  if mCen b = true ∧ q = 0 then localNum s .lead key (mCoff b + layPlace b 4 i j) 4 else 0

theorem cWordOf_eq (hw : wgOf s t.wg = some w) (b : List Byte) (q i j : Nat) : cWordOf b w.mem q i j = cWordAt s t.wg b q i j := by
  rw [cWordOf, cWordAt, localNum_eq hw]
  rfl

/-- What a MATX leaves: its cells, the other bytes, STAT and the object of its barrier. -/
theorem matx_leaves (hs : Sound s) (hrun : Running s t w k r) (hform : MatxForm r.bytes) (soft : BitVec 4)
    (hB : (matxB s w .lead r.bytes).1 = byteB) (hcells : CellsApart r.bytes) (hC : CApart r.bytes) (hown : ∀ o, Written r.bytes o → ¬ OwnStat t.off o)
    (hbar : BarrierApart w r.bytes fun o => Written r.bytes o ∨ OwnStat t.off o) :
    let elem (q i j : Nat) := matxElem r.bytes (localAt s .lead t.wg) byteB (cWordAt s t.wg r.bytes q i j) i j q
    ∃ u ovf, exec (.taskComplete t.eng soft) s = .next u ∧ TaskEnded s u t soft ∧
      (∀ q i j, IsCell r.bytes q i j → localNum u .lead t.wg (cellAt r.bytes q i j) (elementBytes (mDf r.bytes)) = (elem q i j).1) ∧
      (∀ o, ¬ Written r.bytes o → ¬ OwnStat t.off o → ¬ InObject r.bytes o → localAt u .lead t.wg o = localAt s .lead t.wg o) ∧
      localNum u .lead t.wg (t.off + 4) 4 = (errOf (matxB s w .lead r.bytes).2 ovf soft).toNat * 2 ^ 16 + 3 ∧
      (ovf = true ↔ ∃ q i j, IsCell r.bytes q i j ∧ (elem q i j).2 = true) ∧
      (rBar r.bytes ≠ 0xFFFFFFFF → objAt u .lead t.wg (rBar r.bytes) =
        phaseEnd (noted (errOf (matxB s w .lead r.bytes).2 ovf soft).toNat t.off (arrival (objAt s .lead t.wg (rBar r.bytes))))) := by
  intro elem
  have hw := hrun.wg.1
  have hwf : Memory.wf w.mem = true := Rollback.localWf_of_sound hs w (List.mem_of_find?_eq_some hw) .lead
  have hra : (fun a => Memory.get w.mem a) = localAt s .lead t.wg := funext fun a => (Rollback.localAt_eq hw .lead a).symm
  have hout : matxMem s w r.bytes = matxOut r.bytes (localAt s .lead t.wg) byteB w.mem := by rw [matxMem, hra, hB]
  obtain ⟨hwfOut, hread, hframe, hflag⟩ := matxOut_cells hform hcells hC (localAt s .lead t.wg) byteB hwf
  rw [← hout] at hwfOut hread hframe hflag
  simp only [cWordOf_eq hw] at hread hflag
  obtain ⟨u, hexec, hended, v, hv, hmem⟩ := matx_ends hrun hform.kind soft
  change v.mem = endedMem w r.bytes t.off (errOf (matxB s w .lead r.bytes).2 (matxMem s w r.bytes).2 soft) (matxMem s w r.bytes).1 at hmem
  have hloc : v.loc .lead = v.mem := rfl
  refine ⟨u, (matxMem s w r.bytes).2, hexec, hended, fun q i j hcell => ?_, fun o h1 h2 h3 => ?_, ?_, hflag, fun hnamed => ?_⟩
  · have hfree : ∀ o, cellAt r.bytes q i j ≤ o → o < cellAt r.bytes q i j + elementBytes (mDf r.bytes) → ¬ OwnStat t.off o ∧ ¬ InObject r.bytes o :=
      fun o h1 h2 =>
        have hwritten : Written r.bytes o := ⟨q, i, j, hcell, h1, h2⟩
        ⟨hown o hwritten, not_inObject hbar (.inl hwritten)⟩
    rw [localNum_eq hv, hloc, hmem, read_endedMem hwfOut _ hfree, hread q i j hcell, leNat_leBytes, Nat.mod_eq_of_lt (matxElem_spec hform ..).2.2.1]
  · have hold : w.loc .lead = w.mem := rfl
    rw [Rollback.localAt_eq hv, Rollback.localAt_eq hw, hloc, hmem, get_endedMem hwfOut _ h2 h3, hframe o h1, hold]
  · rw [localNum_eq hv, hloc, hmem, stat_endedMem hwfOut _ hbar fun _ => .inr]
  · have hkind : rKind r.bytes ≠ 1 := by rw [hform.kind]; decide
    rw [objAt_eq hv, objAt_eq hw]
    exact obj_endedMem hwfOut hkind _ hbar (fun _ => .inr) hnamed (fun o ho => hframe o fun hx => not_inObject hbar (.inl hx) ho) hmem

end

/-- Settles O55: the elements are written block by block, each as the fold over its dot product gives it; then the record's walk leaves STAT and the arrival at
the barrier, which lie apart from the elements. -/
theorem matrixResults : Obligations.MatrixResults := by
  unfold Obligations.MatrixResults
  intro t soft w k r s hs hrun hform b whole kper size place isCell cell cAt written own inObj engine slot base len valid decoded data bad byteB hB
    elemA' elemB' cWord value acc dot beyond hapart hC hown hbar
  obtain ⟨hbytes, hbad⟩ := matxB_spec hform s w hB
  obtain ⟨u, ovf, hexec, hended, hcells, hframe, hstat, hovf, hobj⟩ := matx_leaves hs hrun hform soft hbytes hapart hC hown hbar
  have hspec := fun q i j => matxElem_spec hform (localAt s .lead t.wg) byteB (cWordAt s t.wg b q i j) i j q
  obtain ⟨hlow, hsoft, hlt, h21, h22, h20, h23, herr⟩ := stat_fields _ _ _ hstat
  refine ⟨u, hexec, hended, fun q i j hx => ?_, hframe, hlow, hsoft, hlt, h21, h22, ?_, ?_, fun hnamed => ?_⟩
  · obtain ⟨hint, hfloat, -, -⟩ := hspec q i j
    rw [← hcells q i j hx] at hint hfloat
    exact ⟨hint, hfloat⟩
  · rw [h20]
    exact hbad
  · rw [h23, hovf]
    exact exists_congr fun q => exists_congr fun i => exists_congr fun j => and_congr_right fun _ => (hspec q i j).2.2.2
  · rw [herr]
    exact hobj hnamed

end Sys2Proof.Laws.Matrix

/-! ## Integer, logic and shift instructions (R97 to R99) -/

namespace Sys2Proof.Laws.Integers
open Sys2Proof Sys2Proof.Machine Sys2Proof.Claims

/-! ### Words by their bits -/

theorem getLsbD_wordOf (f : Fin 32 → Bool) (i : Fin 32) : (wordOf f).getLsbD i.val = f i := getLsbD_maskOf f i

/-- A word is the one that its bits give. -/
theorem eq_wordOf {w : Word} {f : Fin 32 → Bool} (h : ∀ i : Fin 32, w.getLsbD i.val = f i) : w = wordOf f :=
  BitVec.eq_of_getLsbD_eq fun i hi => (h ⟨i, hi⟩).trans (getLsbD_wordOf f ⟨i, hi⟩).symm

theorem getLsbD_not_fin (x : Word) (i : Fin 32) : (~~~x).getLsbD i.val = !bitOf x i := by
  rw [BitVec.getLsbD_not, decide_eq_true i.isLt, Bool.true_and, bitOf]

theorem and_eq_wordOf (x y : Word) : x &&& y = wordOf fun i => bitOf x i && bitOf y i := eq_wordOf fun _ => BitVec.getLsbD_and

theorem or_eq_wordOf (x y : Word) : x ||| y = wordOf fun i => bitOf x i || bitOf y i := eq_wordOf fun _ => BitVec.getLsbD_or

theorem xor_eq_wordOf (x y : Word) : x ^^^ y = wordOf fun i => bitOf x i != bitOf y i := eq_wordOf fun _ => BitVec.getLsbD_xor

theorem not_eq_wordOf (x : Word) : ~~~x = wordOf fun i => !bitOf x i := eq_wordOf (getLsbD_not_fin x)

theorem andn_eq_wordOf (x y : Word) : x &&& ~~~y = wordOf fun i => bitOf x i && !bitOf y i :=
  eq_wordOf fun i => by rw [BitVec.getLsbD_and, getLsbD_not_fin]; rfl

theorem orn_eq_wordOf (x y : Word) : x ||| ~~~y = wordOf fun i => bitOf x i || !bitOf y i :=
  eq_wordOf fun i => by rw [BitVec.getLsbD_or, getLsbD_not_fin]; rfl

theorem xnor_eq_wordOf (x y : Word) : ~~~(x ^^^ y) = wordOf fun i => bitOf x i == bitOf y i :=
  eq_wordOf fun i => by
    rw [getLsbD_not_fin, bitOf, BitVec.getLsbD_xor, bitOf, bitOf]
    cases x.getLsbD i <;> cases y.getLsbD i <;> rfl

/-! ### Sums, differences and products (R97, R99) -/

theorem sat32_eq (x : Int) : sat32 x = narrow true x := narrow_eq { rm := .rn, sat := true, ftz := false, bs := false, byte := 0 } x

theorem ofInt_toInt_add (x : Word) (k : Int) : x + BitVec.ofInt 32 k = BitVec.ofInt 32 (x.toInt + k) := by
  rw [BitVec.ofInt_add, BitVec.ofInt_toInt]

theorem ofInt_toInt_sub (x y : Word) : BitVec.ofInt 32 (x.toInt - y.toInt) = x - y := by
  rw [Int.sub_eq_add_neg, BitVec.ofInt_add, BitVec.ofInt_neg, BitVec.ofInt_toInt, BitVec.ofInt_toInt, BitVec.sub_eq_add_neg]

theorem ofNat_natAbs_of_nonneg {x : Int} (h : 0 ≤ x) : BitVec.ofNat 32 x.natAbs = BitVec.ofInt 32 x := by
  rw [← BitVec.ofInt_natCast, Int.natAbs_of_nonneg h]

/-- The distance of two signed words. -/
theorem natAbs_sub_eq (x y : Word) : BitVec.ofNat 32 (x.toInt - y.toInt).natAbs = if x.toInt < y.toInt then y - x else x - y := by
  split
  · rw [← Int.natAbs_neg, Int.neg_sub, ofNat_natAbs_of_nonneg (by omega), ofInt_toInt_sub]
  · rw [ofNat_natAbs_of_nonneg (by omega), ofInt_toInt_sub]

/-- The upper half of a 64-bit number. -/
theorem extract_ofInt_high (z : Int) : (BitVec.ofInt 64 z).extractLsb' 32 32 = BitVec.ofInt 32 (z / 2 ^ 32) := by
  apply BitVec.eq_of_toNat_eq
  rw [BitVec.extractLsb'_toNat, BitVec.toNat_ofInt, BitVec.toNat_ofInt, Nat.shiftRight_eq_div_pow]
  omega

theorem imulh_eq (x y : Word) : BitVec.ofInt 32 (x.toInt * y.toInt / 2 ^ 32) = (x.signExtend 64 * y.signExtend 64).extractLsb' 32 32 := by
  rw [← extract_ofInt_high, BitVec.ofInt_mul]
  rfl

theorem imulhu_eq (x y : Word) : BitVec.ofNat 32 (x.toNat * y.toNat / 2 ^ 32) = (x.zeroExtend 64 * y.zeroExtend 64).extractLsb' 32 32 := by
  have hx := x.isLt
  have hy := y.isLt
  have hlt : x.toNat * y.toNat < 2 ^ 64 := (Nat.mul_lt_mul'' hx hy).trans_eq (by norm_num)
  apply BitVec.eq_of_toNat_eq
  rw [BitVec.extractLsb'_toNat, BitVec.toNat_mul, BitVec.toNat_setWidth, BitVec.toNat_setWidth, BitVec.toNat_ofNat, Nat.shiftRight_eq_div_pow,
    Nat.mod_eq_of_lt (show x.toNat < 2 ^ 64 by omega), Nat.mod_eq_of_lt (show y.toNat < 2 ^ 64 by omega), Nat.mod_eq_of_lt hlt]

theorem umin32_eq (x y : Word) : umin32 x y = BitVec.ofNat 32 (min x.toNat y.toNat) := by
  rw [umin32]
  split
  · rw [min_eq_left ‹_›, BitVec.ofNat_toNat, BitVec.setWidth_eq]
  · rw [min_eq_right (by omega), BitVec.ofNat_toNat, BitVec.setWidth_eq]

theorem umax32_eq (x y : Word) : umax32 x y = BitVec.ofNat 32 (max x.toNat y.toNat) := by
  rw [umax32]
  split
  · rw [max_eq_right ‹_›, BitVec.ofNat_toNat, BitVec.setWidth_eq]
  · rw [max_eq_left (by omega), BitVec.ofNat_toNat, BitVec.setWidth_eq]

theorem rotlBy_eq (x : Word) (n : Nat) : rotlBy x n = wordOf fun i => bitOf x ((i.val + 32 - n % 32) % 32) := by
  have hn := Nat.mod_lt n (show 32 > 0 by decide)
  refine eq_wordOf fun i => ?_
  have hi := i.isLt
  rw [rotlBy, BitVec.getLsbD_rotateLeft, Nat.mod_eq_of_lt hn, bitOf]
  by_cases h : i.val < n % 32
  · rw [decide_eq_true h, cond_true]
    exact congrArg _ (by omega)
  · rw [decide_eq_false h, cond_false, decide_eq_true hi, Bool.true_and]
    exact congrArg _ (by omega)

/-! ### Tables of instructions -/

section
variable {al : Allow}

theorem ins3_row {op : BitVec 7 → BitVec 7 → Bool → BitVec 7 → Instr} {f g : Mods → Word → Word → Word}
    (hexec : ∀ b a n d s, exec (op b a n d) s = ins3 al f b a n d s) (hfg : ∀ m x y, f m x y = g m x y) (b a : BitVec 7) (n : Bool) (d : BitVec 7)
    (s : State) (hp : Plain s al) (h : LaneIssues s [a.toNat, b.toNat] n d.toNat) :
    ∃ t, exec (op b a n d) s = .next t ∧
      LaneDone s t 4 [a.toNat, b.toNat] n d.toNat fun l => g (modsOf s.c.xp.e) (s.c.rd a.toNat l) (s.c.rd b.toNat l) := by
  rw [hexec]
  exact ins3_done hp h _ fun l => hfg _ _ _

/-- A table of two-source instructions holds when its first row and the rest do. -/
theorem binRows_cons {op : BitVec 7 → BitVec 7 → Bool → BitVec 7 → Instr} {f : Mods → Word → Word → Word} {g : Bool → Word → Word → Word}
    {rows : List BinRow} (hexec : ∀ b a n d s, exec (op b a n d) s = ins3 al f b a n d s) (hfg : ∀ m x y, f m x y = g m.sat x y)
    (hrest : BinRows rows) : BinRows ((op, al, g) :: rows) := by
  refine List.forall_mem_cons.2 ⟨fun b a n d s hp h => ?_, hrest⟩
  rw [satOn_eq]
  exact ins3_row hexec hfg b a n d s hp h

theorem binRows_nil : BinRows [] := List.forall_mem_nil _

end

theorem integerArithmeticResults : IntegerArithmeticResults :=
  binRows_cons exec_iadd (fun _ _ _ => narrow_eq _ _) <|
  binRows_cons exec_isub (fun _ _ _ => narrow_eq _ _) <|
  binRows_cons exec_imul (fun _ _ _ => narrow_eq _ _) <|
  binRows_cons exec_imulh (fun _ => imulh_eq) <|
  binRows_cons exec_imulhu (fun _ => imulhu_eq) <|
  binRows_cons exec_iadds (fun _ _ _ => sat32_eq _) <|
  binRows_cons exec_isubs (fun _ _ _ => sat32_eq _) <|
  binRows_cons exec_iabsd (fun _ => natAbs_sub_eq) <|
  binRows_cons exec_imin (fun _ => ShortForms.imin32_eq) <|
  binRows_cons exec_imax (fun _ => ShortForms.imax32_eq) <|
  binRows_cons exec_umin (fun _ => umin32_eq) <|
  binRows_cons exec_umax (fun _ => umax32_eq) binRows_nil

theorem logicResults : LogicResults :=
  binRows_cons exec_and (fun _ => and_eq_wordOf) <|
  binRows_cons exec_or (fun _ => or_eq_wordOf) <|
  binRows_cons exec_xor (fun _ => xor_eq_wordOf) <|
  binRows_cons exec_andn (fun _ => andn_eq_wordOf) <|
  binRows_cons exec_orn (fun _ => orn_eq_wordOf) <|
  binRows_cons exec_xnor (fun _ => xnor_eq_wordOf) binRows_nil

/-! ### Immediate forms (R97, R98) -/

/-- An immediate form whose encoding is legal completes with its operation. -/
theorem insI_row {op : BitVec 7 → BitVec 7 → Bool → BitVec 7 → Instr} {f g : Word → Int → Word}
    (hexec : ∀ i a n d s, exec (op i a n d) s = insI false f i a n d s) (hfg : ∀ x k, f x k = g x k) (i a : BitVec 7) (n : Bool) (d : BitVec 7)
    (s : State) (hc : s.c.xp.c = 127) (h : LaneIssues s [a.toNat] n d.toNat) :
    ∃ t, exec (op i a n d) s = .next t ∧ LaneDone s t 4 [a.toNat] n d.toNat fun l => g (s.c.rd a.toNat l) (immOf s i) := by
  rw [hexec]
  exact insI_done hc (fun hf => absurd hf Bool.false_ne_true) h _ fun l => hfg _ _

/-- A shift by an immediate completes; a negative amount makes the encoding illegal (R98). -/
theorem shiftI_row {op : BitVec 7 → BitVec 7 → Bool → BitVec 7 → Instr} {f g : Word → Nat → Word}
    (hexec : ∀ i a n d s, exec (op i a n d) s = insI true (fun x k => f x k.toNat) i a n d s) (hfg : ∀ x k, f x k = g x k) (i a : BitVec 7)
    (n : Bool) (d : BitVec 7) (s : State) (hc : s.c.xp.c = 127) :
    (0 ≤ immOf s i → LaneIssues s [a.toNat] n d.toNat →
      ∃ t, exec (op i a n d) s = .next t ∧ LaneDone s t 4 [a.toNat] n d.toNat fun l => g (s.c.rd a.toNat l) (immOf s i).toNat) ∧
    (immOf s i < 0 → exec (op i a n d) s =
      .next (faultAt s 4 0x01 (if kindVec s.c n d.toNat [a.toNat] then s.c.enabled else s.c.actMask) 0)) := by
  rw [hexec]
  refine ⟨fun hk h => insI_done hc (fun _ => hk) h _ fun l => hfg _ _, fun hk => ?_⟩
  have hill : (s.c.xp.c != 127 || (true && decide (s.c.imm i < 0)) || (kindVec s.c n d.toNat [a.toNat] && !n && isS d.toNat)) = true := by
    rw [imm_eq, decide_eq_true hk, Bool.and_self, Bool.or_true, Bool.true_or]
  rw [insI, laneIns, issue_illegal hill]
  rfl

theorem immediateResults : ImmediateResults := by
  simp only [ImmediateResults, List.forall_mem_cons, List.not_mem_nil, false_implies, implies_true, and_true]
  exact ⟨insI_row exec_iaddi ofInt_toInt_add, insI_row exec_imuli fun _ _ => rfl, insI_row exec_andi fun _ _ => and_eq_wordOf _ _,
    insI_row exec_ori fun _ _ => or_eq_wordOf _ _, insI_row exec_xori fun _ _ => xor_eq_wordOf _ _⟩

theorem shiftResults : ShiftResults := by
  refine ⟨?_, ?_⟩
  · exact binRows_cons exec_shl (fun _ _ _ => ShortForms.shlBy_eq _ _) <|
      binRows_cons exec_shr (fun _ _ _ => ShortForms.shrBy_eq _ _) <|
      binRows_cons exec_sar (fun _ _ _ => ShortForms.sarBy_eq _ _) <|
      binRows_cons exec_rotl (fun _ _ _ => rotlBy_eq _ _) binRows_nil
  · simp only [List.forall_mem_cons, List.not_mem_nil, false_implies, implies_true, and_true]
    exact ⟨shiftI_row exec_shli ShortForms.shlBy_eq, shiftI_row exec_shri ShortForms.shrBy_eq, shiftI_row exec_sari ShortForms.sarBy_eq⟩

/-- Settles O1: each instruction is `ins3` or `insI` of an operation that the lemmas above give in the manual's words. -/
theorem integerLogicAndShiftResults : Obligations.IntegerLogicAndShiftResults :=
  ⟨integerArithmeticResults, logicResults, immediateResults, shiftResults⟩

end Sys2Proof.Laws.Integers

/-! ## Unary, bit-field, select and carry instructions (R100 to R103) -/

namespace Sys2Proof.Laws.BitFields
open Sys2Proof Sys2Proof.Machine Sys2Proof.Claims Sys2Proof.Laws.Integers

/-! ### Counts of bits (R101) -/

theorem foldl_add_bit (p : Nat → Bool) (l : List Nat) (k : Nat) : l.foldl (fun n i => n + bit (p i)) k = k + (l.filter p).length := by
  induction l generalizing k with
  | nil => rfl
  | cons i l ih =>
    rw [List.foldl_cons, ih, List.filter_cons]
    cases p i <;> simp [bit, Nat.add_assoc, Nat.add_comm 1]

theorem popc32_eq (x : Word) : popc32 x = ((List.range 32).filter (bitOf x)).length := by
  rw [popc32, foldl_add_bit, Nat.zero_add]
  rfl

/-- The first bit of a list of bits that is set ends the run of clear ones before it. -/
theorem length_takeWhile_not {p : Nat → Bool} {l : List Nat} {k : Nat} (hk : k < l.length) (hset : p l[k] = true)
    (hclear : ∀ j (hj : j < k), p (l[j]'(hj.trans hk)) = false) : (l.takeWhile fun i => !p i).length = k := by
  have hfind : l.findIdx p = k := (List.findIdx_eq hk).2 ⟨hset, hclear⟩
  rw [List.takeWhile_eq_take_findIdx_not]
  simp only [Bool.not_not, List.length_take, hfind]
  exact min_eq_left hk.le

theorem takeWhile_not_of_clear {p : Nat → Bool} {l : List Nat} (h : ∀ i ∈ l, p i = false) : (l.takeWhile fun i => !p i) = l :=
  List.takeWhile_eq_self_iff.2 fun i hi => by rw [h i hi]; rfl

theorem getLsbD_log2 {x : Word} (h : x ≠ 0) : x.getLsbD (Nat.log2 x.toNat) = true :=
  Nat.testBit_log2 fun h0 => h (BitVec.eq_of_toNat_eq h0)

theorem getLsbD_of_log2_lt {x : Word} {i : Nat} (h : Nat.log2 x.toNat < i) : x.getLsbD i = false :=
  Nat.testBit_eq_false_of_lt (Nat.lt_log2_self.trans_le (Nat.pow_le_pow_right two_pos h))

theorem clz32_eq (x : Word) : clz32 x = ((List.range 32).reverse.takeWhile fun i => !bitOf x i).length := by
  have hget : ∀ j (hj : j < (List.range 32).reverse.length), (List.range 32).reverse[j] = 31 - j := fun j hj => by simp
  rw [clz32]
  split
  next h => rw [takeWhile_not_of_clear fun i _ => by simp [h, bitOf]]; simp
  next h =>
    have hlog : Nat.log2 x.toNat < 32 := (Nat.log2_lt fun h0 => h (BitVec.eq_of_toNat_eq h0)).2 x.isLt
    refine (length_takeWhile_not (by simp; omega) ?_ fun j hj => ?_).symm
    · rw [hget, show 31 - (31 - Nat.log2 x.toNat) = Nat.log2 x.toNat by omega]
      exact getLsbD_log2 h
    · rw [hget]
      exact getLsbD_of_log2_lt (by omega)

theorem ctz32_eq (x : Word) : ctz32 x = ((List.range 32).takeWhile fun i => !bitOf x i).length := by
  rw [ctz32]
  cases hfind : (List.range 32).find? fun i => x.getLsbD i with
  | none =>
    have hclear : ∀ i ∈ List.range 32, bitOf x i = false := fun i hi => Bool.eq_false_iff.2 (List.find?_eq_none.1 hfind i hi)
    rw [takeWhile_not_of_clear hclear]
    rfl
  | some k =>
    obtain ⟨hset, hk, hclear⟩ := List.find?_range_eq_some.1 hfind
    have hk32 : k < (List.range 32).length := by simpa using hk
    refine (length_takeWhile_not hk32 ?_ fun j hj => ?_).symm
    · rw [List.getElem_range]; exact hset
    · rw [List.getElem_range]; exact Bool.not_eq_true' _ ▸ hclear j hj

/-! ### Bytes and bits in another order (R101) -/

theorem brev32_eq (x : Word) : brev32 x = wordOf fun i => bitOf x (31 - i.val) := rfl

theorem bswap32_eq (x : Word) : bswap32 x = wordOf fun i => bitOf x (8 * (3 - i.val / 8) + i.val % 8) := by
  refine eq_wordOf fun i => ?_
  have hi := i.isLt
  simp only [bswap32, bitOf, BitVec.getLsbD_append, BitVec.getLsbD_extractLsb']
  split_ifs <;> (rw [decide_eq_true (by omega), Bool.true_and]; exact congrArg _ (by omega))

/-! ### Fields (R102) -/

theorem bfxu32_eq (x y : Word) : bfxu32 x y = wordOf fun i => decide (i.val < fieldLen y) && bitOf x (fieldPos y + i.val) := by
  refine eq_wordOf fun i => ?_
  rw [bfxu32, BitVec.getLsbD_ofNat, decide_eq_true i.isLt, Bool.true_and, Nat.testBit_mod_two_pow, Nat.testBit_div_two_pow, Nat.add_comm]
  rfl

theorem getLsbD_sarBy (x : Word) {p i : Nat} (hp : p < 32) (hi : i < 32) : (sarBy x p).getLsbD i = bitOf x (min (p + i) 31) := by
  rw [sarBy, Nat.min_eq_left (by omega), BitVec.getLsbD_sshiftRight, decide_eq_false (by omega), Bool.not_false, Bool.true_and, bitOf]
  split
  · rw [Nat.min_eq_left (by omega)]
  · rw [Nat.min_eq_right (by omega), BitVec.msb_eq_getLsbD_last]

theorem bfx32_eq (x y : Word) : bfx32 x y = wordOf fun i => fieldLen y != 0 && bitOf x (min (fieldPos y + min i.val (fieldLen y - 1)) 31) := by
  have hp : fieldPos y < 32 := Nat.mod_lt _ (by decide)
  have hlen : fieldLen y ≤ 32 := Nat.min_le_right _ _
  refine eq_wordOf fun i => ?_
  have hi := i.isLt
  rw [bfx32]
  generalize fieldPos y = p at *
  generalize fieldLen y = len at *
  by_cases h0 : len = 0
  · simp [h0]
  · have hbit : ∀ j < len, (BitVec.ofNat len (sarBy x p).toNat).getLsbD j = bitOf x (min (p + j) 31) := fun j hj => by
      rw [BitVec.getLsbD_ofNat, decide_eq_true hj, Bool.true_and]
      exact getLsbD_sarBy x hp (by omega)
    rw [if_neg h0, Rounding.sx_eq_toInt (by omega), bne_iff_ne.2 h0, Bool.true_and]
    change (BitVec.signExtend 32 _).getLsbD i.val = _
    rw [BitVec.getLsbD_signExtend, decide_eq_true hi, Bool.true_and]
    split
    next h => rw [hbit _ h, show min i.val (len - 1) = i.val by omega]
    next h => rw [BitVec.msb_eq_getLsbD_last, hbit _ (by omega), show min i.val (len - 1) = len - 1 by omega]

/-- The mask of a field that begins at bit `p`. -/
theorem testBit_fieldMask (p k i : Nat) : ((2 ^ k - 1) * 2 ^ p).testBit i = decide (p ≤ i ∧ i < p + k) := by
  rw [Nat.testBit_mul_two_pow, Nat.testBit_two_pow_sub_one, ← Bool.decide_and]
  exact decide_eq_decide.2 (by omega)

theorem bfi32_eq (x y q : Word) :
    bfi32 x y q = wordOf fun i => if fieldPos y ≤ i.val ∧ i.val < fieldPos y + fieldLen y then bitOf x (i.val - fieldPos y) else bitOf q i := by
  have hp : fieldPos y < 32 := Nat.mod_lt _ (by decide)
  refine eq_wordOf fun i => ?_
  have hi := i.isLt
  rw [bfi32]
  generalize fieldPos y = p at *
  generalize fieldLen y = len at *
  have hmask : (BitVec.ofNat 32 ((2 ^ (min (p + len) 32 - p) - 1) * 2 ^ p)).getLsbD i.val = decide (p ≤ i.val ∧ i.val < p + len) := by
    rw [BitVec.getLsbD_ofNat, decide_eq_true hi, Bool.true_and, testBit_fieldMask]
    exact decide_eq_decide.2 (by omega)
  rw [BitVec.getLsbD_or, BitVec.getLsbD_and, BitVec.getLsbD_and, getLsbD_not_fin, bitOf, hmask, BitVec.getLsbD_shiftLeft, decide_eq_true hi, Bool.true_and]
  by_cases h : p ≤ i.val ∧ i.val < p + len
  · rw [decide_eq_true h, if_pos h, decide_eq_false (by omega)]
    simp [bitOf]
  · rw [decide_eq_false h, if_neg h]
    simp [bitOf]

/-! ### Funnel shifts and lea (R102) -/

theorem fshl32_eq (x y q : Word) :
    fshl32 x y q = wordOf fun i => if y.toNat % 32 ≤ i.val then bitOf x (i.val - y.toNat % 32) else bitOf q (32 + i.val - y.toNat % 32) := by
  have hn := Nat.mod_lt y.toNat (show 32 > 0 by decide)
  refine eq_wordOf fun i => ?_
  have hi := i.isLt
  rw [fshl32]
  generalize y.toNat % 32 = n at *
  rw [BitVec.getLsbD_extractLsb', BitVec.getLsbD_shiftLeft, BitVec.getLsbD_append, decide_eq_true hi, decide_eq_true (show 32 + i.val < 64 by omega),
    decide_eq_false (show ¬ 32 + i.val < n by omega)]
  simp only [Bool.true_and, Bool.not_false, bitOf]
  by_cases h : n ≤ i.val
  · rw [if_pos h, if_neg (by omega)]
    exact congrArg _ (by omega)
  · rw [if_neg h, if_pos (by omega)]

theorem fshr32_eq (x y q : Word) :
    fshr32 x y q = wordOf fun i => if i.val + y.toNat % 32 < 32 then bitOf q (i.val + y.toNat % 32) else bitOf x (i.val + y.toNat % 32 - 32) := by
  refine eq_wordOf fun i => ?_
  rw [fshr32, BitVec.getLsbD_extractLsb', BitVec.getLsbD_ushiftRight, BitVec.getLsbD_append, decide_eq_true i.isLt, Bool.true_and, Nat.zero_add,
    Nat.add_comm (y.toNat % 32)]
  rfl

theorem shiftLeft_of_lt (x : Word) {n : Nat} (h : n < 32) : x <<< n = shiftLeft x n := by
  rw [← ShortForms.shlBy_eq, shlBy, if_neg (by omega)]

/-! ### Tables of instructions -/

/-- A table of one-source instructions holds when its first row and the rest do. -/
theorem unRows_cons {al : Allow} {op : BitVec 7 → Bool → BitVec 7 → Instr} {f : Mods → Word → Word} {g : Bool → Word → Word} {rows : List UnRow}
    (hexec : ∀ a n d s, exec (op a n d) s = ins2 al f a n d s) (hfg : ∀ m x, f m x = g m.sat x) (hrest : UnRows rows) :
    UnRows ((op, al, g) :: rows) := by
  refine List.forall_mem_cons.2 ⟨fun a n d s hp h => ?_, hrest⟩
  rw [hexec, satOn_eq]
  exact ins2_done hp h _ fun l => hfg _ _

theorem unRows_nil : UnRows [] := List.forall_mem_nil _

/-- An instruction whose last operand is C or D completes with its operation. -/
theorem insQ_row {al : Allow} {op : BitVec 7 → BitVec 7 → Bool → BitVec 7 → Instr} {f g : Mods → Word → Word → Word → Word}
    (hexec : ∀ b a n d s, exec (op b a n d) s = insQ al f b a n d s) (hfg : ∀ m x y q, f m x y q = g m x y q) (b a : BitVec 7) (n : Bool)
    (d : BitVec 7) (s : State) (hm : modsLegal s.c.xp.e al = true) (hn : n = true → s.c.xp.c ≠ 127)
    (h : LaneIssues s [a.toNat, b.toNat, lastOp s d] n d.toNat) :
    ∃ t, exec (op b a n d) s = .next t ∧
      LaneDone s t 4 [a.toNat, b.toNat, lastOp s d] n d.toNat fun l =>
        g (modsOf s.c.xp.e) (s.c.rd a.toNat l) (s.c.rd b.toNat l) (s.c.rd (lastOp s d) l) := by
  rw [hexec]
  exact insQ_done hm hn rfl h _ fun l => hfg _ _ _ _

/-- A table of such instructions holds when its first row and the rest do. -/
theorem triRows_cons {al : Allow} {op : BitVec 7 → BitVec 7 → Bool → BitVec 7 → Instr} {f : Mods → Word → Word → Word → Word}
    {g : Bool → Word → Word → Word → Word} {rows : List TriRow} (hexec : ∀ b a n d s, exec (op b a n d) s = insQ al f b a n d s)
    (hfg : ∀ m x y q, f m x y q = g m.sat x y q) (hrest : TriRows rows) : TriRows ((op, al, g) :: rows) := by
  refine List.forall_mem_cons.2 ⟨fun b a n d s hm hn h => ?_, hrest⟩
  rw [satOn_eq]
  exact insQ_row hexec hfg b a n d s hm hn h

theorem triRows_nil : TriRows [] := List.forall_mem_nil _

theorem unaryResults : UnaryResults :=
  unRows_cons exec_iabs (fun m x => by rw [narrow_eq]; congr 1; split <;> omega) <|
  unRows_cons exec_ineg (fun _ _ => narrow_eq _ _) <|
  unRows_cons exec_not (fun _ => not_eq_wordOf) <|
  unRows_cons exec_popc (fun _ x => congrArg _ (popc32_eq x)) <|
  unRows_cons exec_clz (fun _ x => congrArg _ (clz32_eq x)) <|
  unRows_cons exec_ctz (fun _ x => congrArg _ (ctz32_eq x)) <|
  unRows_cons exec_brev (fun _ => brev32_eq) <|
  unRows_cons exec_bswap (fun _ => bswap32_eq) <|
  unRows_cons exec_mov (fun _ _ => rfl) unRows_nil

theorem lea_done {b a : BitVec 7} {n : Bool} {d : BitVec 7} {s : State} (hm : modsLegal s.c.xp.e {} = true)
    (h : LaneIssues s ([a.toNat, b.toNat] ++ if s.c.xp.c = 127 then [] else [s.c.xp.c]) n d.toNat) :
    ∃ t, exec (.lea b a n d) s = .next t ∧ LaneDone s t 4 ([a.toNat, b.toNat] ++ if s.c.xp.c = 127 then [] else [s.c.xp.c]) n d.toNat fun l =>
      s.c.rd a.toNat l + shiftLeft (s.c.rd b.toNat l) (if s.c.xp.c = 127 then 2 else (s.c.rd s.c.xp.c l).toNat % 32) := by
  rw [exec_lea, execLea, show noMods = {} from rfl, hm]
  refine ⟨_, rfl, done_congr (laneIns_done h) fun l => congrArg _ (shiftLeft_of_lt _ ?_)⟩
  split
  · decide
  · exact Nat.mod_lt _ (by decide)

theorem sel_done {b a : BitVec 7} {n : Bool} {d : BitVec 7} {s : State} (hm : modsLegal s.c.xp.e {} = true)
    (hk : (if s.c.xp.c = 127 then 0 else s.c.xp.c) < 64) (h : LaneIssues s [a.toNat, b.toNat] n d.toNat) :
    ∃ t, exec (.sel b a n d) s = .next t ∧ LaneDone s t 4 [a.toNat, b.toNat] n d.toNat fun l =>
      if s.c.pred (if s.c.xp.c = 127 then 0 else s.c.xp.c) l then s.c.rd a.toNat l else s.c.rd b.toNat l := by
  rw [exec_sel, execSel, show noMods = {} from rfl, hm, decide_eq_false (Nat.not_le.2 hk)]
  exact ⟨_, rfl, laneIns_done h⟩

theorem bitFieldResults : BitFieldResults :=
  ⟨binRows_cons exec_bfx (fun _ => bfx32_eq) <| binRows_cons exec_bfxu (fun _ => bfxu32_eq) binRows_nil,
   triRows_cons exec_bfi (fun _ => bfi32_eq) <| triRows_cons exec_fshl (fun _ => fshl32_eq) <| triRows_cons exec_fshr (fun _ => fshr32_eq) <|
     triRows_cons exec_imad (fun _ _ _ _ => narrow_eq _ _) triRows_nil,
   fun _ _ _ _ _ hm h => lea_done hm h, fun _ _ _ _ _ hm hk h => sel_done hm hk h⟩

/-! ### The carry chain (R100) -/

theorem addCarry_eq (x y : Word) (k : Bool) :
    addCarry x y k = (BitVec.ofNat 32 (x.toNat + y.toNat + if k then 1 else 0), decide (2 ^ 32 ≤ x.toNat + y.toNat + if k then 1 else 0)) := by
  cases k <;> rfl

theorem subBorrow_eq (x y : Word) (k : Bool) :
    subBorrow x y k = (BitVec.ofInt 32 ((x.toNat : Int) - y.toNat - (if k then 1 else 0 : Nat)),
      decide ((x.toNat : Int) - y.toNat - (if k then 1 else 0 : Nat) < 0)) := by
  have hx := x.isLt
  have hy := y.isLt
  refine Prod.ext ?_ (decide_eq_decide.2 ?_)
  · apply BitVec.eq_of_toNat_eq
    rw [BitVec.toNat_ofInt]
    cases k <;> simp only [subBorrow, bit, BitVec.toNat_sub, BitVec.toNat_ofNat] <;> omega
  · cases k <;> simp only [bit] <;> omega

/-- A change of one predicate, in the lanes of a mask. -/
theorem predSet_setPred (u : State) {pd : Nat} (hpd : pd < 64) (en : Mask) (v : Lane → Bool) :
    PredSet u (modC u fun c => c.setPred pd en (maskOf v)) pd en v := by
  have hpred : ∀ k l, k < 64 → (modC u fun c => c.setPred pd en (maskOf v)).c.pred k l =
      if k = pd ∧ en.getLsbD l.val = true ∧ pd ≠ 63 then v l else u.c.pred k l := fun k l hk => pred_setPred u.c pd en v k l hpd hk
  refine ⟨fun l hl => ?_, fun k l hk h => ?_, ?_⟩
  · rw [hpred pd l hpd]
    by_cases h63 : pd = 63
    · subst h63
      rw [if_neg fun h => h.2.2 rfl, if_pos rfl, Ctx.pred, Ctx.predMask, if_pos rfl, BitVec.getLsbD_allOnes, decide_eq_true l.isLt]
    · rw [if_pos ⟨rfl, hl, h63⟩, if_neg h63]
  · rw [hpred k l hk, if_neg]
    rintro ⟨rfl, hl, -⟩
    rcases h with h | h
    · exact h rfl
    · rw [hl] at h; cases h
  · simp only [modC, State.c, Ctx.setPred]
    split <;> rfl

theorem predSet_refl (u : State) (pd : Nat) (v : Lane → Bool) : PredSet u u pd 0 v :=
  ⟨fun l hl => by simp at hl, fun _ _ _ _ => rfl, rfl⟩

/-- The encoding of a lane instruction with a vector result is legal where it issues. -/
theorem kindVec_legal {s : State} {srcs : List Nat} {n : Bool} {d : Nat} (h : LaneIssues s srcs n d) : (kindVec s.c n d srcs && !n && isS d) = false := by
  cases hv : kindVec s.c n d srcs with
  | false => rfl
  | true => rcases h.2 hv with h | h <;> simp [h]

/-- What a lane instruction that issues leaves, by its kind. -/
theorem laneIns_eq {size : Nat} {srcs : List Nat} {n : Bool} {d : Nat} {f : Ctx → Lane → Word} {s : State} (h : LaneIssues s srcs n d) :
    laneIns size false false srcs n d f s = if kindVec s.c n d srcs then finishVec s size n d s.c.enabled (f s.c)
      else finishScal s size n d s.c.goes (f s.c s.c.scalarLane) :=
  issue_eq (by simpa using kindVec_legal h) rfl rfl rfl rfl h.1

/-- A carry instruction that issues leaves its sum or difference, and then the carry or borrow in its predicate. -/
theorem carryIns_done {f : Word → Word → Bool → Word × Bool} {b a : BitVec 7} {n : Bool} {d : BitVec 7} {s : State} (hc : s.c.xp.c < 64)
    (hm : modsLegal s.c.xp.e {} = true) (h : LaneIssues s [a.toNat, b.toNat] n d.toNat) {res : Lane → Word × Bool}
    (hres : ∀ l, f (s.c.rd a.toNat l) (s.c.rd b.toNat l) (s.c.pred s.c.xp.c l) = res l) :
    ∃ u t, carryIns f b a n d s = .next t ∧ LaneDone s u 4 [a.toNat, b.toNat] n d.toNat (fun l => (res l).1) ∧
      if kindVec s.c n d.toNat [a.toNat, b.toNat] then PredSet u t s.c.xp.c s.c.enabled fun l => (res l).2
      else PredSet u t s.c.xp.c (if s.c.goes then (if s.c.inH then BitVec.allOnes 32 else s.c.run.act) else 0) fun _ => (res s.c.scalarLane).2 := by
  have hill : (s.c.xp.c == 127 || !modsLegal s.c.xp.e noMods || (kindVec s.c n d.toNat [a.toNat, b.toNat] && !n && isS d.toNat)) = false := by
    rw [kindVec_legal h, show noMods = {} from rfl, hm, beq_eq_false_iff_ne.2 (by omega)]
    rfl
  have hdone := laneIns_done (size := 4) (f := fun _ l => (res l).1) h
  rw [laneIns_eq h] at hdone
  rw [carryIns, issue_eq hill rfl (decide_eq_false (by omega)) rfl rfl h.1]
  simp only [hres]
  refine ⟨_, _, rfl, hdone, ?_⟩
  split
  · exact predSet_setPred _ hc _ _
  · cases s.c.goes with
    | true => exact predSet_setPred _ hc _ _
    | false => exact predSet_refl _ _ _

theorem carryChain : CarryChain := by
  simp only [CarryChain, List.forall_mem_cons, List.not_mem_nil, false_implies, implies_true, and_true]
  refine ⟨fun b a n d s hc hm h => ?_, fun b a n d s hc hm h => ?_⟩
  · exact exec_iaddc b a n d s ▸ carryIns_done hc hm h fun l => addCarry_eq _ _ _
  · exact exec_isubb b a n d s ▸ carryIns_done hc hm h fun l => subBorrow_eq _ _ _

/-- Settles O2: one-source instructions are `ins2`, those whose last operand is C or D are `insQ`, and a carry instruction changes one predicate after its
result (`carryIns_done`). -/
theorem unaryBitFieldAndCarryResults : Obligations.UnaryBitFieldAndCarryResults := ⟨unaryResults, bitFieldResults, carryChain⟩

end Sys2Proof.Laws.BitFields

/-! ## Moves, lane access and immediates (R103, R105) -/

namespace Sys2Proof.Laws.Moves
open Sys2Proof Sys2Proof.Machine Sys2Proof.Claims Sys2Proof.Laws.Integers

/-! ### Where a destination stands -/

theorem writable_dst {s : State} {vec : Bool} {srcs : List (Nat × Nat)} {n : Bool} {d : Nat} (h : Issues s vec srcs (dst n d 1)) (hn : n = false) :
    dstBad s (d, 1) = false := h.writable (d, 1) (by simp [dst, hn])

/-- A destination that may be written and is not scalar is a vector register, and one that is not a vector register is scalar. -/
theorem vector_dst {s : State} {vec : Bool} {srcs : List (Nat × Nat)} {n : Bool} {d : Nat} (h : Issues s vec srcs (dst n d 1))
    (hd : n = true ∨ isS d = false) : n = true ∨ d < 96 := by
  cases n with
  | true => exact .inl rfl
  | false => exact .inr (isV_bound (writable_dst h rfl) (hd.resolve_left Bool.false_ne_true))

theorem scalar_dst {s : State} {vec : Bool} {srcs : List (Nat × Nat)} {n : Bool} {d : Nat} (h : Issues s vec srcs (dst n d 1))
    (hd : n = true ∨ isV d = false) : n = true ∨ 96 ≤ d ∧ d < 120 := by
  cases n with
  | true => exact .inl rfl
  | false => exact .inr (isS_bound (writable_dst h rfl) (hd.resolve_left Bool.false_ne_true))

theorem legal_kind {n k : Bool} (h : n = true ∨ k = false) : (!n && k) = false := by
  rcases h with rfl | rfl
  · rfl
  · exact Bool.and_false _

theorem unitIll_false {s : State} (hp : Plain s {}) : unitIll s.c = false := SpecialRegs.plain_legal hp

/-- The lane that wrlane writes, as a mask. -/
theorem oneLane_eq (go : Bool) (k : Nat) :
    (if go then BitVec.ofNat 32 (2 ^ (Fin.ofNat 32 k).val) else 0 : Mask) = wordOf fun i => go && i.val == k % 32 := by
  refine eq_wordOf fun i => ?_
  cases go with
  | false => simp
  | true => rw [if_pos rfl, BitVec.getLsbD_ofNat, decide_eq_true i.isLt, Nat.testBit_two_pow, Fin.val_ofNat, Bool.true_and, Bool.true_and, beq_eq_decide]; exact decide_eq_decide.2 eq_comm

section
variable {s : State} {a b d : BitVec 7} {n : Bool} (hp : Plain s {})
include hp

/-! ### Lane access (R103) -/

theorem rdlane_done (h : Issues s false [(a.toNat, 1), (b.toNat, 1)] (dst n d.toNat 1)) (hb : s.c.isVec b.toNat = false) (hd : n = true ∨ isV d.toNat = false) :
    ∃ t, exec (.rdlane b a n d) s = .next t ∧ ScalDone s t 4 n d.toNat s.c.goes (s.c.rd a.toNat (Fin.ofNat 32 (s.c.rd b.toNat 0).toNat)) := by
  rw [exec_rdlane, execRdlane, unitIll_false hp, legal_kind hd, hb, issue_eq rfl rfl rfl rfl rfl h]
  exact ⟨_, rfl, finishScal_done (scalar_dst h hd)⟩

theorem wrlane_done (h : Issues s false [(a.toNat, 1), (b.toNat, 1)] (dst n d.toNat 1)) (ha : s.c.isVec a.toNat = false) (hb : s.c.isVec b.toNat = false)
    (hd : n = true ∨ isS d.toNat = false) :
    ∃ t, exec (.wrlane b a n d) s = .next t ∧
      VecDone s t 4 n d.toNat (wordOf fun i => s.c.goes && i.val == (s.c.rd b.toNat 0).toNat % 32) fun _ => s.c.rd a.toNat 0 := by
  rw [exec_wrlane, execWrlane, unitIll_false hp, legal_kind hd, ha, hb, issue_eq rfl rfl rfl rfl rfl h, oneLane_eq]
  exact ⟨_, rfl, finishVec_done (vector_dst h hd)⟩

theorem rfl_done (h : Issues s false [(a.toNat, 1)] (dst n d.toNat 1)) (hd : n = true ∨ isV d.toNat = false) :
    ∃ t, exec (.rfl a n d) s = .next t ∧ ScalDone s t 4 n d.toNat s.c.goes (s.c.rd a.toNat (lowest s.c.actMask)) := by
  rw [exec_rfl, execRfl, unitIll_false hp, legal_kind hd, issue_eq rfl rfl rfl rfl rfl h]
  exact ⟨_, rfl, finishScal_done (scalar_dst h hd)⟩

/-! ### Predicates to registers (R103) -/

theorem movp_done (h : Issues s true [] (dst n d.toNat 1)) (ha : a.toNat < 64) (hd : n = true ∨ isS d.toNat = false) :
    ∃ t, exec (.movp a n d) s = .next t ∧ VecDone s t 4 n d.toNat s.c.enabled fun l => if s.c.pred a.toNat l then 1 else 0 := by
  have hbit : ∀ l, BitVec.ofNat 32 (bit (s.c.pred a.toNat l)) = if s.c.pred a.toNat l then 1 else 0 := fun l => by
    cases s.c.pred a.toNat l <;> rfl
  rw [exec_movp, execMovp, unitIll_false hp, legal_kind hd, decide_eq_false (Nat.not_le.2 ha), issue_eq rfl rfl rfl rfl rfl h]
  simp only [hbit]
  exact ⟨_, rfl, finishVec_done (vector_dst h hd)⟩

theorem ptom_done (h : Issues s false [] (dst n d.toNat 1)) (ha : a.toNat < 64) (hd : n = true ∨ isV d.toNat = false) :
    ∃ t, exec (.ptom a n d) s = .next t ∧
      ScalDone s t 4 n d.toNat s.c.goes (wordOf fun i => s.c.actMask.getLsbD i.val && s.c.pred a.toNat i) := by
  have hmask : s.c.actMask &&& s.c.predMask a.toNat = wordOf fun i => s.c.actMask.getLsbD i.val && s.c.pred a.toNat i :=
    eq_wordOf fun _ => BitVec.getLsbD_and
  rw [exec_ptom, execPtom, unitIll_false hp, legal_kind hd, decide_eq_false (Nat.not_le.2 ha), issue_eq rfl rfl rfl rfl rfl h, hmask]
  exact ⟨_, rfl, finishScal_done (scalar_dst h hd)⟩

end

/-- An instruction of legal form in a run that is not full, with an operand that is illegal beyond the general rules, raises 0x02 (R50). -/
theorem issueM_illegalOperand {s t : State} {i : Issue} {m : Mask} (hill : i.ill = false) (hx : i.xfer = false) (hh : i.hdl = true)
    (hmode : i.vec = true → s.c.inH = false) (hpos : s.c.run.pos < 24) (hbad : i.bad = true) : issueM s i m t = faultAt s i.size 0x02 m 0 := by
  refine Checks.issueM_bad ?_ (Nat.not_le.2 hpos) (fun h => Bool.false_ne_true (hx.symm.trans h.1)) (.inl hbad)
  rintro (h | ⟨hH, hv | h⟩)
  · exact Bool.false_ne_true (hill.symm.trans h)
  · exact Bool.false_ne_true ((hmode hv).symm.trans hH)
  · exact Bool.false_ne_true (h.symm.trans hh)

section
variable {s : State} {a d : BitVec 7} {n : Bool} (hp : Plain s {}) (hpos : s.c.run.pos < 24) (ha : 64 ≤ a.toNat)
include hp hpos ha

theorem movp_refuses (hH : s.c.inH = false) (hd : n = true ∨ isS d.toNat = false) :
    exec (.movp a n d) s = .next (faultAt s 4 0x02 s.c.enabled 0) := by
  rw [exec_movp, execMovp, unitIll_false hp, legal_kind hd, decide_eq_true ha]
  exact congrArg _ (issueM_illegalOperand rfl rfl rfl (fun _ => hH) hpos rfl)

theorem ptom_refuses (hd : n = true ∨ isV d.toNat = false) : exec (.ptom a n d) s = .next (faultAt s 4 0x02 s.c.actMask 0) := by
  rw [exec_ptom, execPtom, unitIll_false hp, legal_kind hd, decide_eq_true ha]
  exact congrArg _ (issueM_illegalOperand rfl rfl rfl (fun h => absurd h Bool.false_ne_true) hpos rfl)

end

/-! ### Immediates (R105) -/

/-- The value of movi. -/
def moviValue (xpw : Option (BitVec 25)) (i : BitVec 17) : Word :=
  match xpw with
  | none => i.signExtend 32
  | some w => w.extractLsb' 0 15 ++ i

theorem movi_done {s : State} {i : BitVec 17} {n : Bool} {d : BitVec 7} (h : Issues s (isV d.toNat) [] (dst n d.toNat 1))
    (hx : ∀ w, s.c.xpw = some w → w.extractLsb' 15 10 = 0) :
    ∃ t, exec (.movi i n d) s = .next t ∧
      if isV d.toNat then VecDone s t 4 n d.toNat s.c.actMask fun _ => moviValue s.c.xpw i else ScalDone s t 4 n d.toNat true (moviValue s.c.xpw i) := by
  have hill : (match s.c.xpw with
      | none => false
      | some w => w.extractLsb' 15 10 != 0) = false := by
    cases hw : s.c.xpw with
    | none => rfl
    | some w => exact bne_eq_false_iff_eq.2 (hx w hw)
  rw [exec_movi, execMovi]
  refine ⟨_, congrArg _ (issueM_eq hill rfl rfl rfl rfl h), ?_⟩
  cases hv : isV d.toNat with
  | true => exact finishVec_done (vector_dst h (.inr (by simp [isV, isS] at hv ⊢; omega)))
  | false => exact finishScal_done (scalar_dst h (.inr hv))

/-- Settles O3: each instruction issues and ends as `finishVec` or `finishScal` says; a predicate number of 64 or more is an operand that the form
refuses. -/
theorem movesAndLaneAccess : Obligations.MovesAndLaneAccess := by
  refine ⟨fun b a n d s hp h hb hd => rdlane_done hp h hb hd, fun b a n d s hp h ha hb hd => wrlane_done hp h ha hb hd,
    fun a n d s hp h hd => rfl_done hp h hd, fun a n d s hp h ha hd => movp_done hp h ha hd, fun a n d s hp h ha hd => ptom_done hp h ha hd,
    fun a n d s hp hpos ha => ⟨movp_refuses hp hpos ha, ptom_refuses hp hpos ha⟩, fun i n d s h hx => ?_⟩
  exact movi_done h hx

end Sys2Proof.Laws.Moves

/-! ## Comparisons and predicate logic (R106 to R109) -/

namespace Sys2Proof.Laws.Comparing
open Sys2Proof Sys2Proof.Machine Sys2Proof.Claims Sys2Proof.Laws.Integers

theorem predResult_eq (ng ac cond prior : Bool) : predResult ng ac cond prior = underNgAc ng ac cond prior := by
  cases ng <;> cases cond <;> rfl

/-- A predicate instruction that issues completes with its condition under NG and AC. -/
theorem predIns_compares {s : State} {srcs : List Nat} {g x : Bool} {p : BitVec 6} {f : Ctx → Lane → Bool} {cond : Lane → Bool}
    (h : Issues s (srcs.any s.c.isVec) (srcs.map (·, 1)) []) (hcond : ∀ l, f s.c l = cond l) :
    CompareDone s (predIns false false srcs g x p f s) g x p cond := by
  have hdone := predIns_done (ng := g) (ac := x) (pd := p) (cond := f) h
  simp only [predResult_eq, hcond] at hdone
  exact hdone

/-- The encoding of a predicate instruction is legal. -/
theorem plain_not_illegal {s : State} {al : Allow} (hp : Plain s al) : (s.c.xp.c != 127 || !modsLegal s.c.xp.e al) = false := by
  obtain ⟨hc, hm⟩ := hp
  rw [hc, hm]
  rfl

/-! ### Conditions (R107, R108) -/

theorem tst_holds (x y : Word) : ICond.holds .tst x y = (List.range 32).any fun i => bitOf x i && bitOf y i := by
  rw [ICond.holds, Bool.eq_iff_iff, bne_iff_ne, List.any_eq_true, ne_eq, show (0 : Word) = 0#32 from rfl, BitVec.zero_iff_eq_false]
  simp only [BitVec.getLsbD_and, List.mem_range, bitOf, not_forall, Bool.not_eq_false]
  refine exists_congr fun i => ⟨fun h => ⟨?_, h⟩, fun h => h.2⟩
  by_contra hi
  rw [BitVec.getLsbD_of_ge x i (by omega)] at h
  cases h

theorem tstz_holds (x y : Word) : ICond.holds .tstz x y = (List.range 32).all fun i => !(bitOf x i && bitOf y i) := by
  rw [← List.not_any_eq_all_not, ← tst_holds, ICond.holds, ICond.holds, bne, Bool.not_not]

/-- Equality of two values that are no NaN: neither is below the other (R108). -/
theorem feq_holds (a b : FVal) : FCond.holds .feq a b = (!(a.isNan || b.isNan) && !a.lt b && !b.lt a) := by
  cases a <;> cases b <;> simp [FCond.holds, FVal.isNan, FVal.eq]

theorem fne_holds (a b : FVal) : FCond.holds .fne a b = (a.isNan || b.isNan || a.lt b || b.lt a) := by
  cases a <;> cases b <;> simp [FCond.holds, FVal.isNan, FVal.eq]

/-! ### Tables of instructions -/

section
variable {k : ICond} {cond : Word → Word → Bool} (hcond : ∀ x y, k.holds x y = cond x y)
include hcond

theorem icmp_row {op : BitVec 7 → BitVec 7 → Bool → Bool → BitVec 6 → Instr} (hexec : ∀ b a g x p s, exec (op b a g x p) s = icmpIns k b a g x p s)
    (b a : BitVec 7) (g x : Bool) (p : BitVec 6) (s : State) (hp : Plain s {})
    (h : Issues s (s.c.isVec a.toNat || s.c.isVec b.toNat) [(a.toNat, 1), (b.toNat, 1)] []) :
    ∃ t, exec (op b a g x p) s = .next t ∧ CompareDone s t g x p fun l => cond (s.c.rd a.toNat l) (s.c.rd b.toNat l) := by
  rw [hexec, icmpIns, plain_not_illegal hp]
  refine ⟨_, rfl, predIns_compares ?_ fun l => hcond _ _⟩
  simpa using h

theorem icmpImm_row {op : BitVec 7 → BitVec 7 → Bool → Bool → BitVec 6 → Instr} (hexec : ∀ i a g x p s, exec (op i a g x p) s = icmpImmIns k i a g x p s)
    (i a : BitVec 7) (g x : Bool) (p : BitVec 6) (s : State) (hp : Plain s {}) (h : Issues s (s.c.isVec a.toNat) [(a.toNat, 1)] []) :
    ∃ t, exec (op i a g x p) s = .next t ∧ CompareDone s t g x p fun l => cond (s.c.rd a.toNat l) (BitVec.ofInt 32 i.toInt) := by
  rw [hexec, icmpImmIns, plain_not_illegal hp]
  refine ⟨_, rfl, predIns_compares ?_ fun l => hcond _ _⟩
  simpa using h

end

theorem fcmp_row {k : FCond} {cond : Bool → Bool → Bool → Bool} (hcond : ∀ a b, k.holds a b = cond (a.isNan || b.isNan) (a.lt b) (b.lt a))
    {op : BitVec 7 → BitVec 7 → Bool → Bool → BitVec 6 → Instr} (hexec : ∀ b a g x p s, exec (op b a g x p) s = fcmpIns k b a g x p s)
    (b a : BitVec 7) (g x : Bool) (p : BitVec 6) (s : State) (hp : Plain s { ftz := true })
    (h : Issues s (s.c.isVec a.toNat || s.c.isVec b.toNat) [(a.toNat, 1), (b.toNat, 1)] []) :
    let val := fun (r : Nat) (l : Lane) => fF32.read (s.c.xp.e / 8 % 2 == 1) (s.c.rd r l).toNat
    ∃ t, exec (op b a g x p) s = .next t ∧ CompareDone s t g x p fun l =>
      cond ((val a.toNat l).isNan || (val b.toNat l).isNan) ((val a.toNat l).lt (val b.toNat l)) ((val b.toNat l).lt (val a.toNat l)) := by
  rw [hexec, fcmpIns, plain_not_illegal hp]
  refine ⟨_, rfl, predIns_compares ?_ fun l => hcond _ _⟩
  simpa using h

theorem plog_done {ps : List Nat} {g x : Bool} {p : BitVec 6} {s : State} {f : Ctx → Lane → Bool} (hp : Plain s {}) (h : Issues s false [] [])
    (hps : ∀ k ∈ ps, k < 64) : ∃ t, plogIns ps f g x p s = .next t ∧ CompareDone s t g x p (f s.c) := by
  have hbad : (ps.any fun k => decide (64 ≤ k)) = false := List.any_eq_false.2 fun k hk => by simpa using hps k hk
  rw [plogIns, plain_not_illegal hp, hbad]
  exact ⟨_, rfl, predIns_compares h fun _ => rfl⟩

/-- A predicate number of 64 or more is an illegal operand (R96). -/
theorem plog_refuses {ps : List Nat} {g x : Bool} {p : BitVec 6} {s : State} {f : Ctx → Lane → Bool} (hp : Plain s {}) (hpos : s.c.run.pos < 24)
    (hps : ∃ k ∈ ps, 64 ≤ k) : plogIns ps f g x p s = .next (faultAt s 4 0x02 s.c.enabled 0) := by
  have hbad : (ps.any fun k => decide (64 ≤ k)) = true := List.any_eq_true.2 (by simpa using hps)
  rw [plogIns, plain_not_illegal hp, hbad]
  exact congrArg _ (Moves.issueM_illegalOperand rfl rfl rfl (fun h => absurd h Bool.false_ne_true) hpos rfl)

theorem integerComparisons : IntegerComparisons := by
  simp only [IntegerComparisons, List.forall_mem_cons, List.not_mem_nil, false_implies, implies_true, and_true]
  exact ⟨⟨icmp_row (fun _ _ => rfl) exec_eq, icmpImm_row (fun _ _ => rfl) exec_eqImm⟩,
    ⟨icmp_row (fun _ _ => rfl) exec_ne, icmpImm_row (fun _ _ => rfl) exec_neImm⟩,
    ⟨icmp_row (fun _ _ => rfl) exec_lt, icmpImm_row (fun _ _ => rfl) exec_ltImm⟩,
    ⟨icmp_row (fun _ _ => rfl) exec_le, icmpImm_row (fun _ _ => rfl) exec_leImm⟩,
    ⟨icmp_row (fun _ _ => rfl) exec_ltu, icmpImm_row (fun _ _ => rfl) exec_ltuImm⟩,
    ⟨icmp_row (fun _ _ => rfl) exec_leu, icmpImm_row (fun _ _ => rfl) exec_leuImm⟩,
    ⟨icmp_row tst_holds exec_tst, icmpImm_row tst_holds exec_tstImm⟩,
    ⟨icmp_row tstz_holds exec_tstz, icmpImm_row tstz_holds exec_tstzImm⟩⟩

theorem floatComparisons : FloatComparisons := by
  simp -zeta only [FloatComparisons, List.forall_mem_cons, List.not_mem_nil, false_implies, implies_true, and_true]
  exact ⟨fcmp_row (cond := fun nan lt gt => !nan && !lt && !gt) feq_holds exec_feq,
    fcmp_row (cond := fun nan lt gt => nan || lt || gt) fne_holds exec_fne, fcmp_row (cond := fun nan lt _ => !nan && lt) (fun _ _ => rfl) exec_flt,
    fcmp_row (cond := fun nan _ gt => !nan && !gt) (fun _ _ => rfl) exec_fle, fcmp_row (cond := fun nan _ gt => !nan && gt) (fun _ _ => rfl) exec_fgt,
    fcmp_row (cond := fun nan lt _ => !nan && !lt) (fun _ _ => rfl) exec_fge, fcmp_row (cond := fun nan _ _ => nan) (fun _ _ => rfl) exec_funord,
    fcmp_row (cond := fun nan _ _ => !nan) (fun _ _ => rfl) exec_ford⟩

theorem predicateLogic : PredicateLogic := by
  refine ⟨?_, ?_, ?_, fun b a g x p s hp hpos => ⟨fun h => ?_, fun h => ?_⟩⟩
  · simp only [List.forall_mem_cons, List.not_mem_nil, false_implies, implies_true, and_true]
    refine ⟨?_, ?_, ?_, ?_⟩ <;> intro b a g x p s hp h ha hb
    · exact exec_pand b a g x p s ▸ plog_done hp h (by simp [ha, hb])
    · exact exec_por b a g x p s ▸ plog_done hp h (by simp [ha, hb])
    · exact exec_pxor b a g x p s ▸ plog_done hp h (by simp [ha, hb])
    · exact exec_pandn b a g x p s ▸ plog_done hp h (by simp [ha, hb])
  · simp only [List.forall_mem_cons, List.not_mem_nil, false_implies, implies_true, and_true]
    refine ⟨?_, ?_⟩ <;> intro a g x p s hp h ha
    · exact exec_pnot a g x p s ▸ plog_done hp h (by simp [ha])
    · exact exec_pmov a g x p s ▸ plog_done hp h (by simp [ha])
  · simp only [List.forall_mem_cons, List.not_mem_nil, false_implies, implies_true, and_true]
    refine ⟨?_, ?_⟩ <;> intro g x p s hp h
    · exact exec_pclr g x p s ▸ plog_done hp h (List.forall_mem_nil _)
    · exact exec_pset g x p s ▸ plog_done hp h (List.forall_mem_nil _)
  · have hps : ∃ k ∈ [a.toNat, b.toNat], 64 ≤ k := by simpa using h
    simp only [List.forall_mem_cons, List.not_mem_nil, false_implies, implies_true, and_true, exec_pand, exec_por, exec_pxor, exec_pandn]
    exact ⟨plog_refuses hp hpos hps, plog_refuses hp hpos hps, plog_refuses hp hpos hps, plog_refuses hp hpos hps⟩
  · have hps : ∃ k ∈ [a.toNat], 64 ≤ k := by simpa using h
    simp only [List.forall_mem_cons, List.not_mem_nil, false_implies, implies_true, and_true, exec_pnot, exec_pmov]
    exact ⟨plog_refuses hp hpos hps, plog_refuses hp hpos hps⟩

/-- Settles O5: comparisons and predicate logic are `predIns` of a condition that the lemmas above give in the manual's words; a predicate number of 64 or more
is an operand that the form refuses. -/
theorem comparisons : Obligations.Comparisons := ⟨integerComparisons, floatComparisons, predicateLogic⟩

end Sys2Proof.Laws.Comparing

/-! ## Values that are one exact value (R70 to R75) -/

namespace Sys2Proof.Laws.SameValues
open Sys2Proof Sys2Proof.Machine Sys2Proof.Laws.Rounding Sys2Proof.Laws.DotProducts

/-- Two values of the model that stand for one exact value. -/
structure Same (u v : FVal) : Prop where
  value : exactVal u = exactVal v
  left  : Proper u
  right : Proper v

theorem Same.refl {v : FVal} (h : Proper v) : Same v v := ⟨rfl, h, h⟩

theorem num_zero_iff_of_div_eq {num den num' den' : Nat} (hd : 0 < den) (hd' : 0 < den') (hq : (num / den : ℚ) = num' / den') : num = 0 ↔ num' = 0 := by
  rw [← div_eq_zero_iff_num hd, hq, div_eq_zero_iff_num hd']

/-- The rounded magnitude of a positive fraction depends on the quotient alone. -/
theorem roundMag_congr {f : Nat} {F : FloatFmt} (hF : Describes f F) (mode : RMode) (neg : Bool) {num den num' den' : Nat} (hn : 0 < num) (hn' : 0 < num') (hd : 0 < den) (hd' : 0 < den')
    (hq : (num / den : ℚ) = num' / den') : F.roundMag mode neg num den = F.roundMag mode neg num' den' := by
  obtain ⟨a, hlo, hhi, hup, hdown⟩ := roundMag_spec F hF.frac mode neg hn hd
  obtain ⟨b, hlo', hhi', hup', hdown'⟩ := roundMag_spec F hF.frac mode neg hn' hd'
  rw [← hq] at hlo' hhi' hup' hdown'
  have hmono := codeMag_strictMono F.fb F.qmin
  have hab : a < b + 1 := hmono.lt_iff_lt.1 (hlo.trans_lt hhi')
  have hba : b < a + 1 := hmono.lt_iff_lt.1 (hlo'.trans_lt hhi)
  obtain rfl : a = b := by omega
  by_cases hm : MovesUp mode neg (a % 2 = 1 ∨ a = F.big) (passed F.fb F.qmin (num / den) a)
  · rw [hup hm, hup' hm]
  · rw [hdown hm, hdown' hm]

section
variable {u v : FVal} (h : Same u v)
include h

/-- They are NaNs, or infinities of one sign, or fractions of one sign and one quotient. -/
theorem same_cases : (u = .nan ∧ v = .nan) ∨ (∃ neg, u = .inf neg ∧ v = .inf neg) ∨
    ∃ neg num den num' den', u = .fin neg num den ∧ v = .fin neg num' den' ∧ 0 < den ∧ 0 < den' ∧ (num / den : ℚ) = num' / den' := by
  obtain ⟨he, hu, hv⟩ := h
  cases u with
  | nan => exact .inl ⟨rfl, exactVal_eq_nan.1 he.symm⟩
  | inf neg => exact .inr (.inl ⟨neg, rfl, exactVal_eq_inf.1 he.symm⟩)
  | fin neg num den =>
    cases v with
    | nan => cases he
    | inf neg' => cases he
    | fin neg' num' den' =>
      obtain ⟨rfl, hq⟩ : neg = neg' ∧ (num / den : ℚ) = num' / den' := by simpa [exactVal] using he
      exact .inr (.inr ⟨neg, num, den, num', den', rfl, rfl, hu, hv, hq⟩)

theorem same_isNan : u.isNan = v.isNan := by
  obtain ⟨rfl, rfl⟩ | ⟨neg, rfl, rfl⟩ | ⟨neg, num, den, num', den', rfl, rfl, -⟩ := same_cases h <;> rfl

theorem same_isInf : u.isInf = v.isInf := by
  obtain ⟨rfl, rfl⟩ | ⟨neg, rfl, rfl⟩ | ⟨neg, num, den, num', den', rfl, rfl, -⟩ := same_cases h <;> rfl

theorem same_sign : u.sign = v.sign := by
  obtain ⟨rfl, rfl⟩ | ⟨neg, rfl, rfl⟩ | ⟨neg, num, den, num', den', rfl, rfl, -⟩ := same_cases h <;> rfl

theorem same_isZero : u.isZero = v.isZero := by
  obtain ⟨rfl, rfl⟩ | ⟨neg, rfl, rfl⟩ | ⟨neg, num, den, num', den', rfl, rfl, hd, hd', hq⟩ := same_cases h
  · rfl
  · rfl
  · rw [FVal.isZero, FVal.isZero, Bool.eq_iff_iff, beq_iff_eq, beq_iff_eq]
    exact num_zero_iff_of_div_eq hd hd' hq

/-! ### One rounding -/

variable {f : Nat} {F : FloatFmt} (hF : Describes f F)
include hF

/-- One exact value has one result. -/
theorem result_congr (mode : RMode) (sat ftz : Bool) : F.result mode sat ftz u = F.result mode sat ftz v := by
  obtain ⟨rfl, rfl⟩ | ⟨neg, rfl, rfl⟩ | ⟨neg, num, den, num', den', rfl, rfl, hd, hd', hq⟩ := same_cases h
  · rfl
  · rfl
  · have htiny : F.tiny num den = F.tiny num' den' := by rw [Bool.eq_iff_iff, tiny_iff hF _ hd, tiny_iff hF _ hd', hq]
    have hz := num_zero_iff_of_div_eq hd hd' hq
    simp only [result_fin, htiny, roundedCode]
    split
    · rfl
    · by_cases h0 : num = 0
      · rw [if_pos h0, if_pos (hz.1 h0)]
      · rw [if_neg h0, if_neg (h0 ∘ hz.2),
          roundMag_congr hF mode neg (Nat.pos_of_ne_zero h0) (Nat.pos_of_ne_zero (h0 ∘ hz.2)) hd hd' hq]

end

/-! ### Products and sums -/

theorem same_mul {a b u v : FVal} (h1 : Same a u) (h2 : Same b v) : Same (a.mul b) (u.mul v) := by
  obtain ⟨he, hp⟩ := exactVal_mul h1.left h2.left
  obtain ⟨he', hp'⟩ := exactVal_mul h1.right h2.right
  exact ⟨by rw [he, he', h1.value, h2.value], hp, hp'⟩

/-- A test that depends on the exact value alone, on two lists of the same values. -/
theorem any_congr {p : FVal → Bool} (hp : ∀ {u v}, Same u v → p u = p v) {xs ys : List FVal} (h : List.Forall₂ Same xs ys) : xs.any p = ys.any p := by
  induction h with
  | nil => rfl
  | cons hxy _ ih => rw [List.any_cons, List.any_cons, hp hxy, ih]

theorem all_congr {p : FVal → Bool} (hp : ∀ {u v}, Same u v → p u = p v) {xs ys : List FVal} (h : List.Forall₂ Same xs ys) : xs.all p = ys.all p := by
  induction h with
  | nil => rfl
  | cons hxy _ ih => rw [List.all_cons, List.all_cons, hp hxy, ih]

theorem proper_left {xs ys : List FVal} (h : List.Forall₂ Same xs ys) : ∀ x ∈ xs, Proper x := by
  induction h with
  | nil => exact List.forall_mem_nil _
  | cons hxy _ ih => exact List.forall_mem_cons.2 ⟨hxy.left, ih⟩

theorem proper_right {xs ys : List FVal} (h : List.Forall₂ Same xs ys) : ∀ y ∈ ys, Proper y := by
  induction h with
  | nil => exact List.forall_mem_nil _
  | cons hxy _ ih => exact List.forall_mem_cons.2 ⟨hxy.right, ih⟩

theorem signed_sum_congr {xs ys : List FVal} (h : List.Forall₂ Same xs ys) :
    (xs.map fun x => (exactVal x).signed).sum = (ys.map fun y => (exactVal y).signed).sum := by
  induction h with
  | nil => rfl
  | cons hxy _ ih => rw [List.map_cons, List.map_cons, List.sum_cons, List.sum_cons, hxy.value, ih]

/-- Values of which none is a NaN or an infinity are finite. -/
theorem finite_of_any {xs : List FVal} (hnan : xs.any FVal.isNan = false) (hpos : (xs.any fun x => x.isInf && !x.sign) = false)
    (hneg : (xs.any fun x => x.isInf && x.sign) = false) : ∀ x ∈ xs, Finite x := by
  refine finite_of_not_mem (fun h => ?_) fun neg h => ?_
  · rw [(any_isNan xs).2 h] at hnan; cases hnan
  · cases neg with
    | false => exact Bool.false_ne_true (hpos.symm.trans (List.any_eq_true.2 ⟨_, h, rfl⟩))
    | true => exact Bool.false_ne_true (hneg.symm.trans (List.any_eq_true.2 ⟨_, h, rfl⟩))

/-- A nonzero fraction by its sign and its magnitude, or a zero whose sign is `z`: the end of an exact sum. -/
def signedFrac (z : Bool) (r : Int × Nat) : FVal := if r.1 = 0 then .fin z 0 1 else .fin (decide (r.1 < 0)) r.1.natAbs r.2

theorem same_signedFrac {z : Bool} {r r' : Int × Nat} (hd : 0 < r.2) (hd' : 0 < r'.2) (hq : (r.1 / r.2 : ℚ) = r'.1 / r'.2) :
    Same (signedFrac z r) (signedFrac z r') := by
  obtain ⟨n, d⟩ := r
  obtain ⟨n', d'⟩ := r'
  dsimp only at *
  have hdq : (0 : ℚ) < d := by exact_mod_cast hd
  have hdq' : (0 : ℚ) < d' := by exact_mod_cast hd'
  have hzero : ∀ {m : Int} {e : ℚ}, 0 < e → (m / e = 0 ↔ m = 0) := fun he => by rw [div_eq_iff he.ne', zero_mul, Int.cast_eq_zero]
  have hneg : ∀ {m : Int} {e : ℚ}, 0 < e → (m / e < 0 ↔ m < 0) := fun he => by rw [div_lt_iff₀ he, zero_mul, Int.cast_lt_zero]
  replace hzero : n = 0 ↔ n' = 0 := by rw [← hzero hdq, hq, hzero hdq']
  replace hneg : n < 0 ↔ n' < 0 := by rw [← hneg hdq, hq, hneg hdq']
  simp only [signedFrac]
  by_cases h0 : n = 0
  · rw [if_pos h0, if_pos (hzero.1 h0)]
    exact .refl Nat.one_pos
  · rw [if_neg h0, if_neg (h0 ∘ hzero.2)]
    refine ⟨?_, hd, hd'⟩
    have habs := congrArg abs hq
    rw [abs_div, abs_div, abs_of_pos hdq, abs_of_pos hdq'] at habs
    simp only [exactVal, decide_eq_decide.2 hneg, Nat.cast_natAbs, Int.cast_abs, habs]

/-- Sums of the same values are the same, the sign of an exact zero included (R74). -/
theorem same_sumVals (mode : RMode) {xs ys : List FVal} (h : List.Forall₂ Same xs ys) : Same (sumVals mode xs) (sumVals mode ys) := by
  have hnan := any_congr same_isNan h
  have hpos := any_congr (p := fun x => x.isInf && !x.sign) (fun h => by rw [same_isInf h, same_sign h]) h
  have hneg := any_congr (p := fun x => x.isInf && x.sign) (fun h => by rw [same_isInf h, same_sign h]) h
  have hzero := all_congr (p := fun x => x.isZero && x.sign) (fun h => by rw [same_isZero h, same_sign h]) h
  have hminus := any_congr same_sign h
  have hplus := any_congr (p := fun x => !x.sign) (fun h => by rw [same_sign h]) h
  have hempty : xs.isEmpty = ys.isEmpty := by cases h <;> rfl
  rw [sumVals, sumVals, hnan, hpos, hneg, hzero, hminus, hplus, hempty]
  cases hn : ys.any FVal.isNan with
  | true => exact .refl trivial
  | false =>
    cases hp : ys.any fun x => x.isInf && !x.sign with
    | true => cases ys.any fun x => x.isInf && x.sign <;> exact .refl trivial
    | false =>
      cases hm : ys.any fun x => x.isInf && x.sign with
      | true => exact .refl trivial
      | false =>
        obtain ⟨hd, hsum⟩ := foldl_addFrac xs (proper_left h) (finite_of_any (hnan.trans hn) (hpos.trans hp) (hneg.trans hm)) 0 Nat.one_pos
        obtain ⟨hd', hsum'⟩ := foldl_addFrac ys (proper_right h) (finite_of_any hn hp hm) 0 Nat.one_pos
        rw [signed_sum_congr h, ← hsum'] at hsum
        exact same_signedFrac hd hd' hsum

end Sys2Proof.Laws.SameValues

/-! ## Float arithmetic on f32, on packed halves and fused (R110 to R112, R118, R169) -/

namespace Sys2Proof.Laws.FloatOps
open Sys2Proof Sys2Proof.Machine Sys2Proof.Claims Sys2Proof.Laws.Integers Sys2Proof.Laws.BitFields Sys2Proof.Laws.Rounding
open Sys2Proof.Laws.DotProducts Sys2Proof.Laws.SameValues

theorem describes_f32 : Describes 0 fF32 := describes (by decide) rfl

/-! ### The two halves of a word (R112) -/

section
variable {f : Nat} {F : FloatFmt} (hF : Describes f F) (h3 : f < 3)
include hF h3

/-- A result fits the format's bits. -/
theorem result_lt (mode : RMode) (sat ftz : Bool) (v : FVal) : F.result mode sat ftz v < 2 ^ (F.signPos + 1) := by
  have hbig := hF.room.1
  have hinf : F.infC < 2 ^ F.signPos := by
    rw [hF.inf (by omega), signPos_eq, Nat.pow_add]
    exact Nat.mul_lt_mul_of_pos_right (by have := Nat.two_pow_pos F.eb; omega) (Nat.two_pow_pos _)
  have hs : ∀ neg {m}, m < 2 ^ F.signPos → F.signed neg m < 2 ^ (F.signPos + 1) := fun neg _ hm => (signed_spec F neg hm).1
  have hpow : 2 ^ F.signPos < 2 ^ (F.signPos + 1) := Nat.pow_lt_pow_right Nat.one_lt_two (Nat.lt_succ_self _)
  cases v with
  | nan => exact hF.room.2.trans hpow
  | inf neg => exact hs neg hinf
  | fin neg num den =>
    simp only [FloatFmt.result]
    split
    · exact hs neg (Nat.two_pow_pos _)
    · cases hm : F.roundMag mode neg num den with
      | some mag =>
        have hle : mag ≤ F.big := by
          simp only [FloatFmt.roundMag, Option.ite_none_right_eq_some, Option.some.injEq] at hm
          obtain ⟨hle, rfl⟩ := hm
          exact hle
        exact hs neg (hle.trans_lt hbig)
      | none =>
        dsimp only
        refine hs neg ?_
        split
        · exact hinf
        · exact hbig

end

theorem flushBits_lt (F : FloatFmt) (ftz : Bool) {x : Nat} (hx : x < 2 ^ (F.signPos + 1)) : F.flushBits ftz x < 2 ^ (F.signPos + 1) := by
  rw [FloatFmt.flushBits]
  split
  · exact (signed_spec F _ (Nat.two_pow_pos _)).1
  · exact hx

/-- Two numbers side by side in a word. -/
theorem ofNat_append (hi : Nat) {lo : Nat} (hlo : lo < 65536) : BitVec.ofNat 32 (hi * 65536 + lo) = BitVec.ofNat 16 hi ++ BitVec.ofNat 16 lo := by
  apply BitVec.eq_of_toNat_eq
  rw [BitVec.toNat_append, BitVec.toNat_ofNat, BitVec.toNat_ofNat, BitVec.toNat_ofNat, ← Nat.shiftLeft_add_eq_or_of_lt (Nat.mod_lt _ (Nat.two_pow_pos _)),
    Nat.shiftLeft_eq]
  omega

theorem toNat_lowHalf (x : Word) : (x.extractLsb' 0 16).toNat = x.toNat % 65536 := by rw [BitVec.extractLsb'_toNat, Nat.shiftRight_zero]

theorem toNat_highHalf (x : Word) : (x.extractLsb' 16 16).toNat = x.toNat / 65536 := by
  have := x.isLt
  rw [BitVec.extractLsb'_toNat, Nat.shiftRight_eq_div_pow, Nat.mod_eq_of_lt (by omega)]

/-- An operation on the codes of halves, as one on halves. -/
theorem onHalves_eq {g : Nat → Nat → Nat} {h : Half → Half → Half} (hlt : ∀ x y : Half, g x.toNat y.toNat < 65536)
    (hg : ∀ x y : Half, BitVec.ofNat 16 (g x.toNat y.toNat) = h x y) (x y : Word) : onHalves g x y = halvesOf h x y := by
  have hlo := hlt (x.extractLsb' 0 16) (y.extractLsb' 0 16)
  rw [toNat_lowHalf, toNat_lowHalf] at hlo
  rw [onHalves, ofNat_append _ hlo, halvesOf, ← hg, ← hg, toNat_lowHalf, toNat_lowHalf, toNat_highHalf, toNat_highHalf]

theorem onHalves3_eq {g : Nat → Nat → Nat → Nat} {h : Half → Half → Half → Half} (hlt : ∀ x y q : Half, g x.toNat y.toNat q.toNat < 65536)
    (hg : ∀ x y q : Half, BitVec.ofNat 16 (g x.toNat y.toNat q.toNat) = h x y q) (x y q : Word) : onHalves3 g x y q =
      (h (x.extractLsb' 16 16) (y.extractLsb' 16 16) (q.extractLsb' 16 16) ++ h (x.extractLsb' 0 16) (y.extractLsb' 0 16) (q.extractLsb' 0 16) : BitVec 32) := by
  have hlo := hlt (x.extractLsb' 0 16) (y.extractLsb' 0 16) (q.extractLsb' 0 16)
  simp only [toNat_lowHalf] at hlo
  rw [onHalves3, ofNat_append _ hlo, ← hg, ← hg]
  simp only [toNat_lowHalf, toNat_highHalf]

section
variable {f : Nat} {F : FloatFmt} (hF : Describes f F) (h3 : f < 3) (hw : F.signPos + 1 = 16)
include hw

theorem inF_half (m : Mods) (x : Half) : inF F m x.toNat = F.read m.ftz x.toNat := by
  rw [inF, hw, Nat.mod_eq_of_lt x.isLt]

theorem pickF_half (m : Mods) (number wantMax : Bool) (x y : Half) : pickF F m number wantMax x.toNat y.toNat = extremum F number wantMax m x.toNat y.toNat := by
  simp only [pickF, extremum, inF_half hw, hw, Nat.mod_eq_of_lt x.isLt, Nat.mod_eq_of_lt y.isLt]
  cases (F.read m.ftz x.toNat).isNan <;> cases (F.read m.ftz y.toNat).isNan <;> cases number <;> cases wantMax <;> rfl

include hF h3

theorem outF_lt (m : Mods) (v : FVal) : outF F m v < 65536 := by
  have := result_lt hF h3 m.rm m.sat m.ftz v
  rwa [hw] at this

/-- Sums, differences and products of halves (R110, R112). -/
theorem halves_of_op {g : Nat → Nat → Nat} {op : Mods → FVal → FVal → FVal} {m : Mods} (hg : ∀ x y, g x y = outF F m (op m (inF F m x) (inF F m y))) (x y : Word) :
    onHalves g x y = halvesOf (halfOf F op m) x y := by
  refine onHalves_eq (fun x y => ?_) (fun x y => ?_) x y
  · rw [hg]; exact outF_lt hF h3 hw m _
  · rw [hg, inF_half hw, inF_half hw]; rfl

omit h3 in
theorem halves_max (m : Mods) (x y : Word) :
    onHalves (pickF F m false true) x y = halvesOf (fun x y => BitVec.ofNat 16 (extremum F false true m x.toNat y.toNat)) x y := by
  refine onHalves_eq (fun x y => ?_) (fun x y => congrArg _ (pickF_half hw m _ _ x y)) x y
  have hnan : F.nanC < 65536 := by
    have := hF.room.2
    rw [show F.signPos = 15 by omega] at this
    omega
  have hflush : ∀ z : Half, F.flushBits m.ftz z.toNat < 65536 := fun z => by
    have := flushBits_lt F m.ftz (x := z.toNat) (by rw [hw]; exact z.isLt)
    rwa [hw] at this
  have hx := hflush x
  have hy := hflush y
  rw [pickF_half hw, extremum]
  split_ifs <;> assumption

theorem halves_fma (m : Mods) (x y q : Word) : onHalves3 (fmaF F false false m) x y q = fusedHalves F m x y q := by
  refine onHalves3_eq (fun x y q => outF_lt hF h3 hw m _) (fun x y q => ?_) x y q
  rw [fmaF, inF_half hw, inF_half hw, inF_half hw]
  rfl

end

/-! ### f32 -/

theorem on32_subF (m : Mods) (x y : Word) : on32 (subF fF32 m) x y = f32Of (fun m a b => FVal.add m.rm a b.neg) m x y := by
  rw [on32, subF, ShortForms.inF_f32, ShortForms.inF_f32]
  rfl

theorem on32_pickF (m : Mods) (number wantMax : Bool) (x y : Word) :
    on32 (pickF fF32 m number wantMax) x y = BitVec.ofNat 32 (extremum fF32 number wantMax m x.toNat y.toNat) :=
  congrArg _ (ShortForms.pickF_f32 ..)

/-- The sign of one word on the other bits of another (R110). -/
theorem copySign_eq (x y : Word) : (x &&& 0x7FFFFFFF) ||| (y &&& 0x80000000) = wordOf fun i => if i.val = 31 then bitOf y 31 else bitOf x i := by
  have hlow : ∀ i : Fin 32, (0x7FFFFFFF : Word).getLsbD i.val = decide (i.val ≠ 31) ∧ (0x80000000 : Word).getLsbD i.val = decide (i.val = 31) := by decide
  refine eq_wordOf fun i => ?_
  rw [BitVec.getLsbD_or, BitVec.getLsbD_and, BitVec.getLsbD_and, (hlow i).1, (hlow i).2]
  by_cases h : i.val = 31
  · simp [h, bitOf]
  · simp [h, bitOf]

/-! ### Dot products and bytes (R111, R118) -/

theorem toInt_byte (x : Word) (k : Nat) : sx 8 (x.toNat / 2 ^ k) = (x.extractLsb' k 8).toInt := by
  rw [sx_eq_toInt (by decide), BitVec.extractLsb', Nat.shiftRight_eq_div_pow]

theorem idp4Sum_eq (x y q : Word) : idp4Sum x y q = q.toInt + byteProducts x y := by
  simp only [idp4Sum, List.range, List.range.loop, List.foldl_cons, List.foldl_nil, toInt_byte, Nat.mul_zero, Nat.mul_one, Nat.reduceMul, byteProducts]
  ring

theorem in32_eq (m : Mods) (x : Word) : in32 m x = fF32.read m.ftz x.toNat := ShortForms.inF_f32 m x

/-- A half of a word as an operand. -/
theorem inF_lowHalf (m : Mods) (x : Word) : inF fF16 m x.toNat = fF16.read m.ftz (x.extractLsb' (16 * 0) 16).toNat := by
  rw [inF, Nat.mul_zero, toNat_lowHalf]
  rfl

theorem inF_highHalf (m : Mods) (x : Word) : inF fF16 m (x.toNat / 65536) = fF16.read m.ftz (x.extractLsb' (16 * 1) 16).toNat := by
  rw [← inF_half (F := fF16) rfl, Nat.mul_one, toNat_highHalf]

/-- A byte of perm8 by the nibble of the selector: a byte of the sources, or eight copies of its sign. -/
def permByte (x y sel : Word) (k : Nat) : Byte :=
  let nib := (sel.extractLsb' (4 * k) 4).toNat
  let v := (y ++ x : DWord).extractLsb' (8 * (nib % 8)) 8
  if nib < 8 then v else if v.getLsbD 7 then 0xFF else 0

theorem toNat_sourceByte (x y : Word) (j : Nat) : ((y ++ x : DWord).extractLsb' (8 * j) 8).toNat = (x.toNat + y.toNat * 2 ^ 32) / 2 ^ (8 * j) % 256 := by
  rw [BitVec.extractLsb'_toNat, Nat.shiftRight_eq_div_pow, BitVec.toNat_append, ← Nat.shiftLeft_add_eq_or_of_lt x.isLt, Nat.shiftLeft_eq, Nat.add_comm]

theorem getLsbD_seven (b : Byte) : b.getLsbD 7 = true ↔ 128 ≤ b.toNat := by
  rw [BitVec.getLsbD, Nat.testBit_eq_decide_div_mod_eq, decide_eq_true_iff]
  have := b.isLt
  omega

theorem toNat_permByte (x y sel : Word) (k : Nat) :
    (let nib := sel.toNat / 2 ^ (4 * k) % 16
     let byte := (x.toNat + y.toNat * 2 ^ 32) / 2 ^ (8 * (nib % 8)) % 256
     if nib < 8 then byte else if 128 ≤ byte then 255 else 0) = (permByte x y sel k).toNat := by
  have hnib : (sel.extractLsb' (4 * k) 4).toNat = sel.toNat / 2 ^ (4 * k) % 16 := by rw [BitVec.extractLsb'_toNat, Nat.shiftRight_eq_div_pow]
  simp only [permByte, hnib, ← toNat_sourceByte, getLsbD_seven]
  split_ifs <;> rfl

theorem ofNat_four_bytes (a b c d : Byte) :
    BitVec.ofNat 32 (0 + a.toNat * 2 ^ (8 * 0) + b.toNat * 2 ^ (8 * 1) + c.toNat * 2 ^ (8 * 2) + d.toNat * 2 ^ (8 * 3)) = d ++ c ++ b ++ a := by
  have := a.isLt
  have := b.isLt
  have := c.isLt
  have := d.isLt
  apply BitVec.eq_of_toNat_eq
  simp only [OnlyEncodings.toNat_append_byte, BitVec.toNat_ofNat]
  omega

/-- The four bytes of perm8 put together. -/
theorem perm8Word_eq_fold (x y sel : Word) :
    perm8Word x y sel = BitVec.ofNat 32 ((List.range 4).foldl (fun t k => t + (permByte x y sel k).toNat * 2 ^ (8 * k)) 0) := by
  have hfun : (fun (t k : Nat) => t + (permByte x y sel k).toNat * 2 ^ (8 * k)) = fun t k =>
      let nib := sel.toNat / 2 ^ (4 * k) % 16
      let byte := (x.toNat + y.toNat * 2 ^ 32) / 2 ^ (8 * (nib % 8)) % 256
      t + (if nib < 8 then byte else if 128 ≤ byte then 255 else 0) * 2 ^ (8 * k) := by
    funext t k
    rw [← toNat_permByte]
  rw [hfun, perm8Word]

theorem perm8Of_eq (x y sel : Word) : perm8Of x y sel = permByte x y sel 3 ++ permByte x y sel 2 ++ permByte x y sel 1 ++ permByte x y sel 0 := by
  simp only [perm8Of, permByte]

theorem foldl_range_four (g : Nat → Nat → Nat) (t : Nat) : (List.range 4).foldl g t = g (g (g (g t 0) 1) 2) 3 := rfl

theorem perm8Word_eq (x y sel : Word) : perm8Word x y sel = perm8Of x y sel := by
  rw [perm8Word_eq_fold, perm8Of_eq, foldl_range_four, ofNat_four_bytes]

theorem hdp2Word_eq (m : Mods) (x y q : Word) : hdp2Word m x y q =
    (let h (w : Word) (k : Nat) := fF16.read m.ftz (w.extractLsb' (16 * k) 16).toNat
     BitVec.ofNat 32 (rounded fF32 m (sumVals m.rm [(h x 0).mul (h y 0), (h x 1).mul (h y 1), fF32.read m.ftz q.toNat]))) := by
  rw [hdp2Word, inF_lowHalf, inF_lowHalf, inF_highHalf, inF_highHalf, in32_eq]
  rfl

/-! ### Scales (R77, R169) -/

/-- The product of two scale bytes. -/
theorem same_scale (x y : Nat) (hx : x < 256) (hy : y < 256) :
    Same ((e8m0 x).mul (e8m0 y)) (if x = 255 ∨ y = 255 then .nan else .fin false (2 ^ (x + y)) (2 ^ 254)) := by
  rw [e8m0, e8m0, Nat.mod_eq_of_lt hx, Nat.mod_eq_of_lt hy]
  by_cases hx5 : x = 255
  · rw [if_pos hx5, if_pos (Or.inl hx5)]
    exact .refl trivial
  · by_cases hy5 : y = 255
    · have hnan : (scaled false 1 ((x : Nat) - 127)).mul .nan = .nan := by rw [scaled]; split <;> rfl
      rw [if_pos hy5, if_pos (Or.inr hy5), if_neg hx5, hnan]
      exact .refl trivial
    · rw [if_neg hx5, if_neg hy5, if_neg (by tauto)]
      obtain ⟨he, hp⟩ := exactVal_mul (proper_scaled false 1 ((x : Nat) - 127)) (proper_scaled false 1 ((y : Nat) - 127))
      refine ⟨?_, hp, Nat.two_pow_pos _⟩
      have hpow : ((2 : Rat) ^ ((x : Int) - 127) * 2 ^ ((y : Int) - 127)) = ((2 ^ (x + y) : Nat) : Rat) / ((2 ^ 254 : Nat) : Rat) := by
        rw [eq_div_iff (Nat.cast_ne_zero.2 (Nat.two_pow_pos 254).ne'), Nat.cast_pow, Nat.cast_pow, Nat.cast_two, ← zpow_natCast, ← zpow_natCast,
          ← zpow_add₀ two_ne_zero, ← zpow_add₀ two_ne_zero, Nat.cast_add, Nat.cast_ofNat]
        congr 1
        ring
      rw [he, exactVal_scaled, exactVal_scaled, exactTimes, exactVal, Nat.cast_one, one_mul, one_mul]
      exact congrArg _ hpow

/-- The scale that two bytes of a word give. -/
theorem same_scale2 (b : Half) : Same (scale2 b.toNat) (scaleOf b) := by
  have hlow : (b.extractLsb' 0 8).toNat = b.toNat % 256 := by rw [BitVec.extractLsb'_toNat, Nat.shiftRight_zero]
  have hhigh : (b.extractLsb' 8 8).toNat = b.toNat / 256 % 256 := by rw [BitVec.extractLsb'_toNat, Nat.shiftRight_eq_div_pow]
  rw [scale2, scaleOf, hlow, hhigh]
  exact same_scale _ _ (Nat.mod_lt _ (by decide)) (Nat.mod_lt _ (by decide))

theorem scale2_mod (x : Nat) : scale2 x = scale2 (x % 65536) := by
  rw [scale2, scale2, Nat.mod_mod_of_dvd x (by decide), show x % 65536 / 256 % 256 = x / 256 % 256 by omega]

theorem same_lowScale (y : Word) : Same (scale2 y.toNat) (scaleOf (y.extractLsb' 0 16)) := by
  rw [scale2_mod, ← toNat_lowHalf]
  exact same_scale2 _

theorem same_highScale (y : Word) : Same (scale2 (y.toNat / 65536)) (scaleOf (y.extractLsb' 16 16)) := by
  rw [← toNat_highHalf]
  exact same_scale2 _

/-- The factor that is scaled. -/
def factorOf (int : Bool) (m : Mods) (x : Word) : FVal := if int then ofInt x.toInt else fF32.read m.ftz x.toNat

theorem scFactor_eq (int : Bool) (m : Mods) (x : Word) : scFactor int m x = factorOf int m x := by rw [scFactor, factorOf, in32_eq]

theorem proper_factorOf (int : Bool) (m : Mods) (x : Word) : Proper (factorOf int m x) := by
  cases int with
  | true => exact Nat.one_pos
  | false => exact proper_read ..

/-- Sums that are the same round to one word. -/
theorem out32_congr (m : Mods) {u v : FVal} (h : Same u v) : out32 m u = BitVec.ofNat 32 (rounded fF32 m v) :=
  congrArg (BitVec.ofNat 32) (result_congr h describes_f32 _ _ _)

theorem scaccWord_eq (int : Bool) (m : Mods) (x y q : Word) : scaccWord int m x y q =
    BitVec.ofNat 32 (rounded fF32 m (sumVals m.rm [fF32.read m.ftz q.toNat, (factorOf int m x).mul (scaleOf (y.extractLsb' 0 16))])) := by
  rw [scaccWord, scFactor_eq, in32_eq]
  exact out32_congr m (same_sumVals _ (.cons (.refl (proper_read ..)) (.cons (same_mul (.refl (proper_factorOf ..)) (same_lowScale y)) .nil)))

theorem scacc2Word_eq (int : Bool) (m : Mods) (x y z q : Word) : scacc2Word int m x y z q =
    BitVec.ofNat 32 (rounded fF32 m (sumVals m.rm [fF32.read m.ftz q.toNat, (factorOf int m x).mul (scaleOf (y.extractLsb' 0 16)),
      (factorOf int m z).mul (scaleOf (y.extractLsb' 16 16))])) := by
  rw [scacc2Word, scFactor_eq, scFactor_eq, in32_eq]
  exact out32_congr m (same_sumVals _ (.cons (.refl (proper_read ..)) (.cons (same_mul (.refl (proper_factorOf ..)) (same_lowScale y))
    (.cons (same_mul (.refl (proper_factorOf ..)) (same_highScale y)) .nil))))

/-! ### Tables of instructions -/

/-- A table of two-source float instructions holds when its first row and the rest do. -/
theorem floatRows_cons {al : Allow} {op : BitVec 7 → BitVec 7 → Bool → BitVec 7 → Instr} {f g : Mods → Word → Word → Word} {rows : List FloatRow}
    (hexec : ∀ b a n d s, exec (op b a n d) s = ins3 al f b a n d s) (hfg : ∀ m x y, f m x y = g m x y) (hrest : FloatRows rows) :
    FloatRows ((op, al, g) :: rows) := List.forall_mem_cons.2 ⟨ins3_row hexec hfg, hrest⟩

theorem floatRows_nil : FloatRows [] := List.forall_mem_nil _

theorem floatArithmetic : FloatArithmetic :=
  floatRows_cons exec_fadd ShortForms.on32_addF <|
  floatRows_cons exec_fsub on32_subF <|
  floatRows_cons exec_fmul ShortForms.on32_mulF <|
  floatRows_cons exec_fmin (fun _ => on32_pickF _ _ _) <|
  floatRows_cons exec_fmax (fun _ => on32_pickF _ _ _) <|
  floatRows_cons exec_fminn (fun _ => on32_pickF _ _ _) <|
  floatRows_cons exec_fmaxn (fun _ => on32_pickF _ _ _) <|
  floatRows_cons exec_fcpsgn (fun _ => copySign_eq) floatRows_nil

theorem packedHalfArithmetic : PackedHalfArithmetic := by
  have h16 : Describes 1 fF16 := describes (by decide) rfl
  have hb16 : Describes 2 fBF16 := describes (by decide) rfl
  exact floatRows_cons exec_hadd2 (fun _ => halves_of_op h16 (by decide) rfl fun _ _ => rfl) <|
    floatRows_cons exec_hsub2 (fun _ => halves_of_op h16 (by decide) rfl fun _ _ => rfl) <|
    floatRows_cons exec_hmul2 (fun _ => halves_of_op h16 (by decide) rfl fun _ _ => rfl) <|
    floatRows_cons exec_hmax2 (fun m => halves_max h16 rfl m) <|
    floatRows_cons exec_badd2 (fun _ => halves_of_op hb16 (by decide) rfl fun _ _ => rfl) <|
    floatRows_cons exec_bsub2 (fun _ => halves_of_op hb16 (by decide) rfl fun _ _ => rfl) <|
    floatRows_cons exec_bmul2 (fun _ => halves_of_op hb16 (by decide) rfl fun _ _ => rfl) <|
    floatRows_cons exec_bmax2 (fun m => halves_max hb16 rfl m) floatRows_nil

/-- scacc2 and scaci2: two factors scaled and added to D. -/
theorem insDC_done {f : Mods → Word → Word → Word → Word → Word} {b a d : BitVec 7} {s : State} (hc : s.c.xp.c ≠ 127)
    (hm : modsLegal s.c.xp.e { rm := true, sat := true, ftz := true } = true) (h : LaneIssues s [a.toNat, b.toNat, s.c.xp.c, d.toNat] false d.toNat)
    {g : Lane → Word} (hfg : ∀ l, f (modsOf s.c.xp.e) (s.c.rd a.toNat l) (s.c.rd b.toNat l) (s.c.rd s.c.xp.c l) (s.c.rd d.toNat l) = g l) :
    ∃ t, insDC false f b a false d s = .next t ∧ LaneDone s t 4 [a.toNat, b.toNat, s.c.xp.c, d.toNat] false d.toNat g := by
  have hill : (false || false || s.c.xp.c == 127 || !modsLegal s.c.xp.e fpAll) = false := by
    rw [show fpAll = { rm := true, sat := true, ftz := true } from rfl, hm, beq_eq_false_iff_ne.2 hc]
    rfl
  rw [insDC, hill]
  exact ⟨_, rfl, done_congr (laneIns_done h) hfg⟩

theorem fusedForms : FusedForms := by
  have h16 : Describes 1 fF16 := describes (by decide) rfl
  have hb16 : Describes 2 fBF16 := describes (by decide) rfl
  refine ⟨?_, ?_⟩
  · refine List.forall_mem_cons.2 ⟨insQ_row exec_ffma (ShortForms.fma32_eq _ _), List.forall_mem_cons.2 ⟨insQ_row exec_ffms (ShortForms.fma32_eq _ _),
      List.forall_mem_cons.2 ⟨insQ_row exec_fnma (ShortForms.fma32_eq _ _), List.forall_mem_cons.2 ⟨insQ_row exec_fnms (ShortForms.fma32_eq _ _),
      List.forall_mem_cons.2 ⟨insQ_row exec_hfma2 (halves_fma h16 (by decide) rfl), List.forall_mem_cons.2 ⟨insQ_row exec_bfma2 (halves_fma hb16 (by decide) rfl),
      List.forall_mem_cons.2 ⟨insQ_row exec_idp4 fun m x y q => ?_, List.forall_mem_cons.2 ⟨insQ_row exec_hdp2 hdp2Word_eq,
      List.forall_mem_cons.2 ⟨insQ_row exec_perm8 fun _ => perm8Word_eq, List.forall_mem_cons.2 ⟨insQ_row exec_scacc (scaccWord_eq false),
      List.forall_mem_cons.2 ⟨insQ_row exec_scaci (scaccWord_eq true), List.forall_mem_nil _⟩⟩⟩⟩⟩⟩⟩⟩⟩⟩⟩
    rw [narrow_eq, idp4Sum_eq]
  · refine List.forall_mem_cons.2 ⟨fun b a d s hc hm h hx => ?_, List.forall_mem_cons.2 ⟨fun b a d s hc hm h hx => ?_, List.forall_mem_nil _⟩⟩
    · exact exec_scacc2 b a false d s ▸ insDC_done hc hm hx fun l => scacc2Word_eq false _ _ _ _ _
    · rw [exec_scaci2, execScaci2, h rfl]
      exact insDC_done hc hm hx fun l => scacc2Word_eq true _ _ _ _ _

/-- Settles O6: each instruction is `ins3` or `insQ` over one rounded result; scales are compared by their values (`Same`). -/
theorem floatResults : Obligations.FloatResults := ⟨floatArithmetic, packedHalfArithmetic, fusedForms⟩

end Sys2Proof.Laws.FloatOps

/-! ## One-source float instructions, packing, scaling and conversions (R115, R117, R119, R120) -/

namespace Sys2Proof.Laws.FloatConverting
open Sys2Proof Sys2Proof.Machine Sys2Proof.Claims Sys2Proof.Laws.Integers Sys2Proof.Laws.BitFields Sys2Proof.Laws.Rounding
open Sys2Proof.Laws.DotProducts Sys2Proof.Laws.SameValues Sys2Proof.Laws.FloatOps

/-! ### The fields of an f32 code (R69) -/

/-- The exponent field of an f32 code. -/
def expField (x : Nat) : Nat := x / 8388608 % 256

/-- The significand that the fields of a finite code give. -/
def significand (x : Nat) : Nat := if expField x = 0 then x % 8388608 else 8388608 + x % 8388608

/-- The exponent of the last place that the fields of a finite code give. -/
def placeExp (x : Nat) : Int := ((max (expField x) 1 : Nat) : Int) - 150

theorem value_f32 (x : Nat) : fF32.value x =
    if expField x = 255 then (if x % 8388608 = 0 then .inf (x / 2147483648 % 2 == 1) else .nan)
    else scaled (x / 2147483648 % 2 == 1) (significand x) (placeExp x) := by
  have hexp : x % 2147483648 / 8388608 = expField x := by rw [expField]; omega
  have hfrac : x % 2147483648 % 8388608 = x % 8388608 := Nat.mod_mod_of_dvd x (by decide)
  have hvalue : fF32.value x = if x % 2147483648 / 8388608 == 255 then (if x % 2147483648 % 8388608 == 0 then .inf (x / 2147483648 % 2 == 1) else .nan)
      else if x % 2147483648 / 8388608 == 0 then scaled (x / 2147483648 % 2 == 1) (x % 2147483648 % 8388608) (-149)
      else scaled (x / 2147483648 % 2 == 1) (8388608 + x % 2147483648 % 8388608) (-149 + (x % 2147483648 / 8388608 - 1 : Nat)) := rfl
  rw [hvalue, hexp, hfrac]
  simp only [beq_iff_eq, significand, placeExp]
  split_ifs with h255 hf h0
  · rfl
  · rfl
  · rw [h0]; rfl
  · congr 1; omega

theorem signed_f32 (neg : Bool) : fF32.signed neg 0 / 2147483648 % 2 = (if neg then 1 else 0) ∧ expField (fF32.signed neg 0) = 0 ∧
    fF32.signed neg 0 % 8388608 = 0 := by
  cases neg <;> decide

/-- A code with its subnormals read as zero. -/
theorem read_f32 (ftz : Bool) (x : Nat) : fF32.read ftz x =
    if expField x = 255 then (if x % 8388608 = 0 then .inf (x / 2147483648 % 2 == 1) else .nan)
    else scaled (x / 2147483648 % 2 == 1) (if ftz = true ∧ expField x = 0 then 0 else significand x) (placeExp x) := by
  have hsub : fF32.subnormal x = (x % 2147483648 != 0 && decide (x % 2147483648 < 8388608)) := rfl
  have hread : fF32.read ftz x = fF32.value (if ftz && fF32.subnormal x then fF32.signed (x / 2147483648 % 2 == 1) 0 else x) := rfl
  have hfield : x % 2147483648 < 8388608 ↔ expField x = 0 := by rw [expField]; omega
  rw [hread]
  by_cases h : ftz = true ∧ expField x = 0
  · obtain ⟨hneg, he, hf⟩ := signed_f32 (x / 2147483648 % 2 == 1)
    have hplace : placeExp (fF32.signed (x / 2147483648 % 2 == 1) 0) = placeExp x := by rw [placeExp, placeExp, he, h.2]
    have hsig : significand (fF32.signed (x / 2147483648 % 2 == 1) 0) = 0 := by rw [significand, if_pos he, hf]
    have hne : ¬ expField x = 255 := by omega
    have hne' : ¬ expField (fF32.signed (x / 2147483648 % 2 == 1) 0) = 255 := by omega
    rw [if_neg hne, if_pos h]
    by_cases h0 : x % 2147483648 = 0
    · have hzero : significand x = 0 := by rw [significand, if_pos h.2]; omega
      have hflush : (ftz && fF32.subnormal x) = false := by rw [hsub, h0]; exact Bool.and_false _
      rw [hflush, if_neg Bool.false_ne_true, value_f32, if_neg hne, hzero]
    · have hflush : (ftz && fF32.subnormal x) = true := by
        rw [hsub, h.1, bne_iff_ne.2 h0, decide_eq_true (hfield.2 h.2)]
        rfl
      rw [hflush, if_pos rfl, value_f32, if_neg hne', hneg, hplace, hsig]
      cases x / 2147483648 % 2 == 1 <;> rfl
  · rw [if_neg h, if_neg (by simp only [hsub, Bool.and_eq_true, decide_eq_true_eq, hfield]; tauto), value_f32]

/-! ### Rounding to integers (R119) -/

theorem integral_eq (mode : RMode) (v : FVal) : integral mode v = integralOf mode v := by
  cases v with
  | nan => rfl
  | inf neg => rfl
  | fin neg num den =>
    have hunits : unitsOf num den 0 = (num / den, num % den, den) := by simp [unitsOf]
    simp only [integral, integralOf, roundUnits, hunits]
    congr 1
    cases mode with
    | rn => simp [roundsUp]
    | rz => simp [roundsUp]
    | rd => simp [roundsUp, Nat.pos_iff_ne_zero]
    | ru => simp [roundsUp, Nat.pos_iff_ne_zero]

theorem frnd_eq (mode : RMode) (m : Mods) (x : Word) :
    frnd mode m x = BitVec.ofNat 32 (fF32.result .rn false false (integralOf mode (fF32.read m.ftz x.toNat))) := by
  rw [frnd, integral_eq, in32_eq]

theorem ffrac32_eq (m : Mods) (x : Word) : ffrac32 m x =
    (let v := fF32.read m.ftz x.toNat
     BitVec.ofNat 32 (rounded fF32 m (FVal.add m.rm v (integralOf .rd v).neg))) := by
  rw [ffrac32, in32_eq, integral_eq]
  rfl

/-! ### Classes and exponents (R120) -/

theorem toNat_expBits (x : Word) : (x.extractLsb' 23 8).toNat = expField x.toNat := by
  rw [BitVec.extractLsb'_toNat, Nat.shiftRight_eq_div_pow]
  rfl

theorem toNat_fracBits (x : Word) : (x.extractLsb' 0 23).toNat = x.toNat % 8388608 := by
  rw [BitVec.extractLsb'_toNat, Nat.shiftRight_zero]

theorem fclass32_eq (x : Word) : fclass32 x = BitVec.ofNat 32 (2 ^ classBit x) := by
  have he : bits x.toNat 30 23 = expField x.toNat := rfl
  have hf : x.toNat % 2 ^ 23 = x.toNat % 8388608 := rfl
  rw [fclass32, classBit, toNat_expBits, toNat_fracBits, he, hf]
  refine congrArg (fun k => BitVec.ofNat 32 (2 ^ k)) ?_
  simp only [bitOf]
  generalize x.getLsbD 31 = neg
  by_cases h255 : expField x.toNat = 255
  · rw [if_pos h255, beq_iff_eq.2 h255]
    by_cases hfrac : x.toNat % 8388608 = 0
    · rw [if_pos hfrac, beq_iff_eq.2 hfrac]
      cases neg <;> rfl
    · rw [if_neg hfrac, beq_eq_false_iff_ne.2 hfrac]
      cases neg <;> rfl
  · rw [if_neg h255, beq_eq_false_iff_ne.2 h255]
    by_cases h0 : expField x.toNat = 0
    · rw [if_pos h0, beq_iff_eq.2 h0]
      by_cases hfrac : x.toNat % 8388608 = 0
      · rw [if_pos hfrac, beq_iff_eq.2 hfrac]
        cases neg <;> rfl
      · rw [if_neg hfrac, beq_eq_false_iff_ne.2 hfrac]
        cases neg <;> rfl
    · rw [if_neg h0, beq_eq_false_iff_ne.2 h0]
      cases neg <;> rfl

/-- The exponent of a value lies between two powers of two, and only there. -/
theorem flog2_eq {num den : Nat} (hn : 0 < num) (hd : 0 < den) {k : Int} (hlo : (2 : ℚ) ^ k ≤ num / den) (hhi : (num / den : ℚ) < 2 ^ (k + 1)) :
    flog2 num den = k := by
  obtain ⟨hlo', hhi'⟩ := flog2_spec hn hd
  have h1 := (zpow_lt_zpow_iff_right₀ (by norm_num : (1 : ℚ) < 2)).1 (hlo.trans_lt hhi')
  have h2 := (zpow_lt_zpow_iff_right₀ (by norm_num : (1 : ℚ) < 2)).1 (hlo'.trans_lt hhi)
  omega

/-- The exponent of a scaled whole number. -/
theorem flog2_scaled {neg : Bool} {m : Nat} (hm : m ≠ 0) (q : Int) {neg' : Bool} {num den : Nat} (h : scaled neg m q = .fin neg' num den) :
    num ≠ 0 ∧ flog2 num den = Nat.log2 m + q := by
  have hproper := proper_scaled neg m q
  have hval := exactVal_scaled neg m q
  rw [h, exactVal, ExactValue.num.injEq] at hval
  rw [h] at hproper
  have hden : (0 : ℚ) < den := Nat.cast_pos.2 hproper
  have hpos : (0 : ℚ) < num / den := by
    rw [hval.2]
    have : (0 : ℚ) < m := Nat.cast_pos.2 (Nat.pos_of_ne_zero hm)
    positivity
  have hnum : 0 < num := Nat.cast_pos.1 ((div_pos_iff_of_pos_right hden).1 hpos)
  refine ⟨hnum.ne', flog2_eq hnum hproper ?_ ?_⟩
  · rw [hval.2, zpow_add₀ two_ne_zero, zpow_natCast]
    exact mul_le_mul_of_nonneg_right (mod_cast Nat.log2_self_le hm) (by positivity)
  · rw [hval.2, add_right_comm, zpow_add₀ two_ne_zero]
    exact mul_lt_mul_of_pos_right (mod_cast Nat.lt_log2_self) (by positivity)

theorem log2_significand {x : Nat} (h : expField x ≠ 0) : Nat.log2 (significand x) = 23 := by
  rw [significand, if_neg h, Nat.log2_eq_iff (by omega)]
  omega

/-- What fgetexp gives for a value. -/
def getexpOf : FVal → Word
  | .fin _ num den => if num = 0 then 0x80000000 else BitVec.ofInt 32 (flog2 num den)
  | _ => 0x7FFFFFFF

theorem fgetexp32_eq_getexpOf (m : Mods) (x : Word) : fgetexp32 m x = getexpOf (fF32.read m.ftz x.toNat) := by
  rw [← in32_eq]
  rfl

/-- The exponent of a scaled whole number, or that of zero. -/
theorem getexpOf_scaled (neg : Bool) (k : Nat) (q : Int) :
    getexpOf (scaled neg k q) = if k = 0 then 0x80000000 else BitVec.ofInt 32 (Nat.log2 k + q) := by
  obtain ⟨num, den, hs⟩ : ∃ num den, scaled neg k q = .fin neg num den := by
    rw [scaled]
    split
    · exact ⟨_, _, rfl⟩
    · exact ⟨_, _, rfl⟩
  rw [hs, getexpOf]
  by_cases hk : k = 0
  · have hnum : num = 0 := by
      rw [scaled, hk, Nat.zero_mul] at hs
      split at hs <;> simp_all
    rw [if_pos hk, if_pos hnum]
  · obtain ⟨hnum, hlog⟩ := flog2_scaled hk q hs
    rw [if_neg hk, if_neg hnum, hlog]

theorem fgetexp32_eq (m : Mods) (x : Word) : fgetexp32 m x = exponentOf m.ftz x := by
  rw [fgetexp32_eq_getexpOf, exponentOf, read_f32, toNat_expBits, toNat_fracBits]
  generalize x.toNat = c
  by_cases h255 : expField c = 255
  · simp only [if_pos h255]
    split_ifs <;> rfl
  · simp only [if_neg h255, getexpOf_scaled]
    by_cases h0 : expField c = 0
    · have hsig : significand c = c % 8388608 := by rw [significand, if_pos h0]
      have hplace : placeExp c = -149 := by rw [placeExp, h0]; rfl
      rw [if_neg (not_not.2 h0), hsig, hplace]
      cases m.ftz with
      | true => simp [h0]
      | false => simp [← sub_eq_add_neg]
    · have hsig : significand c ≠ 0 := by rw [significand, if_neg h0]; omega
      rw [if_neg (fun h : m.ftz = true ∧ expField c = 0 => h0 h.2), if_neg hsig, if_pos h0, log2_significand h0, placeExp]
      congr 1
      omega

/-! ### Packing and scaling (R117, R169) -/

theorem packHalves_eq {f : Nat} {F : FloatFmt} (hF : Describes f F) (h3 : f < 3) (hw : F.signPos + 1 = 16) (m : Mods) (x y : Word) :
    packHalves F m x y = BitVec.ofNat 16 (rounded F m (fF32.read m.ftz y.toNat)) ++ BitVec.ofNat 16 (rounded F m (fF32.read m.ftz x.toNat)) := by
  rw [packHalves, ofNat_append _ (outF_lt hF h3 hw m _), in32_eq, in32_eq]
  rfl

theorem unpackHalf_eq {F : FloatFmt} (hw : F.signPos + 1 = 16) (hi : Bool) (m : Mods) (x : Word) : unpackHalf F hi m x =
    BitVec.ofNat 32 (fF32.result .rn false m.ftz (F.read m.ftz (x.extractLsb' (if hi then 16 else 0) 16).toNat)) := by
  rw [unpackHalf, ← inF_half hw]
  cases hi with
  | true => simp only [if_true, toNat_highHalf]
  | false =>
    simp only [Bool.false_eq_true, if_false, toNat_lowHalf, inF, hw]
    rw [show (65536 : Nat) = 2 ^ 16 from rfl, Nat.mod_mod]

theorem scmulWord_eq (m : Mods) (x y : Word) :
    scmulWord m x y = BitVec.ofNat 32 (rounded fF32 m ((fF32.read m.ftz x.toNat).mul (scaleOf (y.extractLsb' 0 16)))) := by
  rw [scmulWord, in32_eq]
  exact out32_congr m (same_mul (.refl (proper_read ..)) (same_lowScale y))

theorem fldexp32_eq (m : Mods) (x y : Word) : fldexp32 m x y =
    BitVec.ofNat 32 (rounded fF32 m ((fF32.read m.ftz x.toNat).mul (scaled false 1 (max (-1000) (min 1000 y.toInt))))) := by
  rw [fldexp32, in32_eq]
  rfl

/-! ### Conversions (R115) -/

/-- A byte of a word replaced, bit by bit. -/
theorem withByte_eq (x : Word) (k v : Nat) : withByte x k v = wordOf fun i => if i.val / 8 = k then v.testBit (i.val % 8) else bitOf x i := by
  refine eq_wordOf fun i => ?_
  have hff : ∀ j : Fin 32, (0xFF : Word).getLsbD j = decide (j.val < 8) := by decide
  have hmask : ((0xFF : Word) <<< (8 * k)).getLsbD i = decide (i.val / 8 = k) := by
    rw [BitVec.getLsbD_shiftLeft, decide_eq_true i.isLt, Bool.true_and]
    rw [hff ⟨i.val - 8 * k, by omega⟩]
    rw [Bool.eq_iff_iff]
    simp only [Bool.and_eq_true, Bool.not_eq_true', decide_eq_false_iff_not, decide_eq_true_eq]
    omega
  rw [withByte, BitVec.getLsbD_or, BitVec.getLsbD_and, getLsbD_not_fin, bitOf, hmask, BitVec.getLsbD_ofNat, decide_eq_true i.isLt, Bool.true_and,
    Nat.testBit_mul_two_pow, show (256 : Nat) = 2 ^ 8 from rfl, Nat.testBit_mod_two_pow]
  by_cases h : i.val / 8 = k
  · have hsub : i.val - 8 * k = i.val % 8 := by omega
    rw [if_pos h, decide_eq_true h, hsub, decide_eq_true (by omega : 8 * k ≤ i.val), decide_eq_true (Nat.mod_lt _ (by decide))]
    simp
  · rw [if_neg h, decide_eq_false h, bitOf]
    by_cases hle : 8 * k ≤ i.val
    · rw [decide_eq_false (by omega : ¬ i.val - 8 * k < 8)]
      simp
    · rw [decide_eq_false hle]
      simp

theorem cvt_done {r : BitVec 2} {sf df : BitVec 4} {a : BitVec 7} {n : Bool} {d : BitVec 7} {s : State}
    (hp : Plain s { sat := !(decide (5 ≤ df.toNat ∧ df.toNat ≤ 7)), ftz := true, bs := decide (fmtWidth df.toNat ≤ 8) })
    (hbs : s.c.xp.e / 32 % 2 = 1 → n = false) (h : LaneIssues s [a.toNat] n d.toNat) :
    ∃ t, exec (.cvt r sf df a n d) s = .next t ∧ LaneDone s t 4 [a.toNat] n d.toNat fun l =>
      let m := modsOf s.c.xp.e
      let v := convert df.toNat sf.toNat (rmodeOf r.toNat) m.sat m.ftz (s.c.rd a.toNat l).toNat
      if m.bs then wordOf fun i => if i.val / 8 = m.byte then v.testBit (i.val % 8) else bitOf (s.c.rd d.toNat l) i
      else BitVec.ofNat 32 v := by
  obtain ⟨hc, hm⟩ := hp
  have hill : cvtIll s.c.xp df.toNat n = false := by
    rw [cvtIll, hc, hm]
    cases hb : bitAt s.c.xp.e 5 with
    | false => rfl
    | true => rw [hbs (by simpa [bitAt] using hb)]; rfl
  rw [exec_cvt, execCvt, hill]
  refine ⟨_, rfl, done_congr (laneIns_done h) fun l => ?_⟩
  simp only [withByte_eq]

/-! ### Tables of instructions -/

/-- A one-source float instruction completes with its operation. -/
theorem ins2_row {al : Allow} {op : BitVec 7 → Bool → BitVec 7 → Instr} {f g : Mods → Word → Word}
    (hexec : ∀ a n d s, exec (op a n d) s = ins2 al f a n d s) (hfg : ∀ m x, f m x = g m x) (a : BitVec 7) (n : Bool) (d : BitVec 7)
    (s : State) (hp : Plain s al) (h : LaneIssues s [a.toNat] n d.toNat) :
    ∃ t, exec (op a n d) s = .next t ∧ LaneDone s t 4 [a.toNat] n d.toNat fun l => g (modsOf s.c.xp.e) (s.c.rd a.toNat l) := by
  rw [hexec]
  exact ins2_done hp h _ fun l => hfg _ _

/-- Settles O7: one-source instructions are `ins2`, packing and scaling `ins3`; rounding to integers, the exponent and the selected byte are the model's
(`integral_eq`, `fgetexp32_eq`, `withByte_eq`). -/
theorem floatConversions : Obligations.FloatConversions := by
  have h16 : Describes 1 fF16 := describes (by decide) rfl
  have hb16 : Describes 2 fBF16 := describes (by decide) rfl
  refine ⟨?_, floatRows_cons exec_pk2h (packHalves_eq h16 (by decide) rfl) <| floatRows_cons exec_pk2bf (packHalves_eq hb16 (by decide) rfl) <|
    floatRows_cons exec_scmul scmulWord_eq <| floatRows_cons exec_fldexp fldexp32_eq floatRows_nil,
    fun _ _ _ _ _ _ _ hp hbs h => cvt_done hp hbs h⟩
  exact List.forall_mem_cons.2 ⟨ins2_row exec_frndn (frnd_eq _), List.forall_mem_cons.2 ⟨ins2_row exec_frndz (frnd_eq _),
    List.forall_mem_cons.2 ⟨ins2_row exec_frndd (frnd_eq _), List.forall_mem_cons.2 ⟨ins2_row exec_frndu (frnd_eq _),
    List.forall_mem_cons.2 ⟨ins2_row exec_ffrac ffrac32_eq, List.forall_mem_cons.2 ⟨ins2_row exec_fclass fun _ => fclass32_eq,
    List.forall_mem_cons.2 ⟨ins2_row exec_fgetexp fgetexp32_eq, List.forall_mem_cons.2 ⟨ins2_row exec_upkhl (unpackHalf_eq rfl false),
    List.forall_mem_cons.2 ⟨ins2_row exec_upkhh (unpackHalf_eq rfl true), List.forall_mem_cons.2 ⟨ins2_row exec_upkbl (unpackHalf_eq rfl false),
    List.forall_mem_cons.2 ⟨ins2_row exec_upkbh (unpackHalf_eq rfl true), List.forall_mem_nil _⟩⟩⟩⟩⟩⟩⟩⟩⟩⟩⟩

end Sys2Proof.Laws.FloatConverting

/-! ## Rounding a value near a real number (R113) -/

namespace Sys2Proof.Laws.RealRounding
open Sys2Proof Sys2Proof.Machine Sys2Proof.Claims Sys2Proof.Laws.Rounding Sys2Proof.Laws.DotProducts Sys2Proof.Laws.FloatOps

/-- The largest finite magnitude of f32. -/
theorem codeMag_big : codeMag 23 (-149) 0x7F7FFFFF = 2 ^ 128 - 2 ^ 104 := by norm_num [codeMag]

/-- What rounding to nearest gives for a magnitude within the finite range, beyond it but not halfway to the next one, and farther. -/
theorem result_cases (neg : Bool) (num : Nat) {den : Nat} (hd : 0 < den) :
    let c := fF32.result .rn false false (.fin neg num den)
    let mag : ℚ := num / den
    (mag ≤ 2 ^ 128 - 2 ^ 104 ∧ Chosen .rn 0 (withNeg neg mag) c ∧ (c / 2 ^ 31 = 1 ↔ neg = true)) ∨
    (2 ^ 128 - 2 ^ 104 < mag ∧ mag < 2 ^ 128 - 2 ^ 103 ∧ c = fF32.signed neg 0x7F7FFFFF) ∨
    (2 ^ 128 - 2 ^ 103 ≤ mag ∧ c = fF32.signed neg 0x7F800000) := by
  intro c mag
  have htop : fieldMag 8 23 (bigCode 0 8 23) = 2 ^ 128 - 2 ^ 104 := by norm_num [fieldMag, bigCode]
  have hfar : (2 : ℚ) ^ 128 - 2 ^ 104 + topStep 0 8 23 / 2 = 2 ^ 128 - 2 ^ 103 := by norm_num [topStep]
  have hsign : ∀ m, withSign 8 23 neg m = fF32.signed neg m := withSign_eq fF32 neg
  have hin := result_inFloat describes_f32 (by decide) .rn false false false (v := .fin neg num den) hd
  have hF : InFloat 0 8 23 .rn false false false (.num neg mag) c := hin
  rw [InFloat] at hF
  simp only [htop, hfar, hsign, Bool.false_eq_true, false_and, if_false] at hF
  by_cases htm : (2 : ℚ) ^ 128 - 2 ^ 104 < mag
  · rw [if_pos htm] at hF
    obtain ⟨habove, hbelow⟩ := hF
    rcases le_or_gt (2 ^ 128 - 2 ^ 103) mag with h | h
    · exact .inr (.inr ⟨h, habove (.inr ⟨trivial, h⟩)⟩)
    · exact .inr (.inl ⟨htm, h, hbelow fun ha => ha.elim Bool.false_ne_true fun ha => ha.2.not_gt h⟩)
  · rw [if_neg htm] at hF
    exact .inl ⟨not_lt.1 htm, hF⟩

theorem signed_cast (neg : Bool) (m : ℚ) : ((withNeg neg m : ℚ) : ℝ) = if neg then -(m : ℝ) else m := by
  cases neg <;> simp [withNeg]

theorem abs_withNeg_sub (neg : Bool) (a b : ℚ) : |withNeg neg a - b| = |a - withNeg neg b| := by
  cases neg with
  | false => rfl
  | true => rw [withNeg, withNeg, if_pos rfl, if_pos rfl, ← abs_neg, neg_sub, sub_neg_eq_add, sub_neg_eq_add, add_comm]

theorem abs_ite_sub (neg : Bool) (y : ℝ) (b : ℚ) : |(if neg then -y else y) - b| = |y - ((withNeg neg b : ℚ) : ℝ)| := by
  cases neg with
  | false => rfl
  | true => rw [withNeg, if_pos rfl, if_pos rfl, Rat.cast_neg, ← abs_neg, neg_sub, sub_neg_eq_add, sub_neg_eq_add, add_comm]

/-- No finite code lies beyond the largest. -/
theorem abs_codeValue_le {k : Nat} (hk : finiteCode 0 k) : |(codeValue 0 k : ℝ)| ≤ 2 ^ 128 - 2 ^ 104 := by
  have hle := (codeMag_strictMono 23 (-149)).monotone ((describes_f32.finite k).1 hk).2
  have habs : |codeValue 0 k| ≤ 2 ^ 128 - 2 ^ 104 := by
    have hpos := codeMag_nonneg 23 (-149) (k % 2 ^ fF32.signPos)
    rw [codeValue_eq describes_f32, ← codeMag_big, show fF32.fb = 23 from rfl, show fF32.qmin = -149 from rfl]
    cases k / 2 ^ fF32.signPos % 2 == 1 with
    | true => rw [withNeg, if_pos rfl, abs_neg, abs_of_nonneg hpos]; exact hle
    | false => rw [withNeg, if_neg Bool.false_ne_true, abs_of_nonneg hpos]; exact hle
  exact_mod_cast habs

theorem signed_sign (neg : Bool) {m : Nat} (hm : m < 2 ^ 31) : fF32.signed neg m / 2 ^ 31 = 1 ↔ neg = true := by
  have := (signed_spec fF32 neg hm).2.2
  rw [show fF32.signed neg m / 2 ^ 31 = if neg then 1 else 0 from this]
  cases neg <;> decide

theorem abs_signed (neg : Bool) {m : ℚ} (hm : 0 ≤ m) : |((withNeg neg m : ℚ) : ℝ)| = m := by
  have hm' : (0 : ℝ) ≤ m := mod_cast hm
  cases neg <;> simp [withNeg, hm']

/-- When a number beyond the finite range is rounded to the largest code of its sign, no other code is nearer. -/
theorem big_nearest {neg : Bool} {mag : ℚ} {y e k : ℝ} (hnear : |y - ((withNeg neg mag : ℚ) : ℝ)| ≤ e) (hmag : (2 ^ 128 - 2 ^ 104 : ℚ) < mag)
    (hk : |k| ≤ 2 ^ 128 - 2 ^ 104) : |y - ((withNeg neg (2 ^ 128 - 2 ^ 104) : ℚ) : ℝ)| ≤ |y - k| + 2 * e := by
  have hmag' : (2 ^ 128 - 2 ^ 104 : ℝ) < mag := mod_cast hmag
  rw [signed_cast] at hnear ⊢
  push_cast
  generalize (2 ^ 128 - 2 ^ 104 : ℝ) = top at *
  obtain ⟨hk1, hk2⟩ := abs_le.1 hk
  obtain ⟨h1, h2⟩ := abs_le.1 hnear
  cases neg with
  | true =>
    simp only [if_true] at h1 h2 ⊢
    have := neg_abs_le (y - k)
    exact abs_le.2 ⟨by linarith, by linarith [abs_nonneg (y - k)]⟩
  | false =>
    simp only [Bool.false_eq_true, if_false] at h1 h2 ⊢
    have := le_abs_self (y - k)
    exact abs_le.2 ⟨by linarith [abs_nonneg (y - k)], by linarith⟩

/-- A value within half the margin of a real number of its sign rounds to a rounding of that number. -/
theorem roundsReal_of_near {neg : Bool} {num den : Nat} (hd : 0 < den) {y : ℝ} (hnear : |y - ((withNeg neg (num / den) : ℚ) : ℝ)| ≤ 2 ^ (-401 : ℤ))
    (hneg : neg = true ↔ y < 0) : RoundsReal y (fF32.result .rn false false (.fin neg num den)) := by
  have htiny : (2 : ℝ) ^ (-400 : ℤ) = 2 * 2 ^ (-401 : ℤ) := by rw [← zpow_one_add₀ two_ne_zero]; rfl
  have hsmall : (0 : ℝ) < 2 ^ (-401 : ℤ) := by positivity
  have habs := abs_signed neg (m := (num / den : ℚ)) (by positivity)
  have hcases := result_cases neg num hd
  rw [RoundsReal, htiny]
  dsimp only at hcases ⊢
  generalize (2 : ℝ) ^ (-401 : ℤ) = e at *
  generalize fF32.result .rn false false (.fin neg num den) = c at *
  generalize (num / den : ℚ) = mag at *
  have hy := abs_sub_abs_le_abs_sub y ((withNeg neg mag : ℚ) : ℝ)
  rw [habs] at hy
  rcases hcases with ⟨hmag, hch, hsign⟩ | ⟨hlo, hhi, rfl⟩ | ⟨hmag, rfl⟩
  · have hmag' : (mag : ℝ) ≤ 2 ^ 128 - 2 ^ 104 := mod_cast hmag
    refine .inl ⟨hch.1, ?_, hsign.trans hneg, fun k hk => ?_⟩
    · norm_num at hmag' ⊢
      linarith
    · have hbest : |(withNeg neg mag : ℚ) - codeValue 0 c| ≤ |(withNeg neg mag : ℚ) - codeValue 0 k| := by
        rcases hch.2 k hk with h | h
        · exact h.le
        · exact h.1.le
      have hbest' : |((withNeg neg mag : ℚ) : ℝ) - codeValue 0 c| ≤ |((withNeg neg mag : ℚ) : ℝ) - codeValue 0 k| := mod_cast hbest
      have h1 := abs_sub_le y ((withNeg neg mag : ℚ) : ℝ) (codeValue 0 c)
      have h2 := abs_sub_le ((withNeg neg mag : ℚ) : ℝ) y (codeValue 0 k)
      rw [abs_sub_comm _ y] at h2
      linarith
  · have hhi' : (mag : ℝ) < 2 ^ 128 - 2 ^ 103 := mod_cast hhi
    refine .inl ⟨finite_signed describes_f32 neg le_rfl, by linarith, (signed_sign neg (by decide)).trans hneg, fun k hk => ?_⟩
    have hval : codeValue 0 (fF32.signed neg 0x7F7FFFFF) = withNeg neg (2 ^ 128 - 2 ^ 104) := by
      rw [← codeMag_big]
      exact codeValue_signed describes_f32 neg le_rfl
    rw [hval]
    exact big_nearest hnear hlo (abs_codeValue_le hk)
  · have hmag' : (2 : ℝ) ^ 128 - 2 ^ 103 ≤ mag := mod_cast hmag
    have hm := abs_le.1 hnear
    rw [signed_cast] at hm
    cases neg with
    | false =>
      refine .inr (.inl ⟨rfl, ?_⟩)
      simp only [Bool.false_eq_true, if_false] at hm
      linarith
    | true =>
      refine .inr (.inr ⟨rfl, ?_⟩)
      simp only [if_true] at hm
      linarith

/-- Where a number and its computed value both lie beyond the finite range, the result is an infinity. -/
theorem roundsReal_of_overflow {num den : Nat} (hd : 0 < den) {y : ℝ} (hy : 2 ^ 128 ≤ y) (hv : (2 ^ 128 : ℚ) ≤ num / den) :
    RoundsReal y (fF32.result .rn false false (.fin false num den)) := by
  have hmargin : (0 : ℝ) ≤ 2 ^ (-400 : ℤ) := by positivity
  rcases result_cases false num hd with ⟨h, -⟩ | ⟨-, h, -⟩ | ⟨-, h⟩
  · norm_num at h hv
    linarith
  · norm_num at h hv
    linarith
  · refine .inr (.inl ⟨h, ?_⟩)
    have : (0 : ℝ) ≤ 2 ^ 103 := by positivity
    linarith

section
variable {v : FVal} {neg : Bool} {mag : ℚ} (hv : Proper v)
include hv

theorem roundsReal_of_exactVal (he : exactVal v = .num neg mag) {y : ℝ} (hnear : |y - ((withNeg neg mag : ℚ) : ℝ)| ≤ 2 ^ (-401 : ℤ))
    (hneg : neg = true ↔ y < 0) : RoundsReal y (fF32.result .rn false false v) := by
  cases v with
  | nan => cases he
  | inf => cases he
  | fin neg' num den =>
    rw [exactVal, ExactValue.num.injEq] at he
    obtain ⟨rfl, rfl⟩ := he
    exact roundsReal_of_near hv hnear hneg

theorem roundsReal_of_exactVal_overflow (he : exactVal v = .num false mag) {y : ℝ} (hy : 2 ^ 128 ≤ y) (hm : 2 ^ 128 ≤ mag) :
    RoundsReal y (fF32.result .rn false false v) := by
  cases v with
  | nan => cases he
  | inf => cases he
  | fin neg' num den =>
    rw [exactVal, ExactValue.num.injEq] at he
    obtain ⟨rfl, rfl⟩ := he
    exact roundsReal_of_overflow hv hy hm

end

/-! ### Finite codes and their values -/

/-- The value of a finite code that is not zero, and the number that the code stands for. -/
structure Magnitude (x : Nat) (neg : Bool) (num den : Nat) : Prop where
  value : fF32.value x = .fin neg num den
  number : codeValue 0 x = withNeg neg (num / den)
  shape : ∃ (m : Nat) (q : ℤ), 0 < m ∧ m < 2 ^ 24 ∧ -149 ≤ q ∧ q ≤ 104 ∧
    ((0 ≤ q ∧ num = m * 2 ^ q.toNat ∧ den = 1) ∨ (q < 0 ∧ num = m ∧ den = 2 ^ (-q).toNat))

theorem significand_lt (x : Nat) : FloatConverting.significand x < 2 ^ 24 := by
  rw [FloatConverting.significand]
  split <;> omega

theorem magnitude_of_finite {x : Nat} (hx : finiteCode 0 x) (h0 : codeValue 0 x ≠ 0) : ∃ neg num den, Magnitude x neg num den := by
  have hexp : FloatConverting.expField x ≠ 255 := fun h => hx.2.1 ⟨by decide, h⟩
  have hvalue := FloatConverting.value_f32 x
  rw [if_neg hexp] at hvalue
  have hexact : exactVal (fF32.value x) = .num (x / 2 ^ fF32.signPos % 2 == 1) (codeMag 23 (-149) (x % 2 ^ fF32.signPos)) := by
    rw [exactVal_value describes_f32, exactOf_float describes_f32, if_neg, if_neg (fun h => absurd h.1 (by decide)),
      if_neg (fun h => absurd h.1 (by decide))]
    · rfl
    · rintro ⟨-, h⟩
      refine hexp (Eq.trans ?_ h)
      rw [FloatConverting.expField, show fF32.signPos = 31 from rfl, show fF32.fb = 23 from rfl]
      omega
  have hnumber : codeValue 0 x = withNeg (x / 2 ^ fF32.signPos % 2 == 1) (codeMag 23 (-149) (x % 2 ^ fF32.signPos)) := codeValue_eq describes_f32 x
  generalize (x / 2 ^ fF32.signPos % 2 == 1) = neg at *
  generalize codeMag 23 (-149) (x % 2 ^ fF32.signPos) = mag at *
  generalize (x / 2147483648 % 2 == 1) = neg' at *
  have hm := significand_lt x
  have hq : -149 ≤ FloatConverting.placeExp x ∧ FloatConverting.placeExp x ≤ 104 := by
    have : FloatConverting.expField x < 256 := Nat.mod_lt _ (by decide)
    rw [FloatConverting.placeExp]
    omega
  generalize FloatConverting.significand x = m at *
  generalize FloatConverting.placeExp x = q at *
  have hsame := hexact
  rw [hvalue, exactVal_scaled, ExactValue.num.injEq] at hsame
  obtain ⟨rfl, rfl⟩ := hsame
  have hpos : 0 < m := Nat.pos_of_ne_zero fun h => h0 (by rw [hnumber, h, Nat.cast_zero, zero_mul, withNeg_zero])
  by_cases hq0 : 0 ≤ q
  · refine ⟨neg', m * 2 ^ q.toNat, 1, by rw [hvalue, scaled, if_pos hq0], ?_, m, q, hpos, hm, hq.1, hq.2, .inl ⟨hq0, rfl, rfl⟩⟩
    rw [hnumber, zpow_of_nonneg hq0, Nat.cast_one, div_one, Nat.cast_mul]
  · refine ⟨neg', m, 2 ^ (-q).toNat, by rw [hvalue, scaled, if_neg hq0], ?_, m, q, hpos, hm, hq.1, hq.2, .inr ⟨not_le.1 hq0, rfl, rfl⟩⟩
    rw [hnumber, zpow_of_neg hq0, div_eq_mul_inv]

namespace Magnitude
variable {x : Nat} {neg : Bool} {num den : Nat} (h : Magnitude x neg num den)
include h

theorem num_pos : 0 < num := by
  obtain ⟨m, q, hm, -, -, -, ⟨-, rfl, -⟩ | ⟨-, rfl, -⟩⟩ := h.shape
  · exact Nat.mul_pos hm (Nat.two_pow_pos _)
  · exact hm

theorem den_pos : 0 < den := by
  obtain ⟨m, q, -, -, -, -, ⟨-, -, rfl⟩ | ⟨-, -, rfl⟩⟩ := h.shape
  · exact Nat.one_pos
  · exact Nat.two_pow_pos _

theorem num_lt : num < 2 ^ 128 := by
  obtain ⟨m, q, -, hm, -, hq, ⟨-, rfl, -⟩ | ⟨-, rfl, -⟩⟩ := h.shape
  · calc m * 2 ^ q.toNat < 2 ^ 24 * 2 ^ q.toNat := Nat.mul_lt_mul_of_pos_right hm (Nat.two_pow_pos _)
      _ ≤ 2 ^ 24 * 2 ^ 104 := Nat.mul_le_mul_left _ (Nat.pow_le_pow_right Nat.two_pos (by omega))
      _ = 2 ^ 128 := by norm_num
  · exact hm.trans (by norm_num)

theorem den_le : den ≤ 2 ^ 149 := by
  obtain ⟨m, q, -, -, hq, -, ⟨-, -, rfl⟩ | ⟨-, -, rfl⟩⟩ := h.shape
  · norm_num
  · exact Nat.pow_le_pow_right Nat.two_pos (by omega)

/-- The number that the code stands for, as a real number. -/
theorem number_real : (codeValue 0 x : ℝ) = if neg then -((num : ℝ) / den) else (num : ℝ) / den := by
  rw [h.number, signed_cast]
  push_cast
  rfl

theorem real_pos : (0 : ℝ) < (num : ℝ) / den := div_pos (Nat.cast_pos.2 h.num_pos) (Nat.cast_pos.2 h.den_pos)

theorem neg_iff : neg = true ↔ (codeValue 0 x : ℝ) < 0 := by
  have hpos := h.real_pos
  rw [h.number_real]
  cases neg with
  | true => simpa using hpos
  | false => simpa using hpos.le

theorem number_signedNum : (codeValue 0 x : ℝ) = (signedNum neg num : ℝ) / den := by
  rw [h.number_real]
  cases neg <;> simp [signedNum, neg_div]

/-- A positive number's sign. -/
theorem not_neg (hx : 0 < codeValue 0 x) : neg = false := by
  have hx' : (0 : ℝ) < (codeValue 0 x : ℝ) := mod_cast hx
  exact Bool.eq_false_iff.2 fun hn => absurd (h.neg_iff.1 hn) hx'.not_gt

end Magnitude

end Sys2Proof.Laws.RealRounding

/-! ## Reciprocals and square roots (R113) -/

namespace Sys2Proof.Laws.Roots
open Sys2Proof Sys2Proof.Machine Sys2Proof.Claims Sys2Proof.Laws.Rounding Sys2Proof.Laws.RealRounding

/-! ### The whole part of a square root -/

/-- Newton's step from above the root stays at or above it and at least halves the distance. -/
theorem newton_step {n x : Nat} (hx : Nat.sqrt n < x) :
    Nat.sqrt n ≤ (x + n / x) / 2 ∧ (x + n / x) / 2 < x ∧ 2 * ((x + n / x) / 2 - Nat.sqrt n) ≤ x - Nat.sqrt n := by
  have hlo := Nat.sqrt_le n
  have hhi := Nat.lt_succ_sqrt n
  generalize Nat.sqrt n = r at *
  have hpos : 0 < x := by omega
  have hupper : n / x ≤ r := Nat.lt_succ_iff.1 ((Nat.div_lt_iff_lt_mul hpos).2 (hhi.trans_le (Nat.mul_le_mul_left _ hx)))
  have hlower : 2 * r - x ≤ n / x := by
    rw [Nat.le_div_iff_mul_le hpos]
    obtain ⟨d, rfl⟩ := Nat.exists_eq_add_of_le hx.le
    rcases Nat.lt_or_ge r d with h | h
    · rw [show 2 * r - (r + d) = 0 by omega, Nat.zero_mul]
      exact Nat.zero_le _
    · obtain ⟨e, rfl⟩ := Nat.exists_eq_add_of_le h
      rw [show 2 * (d + e) - (d + e + d) = e by omega]
      nlinarith
  omega

/-- Newton's rule from a number at or above the root ends at the root. -/
theorem isqrtFrom_eq (n : Nat) (fuel : Nat) : ∀ x, Nat.sqrt n ≤ x → x - Nat.sqrt n < 2 ^ fuel → isqrtFrom n fuel x = Nat.sqrt n := by
  induction fuel with
  | zero => intro x hle hlt; rw [isqrtFrom]; omega
  | succ fuel ih =>
    intro x hle hlt
    simp only [isqrtFrom]
    rcases hle.eq_or_lt with rfl | hx
    · refine if_pos ?_
      rcases Nat.eq_zero_or_pos (Nat.sqrt n) with h0 | hpos
      · rw [h0]; exact Nat.zero_le _
      · have : Nat.sqrt n ≤ n / Nat.sqrt n := (Nat.le_div_iff_mul_le hpos).2 (Nat.sqrt_le n)
        generalize n / Nat.sqrt n = t at *
        omega
    · obtain ⟨h1, h2, h3⟩ := newton_step hx
      rw [if_neg (by omega)]
      refine ih _ h1 ?_
      rw [Nat.pow_succ] at hlt
      omega

theorem isqrt_eq {n e : Nat} (hn : n < 2 ^ e) (he : e ≤ 1400) : isqrt n = Nat.sqrt n := by
  rw [isqrt]
  split
  next h => rw [h, Nat.sqrt_zero]
  next h =>
    have hlog : Nat.log2 n < e := (Nat.log2_lt h).2 hn
    have hstart : Nat.sqrt n < 2 ^ (Nat.log2 n / 2 + 1) := Nat.sqrt_lt.2 <|
      calc n < 2 ^ (Nat.log2 n + 1) := Nat.lt_log2_self
        _ ≤ 2 ^ ((Nat.log2 n / 2 + 1) + (Nat.log2 n / 2 + 1)) := Nat.pow_le_pow_right Nat.two_pos (by omega)
        _ = _ := Nat.pow_add ..
    exact isqrtFrom_eq n 700 _ hstart.le
      ((Nat.sub_lt (Nat.two_pow_pos _) (Nat.sqrt_pos.2 (Nat.pos_of_ne_zero h))).trans_le (Nat.pow_le_pow_right Nat.two_pos (by omega)))

/-! ### The square root of a fraction -/

theorem sqrt_div_eq {num den : Nat} (hd : 0 < den) : Real.sqrt ((num : ℝ) / den) = Real.sqrt ((num * den : Nat) : ℝ) / den := by
  have hd' : (0 : ℝ) < den := Nat.cast_pos.2 hd
  rw [eq_div_iff hd'.ne', ← Real.sqrt_sq hd'.le, ← Real.sqrt_mul (by positivity), Real.sqrt_sq hd'.le]
  congr 1
  push_cast
  field_simp

/-- The middle of the interval between two whole roots lies within half a unit of the root. -/
theorem sqrt_near (n : Nat) : |Real.sqrt n - (Nat.sqrt n + 1 / 2)| ≤ 1 / 2 := by
  have hlo : ((Nat.sqrt n : ℝ)) ≤ Real.sqrt n := Real.nat_sqrt_le_real_sqrt
  have hhi : Real.sqrt n ≤ Nat.sqrt n + 1 := Real.real_sqrt_le_nat_sqrt_succ
  exact abs_le.2 ⟨by linarith, by linarith⟩

theorem scaled_sq_lt {m a : Nat} (h : m < 2 ^ a) (b : Nat) : m * 2 ^ b * 2 ^ b < 2 ^ (a + b + b) := by
  rw [Nat.pow_add, Nat.pow_add]
  exact Nat.mul_lt_mul_of_pos_right (Nat.mul_lt_mul_of_pos_right h (Nat.two_pow_pos _)) (Nat.two_pow_pos _)

theorem fixOne_pos : 0 < fixOne := by rw [fixOne]; exact Nat.two_pow_pos _

theorem fixOne_real : (0 : ℝ) < fixOne := Nat.cast_pos.2 fixOne_pos

theorem fixOne_inv_le : (1 : ℝ) / fixOne ≤ 2 ^ (-401 : ℤ) := by
  rw [fixOne, Nat.cast_pow, Nat.cast_two, one_div, ← zpow_natCast, ← zpow_neg]
  exact zpow_le_zpow_right₀ one_le_two (by norm_num)

theorem sqrtVal_near {num den : Nat} (hd : 0 < den) (hm : num * den < 2 ^ 248) :
    ∃ k m, 0 < m ∧ sqrtVal num den = .fin false k m ∧ |Real.sqrt ((num : ℝ) / den) - (k : ℝ) / m| ≤ 2 ^ (-401 : ℤ) := by
  have hd' : (0 : ℝ) < den := Nat.cast_pos.2 hd
  have hlt : num * den * fixOne * fixOne < 2 ^ (248 + 576 + 576) := scaled_sq_lt hm 576
  have hroot : Real.sqrt ((num * den * fixOne * fixOne : Nat) : ℝ) = Real.sqrt ((num * den : Nat) : ℝ) * fixOne := by
    rw [Nat.mul_assoc, Nat.cast_mul, Real.sqrt_mul (Nat.cast_nonneg _), Nat.cast_mul fixOne, Real.sqrt_mul_self fixOne_real.le]
  have hnear := sqrt_near (num * den * fixOne * fixOne)
  rw [sqrt_div_eq hd, sqrtVal, isqrt_eq hm (by decide), isqrt_eq hlt (by decide)]
  rw [hroot] at hnear
  dsimp only
  split
  next h =>
    refine ⟨_, _, hd, rfl, ?_⟩
    have hexact : Real.sqrt ((num * den : Nat) : ℝ) = Nat.sqrt (num * den) := by
      conv_lhs => rw [← h, Nat.cast_mul, Real.sqrt_mul_self (Nat.cast_nonneg _)]
    rw [hexact, sub_self, abs_zero]
    positivity
  next h =>
    refine ⟨_, _, Nat.mul_pos (Nat.mul_pos Nat.two_pos fixOne_pos) hd, rfl, ?_⟩
    have hU := fixOne_real
    have hden : (1 : ℝ) ≤ den := Nat.one_le_cast.2 hd
    refine le_trans ?_ fixOne_inv_le
    generalize Nat.sqrt (num * den * fixOne * fixOne) = k at *
    generalize Real.sqrt ((num * den : Nat) : ℝ) = r at *
    rw [Nat.cast_mul (2 * fixOne), Nat.cast_mul 2]
    push_cast
    generalize (fixOne : ℝ) = U at *
    have hdiff : r / den - (2 * k + 1) / (2 * U * den) = (r * U - (k + 1 / 2)) / (U * den) := by field_simp
    rw [hdiff, abs_div, abs_of_pos (mul_pos hU hd')]
    calc |r * U - (k + 1 / 2)| / (U * den) ≤ 1 / (U * den) := by gcongr; linarith
      _ ≤ 1 / U := by gcongr; exact le_mul_of_one_le_right hU.le hden

/-- A finite number's fraction is small enough for the whole roots. -/
theorem mul_lt {x : Nat} {neg : Bool} {num den : Nat} (h : Magnitude x neg num den) : num * den < 2 ^ 248 := by
  obtain ⟨m, q, hpos, hm, hq1, hq2, ⟨hq, rfl, rfl⟩ | ⟨hq, rfl, rfl⟩⟩ := h.shape
  · calc m * 2 ^ q.toNat * 1 < 2 ^ 24 * 2 ^ q.toNat := by rw [Nat.mul_one]; exact Nat.mul_lt_mul_of_pos_right hm (Nat.two_pow_pos _)
      _ = 2 ^ (24 + q.toNat) := (Nat.pow_add ..).symm
      _ ≤ 2 ^ 248 := Nat.pow_le_pow_right Nat.two_pos (by omega)
  · calc num * 2 ^ (-q).toNat < 2 ^ 24 * 2 ^ (-q).toNat := Nat.mul_lt_mul_of_pos_right hm (Nat.two_pow_pos _)
      _ = 2 ^ (24 + (-q).toNat) := (Nat.pow_add ..).symm
      _ ≤ 2 ^ 248 := Nat.pow_le_pow_right Nat.two_pos (by omega)

/-! ### The reciprocal and the roots of finite codes -/

section
variable {x : Nat} (hx : finiteCode 0 x) (h0 : codeValue 0 x ≠ 0)
include hx h0

theorem rcp_rounds : RoundsReal ((codeValue 0 x : ℝ)⁻¹) (fF32.result .rn false false (sfuRcp (fF32.value x))) := by
  obtain ⟨neg, num, den, h⟩ := magnitude_of_finite hx h0
  rw [h.value, sfuRcp, if_neg h.num_pos.ne']
  refine roundsReal_of_near h.num_pos ?_ (h.neg_iff.trans inv_lt_zero.symm)
  have hexact : ((withNeg neg (den / num) : ℚ) : ℝ) = (codeValue 0 x : ℝ)⁻¹ := by
    rw [h.number_real, signed_cast]
    cases neg <;> simp [inv_neg]
  rw [hexact, sub_self, abs_zero]
  positivity

variable (hpos : 0 < codeValue 0 x)
include hpos

theorem sqrt_rounds : RoundsReal (Real.sqrt (codeValue 0 x)) (fF32.result .rn false false (sfuSqrt (fF32.value x))) := by
  obtain ⟨neg, num, den, h⟩ := magnitude_of_finite hx h0
  obtain rfl := h.not_neg hpos
  obtain ⟨k, m, hm, hk, hnear⟩ := sqrtVal_near h.den_pos (mul_lt h)
  rw [h.value, sfuSqrt, if_neg h.num_pos.ne', if_neg Bool.false_ne_true, hk, h.number_real]
  refine roundsReal_of_near hm ?_ (iff_of_false Bool.false_ne_true (Real.sqrt_nonneg _).not_gt)
  simpa [signed_cast] using hnear

theorem rsq_rounds : RoundsReal ((Real.sqrt (codeValue 0 x))⁻¹) (fF32.result .rn false false (sfuRsq (fF32.value x))) := by
  obtain ⟨neg, num, den, h⟩ := magnitude_of_finite hx h0
  obtain rfl := h.not_neg hpos
  obtain ⟨k, m, hm, hk, hnear⟩ := sqrtVal_near h.num_pos (Nat.mul_comm .. ▸ mul_lt h)
  rw [h.value, sfuRsq, if_neg h.num_pos.ne', if_neg Bool.false_ne_true, hk, h.number_real]
  refine roundsReal_of_near hm ?_ (iff_of_false Bool.false_ne_true (inv_nonneg.2 (Real.sqrt_nonneg _)).not_gt)
  rw [← Real.sqrt_inv]
  simpa [signed_cast] using hnear

end

end Sys2Proof.Laws.Roots

/-! ## Power series in fixed point (R113) -/

namespace Sys2Proof.Laws.FixedSeries
open Sys2Proof Sys2Proof.Machine Sys2Proof.Laws.Roots

/-! ### Terms computed in fixed point -/

/-- The terms of a series as whole numbers of fine units: each is the one before times `w`, over a whole number. -/
def termsOf (w : Nat) (c : Nat → Nat) (t : Nat) : Nat → Nat
  | 0 => t
  | k + 1 => termsOf w c t k * w / fixOne / c k

/-- The model's loop over a series leaves the sum of its terms. -/
theorem foldl_terms {α : Type} [AddCommMonoid α] (g : Nat → Nat → α) (w : Nat) (c : Nat → Nat) (t n : Nat) :
    (List.range n).foldl (fun (st : α × Nat) k => (st.1 + g k st.2, st.2 * w / fixOne / c k)) (0, t) =
      (∑ k ∈ Finset.range n, g k (termsOf w c t k), termsOf w c t n) := by
  induction n with
  | zero => rfl
  | succ n ih => rw [List.range_succ, List.foldl_append, ih, List.foldl_cons, List.foldl_nil, Finset.sum_range_succ, termsOf]

/-- A quotient of whole numbers and the exact one. -/
theorem div_bounds (a : Nat) {b : Nat} (hb : 0 < b) : ((a / b : Nat) : ℝ) ≤ a / b ∧ (a : ℝ) / b < (a / b : Nat) + 1 := by
  have hb' : (0 : ℝ) < b := Nat.cast_pos.2 hb
  refine ⟨Nat.cast_div_le, ?_⟩
  rw [div_lt_iff₀ hb']
  exact_mod_cast Nat.lt_mul_of_div_lt (Nat.lt_succ_self (a / b)) hb

/-- The exact terms of a series and those computed with a truncated factor: none is off by more than seven units. -/
structure Series (w : Nat) (c : Nat → Nat) (t : Nat) (ω : ℝ) (θ : Nat → ℝ) : Prop where
  first : θ 0 = t
  start : t ≤ fixOne
  next : ∀ k, θ (k + 1) = θ k * ω / c k
  divisor : ∀ k, 0 < c k
  low : (w : ℝ) ≤ fixOne * ω
  high : fixOne * ω ≤ w + 1
  small : ω ≤ 7 / 10

theorem Series.near {w : Nat} {c : Nat → Nat} {t : Nat} {ω : ℝ} {θ : Nat → ℝ} (h : Series w c t ω θ) (k : Nat) :
    (termsOf w c t k : ℝ) ≤ θ k ∧ θ k ≤ termsOf w c t k + 7 ∧ θ k ≤ fixOne := by
  have hU := fixOne_real
  have hω : 0 ≤ ω := by
    have := (Nat.cast_nonneg w).trans h.low
    exact nonneg_of_mul_nonneg_right this hU
  induction k with
  | zero =>
    rw [h.first, termsOf]
    exact ⟨le_rfl, by linarith, mod_cast h.start⟩
  | succ k ih =>
    obtain ⟨hlo, hhi, hle⟩ := ih
    have hc : (1 : ℝ) ≤ c k := Nat.one_le_cast.2 (h.divisor k)
    have hdiv := div_bounds (termsOf w c t k * w) (Nat.mul_pos fixOne_pos (h.divisor k))
    rw [← Nat.div_div_eq_div_mul] at hdiv
    rw [h.next, termsOf]
    generalize termsOf w c t k * w / fixOne / c k = T' at *
    push_cast at hdiv
    obtain ⟨h1, h2⟩ := hdiv
    have hw := h.low
    have hw' := h.high
    have hs := h.small
    have hT : (0 : ℝ) ≤ termsOf w c t k := Nat.cast_nonneg _
    generalize (termsOf w c t k : ℝ) = T at *
    generalize (fixOne : ℝ) = U at *
    generalize (c k : ℝ) = d at *
    have hd : 0 < d := one_pos.trans_le hc
    have hsplit : T * w / (U * d) = T * w / U / d := (div_div ..).symm
    rw [hsplit] at h1 h2
    have hexact : T * w / U ≤ θ k * ω := by
      rw [div_le_iff₀ hU]
      calc T * w ≤ θ k * (U * ω) := mul_le_mul hlo hw (Nat.cast_nonneg _) (hT.trans hlo)
        _ = θ k * ω * U := by ring
    have herr : θ k * ω ≤ T * w / U + 6 := by
      have hUω : ω ≤ (w + 1) / U := by rw [le_div_iff₀ hU]; linarith
      have hTU : T / U ≤ 1 := (div_le_one hU).2 (hlo.trans hle)
      calc θ k * ω ≤ (T + 7) * ω := by gcongr
        _ = T * ω + 7 * ω := by ring
        _ ≤ T * ((w + 1) / U) + 7 * (7 / 10) := by gcongr
        _ = T * w / U + T / U + 49 / 10 := by ring
        _ ≤ T * w / U + 6 := by linarith
    refine ⟨h1.trans (by gcongr), ?_, ?_⟩
    · calc θ k * ω / d ≤ (T * w / U + 6) / d := by gcongr
        _ = T * w / U / d + 6 / d := by ring
        _ ≤ T' + 1 + 6 := add_le_add h2.le (div_le_self (by norm_num) hc)
        _ = T' + 7 := by ring
    · have hnn : 0 ≤ θ k * ω := mul_nonneg (hT.trans hlo) hω
      exact (div_le_self hnn hc).trans ((mul_le_of_le_one_right (hT.trans hlo) (by linarith)).trans hle)

/-- Sums of computed and of exact terms, each with a factor of at most one. -/
theorem Series.sum_near {w : Nat} {c : Nat → Nat} {t : Nat} {ω : ℝ} {θ : Nat → ℝ} (h : Series w c t ω θ) {s : Nat → ℝ} (hs : ∀ k, |s k| ≤ 1) (n : Nat) :
    |∑ k ∈ Finset.range n, s k * termsOf w c t k - ∑ k ∈ Finset.range n, s k * θ k| ≤ 7 * n := by
  rw [← Finset.sum_sub_distrib]
  refine (Finset.abs_sum_le_sum_abs _ _).trans ?_
  calc ∑ k ∈ Finset.range n, |s k * termsOf w c t k - s k * θ k| ≤ ∑ _k ∈ Finset.range n, (7 : ℝ) := by
        refine Finset.sum_le_sum fun k _ => ?_
        obtain ⟨hlo, hhi, -⟩ := h.near k
        rw [← mul_sub, abs_mul]
        exact (mul_le_of_le_one_left (abs_nonneg _) (hs k)).trans (abs_le.2 ⟨by linarith, by linarith⟩)
    _ = 7 * n := by rw [Finset.sum_const, Finset.card_range, nsmul_eq_mul, mul_comm]

/-- A series whose terms fall geometrically, cut off: the rest in fine units. -/
theorem tail_le {f : Nat → ℝ} {S C r : ℝ} (hS : HasSum f S) (hr : r < 1) (hf : ∀ k, |f k| ≤ C * r ^ k) (n : Nat)
    (hsmall : fixOne * (C * r ^ n / (1 - r)) ≤ 1) : |∑ k ∈ Finset.range n, fixOne * f k - fixOne * S| ≤ 1 := by
  rw [← Finset.mul_sum, ← mul_sub, abs_mul, abs_of_pos fixOne_real]
  exact (mul_le_mul_of_nonneg_left (norm_sub_le_of_geometric_bound_of_hasSum hr hf hS n) fixOne_real.le).trans hsmall

/-! ### The exponential function, sine and cosine -/

theorem fixOne_eq : (fixOne : ℝ) = 64 ^ 96 := by
  rw [show fixOne = 64 ^ 96 by rw [fixOne, show (64 : Nat) = 2 ^ 6 from rfl, ← Nat.pow_mul]]
  rw [Nat.cast_pow, Nat.cast_ofNat]

/-- Factorials outgrow the powers of 64. -/
theorem pow_div_factorial_le {x : ℝ} (h0 : 0 ≤ x) (h1 : x ≤ 1) (m : Nat) : x ^ m / m.factorial ≤ 3 ^ 64 * (1 / 64) ^ m := by
  have hexp : Real.exp 64 ≤ 3 ^ 64 := by
    rw [show (64 : ℝ) = (64 : Nat) * 1 by norm_num, Real.exp_nat_mul]
    exact pow_le_pow_left₀ (Real.exp_pos 1).le (Real.exp_one_lt_d9.le.trans (by norm_num)) 64
  have hterm : (64 * x) ^ m / m.factorial ≤ 3 ^ 64 :=
    (Real.pow_div_factorial_le_exp _ (by positivity) m).trans ((Real.exp_le_exp.2 (by linarith)).trans hexp)
  calc x ^ m / m.factorial = (64 * x) ^ m / m.factorial * (1 / 64) ^ m := by rw [mul_pow, one_div, inv_pow]; field_simp
    _ ≤ 3 ^ 64 * (1 / 64) ^ m := by gcongr

/-- The model's series of exp at z / 2^576. -/
def expSeries (z : Nat) : Nat :=
  ((List.range 120).foldl (fun (st : Nat × Nat) k => (st.1 + st.2, st.2 * z / fixOne / (k + 1))) (0, fixOne)).1

theorem exp2Frac_eq (f : Nat) : exp2Frac f = expSeries (f * ln2Fix / fixOne) := rfl

theorem expSeries_eq (z : Nat) : expSeries z = ∑ k ∈ Finset.range 120, termsOf z (· + 1) fixOne k := by
  rw [expSeries, foldl_terms (α := Nat) (fun _ t => t) z (· + 1) fixOne 120]

theorem expSeries_near {z : Nat} (hz : (z : ℝ) / fixOne ≤ 7 / 10) : |(expSeries z : ℝ) - fixOne * Real.exp (z / fixOne)| ≤ 4096 := by
  have hU := fixOne_real
  have hx0 : 0 ≤ (z : ℝ) / fixOne := div_nonneg (Nat.cast_nonneg _) hU.le
  generalize hx : (z : ℝ) / fixOne = x at *
  have hzx : (z : ℝ) = fixOne * x := by rw [← hx]; field_simp
  have hseries : Series z (· + 1) fixOne x fun k => fixOne * (x ^ k / k.factorial) :=
    { first := by rw [pow_zero, Nat.factorial_zero, Nat.cast_one, div_one, mul_one]
      start := le_rfl
      next := fun k => by
        rw [pow_succ, Nat.factorial_succ]
        push_cast
        field_simp
      divisor := fun k => Nat.succ_pos k
      low := hzx.le
      high := by linarith
      small := hz }
  have hsum := hseries.sum_near (s := fun _ => 1) (fun _ => by simp) 120
  have htail := tail_le (NormedSpace.expSeries_div_hasSum_exp x) (C := 3 ^ 64) (r := 1 / 64) (by norm_num)
    (fun k => by rw [abs_of_nonneg (by positivity)]; exact pow_div_factorial_le hx0 (by linarith) k) 120 (by rw [fixOne_eq]; norm_num)
  rw [← Real.exp_eq_exp_ℝ] at htail
  simp only [one_mul] at hsum
  rw [expSeries_eq, Nat.cast_sum]
  calc _ ≤ _ := abs_sub_le _ (∑ k ∈ Finset.range 120, fixOne * (x ^ k / k.factorial)) _
    _ ≤ 7 * (120 : Nat) + 1 := add_le_add hsum htail
    _ ≤ 4096 := by norm_num

/-- The sign of a term of an alternating series. -/
theorem alternating_eq (w : Nat) (c : Nat → Nat) (t n : Nat) :
    ((∑ k ∈ Finset.range n, (if k % 2 = 0 then (termsOf w c t k : Int) else -(termsOf w c t k : Int)) : Int) : ℝ) =
      ∑ k ∈ Finset.range n, (-1 : ℝ) ^ k * termsOf w c t k := by
  rw [Int.cast_sum]
  refine Finset.sum_congr rfl fun k _ => ?_
  rcases Nat.mod_two_eq_zero_or_one k with h | h
  · rw [if_pos h, (Nat.even_iff.2 h).neg_one_pow, one_mul, Int.cast_natCast]
  · rw [if_neg (by omega), (Nat.odd_iff.2 h).neg_one_pow, neg_one_mul, Int.cast_neg, Int.cast_natCast]

/-- Cutting a sum off at zero moves it no farther from a number that is not negative. -/
theorem toNat_near {s : Int} {y e : ℝ} (hy : 0 ≤ y) (h : |(s : ℝ) - y| ≤ e) : |(s.toNat : ℝ) - y| ≤ e := by
  rcases le_total 0 s with hs | hs
  · rw [show (s.toNat : ℝ) = ((s.toNat : Int) : ℝ) from (Int.cast_natCast _).symm, Int.toNat_of_nonneg hs]
    exact h
  · have hs' : (s : ℝ) ≤ 0 := mod_cast hs
    rw [Int.toNat_of_nonpos hs, Nat.cast_zero, zero_sub, abs_neg, abs_of_nonneg hy]
    linarith [(abs_le.1 h).1]

/-- An alternating series computed in fixed point, and its sum. -/
theorem alternating_near {w : Nat} {c : Nat → Nat} {t : Nat} {ω x : ℝ} {p : Nat → Nat} {S : ℝ} (h0 : 0 ≤ x) (h1 : x ≤ 1)
    (h : Series w c t ω fun k => fixOne * (x ^ p k / (p k).factorial)) (hp : ∀ k, 2 * k ≤ p k)
    (hS : HasSum (fun k => (-1 : ℝ) ^ k * x ^ p k / (p k).factorial) S) (hpos : 0 ≤ S) :
    |(((∑ k ∈ Finset.range 60, (if k % 2 = 0 then (termsOf w c t k : Int) else -(termsOf w c t k : Int)) : Int).toNat : Nat) : ℝ) - fixOne * S| ≤ 4096 := by
  refine toNat_near (mul_nonneg fixOne_real.le hpos) ?_
  have hsum := h.sum_near (s := fun k => (-1 : ℝ) ^ k) (fun k => by rw [abs_pow, abs_neg, abs_one, one_pow]) 60
  have hterm : ∀ k, |(-1 : ℝ) ^ k * x ^ p k / (p k).factorial| ≤ 3 ^ 64 * (1 / 4096) ^ k := fun k => by
    rw [mul_div_assoc, abs_mul, abs_pow, abs_neg, abs_one, one_pow, one_mul, abs_of_nonneg (by positivity)]
    calc x ^ p k / (p k).factorial ≤ 3 ^ 64 * (1 / 64) ^ p k := pow_div_factorial_le h0 h1 _
      _ ≤ 3 ^ 64 * (1 / 64) ^ (2 * k) := mul_le_mul_of_nonneg_left (pow_le_pow_of_le_one (by norm_num) (by norm_num) (hp k)) (by norm_num)
      _ = 3 ^ 64 * (1 / 4096) ^ k := by rw [pow_mul]; norm_num
  have htail := tail_le hS (by norm_num) hterm 60 (by rw [fixOne_eq]; norm_num)
  have hsame : ∑ k ∈ Finset.range 60, (-1 : ℝ) ^ k * (fixOne * (x ^ p k / (p k).factorial)) =
      ∑ k ∈ Finset.range 60, fixOne * ((-1 : ℝ) ^ k * x ^ p k / (p k).factorial) := Finset.sum_congr rfl fun k _ => by ring
  rw [hsame] at hsum
  rw [alternating_eq]
  calc _ ≤ _ := abs_sub_le _ (∑ k ∈ Finset.range 60, fixOne * ((-1 : ℝ) ^ k * x ^ p k / (p k).factorial)) _
    _ ≤ 7 * (60 : Nat) + 1 := add_le_add hsum htail
    _ ≤ 4096 := by norm_num

/-- The truncated square of a fixed-point number. -/
theorem square_bounds (r : Nat) : ((r * r / fixOne : Nat) : ℝ) ≤ fixOne * ((r : ℝ) / fixOne) ^ 2 ∧
    fixOne * ((r : ℝ) / fixOne) ^ 2 ≤ (r * r / fixOne : Nat) + 1 := by
  have hU := fixOne_real
  obtain ⟨hlo, hhi⟩ := div_bounds (r * r) fixOne_pos
  have hsq : (fixOne : ℝ) * ((r : ℝ) / fixOne) ^ 2 = (r * r : Nat) / fixOne := by rw [Nat.cast_mul]; field_simp
  rw [hsq]
  exact ⟨hlo, hhi.le⟩

section
variable {r : Nat} (hr : (r : ℝ) / fixOne ≤ 4 / 5)
include hr

theorem sinFix_near : |(sinFix r : ℝ) - fixOne * Real.sin (r / fixOne)| ≤ 4096 := by
  have hU := fixOne_real
  have h0 : 0 ≤ (r : ℝ) / fixOne := div_nonneg (Nat.cast_nonneg _) hU.le
  obtain ⟨hlow, hhigh⟩ := square_bounds r
  have hfirst : (fixOne : ℝ) * ((r : ℝ) / fixOne) = r := by field_simp
  rw [sinFix, foldl_terms (α := Int) (fun k t => if k % 2 = 0 then (t : Int) else -(t : Int)) (r * r / fixOne) (fun k => (2 * k + 2) * (2 * k + 3)) r 60]
  have hle : r ≤ fixOne := by
    have : (r : ℝ) ≤ fixOne := (div_le_one hU).1 (hr.trans (by norm_num))
    exact_mod_cast this
  generalize (r : ℝ) / fixOne = x at *
  refine alternating_near (ω := x ^ 2) (p := fun k => 2 * k + 1) h0 (by linarith) ?_ (fun k => Nat.le_succ _) (Real.hasSum_sin x)
    (Real.sin_nonneg_of_nonneg_of_le_pi h0 (by linarith [Real.pi_gt_three]))
  exact
    { first := by rw [Nat.mul_zero, Nat.zero_add, pow_one, Nat.factorial_one, Nat.cast_one, div_one, hfirst]
      start := hle
      next := fun k => by
        rw [show 2 * (k + 1) + 1 = 2 * k + 1 + 1 + 1 by ring, Nat.factorial_succ, Nat.factorial_succ, pow_succ, pow_succ]
        push_cast
        field_simp
        ring
      divisor := fun k => Nat.mul_pos (Nat.succ_pos _) (Nat.succ_pos _)
      low := hlow
      high := hhigh
      small := (pow_le_pow_left₀ h0 hr 2).trans (by norm_num) }

theorem cosFix_near : |(cosFix r : ℝ) - fixOne * Real.cos (r / fixOne)| ≤ 4096 := by
  have hU := fixOne_real
  have h0 : 0 ≤ (r : ℝ) / fixOne := div_nonneg (Nat.cast_nonneg _) hU.le
  obtain ⟨hlow, hhigh⟩ := square_bounds r
  rw [cosFix, foldl_terms (α := Int) (fun k t => if k % 2 = 0 then (t : Int) else -(t : Int)) (r * r / fixOne) (fun k => (2 * k + 1) * (2 * k + 2)) fixOne 60]
  generalize (r : ℝ) / fixOne = x at *
  refine alternating_near (ω := x ^ 2) (p := fun k => 2 * k) h0 (by linarith) ?_ (fun k => le_rfl) (Real.hasSum_cos x)
    (Real.cos_nonneg_of_neg_pi_div_two_le_of_le (by linarith [Real.pi_gt_three]) (by linarith [Real.pi_gt_three]))
  exact
    { first := by rw [Nat.mul_zero, pow_zero, Nat.factorial_zero, Nat.cast_one, div_one, mul_one]
      start := le_rfl
      next := fun k => by
        rw [show 2 * (k + 1) = 2 * k + 1 + 1 by ring, Nat.factorial_succ, Nat.factorial_succ, pow_succ, pow_succ]
        push_cast
        field_simp
        ring
      divisor := fun k => Nat.mul_pos (Nat.succ_pos _) (Nat.succ_pos _)
      low := hlow
      high := hhigh
      small := (pow_le_pow_left₀ h0 hr 2).trans (by norm_num) }

end

/-! ### The logarithm -/

theorem atanhFix_eq (z : Nat) :
    atanhFix z = ∑ k ∈ Finset.range 200, termsOf (z * z / fixOne) (fun _ => 1) z k / (2 * k + 1) := by
  have h := foldl_terms (α := Nat) (fun k t => t / (2 * k + 1)) (z * z / fixOne) (fun _ => 1) z 200
  simp only [Nat.div_one] at h
  rw [atanhFix, h]

/-- The truncated quotients of a sum's terms. -/
theorem sum_div_near (T : Nat → Nat) (n : Nat) :
    |((∑ k ∈ Finset.range n, T k / (2 * k + 1) : Nat) : ℝ) - ∑ k ∈ Finset.range n, 1 / (2 * k + 1) * (T k : ℝ)| ≤ n := by
  rw [Nat.cast_sum, ← Finset.sum_sub_distrib]
  refine (Finset.abs_sum_le_sum_abs _ _).trans ?_
  calc _ ≤ ∑ _k ∈ Finset.range n, (1 : ℝ) := Finset.sum_le_sum fun k _ => by
        obtain ⟨hlo, hhi⟩ := div_bounds (T k) (Nat.succ_pos (2 * k))
        push_cast at hlo hhi
        rw [one_div_mul_eq_div]
        exact abs_le.2 ⟨by linarith, by linarith⟩
    _ = n := by rw [Finset.sum_const, Finset.card_range, nsmul_eq_mul, mul_one]

theorem atanhFix_near {z : Nat} (hz : (z : ℝ) / fixOne ≤ 1 / 3) :
    |2 * (atanhFix z : ℝ) - fixOne * (Real.log (1 + z / fixOne) - Real.log (1 - z / fixOne))| ≤ 4096 := by
  have hU := fixOne_real
  have h0 : 0 ≤ (z : ℝ) / fixOne := div_nonneg (Nat.cast_nonneg _) hU.le
  obtain ⟨hlow, hhigh⟩ := square_bounds z
  have hfirst : (fixOne : ℝ) * ((z : ℝ) / fixOne) = z := by field_simp
  have hle : z ≤ fixOne := by
    have : (z : ℝ) ≤ fixOne := (div_le_one hU).1 (hz.trans (by norm_num))
    exact_mod_cast this
  rw [atanhFix_eq]
  generalize (z : ℝ) / fixOne = x at *
  have hseries : Series (z * z / fixOne) (fun _ => 1) z (x ^ 2) fun k => fixOne * x ^ (2 * k + 1) :=
    { first := by rw [Nat.mul_zero, Nat.zero_add, pow_one, hfirst]
      start := hle
      next := fun k => by rw [Nat.cast_one, div_one]; ring
      divisor := fun _ => Nat.one_pos
      low := hlow
      high := hhigh
      small := (pow_le_pow_left₀ h0 hz 2).trans (by norm_num) }
  have hs : ∀ k : Nat, (1 : ℝ) ≤ 2 * k + 1 := fun k => by linarith [(Nat.cast_nonneg k : (0 : ℝ) ≤ k)]
  have hdiv := sum_div_near (termsOf (z * z / fixOne) (fun _ => 1) z) 200
  have hsum := hseries.sum_near (s := fun k => 1 / (2 * k + 1))
    (fun k => by rw [abs_of_pos (one_div_pos.2 (one_pos.trans_le (hs k)))]; exact (div_le_one (one_pos.trans_le (hs k))).2 (hs k)) 200
  have hterm : ∀ k : Nat, |2 * (1 / (2 * (k : ℝ) + 1)) * x ^ (2 * k + 1)| ≤ 1 * (1 / 9) ^ k := fun k => by
    have hle1 : 1 / (2 * (k : ℝ) + 1) ≤ 1 := (div_le_one (one_pos.trans_le (hs k))).2 (hs k)
    have hnn : 0 ≤ 1 / (2 * (k : ℝ) + 1) := (one_div_pos.2 (one_pos.trans_le (hs k))).le
    have hpow : x ^ (2 * k + 1) ≤ (1 / 3) ^ (2 * k + 1) := pow_le_pow_left₀ h0 hz _
    rw [abs_of_nonneg (mul_nonneg (mul_nonneg zero_le_two hnn) (pow_nonneg h0 _))]
    calc 2 * (1 / (2 * (k : ℝ) + 1)) * x ^ (2 * k + 1) ≤ 2 * 1 * (1 / 3) ^ (2 * k + 1) := by gcongr
      _ = 2 / 3 * (1 / 9) ^ k := by rw [pow_succ, pow_mul]; norm_num; ring
      _ ≤ 1 * (1 / 9) ^ k := by gcongr; norm_num
  have htail := tail_le (Real.hasSum_log_sub_log_of_abs_lt_one (by rw [abs_of_nonneg h0]; linarith)) (by norm_num) hterm 200 (by rw [fixOne_eq]; norm_num)
  have hsame : ∑ k ∈ Finset.range 200, fixOne * (2 * (1 / (2 * (k : ℝ) + 1)) * x ^ (2 * k + 1)) =
      2 * ∑ k ∈ Finset.range 200, 1 / (2 * (k : ℝ) + 1) * (fixOne * x ^ (2 * k + 1)) := by
    rw [Finset.mul_sum]
    exact Finset.sum_congr rfl fun k _ => by ring
  rw [hsame] at htail
  generalize Real.log (1 + x) - Real.log (1 - x) = L at *
  rw [abs_le] at hdiv hsum htail ⊢
  push_cast at hdiv hsum htail ⊢
  constructor <;> linarith [hdiv.1, hdiv.2, hsum.1, hsum.2, htail.1, htail.2]

end Sys2Proof.Laws.FixedSeries

/-! ## Fine units and the fixed-point constants (R113) -/

namespace Sys2Proof.Laws.FixedConstants
open Sys2Proof Sys2Proof.Machine Sys2Proof.Claims Sys2Proof.Laws.Rounding Sys2Proof.Laws.DotProducts
open Sys2Proof.Laws.Roots Sys2Proof.Laws.FixedSeries

/-- An error of up to 2^175 fine units is within half the margin. -/
theorem units_le {e : ℝ} (h : e ≤ 2 ^ 175) : e / fixOne ≤ 2 ^ (-401 : ℤ) := by
  have hU : (fixOne : ℝ) = 2 ^ (576 : ℤ) := by rw [fixOne, Nat.cast_pow, Nat.cast_two]; exact (zpow_natCast ..).symm
  rw [div_le_iff₀ fixOne_real, hU, ← zpow_add₀ two_ne_zero]
  exact h.trans_eq (zpow_natCast ..).symm

theorem units_le_one {e : ℝ} (h : e ≤ 2 ^ 175) : e / fixOne ≤ 1 := (units_le h).trans (zpow_le_one_of_nonpos₀ one_le_two (by norm_num))

/-- A bound in fine units, as one by a power of two. -/
theorem units_le_inv_pow {k : Nat} (hk : k ≤ 401) {e : ℝ} (h : e ≤ 2 ^ 175) : e / fixOne ≤ 1 / 2 ^ k := by
  refine (units_le h).trans ?_
  rw [one_div, ← zpow_natCast, ← zpow_neg]
  exact zpow_le_zpow_right₀ one_le_two (by omega)

/-- A bound in fine units. -/
theorem abs_le_units {a e : ℝ} (h : |fixOne * a| ≤ e) : |a| ≤ e / fixOne := by
  rwa [abs_mul, abs_of_pos fixOne_real, mul_comm, ← le_div_iff₀ fixOne_real] at h

theorem abs_units_le {a e : ℝ} (h : |a| ≤ e / fixOne) : |fixOne * a| ≤ e := by
  rwa [abs_mul, abs_of_pos fixOne_real, mul_comm, ← le_div_iff₀ fixOne_real]

/-! ### The middle of an interval of one unit -/

/-- The number that a whole number of fine units and a half is. -/
noncomputable def middle (k : Nat) : ℝ := (k + 1 / 2) / fixOne

theorem exactVal_between (neg : Bool) (k : Nat) : exactVal (between neg k) = .num neg ((2 * k + 1 : Nat) / (2 * fixOne : Nat)) ∧ Proper (between neg k) :=
  ⟨rfl, Nat.mul_pos Nat.two_pos fixOne_pos⟩

theorem middle_eq (k : Nat) : (((2 * k + 1 : Nat) / (2 * fixOne : Nat) : ℚ) : ℝ) = middle k := by
  have hU := fixOne_real
  rw [middle, Nat.cast_mul 2 fixOne]
  push_cast
  field_simp

theorem middle_near {k : Nat} {y e : ℝ} (h : |(k : ℝ) - fixOne * y| ≤ e) : |y - middle k| ≤ (e + 1) / fixOne := by
  have hU := fixOne_real
  refine abs_le_units ?_
  have hunits : fixOne * (y - middle k) = -(k - fixOne * y) - 1 / 2 := by
    rw [middle]
    field_simp
    ring
  obtain ⟨h1, h2⟩ := abs_le.1 h
  rw [hunits]
  exact abs_le.2 ⟨by linarith, by linarith⟩

/-! ### ln 2 -/

/-- Exponentials lie at least as far apart as their arguments, when these are not negative. -/
theorem abs_sub_le_exp {a b : ℝ} (ha : 0 ≤ a) (hb : 0 ≤ b) : |a - b| ≤ |Real.exp a - Real.exp b| := by
  wlog h : b ≤ a generalizing a b
  · rw [abs_sub_comm, abs_sub_comm (Real.exp a)]
    exact this hb ha (le_of_not_ge h)
  · rw [abs_of_nonneg (sub_nonneg.2 h), abs_of_nonneg (sub_nonneg.2 (Real.exp_le_exp.2 h))]
    have hone := Real.one_le_exp hb
    have hstep := Real.add_one_le_exp (a - b)
    have hsplit : Real.exp a = Real.exp b * Real.exp (a - b) := by rw [← Real.exp_add, add_sub_cancel]
    nlinarith [Real.exp_pos b]

/-- Exponentials up to a bound lie at most that bound times as far apart as their arguments. -/
theorem abs_exp_sub_le_mul {a b M : ℝ} (ha : Real.exp a ≤ M) (hb : Real.exp b ≤ M) : |Real.exp a - Real.exp b| ≤ M * |a - b| := by
  wlog h : b ≤ a generalizing a b
  · rw [abs_sub_comm, abs_sub_comm a]
    exact this hb ha (le_of_not_ge h)
  · rw [abs_of_nonneg (sub_nonneg.2 h), abs_of_nonneg (sub_nonneg.2 (Real.exp_le_exp.2 h))]
    have hstep := Real.add_one_le_exp (b - a)
    have hsplit : Real.exp b = Real.exp a * Real.exp (b - a) := by rw [← Real.exp_add, add_sub_cancel]
    have hpos := Real.exp_pos a
    nlinarith

theorem exp_one_le : Real.exp 1 ≤ 3 := Real.exp_one_lt_d9.le.trans (by norm_num)

/-- Exponentials of arguments up to 1 lie at most three times as far apart. -/
theorem abs_exp_sub_le {a b : ℝ} (ha : a ≤ 1) (hb : b ≤ 1) : |Real.exp a - Real.exp b| ≤ 3 * |a - b| :=
  abs_exp_sub_le_mul ((Real.exp_le_exp.2 ha).trans exp_one_le) ((Real.exp_le_exp.2 hb).trans exp_one_le)

theorem expSeries_ln2 : 2 * fixOne ≤ expSeries ln2Fix + 4096 ∧ expSeries ln2Fix ≤ 2 * fixOne + 4096 ∧ 10 * ln2Fix ≤ 7 * fixOne ∧ fixOne ≤ 2 * ln2Fix := by
  decide +kernel

theorem ln2Fix_small : (ln2Fix : ℝ) / fixOne ≤ 7 / 10 := by
  have h : (10 * ln2Fix : ℝ) ≤ 7 * fixOne := mod_cast expSeries_ln2.2.2.1
  rw [div_le_iff₀ fixOne_real]
  linarith

theorem ln2Fix_pos : 0 < ln2Fix := by decide +kernel

theorem half_le_ln2Fix : (1 : ℝ) / 2 ≤ ln2Fix / fixOne := by
  have h : (fixOne : ℝ) ≤ 2 * ln2Fix := mod_cast expSeries_ln2.2.2.2
  rw [le_div_iff₀ fixOne_real]
  linarith

theorem ln2Fix_near : |(ln2Fix : ℝ) / fixOne - Real.log 2| ≤ 8192 / fixOne := by
  have hU := fixOne_real
  have hnear := abs_le.1 (expSeries_near ln2Fix_small)
  obtain ⟨h1, h2, -⟩ := expSeries_ln2
  have h1' : (2 * fixOne : ℝ) ≤ expSeries ln2Fix + 4096 := mod_cast h1
  have h2' : (expSeries ln2Fix : ℝ) ≤ 2 * fixOne + 4096 := mod_cast h2
  refine (abs_sub_le_exp (div_nonneg (Nat.cast_nonneg _) hU.le) (Real.log_nonneg one_le_two)).trans ?_
  rw [Real.exp_log two_pos]
  generalize Real.exp (ln2Fix / fixOne) = e at *
  exact abs_le_units (abs_le.2 ⟨by linarith, by linarith⟩)

theorem ln2Fix_units : |fixOne * (Real.log 2 - ln2Fix / fixOne)| ≤ 8192 := by
  rw [← neg_sub, mul_neg, abs_neg]
  exact abs_units_le ln2Fix_near

/-- A number of fine units divided by ln 2, multiplied back. -/
theorem div_ln2_bounds (a : Nat) : ((a * fixOne / ln2Fix : Nat) : ℝ) * (ln2Fix / fixOne) ≤ a ∧ (a : ℝ) ≤ ((a * fixOne / ln2Fix : Nat) + 1) * (ln2Fix / fixOne) := by
  have hU := fixOne_real
  have hln : (0 : ℝ) < ln2Fix := Nat.cast_pos.2 ln2Fix_pos
  obtain ⟨hlo, hhi⟩ := div_bounds (a * fixOne) ln2Fix_pos
  rw [Nat.cast_mul, le_div_iff₀ hln] at hlo
  rw [Nat.cast_mul, div_lt_iff₀ hln] at hhi
  rw [← mul_div_assoc, ← mul_div_assoc, div_le_iff₀ hU, le_div_iff₀ hU]
  exact ⟨hlo, hhi.le⟩

/-! ### π -/

/-- A quarter of π in fine units. -/
def quarterPi : Nat := piFix / 2 / 2 ^ 161

theorem sinFix_quarterPi : sinFix quarterPi ≤ cosFix quarterPi + 4096 ∧ cosFix quarterPi ≤ sinFix quarterPi + 4096 ∧ 5 * quarterPi ≤ 4 * fixOne := by
  decide +kernel

theorem quarterPi_near : |(quarterPi : ℝ) / fixOne - Real.pi / 4| ≤ 2 ^ 15 / fixOne := by
  have hU := fixOne_real
  obtain ⟨h1, h2, h3⟩ := sinFix_quarterPi
  have h1' : (sinFix quarterPi : ℝ) ≤ cosFix quarterPi + 4096 := mod_cast h1
  have h2' : (cosFix quarterPi : ℝ) ≤ sinFix quarterPi + 4096 := mod_cast h2
  have h3' : (5 * quarterPi : ℝ) ≤ 4 * fixOne := mod_cast h3
  have hsmall : (quarterPi : ℝ) / fixOne ≤ 4 / 5 := by rw [div_le_iff₀ hU]; linarith
  have h0 : 0 ≤ (quarterPi : ℝ) / fixOne := div_nonneg (Nat.cast_nonneg _) hU.le
  have hsin := abs_le.1 (sinFix_near hsmall)
  have hcos := abs_le.1 (cosFix_near hsmall)
  generalize (quarterPi : ℝ) / fixOne = α at *
  have hpi := Real.pi_gt_three
  have hpi' := Real.pi_lt_d2
  have hangle : Real.sin (α - Real.pi / 4) = (Real.sin α - Real.cos α) * (Real.sqrt 2 / 2) := by
    rw [Real.sin_sub, Real.cos_pi_div_four, Real.sin_pi_div_four]
    ring
  have hroot : Real.sqrt 2 / 2 ≤ 1 := by
    have : Real.sqrt 2 ≤ 2 := Real.sqrt_le_iff.2 ⟨by norm_num, by norm_num⟩
    linarith
  have hdiff : |Real.sin (α - Real.pi / 4)| ≤ 12288 / fixOne := by
    rw [hangle, abs_mul, abs_of_nonneg (by positivity : 0 ≤ Real.sqrt 2 / 2)]
    refine (mul_le_of_le_one_right (abs_nonneg _) hroot).trans ?_
    exact abs_le_units (abs_le.2 ⟨by linarith, by linarith⟩)
  have hjordan := Real.mul_abs_le_abs_sin (x := α - Real.pi / 4) (abs_le.2 ⟨by linarith, by linarith⟩)
  have hbound : |α - Real.pi / 4| ≤ Real.pi / 2 * (12288 / fixOne) := by
    have h := mul_le_mul_of_nonneg_left (hjordan.trans hdiff) (by positivity : 0 ≤ Real.pi / 2)
    rwa [← mul_assoc, show Real.pi / 2 * (2 / Real.pi) = 1 by field_simp, one_mul] at h
  refine hbound.trans ?_
  rw [← mul_div_assoc]
  exact div_le_div_of_nonneg_right (by linarith) hU.le

/-- Half of π by the model's constant, which counts units of 2^-736. -/
noncomputable def halfPi : ℝ := (piFix / 2 : Nat) / (fixOne * 2 ^ 160)

theorem halfPi_near : |halfPi - Real.pi / 2| ≤ 2 ^ 17 / fixOne := by
  have hU := fixOne_real
  obtain ⟨hlo, hhi⟩ := div_bounds (piFix / 2) (Nat.two_pow_pos 161)
  have hquarter : ((piFix / 2 / 2 ^ 161 : Nat) : ℝ) = quarterPi := rfl
  rw [hquarter] at hlo hhi
  have hnear := abs_le.1 quarterPi_near
  have hhalf : halfPi = 2 * (((piFix / 2 : Nat) : ℝ) / (2 ^ 161 : Nat) / fixOne) := by
    rw [halfPi]
    push_cast
    field_simp
    norm_num
  have hlo' : (quarterPi : ℝ) / fixOne ≤ ((piFix / 2 : Nat) : ℝ) / (2 ^ 161 : Nat) / fixOne := div_le_div_of_nonneg_right hlo hU.le
  have hhi' : ((piFix / 2 : Nat) : ℝ) / (2 ^ 161 : Nat) / fixOne ≤ (quarterPi : ℝ) / fixOne + 1 / fixOne := by
    rw [← add_div]
    exact div_le_div_of_nonneg_right hhi.le hU.le
  have hsum : (2 : ℝ) ^ 17 / fixOne = 2 * (2 ^ 15 / fixOne) + 2 * (1 / fixOne) + (2 ^ 17 - 2 * 2 ^ 15 - 2) * (1 / fixOne) := by ring
  have hone : 0 < 1 / (fixOne : ℝ) := one_div_pos.2 hU
  have hrest : (0 : ℝ) ≤ (2 ^ 17 - 2 * 2 ^ 15 - 2) * (1 / fixOne) := mul_nonneg (by norm_num) hone.le
  rw [hhalf, hsum]
  exact abs_le.2 ⟨by linarith, by linarith⟩

end Sys2Proof.Laws.FixedConstants

/-! ## Powers of two (R113) -/

namespace Sys2Proof.Laws.PowersOfTwo
open Sys2Proof Sys2Proof.Machine Sys2Proof.Claims Sys2Proof.Laws.Rounding Sys2Proof.Laws.DotProducts
open Sys2Proof.Laws.RealRounding Sys2Proof.Laws.Roots Sys2Proof.Laws.FixedSeries Sys2Proof.Laws.FixedConstants

/-- 2^φ in fine units, from a truncated φ. -/
theorem exp2Frac_near {f : Nat} {φ : ℝ} (hφ : φ ≤ 1) (hlo : f ≤ fixOne * φ) (hhi : fixOne * φ ≤ f + 1) :
    |(exp2Frac f : ℝ) - fixOne * (2 : ℝ) ^ φ| ≤ 2 ^ 15 := by
  have hU := fixOne_real
  have hφ0 : 0 ≤ φ := nonneg_of_mul_nonneg_right ((Nat.cast_nonneg f).trans hlo) hU
  obtain ⟨hz1, hz2⟩ := div_bounds (f * ln2Fix) fixOne_pos
  have hln := abs_units_le ln2Fix_near
  have hsmall := ln2Fix_small
  have hln0 : 0 ≤ (ln2Fix : ℝ) / fixOne := div_nonneg (Nat.cast_nonneg _) hU.le
  have hprod : ((f * ln2Fix : Nat) : ℝ) / fixOne = f * (ln2Fix / fixOne) := by rw [Nat.cast_mul, mul_div_assoc]
  rw [hprod] at hz1 hz2
  rw [exp2Frac_eq]
  generalize f * ln2Fix / fixOne = z at *
  generalize (ln2Fix : ℝ) / fixOne = c at *
  have hlog0 := Real.log_nonneg (one_le_two (α := ℝ))
  have hlog1 : Real.log 2 ≤ 7 / 10 := Real.log_two_lt_d9.le.trans (by norm_num)
  rw [Real.rpow_def_of_pos two_pos]
  generalize Real.log 2 = l at *
  have hfU : (f : ℝ) ≤ fixOne := hlo.trans (mul_le_of_le_one_right hU.le hφ)
  have hz : (z : ℝ) / fixOne ≤ 7 / 10 := by
    rw [div_le_iff₀ hU]
    nlinarith [(Nat.cast_nonneg f : (0 : ℝ) ≤ f)]
  have harg : |(z : ℝ) / fixOne - l * φ| ≤ 8194 / fixOne := by
    refine abs_le_units ?_
    have hfirst : 0 ≤ (fixOne * φ - f) * c ∧ (fixOne * φ - f) * c ≤ 1 * (7 / 10) :=
      ⟨mul_nonneg (by linarith) hln0, mul_le_mul (by linarith) hsmall hln0 zero_le_one⟩
    have hsecond : |φ * (fixOne * (c - l))| ≤ 8192 := by
      rw [abs_mul, abs_of_nonneg hφ0]
      exact (mul_le_of_le_one_left (abs_nonneg _) hφ).trans hln
    have hsplit : fixOne * ((z : ℝ) / fixOne - l * φ) = (z - f * c) - (fixOne * φ - f) * c + φ * (fixOne * (c - l)) := by
      field_simp
      ring
    rw [hsplit]
    obtain ⟨h1, h2⟩ := abs_le.1 hsecond
    exact abs_le.2 ⟨by linarith [hfirst.2], by linarith [hfirst.1]⟩
  have hlφ : l * φ ≤ 1 := (mul_le_of_le_one_right hlog0 hφ).trans (by linarith)
  have hexp := (abs_exp_sub_le (a := z / fixOne) (b := l * φ) (by linarith) hlφ).trans (mul_le_mul_of_nonneg_left harg zero_le_three)
  have hexp' : |fixOne * Real.exp (z / fixOne) - fixOne * Real.exp (l * φ)| ≤ 24582 := by
    rw [← mul_sub, abs_mul, abs_of_pos hU]
    calc fixOne * |Real.exp (z / fixOne) - Real.exp (l * φ)| ≤ fixOne * (3 * (8194 / fixOne)) := mul_le_mul_of_nonneg_left hexp hU.le
      _ = 24582 := by field_simp; norm_num
  calc _ ≤ _ := abs_sub_le _ (fixOne * Real.exp (z / fixOne)) _
    _ ≤ 4096 + 24582 := add_le_add (expSeries_near hz) hexp'
    _ ≤ 2 ^ 15 := by norm_num

/-- A series is at least its first term. -/
theorem le_sum_terms (w : Nat) (c : Nat → Nat) (t n : Nat) : t ≤ ∑ k ∈ Finset.range (n + 1), termsOf w c t k := by
  rw [Finset.sum_range_succ']
  exact Nat.le_add_left _ _

/-- The fixed-point power is at least 1. -/
theorem fixOne_le_exp2Frac (f : Nat) : fixOne ≤ exp2Frac f := by
  rw [exp2Frac_eq, expSeries_eq]
  exact le_sum_terms _ _ _ 119

/-! ### 2^x by its whole part and its rest -/

/-- 2^x is a power of two times a number from 1 on, that is 2 to the rest of x unless the whole part is out of range. -/
theorem exp2Val_spec {neg : Bool} {num den : Nat} (hd : 0 < den) {s t : Int} (hs : signedNum neg num = s) (ht : s / den = t) :
    ∃ β : ℚ, exactVal (exp2Val neg num den) = .num false (β * 2 ^ max (-600) (min 600 t)) ∧ Proper (exp2Val neg num den) ∧ 1 ≤ β ∧
      |(2 : ℝ) ^ (if t = max (-600) (min 600 t) then (s : ℝ) / den - t else 0) - β| ≤ 2 ^ 16 / fixOne := by
  have hU := fixOne_real
  have hd' : (0 : ℝ) < den := Nat.cast_pos.2 hd
  obtain ⟨r, hr⟩ : ∃ r : Nat, s % den = r := Int.eq_ofNat_of_zero_le (Int.emod_nonneg _ (by omega))
  have hrest : s - t * den = r := by rw [← hr, Int.emod_def, ht, mul_comm]
  have hrlt : r < den := by have := Int.emod_lt_of_pos s (by omega : (0 : Int) < den); omega
  have hX : (s : ℝ) / den - t = r / den := by
    have : (s : ℝ) - t * den = r := mod_cast hrest
    rw [← this]
    field_simp
  have hfrac : ((s - t * den) * fixOne / den).toNat = r * fixOne / den := by
    rw [hrest, ← Nat.cast_mul, ← Int.natCast_ediv, Int.toNat_natCast]
  generalize hx : max (-600) (min 600 t) = x
  have hval : exp2Val neg num den = if s % den = 0 then scaled false 1 x else
      (between false (exp2Frac (if t = x then r * fixOne / den else 0))).mul (scaled false 1 x) := by
    simp only [exp2Val, hs, ht, hx]
    by_cases htx : t = x
    · rw [if_pos htx, if_pos htx, ← htx, hfrac]
    · rw [if_neg htx, if_neg htx]
  obtain ⟨hscaled, hproper⟩ : exactVal (scaled false 1 x) = .num false (2 ^ x) ∧ Proper (scaled false 1 x) :=
    ⟨by rw [exactVal_scaled, Nat.cast_one, one_mul], proper_scaled ..⟩
  rw [hval, hX]
  by_cases hexact : s % den = 0
  · have hr0 : r = 0 := by omega
    rw [if_pos hexact]
    refine ⟨1, by rw [hscaled, one_mul], hproper, le_rfl, ?_⟩
    rw [hr0, Nat.cast_zero, zero_div, ite_self, Real.rpow_zero, Rat.cast_one, sub_self, abs_zero]
    exact div_nonneg (by norm_num) hU.le
  · rw [if_neg hexact]
    generalize hf : (if t = x then r * fixOne / den else 0) = f
    generalize hφ : (if t = x then (r : ℝ) / den else 0) = φ
    have hnear : |(exp2Frac f : ℝ) - fixOne * (2 : ℝ) ^ φ| ≤ 2 ^ 15 := by
      by_cases htx : t = x
      · rw [if_pos htx] at hf hφ
        obtain ⟨hlo, hhi⟩ := div_bounds (r * fixOne) hd
        have hunits : ((r * fixOne : Nat) : ℝ) / den = fixOne * φ := by
          rw [← hφ, Nat.cast_mul]
          ring
        rw [hf, hunits] at hlo hhi
        refine exp2Frac_near ?_ hlo hhi.le
        rw [← hφ, div_le_one hd']
        exact_mod_cast hrlt.le
      · rw [if_neg htx] at hf hφ
        subst hf hφ
        exact exp2Frac_near zero_le_one (by rw [mul_zero, Nat.cast_zero]) (by rw [mul_zero, Nat.cast_zero, zero_add]; exact zero_le_one)
    obtain ⟨hb, hbp⟩ := exactVal_between false (exp2Frac f)
    obtain ⟨hm, hmp⟩ := exactVal_mul hbp hproper
    rw [hb, hscaled] at hm
    refine ⟨_, hm, hmp, ?_, ?_⟩
    · rw [le_div_iff₀ (Nat.cast_pos.2 (Nat.mul_pos Nat.two_pos fixOne_pos)), one_mul, Nat.cast_le]
      have := fixOne_le_exp2Frac f
      omega
    · rw [middle_eq]
      refine (middle_near hnear).trans (div_le_div_of_nonneg_right (by norm_num) hU.le)

theorem ex2_rounds {x : Nat} (hx : finiteCode 0 x) (h0 : codeValue 0 x ≠ 0) :
    RoundsReal ((2 : ℝ) ^ (codeValue 0 x : ℝ)) (fF32.result .rn false false (sfuEx2 (fF32.value x))) := by
  obtain ⟨neg, num, den, h⟩ := magnitude_of_finite hx h0
  have hU := fixOne_real
  have hd' : (0 : ℝ) < den := Nat.cast_pos.2 h.den_pos
  rw [h.value, sfuEx2, h.number_signedNum]
  generalize ht : signedNum neg num / (den : Int) = t
  obtain ⟨β, he, hp, hβ, hnear⟩ := exp2Val_spec h.den_pos rfl ht
  have hβ' : (1 : ℝ) ≤ β := mod_cast hβ
  have htX : (t : ℝ) ≤ (signedNum neg num : ℝ) / den := by
    rw [le_div_iff₀ hd']
    exact_mod_cast ht ▸ Int.ediv_mul_le _ (by have := h.den_pos; omega)
  have hXt : (signedNum neg num : ℝ) / den < t + 1 := by
    rw [div_lt_iff₀ hd']
    exact_mod_cast ht ▸ Int.lt_ediv_add_one_mul_self _ (by have := h.den_pos; omega)
  generalize (signedNum neg num : ℝ) / den = X at *
  have hypos : (0 : ℝ) < 2 ^ X := Real.rpow_pos_of_pos two_pos X
  rcases lt_or_ge t 128 with hlt | hge
  · refine roundsReal_of_exactVal hp he ?_ (iff_of_false Bool.false_ne_true hypos.not_gt)
    rw [signed_cast, if_neg Bool.false_ne_true]
    rcases lt_or_ge t (-600) with hlow | hhigh
    · rw [show max (-600) (min 600 t) = -600 by omega] at *
      rw [if_neg (by omega), Real.rpow_zero] at hnear
      have hβ2 : (β : ℝ) ≤ 2 := by
        have h1 := hnear.trans (units_le_one (by norm_num))
        linarith [(abs_le.1 h1).1]
      have hsmall : (2 : ℝ) ^ X ≤ 2 ^ (-600 : ℤ) := by
        rw [← Real.rpow_intCast]
        refine Real.rpow_le_rpow_of_exponent_le one_le_two ?_
        have : (t : ℝ) + 1 ≤ (-600 : ℤ) := mod_cast hlow
        linarith
      have hunit : (0 : ℝ) < 2 ^ (-600 : ℤ) := zpow_pos two_pos _
      have hmargin : 2 * (2 : ℝ) ^ (-600 : ℤ) ≤ 2 ^ (-401 : ℤ) := by
        rw [← zpow_one_add₀ two_ne_zero]
        exact zpow_le_zpow_right₀ one_le_two (by norm_num)
      rw [Rat.cast_mul, Rat.cast_zpow, Rat.cast_ofNat]
      generalize (2 : ℝ) ^ (-600 : ℤ) = u at *
      refine (abs_le.2 ⟨?_, ?_⟩ : |_| ≤ 2 * u).trans hmargin
      · nlinarith
      · nlinarith
    · rw [show max (-600) (min 600 t) = t by omega] at *
      rw [if_pos rfl] at hnear
      have hsplit : (2 : ℝ) ^ X = 2 ^ t * 2 ^ (X - t) := by
        rw [← Real.rpow_intCast, ← Real.rpow_add two_pos, add_sub_cancel]
      have hpow : (2 : ℝ) ^ t ≤ 2 ^ 127 := by
        rw [← zpow_natCast]
        exact zpow_le_zpow_right₀ one_le_two (by omega)
      rw [Rat.cast_mul, Rat.cast_zpow, Rat.cast_ofNat, hsplit, mul_comm (β : ℝ), ← mul_sub, abs_mul, abs_of_pos (zpow_pos two_pos t)]
      calc (2 : ℝ) ^ t * |2 ^ (X - t) - (β : ℝ)| ≤ 2 ^ 127 * (2 ^ 16 / fixOne) :=
            mul_le_mul hpow hnear (abs_nonneg _) (by positivity)
        _ = 2 ^ 143 / fixOne := by rw [← mul_div_assoc, ← pow_add]
        _ ≤ 2 ^ (-401 : ℤ) := units_le (by norm_num)
  · refine roundsReal_of_exactVal_overflow hp he ?_ ?_
    · rw [← Real.rpow_natCast]
      refine Real.rpow_le_rpow_of_exponent_le one_le_two ?_
      have : ((128 : Int) : ℝ) ≤ t := Int.cast_le.2 hge
      push_cast at this ⊢
      linarith
    · have hpow : (2 : ℚ) ^ 128 ≤ 2 ^ max (-600) (min 600 t) := by
        rw [← zpow_natCast]
        exact zpow_le_zpow_right₀ one_le_two (by omega)
      exact hpow.trans (le_mul_of_one_le_left (zpow_pos two_pos _).le hβ)

end Sys2Proof.Laws.PowersOfTwo

/-! ## The hyperbolic tangent (R113) -/

namespace Sys2Proof.Laws.HyperbolicTangent
open Sys2Proof Sys2Proof.Machine Sys2Proof.Claims Sys2Proof.Laws.Rounding Sys2Proof.Laws.DotProducts Sys2Proof.Laws.FloatOps
open Sys2Proof.Laws.RealRounding Sys2Proof.Laws.Roots Sys2Proof.Laws.FixedSeries Sys2Proof.Laws.FixedConstants Sys2Proof.Laws.PowersOfTwo

/-! ### Results that round to 1 -/

/-- The codes next to that of 1. -/
theorem codeMag_near_one : codeMag 23 (-149) 0x3F7FFFFF = 1 - 1 / 2 ^ 24 ∧ codeMag 23 (-149) 0x3F800000 = 1 ∧
    codeMag 23 (-149) 0x3F800001 = 1 + 1 / 2 ^ 23 := by
  norm_num [codeMag]

/-- A code is 1 or lies apart from it. -/
theorem code_near_one (neg : Bool) (k : Nat) : ((withNeg neg (codeValue 0 k) : ℚ) : ℝ) = 1 ∨ (1 : ℝ) / 2 ^ 24 ≤ |((withNeg neg (codeValue 0 k) : ℚ) : ℝ) - 1| := by
  obtain ⟨hbelow, hone, habove⟩ := codeMag_near_one
  have hlow := codeValue_apart describes_f32 neg 0x3F7FFFFF k
  have hhigh := codeValue_apart describes_f32 neg 0x3F800000 k
  generalize withNeg neg (codeValue 0 k) = v at *
  have hlow' : v ≤ 1 - 1 / 2 ^ 24 ∨ 1 ≤ v := by rw [← hbelow, ← hone]; exact hlow
  have hhigh' : v ≤ 1 ∨ 1 + 1 / 2 ^ 23 ≤ v := by rw [← habove, ← hone]; exact hhigh
  rcases hlow' with h | h
  · right
    have hle : (v : ℝ) ≤ 1 - 1 / 2 ^ 24 := by rw [← Rat.cast_le (K := ℝ)] at h; push_cast at h; exact h
    exact le_abs.2 (.inr (by linarith))
  · rcases hhigh' with h' | h'
    · left
      exact_mod_cast le_antisymm h' h
    · right
      have hle : (1 : ℝ) + 1 / 2 ^ 23 ≤ v := by rw [← Rat.cast_le (K := ℝ)] at h'; push_cast at h'; exact h'
      have hstep : (1 : ℝ) / 2 ^ 24 ≤ 1 / 2 ^ 23 := by norm_num
      exact le_abs.2 (.inl (by linarith))

/-- A value and a number that both lie within 2^-26 of 1: the result is 1, and 1 is the nearest code to the number. -/
theorem roundsReal_near_one {neg : Bool} {num den : Nat} (hd : 0 < den) {y : ℝ} (hm : |(num : ℝ) / den - 1| ≤ 1 / 2 ^ 26) (hy : |y - 1| ≤ 1 / 2 ^ 26) :
    RoundsReal (if neg then -y else y) (fF32.result .rn false false (.fin neg num den)) := by
  have hm' : |(num / den : ℚ) - 1| ≤ 1 / 2 ^ 26 := by rw [← Rat.cast_le (K := ℝ)]; push_cast; exact hm
  have hsmall : (1 : ℝ) / 2 ^ 26 + 1 / 2 ^ 26 < 1 / 2 ^ 24 := by norm_num
  have hypos : 0 < y := by
    have : (1 : ℝ) / 2 ^ 26 < 1 := by norm_num
    linarith [(abs_le.1 hy).1]
  have hsign : neg = true ↔ (if neg then -y else y) < 0 := by
    cases neg with
    | true => simpa using hypos
    | false => simpa using hypos.le
  have hmag : (num / den : ℚ) ≤ 2 := by
    have : (1 : ℚ) / 2 ^ 26 ≤ 1 := by norm_num
    linarith [(abs_le.1 hm').2]
  rcases result_cases neg num hd with ⟨-, hch, hc⟩ | ⟨h, -⟩ | ⟨h, -⟩
  · generalize fF32.result .rn false false (.fin neg num den) = c at *
    have hone : codeValue 0 (fF32.signed neg 0x3F800000) = withNeg neg 1 := by
      rw [← codeMag_near_one.2.1]
      exact codeValue_signed describes_f32 neg (by decide)
    have hbest : |(num / den : ℚ) - withNeg neg (codeValue 0 c)| ≤ 1 / 2 ^ 26 := by
      rw [← abs_withNeg_sub]
      refine le_trans ?_ hm'
      rw [← withNeg_withNeg neg 1, ← hone, ← abs_withNeg_sub]
      rcases hch.2 _ (finite_signed describes_f32 neg (by decide : 0x3F800000 ≤ fF32.big)) with h | h
      · exact h.le
      · exact h.1.le
    have hbest' : |(num : ℝ) / den - ((withNeg neg (codeValue 0 c) : ℚ) : ℝ)| ≤ 1 / 2 ^ 26 := by rw [← Rat.cast_le (K := ℝ)] at hbest; push_cast at hbest; exact hbest
    have hcode : ((withNeg neg (codeValue 0 c) : ℚ) : ℝ) = 1 := by
      refine (code_near_one neg c).resolve_right (not_le.2 ?_)
      refine (abs_sub_le _ ((num : ℝ) / den) _).trans_lt ?_
      rw [abs_sub_comm]
      linarith
    have habs : |if neg then -y else y| = y := by cases neg <;> simp [hypos.le]
    refine .inl ⟨hch.1, ?_, hc.trans hsign, fun k hk => ?_⟩
    · have hy2 : y ≤ 2 := by
        have : (1 : ℝ) / 2 ^ 26 ≤ 1 := by norm_num
        linarith [(abs_le.1 hy).2]
      have hmargin : (0 : ℝ) < 2 ^ (-400 : ℤ) := zpow_pos two_pos _
      rw [habs]
      have hfar : (2 : ℝ) ≤ 2 ^ 128 - 2 ^ 103 := by norm_num
      linarith
    · have hmargin : (0 : ℝ) < 2 ^ (-400 : ℤ) := zpow_pos two_pos _
      rw [abs_ite_sub, abs_ite_sub, hcode]
      rcases code_near_one neg k with h | h
      · rw [h]
        linarith
      · have htri := abs_sub_le ((withNeg neg (codeValue 0 k) : ℚ) : ℝ) y 1
        rw [abs_sub_comm _ y] at htri
        linarith
  · norm_num at h
    linarith
  · norm_num at h
    linarith

/-! ### The tangent from a power of two -/

/-- The hyperbolic tangent by an exponential. -/
theorem tanh_eq (x : ℝ) : Real.tanh x = (Real.exp (2 * x) - 1) / (Real.exp (2 * x) + 1) := by
  have hpos := Real.exp_pos x
  rw [Real.tanh_eq_sinh_div_cosh, Real.sinh_eq, Real.cosh_eq, two_mul, Real.exp_add, Real.exp_neg]
  field_simp

theorem abs_ratio_sub_le {G g : ℝ} (hG : 1 ≤ G) (hg : 1 ≤ g) : |(G - 1) / (G + 1) - (g - 1) / (g + 1)| ≤ |G - g| := by
  have hdiff : (G - 1) / (G + 1) - (g - 1) / (g + 1) = (G - g) * (2 / ((G + 1) * (g + 1))) := by
    field_simp
    ring
  rw [hdiff, abs_mul]
  refine mul_le_of_le_one_right (abs_nonneg _) ?_
  rw [abs_of_nonneg (by positivity), div_le_one (by positivity)]
  nlinarith

/-- The exponent of the power of two that the model takes, and twice the argument. -/
theorem log_near {x y : Nat} (hlo : (y : ℝ) * (ln2Fix / fixOne) ≤ 2 * x) (hhi : 2 * x ≤ (y + 1) * ((ln2Fix : ℝ) / fixOne)) (hy : (y : ℝ) ≤ 80 * fixOne) :
    |Real.log 2 * ((y : ℝ) / fixOne) - 2 * (x / fixOne)| ≤ 2 ^ 20 / fixOne := by
  have hU := fixOne_real
  have hln := ln2Fix_near
  have hsmall := ln2Fix_small
  generalize (ln2Fix : ℝ) / fixOne = c at *
  refine abs_le_units ?_
  have hfirst : |(Real.log 2 - c) * y| ≤ 655360 := by
    rw [abs_mul, abs_sub_comm, abs_of_nonneg (Nat.cast_nonneg y : (0 : ℝ) ≤ y)]
    calc |c - Real.log 2| * y ≤ 8192 / fixOne * (80 * fixOne) := mul_le_mul hln hy (Nat.cast_nonneg y) (div_nonneg (by norm_num) hU.le)
      _ = 655360 := by field_simp; norm_num
  have hsplit : fixOne * (Real.log 2 * ((y : ℝ) / fixOne) - 2 * (x / fixOne)) = (Real.log 2 - c) * y + (y * c - 2 * x) := by
    field_simp
    ring
  rw [hsplit]
  obtain ⟨h1, h2⟩ := abs_le.1 hfirst
  exact abs_le.2 ⟨by linarith, by linarith⟩

theorem exp_le_pow {u : ℝ} (hu : u ≤ 41) : Real.exp u ≤ 2 ^ 66 :=
  calc Real.exp u ≤ Real.exp ((41 : Nat) * 1) := Real.exp_le_exp.2 (by push_cast; linarith)
    _ = Real.exp 1 ^ 41 := Real.exp_nat_mul ..
    _ ≤ 3 ^ 41 := pow_le_pow_left₀ (Real.exp_pos 1).le exp_one_le 41
    _ ≤ 2 ^ 66 := by norm_num

/-- A power of two from the whole part and the rest of its exponent. -/
theorem exp2Frac_mul_near {y : Nat} (hy : y ≤ 80 * fixOne) :
    |((exp2Frac (y % fixOne) * 2 ^ (y / fixOne) : Nat) : ℝ) - fixOne * Real.exp (Real.log 2 * (y / fixOne))| ≤ 2 ^ 95 := by
  have hU := fixOne_real
  have hrest : (fixOne : ℝ) * ((y % fixOne : Nat) / fixOne) = (y % fixOne : Nat) := by field_simp
  have hlt : ((y % fixOne : Nat) : ℝ) / fixOne ≤ 1 := (div_le_one hU).2 (Nat.cast_le.2 (Nat.mod_lt _ fixOne_pos).le)
  have hnear := exp2Frac_near hlt hrest.ge (hrest.trans_le (le_add_of_nonneg_right zero_le_one))
  have hexp : (y : ℝ) / fixOne = (y / fixOne : Nat) + ((y % fixOne : Nat) : ℝ) / fixOne := by
    have : (y : ℝ) = fixOne * (y / fixOne : Nat) + (y % fixOne : Nat) := mod_cast (Nat.div_add_mod y fixOne).symm
    rw [div_eq_iff hU.ne', add_mul, div_mul_cancel₀ _ hU.ne', mul_comm _ (fixOne : ℝ)]
    exact this
  have hpow : Real.exp (Real.log 2 * (y / fixOne)) = 2 ^ (y / fixOne) * (2 : ℝ) ^ (((y % fixOne : Nat) : ℝ) / fixOne) := by
    rw [← Real.rpow_def_of_pos two_pos, hexp, Real.rpow_add two_pos, Real.rpow_natCast]
  have hn : y / fixOne ≤ 80 := Nat.div_le_of_le_mul (by rwa [Nat.mul_comm])
  rw [hpow, Nat.cast_mul, Nat.cast_pow, Nat.cast_ofNat, mul_comm, mul_left_comm, ← mul_sub, abs_mul, abs_of_pos (by positivity)]
  calc (2 : ℝ) ^ (y / fixOne) * _ ≤ 2 ^ 80 * 2 ^ 15 := mul_le_mul (pow_le_pow_right₀ one_le_two hn) hnear (abs_nonneg _) (by positivity)
    _ = 2 ^ 95 := by norm_num

/-- e^2b in fine units, from a truncated argument. -/
theorem power_near {x : Nat} {b : ℝ} (hxb : (x : ℝ) ≤ fixOne * b) (hbx : fixOne * b ≤ x + 1) (hb1 : b ≤ 20) :
    let y := 2 * x * fixOne / ln2Fix
    |((exp2Frac (y % fixOne) * 2 ^ (y / fixOne) : Nat) : ℝ) - fixOne * Real.exp (2 * b)| ≤ 2 ^ 96 := by
  intro y
  have hU := fixOne_real
  obtain ⟨hlo, hhi⟩ := div_ln2_bounds (2 * x)
  rw [show 2 * x * fixOne / ln2Fix = y from rfl, Nat.cast_mul, Nat.cast_ofNat] at hlo hhi
  have hy : (y : ℝ) ≤ 80 * fixOne := by
    have hx : (x : ℝ) ≤ 20 * fixOne := by
      have := mul_le_mul_of_nonneg_left hb1 hU.le
      linarith
    have := mul_le_mul_of_nonneg_left half_le_ln2Fix (Nat.cast_nonneg y)
    linarith
  have hpow := exp2Frac_mul_near (y := y) (by exact_mod_cast hy)
  have harg : |Real.log 2 * ((y : ℝ) / fixOne) - 2 * b| ≤ (2 ^ 20 + 2) / fixOne := by
    rw [add_div]
    refine (abs_sub_le _ (2 * ((x : ℝ) / fixOne)) _).trans (add_le_add (log_near hlo hhi hy) (abs_le_units ?_))
    have hunits : fixOne * (2 * ((x : ℝ) / fixOne) - 2 * b) = 2 * x - 2 * (fixOne * b) := by
      rw [mul_sub, mul_left_comm, mul_div_cancel₀ _ hU.ne', mul_left_comm]
    rw [hunits]
    exact abs_le.2 ⟨by linarith, by linarith⟩
  have hle : Real.log 2 * ((y : ℝ) / fixOne) ≤ 41 := by
    have := (abs_le.1 harg).2
    have hone : ((2 : ℝ) ^ 20 + 2) / fixOne ≤ 1 := units_le_one (by norm_num)
    linarith
  have hexp := (abs_exp_sub_le_mul (exp_le_pow hle) (exp_le_pow (by linarith : 2 * b ≤ 41))).trans (mul_le_mul_of_nonneg_left harg (by positivity))
  have hexp' : |fixOne * Real.exp (Real.log 2 * (y / fixOne)) - fixOne * Real.exp (2 * b)| ≤ 2 ^ 95 := by
    rw [← mul_sub, abs_mul, abs_of_pos hU]
    calc fixOne * |Real.exp (Real.log 2 * (y / fixOne)) - Real.exp (2 * b)| ≤ fixOne * (2 ^ 66 * ((2 ^ 20 + 2) / fixOne)) :=
          mul_le_mul_of_nonneg_left hexp hU.le
      _ = 2 ^ 66 * (2 ^ 20 + 2) := by field_simp
      _ ≤ 2 ^ 95 := by norm_num
  calc _ ≤ _ := abs_sub_le _ (fixOne * Real.exp (Real.log 2 * (y / fixOne))) _
    _ ≤ 2 ^ 95 + 2 ^ 95 := add_le_add hpow hexp'
    _ = 2 ^ 96 := by norm_num

/-- The tangent in fine units from e^2b in fine units. -/
theorem ratio_near {E : Nat} (hE : fixOne ≤ E) {b : ℝ} (hb0 : 0 ≤ b) (h : |(E : ℝ) - fixOne * Real.exp (2 * b)| ≤ 2 ^ 96) :
    |(((E - fixOne) * fixOne / (E + fixOne) : Nat) : ℝ) - fixOne * Real.tanh b| ≤ 2 ^ 97 := by
  have hU := fixOne_real
  have hE' : (fixOne : ℝ) ≤ E := Nat.cast_le.2 hE
  obtain ⟨hlo, hhi⟩ := div_bounds ((E - fixOne) * fixOne) (Nat.add_pos_right E fixOne_pos)
  have hquot : (((E - fixOne) * fixOne : Nat) : ℝ) / (E + fixOne : Nat) = fixOne * (((E : ℝ) / fixOne - 1) / (E / fixOne + 1)) := by
    rw [Nat.cast_mul, Nat.cast_sub hE, Nat.cast_add]
    generalize (fixOne : ℝ) = U at *
    have hsum : 0 < (E : ℝ) + U := by linarith
    field_simp
  rw [hquot] at hlo hhi
  have hG : 1 ≤ (E : ℝ) / fixOne := (one_le_div hU).2 hE'
  have hratio := (abs_ratio_sub_le hG (Real.one_le_exp (by linarith : 0 ≤ 2 * b)))
  have hdiff : |(E : ℝ) / fixOne - Real.exp (2 * b)| ≤ 2 ^ 96 / fixOne := by
    refine abs_le_units ?_
    rwa [mul_sub, mul_div_cancel₀ _ hU.ne']
  have hunits : |fixOne * (((E : ℝ) / fixOne - 1) / (E / fixOne + 1)) - fixOne * Real.tanh b| ≤ 2 ^ 96 := by
    rw [tanh_eq, ← mul_sub, abs_mul, abs_of_pos hU, mul_comm, ← le_div_iff₀ hU]
    exact hratio.trans hdiff
  obtain ⟨h1, h2⟩ := abs_le.1 hunits
  rw [pow_succ]
  exact abs_le.2 ⟨by linarith, by linarith⟩

/-- The value that the model gives for the tangent of a number, cut off at 20. -/
theorem tanhVal_spec (neg : Bool) (num : Nat) {den : Nat} (hd : 0 < den) :
    ∃ k : Nat, tanhVal neg num den = between neg k ∧ |(k : ℝ) - fixOne * Real.tanh (min ((num : ℝ) / den) 20)| ≤ 2 ^ 97 := by
  have hU := fixOne_real
  have hd' : (0 : ℝ) < den := Nat.cast_pos.2 hd
  obtain ⟨hlo, hhi⟩ := div_bounds (num * fixOne) hd
  have hunits : ((num * fixOne : Nat) : ℝ) / den = fixOne * (num / den) := by rw [Nat.cast_mul]; ring
  rw [hunits] at hlo hhi
  have hmin : fixOne * min ((num : ℝ) / den) 20 = min (fixOne * ((num : ℝ) / den)) (fixOne * 20) := mul_min_of_nonneg _ _ hU.le
  have hnn : 0 ≤ min ((num : ℝ) / den) 20 := le_min (div_nonneg (Nat.cast_nonneg _) hd'.le) (by norm_num)
  have hxb : ((min (num * fixOne / den) (20 * fixOne) : Nat) : ℝ) ≤ fixOne * min ((num : ℝ) / den) 20 := by
    rw [hmin, Nat.cast_min, Nat.cast_mul 20, Nat.cast_ofNat, mul_comm (20 : ℝ)]
    exact min_le_min_right _ hlo
  have hbx : fixOne * min ((num : ℝ) / den) 20 ≤ ((min (num * fixOne / den) (20 * fixOne) : Nat) : ℝ) + 1 := by
    rw [hmin, Nat.cast_min, Nat.cast_mul 20, Nat.cast_ofNat, mul_comm (20 : ℝ), ← min_add_add_right]
    exact min_le_min hhi.le (le_add_of_nonneg_right zero_le_one)
  refine ⟨_, rfl, ratio_near ?_ hnn (power_near hxb hbx (min_le_right _ _))⟩
  exact (fixOne_le_exp2Frac _).trans (Nat.le_mul_of_pos_right _ (Nat.two_pow_pos _))

/-- From 20 on the tangent is close to 1. -/
theorem tanh_near_one {b : ℝ} (hb : 20 ≤ b) : |Real.tanh b - 1| ≤ 1 / 2 ^ 27 := by
  have htwo : (2 : ℝ) ≤ Real.exp 1 := by linarith [Real.add_one_le_exp 1]
  have hexp : (2 : ℝ) ^ 40 ≤ Real.exp (2 * b) :=
    calc (2 : ℝ) ^ 40 ≤ Real.exp 1 ^ 40 := pow_le_pow_left₀ zero_le_two htwo 40
      _ = Real.exp ((40 : Nat) * 1) := (Real.exp_nat_mul ..).symm
      _ ≤ Real.exp (2 * b) := Real.exp_le_exp.2 (by push_cast; linarith)
  rw [tanh_eq]
  generalize Real.exp (2 * b) = g at *
  have hg : 0 < g + 1 := by linarith [(by positivity : (0 : ℝ) < 2 ^ 40)]
  have hdiff : (g - 1) / (g + 1) - 1 = -(2 / (g + 1)) := by field_simp; ring
  rw [hdiff, abs_neg, abs_of_pos (div_pos two_pos hg), div_le_div_iff₀ hg (by positivity)]
  norm_num at hexp ⊢
  linarith

theorem tanh_pos {a : ℝ} (ha : 0 < a) : 0 < Real.tanh a := by
  have hexp : 1 < Real.exp (2 * a) := Real.one_lt_exp_iff.2 (by linarith)
  rw [tanh_eq]
  exact div_pos (by linarith) (by linarith)

theorem tanh_rounds {x : Nat} (hx : finiteCode 0 x) (h0 : codeValue 0 x ≠ 0) :
    RoundsReal (Real.tanh (codeValue 0 x)) (fF32.result .rn false false (sfuTanh (fF32.value x))) := by
  obtain ⟨neg, num, den, h⟩ := magnitude_of_finite hx h0
  obtain ⟨k, hk, hnear⟩ := tanhVal_spec neg num h.den_pos
  have ha := h.real_pos
  have hsym : Real.tanh (codeValue 0 x) = if neg then -Real.tanh ((num : ℝ) / den) else Real.tanh ((num : ℝ) / den) := by
    rw [h.number_real]
    cases neg with
    | true => exact Real.tanh_neg _
    | false => rfl
  have hmiddle := (middle_near hnear)
  rw [h.value, sfuTanh, if_neg h.num_pos.ne', hk, hsym]
  generalize (num : ℝ) / den = a at *
  have hpos := tanh_pos ha
  rcases le_total a 20 with hle | hge
  · obtain ⟨he, hp⟩ := exactVal_between neg k
    refine roundsReal_of_exactVal hp he ?_ ?_
    · rw [abs_ite_sub, withNeg_withNeg, middle_eq, ← min_eq_left hle]
      exact hmiddle.trans (units_le (by norm_num))
    · cases neg with
      | true => simpa using hpos
      | false => simpa using hpos.le
  · rw [min_eq_right hge] at hmiddle
    have hstep : ((2 : ℝ) ^ 97 + 1) / fixOne ≤ 1 / 2 ^ 27 := by
      refine (units_le (by norm_num)).trans ?_
      rw [one_div, ← zpow_natCast, ← zpow_neg]
      exact zpow_le_zpow_right₀ one_le_two (by norm_num)
    refine roundsReal_near_one (Nat.mul_pos Nat.two_pos fixOne_pos) ?_ ((tanh_near_one hge).trans (by norm_num))
    have hval : ((2 * k + 1 : Nat) : ℝ) / (2 * fixOne : Nat) = middle k := by
      rw [← middle_eq, Rat.cast_div, Rat.cast_natCast, Rat.cast_natCast]
    rw [hval]
    have htri := abs_sub_le (middle k) (Real.tanh 20) 1
    rw [abs_sub_comm (middle k) (Real.tanh 20)] at htri
    exact htri.trans ((add_le_add (hmiddle.trans hstep) (tanh_near_one le_rfl)).trans_eq (by norm_num : (1 : ℝ) / 2 ^ 27 + 1 / 2 ^ 27 = 1 / 2 ^ 26))

end Sys2Proof.Laws.HyperbolicTangent

/-! ## The logarithm (R113) -/

namespace Sys2Proof.Laws.Logarithm
open Sys2Proof Sys2Proof.Machine Sys2Proof.Claims Sys2Proof.Laws.Rounding Sys2Proof.Laws.DotProducts
open Sys2Proof.Laws.RealRounding Sys2Proof.Laws.Roots Sys2Proof.Laws.FixedSeries Sys2Proof.Laws.FixedConstants Sys2Proof.Laws.PowersOfTwo

/-! ### The fraction of a power of two -/

/-- The exponent of a finite code leaves a number from 1 to below 2 with at most 24 digits. -/
theorem ratio_bounds {x : Nat} {neg : Bool} {num den : Nat} (h : Magnitude x neg num den) :
    (1 : ℝ) ≤ (num : ℝ) / den / 2 ^ flog2 num den ∧ (num : ℝ) / den / 2 ^ flog2 num den ≤ 2 - 1 / 2 ^ 23 := by
  obtain ⟨m, q, hm, hm24, -, -, hshape⟩ := h.shape
  have hval : (num : ℚ) / den = m * 2 ^ q := by
    rcases hshape with ⟨hq, rfl, rfl⟩ | ⟨hq, rfl, rfl⟩
    · rw [zpow_of_nonneg hq, Nat.cast_one, div_one, Nat.cast_mul]
    · rw [zpow_of_neg hq.not_ge, div_eq_mul_inv]
  have hlog : flog2 num den = Nat.log2 m + q := by
    refine FloatConverting.flog2_eq h.num_pos h.den_pos ?_ ?_
    · rw [hval, zpow_add₀ two_ne_zero, zpow_natCast]
      exact mul_le_mul_of_nonneg_right (mod_cast Nat.log2_self_le hm.ne') (two_zpow_pos q).le
    · rw [hval, add_right_comm, zpow_add₀ two_ne_zero]
      exact mul_lt_mul_of_pos_right (mod_cast Nat.lt_log2_self) (two_zpow_pos q)
  have hval' : (num : ℝ) / den = m * 2 ^ q := by
    have := congrArg (Rat.cast (K := ℝ)) hval
    push_cast at this
    exact this
  have hratio : (num : ℝ) / den / 2 ^ flog2 num den = m / 2 ^ Nat.log2 m := by
    rw [hval', hlog, zpow_add₀ two_ne_zero, zpow_natCast, mul_div_mul_right _ _ (zpow_ne_zero q two_ne_zero)]
  have hL : Nat.log2 m ≤ 23 := Nat.lt_succ_iff.1 ((Nat.log2_lt hm.ne').2 hm24)
  have hpow : (0 : ℝ) < 2 ^ Nat.log2 m := by positivity
  have hlo : (2 : ℝ) ^ Nat.log2 m ≤ m := mod_cast Nat.log2_self_le hm.ne'
  have hhi : (m : ℝ) + 1 ≤ 2 ^ Nat.log2 m * 2 := by
    rw [← pow_succ]
    exact_mod_cast (Nat.lt_log2_self : m < 2 ^ (Nat.log2 m + 1))
  rw [hratio]
  refine ⟨(one_le_div hpow).2 hlo, ?_⟩
  have hunit : (1 : ℝ) / 2 ^ 23 ≤ 1 / 2 ^ Nat.log2 m := one_div_le_one_div_of_le hpow (pow_le_pow_right₀ one_le_two hL)
  have hsplit : (m : ℝ) / 2 ^ Nat.log2 m = (m + 1) / 2 ^ Nat.log2 m - 1 / 2 ^ Nat.log2 m := by ring
  have : ((m : ℝ) + 1) / 2 ^ Nat.log2 m ≤ 2 := by rw [div_le_iff₀ hpow]; linarith
  linarith

/-! ### The series at a truncated argument -/

/-- The logarithm of (1 + u) / (1 - u). -/
noncomputable def logRatio (u : ℝ) : ℝ := Real.log (1 + u) - Real.log (1 - u)

/-- A quotient's logarithm through its distance from 1. -/
theorem logRatio_div {n d : ℝ} (hd : 0 < d) (hn : d ≤ n) : logRatio ((n - d) / (n + d)) = Real.log (n / d) := by
  have hsum : 0 < n + d := by linarith
  have h1 : 1 + (n - d) / (n + d) = 2 * n / (n + d) := by field_simp; ring
  have h2 : 1 - (n - d) / (n + d) = 2 * d / (n + d) := by field_simp; ring
  rw [logRatio, h1, h2, ← Real.log_div (div_ne_zero (by linarith) hsum.ne') (div_ne_zero (by linarith) hsum.ne')]
  congr 1
  field_simp

theorem logRatio_near {u v : ℝ} (hu : 0 ≤ u) (huv : u ≤ v) (hv : v ≤ 1 / 3) : |logRatio u - logRatio v| ≤ 3 * (v - u) := by
  have h1 : Real.log (1 + v) - Real.log (1 + u) ≤ v - u := by
    rw [← Real.log_div (by linarith) (by linarith)]
    refine (Real.log_le_sub_one_of_pos (div_pos (by linarith) (by linarith))).trans ?_
    rw [div_sub_one (by linarith), div_le_iff₀ (by linarith)]
    nlinarith
  have h2 : Real.log (1 - u) - Real.log (1 - v) ≤ 2 * (v - u) := by
    rw [← Real.log_div (by linarith) (by linarith)]
    refine (Real.log_le_sub_one_of_pos (div_pos (by linarith) (by linarith))).trans ?_
    rw [div_sub_one (by linarith), div_le_iff₀ (by linarith)]
    nlinarith
  have h3 : Real.log (1 + u) ≤ Real.log (1 + v) := Real.log_le_log (by linarith) (by linarith)
  have h4 : Real.log (1 - v) ≤ Real.log (1 - u) := Real.log_le_log (by linarith) (by linarith)
  rw [logRatio, logRatio]
  exact abs_le.2 ⟨by linarith, by linarith⟩

/-- The series at the truncated argument, and the logarithm of the fraction. -/
theorem atanhFix_log_near {n d : Nat} (hd : 0 < d) (hn : d ≤ n) (hn2 : n ≤ 2 * d) :
    |2 * (atanhFix ((n - d) * fixOne / (n + d)) : ℝ) - fixOne * Real.log ((n : ℝ) / d)| ≤ 4099 := by
  have hU := fixOne_real
  have hd' : (0 : ℝ) < d := Nat.cast_pos.2 hd
  have hn' : (d : ℝ) ≤ n := Nat.cast_le.2 hn
  have hn2' : (n : ℝ) ≤ 2 * d := mod_cast hn2
  obtain ⟨hlo, hhi⟩ := div_bounds ((n - d) * fixOne) (Nat.add_pos_right n hd)
  have hunits : (((n - d) * fixOne : Nat) : ℝ) / (n + d : Nat) = fixOne * (((n : ℝ) - d) / (n + d)) := by
    rw [Nat.cast_mul, Nat.cast_sub hn, Nat.cast_add, mul_comm, mul_div_assoc]
  have hζ : ((n : ℝ) - d) / (n + d) ≤ 1 / 3 := by
    rw [div_le_iff₀ (by linarith)]
    linarith
  rw [hunits] at hlo hhi
  rw [← logRatio_div hd' hn']
  generalize (n - d) * fixOne / (n + d) = z at *
  generalize ((n : ℝ) - d) / (n + d) = ζ at *
  have hz : (z : ℝ) / fixOne ≤ ζ := by rw [div_le_iff₀ hU, mul_comm]; exact hlo
  have hz' : fixOne * (ζ - z / fixOne) ≤ 1 := by rw [mul_sub, mul_div_cancel₀ _ hU.ne']; linarith
  have htrunc : |fixOne * logRatio (z / fixOne) - fixOne * logRatio ζ| ≤ 3 := by
    rw [← mul_sub, abs_mul, abs_of_pos hU]
    have := mul_le_mul_of_nonneg_left (logRatio_near (div_nonneg (Nat.cast_nonneg z) hU.le) hz hζ) hU.le
    linarith
  calc _ ≤ _ := abs_sub_le _ (fixOne * logRatio (z / fixOne)) _
    _ ≤ 4096 + 3 := add_le_add (atanhFix_near (hz.trans hζ)) htrunc
    _ = 4099 := by norm_num

/-- Fine units of a logarithm divided by ln 2 are fine units of a logarithm to the base 2. -/
theorem div_ln2_near {a : Nat} {β : ℝ} (hβ0 : 0 ≤ β) (hβ1 : β ≤ 1) (ha : |(a : ℝ) - fixOne * (β * Real.log 2)| ≤ 4099) :
    |((a * fixOne / ln2Fix : Nat) : ℝ) - fixOne * β| ≤ 2 ^ 15 := by
  obtain ⟨hlo, hhi⟩ := div_ln2_bounds a
  generalize a * fixOne / ln2Fix = l at *
  have hc1 := half_le_ln2Fix
  have hc2 := ln2Fix_small
  have hconst := ln2Fix_units
  generalize (ln2Fix : ℝ) / fixOne = c at *
  have hscaled : |β * (fixOne * (Real.log 2 - c))| ≤ 8192 := by
    rw [abs_mul, abs_of_nonneg hβ0]
    exact (mul_le_of_le_one_left (abs_nonneg _) hβ1).trans hconst
  have hsplit : c * ((l : ℝ) - fixOne * β) = (l * c - a) + (a - fixOne * (β * Real.log 2)) + β * (fixOne * (Real.log 2 - c)) := by ring
  have hprod : |c * ((l : ℝ) - fixOne * β)| ≤ 12292 := by
    rw [hsplit]
    obtain ⟨h1, h2⟩ := abs_le.1 ha
    obtain ⟨h3, h4⟩ := abs_le.1 hscaled
    exact abs_le.2 ⟨by linarith, by linarith⟩
  rw [abs_mul, abs_of_pos (by linarith : 0 < c)] at hprod
  have := mul_le_mul_of_nonneg_right hc1 (abs_nonneg ((l : ℝ) - fixOne * β))
  linarith

/-- The model's logarithm of a fraction from 1 to 2, in fine units. -/
theorem log2Fix_near {n d : Nat} (hd : 0 < d) (hn : d ≤ n) (hn2 : n ≤ 2 * d) :
    |((2 * atanhFix ((n - d) * fixOne / (n + d)) * fixOne / ln2Fix : Nat) : ℝ) - fixOne * Real.logb 2 ((n : ℝ) / d)| ≤ 2 ^ 15 := by
  have hd' : (0 : ℝ) < d := Nat.cast_pos.2 hd
  have hn' : (d : ℝ) ≤ n := Nat.cast_le.2 hn
  refine div_ln2_near (Real.logb_nonneg one_lt_two ((one_le_div hd').2 hn')) ?_ ?_
  · rw [Real.logb_le_iff_le_rpow one_lt_two (div_pos (hd'.trans_le hn') hd'), Real.rpow_one, div_le_iff₀ hd']
    exact_mod_cast hn2
  · rw [Nat.cast_mul, Nat.cast_ofNat, Real.logb, div_mul_cancel₀ _ (Real.log_pos one_lt_two).ne']
    exact atanhFix_log_near hd hn hn2

/-! ### The logarithm of a finite code -/

theorem logb_near_two {r : ℝ} (h1 : 1 ≤ r) (h2 : r ≤ 2 - 1 / 2 ^ 23) : Real.logb 2 r ≤ 1 - 1 / 2 ^ 24 := by
  have hlog := Real.log_le_sub_one_of_pos (by linarith : 0 < r / 2)
  rw [Real.log_div (by linarith) two_ne_zero] at hlog
  have hl0 := Real.log_pos one_lt_two
  have hl1 : Real.log 2 ≤ 1 := Real.log_two_lt_d9.le.trans (by norm_num)
  rw [Real.logb, div_le_iff₀ hl0]
  have hunit : (1 : ℝ) / 2 ^ 24 * Real.log 2 ≤ 1 / 2 ^ 24 := mul_le_of_le_one_right (by positivity) hl1
  norm_num at h2 hunit ⊢
  linarith

/-- A fraction scaled down by a power of two, as a fraction of whole numbers. -/
theorem scaled_ratio {num den : Nat} (hd : 0 < den) (e : Int) :
    0 < (if 0 ≤ e then den * 2 ^ e.toNat else den) ∧
      (((if 0 ≤ e then num else num * 2 ^ (-e).toNat : Nat) : ℝ) / (if 0 ≤ e then den * 2 ^ e.toNat else den : Nat)) = (num : ℝ) / den / 2 ^ e := by
  by_cases he : 0 ≤ e
  · rw [if_pos he, if_pos he]
    refine ⟨Nat.mul_pos hd (Nat.two_pow_pos _), ?_⟩
    lift e to ℕ using he
    rw [Int.toNat_natCast, zpow_natCast]
    push_cast
    rw [div_div]
  · rw [if_neg he, if_neg he]
    refine ⟨hd, ?_⟩
    obtain ⟨k, rfl⟩ : ∃ k : Nat, e = -k := ⟨(-e).toNat, by omega⟩
    rw [neg_neg, Int.toNat_natCast, zpow_neg, zpow_natCast, div_inv_eq_mul]
    push_cast
    ring

/-- A whole number of fine units of either sign and a half. -/
theorem middle_signed {t : Int} {y e : ℝ} (h : |(t : ℝ) - fixOne * y| ≤ e) :
    ∃ (neg : Bool) (mag : ℚ), exactVal (if 0 ≤ t then between false t.toNat else between true (-t - 1).toNat) = .num neg mag ∧
      Proper (if 0 ≤ t then between false t.toNat else between true (-t - 1).toNat) ∧ (neg = true ↔ t < 0) ∧
      |y - ((withNeg neg mag : ℚ) : ℝ)| ≤ (e + 1) / fixOne := by
  by_cases ht : 0 ≤ t
  · rw [if_pos ht]
    obtain ⟨he, hp⟩ := exactVal_between false t.toNat
    refine ⟨_, _, he, hp, iff_of_false Bool.false_ne_true ht.not_gt, ?_⟩
    rw [signed_cast, if_neg Bool.false_ne_true, middle_eq]
    refine middle_near ?_
    lift t to ℕ using ht
    exact h
  · rw [if_neg ht]
    obtain ⟨he, hp⟩ := exactVal_between true (-t - 1).toNat
    refine ⟨_, _, he, hp, iff_of_true rfl (not_le.1 ht), ?_⟩
    obtain ⟨k, rfl⟩ : ∃ k : Nat, t = -(k : Int) - 1 := ⟨(-t - 1).toNat, by omega⟩
    rw [signed_cast, if_pos rfl, middle_eq, show (-(-(k : Int) - 1) - 1).toNat = k by omega]
    have hU := fixOne_real
    have hunits : fixOne * (y - -middle k) = -(((-(k : Int) - 1 : Int) : ℝ) - fixOne * y) - 1 / 2 := by
      rw [sub_neg_eq_add, mul_add, middle, mul_div_cancel₀ _ hU.ne']
      push_cast
      ring
    refine abs_le_units ?_
    obtain ⟨h1, h2⟩ := abs_le.1 h
    rw [hunits]
    exact abs_le.2 ⟨by linarith, by linarith⟩

/-- The value that the model gives for a logarithm: its exponent alone, or with a logarithm from 0 to 1 in fine units. -/
theorem log2Val_spec {num den : Nat} (hd : 0 < den) (h1 : (1 : ℝ) ≤ (num : ℝ) / den / 2 ^ flog2 num den) (h2 : (num : ℝ) / den / 2 ^ flog2 num den ≤ 2) :
    ((num : ℝ) / den / 2 ^ flog2 num den = 1 ∧ log2Val num den = ofInt (flog2 num den)) ∨
    ∃ l : Nat, |(l : ℝ) - fixOne * Real.logb 2 ((num : ℝ) / den / 2 ^ flog2 num den)| ≤ 2 ^ 15 ∧
      log2Val num den = if 0 ≤ flog2 num den * fixOne + l then between false (flog2 num den * fixOne + l).toNat
        else between true (-(flog2 num den * fixOne + l) - 1).toNat := by
  obtain ⟨hd', hratio⟩ := scaled_ratio (num := num) hd (flog2 num den)
  simp only [log2Val]
  generalize flog2 num den = e at *
  generalize (if 0 ≤ e then num else num * 2 ^ (-e).toNat) = n at *
  generalize (if 0 ≤ e then den * 2 ^ e.toNat else den) = d at *
  have hdr : (0 : ℝ) < d := Nat.cast_pos.2 hd'
  rw [← hratio] at h1 h2 ⊢
  by_cases hnd : n = d
  · rw [if_pos hnd]
    exact .inl ⟨by rw [hnd, div_self hdr.ne'], rfl⟩
  · rw [if_neg hnd]
    have hn : d ≤ n := by
      have := (one_le_div hdr).1 h1
      exact_mod_cast this
    have hn2 : n ≤ 2 * d := by
      have := (div_le_iff₀ hdr).1 h2
      exact_mod_cast this
    exact .inr ⟨_, log2Fix_near hd' hn hn2, by push_cast; rfl⟩

theorem lg2_rounds {x : Nat} (hx : finiteCode 0 x) (h0 : codeValue 0 x ≠ 0) (hpos : 0 < codeValue 0 x) :
    RoundsReal (Real.logb 2 (codeValue 0 x)) (fF32.result .rn false false (sfuLg2 (fF32.value x))) := by
  obtain ⟨neg, num, den, h⟩ := magnitude_of_finite hx h0
  obtain rfl := h.not_neg hpos
  have hU := fixOne_real
  obtain ⟨h1, h2⟩ := ratio_bounds h
  have hy : Real.logb 2 (codeValue 0 x) = flog2 num den + Real.logb 2 ((num : ℝ) / den / 2 ^ flog2 num den) := by
    rw [h.number_real, if_neg Bool.false_ne_true, Real.logb_div h.real_pos.ne' (zpow_ne_zero _ two_ne_zero), ← Real.rpow_intCast,
      Real.logb_rpow two_pos (by norm_num), add_sub_cancel]
  rw [h.value, sfuLg2, if_neg h.num_pos.ne', if_neg Bool.false_ne_true, hy]
  have hspec := log2Val_spec h.den_pos h1 (h2.trans (by norm_num))
  have hβ0 := Real.logb_nonneg one_lt_two h1
  have hβ1 := logb_near_two h1 h2
  generalize (num : ℝ) / den / 2 ^ flog2 num den = r at *
  generalize flog2 num den = e at *
  rcases hspec with ⟨rfl, hval⟩ | ⟨l, hl, hval⟩
  · rw [hval, Real.logb_one, add_zero]
    have hsigned : ((withNeg (decide (e < 0)) (e.natAbs / (1 : Nat)) : ℚ) : ℝ) = e := by
      rw [signed_cast, Nat.cast_one, div_one, Rat.cast_natCast, Nat.cast_natAbs, Int.cast_abs]
      rcases lt_or_ge e 0 with hlt | hge
      · rw [if_pos (decide_eq_true hlt), abs_of_neg (Int.cast_lt_zero.2 hlt), neg_neg]
      · rw [if_neg (by simpa using hge), abs_of_nonneg (Int.cast_nonneg hge)]
    refine roundsReal_of_near Nat.one_pos ?_ (by rw [decide_eq_true_iff, Int.cast_lt_zero])
    rw [hsigned, sub_self, abs_zero]
    exact (zpow_pos two_pos _).le
  · rw [hval]
    generalize Real.logb 2 r = β at *
    obtain ⟨neg, mag, he, hp, hneg, hnear⟩ := middle_signed (t := e * fixOne + l) (y := e + β) (e := 2 ^ 15) (by
      have hunits : ((e * fixOne + l : Int) : ℝ) - fixOne * (e + β) = l - fixOne * β := by push_cast; ring
      rw [hunits]
      exact hl)
    refine roundsReal_of_exactVal hp he (hnear.trans (units_le (by norm_num))) (hneg.trans ?_)
    rcases lt_or_ge e 0 with hlt | hge
    · have he1 : (e : ℝ) ≤ -1 := by exact_mod_cast Int.le_sub_one_of_lt hlt
      have hfine : (2 : ℝ) ^ 40 ≤ fixOne := (div_le_one hU).1 (units_le_one (by norm_num))
      have hl2 := (abs_le.1 hl).2
      have hUe : (fixOne : ℝ) * e ≤ fixOne * (-1) := mul_le_mul_of_nonneg_left he1 hU.le
      have hUβ := mul_le_mul_of_nonneg_left hβ1 hU.le
      have hsum : ((e * fixOne + l : Int) : ℝ) < 0 := by
        push_cast
        generalize (fixOne : ℝ) = U at *
        norm_num at hfine hUβ hl2
        linarith
      refine iff_of_true (by exact_mod_cast hsum) ?_
      have hunit : (0 : ℝ) < 1 / 2 ^ 24 := by positivity
      linarith
    · have he0 : (0 : ℝ) ≤ e := Int.cast_nonneg hge
      exact iff_of_false (not_lt.2 (Int.add_nonneg (Int.mul_nonneg hge (Int.natCast_nonneg _)) (Int.natCast_nonneg _))) (by linarith)

end Sys2Proof.Laws.Logarithm

/-! ## Sine and cosine (R113) -/

namespace Sys2Proof.Laws.Trigonometric
open Sys2Proof Sys2Proof.Machine Sys2Proof.Claims Sys2Proof.Laws.Rounding Sys2Proof.Laws.DotProducts
open Sys2Proof.Laws.RealRounding Sys2Proof.Laws.Roots Sys2Proof.Laws.FixedSeries Sys2Proof.Laws.FixedConstants Sys2Proof.Laws.PowersOfTwo

/-! ### No f32 number lies near a multiple of π -/

/-- A whole number is not close to a smaller multiple of a fraction in lowest terms. -/
theorem one_le_abs_sub {P Q : Nat} (h : Nat.Coprime Q P) {K : Nat} (hK : 0 < K) (hKQ : K < Q) (N : Nat) : (1 : ℝ) ≤ |(N : ℝ) * Q - K * P| := by
  have hne : (N : Int) * Q - K * P ≠ 0 := fun h0 => by
    have heq : N * Q = K * P := by
      have : (N : Int) * Q = K * P := by omega
      exact_mod_cast this
    have hdvd : Q ∣ K := h.dvd_of_dvd_mul_right (heq ▸ Dvd.intro_left N rfl)
    exact absurd (Nat.le_of_dvd hK hdvd) hKQ.not_ge
  have habs := Int.one_le_abs hne
  have hcast : (1 : ℝ) ≤ ((|(N : Int) * Q - K * P| : Int) : ℝ) := by exact_mod_cast habs
  push_cast at hcast
  exact hcast

/-- The numerator and the denominator of a fraction in lowest terms next to π. -/
def piNum : Nat := 8736149038303113005348154524599771853409352442745266

def piDen : Nat := 2780802606066896232581239559281727773240004199722661

theorem piFraction : Nat.Coprime piDen piNum ∧ 2 ^ 151 < piDen ∧ piDen ≤ 2 ^ 171 ∧
    2 ^ 161 * (2 * (piFix / 2) * piDen) ≤ 2 ^ 161 * (piNum * (fixOne * 2 ^ 160)) + fixOne * 2 ^ 160 ∧
    2 ^ 161 * (piNum * (fixOne * 2 ^ 160)) ≤ 2 ^ 161 * (2 * (piFix / 2) * piDen) + fixOne * 2 ^ 160 := by
  decide +kernel

theorem piDen_real : (0 : ℝ) < piDen ∧ (piDen : ℝ) ≤ 2 ^ 171 := by
  obtain ⟨-, hlow, hhigh, -⟩ := piFraction
  exact ⟨Nat.cast_pos.2 ((Nat.zero_le _).trans_lt hlow), by exact_mod_cast hhigh⟩

theorem piFraction_near : |(piDen : ℝ) * Real.pi - piNum| ≤ 1 / 2 ^ 160 := by
  have hU := fixOne_real
  obtain ⟨-, -, -, hlo, hhi⟩ := piFraction
  obtain ⟨hQ, hQ'⟩ := piDen_real
  have hlo' : (2 : ℝ) ^ 161 * (2 * (piFix / 2 : Nat) * piDen) ≤ 2 ^ 161 * (piNum * (fixOne * 2 ^ 160)) + fixOne * 2 ^ 160 := by exact_mod_cast hlo
  have hhi' : (2 : ℝ) ^ 161 * (piNum * (fixOne * 2 ^ 160)) ≤ 2 ^ 161 * (2 * (piFix / 2 : Nat) * piDen) + fixOne * 2 ^ 160 := by exact_mod_cast hhi
  have hS : (0 : ℝ) < fixOne * 2 ^ 160 := mul_pos hU (pow_pos two_pos _)
  have hhalf : ((piFix / 2 : Nat) : ℝ) = halfPi * (fixOne * 2 ^ 160) := by rw [halfPi, div_mul_cancel₀ _ hS.ne']
  rw [hhalf] at hlo' hhi'
  clear hlo hhi
  have hfix : |piDen * (2 * halfPi) - piNum| ≤ 1 / 2 ^ 161 := by
    generalize (fixOne : ℝ) * 2 ^ 160 = S at *
    rw [abs_le, ← neg_div, div_le_iff₀ (by positivity), le_div_iff₀ (by positivity)]
    constructor
    · refine le_of_mul_le_mul_right ?_ hS
      linarith
    · refine le_of_mul_le_mul_right ?_ hS
      linarith
  have hpi : |piDen * Real.pi - piDen * (2 * halfPi)| ≤ 1 / 2 ^ 161 := by
    have hnear := halfPi_near
    have hsplit : piDen * Real.pi - piDen * (2 * halfPi) = -(2 * piDen) * (halfPi - Real.pi / 2) := by ring
    rw [hsplit, abs_mul, abs_neg, abs_of_pos (by linarith)]
    have hpow : (2 : ℝ) ^ 333 = 2 * 2 ^ 171 * 2 ^ 161 := by rw [← pow_succ', ← pow_add]
    calc 2 * (piDen : ℝ) * |halfPi - Real.pi / 2| ≤ 2 * 2 ^ 171 * (1 / 2 ^ 333) :=
          mul_le_mul (by linarith) (hnear.trans (units_le_inv_pow (by decide) (by norm_num))) (abs_nonneg _) (by positivity)
      _ = 1 / 2 ^ 161 := by rw [hpow, mul_one_div, div_mul_cancel_left₀ (by positivity), one_div]
  refine (abs_sub_le _ _ _).trans ((add_le_add hpi hfix).trans_eq ?_)
  norm_num

/-- Whole numbers stay away from the multiples of π. -/
theorem multiple_apart {K : Nat} (hK : 0 < K) (hK' : K ≤ 2 ^ 151) (N : Nat) : 1 / 2 ^ 172 ≤ |(N : ℝ) - K * Real.pi| := by
  obtain ⟨hcop, hlow, -⟩ := piFraction
  obtain ⟨hQ, hQ'⟩ := piDen_real
  have hone := one_le_abs_sub hcop hK (hK'.trans_lt hlow) N
  have hKr : (K : ℝ) ≤ 2 ^ 151 := by exact_mod_cast hK'
  have herr : |(K : ℝ) * (piDen * Real.pi - piNum)| ≤ 1 / 2 := by
    rw [abs_mul, abs_of_nonneg (Nat.cast_nonneg K : (0 : ℝ) ≤ K)]
    calc (K : ℝ) * |piDen * Real.pi - piNum| ≤ 2 ^ 151 * (1 / 2 ^ 160) := mul_le_mul hKr piFraction_near (abs_nonneg _) (by positivity)
      _ ≤ 1 / 2 := by norm_num
  have hsplit : ((N : ℝ) - K * Real.pi) * piDen = (N * piDen - K * piNum) - K * (piDen * Real.pi - piNum) := by ring
  have hprod : 1 / 2 ≤ |(N : ℝ) - K * Real.pi| * piDen := by
    rw [← abs_of_pos hQ, ← abs_mul, hsplit]
    have := abs_sub_abs_le_abs_sub ((N : ℝ) * piDen - K * piNum) (K * (piDen * Real.pi - piNum))
    linarith
  have hle := mul_le_mul_of_nonneg_left hQ' (abs_nonneg ((N : ℝ) - K * Real.pi))
  rw [div_le_iff₀ (by positivity)]
  norm_num at hle hprod ⊢
  linarith

/-- A finite code's number stays away from the multiples of π / 2. -/
theorem quarter_apart {x : Nat} {neg : Bool} {num den : Nat} (h : Magnitude x neg num den) {k : Nat} (hk : 0 < k)
    (hnear : |(num : ℝ) / den - k * (Real.pi / 2)| ≤ 4 / 5) : 1 / 2 ^ 196 ≤ |(num : ℝ) / den - k * (Real.pi / 2)| := by
  obtain ⟨m, q, hm, hm24, -, hq, hshape⟩ := h.shape
  have hval : (num : ℝ) / den = m * 2 ^ q := by
    rcases hshape with ⟨hq, rfl, rfl⟩ | ⟨hq, rfl, rfl⟩
    · lift q to ℕ using hq
      rw [Int.toNat_natCast, zpow_natCast, Nat.cast_one, div_one]
      push_cast
      rfl
    · obtain ⟨j, rfl⟩ : ∃ j : Nat, q = -j := ⟨(-q).toNat, by omega⟩
      rw [neg_neg, Int.toNat_natCast, zpow_neg, zpow_natCast, div_eq_mul_inv]
      push_cast
      rfl
  have hk1 : (1 : ℝ) ≤ k := Nat.one_le_cast.2 hk
  have hpi := Real.pi_gt_three
  have ha : (num : ℝ) / den ≤ 2 ^ 128 :=
    (div_le_self (Nat.cast_nonneg _) (Nat.one_le_cast.2 h.den_pos)).trans (by exact_mod_cast h.num_lt.le)
  have hkle : (k : ℝ) ≤ 2 ^ 128 := by
    have hprod : (k : ℝ) * (3 / 2) ≤ k * (Real.pi / 2) := mul_le_mul_of_nonneg_left (by linarith) (by linarith)
    have := (abs_le.1 hnear).1
    have hbig : (2 : ℝ) ≤ 2 ^ 128 := by norm_num
    linarith
  rw [hval] at hnear ⊢
  have hq24 : -24 ≤ q := by
    by_contra hlt
    have hpow : (2 : ℝ) ^ q ≤ 2 ^ (-25 : ℤ) := zpow_le_zpow_right₀ one_le_two (by omega)
    have hm' : (m : ℝ) ≤ 2 ^ 24 := by exact_mod_cast hm24.le
    have hsmall : (m : ℝ) * 2 ^ q ≤ 2 ^ 24 * 2 ^ (-25 : ℤ) := mul_le_mul hm' hpow (zpow_pos two_pos _).le (by positivity)
    have := (abs_le.1 hnear).1
    have hprod : 1 * (3 / 2) ≤ k * (Real.pi / 2) := mul_le_mul hk1 (by linarith) (by norm_num) (by linarith)
    norm_num at hsmall
    linarith
  obtain ⟨j, hj⟩ : ∃ j : Nat, q = j - 24 := ⟨(q + 24).toNat, by omega⟩
  have hN : (m : ℝ) * 2 ^ q - k * (Real.pi / 2) = ((m * 2 ^ j : Nat) - (k * 2 ^ 23 : Nat) * Real.pi) / 2 ^ 24 := by
    rw [hj, zpow_sub₀ two_ne_zero, zpow_natCast]
    push_cast
    norm_num
    ring
  have hK : k * 2 ^ 23 ≤ 2 ^ 151 := by
    have : k ≤ 2 ^ 128 := by exact_mod_cast hkle
    omega
  have hapart := multiple_apart (Nat.mul_pos hk (Nat.two_pow_pos 23)) hK (m * 2 ^ j)
  rw [hN, abs_div, abs_of_pos (by positivity : (0 : ℝ) < 2 ^ 24), le_div_iff₀ (by positivity)]
  refine le_trans ?_ hapart
  norm_num

/-! ### The reduction of the argument (R113) -/

/-- A floored quotient of an integer and the exact one. -/
theorem floor_bounds (a : Int) {b : Nat} (hb : 0 < b) : ((a / (b : Int) : Int) : ℝ) * b ≤ a ∧ (a : ℝ) < (((a / (b : Int) : Int) : ℝ) + 1) * b := by
  have hb' : (0 : Int) < b := Int.natCast_pos.2 hb
  exact ⟨by exact_mod_cast Int.ediv_mul_le a hb'.ne', by exact_mod_cast Int.lt_ediv_add_one_mul_self a hb'⟩

/-- The quadrant and the rest that the model takes, beside the exact ones: the rest is the truncated distance from a multiple of the constant. -/
theorem reduceArg_spec (num : Nat) {den : Nat} (hd : 0 < den) :
    ∃ (k : Nat) (r : Int), reduceArg num den = (k % 4, r) ∧ |(num : ℝ) / den - k * halfPi| ≤ halfPi / 2 ∧
      (r : ℝ) ≤ fixOne * ((num : ℝ) / den - k * halfPi) ∧ fixOne * ((num : ℝ) / den - k * halfPi) < r + 1 := by
  have hU := fixOne_real
  have hd' : (0 : ℝ) < den := Nat.cast_pos.2 hd
  have hS : (0 : ℝ) < fixOne * 2 ^ 160 := mul_pos hU (pow_pos two_pos _)
  have hscale : (2 : Nat) ^ 736 = fixOne * 2 ^ 160 := by rw [fixOne, ← Nat.pow_add]
  have hH0 : 0 < piFix / 2 := by decide +kernel
  have hH : ((piFix / 2 : Nat) : ℝ) = halfPi * (fixOne * 2 ^ 160) := by rw [halfPi, div_mul_cancel₀ _ hS.ne']
  have hh : 0 < halfPi := div_pos (Nat.cast_pos.2 hH0) hS
  simp only [reduceArg, hscale]
  refine ⟨_, _, rfl, ?_⟩
  generalize piFix / 2 = H at *
  generalize hk : (2 * (num * (fixOne * 2 ^ 160)) + H * den) / (2 * H * den) = k
  have hkb := div_bounds (2 * (num * (fixOne * 2 ^ 160)) + H * den) (Nat.mul_pos (Nat.mul_pos Nat.two_pos hH0) hd)
  have hquot : ((2 * (num * (fixOne * 2 ^ 160)) + H * den : Nat) : ℝ) / (2 * H * den : Nat) = (num : ℝ) / den / halfPi + 1 / 2 := by
    rw [Nat.cast_add, Nat.cast_mul 2 (num * _), Nat.cast_mul num, Nat.cast_mul H, Nat.cast_mul (2 * H), Nat.cast_mul 2 H, Nat.cast_mul fixOne, Nat.cast_pow,
      Nat.cast_ofNat, hH]
    clear hscale hH hkb hk
    generalize (fixOne : ℝ) * 2 ^ 160 = S at *
    field_simp
  rw [hk, hquot] at hkb
  obtain ⟨hk1, hk2⟩ := hkb
  have hDpos : 0 < den * 2 ^ 160 := Nat.mul_pos hd (Nat.two_pow_pos _)
  obtain ⟨hlow, hhigh⟩ := floor_bounds (((num * (fixOne * 2 ^ 160) : Nat) : Int) - (k * H * den : Nat)) hDpos
  rw [Int.cast_sub, Int.cast_natCast, Int.cast_natCast] at hlow hhigh
  generalize (((num * (fixOne * 2 ^ 160) : Nat) : Int) - (k * H * den : Nat)) / (den * 2 ^ 160 : Nat) = r at *
  have hexact : (((num * (fixOne * 2 ^ 160) : Nat) : ℝ) - (k * H * den : Nat)) = fixOne * ((num : ℝ) / den - k * halfPi) * (den * 2 ^ 160 : Nat) := by
    rw [Nat.cast_mul num, Nat.cast_mul (k * H), Nat.cast_mul k, Nat.cast_mul den, Nat.cast_mul fixOne, Nat.cast_pow, Nat.cast_ofNat, hH]
    clear hscale hH hk hlow hhigh
    generalize (2 : ℝ) ^ 160 = T at *
    field_simp
  rw [hexact] at hlow hhigh
  have hD : (0 : ℝ) < (den * 2 ^ 160 : Nat) := Nat.cast_pos.2 hDpos
  refine ⟨abs_le.2 ⟨?_, ?_⟩, le_of_mul_le_mul_right hlow hD, lt_of_mul_lt_mul_right hhigh hD.le⟩
  · have := (le_div_iff₀ hh).1 (by linarith : (k : ℝ) - 1 / 2 ≤ (num : ℝ) / den / halfPi)
    linarith
  · have := (div_lt_iff₀ hh).1 (by linarith : (num : ℝ) / den / halfPi < k + 1 / 2)
    linarith

/-- The rest ρ of an angle, by its model in fine units. -/
structure Rest (r : Int) (ρ : ℝ) : Prop where
  near : |(r : ℝ) - fixOne * ρ| ≤ 2 ^ 146
  small : |ρ| ≤ 79 / 100
  sign : r < 0 ↔ ρ < 0
  ne_zero : ρ ≠ 0

theorem halfPi_bounds : 3 / 2 < halfPi ∧ halfPi < 1576 / 1000 := by
  have hpi := Real.pi_gt_d2
  have hpi' := Real.pi_lt_d2
  have hnear := abs_le.1 (halfPi_near.trans (units_le_inv_pow (k := 20) (by decide) (by norm_num)))
  norm_num at hnear hpi hpi' ⊢
  constructor <;> linarith

/-- The multiples of π / 2 and of the model's constant, as far as f32 reaches. -/
theorem multiple_near {a : ℝ} {k : Nat} (ha : a ≤ 2 ^ 128) (hsmall : |a - k * halfPi| ≤ halfPi / 2) : |k * (halfPi - Real.pi / 2)| ≤ 2 ^ 145 / fixOne := by
  obtain ⟨h1, h2⟩ := halfPi_bounds
  have hk0 : (0 : ℝ) ≤ k := Nat.cast_nonneg k
  have hkle : (k : ℝ) ≤ 2 ^ 128 := by
    have hprod := mul_le_mul_of_nonneg_left h1.le hk0
    have hbig : (4 : ℝ) ≤ 2 ^ 128 := by norm_num
    linarith [(abs_le.1 hsmall).1]
  rw [abs_mul, abs_of_nonneg hk0]
  calc (k : ℝ) * |halfPi - Real.pi / 2| ≤ 2 ^ 128 * (2 ^ 17 / fixOne) := mul_le_mul hkle halfPi_near (abs_nonneg _) (by positivity)
    _ = 2 ^ 145 / fixOne := by rw [← mul_div_assoc, ← pow_add]

/-- A truncated number has the sign of the exact one. -/
theorem neg_iff_of_floor {r : Int} {u : ℝ} (hlo : (r : ℝ) ≤ fixOne * u) (hhi : fixOne * u < r + 1) : r < 0 ↔ u < 0 := by
  have hU := fixOne_real
  constructor
  · intro hr
    have hr' : (r : ℝ) + 1 ≤ 0 := by exact_mod_cast hr
    by_contra hnn
    have := mul_nonneg hU.le (not_lt.1 hnn)
    linarith
  · intro hlt
    have := mul_neg_of_pos_of_neg hU hlt
    have hr' : (r : ℝ) < 0 := by linarith
    exact_mod_cast hr'

theorem reduceArg_rest {x : Nat} {neg : Bool} {num den : Nat} (h : Magnitude x neg num den) :
    ∃ (k : Nat) (r : Int), reduceArg num den = (k % 4, r) ∧ Rest r ((num : ℝ) / den - k * (Real.pi / 2)) := by
  obtain ⟨k, r, hred, hsmall, hlo, hhi⟩ := reduceArg_spec num h.den_pos
  refine ⟨k, r, hred, ?_⟩
  have ha0 := h.real_pos
  have ha : (num : ℝ) / den ≤ 2 ^ 128 :=
    (div_le_self (Nat.cast_nonneg _) (Nat.one_le_cast.2 h.den_pos)).trans (by exact_mod_cast h.num_lt.le)
  have hapart := fun hk => quarter_apart h (k := k) hk
  generalize (num : ℝ) / den = a at *
  have hangle := multiple_near ha hsmall
  have htiny := abs_le.1 (hangle.trans (units_le_inv_pow (k := 200) (by decide) (by norm_num)))
  have hρ : a - k * (Real.pi / 2) = (a - k * halfPi) + k * (halfPi - Real.pi / 2) := by ring
  have hρsmall : |a - k * (Real.pi / 2)| ≤ 79 / 100 := by
    have hhalf := halfPi_bounds.2
    have hstep : (1 : ℝ) / 2 ^ 200 ≤ 1 / 1000 := by norm_num
    obtain ⟨h1, h2⟩ := abs_le.1 hsmall
    rw [hρ]
    exact abs_le.2 ⟨by linarith, by linarith⟩
  have hsign : a - k * (Real.pi / 2) ≠ 0 ∧ (a - k * halfPi < 0 ↔ a - k * (Real.pi / 2) < 0) := by
    rcases Nat.eq_zero_or_pos k with rfl | hk
    · rw [Nat.cast_zero, zero_mul, zero_mul]
      exact ⟨by linarith, Iff.rfl⟩
    · have hfar := hapart hk (hρsmall.trans (by norm_num))
      have hgap : (1 : ℝ) / 2 ^ 200 < 1 / 2 ^ 196 := by norm_num
      have hpos : (0 : ℝ) < 1 / 2 ^ 200 := by positivity
      rw [hρ] at hfar ⊢
      rcases le_abs.1 hfar with h1 | h1
      · exact ⟨by linarith, iff_of_false (by linarith) (by linarith)⟩
      · exact ⟨by linarith, iff_of_true (by linarith) (by linarith)⟩
  refine ⟨?_, hρsmall, (neg_iff_of_floor hlo hhi).trans hsign.2, hsign.1⟩
  obtain ⟨h1, h2⟩ := abs_le.1 (abs_units_le hangle)
  have hone : (1 : ℝ) ≤ 2 ^ 145 := one_le_pow₀ one_le_two
  rw [hρ, mul_add, show (2 : ℝ) ^ 146 = 2 ^ 145 + 2 ^ 145 by rw [← two_mul, ← pow_succ']]
  exact abs_le.2 ⟨by linarith, by linarith⟩

/-! ### The quadrants (R113) -/

/-- Whole turns do not matter. -/
theorem sin_quarter_mod (ρ : ℝ) (q : Nat) : Real.sin (ρ + q * (Real.pi / 2)) = Real.sin (ρ + (q % 4 : Nat) * (Real.pi / 2)) := by
  have hq : (q : ℝ) = (q % 4 : Nat) + 4 * (q / 4 : Nat) := by exact_mod_cast (Nat.mod_add_div q 4).symm
  have hturn : ρ + q * (Real.pi / 2) = ρ + (q % 4 : Nat) * (Real.pi / 2) + (q / 4 : Nat) * (2 * Real.pi) := by
    rw [hq]
    ring
  rw [hturn, Real.sin_add_nat_mul_two_pi]

/-- The magnitude of a sine by the rest and the parity of the quadrant. -/
noncomputable def restMag (odd : Bool) (ρ : ℝ) : ℝ := if odd then Real.cos ρ else |Real.sin ρ|

/-- A small angle's sine has its sign. -/
theorem signed_sin {ρ : ℝ} (hρ : |ρ| ≤ 79 / 100) : (if ρ < 0 then -|Real.sin ρ| else |Real.sin ρ|) = Real.sin ρ := by
  obtain ⟨h1, h2⟩ := abs_le.1 hρ
  have hpi := Real.pi_gt_three
  split
  next h => rw [abs_of_neg (Real.sin_neg_of_neg_of_neg_pi_lt h (by linarith)), neg_neg]
  next h => rw [abs_of_nonneg (Real.sin_nonneg_of_nonneg_of_le_pi (not_lt.1 h) (by linarith))]

theorem sin_quadrant {q : Nat} {ρ : ℝ} (hρ : |ρ| ≤ 79 / 100) :
    Real.sin (ρ + q * (Real.pi / 2)) =
      if decide (2 ≤ q % 4) != (!decide (q % 4 % 2 = 1) && decide (ρ < 0)) then -restMag (decide (q % 4 % 2 = 1)) ρ else restMag (decide (q % 4 % 2 = 1)) ρ := by
  have hsigned := signed_sin hρ
  have hlt := Nat.mod_lt q (by decide : 4 > 0)
  rw [sin_quarter_mod]
  generalize q % 4 = t at *
  interval_cases t
  · simpa [restMag] using hsigned.symm
  · simpa [restMag] using Real.sin_add_pi_div_two ρ
  · have hhalf : ρ + (2 : Nat) * (Real.pi / 2) = ρ + Real.pi := by push_cast; ring
    rw [hhalf, Real.sin_add_pi, ← hsigned]
    by_cases hneg : ρ < 0 <;> simp [restMag, hneg]
  · have hhalf : ρ + (3 : Nat) * (Real.pi / 2) = ρ + Real.pi / 2 + Real.pi := by push_cast; ring
    rw [hhalf, Real.sin_add_pi, Real.sin_add_pi_div_two]
    simp [restMag]

theorem restMag_abs {ρ : ℝ} (hρ : |ρ| ≤ 79 / 100) (odd : Bool) : restMag odd ρ = if odd then Real.cos |ρ| else Real.sin |ρ| := by
  rw [restMag, Real.cos_abs, Real.abs_sin_eq_sin_abs_of_abs_le_pi (hρ.trans (by linarith [Real.pi_gt_three]))]

theorem restMag_pos {r : Int} {ρ : ℝ} (h : Rest r ρ) (odd : Bool) : 0 < restMag odd ρ := by
  have hsmall := h.small
  have hpos : 0 < |ρ| := abs_pos.2 h.ne_zero
  have hpi := Real.pi_gt_three
  rw [restMag_abs hsmall]
  cases odd with
  | true => exact Real.cos_pos_of_mem_Ioo ⟨by linarith, by linarith⟩
  | false => exact Real.sin_pos_of_pos_of_lt_pi hpos (by linarith)

/-- The model's magnitude in fine units. -/
theorem restMag_near {r : Int} {ρ : ℝ} (h : Rest r ρ) (odd : Bool) :
    |((if odd then cosFix r.natAbs else sinFix r.natAbs : Nat) : ℝ) - fixOne * restMag odd ρ| ≤ 2 ^ 147 := by
  have hU := fixOne_real
  have hnear := h.near
  have hsmall := h.small
  have habs : (r.natAbs : ℝ) = |(r : ℝ)| := by rw [Nat.cast_natAbs, Int.cast_abs]
  have hdist : |(r.natAbs : ℝ) - fixOne * abs ρ| ≤ 2 ^ 146 := by
    rw [habs, ← abs_of_pos hU, ← abs_mul]
    exact (abs_abs_sub_abs_le _ _).trans hnear
  have hfine : (2 : ℝ) ^ 175 ≤ fixOne := (div_le_one hU).1 (units_le_one le_rfl)
  have hu : (r.natAbs : ℝ) / fixOne ≤ 4 / 5 := by
    rw [div_le_iff₀ hU]
    have h1 := mul_le_mul_of_nonneg_left hsmall hU.le
    have h2 := (abs_le.1 hdist).2
    have h3 : (2 : ℝ) ^ 146 * 100 ≤ 2 ^ 175 := by norm_num
    linarith
  have hdist' : |(r.natAbs : ℝ) / fixOne - abs ρ| ≤ 2 ^ 146 / fixOne := by
    refine abs_le_units ?_
    rwa [mul_sub, mul_div_cancel₀ _ hU.ne']
  have hscale : ∀ {y z : ℝ}, |y - z| ≤ |(r.natAbs : ℝ) / fixOne - abs ρ| → |fixOne * y - fixOne * z| ≤ 2 ^ 146 := fun {y z} hyz => by
    rw [← mul_sub, abs_mul, abs_of_pos hU, mul_comm, ← le_div_iff₀ hU]
    exact hyz.trans hdist'
  have hsum : (4096 : ℝ) + 2 ^ 146 ≤ 2 ^ 147 := by norm_num
  rw [restMag_abs hsmall]
  cases odd with
  | true => exact (abs_sub_le _ _ _).trans ((add_le_add (cosFix_near hu) (hscale (Real.abs_cos_sub_cos_le _ _))).trans hsum)
  | false => exact (abs_sub_le _ _ _).trans ((add_le_add (sinFix_near hu) (hscale (Real.abs_sin_sub_sin_le _ _))).trans hsum)

/-- The model's sine of an angle given by its quadrant and rest rounds to a rounding of the exact one. -/
theorem sinQuad_rounds {r : Int} {ρ : ℝ} (h : Rest r ρ) (q : Nat) (neg : Bool) :
    RoundsReal (if neg then -Real.sin (ρ + q * (Real.pi / 2)) else Real.sin (ρ + q * (Real.pi / 2))) (fF32.result .rn false false (sinQuad q r neg)) := by
  have hval : sinQuad q r neg = between ((decide (2 ≤ q % 4) != (!decide (q % 4 % 2 = 1) && decide (ρ < 0))) != neg)
      (if decide (q % 4 % 2 = 1) then cosFix r.natAbs else sinFix r.natAbs) := by
    have hsign : decide (r < 0) = decide (ρ < 0) := decide_eq_decide.2 h.sign
    simp only [sinQuad, hsign, decide_eq_true_eq]
  have hpos := restMag_pos h (decide (q % 4 % 2 = 1))
  have hnear := middle_near (restMag_near h (decide (q % 4 % 2 = 1)))
  rw [hval, sin_quadrant h.small]
  generalize (decide (2 ≤ q % 4) != (!decide (q % 4 % 2 = 1) && decide (ρ < 0))) = s
  generalize (if decide (q % 4 % 2 = 1) = true then cosFix r.natAbs else sinFix r.natAbs) = k at *
  generalize restMag (decide (q % 4 % 2 = 1)) ρ = M at *
  have hfold : (if neg then -(if s then -M else M) else if s then -M else M) = if s != neg then -M else M := by
    cases neg <;> cases s <;> simp
  obtain ⟨he, hp⟩ := exactVal_between (s != neg) k
  rw [hfold]
  refine roundsReal_of_exactVal hp he ?_ ?_
  · rw [abs_ite_sub, withNeg_withNeg, middle_eq]
    exact hnear.trans (units_le (by norm_num))
  · cases s != neg with
    | true => simpa using hpos
    | false => simpa using hpos.le

/-! ### Sine and cosine of finite codes -/

section
variable {x : Nat} (hx : finiteCode 0 x) (h0 : codeValue 0 x ≠ 0)
include hx h0

theorem sin_rounds : RoundsReal (Real.sin (codeValue 0 x)) (fF32.result .rn false false (sfuSin (fF32.value x))) := by
  obtain ⟨neg, num, den, h⟩ := magnitude_of_finite hx h0
  obtain ⟨k, r, hred, hrest⟩ := reduceArg_rest h
  have hangle : Real.sin (codeValue 0 x) = if neg then -Real.sin ((num : ℝ) / den - k * (Real.pi / 2) + (k % 4 : Nat) * (Real.pi / 2))
      else Real.sin ((num : ℝ) / den - k * (Real.pi / 2) + (k % 4 : Nat) * (Real.pi / 2)) := by
    rw [← sin_quarter_mod, sub_add_cancel, h.number_real]
    cases neg with
    | true => exact Real.sin_neg _
    | false => rfl
  rw [h.value, sfuSin, if_neg h.num_pos.ne', hred, hangle]
  exact sinQuad_rounds hrest _ neg

theorem cos_rounds : RoundsReal (Real.cos (codeValue 0 x)) (fF32.result .rn false false (sfuCos (fF32.value x))) := by
  obtain ⟨neg, num, den, h⟩ := magnitude_of_finite hx h0
  obtain ⟨k, r, hred, hrest⟩ := reduceArg_rest h
  have hangle : Real.cos (codeValue 0 x) = Real.sin ((num : ℝ) / den - k * (Real.pi / 2) + (k % 4 + 1 : Nat) * (Real.pi / 2)) := by
    have hcos : Real.cos (codeValue 0 x) = Real.cos ((num : ℝ) / den) := by
      rw [h.number_real]
      cases neg with
      | true => exact Real.cos_neg _
      | false => rfl
    have hsame : Real.sin ((num : ℝ) / den - k * (Real.pi / 2) + (k % 4 + 1 : Nat) * (Real.pi / 2)) =
        Real.sin ((num : ℝ) / den - k * (Real.pi / 2) + (k + 1 : Nat) * (Real.pi / 2)) := by
      rw [sin_quarter_mod, sin_quarter_mod _ (k + 1), show (k % 4 + 1) % 4 = (k + 1) % 4 by omega]
    rw [hcos, hsame, ← Real.sin_add_pi_div_two]
    congr 1
    push_cast
    ring
  rw [h.value, sfuCos, if_neg h.num_pos.ne', hred, hangle]
  exact sinQuad_rounds hrest (k % 4 + 1) false

end

end Sys2Proof.Laws.Trigonometric

namespace Sys2Proof.Laws.SpecialFunctions
open Sys2Proof Sys2Proof.Machine Sys2Proof.Claims

/-- Settles O9: each function is computed to far below the margin (reciprocals and roots in whole numbers, the others by power series in fixed point with
constants bounded by the same series), and a value that near its real number rounds to a rounding of it (`roundsReal_of_near`). -/
theorem specialFunctionValues : Obligations.SpecialFunctionValues :=
  List.forall_mem_cons.2 ⟨fun _ hx h0 _ => Roots.rcp_rounds hx h0, List.forall_mem_cons.2 ⟨fun _ hx h0 hp => Roots.rsq_rounds hx h0 (hp rfl),
    List.forall_mem_cons.2 ⟨fun _ hx h0 hp => Roots.sqrt_rounds hx h0 (hp rfl), List.forall_mem_cons.2 ⟨fun _ hx h0 hp => Logarithm.lg2_rounds hx h0 (hp rfl),
    List.forall_mem_cons.2 ⟨fun _ hx h0 _ => PowersOfTwo.ex2_rounds hx h0, List.forall_mem_cons.2 ⟨fun _ hx h0 _ => Trigonometric.sin_rounds hx h0,
    List.forall_mem_cons.2 ⟨fun _ hx h0 _ => Trigonometric.cos_rounds hx h0, List.forall_mem_cons.2 ⟨fun _ hx h0 _ => HyperbolicTangent.tanh_rounds hx h0,
    List.forall_mem_nil _⟩⟩⟩⟩⟩⟩⟩⟩

end Sys2Proof.Laws.SpecialFunctions
